-- ==== Sys2Proof/Word.lean ====
section
/-! DEFINITION. The word types of the Trigrim 96 model: bytes, 32-bit float encodings and the
32-bit words of the tallies and of Morip-128. Everything a later finding could mend stands in
Sys2Proof/Machine. -/

namespace Sys2Proof

/-- One byte of the device's memories and of its frames. -/
abbrev Byte := BitVec 8

/-- A 32-bit word: a tally (R47), a Morip-128 word (R426). -/
abbrev Word := BitVec 32

/-- An FP32 encoding (R59). -/
abbrev F32 := BitVec 32

/-- A byte string, in ascending address. -/
abbrev Bytes := List Byte

end Sys2Proof
end

