-- ==== Sys2Proof/Syntax.lean ====
section
/-! DEFINITION. The commands of the Trigrim 96 block, one constructor per row of
spec/opcode_table.json, with the operand types they carry. -/

namespace Sys2Proof

/-- A logical core number (R14). -/
abbrev Core := Fin 48
/-- A physical core number (R13). -/
abbrev Phys := Fin 52
/-- A fabric port number (R384). -/
abbrev Port := Fin 32
/-- An HBM stack number (R11). -/
abbrev Stack := Fin 8
/-- A die of the telemetry numbering: `CD0` to `CD3`, `IO0`, `IO1` (R485). -/
abbrev Die := Fin 6
/-- A compute die (R11). -/
abbrev CDie := Fin 4
/-- An island ID (R23). -/
abbrev Island := BitVec 8
/-- A replaceable program kind 1 to 9, held as kind - 1 (R479). -/
abbrev Kind := Fin 9

/-- A direction of a port (R384). -/
inductive Dir where
  | tx | rx
  deriving DecidableEq, Repr

/-- What an ECC check of one word finds (R338, R339, R341, R360). -/
inductive WordCheck where
  | clean | correctable | uncorrectable
  deriving DecidableEq, Repr

/-- A cache hint of R116. -/
inductive Hint where
  | normal | stream | keep | last
  deriving DecidableEq, Repr

/-- A requester of the object dictionary: an address and UDP port, or a peer module (R462, R472). -/
inductive Source where
  | host (addr : Nat) (port : BitVec 16)
  | peer (node : BitVec 16)
  deriving DecidableEq, Repr

/-- The key hash and signature that follow a signed frame's payload (R461). -/
structure Auth where
  keyHash : BitVec 256
  signature : Bytes
  deriving DecidableEq, Repr

/-- The header of an Ivwidin request (R461), less the index and subindex, which the command names. -/
structure FrameHead where
  iver : BitVec 8
  iop : BitVec 8
  iflags : BitVec 16
  iseq : BitVec 32
  istatus : BitVec 8
  ioffset : BitVec 64
  ilen : BitVec 16
  rsv : BitVec 16
  auth : Option Auth
  deriving DecidableEq, Repr

/-- A flit as received with a passing CRC (R387), less its type, which the command names. -/
structure Flit where
  vc : Fin 4
  ack : Option (BitVec 16)
  cred : Option (Fin 4 × Nat)
  seq : BitVec 16
  dst : BitVec 16
  src : BitVec 16
  epoch : BitVec 32
  hopptr : Nat
  path : BitVec 60
  xinfo : BitVec 32
  payload : Bytes
  deriving DecidableEq, Repr

/-- What is found in one program store at a release of reset (R534): which copies fail the checks of R517, whether
Silelm's public key matches its fuse, and whether the customer's can be read. -/
structure StoreChecks where
  badCurrent : List Kind
  badPrevious : List Kind
  vendorKeyOk : Bool
  customerKeyOk : Bool
  deriving DecidableEq, Repr

/-- What a release of reset finds (R528, R534): whether `REFCLK` runs, and the stores of management islands A and
B. -/
structure BootChecks where
  refclk : Bool
  a : StoreChecks
  b : StoreChecks
  deriving DecidableEq, Repr

/-- A lane's eye in a margin scan (R348): the extents of the largest zero-error rectangles, and their
centres in steps of delay and of reference voltage. -/
structure LaneEye where
  readWidth : BitVec 8
  readHeight : BitVec 8
  writeWidth : BitVec 8
  writeHeight : BitVec 8
  readDelay : BitVec 6
  readVref : BitVec 6
  writeDelay : BitVec 6
  writeVref : BitVec 6
  deriving DecidableEq, Repr

/-- A scan of one stack (R348): the eye of every lane, those of `others` apart. -/
structure StackScan where
  eye : LaneEye
  others : List (Fin 256 × LaneEye)
  deriving DecidableEq, Repr

/-- What bring-up finds (R530, R536, R537). -/
structure BringupResult where
  /-- the scan of every stack (R348, R537). -/
  scans : Vector StackScan 8
  /-- the stacks that cannot be repaired. -/
  unrepairable : List Stack
  clearFail : Option (BitVec 48)
  coreFail : List Phys
  ms : Nat
  deriving DecidableEq, Repr

/-- How flits fail at a port (R386, R389): a flit of a block that was decoded, as its 256 bytes stand; or the symbol
errors of a block, by codeword and physical order of the eight active lanes, which its codewords correct or not. -/
inductive BadFlit where
  | flit (raw : Bytes)
  | block (errors : Vector (Vector Nat 8) 4)
  deriving DecidableEq, Repr

/-- A standing condition of R375. -/
inductive WatchCondition where
  | crossing (sender receiver : Island) (recno : Nat) (since : Nat)
  | credit (c : Core) (recno : Nat)
  | engine (c : Core) (recno : Nat) (since : Nat)
  deriving DecidableEq, Repr

/-- Readings of R484-R485, as FP32 encodings. -/
structure Telemetry where
  inputV : F32
  inputA : F32
  inputW : F32
  energyMj : Nat
  intermediateV : F32
  dieTemp : List F32
  coolantIn : F32
  coolantOut : F32
  railW : List F32
  engineBusy : List F32
  hbmRead : F32
  hbmWrite : F32
  portTx : List F32
  deriving DecidableEq, Repr

/-- An access through the IEEE 1687 network (R514): an island's state instrument, or a die's
memory-access instrument at a 48-bit address. -/
inductive IjtagAccess where
  | island (i : Island)
  | memory (d : CDie) (addr : BitVec 48)
  deriving DecidableEq, Repr

/-- A neighbour protocol request of R450, with the address it asks for or is sent to. -/
inductive Neighbour where
  | arp (target : BitVec 32)
  | neighbourSolicitation (target : BitVec 128)
  | icmpEcho (target : BitVec 32)
  | icmpv6Echo (target : BitVec 128)
  deriving DecidableEq, Repr

/-- A RoCEv2 request packet (R452): the queue pair it names, and whether IP ECN marks congestion. -/
structure Packet where
  qp : Nat
  ecn : Bool
  deriving DecidableEq, Repr

/-- The entries kept per source (R472, R490). -/
inductive Selector where
  | numeric | pred | pool | eventFrom
  deriving DecidableEq, Repr

/-- The tags arriving with operand data (R53, R54). `newPass` says that the one-bit pass tag of dense-array data
differs from the last one the partition's cells saw, which is what the cells act on (R152; DEDUCED, log entry 144). -/
structure DataTags where
  mbtag : BitVec 16
  worktag : BitVec 32
  version : BitVec 32
  newPass : Bool
  deriving DecidableEq, Repr

/-- Where a record's attempt met a hardware fault (R158, R228, R254, R281, R323, R338-R340, R408). -/
inductive FaultKind where
  /-- checksum mismatch of a dense pass: array, partition, and what the failed checks name: the column where
  the row check failed, the streamed vector where the column check did (R165). -/
  | checksum (array : Fin 4) (partition : Fin 4) (column : Option (BitVec 8)) (vector : Option (BitVec 32))
  /-- uncorrectable ECC error in engine state, with the array of a dense record (R158, R172, R228, R254, R281,
  R323, R408). -/
  | engineState (array : Fin 4)
  /-- uncorrectable ECC error in an operand word, whether it is still so when re-read, and the array of a dense
  record (R158, R172, R340). -/
  | operand (addr : BitVec 48) (lost : Bool) (array : Fin 4)
  /-- a corrected error in a word delivered to the record (R338, R339). -/
  | corrected (addr : BitVec 48)
  /-- uncorrectable word in a line of the die-shared cache (R338). -/
  | cacheLine (addr : BitVec 48)
  /-- uncorrectable fetch of a descriptor (R360). -/
  | descriptor
  deriving DecidableEq, Repr

/-- One member's contribution to this member's shard of a reduce-scatter: FP32 or INT32 encodings
with the saturation and overflow bits of its status plane, an element `none` when the part holds
no present segment, and the block of 2²⁸ global segments that holds the part (R95, R97, R403). -/
structure PartIn where
  block : Nat
  values : List (Option (BitVec 32))
  sat : List Bool
  ovf : List Bool
  deriving DecidableEq, Repr

/-- What one member of a group sends another in a stage of a collective record (R403, R404): a node of the tree of a
shard, named by its first part, or the shard itself, packed. -/
structure Piece where
  shard : Nat
  part : Nat
  node : PartIn
  bytes : Bytes
  deriving DecidableEq, Repr

/-- The commands of the block: one constructor per row of spec/opcode_table.json. -/
inductive Instr where
  /-- `PWR_EN_ASSERT` (R528). -/
  | pwrEnAssert (railFault : Bool)
  /-- `PWR_EN_DEASSERT` (R532). -/
  | pwrEnDeassert
  /-- `RESET_N_ASSERT` (R532). -/
  | resetNAssert
  /-- `RESET_N_RELEASE` (R528). -/
  | resetNRelease (b : BootChecks)
  /-- `BRINGUP_COMPLETE` (R530). -/
  | bringupComplete (b : BringupResult)
  /-- `BRINGUP_TIMEOUT` (R530). -/
  | bringupTimeout
  /-- `UNDERVOLTAGE_STOP` (R522). -/
  | undervoltageStop
  /-- `OVERVOLTAGE_LOCKOUT` (R522). -/
  | overvoltageLockout
  /-- `OVER_CURRENT_TRIP` (R522). -/
  | overCurrentTrip
  /-- `INPUT_VOLTAGE_OUT_OF_RANGE` (R522). -/
  | inputVoltageOutOfRange
  /-- `INPUT_POWER_HIGH` (R522). -/
  | inputPowerHigh
  /-- `COOLANT_INLET_HIGH` (R523). -/
  | coolantInletHigh
  /-- `DIE_TEMP_WARNING` (R524). -/
  | dieTempWarning (d : Die)
  /-- `DIE_TRIP` (R524). -/
  | dieTrip (d : Die)
  /-- `STACK_TRIP` (R347). -/
  | stackTrip (h : Stack)
  /-- `PLL_LOCK_LOST` (R25). -/
  | pllLockLost (i : Island)
  /-- `FREEZE_N_ASSERT` (R510). -/
  | freezeNAssert
  /-- `FREEZE_N_DEASSERT` (R513). -/
  | freezeNDeassert
  /-- `SYNC_IN_PULSE` (R437). -/
  | syncInPulse
  /-- `TAP_RESET` (R514). -/
  | tapReset
  /-- `TAP_BYPASS` (R514). -/
  | tapBypass (ir : BitVec 8)
  /-- `TAP_IDCODE` (R514). -/
  | tapIdcode
  /-- `TAP_IJTAG` (R514). -/
  | tapIjtag (a : IjtagAccess)
  /-- `HBM_TEMP_READING` (R344). -/
  | hbmTempReading (h : Stack) (t : F32)
  /-- `HOLD_SEND` (R345). -/
  | holdSend
  /-- `SRAM_SCRUB` (R341). -/
  | sramScrub (addr : Nat) (w : WordCheck)
  /-- `HBM_SCRUB` (R341). -/
  | hbmScrub (addr : Nat) (w : WordCheck)
  /-- `SPARE_SELF_TEST` (R538). -/
  | spareSelfTest (d : CDie) (pass : Bool)
  /-- `MARGIN_DRIFT_PROBE` (R350). -/
  | marginDriftProbe (h : Stack) (pc : Fin 64) (lowErr : Bool) (highErr : Bool)
  /-- `LASER_INPUT_MEASURE` (R385). -/
  | laserInputMeasure (i : Fin 8) (dbm : F32)
  /-- `KEEPALIVE_SEND` (R409). -/
  | keepaliveSend (p : Port)
  /-- `PORT_SILENCE` (R409). -/
  | portSilence (p : Port)
  /-- `PORT_UP` (R419). -/
  | portUp (p : Port) (node : BitVec 16) (peer : Port)
  /-- `TIME_FLIT_SEND` (R434). -/
  | timeFlitSend (p : Port)
  /-- `GC_HOLDOVER` (R435). -/
  | gcHoldover
  /-- `GC_UNLOCKED` (R435). -/
  | gcUnlocked
  /-- `GC_DOMAIN_ALIGN` (R438). -/
  | gcDomainAlign (p : Port)
  /-- `LOSS_WINDOW_EXPIRY` (R411). -/
  | lossWindowExpiry (node : BitVec 16)
  /-- `WATCHDOG_EXPIRY` (R375). -/
  | watchdogExpiry (w : WatchCondition)
  /-- `STEP_OVERTIME` (R377). -/
  | stepOvertime
  /-- `MGMT_TAKEOVER` (R501). -/
  | mgmtTakeover
  /-- `MGMT_BOTH_SILENT` (R501). -/
  | mgmtBothSilent
  /-- `SEG_TRANSFER_TIMEOUT` (R463). -/
  | segTransferTimeout (idx : BitVec 16) (sub : BitVec 8)
  /-- `SNAPSHOT_EXPIRY` (R463). -/
  | snapshotExpiry (src : Source) (idx : BitVec 16) (sub : BitVec 8)
  /-- `LANE_LOCK_LOST` (R391). -/
  | laneLockLost (p : Port) (lane : Fin 8)
  /-- `LANE_SWAP_AT_BLOCK` (R392). -/
  | laneSwapAtBlock (p : Port) (d : Dir)
  /-- `LANE_RETEST_DONE` (R393). -/
  | laneRetestDone (p : Port) (d : Dir) (lane : Fin 9) (pass : Bool)
  /-- `TRANSIENT_BIN_ROLL` (R497). -/
  | transientBinRoll
  /-- `TELEMETRY_REFRESH` (R484). -/
  | telemetryRefresh (t : Telemetry)
  /-- `FREEZE_COUNT_REACHED` (R511). -/
  | freezeCountReached
  /-- `CAPTURE_TIMEOUT` (R511). -/
  | captureTimeout
  /-- `FLIT_CRC_FAIL` (R386, R389). -/
  | flitCrcFail (p : Port) (bad : BadFlit)
  /-- `IDLE` (R388). -/
  | idle (p : Port) (f : Flit)
  /-- `WRITE_HEAD` (R398). -/
  | writeHead (p : Port) (f : Flit)
  /-- `DATA` (R398). -/
  | data (p : Port) (f : Flit)
  /-- `WRITE_ACK` (R398). -/
  | writeAck (p : Port) (f : Flit)
  /-- `TALLY` (R399). -/
  | tally (p : Port) (f : Flit)
  /-- `KEEPALIVE` (R409). -/
  | keepalive (p : Port) (f : Flit)
  /-- `TIME` (R434). -/
  | time (p : Port) (f : Flit)
  /-- `AGREE` (R407). -/
  | agree (p : Port) (f : Flit)
  /-- `HOLD` (R414). -/
  | hold (p : Port) (f : Flit)
  /-- `FREEZE` (R415). -/
  | freeze (p : Port) (f : Flit)
  /-- `FROZEN` (R415). -/
  | frozen (p : Port) (f : Flit)
  /-- `LOSS` (R411). -/
  | loss (p : Port) (f : Flit)
  /-- `DYING_GASP` (R416). -/
  | dyingGasp (p : Port) (f : Flit)
  /-- `MGMT` (R464). -/
  | mgmt (p : Port) (f : Flit)
  /-- `NAK` (R389). -/
  | nak (p : Port) (f : Flit)
  /-- `LANECTL` (R392). -/
  | lanectl (p : Port) (f : Flit)
  /-- `ABORT` (R417). -/
  | abort (p : Port) (f : Flit)
  /-- `FLIT_RESERVED_TYPE` (R388). -/
  | flitReservedType (p : Port) (ftype : BitVec 8) (f : Flit)
  /-- `HOST_LINK_DOWN` (R451). -/
  | hostLinkDown
  /-- `HOST_LINK_UP` (R451). -/
  | hostLinkUp
  /-- `HOST_FRAME_DISCARD` (R450). -/
  | hostFrameDiscard
  /-- `NEIGHBOUR_REPLY` (R450). -/
  | neighbourReply (n : Neighbour)
  /-- `RDMA_READ` (R454). -/
  | rdmaRead (pkt : Packet) (rkey : BitVec 32) (va : Nat) (len : Nat)
  /-- `RDMA_WRITE` (R454). -/
  | rdmaWrite (pkt : Packet) (rkey : BitVec 32) (va : Nat) (bytes : Bytes)
  /-- `RDMA_COMPARE_SWAP` (R459). -/
  | rdmaCompareSwap (pkt : Packet) (rkey : BitVec 32) (va : Nat) (cmp : BitVec 64) (swp : BitVec 64)
  /-- `RDMA_UNSUPPORTED` (R452). -/
  | rdmaUnsupported (pkt : Packet) (op : BitVec 8)
  /-- `IVWIDIN_READ` (R461). -/
  | ivwidinRead (src : Source) (h : FrameHead) (idx : BitVec 16) (sub : BitVec 8) (payload : Bytes)
  /-- `IVWIDIN_WRITE` (R470). -/
  | ivwidinWrite (src : Source) (h : FrameHead) (idx : BitVec 16) (sub : BitVec 8) (payload : Bytes)
  /-- `SEG_READ` (R463). -/
  | segRead (src : Source) (h : FrameHead) (idx : BitVec 16) (sub : BitVec 8) (payload : Bytes)
  /-- `SEG_WRITE` (R463). -/
  | segWrite (src : Source) (h : FrameHead) (idx : BitVec 16) (sub : BitVec 8) (payload : Bytes)
  /-- `ATTEST` (R540). -/
  | attest (src : Source) (h : FrameHead) (nonce : Bytes)
  /-- `RWS_STAGE_WRITE` (R474). -/
  | rwsStageWrite (src : Source) (h : FrameHead) (idx : BitVec 16) (sub : BitVec 8) (payload : Bytes)
  /-- `SELECTOR_WRITE` (R472). -/
  | selectorWrite (src : Source) (h : FrameHead) (sel : Selector) (payload : Bytes)
  /-- `PLAN_STAGE` (R40). -/
  | planStage (src : Source) (h : FrameHead) (payload : Bytes)
  /-- `LAUNCH_GC` (R440). -/
  | launchGc (src : Source) (h : FrameHead) (payload : Bytes)
  /-- `NODE_ID` (R481). -/
  | nodeId (src : Source) (h : FrameHead) (payload : Bytes)
  /-- `MARGIN_START` (R349). -/
  | marginStart (src : Source) (h : FrameHead) (payload : Bytes)
  /-- `MARGIN_SCAN_DONE` (R348). -/
  | marginScanDone (results : Vector StackScan 8)
  /-- `FREEZE_REQUEST_CAPTURE` (R510). -/
  | freezeRequestCapture (src : Source) (h : FrameHead)
  /-- `FREEZE_REQUEST_FULL` (R510). -/
  | freezeRequestFull (src : Source) (h : FrameHead)
  /-- `FREEZE_AT_GC` (R510). -/
  | freezeAtGc (src : Source) (h : FrameHead) (payload : Bytes)
  /-- `FREEZE_RELEASE` (R513). -/
  | freezeRelease (src : Source) (h : FrameHead) (payload : Bytes)
  /-- `CAPTURE_READOUT` (R512). -/
  | captureReadout (src : Source) (h : FrameHead) (islands : Bool) (payload : Bytes)
  /-- `CKPT_RESTORE` (R507). -/
  | ckptRestore (src : Source) (h : FrameHead) (payload : Bytes)
  /-- `SPARE_REQUEST` (R499). -/
  | spareRequest (src : Source) (h : FrameHead) (payload : Bytes)
  /-- `UPDATE_STAGE` (R517). -/
  | updateStage (src : Source) (h : FrameHead) (kind : Kind) (payload : Bytes)
  /-- `PROGRAM_PIN` (R518). -/
  | programPin (src : Source) (h : FrameHead) (kind : Kind) (payload : Bytes)
  /-- `STAGE_DISCARD` (R477). -/
  | stageDiscard (src : Source) (h : FrameHead) (payload : Bytes)
  /-- `EVENT_LOG_CLEAR` (R490). -/
  | eventLogClear (src : Source) (h : FrameHead) (payload : Bytes)
  /-- `CUSTOMER_KEY_PROGRAM` (R539). -/
  | customerKeyProgram (src : Source) (h : FrameHead) (payload : Bytes)
  /-- `CUSTOMER_KEY_REVOKE` (R539). -/
  | customerKeyRevoke (src : Source) (h : FrameHead) (payload : Bytes)
  /-- `PRED_POLICY` (R276). -/
  | predPolicy (src : Source) (h : FrameHead) (layer : BitVec 8) (payload : Bytes)
  /-- `REPLAY_TAP` (R431). -/
  | replayTap (src : Source) (h : FrameHead) (tap : Fin 16) (payload : Bytes)
  /-- `QP_TABLE` (R452). -/
  | qpTable (src : Source) (h : FrameHead) (payload : Bytes)
  /-- `AGREE_CONTRIBUTE` (R442). -/
  | agreeContribute
  /-- `AGREE_ATTEMPT_END` (R444). -/
  | agreeAttemptEnd
  /-- `AGREE_RETRY_TIMER` (R444). -/
  | agreeRetryTimer
  /-- `STEP_LAUNCH` (R446). -/
  | stepLaunch
  /-- `RECORD_ISSUE` (R51). -/
  | recordIssue (c : Core)
  /-- `SHEAF_FETCH` (R358). -/
  | sheafFetch (e : Fin 8) (j : Nat) (w : WordCheck)
  /-- `CREDIT_GRANT` (R366). -/
  | creditGrant (c : Core) (r : Nat)
  /-- `DATA_ARRIVAL` (R54). -/
  | dataArrival (c : Core) (r : Nat) (t : DataTags)
  /-- `FEED_READ_LANDED` (R380). -/
  | feedReadLanded (c : Core) (r : Nat) (addr : Nat) (hint : Hint)
  /-- `CHAIN_TILE_FORWARD` (R373). -/
  | chainTileForward (c : Core) (r : Nat)
  /-- `LOAD_INTERLOCK_RELEASE` (R153). -/
  | loadInterlockRelease (c : Core) (r : Nat) (held : Nat)
  /-- `RECORD_COMPLETE` (R48). -/
  | recordComplete (c : Core) (r : Nat)
  /-- `SIGNAL_ARRIVAL` (R50). -/
  | signalArrival (k : Nat)
  /-- `STEP_COMPLETE` (R52). -/
  | stepComplete
  /-- `RECORD_FAULT` (R495). -/
  | recordFault (c : Core) (r : Nat) (k : FaultKind)
  /-- `SPARE_COPY_DONE` (R499). -/
  | spareCopyDone (l : Core)
  /-- `NO_OPERATION` (R44). -/
  | noOperation (c : Core) (r : Nat)
  /-- `REGEN_GATE` (R302). -/
  | regenGate (c : Core) (r : Nat)
  /-- `MATRIX_PRODUCT_MULTIPLY_ADD` (R163). -/
  | matrixProductMultiplyAdd (c : Core) (r : Nat)
  /-- `SQUARED_L2_DISTANCE` (R160). -/
  | squaredL2Distance (c : Core) (r : Nat)
  /-- `L1_DISTANCE` (R160). -/
  | l1Distance (c : Core) (r : Nat)
  /-- `MAX_PLUS` (R160). -/
  | maxPlus (c : Core) (r : Nat)
  /-- `MIN_PLUS` (R160). -/
  | minPlus (c : Core) (r : Nat)
  /-- `COMPARE_AND_COUNT` (R162). -/
  | compareAndCount (c : Core) (r : Nat)
  /-- `BLK16_PRODUCT` (R167). -/
  | blk16Product (c : Core) (r : Nat)
  /-- `BRT_K_PRODUCT` (R204). -/
  | brtKProduct (c : Core) (r : Nat)
  /-- `CSR_T_PRODUCT` (R211). -/
  | csrTProduct (c : Core) (r : Nat)
  /-- `SAMPLED_PRODUCT` (R213). -/
  | sampledProduct (c : Core) (r : Nat)
  /-- `GATHER` (R216). -/
  | gather (c : Core) (r : Nat)
  /-- `SCATTER_ADD` (R222). -/
  | scatterAdd (c : Core) (r : Nat)
  /-- `EXPERT_DISPATCH` (R224). -/
  | expertDispatch (c : Core) (r : Nat)
  /-- `EXPERT_COMBINE` (R226). -/
  | expertCombine (c : Core) (r : Nat)
  /-- `TABLE_FUNCTION` (R306). -/
  | tableFunction (c : Core) (r : Nat)
  /-- `DERIVATIVE_TABLE` (R308). -/
  | derivativeTable (c : Core) (r : Nat)
  /-- `DERIVATIVE_HUSK` (R308). -/
  | derivativeHusk (c : Core) (r : Nat)
  /-- `ELEMENT_ADD` (R307). -/
  | elementAdd (c : Core) (r : Nat)
  /-- `ELEMENT_SUBTRACT` (R307). -/
  | elementSubtract (c : Core) (r : Nat)
  /-- `ELEMENT_MULTIPLY` (R307). -/
  | elementMultiply (c : Core) (r : Nat)
  /-- `ELEMENT_DIVIDE` (R307). -/
  | elementDivide (c : Core) (r : Nat)
  /-- `ELEMENT_MAXIMUM` (R307). -/
  | elementMaximum (c : Core) (r : Nat)
  /-- `ELEMENT_MINIMUM` (R307). -/
  | elementMinimum (c : Core) (r : Nat)
  /-- `ELEMENT_SQUARE_ROOT` (R307). -/
  | elementSquareRoot (c : Core) (r : Nat)
  /-- `ELEMENT_LOGARITHM` (R307). -/
  | elementLogarithm (c : Core) (r : Nat)
  /-- `ELEMENT_COMPARE` (R307). -/
  | elementCompare (c : Core) (r : Nat)
  /-- `REDUCE_SUM` (R107). -/
  | reduceSum (c : Core) (r : Nat)
  /-- `REDUCE_MEAN` (R107). -/
  | reduceMean (c : Core) (r : Nat)
  /-- `REDUCE_MAXIMUM` (R107). -/
  | reduceMaximum (c : Core) (r : Nat)
  /-- `REDUCE_MINIMUM` (R107). -/
  | reduceMinimum (c : Core) (r : Nat)
  /-- `DROPOUT_MASK` (R309). -/
  | dropoutMask (c : Core) (r : Nat)
  /-- `OPTIMIZER_MOMENTUM_SGD` (R315). -/
  | optimizerMomentumSgd (c : Core) (r : Nat)
  /-- `OPTIMIZER_ADAM` (R315). -/
  | optimizerAdam (c : Core) (r : Nat)
  /-- `OPTIMIZER_ADAMW` (R315). -/
  | optimizerAdamw (c : Core) (r : Nat)
  /-- `COMPOSE` (R294). -/
  | compose (c : Core) (r : Nat)
  /-- `PREDICT` (R268). -/
  | predict (c : Core) (r : Nat)
  /-- `CHECK` (R271). -/
  | check (c : Core) (r : Nat)
  /-- `MERGE` (R274). -/
  | merge (c : Core) (r : Nat)
  /-- `REFERENCE_COUNT` (R277). -/
  | referenceCount (c : Core) (r : Nat)
  /-- `COPY` (R133). -/
  | copy (c : Core) (r : Nat)
  /-- `TRANSPOSE_COPY` (R134). -/
  | transposeCopy (c : Core) (r : Nat)
  /-- `STASH_WRITE` (R299). -/
  | stashWrite (c : Core) (r : Nat)
  /-- `STASH_READ` (R301). -/
  | stashRead (c : Core) (r : Nat)
  /-- `PREFETCH` (R379). -/
  | prefetch (c : Core) (r : Nat)
  /-- `CANCEL` (R380). -/
  | cancel (c : Core) (r : Nat)
  /-- `SCORE_GRADIENT` (R239). -/
  | scoreGradient (c : Core) (r : Nat)
  /-- `SCORE_RANDOM` (R239). -/
  | scoreRandom (c : Core) (r : Nat)
  /-- `SELECT` (R243). -/
  | select (c : Core) (r : Nat)
  /-- `REBUILD_APPLY` (R244). -/
  | rebuildApply (c : Core) (r : Nat)
  /-- `REBUILD_CONVERT` (R248). -/
  | rebuildConvert (c : Core) (r : Nat)
  /-- `MASK_COMMIT_RECORD` (R251). -/
  | maskCommitRecord (c : Core) (r : Nat)
  /-- `SYNC` (R249). -/
  | sync (c : Core) (r : Nat)
  /-- `REDUCE_SCATTER` (R403). -/
  | reduceScatter (c : Core) (r : Nat) (parts : List PartIn)
  /-- `ALL_GATHER` (R404). -/
  | allGather (c : Core) (r : Nat) (shards : List Bytes)
  /-- `ALL_TO_ALL_DISPATCH` (R405). -/
  | allToAllDispatch (c : Core) (r : Nat) (sections : List Bytes)
  /-- `ALL_TO_ALL_RETURN` (R405). -/
  | allToAllReturn (c : Core) (r : Nat) (sections : List Bytes)
  /-- `COLLECTIVE_STAGE_END` (R406). -/
  | collectiveStageEnd (c : Core) (r : Nat)
  /-- `SHARD_STREAM` (R504). -/
  | shardStream (c : Core) (r : Nat)
  /-- `SHARD_VERIFY` (R504). -/
  | shardVerify (c : Core) (r : Nat)
  /-- `UNDERVOLTAGE_LOCKOUT_EXIT` (R522). -/
  | undervoltageLockoutExit
  /-- `OVERVOLTAGE_LOCKOUT_EXIT` (R522). -/
  | overvoltageLockoutExit
  /-- `DISCRETE_INPUT_IGNORED` (R526). -/
  | discreteInputIgnored (i : Fin 3)
  /-- `CKPT_RESTORE_DONE` (R507). -/
  | ckptRestoreDone (pulled : Option Bytes)
  /-- `STANDBY_READY` (R519). -/
  | standbyReady
  deriving DecidableEq, Repr

end Sys2Proof
end

