-- ==== Sys2Proof/Decode.lean ====
section
/-! DEFINITION. Commands spelt by the bits of spec/opcode_table.json: no row of the table gives
bits, so no word spells a command (log entry 3). -/

namespace Sys2Proof

/-- The command a word of `nbits` bits spells: none, since the table gives no row any bits. -/
def decodeTableWord (_nbits _w : Nat) : Option Instr := none

end Sys2Proof
end

