-- ==== Sys2Proof/Config.lean ====
section
/-! DEFINITION. What an implementation fixes and the spec leaves open: free values without a body. -/

namespace Sys2Proof

/-- Whether an ML-DSA-44 signature verifies over a digest under the public key with the given
SHA3-256 hash. FREE VALUE (log entry 6): the algorithm is FIPS 204's and stands outside the spec. -/
opaque Config.verify : (keyHash : BitVec 256) → (digest : BitVec 256) → (signature : Bytes) → Bool

/-- Byte `i` of the identity key's signature over a digest (R540). FREE VALUE (log entry 6). -/
opaque Config.signByte : (digest : BitVec 256) → (i : Nat) → Byte

/-- Draw `n` of the device's hardware random source (R493). FREE VALUE (log entry 6). -/
opaque Config.randomWord : Nat → BitVec 32

/-- The `n`-th byte the spec gives no value for: contents of internal control blocks (R22), the 112 bytes of
island state of a capture (R512), and what a read of a poisoned word gives (R340). FREE VALUE (log entry 6). -/
opaque Config.freeByte : (draw : Nat) → (addr : Nat) → Byte

/-- An address from 0x0300_0000_0000 upwards holds an internal control block; the spec defines no layout (R22).
FREE VALUE (log entry 6). -/
opaque Config.controlBlock : (addr : Nat) → Bool

/-- Byte `i` past the elements of a stash entry, up to the multiple of 64 (R298). It depends on nothing but what R7
lists: the image, the seed, the step, the core, the record and the entry. FREE VALUE (log entry 6). -/
opaque Config.padByte : (image seed step core recno : Nat) → (entry : Bytes) → (i : Nat) → Byte

/-- Where in another module's memory a collective record's write of a stage lands (R398, R403 to R405): the spec says
what is sent to whom, and gives no address; the plan fixes it. Its arguments are the image, the core, the record, the
receiving node, the stage, the shard, and whether the bytes are a status plane's. FREE VALUE (log entry 152). -/
opaque Config.peerAddr : (image core recno : Nat) → (dst : BitVec 16) → (stage shard : Nat) → (status : Bool) → BitVec 48

/-- An element of a node that another member of a group sends in a stage of a reduce-scatter (R403): its value, if a
part has one, and its two status bits. Its arguments are the image, the seed, the step, the core, the record, the stage,
the shard, the node's first part and the element. FREE VALUE (log entry 23). -/
opaque Config.peerElem : (image seed step core recno stage shard part elem : Nat) → Option (BitVec 32) × Bool × Bool

/-- Byte `i` of a shard that another member of a group sends in a stage of an all-gather (R404). FREE VALUE (log entry
23). -/
opaque Config.peerByte : (image seed step core recno shard i : Nat) → Byte

/-- At a count, whether the `i`-th standing condition of a crossing or an engine still holds (R375, R377): no command
says when a crossing is acknowledged or an engine consumes. FREE VALUE (log entry 123). -/
opaque Config.stillStands : (gc i : Nat) → Bool

/-- Byte `i` of the `MGMT` frame by which a module asks its buddy for its ward slot of a checkpoint (R507 step 3). FREE
VALUE (log entry 159). -/
opaque Config.askByte : (step i : Nat) → Byte

/-- At a count, whether the root of this module's domain has aligned although this module has met no adjustment of it
(R438). FREE VALUE (log entry 179). -/
opaque Config.rootAligned : (gc : Nat) → Bool

/-- Whether the buddy's ward slot still holds the checkpoint of a step (R507 step 4). FREE VALUE (log entry 159). -/
opaque Config.buddyHolds : (image step : Nat) → Bool

/-- The FP32 encoding of the natural logarithm of a zero of the given sign, which R307 does not
state. FREE VALUE (log entry 10). -/
opaque Config.logOfZero : (negative : Bool) → BitVec 32

/-- A value fixed at manufacture for an object (R29, R171, R480, R520): FREE VALUE (log entry 5). -/
opaque Config.perPart : (index : Nat) → (subindex : Nat) → Nat

/-- Bytes of a per-part DOMAIN or STR object (R480). FREE VALUE (log entry 5). -/
opaque Config.perPartByte : (index : Nat) → (subindex : Nat) → (i : Nat) → Byte

end Sys2Proof
end

