-- ==== Sys2Proof/Machine/Bits.lean ====
section
/-! DEFINITION. Byte strings, little-endian fields, canonical association lists and fixed-length
tables: the plain data helpers of the model. -/

namespace Sys2Proof.Machine

/-- The little-endian value of a byte string (R35, R61). -/
def leNat : Bytes → Nat
  | [] => 0
  | b :: bs => b.toNat + 256 * leNat bs

/-- The `n` low bytes of a value, least significant first. -/
def toLe : (n : Nat) → Nat → Bytes
  | 0, _ => []
  | n + 1, v => BitVec.ofNat 8 v :: toLe n (v / 256)

/-- Bytes `off` to `off + len - 1` of a string; bytes past its end are absent. -/
def slice (bs : Bytes) (off len : Nat) : Bytes := (bs.drop off).take len

/-- The `n`-byte field at an offset. -/
def fieldAt (bs : Bytes) (off n : Nat) : Nat := leNat (slice bs off n)

/-- Bits `[lo + w - 1 : lo]` of a value. -/
def bitsOf (v lo w : Nat) : Nat := v / 2 ^ lo % 2 ^ w

/-- Bit `i` of a value. -/
def bitOf (v i : Nat) : Bool := v.testBit i

/-- Bit `i` of a packed bit string: byte `i / 8`, bit `i % 8`. -/
def bitAt (bs : Bytes) (i : Nat) : Bool := ((bs.getD (i / 8) 0).toNat).testBit (i % 8)

/-- Packs bits into bytes, least significant bit first, padding the last byte with zeros. -/
def packBits (bits : List Bool) : Nat → Bytes
  | 0 => []
  | n + 1 =>
    BitVec.ofNat 8 (((List.range 8).foldl (fun a i => a + if bits.getD i false then 2 ^ i else 0) 0))
      :: packBits (bits.drop 8) n

/-- `bs` extended with zero bytes to `n` bytes, or cut to `n` bytes. -/
def padTo (n : Nat) (bs : Bytes) : Bytes := (bs ++ List.replicate (n - bs.length) 0).take n

/-- All bytes of a string are zero. -/
def allZero (bs : Bytes) : Bool := bs.all (· == 0)

/-- ASCII text as bytes. -/
def ascii (s : String) : Bytes := s.toList.map (fun c => BitVec.ofNat 8 c.toNat)

/-- `⌈a / b⌉`. -/
def ceilDiv (a b : Nat) : Nat := (a + b - 1) / b

/-- Cuts a list into chunks of `n` (`fuel` bounds the number of chunks). -/
def chunksOf {α : Type} (n : Nat) : (fuel : Nat) → List α → List (List α)
  | 0, _ => []
  | f + 1, l => if l.isEmpty then [] else l.take n :: chunksOf n f (l.drop n)

/-- The chunks of a list, all of `n` but the last. -/
def chunked {α : Type} (n : Nat) (l : List α) : List (List α) := chunksOf n l.length l

/-- Inserts into a sorted list, after the entries that are not greater. -/
def insertBy {α : Type} (lt : α → α → Bool) (a : α) : List α → List α
  | [] => [a]
  | b :: bs => if lt a b then a :: b :: bs else b :: insertBy lt a bs

/-- Sorts a list, equal entries keeping their order. -/
def sortBy {α : Type} (lt : α → α → Bool) (l : List α) : List α := l.foldl (fun s a => insertBy lt a s) []

/-! ### Canonical association lists: keys rising, no entry equal to its default. -/

/-- The value at a key of a canonical list; an unlisted key has its default. -/
def Assoc.read {β : Type} (d : Nat → β) : List (Nat × β) → Nat → β
  | [], k => d k
  | (k', v) :: rest, k => if k = k' then v else if k < k' then d k else Assoc.read d rest k

/-- Sets a key of a canonical list, keeping the form: an entry equal to its default is removed. -/
def Assoc.write {β : Type} [DecidableEq β] (d : Nat → β) :
    List (Nat × β) → Nat → β → List (Nat × β)
  | [], k, v => if v = d k then [] else [(k, v)]
  | (k', v') :: rest, k, v =>
    if k < k' then (if v = d k then (k', v') :: rest else (k, v) :: (k', v') :: rest)
    else if k = k' then (if v = d k then rest else (k, v) :: rest)
    else (k', v') :: Assoc.write d rest k v

/-- Keys rise strictly and lie above `lo`; no entry equals its default. -/
def Assoc.wfFrom {β : Type} [DecidableEq β] (d : Nat → β) : (lo : Nat) → List (Nat × β) → Bool
  | _, [] => true
  | lo, (k, v) :: rest => decide (lo ≤ k) && decide (v ≠ d k) && Assoc.wfFrom d (k + 1) rest

/-- The canonical form. -/
def Assoc.wf {β : Type} [DecidableEq β] (d : Nat → β) (l : List (Nat × β)) : Bool :=
  Assoc.wfFrom d 0 l

/-- The value of the first entry with a key, in a list of entries kept in any order. -/
def lookupKey {κ β : Type} [DecidableEq κ] (k : κ) : List (κ × β) → Option β
  | [] => none
  | (k', v) :: rest => if k' = k then some v else lookupKey k rest

/-- Replaces or appends the entry of a key. -/
def setKey {κ β : Type} [DecidableEq κ] (k : κ) (v : β) : List (κ × β) → List (κ × β)
  | [] => [(k, v)]
  | (k', v') :: rest => if k' = k then (k, v) :: rest else (k', v') :: setKey k v rest

/-- Drops the entries of a key. -/
def dropKey {κ β : Type} [DecidableEq κ] (k : κ) (l : List (κ × β)) : List (κ × β) :=
  l.filter (fun e => e.1 ≠ k)

/-- Adds to the count at a key. -/
def addKey {κ : Type} [DecidableEq κ] (k : κ) (n : Nat) (l : List (κ × Nat)) : List (κ × Nat) :=
  if n = 0 then l else setKey k ((lookupKey k l).getD 0 + n) l

/-! ### Tables of a fixed length. -/

/-- Applies a function to every entry of a table. -/
def vmap {α β : Type} {n : Nat} (f : α → β) (v : Vector α n) : Vector β n :=
  ⟨⟨v.toList.map f⟩, by simp⟩

/-- Applies a function to every entry of a table and its index. -/
def vmapIdx {α β : Type} {n : Nat} (f : Nat → α → β) (v : Vector α n) : Vector β n :=
  ⟨⟨v.toList.mapIdx f⟩, by simp⟩

/-- Changes one entry of a table. -/
def vmodify {α : Type} {n : Nat} (v : Vector α n) (i : Fin n) (f : α → α) : Vector α n :=
  v.set i (f v[i])

/-- The entries of a table of `n` naturals below `n`, as a list of indices. -/
def indices (n : Nat) : List (Fin n) := List.finRange n

end Sys2Proof.Machine
end

