-- ==== Sys2Proof/Machine/Objects.lean ====
section
/-! DEFINITION. The entries of the object dictionary (R468 to R470): index, subindexes, type, access
right and default, from the object tables of the spec's chapters. -/

namespace Sys2Proof.Machine

/-- Types of entries (R469). -/
inductive ObjType where
  | bool | u8 | u16 | u32 | u64 | i32 | i64 | f32 | digest | str | domain
  deriving DecidableEq, Repr

/-- Bytes of a value of the type; `none` for the types of varying length (R469). -/
def ObjType.size : ObjType → Option Nat
  | .bool | .u8 => some 1
  | .u16 => some 2
  | .u32 | .i32 | .f32 => some 4
  | .u64 | .i64 => some 8
  | .digest => some 32
  | .str | .domain => none

/-- Access rights (R470). -/
inductive ObjAccess where
  | ro | rw | rws | wo | const
  deriving DecidableEq, Repr

/-- One row of an object table: the subindexes `lo` to `hi` of an index. -/
structure Obj where
  idx : Nat
  lo : Nat
  hi : Nat
  ty : ObjType
  acc : ObjAccess
  dflt : Nat
  perPart : Bool
  deriving DecidableEq, Repr

/-- Entries of package and islands (R29). -/
def objects01 : List Obj := [
  ⟨0x2000, 0x00, 0x2F, .u8, .ro, 0, false⟩, -- CORE_MAP
  ⟨0x2001, 0x00, 0x03, .u8, .ro, 0, false⟩, -- SPARE_CORE
  ⟨0x2002, 0x00, 0xFF, .u8, .ro, 0, false⟩, -- ISLAND_STATE
  ⟨0x2003, 0x00, 0xFF, .u32, .ro, 0, false⟩, -- ISLAND_CLOCK_KHZ
  ⟨0x2004, 0x00, 0x03, .u8, .ro, 0, false⟩, -- LASER_GROUP_STATE
  ⟨0x2005, 0x00, 0x07, .u8, .ro, 0, false⟩ -- LASER_INPUT_STATE
  ]

/-- Entries of plans and steps (R56). -/
def objects02 : List Obj := [
  ⟨0x5000, 0x00, 0x00, .domain, .wo, 0, false⟩, -- PLAN_STAGE
  ⟨0x5001, 0x00, 0x00, .u8, .ro, 0, false⟩, -- PLAN_STAGE_STATUS
  ⟨0x5001, 0x01, 0x01, .u8, .ro, 0, false⟩, -- PLAN_REFUSAL
  ⟨0x5002, 0x00, 0x00, .digest, .ro, 0, false⟩, -- PLAN_ACTIVE_DIGEST
  ⟨0x5002, 0x01, 0x01, .digest, .ro, 0, false⟩, -- PLAN_STAGED_DIGEST
  ⟨0x5003, 0x00, 0x00, .u64, .rws, 0, false⟩, -- PLAN_SWAP_GC
  ⟨0x5004, 0x00, 0x00, .u64, .ro, 0, false⟩, -- STEP_CURRENT
  ⟨0x5004, 0x01, 0x01, .u8, .ro, 0, false⟩, -- STEP_STATE
  ⟨0x5005, 0x00, 0x2F, .u32, .ro, 0, false⟩, -- CSQ_RECNO
  ⟨0x5006, 0x00, 0x2F, .u32, .ro, 0, false⟩ -- CSQ_OVERRUN
  ]

/-- Entries of number formats (R86). -/
def objects03 : List Obj := [
  ⟨0x2100, 0x00, 0x00, .u8, .rws, 0x31, false⟩, -- NUMERIC_EVENT_MASK
  ⟨0x2100, 0x01, 0x01, .bool, .rws, 0, false⟩, -- NAN_ABORT
  ⟨0x3010, 0x00, 0x05, .u64, .ro, 0, false⟩, -- NUMERIC_TOTAL
  ⟨0x3011, 0x00, 0x00, .u32, .rw, 0, false⟩, -- NUMERIC_SELECT
  ⟨0x3012, 0x00, 0x05, .u32, .ro, 0, false⟩, -- NUMERIC_TENSOR
  ⟨0x3013, 0x00, 0x00, .domain, .ro, 0, false⟩ -- NUMERIC_TABLE
  ]

/-- Entries of accumulation (R113). -/
def objects04 : List Obj := [
  ⟨0x2100, 0x02, 0x02, .u8, .rws, 7, false⟩, -- ACCUM_EVENT_MASK
  ⟨0x3014, 0x00, 0x02, .u64, .ro, 0, false⟩, -- ACCUM_TOTAL
  ⟨0x3015, 0x00, 0x02, .u32, .ro, 0, false⟩, -- ACCUM_TENSOR
  ⟨0x3016, 0x00, 0x00, .domain, .ro, 0, false⟩ -- TILE_STATUS
  ]

/-- Entries of descriptors (R139). -/
def objects05 : List Obj := [
  ⟨0x5001, 0x02, 0x02, .u32, .ro, 0xffffffff, false⟩, -- PLAN_REFUSED_DESC
  ⟨0x5001, 0x03, 0x03, .u8, .ro, 0, false⟩, -- PLAN_DESC_REFUSAL
  ⟨0x2810, 0x00, 0x00, .u8, .rws, 1, false⟩, -- INDEX_EVENT_MASK
  ⟨0x3017, 0x00, 0x01, .u64, .ro, 0, false⟩, -- INDEX_TOTAL
  ⟨0x3018, 0x00, 0x01, .u32, .ro, 0, false⟩, -- INDEX_TENSOR
  ⟨0x3019, 0x00, 0x03, .u64, .ro, 0, false⟩ -- TILE_TAG_TOTAL
  ]

/-- Entries of dense arrays (R171). -/
def objects06 : List Obj := [
  ⟨0x2200, 0x00, 0xCF, .u16, .const, 0, true⟩, -- DA_FUSE_MAP
  ⟨0x2201, 0x00, 0x33, .u8, .ro, 0, false⟩, -- DA_MODE
  ⟨0x301A, 0x00, 0x33, .u32, .ro, 0, false⟩, -- DA_RETRIED
  ⟨0x301B, 0x00, 0x33, .u32, .ro, 0, false⟩, -- DA_FAILED
  ⟨0x301C, 0x00, 0x33, .u64, .ro, 0, false⟩, -- DA_LOAD_STALL
  ⟨0x301D, 0x00, 0x33, .u64, .ro, 0, false⟩ -- DA_MODE_DRAIN
  ]

/-- Entries of sparse tiles (R194). -/
def objects07 : List Obj := [
  ⟨0x2300, 0x00, 0x00, .u8, .const, 0xf, false⟩, -- SPARSE_FORMATS
  ⟨0x2300, 0x01, 0x01, .u8, .const, 0x3c, false⟩, -- BRT_K_SET
  ⟨0x301E, 0x00, 0x33, .u32, .ro, 0, false⟩, -- TILE_HDR_FAULT
  ⟨0x301F, 0x00, 0x33, .u32, .ro, 0, false⟩ -- TILE_BODY_FAULT
  ]

/-- Entries of the sparse engine (R230). -/
def objects08 : List Obj := [
  ⟨0x2300, 0x02, 0x02, .u16, .const, 0x400, false⟩, -- SE_MATCH_CAPACITY
  ⟨0x2300, 0x03, 0x03, .u8, .const, 0x40, false⟩, -- SE_COALESCER_ENTRIES
  ⟨0x2301, 0x00, 0x00, .u8, .rws, 6, false⟩, -- ROUTE_EVENT_MASK
  ⟨0x3020, 0x00, 0x02, .u64, .ro, 0, false⟩, -- ROUTE_TOTAL
  ⟨0x3021, 0x00, 0x02, .u32, .ro, 0, false⟩, -- ROUTE_TENSOR
  ⟨0x3022, 0x00, 0x33, .u32, .ro, 0, false⟩, -- SE_RETRIED
  ⟨0x3023, 0x00, 0x33, .u32, .ro, 0, false⟩, -- SE_FAILED
  ⟨0x3024, 0x00, 0x33, .u64, .ro, 0, false⟩, -- SE_MERGE_PASSES
  ⟨0x3025, 0x00, 0x33, .u64, .ro, 0, false⟩, -- SE_STEALS
  ⟨0x3026, 0x00, 0x33, .u64, .ro, 0, false⟩ -- SE_COALESCE_HIT
  ]

/-- Entries of mask engines (R257). -/
def objects09 : List Obj := [
  ⟨0x2400, 0x00, 0x00, .u64, .ro, 0, false⟩, -- MASK_UPDATES
  ⟨0x2400, 0x01, 0x01, .u8, .rws, 0xc, false⟩, -- MASK_EVENT_MASK
  ⟨0x2401, 0x00, 0xFF, .u32, .ro, 0, false⟩, -- MASK_EPOCH
  ⟨0x2402, 0x00, 0xFF, .digest, .ro, 0, false⟩, -- MASK_DIGEST
  ⟨0x2403, 0x00, 0xFF, .u64, .ro, 0, false⟩, -- MASK_STORED
  ⟨0x2404, 0x00, 0xFF, .bool, .ro, 0, false⟩, -- MASK_SYNC_PENDING
  ⟨0x3027, 0x00, 0x03, .u64, .ro, 0, false⟩, -- MASK_TOTAL
  ⟨0x3028, 0x00, 0x03, .u32, .ro, 0, false⟩, -- ME_RETRIED
  ⟨0x3029, 0x00, 0x03, .u32, .ro, 0, false⟩ -- ME_FAILED
  ]

/-- Entries of the predictor (R282). -/
def objects10 : List Obj := [
  ⟨0x2500, 0x00, 0x00, .u16, .ro, 0, false⟩, -- PRED_LAYERS
  ⟨0x2500, 0x01, 0x01, .u8, .rws, 0x18, false⟩, -- PRED_EVENT_MASK
  ⟨0x2500, 0x02, 0x02, .u32, .ro, 0, false⟩, -- PRED_REF_PERIOD
  ⟨0x2501, 0x00, 0xFF, .u8, .rws, 0, false⟩, -- PRED_POLICY
  ⟨0x2502, 0x00, 0xFF, .u32, .ro, 0, false⟩, -- PRED_BUDGET
  ⟨0x2503, 0x00, 0xFF, .u32, .ro, 0, false⟩, -- PRED_GLEAN_SIZE
  ⟨0x2504, 0x00, 0xFF, .u16, .rws, 0, false⟩, -- PRED_DETECT_FLOOR
  ⟨0x2505, 0x00, 0xFF, .bool, .ro, 0, false⟩, -- PRED_DETECT_LOW
  ⟨0x302A, 0x00, 0x04, .u64, .ro, 0, false⟩, -- PRED_TOTAL
  ⟨0x302B, 0x00, 0xFF, .u64, .ro, 0, false⟩, -- PRED_NAMED
  ⟨0x302C, 0x00, 0xFF, .u64, .ro, 0, false⟩, -- REF_TRUE_MISS
  ⟨0x302D, 0x00, 0xFF, .u64, .ro, 0, false⟩, -- REF_DETECTED
  ⟨0x302E, 0x00, 0xFF, .u64, .ro, 0, false⟩, -- REF_FALSE_ALARM
  ⟨0x302F, 0x00, 0x00, .u8, .rw, 0, false⟩, -- PRED_SELECT
  ⟨0x3030, 0x00, 0x04, .u64, .ro, 0, false⟩, -- PRED_LAYER_COUNT
  ⟨0x3031, 0x00, 0x33, .u32, .ro, 0, false⟩, -- PU_RETRIED
  ⟨0x3032, 0x00, 0x33, .u32, .ro, 0, false⟩ -- PU_FAILED
  ]

/-- Entries of training (R325). -/
def objects11 : List Obj := [
  ⟨0x2600, 0x00, 0x00, .u8, .ro, 0, false⟩, -- UPDATE_MODE
  ⟨0x2600, 0x01, 0x01, .domain, .ro, 0, false⟩, -- WEIGHT_SET_TABLE
  ⟨0x2600, 0x02, 0x02, .u16, .ro, 0, false⟩, -- WEIGHT_SET_COUNT
  ⟨0x2600, 0x03, 0x03, .u8, .rws, 1, false⟩, -- STASH_EVENT_MASK
  ⟨0x2600, 0x04, 0x04, .bool, .ro, 1, false⟩, -- STEP_RELAUNCH
  ⟨0x2601, 0x00, 0xFF, .u64, .ro, 0, false⟩, -- WSET_VERSION
  ⟨0x2602, 0x00, 0xFF, .u64, .ro, 0, false⟩, -- SPLIT_INEXACT
  ⟨0x2603, 0x00, 0x2F, .u64, .ro, 0, false⟩, -- STASH_REGEN
  ⟨0x2604, 0x00, 0x2F, .u32, .ro, 0, false⟩, -- STASH_OVERFLOW_HIGH
  ⟨0x3033, 0x00, 0x33, .u32, .ro, 0, false⟩, -- VU_RETRIED
  ⟨0x3034, 0x00, 0x33, .u32, .ro, 0, false⟩ -- VU_FAILED
  ]

/-- Entries of memory (R352). -/
def objects12 : List Obj := [
  ⟨0x2700, 0x00, 0x00, .u8, .const, 8, false⟩, -- HBM_STACKS
  ⟨0x2700, 0x01, 0x01, .u16, .const, 0x30, false⟩, -- HBM_STACK_GIB
  ⟨0x2700, 0x02, 0x02, .u64, .const, 0x3000000000, false⟩, -- HBM_LOCAL_BASE
  ⟨0x2701, 0x00, 0x07, .f32, .ro, 0, false⟩, -- HBM_TEMP_C
  ⟨0x2702, 0x00, 0x00, .f32, .rws, 0x42aa0000, false⟩, -- THERM_WARM_C
  ⟨0x2702, 0x01, 0x01, .f32, .rws, 0x42be0000, false⟩, -- THERM_HOT_C
  ⟨0x2702, 0x02, 0x02, .f32, .rws, 0x40400000, false⟩, -- THERM_HYST_C
  ⟨0x2702, 0x03, 0x03, .f32, .const, 0x42d20000, false⟩, -- THERM_TRIP_C
  ⟨0x2703, 0x00, 0x07, .u8, .ro, 0, false⟩, -- HBM_THERM_STATE
  ⟨0x2704, 0x00, 0x00, .u64, .rws, 0xf42400, false⟩, -- THERM_HOLD_SHIFT
  ⟨0x2705, 0x00, 0x03, .u8, .ro, 0x12, false⟩, -- CACHE_WAYS
  ⟨0x2706, 0x00, 0x00, .u16, .rws, 0x10, false⟩, -- HBM_ROW_CE_LIMIT
  ⟨0x2707, 0x00, 0x00, .domain, .ro, 0, false⟩, -- HBM_REPAIR_LIST
  ⟨0x2707, 0x01, 0x01, .domain, .ro, 0, false⟩, -- HBM_BAD_ROWS
  ⟨0x2707, 0x02, 0x09, .u16, .ro, 0x400, false⟩, -- HBM_SPARES_LEFT
  ⟨0x2708, 0x00, 0x00, .u8, .wo, 0, false⟩, -- MARGIN_START
  ⟨0x2708, 0x01, 0x01, .u8, .ro, 0, false⟩, -- MARGIN_STATUS
  ⟨0x2708, 0x02, 0x02, .domain, .ro, 0, false⟩, -- MARGIN_RESULT
  ⟨0x3035, 0x00, 0x07, .u64, .ro, 0, false⟩, -- HBM_CE
  ⟨0x3036, 0x00, 0x07, .u32, .ro, 0, false⟩, -- HBM_UE
  ⟨0x3037, 0x00, 0x07, .u64, .ro, 0, false⟩, -- HBM_RMW
  ⟨0x3038, 0x00, 0x03, .u64, .ro, 0, false⟩, -- SRAM_CE
  ⟨0x3039, 0x00, 0x03, .u32, .ro, 0, false⟩, -- SRAM_UE
  ⟨0x303A, 0x00, 0x03, .u32, .ro, 0, false⟩, -- CACHE_REFETCH
  ⟨0x303B, 0x00, 0x00, .u32, .ro, 0, false⟩, -- THERM_HOLDS
  ⟨0x303C, 0x00, 0x07, .u32, .ro, 0, false⟩ -- MARGIN_DRIFT
  ]

/-- Entries of streams (R382). -/
def objects13 : List Obj := [
  ⟨0x2800, 0x00, 0x00, .u8, .const, 0x20, false⟩, -- STREAM_THREADS
  ⟨0x2800, 0x01, 0x01, .u8, .const, 0x40, false⟩, -- SHEAF_SIZE
  ⟨0x2800, 0x02, 0x02, .u8, .const, 0x10, false⟩, -- SHEAF_SLOTS
  ⟨0x2801, 0x00, 0x00, .u32, .rws, 0x64, false⟩, -- WDOG_CROSS_US
  ⟨0x2801, 0x01, 0x01, .u32, .rws, 0x1388, false⟩, -- WDOG_CREDIT_US
  ⟨0x2801, 0x02, 0x02, .u32, .rws, 0x64, false⟩, -- WDOG_ENGINE_US
  ⟨0x2801, 0x03, 0x03, .u64, .rws, 0x989680, false⟩, -- STEP_OVERTIME_TICKS
  ⟨0x2802, 0x00, 0x00, .u16, .rw, 0, false⟩, -- POOL_SELECT
  ⟨0x2803, 0x00, 0x03, .u32, .ro, 0, false⟩, -- POOL_STATE
  ⟨0x303D, 0x00, 0x03, .u32, .ro, 0, false⟩, -- SHEAF_REFETCH
  ⟨0x303E, 0x00, 0x33, .u64, .ro, 0, false⟩, -- CREDIT_WAIT
  ⟨0x303F, 0x00, 0x03, .u64, .ro, 0, false⟩, -- STREAM_DISCARDED
  ⟨0x3040, 0x00, 0x02, .u32, .ro, 0, false⟩, -- WDOG_EXPIRED
  ⟨0x3041, 0x00, 0x03, .u64, .ro, 0, false⟩ -- CHAIN_FORWARDED
  ]

/-- Entries of the fabric (R418). -/
def objects14 : List Obj := [
  ⟨0x2900, 0x00, 0x00, .u8, .const, 0x20, false⟩, -- FABRIC_PORTS
  ⟨0x2900, 0x01, 0x01, .u16, .const, 0x64, false⟩, -- FIBRE_MAX_M
  ⟨0x2900, 0x02, 0x02, .u32, .const, 0x3e8, false⟩, -- KEEPALIVE_TICKS
  ⟨0x2900, 0x03, 0x03, .u32, .const, 0x1f40, false⟩, -- SILENCE_TICKS
  ⟨0x2900, 0x04, 0x04, .u32, .const, 0x4e20, false⟩, -- LOSS_WINDOW_TICKS
  ⟨0x2901, 0x00, 0x1F, .u8, .ro, 0, false⟩, -- PORT_STATE
  ⟨0x2902, 0x00, 0x1F, .u32, .ro, 0xffffffff, false⟩, -- PORT_PEER
  ⟨0x2903, 0x00, 0x3F, .u64, .ro, 0x876543210, false⟩, -- LANE_MAP
  ⟨0x2904, 0x00, 0x00, .u64, .rws, 0x2540be400, false⟩, -- LANE_CE_LIMIT
  ⟨0x2904, 0x01, 0x01, .u32, .rws, 0x10, false⟩, -- LANE_UE_LIMIT
  ⟨0x2905, 0x00, 0x00, .f32, .const, 0x41700000, false⟩, -- LASER_LIT_DBM
  ⟨0x2905, 0x01, 0x01, .f32, .const, 0x41000000, false⟩, -- LASER_DARK_DBM
  ⟨0x2906, 0x00, 0x07, .f32, .ro, 0, false⟩, -- LASER_INPUT_DBM
  ⟨0x2907, 0x00, 0x00, .domain, .ro, 0, false⟩, -- DOWN_LINKS
  ⟨0x2907, 0x01, 0x01, .domain, .ro, 0, false⟩, -- BACKUP_ACTIVE
  ⟨0x2907, 0x02, 0x02, .domain, .ro, 0, false⟩, -- LOST_NODES
  ⟨0x3042, 0x00, 0x1F, .u64, .ro, 0, false⟩, -- LINK_REPLAY
  ⟨0x3043, 0x00, 0x1F, .u64, .ro, 0, false⟩, -- FEC_CORRECTED
  ⟨0x3044, 0x00, 0x1F, .u64, .ro, 0, false⟩, -- FEC_UNCORRECTABLE
  ⟨0x3045, 0x00, 0x1F, .u32, .ro, 0, false⟩, -- LANE_SWAPS
  ⟨0x3046, 0x00, 0x02, .u32, .ro, 0, false⟩, -- FLIT_DISCARD
  ⟨0x3047, 0x00, 0x01, .u32, .ro, 0, false⟩, -- COLL_ABORTED
  ⟨0x3048, 0x00, 0x1F, .u32, .ro, 0, false⟩ -- PORT_DOWNS
  ]

/-- Entries of determinism and launch (R448). -/
def objects15 : List Obj := [
  ⟨0x2A00, 0x00, 0x00, .u8, .rws, 2, false⟩, -- AUDIT_MODE
  ⟨0x2A01, 0x00, 0x01, .u64, .rws, 0, false⟩, -- RUN_SEED
  ⟨0x2A02, 0x00, 0x00, .u64, .ro, 0, false⟩, -- GC
  ⟨0x2A02, 0x01, 0x01, .u8, .ro, 0, false⟩, -- GC_STATE
  ⟨0x2A02, 0x02, 0x02, .i32, .ro, 0, false⟩, -- GC_OFFSET_PS
  ⟨0x2A02, 0x03, 0x03, .u8, .ro, 0xff, false⟩, -- GC_PARENT_PORT
  ⟨0x2A02, 0x04, 0x04, .u16, .ro, 0xffff, false⟩, -- GC_ROOT_NODE
  ⟨0x2A02, 0x05, 0x05, .u8, .ro, 0xff, false⟩, -- GC_DISTANCE
  ⟨0x2A03, 0x00, 0x00, .bool, .rw, 0, false⟩, -- GC_ROOT_PRIORITY
  ⟨0x2A03, 0x01, 0x01, .u8, .rw, 1, false⟩, -- SYNC_IN_MODE
  ⟨0x2A03, 0x02, 0x02, .u64, .ro, 0, false⟩, -- SYNC_IN_GC
  ⟨0x2A03, 0x03, 0x22, .i64, .ro, 0, false⟩, -- PORT_TIME_OFFSET
  ⟨0x2A04, 0x00, 0x00, .u64, .rw, 0, false⟩, -- LAUNCH_GC
  ⟨0x2A04, 0x01, 0x01, .u64, .rw, 0, false⟩, -- LAUNCH_STEP
  ⟨0x2A04, 0x02, 0x02, .u64, .ro, 0, false⟩, -- LAUNCH_LAST_GC
  ⟨0x2A04, 0x03, 0x03, .u64, .ro, 0, false⟩, -- LAUNCH_SHIFT
  ⟨0x2A04, 0x04, 0x04, .bool, .rws, 1, false⟩, -- RELAUNCH_AUTO
  ⟨0x2A04, 0x05, 0x05, .u8, .rws, 2, false⟩, -- RELAUNCH_MAX
  ⟨0x2A05, 0x00, 0x00, .domain, .ro, 0, false⟩, -- AGREE_LAST
  ⟨0x2A06, 0x00, 0x00, .u64, .ro, 0, false⟩, -- STEP_BUSY_TICKS
  ⟨0x2A07, 0x00, 0x00, .domain, .ro, 0, false⟩, -- AUDIT_LOG
  ⟨0x2A07, 0x01, 0x01, .domain, .ro, 0, false⟩, -- REPLAY_LOG
  ⟨0x2A08, 0x00, 0x0F, .domain, .rw, 0, false⟩ -- REPLAY_TAP
  ]

/-- Entries of the host port (R466). -/
def objects16 : List Obj := [
  ⟨0x1100, 0x00, 0x00, .u64, .const, 0, true⟩, -- HOST_MAC
  ⟨0x1100, 0x01, 0x01, .u32, .rw, 0, false⟩, -- HOST_IPV4
  ⟨0x1100, 0x02, 0x02, .domain, .rw, 0, false⟩, -- HOST_IPV6
  ⟨0x1100, 0x03, 0x03, .u16, .rw, 0, false⟩, -- HOST_VLAN
  ⟨0x1100, 0x04, 0x04, .u8, .rw, 3, false⟩, -- PFC_PRIORITY
  ⟨0x1100, 0x05, 0x05, .u8, .ro, 0, false⟩, -- HOST_LINK
  ⟨0x1101, 0x00, 0x00, .u16, .const, 0xb8a6, false⟩, -- IVWIDIN_PORT
  ⟨0x1101, 0x01, 0x01, .u16, .const, 0xb8a7, false⟩, -- ATTEST_PORT
  ⟨0x1101, 0x02, 0x02, .domain, .ro, 0, false⟩, -- ATTEST_REPORT
  ⟨0x1102, 0x00, 0x03, .domain, .rw, 0, false⟩, -- NOTIFY_ADDR
  ⟨0x1102, 0x04, 0x04, .u8, .rw, 0x62, false⟩, -- NOTIFY_CLASS_MASK
  ⟨0x1103, 0x00, 0x00, .domain, .rw, 0, false⟩, -- QP_TABLE
  ⟨0x2B00, 0x00, 0x00, .u8, .ro, 0, false⟩, -- WINDOW_COUNT
  ⟨0x2B00, 0x01, 0x01, .domain, .ro, 0, false⟩, -- WINDOW_TABLE
  ⟨0x2B01, 0x00, 0x3F, .u32, .ro, 0, false⟩, -- WINDOW_RKEY
  ⟨0x3049, 0x00, 0x00, .u64, .ro, 0, false⟩, -- HOST_DISCARD
  ⟨0x304A, 0x00, 0x00, .u32, .ro, 0, false⟩, -- HOST_RDMA_REFUSED
  ⟨0x304B, 0x00, 0x00, .u64, .ro, 0, false⟩ -- SLOT_WAITS
  ]

/-- Entries of identity, staging, health, telemetry and events (R477 to R490). -/
def objects17 : List Obj := [
  ⟨0x1200, 0x00, 0x00, .u16, .ro, 0, false⟩, -- STAGED_COUNT
  ⟨0x1200, 0x01, 0x01, .domain, .ro, 0, false⟩, -- STAGED_LIST
  ⟨0x1200, 0x02, 0x02, .bool, .wo, 0, false⟩, -- STAGE_DISCARD
  ⟨0x1200, 0x03, 0x03, .bool, .ro, 0, false⟩, -- STAGE_LOCKED
  ⟨0x1201, 0x00, 0x00, .u64, .ro, 0, false⟩, -- COMMIT_LAST_GC
  ⟨0x1201, 0x01, 0x01, .u16, .ro, 0, false⟩, -- COMMIT_LAST_COUNT
  ⟨0x1000, 0x00, 0x00, .str, .const, 0, false⟩, -- ORDER_CODE
  ⟨0x1000, 0x01, 0x01, .str, .const, 0, false⟩, -- PART_NUMBER
  ⟨0x1000, 0x02, 0x02, .str, .const, 0, true⟩, -- SERIAL_NUMBER
  ⟨0x1000, 0x03, 0x03, .u16, .const, 0, true⟩, -- HW_REVISION
  ⟨0x1000, 0x04, 0x04, .u32, .const, 0, true⟩, -- MFG_DATE
  ⟨0x1000, 0x05, 0x05, .u32, .const, 0x10000, false⟩, -- DICT_VERSION
  ⟨0x1001, 0x00, 0x09, .u32, .ro, 0, false⟩, -- PROGRAM_VERSION
  ⟨0x1002, 0x00, 0x09, .digest, .ro, 0, false⟩, -- PROGRAM_DIGEST
  ⟨0x1003, 0x00, 0x00, .digest, .const, 0, true⟩, -- VENDOR_KEY_HASH
  ⟨0x1003, 0x01, 0x01, .digest, .ro, 0, false⟩, -- CUSTOMER_KEY_HASH
  ⟨0x1003, 0x02, 0x02, .domain, .const, 0, true⟩, -- IDENTITY_PUBLIC_KEY
  ⟨0x1003, 0x03, 0x03, .digest, .const, 0, true⟩, -- IDENTITY_KEY_HASH
  ⟨0x1004, 0x00, 0x00, .digest, .ro, 0, false⟩, -- CONFIG_DIGEST_NOW
  ⟨0x1004, 0x01, 0x01, .digest, .ro, 0, false⟩, -- CONFIG_DIGEST_NEXT
  ⟨0x1004, 0x02, 0x02, .digest, .ro, 0, false⟩, -- OPERATIONAL_DIGEST_NEXT
  ⟨0x1004, 0x03, 0x03, .u32, .ro, 0, false⟩, -- CONFIG_EPOCH
  ⟨0x1005, 0x00, 0x00, .u32, .ro, 0, false⟩, -- SIGN_CHALLENGE
  ⟨0x1104, 0x00, 0x00, .u16, .rw, 0, false⟩, -- NODE_ID
  ⟨0x1104, 0x01, 0x01, .bool, .ro, 0, false⟩, -- NODE_ID_VALID
  ⟨0x3000, 0x00, 0x06, .u64, .ro, 0, false⟩, -- EVENT_CLASS_COUNT
  ⟨0x3001, 0x00, 0x00, .u64, .ro, 0, false⟩, -- STEPS_COMMITTED
  ⟨0x3001, 0x01, 0x01, .u64, .ro, 0, false⟩, -- STEPS_ABORTED
  ⟨0x3001, 0x02, 0x02, .u64, .ro, 0, false⟩, -- RELAUNCHES
  ⟨0x3002, 0x00, 0x00, .u64, .ro, 0, false⟩, -- UPTIME_S
  ⟨0x3003, 0x00, 0x00, .u64, .ro, 0, false⟩, -- IVWIDIN_REQUESTS
  ⟨0x3003, 0x01, 0x01, .u64, .ro, 0, false⟩, -- IVWIDIN_REPLAYED
  ⟨0x3003, 0x02, 0x02, .u64, .ro, 0, false⟩, -- IVWIDIN_ERRORS
  ⟨0x3003, 0x03, 0x03, .u32, .ro, 0, false⟩, -- SIGNED_REFUSED
  ⟨0x3100, 0x00, 0x00, .f32, .ro, 0, false⟩, -- INPUT_V
  ⟨0x3100, 0x01, 0x01, .f32, .ro, 0, false⟩, -- INPUT_A
  ⟨0x3100, 0x02, 0x02, .f32, .ro, 0, false⟩, -- INPUT_W
  ⟨0x3100, 0x03, 0x03, .u64, .ro, 0, false⟩, -- INPUT_ENERGY_MJ
  ⟨0x3100, 0x04, 0x04, .f32, .ro, 0, false⟩, -- INTERMEDIATE_V
  ⟨0x3101, 0x00, 0x05, .f32, .ro, 0, false⟩, -- DIE_TEMP_C
  ⟨0x3102, 0x00, 0x00, .f32, .ro, 0, false⟩, -- COOLANT_IN_C
  ⟨0x3102, 0x01, 0x01, .f32, .ro, 0, false⟩, -- COOLANT_OUT_C
  ⟨0x3103, 0x00, 0x06, .f32, .ro, 0, false⟩, -- RAIL_W
  ⟨0x3104, 0x00, 0x06, .f32, .ro, 0, false⟩, -- ENGINE_BUSY
  ⟨0x3105, 0x00, 0x00, .f32, .ro, 0, false⟩, -- HBM_READ_GBS
  ⟨0x3105, 0x01, 0x01, .f32, .ro, 0, false⟩, -- HBM_WRITE_GBS
  ⟨0x3106, 0x00, 0x1F, .f32, .ro, 0, false⟩, -- PORT_TX_GBS
  ⟨0x6000, 0x00, 0x00, .domain, .ro, 0, false⟩, -- EVENT_LOG
  ⟨0x6000, 0x01, 0x01, .u32, .ro, 0, false⟩, -- EVENT_LOG_COUNT
  ⟨0x6000, 0x02, 0x02, .u32, .ro, 0, false⟩, -- EVENT_NEXT_SEQ
  ⟨0x6000, 0x03, 0x03, .u64, .ro, 0, false⟩, -- EVENT_LOST
  ⟨0x6000, 0x04, 0x04, .u32, .rw, 0, false⟩, -- EVENT_LOG_FROM
  ⟨0x6001, 0x00, 0x00, .bool, .wo, 0, false⟩ -- EVENT_LOG_CLEAR
  ]

/-- Entries of faults and service (R520). -/
def objects18 : List Obj := [
  ⟨0x3F00, 0x00, 0x00, .u8, .ro, 0, false⟩, -- FREEZE_STATE
  ⟨0x3F00, 0x01, 0x01, .u8, .wo, 0, false⟩, -- FREEZE_REQUEST
  ⟨0x3F00, 0x02, 0x02, .u64, .wo, 0, false⟩, -- FREEZE_AT_GC
  ⟨0x3F00, 0x03, 0x03, .bool, .wo, 0, false⟩, -- FREEZE_RELEASE
  ⟨0x3F00, 0x04, 0x04, .u8, .rw, 1, false⟩, -- FREEZE_PIN_DEPTH
  ⟨0x3F00, 0x05, 0x05, .u64, .ro, 0, false⟩, -- FREEZE_GC
  ⟨0x3F00, 0x06, 0x06, .u8, .ro, 0, false⟩, -- FREEZE_CAUSE
  ⟨0x3F01, 0x00, 0x00, .u64, .rw, 0, false⟩, -- CAPTURE_ADDR
  ⟨0x3F01, 0x01, 0x01, .domain, .ro, 0, false⟩, -- CAPTURE_DATA
  ⟨0x3F01, 0x02, 0x02, .domain, .ro, 0, false⟩, -- CAPTURE_ISLANDS
  ⟨0x3F02, 0x00, 0x00, .u32, .const, 0, true⟩, -- TAP_IDCODE
  ⟨0x5020, 0x00, 0x00, .domain, .ro, 0, false⟩, -- CKPT_TABLE
  ⟨0x5021, 0x00, 0x01, .u64, .ro, 0xffffffffffffffff, false⟩, -- CKPT_SLOT_STEP
  ⟨0x5021, 0x02, 0x03, .u64, .ro, 0xffffffffffffffff, false⟩, -- CKPT_WARD_STEP
  ⟨0x5022, 0x00, 0x01, .digest, .ro, 0, false⟩, -- CKPT_SLOT_DIGEST
  ⟨0x5023, 0x00, 0x00, .u64, .wo, 0, false⟩, -- CKPT_RESTORE
  ⟨0x5023, 0x01, 0x01, .u8, .ro, 0, false⟩, -- CKPT_RESTORE_STATUS
  ⟨0x5030, 0x00, 0x00, .u32, .rws, 0x40, false⟩, -- CORE_TRANSIENT_LIMIT
  ⟨0x5030, 0x01, 0x01, .u8, .wo, 0, false⟩, -- SPARE_REQUEST
  ⟨0x5031, 0x00, 0x33, .u32, .ro, 0, false⟩, -- CORE_TRANSIENT_HOUR
  ⟨0x5032, 0x00, 0x00, .u8, .ro, 0x78, false⟩, -- MGMT_ACTIVE
  ⟨0x5032, 0x01, 0x01, .u8, .ro, 0, false⟩, -- MGMT_STANDBY_STATE
  ⟨0x5100, 0x01, 0x09, .domain, .wo, 0, false⟩, -- UPDATE_STAGE
  ⟨0x5101, 0x01, 0x09, .u8, .ro, 0, false⟩, -- UPDATE_STATUS
  ⟨0x5102, 0x01, 0x09, .u8, .ro, 0, false⟩, -- UPDATE_REFUSAL
  ⟨0x5103, 0x01, 0x09, .digest, .ro, 0, false⟩, -- UPDATE_STAGED_DIGEST
  ⟨0x5104, 0x01, 0x09, .digest, .rws, 0, false⟩ -- PROGRAM_PIN
  ]

/-- Entries of power and bring-up (R541). -/
def objects19 : List Obj := [
  ⟨0x1006, 0x00, 0x00, .domain, .wo, 0, false⟩, -- CUSTOMER_KEY_PROGRAM
  ⟨0x1006, 0x01, 0x01, .u8, .ro, 4, false⟩, -- CUSTOMER_KEY_ENTRIES_FREE
  ⟨0x1006, 0x02, 0x02, .bool, .wo, 0, false⟩, -- CUSTOMER_KEY_REVOKE
  ⟨0x2010, 0x00, 0x00, .u8, .ro, 0, false⟩, -- BRINGUP_STATE
  ⟨0x2010, 0x01, 0x01, .u8, .ro, 0, false⟩, -- BRINGUP_FAIL_CAUSE
  ⟨0x2010, 0x02, 0x02, .u32, .ro, 0, false⟩, -- BRINGUP_MS
  ⟨0x2011, 0x00, 0x00, .u8, .ro, 0, false⟩, -- LAST_STOP_CAUSE
  ⟨0x2012, 0x00, 0x02, .u32, .ro, 0, false⟩ -- DISCRETE_IGNORED
  ]

/-- Every entry of the dictionary. -/
def objects : List Obj :=
  objects01 ++
  objects02 ++
  objects03 ++
  objects04 ++
  objects05 ++
  objects06 ++
  objects07 ++
  objects08 ++
  objects09 ++
  objects10 ++
  objects11 ++
  objects12 ++
  objects13 ++
  objects14 ++
  objects15 ++
  objects16 ++
  objects17 ++
  objects18 ++
  objects19

/-- The key of an entry in the stores of State. -/
def objKey (idx sub : Nat) : Nat := idx * 256 + sub

/-- The row of an entry. -/
def objFind (idx sub : Nat) : Option Obj :=
  objects.find? (fun o => o.idx = idx && o.lo ≤ sub && sub ≤ o.hi)

/-- The index is assigned (R478). -/
def objIndexAssigned (idx : Nat) : Bool := objects.any (fun o => o.idx = idx)

/-- The default of a scalar entry; a per-part value is fixed at manufacture (R480). -/
def objDefault (key : Nat) : Nat :=
  match objFind (key / 256) (key % 256) with
  | some o => if o.perPart then Config.perPart (key / 256) (key % 256) else o.dflt
  | none => 0

/-- The largest value of an unsigned type: where a counter holds (R83, R170). -/
def ObjType.maxValue : ObjType → Nat
  | .bool => 1
  | .u8 => 0xFF
  | .u16 => 0xFFFF
  | .u32 | .i32 | .f32 => 0xFFFFFFFF
  | .u64 | .i64 => 0xFFFFFFFFFFFFFFFF
  | _ => 0

end Sys2Proof.Machine
end

