-- ==== Sys2Proof/Machine/PlanTypes.lean ====
section
/-! DEFINITION. The parts of a plan image as the device reads them (R35 to R46, R115 to R121,
R260, R286, R305, R361, R394, R401, R412, R439, R455, R503). -/

namespace Sys2Proof.Machine

/-- The element formats of R58. -/
inductive Fmt where
  | fp32 | bf16 | fp16 | e4m3 | e5m2
  | mxE4m3 | mxE5m2 | mxE2m3 | mxE3m2 | mxE2m1 | mxInt8
  | int8s | int8u | int4s | int4u | int32s | bit1 | mxsb
  deriving DecidableEq, Repr

/-- A tensor descriptor (R115 to R117). `sizes` and `strides` hold `rank` dimensions, innermost
first; the innermost stride is 1 (R117). -/
structure Desc where
  base : Nat
  hint : Hint
  drop : Bool
  sat : Bool
  acc : Fin 4
  fmt : Fmt
  tidHi : BitVec 16
  sizes : List Nat
  strides : List Int
  deriving DecidableEq, Repr

/-- A wait entry (R45). -/
structure Wait where
  tally : Fin 64
  thresh : Nat
  deriving DecidableEq, Repr

/-- A signal entry (R45). -/
structure Signal where
  scope : Fin 4
  node : BitVec 16
  core : Fin 64
  tally : Fin 64
  inc : Nat
  deriving DecidableEq, Repr

/-- An operation record (R42, R43). A descriptor number is `none` for 0xFFFF_FFFF. -/
structure Rec where
  engine : Fin 16
  func : BitVec 12
  stat : Fin 4
  part : Fin 4
  pidx : Fin 4
  mode : Fin 8
  fuse : Fin 4
  endstep : Bool
  recno : Nat
  units : BitVec 4
  mbtag : BitVec 16
  worktag : BitVec 32
  segbase : Nat
  wver : Nat
  desc0 : Option Nat
  desc1 : Option Nat
  desc2 : Option Nat
  desc3 : Option Nat
  desc4 : Option Nat
  desc5 : Option Nat
  param0 : BitVec 32
  param1 : BitVec 32
  param2 : BitVec 32
  plancyc : Nat
  waits : List Wait
  sigs : List Signal
  deriving DecidableEq, Repr

/-- The kinds of region of the allocation table (R121). -/
inductive AllocKind where
  | hbm | core | shared
  deriving DecidableEq, Repr

/-- An allocation (R121): `dir` is the tile directory of a compressed one. -/
structure Alloc where
  base : Nat
  len : Nat
  kind : AllocKind
  dir : Option Nat
  deriving DecidableEq, Repr

/-- A credit pool of the plan (R362): kind 2 staging, 3 chain slots, 4 die-shared. -/
structure Pool where
  kind : Nat
  owner : Nat
  credits : Nat
  csize : Nat
  alloc : Nat
  deriving DecidableEq, Repr

/-- The credit needs of a record (R363). -/
structure Need where
  recno : Nat
  core : Nat
  chain : Option (Nat × Nat)
  reqs : List (Nat × Nat)
  deriving DecidableEq, Repr

/-- A chain of logical cores (R372). -/
structure Chain where
  members : List Nat
  slotPool : Nat
  deriving DecidableEq, Repr

/-- A route (R394). -/
structure Route where
  dst : BitVec 16
  rvc : Fin 4
  hops : Nat
  path : BitVec 60
  deriving DecidableEq, Repr

/-- The replacement routes of one link (R412). -/
structure Backup where
  lnode : BitVec 16
  lport : Nat
  routes : List Route
  deriving DecidableEq, Repr

/-- A replica group of the canonical-tree section (R401): `members` in member order. -/
structure Group where
  members : List (BitVec 16)
  myIndex : Option Nat
  deriving DecidableEq, Repr

/-- What a predicted layer does with an overflow of its check (R261, R271). -/
inductive Policy where
  | log | glean | halt
  deriving DecidableEq, Repr

/-- A predictor entry (R261) with its weights and biases as encodings. -/
structure PredEntry where
  policy : Policy
  pfmt : Fmt
  d : Nat
  h : Nat
  n : Nat
  a : Nat
  g : Nat
  theta : F32
  floor : Nat
  p1 : Bytes
  p2 : Bytes
  b1 : List F32
  b2 : List F32
  regions : List (Nat × Nat)
  deriving DecidableEq, Repr

/-- One function or derivative table (R305). -/
structure FnTable where
  xmin : F32
  scale : F32
  loval : F32
  hival : F32
  hiext : Bool
  loext : Bool
  coef : List F32
  deriving DecidableEq, Repr

/-- The launch rules (R439): rules are modulus, residue and extra ticks. -/
structure LaunchRules where
  period : Nat
  lead : Nat
  settle : Nat
  rules : List (Nat × Nat × Nat)
  deriving DecidableEq, Repr

/-- A weight set (R286). -/
structure WeightSet where
  kind : Nat
  masked : Bool
  low : Bool
  m1 : Bool
  m2 : Bool
  matrix : Nat
  mfmt : Nat
  sliceRows : Nat
  vdesc : Nat × Nat
  ldesc : Nat × Nat
  m1desc : Nat × Nat
  m2desc : Nat × Nat
  tdesc : Nat × Nat
  verdesc : Nat
  slices : Nat
  deriving DecidableEq, Repr

/-- A shared window (R455). -/
structure Window where
  num : Nat
  notify : Bool
  alloc : Nat
  slots : Nat
  slotSize : Nat
  deriving DecidableEq, Repr

/-- The checkpoint table (R503). -/
structure CkptTable where
  buddy : BitVec 16
  ward : BitVec 16
  entries : Nat
  buddyBase : Nat
  wardBase : Nat
  localBase : Nat
  slotBytes : Nat
  deriving DecidableEq, Repr

/-- A verified plan image, read once (R35 to R37). `records` holds the 48 lists of section type
0x0001 and `values` the object-dictionary section. -/
structure Plan where
  masked : Bool
  compat : Bool
  nodeId : BitVec 16
  numModules : Nat
  stepFirst : Nat
  stepLast : Nat
  maskPeriod : Nat
  ckptPeriod : Nat
  setDigest : Nat
  configDigest : Nat
  imageDigest : Nat
  records : List (List Rec)
  descs : List Desc
  allocs : List Alloc
  pools : List Pool
  needs : List Need
  chains : List Chain
  routes : List Route
  backups : List Backup
  groups : List Group
  refPeriod : Nat
  preds : List PredEntry
  tables : List (FnTable × FnTable)
  launch : LaunchRules
  micro : List (Nat × Bytes)
  values : List (Nat × Nat × Bytes)
  weightSets : List WeightSet
  windows : List Window
  ckpt : Option CkptTable
  deriving DecidableEq, Repr

/-- The record of a core at a position of its list. -/
def Plan.recAt (p : Plan) (c : Core) (r : Nat) : Option Rec := (p.records.getD c.val [])[r]?

/-- Descriptor number `n`. -/
def Plan.descAt (p : Plan) (n : Nat) : Option Desc := p.descs[n]?

/-- The members of the run: this module and the destinations of its routes, in ascending node ID
(R401 group 0). DEDUCED (log entry 12). -/
def runOf (node : BitVec 16) (ds : List (BitVec 16)) : List (BitVec 16) :=
  (ds.filter (fun d => d.toNat < node.toNat)) ++ node :: ds.filter (fun d => node.toNat < d.toNat)

/-- The members of a plan's run. -/
def Plan.runMembers (p : Plan) : List (BitVec 16) := runOf p.nodeId (p.routes.map Route.dst)

/-- A group by number; group 0 is the whole run (R401). -/
def Plan.group (p : Plan) (n : Nat) : Option Group :=
  if n = 0 then
    some ⟨p.runMembers, p.runMembers.findIdx? (· == p.nodeId)⟩
  else p.groups[n - 1]?

end Sys2Proof.Machine
end

