-- ==== Sys2Proof/Machine/State.lean ====
section
/-! DEFINITION. The state of the block: everything the spec gives the module, as plain data, the
queue of waiting commands, the reasons to stop, and the state at the release of reset. -/

namespace Sys2Proof.Machine

/-- Reasons for a fault. The spec gives every command an effect, so no meaning ends in one. -/
inductive Fault where
  /-- Raised by no meaning: the device reports its faults as events and aborts. Safe. -/
  | deviceFault
  deriving DecidableEq, Repr

/-- Reasons for a refusal. -/
inductive Refusal where
  /-- Raised by an arm of `exec` whose meaning is not written yet. Safe: it stops. -/
  | notModelled (mnemonic : String)
  deriving DecidableEq, Repr

/-! ### Engines, records in flight and signals -/

/-- The queues of a logical core: the core sequencer, the quarters of each dense array (R156),
the sparse engine, vector unit, predictor unit, stream engine, mask engine, and the collective
engines, which also run the checkpoint engine (R51, R44, R504). -/
inductive QueueId where
  | csq
  | da (array : Fin 4) (quarter : Fin 4)
  | se | vu | pu | st | me
  | ce (i : Fin 2)
  deriving DecidableEq, Repr

/-- How far a record in a queue has come (R48, R51, R53). -/
inductive Phase where
  | issued | granted | started | executed
  deriving DecidableEq, Repr

/-- Stash space a stash write has been given at its issue (R299): directory row, whether the entry
is stored, bytes in the primary region, offset and bytes in the overflow half, and the count that
limits dimension 0 of the source. -/
structure StashAlloc where
  row : Nat
  stored : Bool
  primary : Nat
  off : Nat
  spill : Nat
  count : Nat
  deriving DecidableEq, Repr

/-- A read of a feed (R356, R357): its address, the hint of its descriptor, whether it is the record's last read of its
line (R337), and the pass of a dense sweep whose tile of B it brings (R373). -/
structure Read where
  addr : Nat
  hint : Hint
  last : Bool
  pass : Option Nat
  deriving DecidableEq, Repr

/-- A record in the engine queues (R51 to R54). -/
structure QRec where
  recno : Nat
  queues : List QueueId
  phase : Phase := .issued
  credits : List (Nat × Nat) := []
  waitSince : Option Nat := none
  startedGc : Nat := 0
  /-- the first attempt has failed (R495): the event that a retry's success logs, with its detail;
  code 0 where the record's engine has none. -/
  failed : Option (BitVec 16 × Bytes) := none
  /-- governed by a reading of `SENSE` 0 (R302). -/
  noCount : Bool := false
  /-- the record's work tag has been invalidated (R380). -/
  tagInvalid : Bool := false
  /-- reads of the feed that have not landed, in the order they are made (R357, R380). -/
  reads : List Read := []
  /-- the feed writes to HBM or the die-shared area (R356). -/
  feedWrites : Bool := false
  /-- chain tiles that stand in the successor's slots (R373). -/
  tiles : Nat := 0
  /-- chain tiles delivered to the record's own engine, and how many its pass has (R373). -/
  passed : Nat := 0
  chainTiles : Nat := 0
  /-- first operand data with the record's tags has arrived (R53). -/
  arrived : Bool := false
  /-- the record has waited for a window slot (R458). -/
  slotWaited : Bool := false
  /-- index of the collective stage in progress (R406), and the nodes or shards this member holds for others. -/
  stage : Nat := 0
  nodes : List Piece := []
  stash : Option StashAlloc := none
  deriving DecidableEq, Repr

/-- Chain slots that stay held after their record has completed (R367, R373): core, pool, credits,
chain and position of the holder, its tags, and tiles not yet taken. -/
structure ChainHold where
  core : Core
  recno : Nat
  pool : Nat
  credits : Nat
  chain : Nat
  pos : Nat
  mbtag : BitVec 16
  version : Nat
  tiles : Nat
  deriving DecidableEq, Repr

/-- A signal under way on the die fabric with the sender's step number (R49). -/
structure SignalMsg where
  core : Core
  tally : Fin 64
  inc : Nat
  step : Nat
  /-- the island that sends it (R28, R49). -/
  sender : Nat
  deriving DecidableEq, Repr

/-- A logical core (R14, R47, R50, R51). -/
structure CoreState where
  tallies : Vector Nat 64
  /-- the pending buffer: step, tally and increment (R50). -/
  held : List (Nat × Fin 64 × Nat)
  next : Nat
  last : Nat
  ended : Bool
  done : Bool
  /-- records a regeneration gate still skips, and still runs without counts (R302). -/
  skip : Nat
  sense0 : Nat
  inflight : List QRec
  /-- records of an aborted step whose feeds still have reads in flight: they hold their credits until the last has
  landed (R367, R380). -/
  landing : List QRec
  /-- work tags invalidated by cancel records (R378). -/
  cancelled : List (BitVec 32)
  /-- partition mode of each dense array (R156): the `PART` value last in force. -/
  daModes : Vector (Fin 4) 4
  /-- GC from which a record has waited for a change of partition mode (R156). -/
  drainSince : Option Nat
  /-- the overflow pointers of the two stash banks (R299). -/
  overflow : Nat × Nat
  overflowHigh : Nat
  deriving DecidableEq, Repr

/-- A logical core at launch of nothing. -/
def CoreState.idle : CoreState where
  tallies := Vector.replicate 64 0
  held := []
  next := 0
  last := 0
  ended := false
  done := false
  skip := 0
  sense0 := 0
  inflight := []
  landing := []
  cancelled := []
  daModes := Vector.replicate 4 0
  drainSince := none
  overflow := (0, 0)
  overflowHigh := 0

/-! ### The step -/

/-- `STEP_STATE` (R56). -/
inductive StepStatus where
  | idle | running | ended | aborted
  deriving DecidableEq, Repr

/-- A count that follows R83: the index of its module total, the descriptor, matrix or predictor
it is charged to, and its subindex. -/
abbrev CountKey := Nat × Nat × Nat

/-- What the running step has gathered (R55, R83). -/
structure StepState where
  current : Nat
  status : StepStatus
  /-- a step has launched since power-on (R487 `ESTEP`). -/
  launched : Bool
  /-- the step last launched (R487). -/
  lastLaunched : Nat
  launchGc : Nat
  /-- GC at which the step completed (R447), and at which it completed or aborted (R376). -/
  endGc : Nat
  stoppedGc : Nat
  /-- the planned next launch `P` (R440). -/
  planned : Nat
  /-- the step in progress is a relaunch, and how many in a row (R445). -/
  relaunches : Nat
  causes : List (BitVec 16)
  counts : List (CountKey × Nat)
  /-- counters that have logged their first event of the step (R84). -/
  seen : List CountKey
  /-- tile statuses written in the step, per descriptor (R105). -/
  tiles : List (Nat × List Nat)
  /-- the first tensor to receive a NaN (R85). -/
  nan : Option Nat
  /-- a layer under HALT was marked (R275): the predictor number. -/
  halt : Option Nat
  /-- the reference-count records that have run, by predictor: their `RECNO` (R278, R284). -/
  refRecs : List (Nat × Nat)
  /-- the step aborts at its launch (R50). -/
  nextAborts : Bool
  /-- the version entries the step wrote: version descriptor, slice, buffer, version, `RECNO` (R321, R326). -/
  versions : List (Nat × Nat × Nat × Nat × Nat)
  /-- window slots accessed by the step: window, slot (R458). -/
  slotsUsed : List (Nat × Nat)
  /-- slots poisoned by the step and result tensors written (R458, R460). -/
  slotsPoisoned : List (Nat × Nat)
  /-- result tensors written: descriptor, with the window slot that holds it (R429). -/
  results : List (Nat × Option (Nat × Nat))
  /-- content digests of the slots read (R428). -/
  slotDigests : List (Nat × Nat × Nat)
  poolLow : List (Nat × Nat)
  poolWaited : List (Nat × Nat)
  /-- masked matrices with a pending commit and their mask digests (R251). -/
  masks : List (Nat × Nat)
  deriving DecidableEq, Repr

/-- The step before any launch. -/
def StepState.initial : StepState where
  current := 0
  status := .idle
  launched := false
  lastLaunched := 0
  launchGc := 0
  endGc := 0
  stoppedGc := 0
  planned := 0
  relaunches := 0
  causes := []
  counts := []
  seen := []
  tiles := []
  nan := none
  halt := none
  refRecs := []
  nextAborts := false
  versions := []
  slotsUsed := []
  slotsPoisoned := []
  results := []
  slotDigests := []
  poolLow := []
  poolWaited := []
  masks := []

/-! ### Time, agreement -/

/-- `GC_STATE` (R435). -/
inductive GcStatus where
  | free | acquiring | locked | holdover | unlocked
  deriving DecidableEq, Repr

/-- The global counter (R432 to R438): `frac` in 1/16 tick, `samples` the last offsets in 1/16
tick, newest first. -/
structure GcState where
  value : Nat
  frac : Nat
  st : GcStatus
  samples : List Int
  parent : Option Port
  root : Option (BitVec 16)
  rootPrio : Bool
  dist : Nat
  lastSample : Nat
  holdoverSince : Nat
  aligned : Bool
  /-- 1/16 ticks still to be steered away by rate (R432, R434). -/
  steer : Int
  deriving DecidableEq, Repr

/-- The name of an agreement round (R407): kind 0 round A, 1 round B, 2 mask commit. -/
structure RoundName where
  group : Nat
  kind : Nat
  matrix : Nat
  key : Nat
  deriving DecidableEq, Repr

/-- An agreement round in progress (R407). -/
structure Round where
  name : RoundName
  mins : List Nat
  maxs : List Nat
  /-- this module has contributed its words. -/
  own : Bool
  /-- children heard from, by member index. -/
  children : List Nat
  /-- the up message has been sent. -/
  sentUp : Bool
  result : Option (List Nat × List Nat)
  deriving DecidableEq, Repr

/-- What a decided launch will do (R444). -/
structure LaunchPlan where
  step : Nat
  gc : Nat
  shift : Nat
  relaunch : Bool
  deriving DecidableEq, Repr

/-- The launch agreement (R442 to R444). -/
structure AgreeState where
  attempt : Nat
  /-- differing attempts in a row. -/
  differing : Nat
  contributed : Bool
  /-- GC of the contribution and of the end of the attempt. -/
  contribGc : Nat
  /-- results of rounds A and B of the attempt, minima and maxima. -/
  resA : Option (List Nat × List Nat)
  resB : Option (List Nat × List Nat)
  decided : Option LaunchPlan
  /-- GC at which a new attempt begins. -/
  retryAt : Option Nat
  notReadyLogged : Bool
  /-- the configuration event of R441 has been logged in this agreement. -/
  digestLogged : Bool
  /-- the contribution said that this module aborted the step (R443). -/
  saidAborted : Bool
  /-- the attempts have ended without a launch, and the host must act (R411, R413, R444). -/
  stopped : Bool
  /-- the host has written `LAUNCH_GC` and the launch has not yet taken place (R440). -/
  hostLaunch : Option LaunchPlan
  deriving DecidableEq, Repr

/-! ### Ports -/

/-- Port states (R418). -/
inductive PortStatus where
  | down | training | up | upNoSpare | peerFrozen | failed
  deriving DecidableEq, Repr

/-- A lane swap under way (R391, R392): logical lane, physical lane that takes it over, block at which it takes effect,
whether an error rate caused it, and the uptime at which it was decided. -/
structure LaneSwap where
  lane : Nat
  phys : Nat
  block : Nat
  rate : Bool
  since : Nat
  deriving DecidableEq, Repr

/-- Errors of a physical lane (R391): uptime, corrected symbols, and uncorrectable blocks attributed to it. -/
structure LaneErrs where
  phys : Nat
  at_ : Nat
  ce : Nat
  ue : Nat
  deriving DecidableEq, Repr

/-- The lanes of one direction of a port (R386, R391 to R393). -/
structure Lanes where
  map : Vector Nat 8
  spare : Option Nat
  failed : List Nat
  swap : Option LaneSwap
  /-- lanes swapped out and under test. -/
  testing : List Nat
  /-- errors of the last hour (R391). -/
  errs : List LaneErrs
  deriving DecidableEq, Repr

/-- A fabric port (R384 to R393, R409, R434). -/
structure PortState where
  st : PortStatus
  peerNode : BitVec 16
  peerPort : Nat
  tx : Lanes
  rx : Lanes
  txSeq : Nat
  rxSeq : Nat
  /-- flits kept for replay with their types, oldest first (R389). -/
  replay : List (BitVec 8 × Flit)
  nakSent : Bool
  /-- sequenced flits that wait for a credit or a replay entry, oldest first, with the port whose receive buffer a
  forwarded one still holds (R389, R390). -/
  waitq : List (BitVec 8 × Flit × Option Port)
  txCredits : Vector Nat 4
  rxFreed : Vector Nat 4
  lastLife : Nat
  /-- uptime at which the link was trained: blocks follow from it without a gap (R386). -/
  trainedAt : Nat
  /-- `TX_TIME` of the peer's last `TIME` flit and its receive time, in 1/16 tick (R434). -/
  timeEcho : Option (Nat × Nat)
  /-- root, priority and distance the peer advertises. -/
  peerRoot : Option (BitVec 16 × Bool × Nat)
  /-- one-way delay and offset last measured, in 1/16 tick. -/
  delay : Int
  offset : Int
  deriving DecidableEq, Repr

/-- Lanes at reset: identity map, spare `L8`. -/
def Lanes.initial : Lanes := ⟨⟨⟨List.range 8⟩, by simp⟩, some 8, [], none, [], []⟩

/-- A port at reset (R418: DOWN; R390: 256 credits per channel). -/
def PortState.initial : PortState where
  st := .down
  peerNode := 0
  peerPort := 0
  tx := Lanes.initial
  rx := Lanes.initial
  txSeq := 0
  rxSeq := 0
  replay := []
  nakSent := false
  waitq := []
  txCredits := Vector.replicate 4 256
  rxFreed := Vector.replicate 4 0
  lastLife := 0
  trainedAt := 0
  timeEcho := none
  peerRoot := none
  delay := 0
  offset := 0

/-- One end of a link (R410). -/
abbrev LinkEnd := BitVec 16 × Nat

/-- A confirmed down link with its cause (R410, R411): the lower end first. -/
structure DownLink where
  a : LinkEnd
  b : LinkEnd
  cause : Nat
  deriving DecidableEq, Repr

/-- A stack that has become HOT and whose `HOLD` is not sent yet, with the collective stages then in
progress: core, record and stage (R345). -/
structure HoldWait where
  stack : Stack
  stages : List (Core × Nat × Nat)
  /-- the agreement rounds whose hop level was in progress (R406). -/
  rounds : List Round
  deriving DecidableEq, Repr

/-- An open transfer from another module (R398). -/
structure Inbound where
  src : BitVec 16
  xid : Nat
  addr : Nat
  len : Nat
  got : List Nat
  discard : Bool
  deriving DecidableEq, Repr

/-- An own transfer not yet acknowledged (R398): the record that waits for it. -/
structure Outbound where
  dst : BitVec 16
  xid : Nat
  core : Core
  recno : Nat
  deriving DecidableEq, Repr

/-! ### Management -/

/-- A response of the object dictionary (R461). -/
structure Response where
  iop : BitVec 8
  iflags : BitVec 16
  iseq : BitVec 32
  idx : BitVec 16
  sub : BitVec 8
  istatus : Nat
  ioffset : BitVec 64
  payload : Bytes
  deriving DecidableEq, Repr

/-- What an RDMA request is answered with (R452, R454, R459). -/
inductive RdmaReply where
  | ack
  | data (bytes : Bytes)
  | atomic (old : BitVec 64)
  | nakAccess
  | nakInvalid
  deriving DecidableEq, Repr

/-- What the module has sent. -/
inductive Out where
  | flit (p : Port) (ftype : BitVec 8) (f : Flit)
  | response (src : Source) (r : Response)
  | notice (sink : Bytes) (seq : Nat) (payload : Bytes)
  | rdma (qp : Nat) (r : RdmaReply)
  /-- a congestion notification packet to the peer of a queue pair (R452). -/
  | cnp (qp : Nat)
  | neighbour (n : Neighbour)
  | tdo (value : Nat)
  /-- a SWAP message repeated on the spare lane (R392). -/
  | spareLane (p : Port) (arg : BitVec 32) (block : Nat)
  deriving DecidableEq, Repr

/-- An event record (R487); `detail` is at most 10 bytes. -/
structure EventRec where
  gc : Nat
  code : BitVec 16
  island : Nat
  byB : Bool
  seq : Nat
  step : Option Nat
  detail : Bytes
  /-- a read of `EVENT_LOG` has returned the record (R490 `EVENT_LOST`). -/
  read : Bool := false
  deriving DecidableEq, Repr

/-- The event log (R489). -/
structure EventLog where
  recs : List EventRec
  nextSeq : Nat
  lost : Nat
  deriving DecidableEq, Repr

/-- An audit record (R429). -/
structure AuditRec where
  step : Nat
  desc : Nat
  node : BitVec 16
  prov : Nat
  content : Nat
  deriving DecidableEq, Repr

/-- A replay record (R430). -/
structure ReplayRec where
  step : Nat
  gc : Nat
  epoch : Nat
  relaunch : Bool
  shift : Nat
  seed : Nat
  deriving DecidableEq, Repr

/-- The values of the selector entries of one source (R472, R490). -/
structure Selection where
  numeric : Nat := 0
  pred : Nat := 0
  pool : Nat := 0
  eventFrom : Nat := 0
  deriving DecidableEq, Repr

/-- A segmented write in progress (R463): pieces received, and the length once known. -/
structure Transfer where
  src : Source
  pieces : List (Nat × Bytes)
  len : Option Nat
  last : Nat
  signed : Bool
  deriving DecidableEq, Repr

/-- A snapshot of a DOMAIN entry (R463). -/
structure Snapshot where
  src : Source
  key : Nat
  bytes : Bytes
  last : Nat
  deriving DecidableEq, Repr

/-- The active management island (R501). -/
inductive MgmtSide where
  | a | b
  deriving DecidableEq, Repr

/-- The management island (R461 to R465, R472, R492, R493, R501, R540). -/
structure MgmtState where
  active : MgmtSide
  /-- both islands are silent (R501). -/
  silent : Bool
  kept : List (Source × List (BitVec 32 × Response))
  selections : List (Source × Selection)
  transfers : List (Nat × Transfer)
  snapshots : List Snapshot
  noticeSeq : Nat
  challenge : Nat
  uncheckedSeen : Bool
  attestReport : Bytes
  /-- uptime at which a rate-limited event was last logged, by code and number (R522, R389). -/
  lastLogged : List (Nat × Nat)
  deriving DecidableEq, Repr

/-! ### Package, power, service -/

/-- The power phase of the module (R528 to R532, R511). -/
inductive PowerPhase where
  | dark | inReset | up | fullFreeze
  deriving DecidableEq, Repr

/-- The first-stage converter (R522). A lockout stands for as long as the input is out of its limits, whether or not
`PWR_EN` asks for the stage, and beside a trip. -/
inductive Stage where
  | off | running | underLockout | overLockout | tripped | trippedUnder | trippedOver
  deriving DecidableEq, Repr

/-- An output pin (R509, R525). -/
inductive PinLevel where
  | low | high | z
  deriving DecidableEq, Repr

/-- The discrete pins (R525). -/
structure Pins where
  pwrEn : Bool
  resetN : Bool
  freezeN : Bool
  pwrGood : PinLevel
  thermTripN : PinLevel
  faultN : PinLevel
  presentN : PinLevel
  deriving DecidableEq, Repr

/-- Bring-up states (R541). -/
inductive Bringup where
  | running | ready | failed | recovery
  deriving DecidableEq, Repr

/-- Island states (R29). -/
inductive IslandState where
  | run | held | spare | fenced | failed
  deriving DecidableEq, Repr

/-- Classes of a laser input (R385). -/
inductive LaserClass where
  | dark | low | lit
  deriving DecidableEq, Repr

/-- A laser input (R385). -/
structure Laser where
  cls : LaserClass
  cand : LaserClass
  dbm : F32
  deriving DecidableEq, Repr

/-- A program image held by a part (R516, R517): version and digest. -/
structure Program where
  version : Nat
  digest : Nat
  deriving DecidableEq, Repr

/-- The two copies of one program kind (R517, R533). -/
structure ProgramStore where
  current : Program
  previous : Program
  /-- a verified image in the idle half (R517). -/
  staged : Option Program
  deriving DecidableEq, Repr

/-- A non-volatile program store (R533): the copies of every kind, the pin record, the public keys and the service
area. -/
structure Store where
  programs : Vector ProgramStore 9
  /-- the digest of the current copy of each kind. -/
  pins : Vector Nat 9
  silelmKey : Bytes
  customerKey : Option Bytes
  /-- HBM rows repaired, and whether the repair is hard (R342). -/
  repairs : List (Nat × Bool)
  deriving DecidableEq, Repr

/-- What survives power loss (R533, R539): the fuses and the stores of the two I/O dies. -/
structure NonVolatile where
  /-- customer key entries fused, newest last; `none` is a revocation (R539). -/
  fuses : List (Option (BitVec 256))
  a : Store
  b : Store
  deriving DecidableEq, Repr

/-- Management A reads its own store (R534). -/
def NonVolatile.programs (nv : NonVolatile) : Vector ProgramStore 9 := nv.a.programs

/-- The repair list (R342). -/
def NonVolatile.repairs (nv : NonVolatile) : List (Nat × Bool) := nv.a.repairs

/-- The customer public key as stored (R533). -/
def NonVolatile.storedKey (nv : NonVolatile) : Option Bytes := nv.a.customerKey

/-- Both stores hold the same contents, and are written alike (R533). -/
def NonVolatile.modStores (nv : NonVolatile) (f : Store → Store) : NonVolatile := { nv with a := f nv.a, b := f nv.b }

/-- Sets the copies of a kind; the pin record names the current one (R533). -/
def Store.setProgram (x : Store) (k : Kind) (p : ProgramStore) : Store :=
  { x with programs := x.programs.set k p, pins := x.pins.set k p.current.digest }

/-- Thermal states of a stack (R344). -/
inductive Thermal where
  | normal | doubled | hold | trip
  deriving DecidableEq, Repr

/-- A sparing (R499): scheduled while `startGc` is `none`, else its copy has begun; `cause` is 1 lasting,
2 transient rate, 3 host request (R521). -/
structure Sparing where
  logical : Core
  physical : Phys
  spare : Phys
  startGc : Option Nat
  copied : Bool
  cause : Nat
  deriving DecidableEq, Repr

/-- A checkpoint restore in progress (R507). -/
structure Restore where
  step : Nat
  pulling : Bool
  deriving DecidableEq, Repr

/-- Freeze states (R510, R511). -/
inductive FreezeStatus where
  | run | pending | capture | full
  deriving DecidableEq, Repr

/-- A freeze (R510 to R513). -/
structure FreezeState where
  st : FreezeStatus
  count : Nat
  full : Bool
  byPin : Bool
  stopGc : Nat
  triggerUptime : Nat
  /-- THE MODEL'S OWN field: the draw that stands for the free bytes of the read-outs of one stop (log entry 6). -/
  draw : Nat
  deriving DecidableEq, Repr

/-- The test access port (R514): instruction register. -/
structure TapState where
  ir : BitVec 8
  deriving DecidableEq, Repr

/-- A line of a die-shared cache (R335 to R337). -/
structure CacheLine where
  addr : Nat
  sticky : Bool
  deriving DecidableEq, Repr

/-- A plan slot (R39): the verified image's parse, its `IMAGE_DIGEST`, and whether its signature went unchecked
(R40). Its bytes stand in memory, in the slot's range. -/
structure PlanSlot where
  plan : Option Plan
  digest : Nat
  unchecked : Bool
  deriving DecidableEq, Repr

/-- An empty plan slot. -/
def PlanSlot.empty : PlanSlot := ⟨none, 0, false⟩

/-- The state of the module. -/
structure State where
  phase : PowerPhase
  stage : Stage
  latchedCause : Nat
  tripLatch : Bool
  pins : Pins
  bringup : Bringup
  moduleLost : Bool
  planStuck : Bool
  hostPllLost : Bool
  /-- management island B has lost its clock: there is no standby until the next power-on (R25). -/
  standbyOff : Bool
  nv : NonVolatile
  /-- the programs that run, kinds 0x01 to 0x09 (R480, R516, R534). -/
  running : Vector Program 9
  /-- `PROGRAM_PIN` in force (R518). -/
  pinned : Vector Nat 9
  /-- the stored customer key did not match its fuse: the slot counts as empty (R534). -/
  keyUnusable : Bool
  /-- what the last release of reset found in the stores (R534, R535). -/
  bootChecks : BootChecks
  mgmt : MgmtState
  /-- object-dictionary scalars that differ from their defaults, keyed index x 256 + subindex. -/
  od : List (Nat × Nat)
  /-- values of RW DOMAIN entries, by the same key. -/
  blobs : List (Nat × Bytes)
  /-- staged values of RWS entries (R474), by the same key. -/
  staged : List (Nat × Bytes)
  stageLock : Bool
  log : EventLog
  auditLog : List AuditRec
  replayLog : List ReplayRec
  /-- ns since the release of reset. -/
  uptime : Nat
  gc : GcState
  syncSeenAt : Option Nat
  coreMap : Vector Phys 48
  spares : Vector (Option Phys) 4
  islands : List (Nat × IslandState)
  lasers : Vector Laser 8
  mem : List Host.Cell
  /-- poisoned ECC words by address (R340), rising. -/
  poison : List Nat
  caches : Vector (List CacheLine) 4
  /-- resident sheaves of each stream engine, most recent first (R358). -/
  sheaves : Vector (List Nat) 8
  rowErrors : List (Nat × Nat)
  faultyRows : List Nat
  /-- rows that were faulty when no spare was left for them (R343). -/
  badRows : List Nat
  thermal : Vector Thermal 8
  temps : Vector F32 8
  /-- steps by which a pseudo-channel's strobe delay has drifted from the centre of its last scan
  (R348, R350). -/
  strobes : List (Nat × Int)
  marginScan : List Stack
  /-- the settings of each lane's last scan, keyed stack x 256 + lane: read delay, read reference, write delay, write
  reference (R348). -/
  laneSets : List (Nat × List Nat)
  marginResult : Bytes
  slots : PlanSlot × PlanSlot
  activeSlot : Option Bool
  plan : Option Plan
  step : StepState
  counts : List (CountKey × Nat)
  tileStatus : List (Nat × List Nat)
  poolLow : List (Nat × Nat)
  poolWaited : List (Nat × Nat)
  cores : Vector CoreState 48
  signals : List SignalMsg
  /-- `RECNO` of the record last started on an island (R512). -/
  lastStarted : List (Nat × Nat)
  chainHeld : List ChainHold
  /-- watchdog conditions that have logged their events (R375, R377). -/
  standing : List WatchCondition
  /-- stretches of GC in which no watchdog counts: freezes, and the waits for a launch (R376). -/
  pauses : List (Nat × Nat)
  /-- where the rotating order of a shared engine, by its island, begins (R236, R400). -/
  rotor : List (Nat × Nat)
  /-- matrices whose sync flag is set (R249). -/
  syncFlags : List Nat
  /-- the generation of each window number (R457). -/
  winGens : List (Nat × Nat)
  /-- set digests: weight set, version, digest (R428). -/
  setDigests : List (Nat × Nat × Nat)
  rounds : List Round
  agree : AgreeState
  holds : List (Nat × Nat)
  /-- launches for which a received `HOLD` has been logged (R414). -/
  holdsHeard : List Nat
  holdDue : List HoldWait
  sparing : List Sparing
  sparesFailed : List CDie
  restore : Option Restore
  /-- the shard digests of the two ward slots (R506). -/
  wardDigests : Vector Nat 2
  ports : Vector PortState 32
  floodSeq : Nat
  floodSeen : List (Nat × Nat)
  downLinks : List DownLink
  /-- GC of the first `LOSS` naming a node's link, and the origins heard (R411). -/
  lossAt : List (Nat × Nat)
  lossOrigins : List Nat
  lostNodes : List (BitVec 16)
  activeSets : List (BitVec 16 × Nat)
  inbound : List Inbound
  /-- writes to a core store under a sparing copy, held until its map commits (R499). -/
  heldWrites : List (Nat × Bytes)
  outbound : List Outbound
  nextXid : Nat
  epochCommitGc : Option Nat
  /-- faults of records that could not be repeated: unit, record, step (R496). -/
  coreFaults : List (Nat × Nat × Nat × Nat)
  /-- steps of the last fault of each collective engine (R408, R496). -/
  collFaults : List (Nat × Nat)
  /-- physical cores whose sparse engine alone is fenced (R500). -/
  seFenced : List Nat
  /-- requests that a fenced crossing has acknowledged with an error, by island (R28). -/
  fenceErrors : List (Nat × Nat)
  /-- error statuses that fenced crossings have returned, by the island of the sender (R28). -/
  errorReplies : List (Nat × Nat)
  transientBins : List (Nat × List Nat)
  freeze : FreezeState
  tap : TapState
  telemetry : List (Nat × Nat)
  out : List Out
  /-- THE MODEL'S OWN field: free values drawn so far (log entry 6). -/
  freeCount : Nat
  /-- the commands that wait, first in, first out. -/
  pending : List Instr
  deriving DecidableEq, Repr

/-! ### The state at the release of reset (R528, R530) -/

/-- The core map as shipped (R15). -/
def shippedMap : Vector Phys 48 :=
  ⟨⟨(List.range 48).map (fun l => Fin.ofNat 52 (l / 12 * 13 + l % 12))⟩, by simp⟩

/-- The spare of each die as shipped (R15). -/
def shippedSpares : Vector (Option Phys) 4 :=
  ⟨⟨[some 12, some 25, some 38, some 51]⟩, by simp⟩

/-- The spares' islands (R29). -/
def shippedIslands : List (Nat × IslandState) :=
  [(12, .spare), (25, .spare), (38, .spare), (51, .spare)]

/-- A kind's program as shipped (log entry 5). -/
def shippedProgram (k : Nat) : Program := ⟨Config.perPart 0x1001 (k + 1), Config.perPart 0x1002 (k + 1)⟩

/-- A program store as shipped (log entry 5). -/
def Store.fresh : Store where
  programs := ⟨⟨(List.range 9).map (fun k => ⟨shippedProgram k, shippedProgram k, none⟩)⟩, by simp⟩
  pins := ⟨⟨(List.range 9).map (fun k => (shippedProgram k).digest)⟩, by simp⟩
  silelmKey := (List.range 1312).map (Config.perPartByte 0x1003 0)
  customerKey := none
  repairs := []

/-- A part as it leaves the factory: no fuse written, no row repaired (log entry 5). -/
def NonVolatile.fresh : NonVolatile := ⟨[], Store.fresh, Store.fresh⟩

/-- Stores in which every check passes: what the release behind `State.reset` found (DESIGN CHOICE, log entry 190). -/
def BootChecks.clean : BootChecks := ⟨true, ⟨[], [], true, true⟩, ⟨[], [], true, true⟩⟩

/-- The current copies of the stored programs (R533). -/
def NonVolatile.currents (nv : NonVolatile) : Vector Program 9 :=
  ⟨⟨nv.programs.toList.map ProgramStore.current⟩, by simp⟩

/-- Management at the release of reset, with the challenge drawn (R493). -/
def MgmtState.initial (draw : Nat) : MgmtState where
  active := .a
  silent := false
  kept := []
  selections := []
  transfers := []
  snapshots := []
  noticeSeq := 0
  challenge := (Config.randomWord draw).toNat
  uncheckedSeen := false
  attestReport := []
  lastLogged := []

/-- The global counter at the release of reset (R432, R435). -/
def GcState.initial : GcState where
  value := 0
  frac := 0
  st := .free
  samples := []
  parent := none
  root := none
  rootPrio := false
  dist := 255
  lastSample := 0
  holdoverSince := 0
  aligned := false
  steer := 0

/-- No agreement in progress. -/
def AgreeState.initial : AgreeState where
  attempt := 0
  differing := 0
  contributed := false
  contribGc := 0
  resA := none
  resB := none
  decided := none
  retryAt := none
  notReadyLogged := false
  digestLogged := false
  saidAborted := false
  stopped := false
  hostLaunch := none

/-- A laser input before its first reading (log entry 4). -/
def Laser.initial : Laser := ⟨.dark, .dark, 0⟩

/-- The state the moment reset is released, with the given non-volatile contents (R528, R530). `draw` is the
number of free values drawn before (log entry 6). -/
def State.atRelease (nv : NonVolatile) (draw : Nat) : State where
  phase := .up
  stage := .running
  latchedCause := 0
  tripLatch := false
  pins := ⟨true, true, true, .high, .high, .high, .low⟩
  bringup := .running
  moduleLost := false
  planStuck := false
  hostPllLost := false
  standbyOff := false
  nv := nv
  running := nv.currents
  pinned := ⟨⟨nv.currents.toList.map Program.digest⟩, by simp⟩
  keyUnusable := false
  bootChecks := BootChecks.clean
  mgmt := MgmtState.initial draw
  od := []
  blobs := []
  staged := []
  stageLock := false
  log := ⟨[], 0, 0⟩
  auditLog := []
  replayLog := []
  uptime := 0
  gc := GcState.initial
  syncSeenAt := none
  coreMap := shippedMap
  spares := shippedSpares
  islands := shippedIslands
  lasers := Vector.replicate 8 Laser.initial
  mem := []
  poison := []
  caches := Vector.replicate 4 []
  sheaves := Vector.replicate 8 []
  rowErrors := []
  faultyRows := []
  badRows := []
  thermal := Vector.replicate 8 .normal
  temps := Vector.replicate 8 0
  strobes := []
  marginScan := []
  laneSets := []
  marginResult := List.replicate 8192 0
  slots := (PlanSlot.empty, PlanSlot.empty)
  activeSlot := none
  plan := none
  step := StepState.initial
  counts := []
  tileStatus := []
  poolLow := []
  poolWaited := []
  cores := Vector.replicate 48 CoreState.idle
  signals := []
  lastStarted := []
  chainHeld := []
  standing := []
  pauses := []
  rotor := []
  syncFlags := []
  winGens := []
  setDigests := []
  rounds := []
  agree := AgreeState.initial
  holds := []
  holdsHeard := []
  holdDue := []
  sparing := []
  sparesFailed := []
  restore := none
  wardDigests := Vector.replicate 2 0
  ports := Vector.replicate 32 PortState.initial
  floodSeq := 0
  floodSeen := []
  downLinks := []
  lossAt := []
  lossOrigins := []
  lostNodes := []
  activeSets := []
  inbound := []
  heldWrites := []
  outbound := []
  nextXid := 0
  epochCommitGc := none
  coreFaults := []
  collFaults := []
  seFenced := []
  fenceErrors := []
  errorReplies := []
  transientBins := []
  freeze := ⟨.run, 0, false, false, 0, 0, 0⟩
  tap := ⟨0x01⟩
  telemetry := []
  out := []
  freeCount := draw + 1
  pending := []

/-- The machine right after reset: reset has just been released on a fresh part. -/
def State.reset : State := State.atRelease NonVolatile.fresh 0

end Sys2Proof.Machine
end

