-- ==== Sys2Proof/Machine/Ops.lean ====
section
/-! DEFINITION. Operations every meaning shares: dictionary scalars, counters, events and notices,
memory, islands, and sending flits. -/

namespace Sys2Proof.Machine

/-- The outcome of a meaning. -/
abbrev Result := Host.Outcome State Fault Refusal

/-! ### Dictionary scalars -/

/-- The scalar held for an entry (R468: its default until it changes). -/
def State.obj (s : State) (idx sub : Nat) : Nat := Assoc.read objDefault s.od (objKey idx sub)

/-- Sets the scalar of an entry. -/
def State.setObj (s : State) (idx sub v : Nat) : State :=
  { s with od := Assoc.write objDefault s.od (objKey idx sub) v }

/-- Adds to a counter, which holds at its type's largest value (R83, R170). -/
def State.addObj (s : State) (idx sub n : Nat) : State :=
  let m := match objFind idx sub with
    | some o => o.ty.maxValue
    | none => 0
  s.setObj idx sub (min m (s.obj idx sub + n))

/-- The bytes held for an RW DOMAIN entry, zeros of length `n` before its first write. -/
def State.blob (s : State) (idx sub n : Nat) : Bytes :=
  (lookupKey (objKey idx sub) s.blobs).getD (List.replicate n 0)

/-! ### Events (R486 to R489) and notices (R465) -/

/-- The island of the active management (R487, R501). -/
def State.mgmtIsland (s : State) : Nat :=
  match s.mgmt.active with
  | .a => 0x78
  | .b => 0x79

/-- The 32 bytes of an event record (R487). -/
def EventRec.bytes (e : EventRec) : Bytes :=
  toLe 8 e.gc ++ toLe 2 e.code.toNat ++ toLe 1 e.island ++ [if e.byB then 1 else 0] ++ toLe 4 e.seq
    ++ toLe 6 (e.step.getD (2 ^ 48 - 1)) ++ padTo 10 e.detail

/-- Adds a record to the log, which holds the newest 65,536 (R489). -/
def EventLog.push (l : EventLog) (e : EventRec) : EventLog :=
  let recs := l.recs ++ [e]
  { recs := if recs.length > 65536 then recs.drop 1 else recs
    nextSeq := (l.nextSeq + 1) % 2 ^ 32
    lost := if recs.length > 65536 then l.lost + 1 else l.lost }

/-- The host link is up (R451). -/
def State.hostUp (s : State) : Bool := s.obj 0x1100 5 = 1

/-- Sends a notice to every address set (R465). -/
def State.notice (s : State) (payload : Bytes) : State :=
  let addrs := (List.range 4).filterMap (fun i =>
    let a := s.blob 0x1102 i 18
    if allZero a then none else some a)
  let msgs := if s.hostUp then addrs.map (fun a => Out.notice a s.mgmt.noticeSeq payload) else []
  { s with out := s.out ++ msgs
           mgmt := { s.mgmt with noticeSeq := (s.mgmt.noticeSeq + 1) % 2 ^ 32 } }

/-- Logs an event with its source island and detail (R487, R489), counts its class (R483) and
notifies it where the class bit is set (R465). -/
def State.event (s : State) (code : BitVec 16) (island : Nat) (detail : Bytes) : State :=
  let cls := code.toNat / 4096
  let e : EventRec :=
    { gc := s.gc.value, code := code, island := island, byB := s.mgmt.active = .b,
      seq := s.log.nextSeq,
      step := if s.step.launched then some (s.step.lastLaunched % 2 ^ 48) else none,
      detail := detail.take 10 }
  let s := { s with log := s.log.push e }
  let s := s.addObj 0x3000 (cls - 1) 1
  if (s.obj 0x1102 4).testBit (cls - 1) then s.notice (1 :: e.bytes) else s

/-- Logs an event of management, launch agreement or frames (R487). -/
def State.mgmtEvent (s : State) (code : BitVec 16) (detail : Bytes) : State :=
  s.event code s.mgmtIsland detail

/-- Logs an event at most once per `period` ns for each code and item (R389, R522). -/
def State.eventLimited (s : State) (code : BitVec 16) (item period : Nat) (island : Nat)
    (detail : Bytes) : State :=
  let k := code.toNat * 256 + item
  match lookupKey k s.mgmt.lastLogged with
  | some t =>
    if s.uptime < t + period then s
    else ({ s with mgmt := { s.mgmt with lastLogged := setKey k s.uptime s.mgmt.lastLogged } }).event
      code island detail
  | none =>
    ({ s with mgmt := { s.mgmt with lastLogged := setKey k s.uptime s.mgmt.lastLogged } }).event
      code island detail

/-! ### Islands, cores and dies -/

/-- The state of an island: `run` unless listed (R29). An island that a freeze has stopped keeps the state it had, as
the spec names none for it (DESIGN CHOICE, log entry 141). -/
def State.island (s : State) (i : Nat) : IslandState := (lookupKey i s.islands).getD .run

/-- The active management island serves: it is powered, clocked and not silent. When its clock stops with no standby
left, management stops until `MGMT_BOTH_SILENT` (R25, R501; DEDUCED, log entry 140). -/
def State.mgmtServes (s : State) : Bool := s.phase = .up && !s.mgmt.silent && s.island s.mgmtIsland = .run

/-- A crossing into an island is fenced: the island is mapped out (R28). -/
def State.isFenced (s : State) (i : Nat) : Bool := s.island i = .fenced || s.island i = .failed

/-- A fenced crossing into island `i` acknowledges a request of island `sender` itself: it returns an error status,
delivers nothing and counts the event (R28). -/
def State.fenceHit (s : State) (sender i : Nat) : State :=
  { s with fenceErrors := addKey i 1 s.fenceErrors, errorReplies := addKey sender 1 s.errorReplies }

/-- Sets the state of an island. -/
def State.setIsland (s : State) (i : Nat) (st : IslandState) : State :=
  { s with islands := setKey i st s.islands }

/-- The island IDs of R23 are assigned. -/
def islandAssigned (i : Nat) : Bool :=
  i ≤ 0x33 || (0x40 ≤ i && i ≤ 0x47) || (0x50 ≤ i && i ≤ 0x70) || (0x74 ≤ i && i ≤ 0x79)
    || (0x7C ≤ i && i ≤ 0x85)

/-- The island IDs in ascending order (R23). -/
def islandIds : List Nat := (List.range 256).filter islandAssigned

/-- The clock of an island in kHz (R23). -/
def islandClock (i : Nat) : Nat :=
  if i ≤ 0x33 then 1250000
  else if i ≤ 0x47 then 1000000
  else if i ≤ 0x70 then 1328125
  else if i ≤ 0x77 then 2000000
  else if i ≤ 0x79 then 1000000
  else if i ≤ 0x83 then 1250000
  else 1328125

/-- The die of a logical core (R15, R16). -/
def coreDie (c : Core) : Fin 4 := ⟨c.val / 12, by omega⟩

/-- The physical core serving a logical core (R14). -/
def State.physOf (s : State) (c : Core) : Phys := s.coreMap[c]

/-- Changes one logical core. -/
def State.modCore (s : State) (c : Core) (f : CoreState → CoreState) : State :=
  { s with cores := vmodify s.cores c f }

/-- Changes one port. -/
def State.modPort (s : State) (p : Port) (f : PortState → PortState) : State :=
  { s with ports := vmodify s.ports p f }

/-! ### Memory (R18 to R22, R332, R340, R351) -/

/-- Base of a die's physical view (R19). -/
def dieBase (d : Nat) : Nat := 0x10000000000 + d * 0x60000000

/-- The physical address of a device address; `none` where nothing is mapped (R18 to R20). -/
def State.phys (s : State) (a : Nat) : Option Nat :=
  if a < 0x6000000000 then some a
  else if 0x10000000000 ≤ a ∧ a < 0x10180000000 then some a
  else if 0x20000000000 ≤ a ∧ a < 0x20180000000 then
    let l := (a - 0x20000000000) / 0x8000000
    let off := (a - 0x20000000000) % 0x8000000
    if off < 0x6000000 then
      let p := (s.coreMap.toList.getD l 0).val
      some (dieBase (p / 13) + p % 13 * 0x6000000 + off)
    else none
  else none

/-- What a byte of memory that nothing has written reads as (R351). -/
def memDefault (_ : Nat) : Byte := 0

/-- The byte at a physical address. -/
def memRead (m : List Host.Cell) (a : Nat) : Byte := Assoc.read memDefault m a

/-- Writes a byte string at a physical address. -/
def memWrite : List Host.Cell → Nat → Bytes → List Host.Cell
  | m, _, [] => m
  | m, a, b :: bs => memWrite (Assoc.write memDefault m a b) (a + 1) bs

/-- The canonical form of a memory. -/
def Memory.wf (m : List Host.Cell) : Bool := Assoc.wf memDefault m

/-- The byte at a device address; unmapped addresses read as zero (no verified access meets one,
R123). -/
def State.byte (s : State) (a : Nat) : Byte :=
  match s.phys a with
  | some p => memRead s.mem p
  | none => 0

/-- `n` bytes from a device address. -/
def State.bytes (s : State) (a : Nat) : (n : Nat) → Bytes
  | 0 => []
  | n + 1 => s.byte a :: s.bytes (a + 1) n

/-- The little-endian value of `n` bytes at a device address. -/
def State.word (s : State) (a n : Nat) : Nat := leNat (s.bytes a n)

/-- The stack and stack offset of an HBM address (R328, R329). -/
def hbmDecode (a : Nat) : Nat × Nat :=
  if a < 0x3000000000 then
    ((a / 4096 % 8) ^^^ (a / 32768 % 8) ^^^ (a / 262144 % 8), a / 32768 * 4096 + a % 4096)
  else
    let r := a - 0x3000000000
    (r / 0x600000000, 0x600000000 + r % 0x600000000)

/-- The ECC word that holds a physical address: its address and bytes (R332, R338). -/
def eccWord (a : Nat) : Nat × Nat :=
  if a < 0x6000000000 then (a / 32 * 32, 32) else (a / 4 * 4, 4)

/-- The controller island of the first stack out of service that HBM bytes `[a, a + n)` lie on (R28, R347). -/
def State.stackOut (s : State) (a n : Nat) : Option Nat :=
  if n = 0 || 0x6000000000 ≤ a || (indices 8).all (fun h => !s.isFenced (0x40 + h.val)) then none
  else ((List.range ((a + n - 1) / 4096 - a / 4096 + 1)).map (fun i => 0x40 + (hbmDecode ((a / 4096 + i) * 4096)).1)).find?
    s.isFenced

/-- ECC words that a write of physical bytes `[a, a + n)` covers wholly lose their poison (R340). -/
def healPoison (ps : List Nat) (a n : Nat) : List Nat :=
  ps.filter (fun w => !(decide (a ≤ w) && decide (w + (eccWord w).2 ≤ a + n)))

/-- Read-modify-writes of a write of HBM bytes `[a, a + n)`: its first and last ECC word when the
write covers them in part, by stack (R332). -/
def rmwWords (a n : Nat) : List Nat :=
  if n = 0 then []
  else
    let first := a / 32
    let last := (a + n - 1) / 32
    let part (w : Nat) : Bool := decide (w * 32 < a) || decide (a + n < w * 32 + 32)
    (if part first then [first * 32] else []) ++
      (if last ≠ first && part last then [last * 32] else [])

/-- The lines of a cache that a write of HBM bytes `[a, a + n)` leaves (R336). -/
def dropLines (a n : Nat) (ls : List CacheLine) : List CacheLine :=
  ls.filter (fun l => decide (a + n ≤ l.addr) || decide (l.addr + 2048 ≤ a))

/-- Writes a run of bytes at a device address: one mapped region, as the checks of R123 ensure. -/
def State.writeRun (s : State) (a : Nat) (bs : Bytes) : State :=
  match s.phys a with
  | none => s
  | some p =>
    let s := { s with mem := memWrite s.mem p bs, poison := healPoison s.poison p bs.length }
    if p < 0x6000000000 then
      let s := { s with caches := vmap (dropLines p bs.length) s.caches }
      (rmwWords p bs.length).foldl (fun s w => s.addObj 0x3037 (hbmDecode w).1 1) s
    else s

/-- Bytes `[a, a + n)` hold a poisoned word (R340). -/
def State.poisoned (s : State) (a n : Nat) : Bool :=
  match s.phys a with
  | none => false
  | some p => s.poison.any (fun w => decide (w < p + n) && decide (p < w + (eccWord w).2))

/-- Base of the active plan slot (R39). -/
def State.activeBase (s : State) : Nat := if s.activeSlot = some true then 0x5E80000000 else 0x5D00000000

/-- The allocation of the active plan that holds all of `[a, a + n)` (R121, R123). -/
def Plan.allocOf (p : Plan) (a n : Nat) : Option (Nat × Alloc) :=
  (p.allocs.zipIdx.find? (fun (al, _) => al.base ≤ a && a + n ≤ al.base + al.len)).map
    (fun (al, i) => (i, al))

/-! ### Sending flits (R387 to R390, R395, R410) -/

/-- A port carries flits (R409: UP or `UP_NO_SPARE`). -/
def PortStatus.isUp : PortStatus → Bool
  | .up | .upNoSpare => true
  | _ => false

/-- This module's node ID (R481). -/
def State.nodeId (s : State) : BitVec 16 := BitVec.ofNat 16 (s.obj 0x1104 0)

/-- The configuration epoch (R441). -/
def State.epoch (s : State) : Nat := s.obj 0x1004 3

/-- The credits a port returns with its next flit: the lowest channel with freed buffers. -/
def PortState.creditReturn (p : PortState) : Option (Fin 4 × Nat) :=
  ((indices 4).find? (fun v => p.rxFreed[v] ≠ 0)).map (fun v => (v, min 1023 p.rxFreed[v]))

/-- Takes returned credits off the count of freed buffers. -/
def PortState.takeCredits (p : PortState) : Option (Fin 4 × Nat) → PortState
  | none => p
  | some (v, n) => { p with rxFreed := vmodify p.rxFreed v (· - n) }

/-- Stamps a flit with the acknowledgement and credits that ride in it (R387). -/
def PortState.stamp (p : PortState) (f : Flit) : Flit :=
  { f with ack := some (BitVec.ofNat 16 (p.rxSeq + 65535)), cred := p.creditReturn }

/-- Sends a link flit: not sequenced, no credit (R388). -/
def State.sendLink (s : State) (p : Port) (ftype : BitVec 8) (xinfo : BitVec 32) (payload : Bytes) :
    State :=
  let ps := s.ports[p]
  let f : Flit :=
    { vc := 0, ack := none, cred := none, seq := 0, dst := ps.peerNode, src := s.nodeId,
      epoch := BitVec.ofNat 32 s.epoch, hopptr := 0, path := 0, xinfo := xinfo,
      payload := padTo 224 payload }
  let f := ps.stamp f
  let s := s.modPort p (fun ps => ps.takeCredits f.cred)
  { s with out := s.out ++ [.flit p ftype f] }

/-- A sequenced flit may leave a port: a credit of its channel and a replay entry (R389, R390). -/
def PortState.canSend (p : PortState) (v : Fin 4) : Bool :=
  decide (0 < p.txCredits[v]) && decide (p.replay.length < 1024)

/-- Sends a sequenced flit now (R389, R390). -/
def State.emit (s : State) (p : Port) (ftype : BitVec 8) (f : Flit) : State :=
  let ps := s.ports[p]
  let f := ps.stamp { f with seq := BitVec.ofNat 16 ps.txSeq }
  let s := s.modPort p (fun ps =>
    { ps.takeCredits f.cred with
      txSeq := (ps.txSeq + 1) % 65536
      replay := ps.replay ++ [(ftype, f)]
      txCredits := vmodify ps.txCredits f.vc (· - 1) })
  { s with out := s.out ++ [.flit p ftype f] }

/-- A receive buffer is free again; its credit returns with a later flit (R390). -/
def State.freeBuffer (s : State) (src : Option Port) (v : Fin 4) : State :=
  match src with
  | some p => s.modPort p (fun ps => { ps with rxFreed := vmodify ps.rxFreed v (· + 1) })
  | none => s

/-- Sends a sequenced flit on a port that is up, or queues it behind those that wait. A flit forwarded from port `src`
holds its receive buffer until it has left (R390). -/
def State.sendSeq (s : State) (src : Option Port) (p : Port) (ftype : BitVec 8) (f : Flit) : State :=
  let ps := s.ports[p]
  if !ps.st.isUp then s.freeBuffer src f.vc
  else if ps.canSend f.vc && !(ps.waitq.any (fun w => w.2.1.vc = f.vc)) then (s.emit p ftype f).freeBuffer src f.vc
  else s.modPort p (fun ps => { ps with waitq := ps.waitq ++ [(ftype, f, src)] })

/-- Sends what credits and replay entries now allow, oldest first in each channel. -/
def State.drainWait (s : State) (p : Port) : State :=
  let q := s.ports[p].waitq
  let s := s.modPort p (fun ps => { ps with waitq := [] })
  q.foldl (fun s w => s.sendSeq w.2.2 p w.1 w.2.1) s

/-! ### Plans in force (R41) -/

/-- The slot that is not active (R39, R41). -/
def State.stagedSlot (s : State) : PlanSlot := if s.activeSlot = some false then s.slots.2 else s.slots.1

/-- The slot of the active image. -/
def State.imageSlot (s : State) : PlanSlot := match s.activeSlot with
  | some false => s.slots.1
  | some true => s.slots.2
  | none => PlanSlot.empty

/-- The staged image, once it has passed verification. -/
def State.verifiedStaged (s : State) : Option Plan := if s.obj 0x5001 0 = 2 then s.stagedSlot.plan else none

/-- The swap count in force. Before any image is active the staged value counts, since no launch can
bring it into force (DESIGN CHOICE, log entry 26). -/
def State.swapGc (s : State) : Nat :=
  match s.plan, lookupKey (objKey 0x5003 0) s.staged with
  | none, some b => leNat b
  | _, _ => s.obj 0x5003 0

/-- The image that becomes active at a launch at GC `g` (R41). -/
def State.swapAt (s : State) (g : Nat) : Option Plan :=
  if decide (0 < s.swapGc) && decide (s.swapGc ≤ g) then s.verifiedStaged else none

/-- The image in force from a launch at GC `g`. -/
def State.imageAt (s : State) (g : Nat) : Option Plan :=
  match s.swapAt g with
  | some p => some p
  | none => s.plan

/-- The plan that a coming launch will run: a verified staged image whose swap count is set, else the
active one (R41). -/
def State.planNext (s : State) : Option Plan :=
  match s.verifiedStaged with
  | some p => if decide (0 < s.swapGc) then some p else s.plan
  | none => s.plan

/-- The plan whose run the rounds span: the active one, before the first launch the staged one. -/
def State.runPlan (s : State) : Option Plan :=
  match s.plan with
  | some p => some p
  | none => s.planNext

/-- The route in force to a node: the entry of an active backup set, else the plan's (R394, R413). -/
def State.routeTo (s : State) (dst : BitVec 16) : Option Route :=
  match s.runPlan with
  | none => none
  | some pl =>
    let sets := pl.backups.filter (fun b => s.activeSets.contains (b.lnode, b.lport))
    match (sets.flatMap Backup.routes).find? (fun r => r.dst = dst) with
    | some r => some r
    | none => pl.routes.find? (fun r => r.dst = dst)

/-- Forwards a routed flit, received at port `src` or the module's own, on the port its route names (R395). A port that
has failed is mapped out: its crossing answers with an error (R28). -/
def State.forward (s : State) (src : Option Port) (island : Nat) (ftype : BitVec 8) (f : Flit) : State :=
  let port := (f.path >>> (5 * f.hopptr)).toNat % 32
  let p : Port := ⟨port, by omega⟩
  if f.hopptr ≥ 12 || !s.ports[p].st.isUp then
    let s := if f.hopptr < 12 && s.isFenced (0x50 + port) then s.fenceHit island (0x50 + port) else s
    ((s.addObj 0x3046 1 1).event 0x6105 island (toLe 1 port ++ toLe 2 f.dst.toNat)).freeBuffer src f.vc
  else s.sendSeq src p ftype { f with hopptr := f.hopptr + 1 }

/-- Sends a routed flit; channel 3 unless the route's own is asked for (R388, R390, R395). A module
without a valid node ID carries no routed flit (R481). -/
def State.sendRouted (s : State) (ftype : BitVec 8) (routeVc : Bool) (dst : BitVec 16)
    (xinfo : BitVec 32) (payload : Bytes) : State :=
  if s.obj 0x1104 1 = 0 then s
  else
    match s.routeTo dst with
    | none => s
    | some r =>
      s.forward none s.mgmtIsland ftype
        { vc := if routeVc then r.rvc else 3, ack := none, cred := none, seq := 0, dst := dst,
          src := s.nodeId, epoch := BitVec.ofNat 32 s.epoch, hopptr := 0, path := r.path,
          xinfo := xinfo, payload := padTo 224 payload }

/-- Every port, in ascending number. -/
def allPorts : List Port := indices 32

/-- Sends a flooded flit on every UP port but one (R410). -/
def State.floodOut (s : State) (ftype : BitVec 8) (except : Option Port) (f : Flit) : State :=
  allPorts.foldl (fun s p => if except = some p then s else s.sendSeq none p ftype f) s

/-- Originates a flood: the common header of R410, then the notice's own bytes. After `FROZEN` no flit leaves a module
until its freeze ends (R509). -/
def State.flood (s : State) (ftype : BitVec 8) (payload : Bytes) : State :=
  if s.freeze.st = .capture || s.freeze.st = .full then s else
  let seq := (s.floodSeq + 1) % 2 ^ 32
  let s := { s with floodSeq := seq }
  s.floodOut ftype none
    { vc := 3, ack := none, cred := none, seq := 0, dst := 0, src := s.nodeId,
      epoch := BitVec.ofNat 32 s.epoch, hopptr := 0, path := 0, xinfo := 0,
      payload := padTo 224 (toLe 2 s.nodeId.toNat ++ [0, 0] ++ toLe 4 seq ++ payload) }

end Sys2Proof.Machine
end

