-- ==== Sys2Proof/Machine/Cache.lean ====
section
/-! DEFINITION. The die-shared caches (R333, R335 to R337) and the sheaf caches (R358 to R360). -/

namespace Sys2Proof.Machine

/-- Segment `i` of a die's die-shared area is touched by an allocation of the plan (R333). -/
def Plan.segAllocated (p : Plan) (die i : Nat) : Bool :=
  let lo := dieBase die + 0x4E000000 + i * 0x1000000
  p.allocs.any (fun a => a.kind = .shared && decide (a.base < lo + 0x1000000) && decide (lo < a.base + a.len))

/-- Ways of a die's cache: its cache segments (R335); with no plan all 18 are (R333). -/
def State.cacheWays (s : State) (die : Nat) : Nat :=
  match s.plan with
  | none => 18
  | some p => ((List.range 18).filter (fun i => !p.segAllocated die i)).length

/-- The set of an address (R335). -/
def cacheSet (a : Nat) : Nat := a / 2048 % 8192

/-- Drops the last line that meets a condition: the least recently used, since lines stand most
recently used first. -/
def dropLast (f : CacheLine → Bool) (ls : List CacheLine) : List CacheLine :=
  match ls.reverse.find? f with
  | some l => ls.filter (fun x => x.addr ≠ l.addr)
  | none => ls

/-- Allocates a line: a NORMAL one in the place of the least recently used that is not sticky, a
KEEP one within the limit of `W - 1` sticky ways (R335, R337). -/
def allocLine (ways : Nat) (keep : Bool) (a : Nat) (ls : List CacheLine) : List CacheLine :=
  if ways = 0 then ls
  else
    let inSet (l : CacheLine) : Bool := cacheSet l.addr = cacheSet a
    let set := ls.filter inSet
    let keep := keep && decide (1 < ways)
    let stickyFull := decide (ways - 1 ≤ (set.filter CacheLine.sticky).length)
    let ls :=
      if keep && stickyFull then dropLast (fun l => inSet l && l.sticky) ls
      else if ways ≤ set.length then dropLast (fun l => inSet l && !l.sticky) ls
      else ls
    ⟨a, keep⟩ :: ls

/-- A read of a line of HBM under a hint (R337). -/
def readLine (ways : Nat) (hint : Hint) (a : Nat) (ls : List CacheLine) : List CacheLine :=
  match ls.find? (fun l => l.addr = a) with
  | some l =>
    match hint with
    | .normal => l :: ls.filter (fun x => x.addr ≠ a)
    | .stream => ls
    | .keep =>
      let others := ls.filter (fun x => x.addr ≠ a && cacheSet x.addr = cacheSet a && x.sticky)
      if others.length + 1 < ways then ls.map (fun x => if x.addr = a then ⟨a, true⟩ else x) else ls
    | .last => ls.filter (fun x => x.addr ≠ a)
  | none =>
    match hint with
    | .normal => allocLine ways false a ls
    | .keep => allocLine ways true a ls
    | .stream | .last => ls

/-- A read of HBM through a die's cache. -/
def State.cacheRead (s : State) (die : Fin 4) (hint : Hint) (addr : Nat) : State :=
  if addr < 0x6000000000 then
    { s with caches := vmodify s.caches die (readLine (s.cacheWays die.val) hint (addr / 2048 * 2048)) }
  else s

/-- The stream engine that serves a logical core (R356). -/
def coreEngine (c : Core) : Fin 8 := ⟨2 * (c.val / 12) + c.val % 2, by omega⟩

/-- Makes a sheaf the most recently named of an engine, keeping the newest 16 (R359). -/
def nameSheaf (j : Nat) (l : List Nat) : List Nat := (j :: l.filter (· ≠ j)).take 16

/-- A command of the sheaf engines: the sheaf lands, or an uncorrectable slot is discarded and
fetched again (R358, R360). -/
def execSheafFetch (e : Fin 8) (j : Nat) (w : WordCheck) (s : State) : Result :=
  let n := match s.plan with
    | some p => ceilDiv p.descs.length 64
    | none => 0
  if n ≤ j then .next s
  else
    let die := e.val / 2
    let s :=
      if w = .uncorrectable && (s.sheaves[e]).contains j then
        (s.addObj 0x303D die 1).event 0x1401 (0x80 + die) []
      else s
    .next { s with sheaves := vmodify s.sheaves e (nameSheaf j) }

end Sys2Proof.Machine
end

