-- ==== Sys2Proof/Machine/Morip.lean ====
section
/-! DEFINITION. Morip-128 and its drawing rules (R425, R426, R110). -/

namespace Sys2Proof.Machine

/-- Rotation to the left of a 32-bit word. -/
def rotl32 (x : Word) (n : Nat) : Word := (x <<< n) ||| (x >>> (32 - n))

/-- Four words of the generator's state. -/
structure Quad where
  w0 : Word
  w1 : Word
  w2 : Word
  w3 : Word
  deriving DecidableEq, Repr

/-- One round with its constant (R426). -/
def moripRound (x : Quad) (rc : Word) : Quad :=
  let x0 := x.w0 ^^^ rc
  let x0 := x0 + x.w1
  let x3 := rotl32 (x.w3 ^^^ x0) 16
  let x2 := x.w2 + x3
  let x1 := rotl32 (x.w1 ^^^ x2) 12
  let x0 := x0 + x1
  let x3 := rotl32 (x3 ^^^ x0) 8
  let x2 := x2 + x3
  let x1 := rotl32 (x1 ^^^ x2) 4
  ⟨x0, x1, x2, x3⟩

/-- The round constants (R426). -/
def moripConsts : List Word := [0x243F6A88, 0x85A308D3, 0x13198A2E, 0x03707344]

/-- Morip-128 of a key and a counter (R426). -/
def morip (k c : Quad) : Quad :=
  let x : Quad := ⟨c.w0 + k.w0, c.w1 + k.w1, c.w2 + k.w2, c.w3 + k.w3⟩
  let x := moripConsts.foldl moripRound x
  ⟨x.w0 + k.w1, x.w1 + k.w2, x.w2 + k.w3, x.w3 + k.w0⟩

/-- The key from the 128-bit run seed (R425). -/
def moripKey (seed : Nat) : Quad :=
  ⟨BitVec.ofNat 32 seed, BitVec.ofNat 32 (seed / 2 ^ 32), BitVec.ofNat 32 (seed / 2 ^ 64),
   BitVec.ofNat 32 (seed / 2 ^ 96)⟩

/-- The counter of a step, tensor identifier and element index (R425). -/
def moripCounter (step : Nat) (tid : Word) (e : Nat) : Quad :=
  ⟨BitVec.ofNat 32 e, BitVec.ofNat 32 (step / 2 ^ 32 % 65536 * 65536 + e / 2 ^ 32 % 65536), tid,
   BitVec.ofNat 32 step⟩

/-- The run seed in force (R448). -/
def State.runSeed (s : State) : Nat := s.obj 0x2A01 0 + 2 ^ 64 * s.obj 0x2A01 1

/-- The tensor identifier of a descriptor with its low 16 bits set (R110, R426). -/
def Desc.tid (d : Desc) (low : Nat) : Word := BitVec.ofNat 32 (d.tidHi.toNat * 65536 + low % 65536)

/-- The word `y0` drawn for an element (R426). -/
def State.draw (s : State) (step : Nat) (tid : Word) (e : Nat) : Nat :=
  (morip (moripKey s.runSeed) (moripCounter step tid e)).w0.toNat

end Sys2Proof.Machine
end

