-- ==== Sys2Proof/Machine/Abort.lean ====
section
/-! DEFINITION. The abort of a step (R55, R321, R380, R417). -/

namespace Sys2Proof.Machine

/-- The offset of the version a record reads, modulo 2³² (R290). -/
def Rec.verOffset (p : Plan) (r : Rec) : Nat := (r.wver + 2 ^ 32 - p.stepFirst % 2 ^ 32) % 2 ^ 32

/-- The buffered descriptors of a weight set: both buffers of every plane (R286, R287). -/
def WeightSet.buffered (w : WeightSet) : List Nat :=
  ([w.vdesc.1, w.vdesc.2, w.ldesc.1, w.ldesc.2, w.m1desc.1, w.m1desc.2, w.m2desc.1, w.m2desc.2,
    w.tdesc.1, w.tdesc.2]).filter (· ≠ 0xFFFFFFFF)

/-- The descriptor numbers a record names; those a prefetch may give as zero name nothing (R379). -/
def Rec.descs (r : Rec) : List Nat :=
  if r.engine = 5 && r.func = 5 then [r.desc0, r.desc4].filterMap id
  else [r.desc0, r.desc1, r.desc2, r.desc3, r.desc4, r.desc5].filterMap id

/-- A descriptor number held in a parameter: `none` for all ones (R146). -/
def paramDesc (w : BitVec 32) : Option Nat := if w = 0xFFFFFFFF then none else some w.toNat

/-- Descriptors a record names in its parameters: AUXDESC, OFFDESC, SDESC (R356). -/
def Rec.paramDescs (r : Rec) : List Nat :=
  let two := (paramDesc r.param1).toList ++ (paramDesc r.param2).toList
  if r.engine = 1 then (paramDesc r.param2).toList
  else if r.engine = 2 then (if r.func.toNat < 0x10 then two else (paramDesc r.param2).toList)
  else if r.engine = 4 && r.func ≠ 3 then (paramDesc r.param2).toList
  else []

/-- The plan reads a weight set at offset -2 (R321). -/
def Plan.readsLate (p : Plan) (w : WeightSet) : Bool :=
  p.records.any (fun l => l.any (fun r =>
    r.verOffset p = 2 ^ 32 - 2 && (r.descs ++ r.paramDescs).any (fun d => w.buffered.contains d)))

/-- The address of a slice's row in a version table (R118, R289). -/
def verRow (d : Desc) (slice : Nat) : Nat := ((d.base : Int) + slice * d.strides.headD 16 * 4).toNat

/-- The address of a slice's version entry for a buffer (R289). -/
def verAddr (d : Desc) (slice buf : Nat) : Nat := verRow d slice + buf * 8

/-- Sets one version entry; the elements of its row that hold no version are zero (R289). -/
def State.setVersion (s : State) (verdesc slice buf version : Nat) : State :=
  match s.plan.bind (fun p => p.descAt verdesc) with
  | none => s
  | some d =>
    (s.writeRun (verAddr d slice buf) (toLe 8 version)).writeRun (verRow d slice + 16) (List.replicate 48 0)

/-- The version entries the step wrote become all ones, and `STEP_RELAUNCH` falls to 0 where a
late reader needs what was overwritten (R321). The events of an abort come one after another: 0x4106 in the cycle of the
abort, 0x4603 once the entries are written (DEDUCED, log entry 174). -/
def State.abortVersions (s : State) : State :=
  let wrote := s.step.versions
  let s := wrote.foldl (fun s v => s.setVersion v.1 v.2.1 v.2.2.1 (2 ^ 64 - 1)) s
  match s.plan with
  | none => s
  | some p =>
    match (p.weightSets.zipIdx.filter (fun x => p.readsLate x.1)).findSome? (fun x =>
        (wrote.find? (fun v => v.1 = x.1.verdesc)).map (fun v => (v.2.2.2.2, x.2))) with
    | some (recno, i) => (s.setObj 0x2600 4 0).mgmtEvent 0x4603 (toLe 4 recno ++ toLe 1 i)
    | none => s

/-- A record in flight that an abort cuts short: of its feed's reads the first 32 that have not landed are in flight,
and land in discarded buffers (R55, R354, R380). -/
def QRec.cut (q : QRec) : QRec := { q with tagInvalid := true, reads := q.reads.take 32 }

/-- Ticks of the global counter as cycles of a core (R10, R23). -/
def coreCycles (ticks : Nat) : Nat := ticks * 5 / 4

/-- Ticks a core's next record has waited for a change of partition mode (R156). -/
def State.drainTicks (s : State) (c : Core) : Nat :=
  match s.cores[c].drainSince with
  | some t => s.gc.value - t
  | none => 0

/-- Ticks a core's requesters have waited for credits (R382). -/
def State.creditTicks (s : State) (c : Core) : Nat :=
  s.cores[c].inflight.foldl (fun a q => match q.waitSince with
    | some t => if q.phase = .issued then a + (s.gc.value - t) else a
    | none => a) 0

/-- Waits that an abort cuts short count as far as they went (R170). -/
def State.endWaits (s : State) : State :=
  (indices 48).foldl (fun s c =>
    let s := if s.drainTicks c = 0 then s else s.addObj 0x301D (s.physOf c).val (coreCycles (s.drainTicks c))
    if s.creditTicks c = 0 then s else s.addObj 0x303E (s.physOf c).val (coreCycles (s.creditTicks c))) s

/-- A core after an abort: nothing issues, tallies and pending signals are clear, and the reads in flight still land
(R55, R367, R380). -/
def CoreState.aborted (c : CoreState) : CoreState :=
  { c with tallies := Vector.replicate 64 0, held := [], inflight := [], drainSince := none, skip := 0,
           sense0 := 0
           landing := c.landing ++ (c.inflight.map QRec.cut).filter (fun q => !q.reads.isEmpty) }

/-- The step gathers nothing after an abort (R55, R83). The pending signals are clear, so a signal lost to a full
buffer no longer bears on the launch that follows (R50, R55; DEDUCED, log entry 142). -/
def StepState.dropGathered (t : StepState) : StepState :=
  { t with counts := [], tiles := [], nan := none, halt := none, refRecs := [], nextAborts := false, versions := [], slotsUsed := [],
           slotsPoisoned := [], results := [], slotDigests := [], poolLow := [], poolWaited := [],
           masks := [] }

/-- `MATRIX` of a mask record (R237). -/
def Rec.matrix (r : Rec) : Nat := r.param1.toNat % 256
/-- `RMODE` (R237). -/
def Rec.rmode (r : Rec) : Bool := r.param2.toNat.testBit 0

/-- Sets or clears the sync flag of a matrix (R249). -/
def State.setSync (s : State) (matrix : Nat) (on : Bool) : State :=
  let rest := s.syncFlags.filter (· ≠ matrix)
  ({ s with syncFlags := if on then rest ++ [matrix] else rest }).setObj 0x2404 matrix
    (if on then 1 else 0)

/-- An abort during a rebuild that applies a change list leaves its sync flag set (R253). -/
def State.abortRebuilds (s : State) : State :=
  match s.plan with
  | none => s
  | some p =>
    ((indices 48).flatMap (fun c => (s.cores[c].inflight.filter (fun q => q.phase = .started)).filterMap (fun q =>
      (p.recAt c q.recno).bind (fun r =>
        if r.engine = 6 && r.func = 3 && !r.rmode then some r.matrix else none)))).foldl
      (fun s m => s.setSync m true) s

/-- Aborts the step in progress, or completed and not yet committed, with the event code of its
cause (R55). A cause that meets a step already aborted is added to its causes (R445). A sync flag that a sync record of
the step cleared stays clear: R249 keeps the flag outside step commit, and its copy has been made (R253 says 'as before
the step' of an abort during score or select; DEDUCED, log entry 178). -/
def State.abortStep (s : State) (cause : BitVec 16) : State :=
  match s.step.status with
  | .idle => s
  | .aborted => { s with step := { s.step with causes := s.step.causes ++ [cause] } }
  | .running | .ended =>
    let s := s.abortRebuilds.endWaits
    let u := (s.mgmtEvent 0x4106 (toLe 2 cause.toNat)).abortVersions
    let s := { u with cores := vmap CoreState.aborted s.cores
                      signals := []
                      chainHeld := []
                      rounds := s.rounds.filter (fun r => r.name.kind ≠ 2)
                      outbound := []
                      step := { s.step.dropGathered with
                                  status := .aborted, causes := s.step.causes ++ [cause]
                                  stoppedGc := if s.step.status = StepStatus.ended then s.step.stoppedGc else s.gc.value } }
    let s := s.addObj 0x3001 1 1
    s.flood 0x10 (toLe 8 s.step.current ++ toLe 2 cause.toNat)

/-- Logs an event and aborts the step with it as the cause. -/
def State.abortWith (s : State) (code : BitVec 16) (island : Nat) (detail : Bytes) : State :=
  (s.event code island detail).abortStep code

/-- A step is in progress, or complete and not yet committed. -/
def State.stepLive (s : State) : Bool :=
  s.step.status = .running || s.step.status = .ended

end Sys2Proof.Machine
end

