-- ==== Sys2Proof/Machine/Formats.lean ====
section
/-! DEFINITION. Number formats: decoding, rounding, conversion and block encoding (R58 to R82),
and the FP32 arithmetic every engine shares (R72 to R76). -/

namespace Sys2Proof.Machine

/-- A value exactly: NaN, an infinity, or `(-1)^neg * m * 2^e` (R59, R60). -/
inductive Val where
  | nan
  | inf (neg : Bool)
  | fin (neg : Bool) (m : Nat) (e : Int)
  deriving DecidableEq, Repr

/-- +0. -/
def Val.zero : Val := .fin false 0 0

/-- One. -/
def Val.one : Val := .fin false 1 0

/-- An integer as a value; zero is +0. -/
def Val.ofInt (i : Int) : Val := .fin (decide (i < 0)) i.natAbs 0

/-- The value is NaN. -/
def Val.isNan : Val → Bool
  | .nan => true
  | _ => false

/-- The value is an infinity. -/
def Val.isInf : Val → Bool
  | .inf _ => true
  | _ => false

/-- The value is a zero of either sign. -/
def Val.isZero : Val → Bool
  | .fin _ m _ => m = 0
  | _ => false

/-- The sign of a value that is no NaN. -/
def Val.sign : Val → Bool
  | .nan => false
  | .inf s => s
  | .fin s _ _ => s

/-- The value with its sign reversed. -/
def Val.neg : Val → Val
  | .nan => .nan
  | .inf s => .inf (!s)
  | .fin s m e => .fin (!s) m e

/-- The magnitude. -/
def Val.abs : Val → Val
  | .nan => .nan
  | .inf _ => .inf false
  | .fin _ m e => .fin false m e

/-! ### Format properties -/

/-- The format of a code of R58; a reserved code has none. -/
def Fmt.ofCode : Nat → Option Fmt
  | 0x01 => some .fp32
  | 0x02 => some .bf16
  | 0x03 => some .fp16
  | 0x04 => some .e4m3
  | 0x05 => some .e5m2
  | 0x08 => some .mxE4m3
  | 0x09 => some .mxE5m2
  | 0x0A => some .mxE2m3
  | 0x0B => some .mxE3m2
  | 0x0C => some .mxE2m1
  | 0x0D => some .mxInt8
  | 0x10 => some .int8s
  | 0x11 => some .int8u
  | 0x12 => some .int4s
  | 0x13 => some .int4u
  | 0x14 => some .int32s
  | 0x18 => some .bit1
  | 0x1C => some .mxsb
  | _ => none

/-- Element bits (R58). -/
def Fmt.bits : Fmt → Nat
  | .fp32 | .int32s => 32
  | .bf16 | .fp16 | .mxsb => 16
  | .e4m3 | .e5m2 | .mxE4m3 | .mxE5m2 | .mxInt8 | .int8s | .int8u => 8
  | .mxE2m3 | .mxE3m2 => 6
  | .mxE2m1 | .int4s | .int4u => 4
  | .bit1 => 1

/-- Block-scaled formats (R58). -/
def Fmt.isMx : Fmt → Bool
  | .mxE4m3 | .mxE5m2 | .mxE2m3 | .mxE3m2 | .mxE2m1 | .mxInt8 => true
  | _ => false

/-- Plain integer formats of the integer class (R70). -/
def Fmt.isIntClass : Fmt → Bool
  | .int8s | .int8u | .int4s | .int4u => true
  | _ => false

/-- Formats of the float class (R70). -/
def Fmt.isFloatClass : Fmt → Bool
  | .bf16 | .fp16 | .e4m3 | .e5m2 => true
  | f => f.isMx

/-- A floating-point element layout: mantissa field bits, the exponent of the smallest subnormal,
exponent field bits, the largest finite value as `maxN * 2^maxE`, and whether infinity and NaN
exist (R59, R60). -/
structure FloatSpec where
  mb : Nat
  qmin : Int
  eb : Nat
  maxN : Nat
  maxE : Int
  hasInf : Bool
  hasNan : Bool
  nanCode : Nat
  deriving DecidableEq, Repr

/-- FP32 (R59, R60). -/
def specFp32 : FloatSpec := ⟨23, -149, 8, 16777215, 104, true, true, 0x7FC00000⟩
/-- BF16 (R59, R60). -/
def specBf16 : FloatSpec := ⟨7, -133, 8, 255, 120, true, true, 0x7FC0⟩
/-- FP16 (R59, R60). -/
def specFp16 : FloatSpec := ⟨10, -24, 5, 2047, 5, true, true, 0x7E00⟩
/-- E4M3 (R59, R60). -/
def specE4m3 : FloatSpec := ⟨3, -9, 4, 14, 5, false, true, 0x7F⟩
/-- E5M2 (R59, R60). -/
def specE5m2 : FloatSpec := ⟨2, -16, 5, 7, 13, true, true, 0x7E⟩
/-- E2M3 (R59, R60). -/
def specE2m3 : FloatSpec := ⟨3, -3, 2, 15, -1, false, false, 0⟩
/-- E3M2 (R59, R60). -/
def specE3m2 : FloatSpec := ⟨2, -4, 3, 7, 2, false, false, 0⟩
/-- E2M1 (R59, R60). -/
def specE2m1 : FloatSpec := ⟨1, -1, 2, 3, 1, false, false, 0⟩

/-- How the elements of a format are laid out. -/
inductive Elem where
  | flt (f : FloatSpec)
  /-- a two's-complement or unsigned integer with its limits (R60). -/
  | int (lo hi : Int)
  /-- an `MXINT8` element: `q / 64` (R59). -/
  | mxInt8
  /-- bits that are no number (R58: `BIT1`, `MXSB`). -/
  | raw
  deriving DecidableEq, Repr

/-- The element layout of a format (R59). -/
def Fmt.elem : Fmt → Elem
  | .fp32 => .flt specFp32
  | .bf16 => .flt specBf16
  | .fp16 => .flt specFp16
  | .e4m3 | .mxE4m3 => .flt specE4m3
  | .e5m2 | .mxE5m2 => .flt specE5m2
  | .mxE2m3 => .flt specE2m3
  | .mxE3m2 => .flt specE3m2
  | .mxE2m1 => .flt specE2m1
  | .mxInt8 => .mxInt8
  | .int8s => .int (-128) 127
  | .int8u => .int 0 255
  | .int4s => .int (-8) 7
  | .int4u => .int 0 15
  | .int32s => .int (-2147483648) 2147483647
  | .bit1 | .mxsb => .raw

/-- `e_max` of an element type (R66). -/
def Fmt.emax : Fmt → Int
  | .mxE4m3 => 8
  | .mxE5m2 => 15
  | .mxE2m3 => 2
  | .mxE3m2 => 4
  | .mxE2m1 => 2
  | _ => 0

/-- The two's-complement value of `w` bits. -/
def signedOf (w n : Nat) : Int := if n < 2 ^ (w - 1) then n else (n : Int) - 2 ^ w

/-- The `w` bits of an integer in two's complement. -/
def bitsOfInt (w : Nat) (i : Int) : Nat := (i % (2 ^ w : Int)).toNat

/-! ### Decoding -/

/-- The value of a floating-point encoding (R59, R60, R74). -/
def FloatSpec.decode (f : FloatSpec) (n : Nat) : Val :=
  let m := n % 2 ^ f.mb
  let e := n / 2 ^ f.mb % 2 ^ f.eb
  let s := n / 2 ^ (f.mb + f.eb) % 2 = 1
  if f.hasInf && e = 2 ^ f.eb - 1 then (if m = 0 then .inf s else .nan)
  else if f.hasNan && !f.hasInf && e = 2 ^ f.eb - 1 && m = 2 ^ f.mb - 1 then .nan
  else if e = 0 then .fin s m f.qmin
  else .fin s (m + 2 ^ f.mb) (f.qmin + e - 1)

/-- The value of an element's encoding, before any block scale (R59). -/
def Fmt.decode (f : Fmt) (n : Nat) : Val :=
  match f.elem with
  | .flt sp => sp.decode n
  | .int lo _ => Val.ofInt (if lo < 0 then signedOf f.bits n else n)
  | .mxInt8 =>
    let q := signedOf 8 n
    .fin (decide (q < 0)) q.natAbs (-6)
  | .raw => Val.ofInt n

/-- The value of an FP32 encoding. -/
def decodeF32 (w : F32) : Val := specFp32.decode w.toNat

/-- Multiplies a value by a power of two. -/
def Val.scale (k : Int) : Val → Val
  | .fin s m e => .fin s m (e + k)
  | v => v

/-- Whether a block element's magnitude field is non-zero (R64). -/
def Fmt.magNonZero (f : Fmt) (n : Nat) : Bool :=
  match f.elem with
  | .flt sp => n % 2 ^ (sp.mb + sp.eb) ≠ 0
  | _ => n ≠ 0

/-- Element `n` of a block with side-band entry `sb` (R63, R64). Where the scale is NaN and the `ZERO` bit is set, NaN
wins (DESIGN CHOICE, log entry 166). -/
def Fmt.decodeBlockElem (f : Fmt) (sb n : Nat) : Val :=
  let scale := sb / 256
  if scale = 255 then .nan
  else if sb.testBit 7 then
    .fin (match f.elem with
      | .flt sp => n.testBit (sp.mb + sp.eb)
      | _ => false) 0 0
  else (f.decode n).scale ((scale : Int) - 127)

/-! ### Rounding -/

/-- `⌊log2 (num * 2^e / den)⌋` for `num, den > 0`. -/
def floorLog2 (num den : Nat) (e : Int) : Int :=
  let d : Int := (Nat.log2 num : Int) - Nat.log2 den
  let ge : Bool := if d ≥ 0 then num ≥ den * 2 ^ d.toNat else num * 2 ^ (-d).toNat ≥ den
  (if ge then d else d - 1) + e

/-- `num / den` to the nearest natural, ties to even. -/
def rneDiv (num den : Nat) : Nat :=
  let q := num / den
  let r := num % den
  if 2 * r < den then q
  else if 2 * r > den then q + 1
  else q + q % 2

/-- `num * 2^e / den` as a multiple of `2^q`, to nearest even. -/
def roundAt (num den : Nat) (e q : Int) : Nat :=
  let d := e - q
  if d ≥ 0 then rneDiv (num * 2 ^ d.toNat) den else rneDiv num (den * 2 ^ (-d).toNat)

/-- Rounds the magnitude `num * 2^e / den` to `mb + 1` significant bits, no finer than `2^qmin`,
exponent unbounded above (R78): the result is `n * 2^q` with `n < 2^(mb+1)`. -/
def FloatSpec.round (f : FloatSpec) (num den : Nat) (e : Int) : Nat × Int :=
  if num = 0 then (0, f.qmin)
  else
    let q := max (floorLog2 num den e - f.mb) f.qmin
    let n := roundAt num den e q
    if n = 2 ^ (f.mb + 1) then (n / 2, q + 1) else (n, q)

/-- `n * 2^q` is greater than the largest finite value (R78). -/
def FloatSpec.beyond (f : FloatSpec) (n : Nat) (q : Int) : Bool :=
  let d := q - f.maxE
  if d ≥ 0 then n * 2 ^ d.toNat > f.maxN else n > f.maxN * 2 ^ (-d).toNat

/-- The encoding of a rounded magnitude (R59). -/
def FloatSpec.pack (f : FloatSpec) (neg : Bool) (n : Nat) (q : Int) : Nat :=
  let s := if neg then 2 ^ (f.mb + f.eb) else 0
  if n < 2 ^ f.mb then s + n
  else s + (q - f.qmin + 1).toNat * 2 ^ f.mb + (n - 2 ^ f.mb)

/-- The encoding of infinity. -/
def FloatSpec.infCode (f : FloatSpec) (neg : Bool) : Nat :=
  (if neg then 2 ^ (f.mb + f.eb) else 0) + (2 ^ f.eb - 1) * 2 ^ f.mb

/-- The encoding of the largest finite value. -/
def FloatSpec.maxCode (f : FloatSpec) (neg : Bool) : Nat := f.pack neg f.maxN f.maxE

/-- A rounded non-zero magnitude is a degraded subnormal (R67). -/
def FloatSpec.degraded (f : FloatSpec) (n : Nat) (q : Int) : Bool :=
  decide (n ≠ 0) && decide (q = f.qmin) && decide (n < 2 ^ f.mb)
    && decide (Nat.log2 n + 1 < ceilDiv (f.mb + 1) 2)

/-! ### Counts and conversion -/

/-- The counts of R82. -/
structure Counts where
  overflow : Nat := 0
  underflow : Nat := 0
  degraded : Nat := 0
  clamp : Nat := 0
  nanOut : Nat := 0
  mismatch : Nat := 0
  deriving DecidableEq, Repr

/-- Sum of two counts. -/
def Counts.add (a b : Counts) : Counts :=
  ⟨a.overflow + b.overflow, a.underflow + b.underflow, a.degraded + b.degraded,
   a.clamp + b.clamp, a.nanOut + b.nanOut, a.mismatch + b.mismatch⟩

/-- No counts. -/
def Counts.none : Counts := {}

/-- An element's encoding and what its conversion counts. -/
structure Enc where
  code : Nat
  cnt : Counts
  deriving DecidableEq, Repr

/-- Conversion of a value into a floating-point format (R77 to R79, R82). -/
def FloatSpec.convert (f : FloatSpec) (sat : Bool) : Val → Enc
  | .nan => ⟨f.nanCode, { nanOut := 1 }⟩
  | .inf s =>
    if f.hasInf then ⟨f.infCode s, {}⟩
    else if sat then ⟨f.maxCode s, { overflow := 1 }⟩
    else ⟨f.nanCode, { overflow := 1, nanOut := 1 }⟩
  | .fin s m e =>
    let (n, q) := f.round m 1 e
    if f.beyond n q then
      if sat then ⟨f.maxCode s, { overflow := 1 }⟩
      else if f.hasInf then ⟨f.infCode s, { overflow := 1 }⟩
      else ⟨f.nanCode, { overflow := 1, nanOut := 1 }⟩
    else
      ⟨f.pack s n q,
        { underflow := if m ≠ 0 ∧ n = 0 then 1 else 0,
          degraded := if f.degraded n q then 1 else 0 }⟩

/-- A magnitude `m * 2^e` to the nearest integer, ties to even. -/
def roundInt (s : Bool) (m : Nat) (e : Int) : Int :=
  let n : Int := roundAt m 1 e 0
  if s then -n else n

/-- Conversion into a plain integer format with limits `lo` and `hi` (R80). -/
def convertInt (w : Nat) (lo hi : Int) : Val → Enc
  | .nan => ⟨0, { nanOut := 1 }⟩
  | .inf s => ⟨bitsOfInt w (if s then lo else hi), { overflow := 1 }⟩
  | .fin s m e =>
    let i := roundInt s m e
    if i > hi then ⟨bitsOfInt w hi, { overflow := 1 }⟩
    else if i < lo then ⟨bitsOfInt w lo, { overflow := 1 }⟩
    else ⟨bitsOfInt w i, {}⟩

/-- Conversion of one element into a format that is not block-scaled (R77 to R80). -/
def Fmt.convert (f : Fmt) (sat : Bool) (v : Val) : Enc :=
  match f.elem with
  | .flt sp => sp.convert sat v
  | .int lo hi => convertInt f.bits lo hi v
  | .mxInt8 => convertInt 8 (-127) 127 (v.scale 6)
  | .raw => convertInt f.bits 0 (2 ^ f.bits - 1) v

/-! ### Encoding a block (R66, R67, R79) -/

/-- `|a| ≤ |b|` for finite magnitudes. -/
def magLe (m₁ : Nat) (e₁ : Int) (m₂ : Nat) (e₂ : Int) : Bool :=
  let d := e₁ - e₂
  if d ≥ 0 then m₁ * 2 ^ d.toNat ≤ m₂ else m₁ ≤ m₂ * 2 ^ (-d).toNat

/-- The largest finite magnitude of a block's inputs. -/
def blockMax : List Val → Nat × Int
  | [] => (0, 0)
  | .fin _ m e :: vs =>
    let b := blockMax vs
    if magLe m e b.1 b.2 then b else (m, e)
  | _ :: vs => blockMax vs

/-- What one element of a block becomes. -/
inductive BlockElem where
  | code (c : Nat) (zero : Bool) (cnt : Counts)
  /-- beyond range under `SAT` clear in an element type without NaN or infinity (R79). -/
  | wholeNan
  deriving DecidableEq, Repr

/-- One element of a floating-point block at scale `2^k` (R66). -/
def FloatSpec.blockElem (f : FloatSpec) (sat : Bool) (k : Int) : Val → BlockElem
  | .nan => .code f.nanCode false { nanOut := 1 }
  | .inf s =>
    if f.hasInf then .code (f.infCode s) false {}
    else if sat then .code (f.maxCode s) false { overflow := 1 }
    else if f.hasNan then .code f.nanCode false { overflow := 1, nanOut := 1 }
    else .wholeNan
  | .fin s m e =>
    let (n, q) := f.round m 1 (e - k)
    if f.beyond n q then
      if k = 127 then
        if sat then .code (f.maxCode s) false { overflow := 1 }
        else if f.hasInf then .code (f.infCode s) false { overflow := 1 }
        else if f.hasNan then .code f.nanCode false { overflow := 1, nanOut := 1 }
        else .wholeNan
      else .code (f.maxCode s) false { clamp := 1 }
    else
      .code (f.pack s n q) (n = 0)
        { underflow := if m ≠ 0 ∧ n = 0 then 1 else 0,
          degraded := if f.degraded n q then 1 else 0 }

/-- One element of an `MXINT8` block at scale `2^k` (R66). -/
def mxInt8Elem (sat : Bool) (k : Int) : Val → BlockElem
  | .nan => .wholeNan
  | .inf s =>
    if sat then .code (bitsOfInt 8 (if s then -127 else 127)) false { overflow := 1 } else .wholeNan
  | .fin s m e =>
    let n := roundAt m 1 (e - k) (-6)
    let i : Int := if s then -n else n
    if n > 127 then
      let c := bitsOfInt 8 (if s then -127 else 127)
      if k = 127 then (if sat then .code c false { overflow := 1 } else .wholeNan)
      else .code c false { clamp := 1 }
    else .code (bitsOfInt 8 i) (n = 0) { underflow := if m ≠ 0 ∧ n = 0 then 1 else 0 }

/-- One element of a block (R66). -/
def Fmt.blockElem (f : Fmt) (sat : Bool) (k : Int) (v : Val) : BlockElem :=
  match f.elem with
  | .flt sp => sp.blockElem sat k v
  | _ => mxInt8Elem sat k v

/-- The zero code carrying the input's sign (R66). -/
def Fmt.zeroCode (f : Fmt) (v : Val) : Nat :=
  match f.elem with
  | .flt sp => sp.pack v.sign 0 sp.qmin
  | _ => 0

/-- An encoded block: element codes, the `MXSB` entry of R63 and the counts. -/
structure EncBlock where
  codes : List Nat
  entry : Nat
  cnt : Counts
  deriving DecidableEq, Repr

/-- The element type of a block-scaled format has a NaN (R60). -/
def Fmt.elemHasNan (f : Fmt) : Bool :=
  match f.elem with
  | .flt sp => sp.hasNan
  | _ => false

/-- Encodes one block of 32 values (R66, R67). -/
def Fmt.encodeBlock (f : Fmt) (sat : Bool) (vs : List Val) : EncBlock :=
  let anyNan := vs.any Val.isNan
  if anyNan && !f.elemHasNan then
    ⟨vs.map (fun _ => 0), 0xFF00, { nanOut := vs.length }⟩
  else
    let anyInf := vs.any Val.isInf
    let (m, e) := blockMax vs
    if m = 0 && !anyInf then
      let codes := vs.map (fun v => match v with
        | .nan => (match f.elem with
          | .flt sp => sp.nanCode
          | _ => 0)
        | v => f.zeroCode v)
      ⟨codes, if anyNan then 0 else 0x80, { nanOut := (vs.filter Val.isNan).length }⟩
    else
      let k0 := if anyInf then 127 else floorLog2 m 1 e - f.emax
      let k := max (-127) (min 127 k0)
      let elems := vs.map (f.blockElem sat k)
      if elems.any (fun x => x = .wholeNan) then
        ⟨vs.map (fun _ => 0), 0xFF00,
          { overflow := (elems.filter (fun x => match x with
              | .wholeNan => true
              | .code _ _ c => c.overflow = 1)).length,
            nanOut := vs.length }⟩
      else
        let codes := elems.map (fun x => match x with
          | .code c _ _ => c
          | .wholeNan => 0)
        let allZero := elems.all (fun x => match x with
          | .code _ z _ => z
          | .wholeNan => false)
        let cnt := elems.foldl (fun a x => match x with
          | .code _ _ c => a.add c
          | .wholeNan => a) Counts.none
        ⟨codes, (k + 127).toNat * 256 + (if allZero && !anyNan then 0x80 else 0), cnt⟩

/-! ### Exact sums and FP32 arithmetic (R72 to R76, R92) -/

/-- The value rounded to FP32, nearest even; beyond range it becomes an infinity. -/
def toF32 (v : Val) : Val :=
  match v with
  | .fin s m e =>
    let (n, q) := specFp32.round m 1 e
    if specFp32.beyond n q then .inf s else .fin s n q
  | v => v

/-- `num * 2^e / den` rounded to FP32. -/
def ratioF32 (s : Bool) (num den : Nat) (e : Int) : Val :=
  let (n, q) := specFp32.round num den e
  if specFp32.beyond n q then .inf s else .fin s n q

/-- The FP32 encoding of a value, rounded to nearest even. -/
def encodeF32 (v : Val) : F32 := BitVec.ofNat 32 (specFp32.convert false v).code

/-- The exact product (R72, R73). -/
def Val.mul : Val → Val → Val
  | .nan, _ => .nan
  | _, .nan => .nan
  | .inf s, b => if b.isZero then .nan else .inf (s != b.sign)
  | a, .inf t => if a.isZero then .nan else .inf (a.sign != t)
  | .fin s m e, .fin t n f => .fin (s != t) (m * n) (e + f)

/-- A finite value as a signed multiple of `2^q`, for `q` at or below its exponent. -/
def signedAt (s : Bool) (m : Nat) (e q : Int) : Int :=
  let n : Int := m * 2 ^ (e - q).toNat
  if s then -n else n

/-- The exact sum of two values (R72, R73): a zero sum is +0 unless both addends are -0. -/
def Val.add : Val → Val → Val
  | .nan, _ => .nan
  | _, .nan => .nan
  | .inf s, .inf t => if s = t then .inf s else .nan
  | .inf s, _ => .inf s
  | _, .inf t => .inf t
  | .fin s m e, .fin t n f =>
    let q := min e f
    let i := signedAt s m e q + signedAt t n f q
    if i = 0 then .fin (s && t) 0 0 else .fin (decide (i < 0)) i.natAbs q

/-- The exact difference. -/
def Val.sub (a b : Val) : Val := a.add b.neg

/-- FP32 addition, nearest even. -/
def addF32 (a b : Val) : Val := toF32 (a.add b)

/-- FP32 subtraction. -/
def subF32 (a b : Val) : Val := toF32 (a.sub b)

/-- FP32 multiplication. -/
def mulF32 (a b : Val) : Val := toF32 (a.mul b)

/-- FP32 division (IEEE 754: 0/0 and ∞/∞ are NaN, x/0 is an infinity). -/
def divF32 : Val → Val → Val
  | .nan, _ => .nan
  | _, .nan => .nan
  | .inf _, .inf _ => .nan
  | .inf s, b => .inf (s != b.sign)
  | a, .inf t => .fin (a.sign != t) 0 0
  | .fin s m e, .fin t n f =>
    if n = 0 then (if m = 0 then .nan else .inf (s != t))
    else ratioF32 (s != t) m n (e - f)

/-- `⌊√n⌋` for `n < 4^fuel`. -/
def isqrt : (fuel : Nat) → Nat → Nat
  | 0, _ => 0
  | k + 1, n =>
    let r := 2 * isqrt k (n / 4)
    if (r + 1) * (r + 1) ≤ n then r + 1 else r

/-- FP32 square root, nearest even: NaN for a negative operand, -0 for -0 (R73, IEEE 754). -/
def sqrtF32 : Val → Val
  | .nan => .nan
  | .inf s => if s then .nan else .inf false
  | .fin s m e =>
    if m = 0 then .fin s 0 e
    else if s then .nan
    else
      -- scale so that the root has at least 30 bits, keep a sticky bit for what is left
      let e0 := e - 80 - (e % 2)
      let n := m * 2 ^ (e - e0).toNat
      let r := isqrt 80 n
      let st := if r * r = n then 0 else 1
      toF32 (.fin false (2 * r + st) (e0 / 2 - 1))

/-- |a - b| exactly (R76). -/
def absDiff (a b : Val) : Val := (a.sub b).abs

/-- Ordered comparison of two values that are no NaN, with -0 equal to +0. -/
def Val.cmp : Val → Val → Ordering
  | .inf s, .inf t => if s = t then .eq else if s then .lt else .gt
  | .inf s, _ => if s then .lt else .gt
  | _, .inf t => if t then .gt else .lt
  | .fin s m e, .fin t n f =>
    let q := min e f
    compare (signedAt s m e q) (signedAt t n f q)
  | _, _ => .eq

/-- Less-than (R76): false when an operand is NaN. -/
def Val.lt (a b : Val) : Bool := !a.isNan && !b.isNan && a.cmp b = .lt

/-- Equality (R76): false when an operand is NaN. -/
def Val.eqv (a b : Val) : Bool := !a.isNan && !b.isNan && a.cmp b = .eq

/-- Less-than with -0 below +0, for maximum and minimum (R76). -/
def Val.ltTotal (a b : Val) : Bool :=
  match a.cmp b with
  | .lt => true
  | .eq => a.sign && !b.sign
  | .gt => false

/-- Maximum (R76). -/
def Val.max (a b : Val) : Val :=
  if a.isNan || b.isNan then .nan else if a.ltTotal b then b else a

/-- Minimum (R76). -/
def Val.min (a b : Val) : Val :=
  if a.isNan || b.isNan then .nan else if b.ltTotal a then b else a

/-- The exact sum of the terms of a chunk, specials first (R92, R93): zero takes its sign as R72
states. -/
def exactSum (vs : List Val) : Val :=
  if vs.any Val.isNan then .nan
  else
    let pos := vs.any (fun v => v = .inf false)
    let ngt := vs.any (fun v => v = .inf true)
    if pos && ngt then .nan
    else if pos then .inf false
    else if ngt then .inf true
    else
      let q := vs.foldl (fun q v => match v with
        | .fin _ _ e => min q e
        | _ => q) 0
      let i := vs.foldl (fun a v => match v with
        | .fin s m e => a + signedAt s m e q
        | _ => a) (0 : Int)
      if i = 0 then .fin (!vs.isEmpty && vs.all Val.sign) 0 0
      else .fin (decide (i < 0)) i.natAbs q

end Sys2Proof.Machine
end

