-- ==== Sys2Proof/Machine/Accum.lean ====
section
/-! DEFINITION. Chunks, segments and canonical trees (R88 to R105), the fused stage (R111) and
stochastic rounding into BF16 (R109). -/

namespace Sys2Proof.Machine

/-- An accumulated value with its saturation and overflow bits, and whether its present segments lie in more than one
block (R97, R101, R102, R104). Integer-class values are integers. -/
structure Acc where
  v : Val
  sat : Bool := false
  ovf : Bool := false
  long : Bool := false
  deriving DecidableEq, Repr

/-- An integer value of the integer class. -/
def Val.toInt : Val → Int
  | .fin s m e => signedAt s m e 0
  | _ => 0

/-- Saturation into INT32, and whether it saturated (R101). -/
def clampI32 (i : Int) : Int × Bool :=
  if i > 2147483647 then (2147483647, true)
  else if i < -2147483648 then (-2147483648, true)
  else (i, false)

/-- One rounded addition of two present values (R94, R95, R101, R102). -/
def addAcc (int : Bool) (a b : Acc) : Acc :=
  if int then
    let (i, s) := clampI32 (a.v.toInt + b.v.toInt)
    ⟨Val.ofInt i, a.sat || b.sat || s, a.ovf || b.ovf, a.long || b.long⟩
  else
    let x := a.v.add b.v
    let r := toF32 x
    ⟨r, a.sat || b.sat, a.ovf || b.ovf || (r.isInf && !x.isInf), a.long || b.long⟩

/-- `add` of R95: absent values are passed over. -/
def addOpt (int : Bool) : Option Acc → Option Acc → Option Acc
  | none, b => b
  | a, none => a
  | some a, some b => some (addAcc int a b)

/-- The sum of a chunk's present terms, rounded once (R91, R93). -/
def chunkSum (int : Bool) (ts : List Val) : Acc :=
  if int then
    let (i, s) := clampI32 (ts.foldl (fun a t => a + t.toInt) 0)
    ⟨Val.ofInt i, s, false, false⟩
  else
    let x := exactSum ts
    let r := toF32 x
    ⟨r, false, r.isInf && !x.isInf, false⟩

/-- Groups adjacent entries with equal keys. -/
def groupAdj {α : Type} : List (Nat × α) → List (Nat × List α)
  | [] => []
  | (k, a) :: rest =>
    match groupAdj rest with
    | (k', as) :: gs => if k = k' then (k, a :: as) :: gs else (k, [a]) :: (k', as) :: gs
    | [] => [(k, [a])]

/-- Adds a non-empty list of present values from the first on (R94). -/
def addSeq (int : Bool) : List Acc → Option Acc
  | [] => none
  | a :: as => some (as.foldl (addAcc int) a)

/-- One level of the canonical tree over present positions in ascending order (R95). -/
def treeLevel (int : Bool) : List (Nat × Acc) → List (Nat × Acc)
  | [] => []
  | [(i, a)] => [(i / 2, a)]
  | (i, a) :: (j, b) :: rest =>
    if i / 2 = j / 2 then (i / 2, addAcc int a b) :: treeLevel int rest
    else (i / 2, a) :: treeLevel int ((j, b) :: rest)

/-- `tree` of R95 over the present positions, `depth` levels. -/
def treeEval (int : Bool) : (depth : Nat) → List (Nat × Acc) → Option Acc
  | 0, l => (l.head?).map Prod.snd
  | d + 1, l =>
    match l with
    | [] => none
    | [(_, a)] => some a
    | l => treeEval int d (treeLevel int l)

/-- `tree` over a list of values, some absent (R95, R97). -/
def treeOf (int : Bool) (vs : List (Option Acc)) : Option Acc :=
  treeEval int 33 ((vs.zipIdx).filterMap (fun (v, i) => v.map (fun a => (i, a))))

/-- The segment totals of a record's present terms, which come in ascending K index: entry
`(k div 4096, total)` (R89, R94). -/
def segmentTotals (int : Bool) (ts : List (Nat × Val)) : List (Nat × Acc) :=
  let chunks := groupAdj (ts.map (fun (k, t) => (k / 128, t)))
  let sums := chunks.map (fun (c, l) => (c / 32, chunkSum int l))
  (groupAdj sums).filterMap (fun (g, l) => (addSeq int l).map (fun a => (g, a)))

/-- The roots of several blocks, in ascending block order, added one after another; a sum of more than one is long
(R95, R104). -/
def sumRoots (int : Bool) : List Acc → Option Acc
  | [] => none
  | [a] => some a
  | a :: as => some { as.foldl (addAcc int) a with long := true }

/-- The sum of present segments at global positions in ascending order: the canonical tree of each block of 2²⁸
positions, then the roots in block order (R95). -/
def blockSum (int : Bool) (l : List (Nat × Acc)) : Option Acc :=
  sumRoots int ((groupAdj (l.map (fun (g, a) => (g / 2 ^ 28, (g % 2 ^ 28, a))))).filterMap
    (fun (_, m) => treeEval int 28 m))

/-- The sum of parts in member order, each with the block it belongs to: the tree of each block, then the roots in
ascending block order (R95, R97). -/
def blocksOf (int : Bool) (l : List (Nat × Nat × Acc)) : Option Acc :=
  sumRoots int (((sortBy (fun (a b : Nat) => decide (a < b)) (l.map Prod.fst).eraseDups)).filterMap (fun k =>
    treeEval int 33 ((l.filter (fun p => p.1 = k)).map Prod.snd)))

/-- The result of a record's reduction over its present terms in ascending K index: a part record
takes positions from its own `SEGBASE` (R97), another sums its blocks (R95). An absent reduction is `none`. -/
def reduceTerms (int part : Bool) (segbase : Nat) (ts : List (Nat × Val)) : Option Acc :=
  let l := segmentTotals int ts
  if part then treeEval int 28 l else blockSum int (l.map (fun (g, a) => (g + segbase, a)))

/-- A reduction in which every position is absent yields +0 (R90). -/
def orZero (a : Option Acc) : Acc := a.getD ⟨Val.zero, false, false, false⟩

/-- The fused stage (R111): `fuse` is the field of R43 and `f` the element of `DESC3`. -/
def fuseStage (int : Bool) (fuse : Fin 4) (r : Val) (f : Option Val) : Val :=
  match f with
  | none => r
  | some f =>
    let r := if int then toF32 r else r
    let f := toF32 f
    if fuse = 1 then addF32 r f else if fuse = 2 then mulF32 r f else r

/-- Stochastic rounding of an FP32 value into BF16 with 16 random bits (R109). -/
def stochBf16 (sat : Bool) (v : Val) (r : Nat) : Enc :=
  match v with
  | .fin s m e =>
    let (n, q) := specBf16.round m 1 e
    if specBf16.beyond n q then specBf16.convert sat v
    else
      let w := (encodeF32 v).toNat
      if w % 2 ^ 31 > 0x7F7F0000 then ⟨(if s then 0x8000 else 0) + 0x7F7F, {}⟩
      else
        let lo := w / 65536
        let f16 := w % 65536
        let c := if f16 = 0 then lo else if r % 65536 < f16 then lo + 1 else lo
        let mag := c % 32768
        ⟨c, { underflow := if m ≠ 0 ∧ mag = 0 then 1 else 0,
              degraded := if m ≠ 0 ∧ mag ≠ 0 ∧ mag < 8 then 1 else 0 }⟩
  | v => specBf16.convert sat v

/-- The status byte of an output tile (R105). -/
structure TileStatus where
  longsum : Bool := false
  isat : Bool := false
  fovf : Bool := false
  deriving DecidableEq, Repr

/-- The status byte (R105). -/
def TileStatus.byte (t : TileStatus) : Nat :=
  (if t.longsum then 1 else 0) + (if t.isat then 2 else 0) + (if t.fovf then 4 else 0)

end Sys2Proof.Machine
end

