-- ==== Sys2Proof/Machine/Operands.lean ====
section
/-! DEFINITION. Operands in memory: element addresses (R118), packing (R61), side bands (R62 to
R64), compressed tiles (R136 to R138), buffered descriptors (R291), and writing rows. -/

namespace Sys2Proof.Machine

/-! ### Index spaces -/

/-- Every index of a list of sizes, innermost dimension fastest (R127). -/
def indexSpace : List Nat → List (List Nat)
  | [] => [[]]
  | n :: ns => (indexSpace ns).flatMap (fun outer => (List.range n).map (fun i => i :: outer))

/-- The linear index of an index list (R110). -/
def linearIndex : List Nat → List Nat → Nat
  | n :: ns, i :: is => i + n * linearIndex ns is
  | _, _ => 0

/-- Size of a dimension; a dimension beyond the rank has size 1. -/
def Desc.size (d : Desc) (i : Nat) : Nat := d.sizes.getD i 1

/-- Number of elements. -/
def Desc.elems (d : Desc) : Nat := d.sizes.foldl (· * ·) 1

/-- Element offset of an index from the base (R118). -/
def Desc.offset (d : Desc) : List Nat → Int
  | [] => 0
  | i :: is => (i : Int) + ((is.zip d.strides).foldl (fun a p => a + (p.1 : Int) * p.2) 0)

/-- Bit address of an element (R118, R61). -/
def Desc.bitAddr (d : Desc) (idx : List Nat) : Nat :=
  ((8 * d.base : Int) + d.offset idx * d.fmt.bits).toNat

/-- Lowest and highest byte the full index space touches (R123). -/
def Desc.range (d : Desc) : Nat × Nat :=
  let w : Int := d.fmt.bits
  let spans := (d.sizes.drop 1).zip d.strides |>.map (fun (n, s) => ((n : Int) - 1) * s * w / 8)
  let lo := spans.foldl (fun a x => if x < 0 then a + x else a) (0 : Int)
  let hi := spans.foldl (fun a x => if x < 0 then a else a + x) ((d.size 0 : Int) * w / 8)
  (((d.base : Int) + lo).toNat, ((d.base : Int) + hi - 1).toNat)

/-! ### Compressed tiles (R136 to R138) -/

/-- Splits bytes into element encodings of `w` bytes. -/
def splitElems (w : Nat) (bs : Bytes) : List Bytes := chunked w bs

/-- The bitmap form of a tile (R137). -/
def bitmapForm (w : Nat) (tile : Bytes) : Bytes :=
  let es := splitElems w tile
  packBits (es.map (fun e => !allZero e)) (ceilDiv es.length 8) ++
    (es.filter (fun e => !allZero e)).flatten

/-- Zero-run pieces of a list of elements: zeros to skip, then literals (R137). -/
def zeroRuns : List Bytes → List (Nat × List Bytes)
  | [] => []
  | e :: es =>
    match zeroRuns es with
    | (z, ls) :: rest =>
      if allZero e then (z + 1, ls) :: rest
      else if z = 0 then (0, e :: ls) :: rest else (0, [e]) :: (z, ls) :: rest
    | [] => if allZero e then [(1, [])] else [(0, [e])]

/-- The zero-run form of a tile (R137). -/
def zeroRunForm (w : Nat) (tile : Bytes) : Bytes :=
  (zeroRuns (splitElems w tile)).flatMap (fun (z, ls) =>
    let lit := ls.flatten
    toLe 4 (z * 65536 + ls.length) ++ padTo (ceilDiv lit.length 4 * 4) lit)

/-- The tag and slot bytes of a tile, chosen from its data alone (R138): 0 dense, 1 bitmap,
2 zero run, 3 all zero. -/
def encodeTile (w : Nat) (tile : Bytes) : Nat × Bytes :=
  if allZero tile then (3, [])
  else
    let b := bitmapForm w tile
    let z := zeroRunForm w tile
    let (t, c) := if b.length ≤ z.length then (1, b) else (2, z)
    if c.length ≥ 2048 then (0, tile) else (t, c)

/-- Decodes a bitmap tile of `n` elements of `w` bytes. -/
def decodeBitmap (w n : Nat) (slot : Bytes) : Option Bytes :=
  let bits := (List.range n).map (bitAt slot)
  let lits := splitElems w (slot.drop (ceilDiv n 8))
  let need := (bits.filter (fun b => b)).length
  if need * w + ceilDiv n 8 > 2048 then none
  else
    some ((bits.foldl (fun (acc : List Bytes × List Bytes) b =>
      if b then (acc.1 ++ [padTo w (acc.2.headD [])], acc.2.drop 1)
      else (acc.1 ++ [List.replicate w 0], acc.2)) ([], lits)).1.flatten)

/-- Decodes a zero-run tile of `n` elements; `none` when it does not give exactly `n` (R138). A header may name no
zeros and no literals (R137); a slot holds at most 512 headers, which bounds `fuel`. -/
def decodeZeroRun (w : Nat) : (fuel n : Nat) → Bytes → Option Bytes
  | 0, n, _ => if n = 0 then some [] else none
  | f + 1, n, slot =>
    if n = 0 then some []
    else if slot.length < 4 then none
    else
      let z := fieldAt slot 2 2
      let l := fieldAt slot 0 2
      if z + l > n then none
      else
        let lit := slice slot 4 (l * w)
        if lit.length < l * w then none
        else
          (decodeZeroRun w f (n - z - l) (slot.drop (4 + ceilDiv (l * w) 4 * 4))).map
            (fun rest => List.replicate (z * w) 0 ++ lit ++ rest)

/-- Decodes a tile by its tag (R137). -/
def decodeTile (w tag : Nat) (slot : Bytes) : Option Bytes :=
  let n := 2048 / w
  if tag = 0 then some slot
  else if tag = 1 then decodeBitmap w n slot
  else if tag = 2 then decodeZeroRun w 512 n slot
  else some (List.replicate 2048 0)

/-- The compressed allocation that holds an address, if any. -/
def State.compressedAt (s : State) (a : Nat) : Option Alloc :=
  match s.plan with
  | none => none
  | some p => p.allocs.find? (fun al => al.dir.isSome && al.base ≤ a && a < al.base + al.len)

/-- The decoded tile that holds an address of a compressed allocation, its first address, or `none`
inside when it does not decode (R138). -/
def State.tileAt (s : State) (al : Alloc) (w a : Nat) : Nat × Option Bytes :=
  let t := (a - al.base) / 2048
  let b := s.byte (al.dir.getD 0 + t / 4)
  let tag := b.toNat / 2 ^ (2 * (t % 4)) % 4
  (al.base + t * 2048, decodeTile w tag (s.bytes (al.base + t * 2048) 2048))

/-! ### Reading elements -/

/-- The encoding of the element at an index. -/
def State.code (s : State) (d : Desc) (idx : List Nat) : Nat :=
  let bit := d.bitAddr idx
  let w := d.fmt.bits
  let a := bit / 8
  let n := (bit % 8 + w + 7) / 8
  let v := match s.compressedAt a with
    | none => s.word a n
    | some al =>
      let (b, t) := s.tileAt al (w / 8) a
      fieldAt (t.getD []) (a - b) n
  v / 2 ^ (bit % 8) % 2 ^ w

/-- Index of an element's side-band entry (R62). -/
def sbIndex : List Nat → List Nat
  | [] => []
  | i :: is => i / 32 :: is

/-- The value of the element at an index, with its side band where block-scaled (R59, R64). -/
def State.val (s : State) (d : Desc) (sb : Option Desc) (idx : List Nat) : Val :=
  if d.fmt.isMx then
    match sb with
    | some b => d.fmt.decodeBlockElem (s.code b (sbIndex idx)) (s.code d idx)
    | none => .nan
  else d.fmt.decode (s.code d idx)

/-- An integer element as an integer. -/
def State.int (s : State) (d : Desc) (idx : List Nat) : Int := (s.val d none idx).toInt

/-- Blocks of a tensor whose `ZERO` bit is set over a non-zero magnitude field (R64), over the outer
indices given. A block counts once for each record that reads it, in a gather once for each time it is fetched
(DESIGN CHOICE, log entry 167); one whose scale is NaN counts none (log entry 166). -/
def State.mismatches (s : State) (d : Desc) (sb : Option Desc) (outers : List (List Nat)) : Nat :=
  match d.fmt.isMx, sb with
  | true, some b =>
    let bad (o : List Nat) (j : Nat) : Bool :=
      let e := s.code b (j :: o)
      e / 256 ≠ 255 && e.testBit 7 && (List.range 32).any (fun i =>
        d.fmt.magNonZero (s.code d ((32 * j + i) :: o)))
    outers.foldl (fun (a : Nat) o => a + ((List.range (d.size 0 / 32)).filter (bad o)).length) 0
  | _, _ => 0

/-! ### What a record reads -/

/-- A run of bytes that a record reads through a descriptor; `pass` is the pass of a dense sweep that takes it as its
tile of B (R150, R373). -/
structure Span where
  desc : Nat
  addr : Nat
  len : Nat
  pass : Option Nat := none
  deriving DecidableEq, Repr

/-- The bytes of `k` elements of descriptor `n` from an index on. -/
def Desc.span (n : Nat) (d : Desc) (idx : List Nat) (k : Nat) : Span :=
  let a := d.bitAddr idx
  ⟨n, a / 8, ceilDiv (a + k * d.fmt.bits) 8 - a / 8, none⟩

/-- A compressed tile that a run touches does not decode (R138). -/
def State.badSpan (s : State) (p : Plan) (x : Span) : Bool :=
  match s.compressedAt x.addr, p.descAt x.desc with
  | some al, some d =>
    let t := (x.addr - al.base) / 2048
    (List.range ((x.addr + x.len - al.base + 2047) / 2048 - t)).any (fun i =>
      ((s.tileAt al (d.fmt.bits / 8) (al.base + (t + i) * 2048)).2).isNone)
  | _, _ => false

/-! ### Buffered descriptors (R290, R291) -/

/-- The weight set, its number and the two buffers of the plane a descriptor belongs to. -/
def Plan.planeOf (p : Plan) (n : Nat) : Option (Nat × WeightSet × (Nat × Nat)) :=
  (p.weightSets.zipIdx).findSome? (fun (w, i) =>
    ([w.vdesc, w.ldesc, w.m1desc, w.m2desc, w.tdesc].find? (fun pr =>
      n ≠ 0xFFFFFFFF && (pr.1 = n || pr.2 = n))).map (fun pr => (i, w, pr)))

/-- The effective version a record reads (R290). -/
def effVersion (p : Plan) (r : Rec) (step : Nat) : Nat :=
  (r.wver + (step + 2 ^ 32 - p.stepFirst % 2 ^ 32)) % 2 ^ 32

/-- The descriptor number a record's read of `n` resolves to (R291). -/
def Plan.resolveRead (p : Plan) (r : Rec) (step n : Nat) : Nat :=
  match p.planeOf n with
  | some (_, _, pr) => if effVersion p r step % 2 = 0 then pr.1 else pr.2
  | none => n

/-- The descriptor number a write of `n` resolves to (R291). -/
def Plan.resolveWrite (p : Plan) (step n : Nat) : Nat :=
  match p.planeOf n with
  | some (_, _, pr) => if step % 2 = 0 then pr.1 else pr.2
  | none => n

/-! ### Counts and events of a step (R83, R84) -/

/-- Where a record runs: its core, its event source and whether it counts (R302). -/
structure Ctx where
  core : Core
  island : Nat
  plan : Plan
  r : Rec
  step : Nat
  counts : Bool
  deriving DecidableEq, Repr

/-- Adds `n` to a step count and logs its event on the first occurrence when the mask enables it
(R83, R84). `fam` is the index of the module total, `who` what the count is charged to. -/
def State.count (s : State) (x : Ctx) (fam who i n mask : Nat) (code : BitVec 16)
    (detail : Bytes) : State :=
  if n = 0 then s
  else
    let k : CountKey := (fam, who, i)
    let s := { s with step := { s.step with counts := addKey k n s.step.counts } }
    if mask.testBit i && !s.step.seen.contains k then
      ({ s with step := { s.step with seen := s.step.seen ++ [k] } }).event code x.island detail
    else s

/-- Adds to a step count that has no event. -/
def State.countQuiet (s : State) (fam who i n : Nat) : State :=
  if n = 0 then s
  else { s with step := { s.step with counts := addKey (fam, who, i) n s.step.counts } }

/-- Notes the first tensor of the step to receive a NaN element (R85). -/
def State.noteNan (s : State) (n k : Nat) : State :=
  if k = 0 || s.step.nan.isSome then s else { s with step := { s.step with nan := some n } }

/-- Adds the counts of R82 to a descriptor, unless a gate with `SENSE` 0 governs the record (R303). -/
def State.chargeCounts (s : State) (x : Ctx) (n : Nat) (c : Counts) : State :=
  if !x.counts then s else
  let m := s.obj 0x2100 0
  let d := toLe 4 n
  let s := s.count x 0x3010 n 0 c.overflow m 0x3101 d
  let s := s.count x 0x3010 n 1 c.underflow m 0x3105 d
  let s := s.count x 0x3010 n 2 c.degraded m 0x3106 d
  let s := s.count x 0x3010 n 3 c.clamp m 0x3107 d
  let s := s.count x 0x3010 n 4 c.nanOut m 0x3102 d
  s.count x 0x3010 n 5 c.mismatch m 0x3103 d

/-- Charges what a conversion or a read counts (R82), and notes the NaN elements written (R85). -/
def State.charge (s : State) (x : Ctx) (n : Nat) (c : Counts) : State :=
  (s.chargeCounts x n c).noteNan n c.nanOut

/-- NaN elements among encodings. -/
def Fmt.nanCodes (f : Fmt) (cs : List Nat) : Nat := (cs.filter (fun c => (f.decode c).isNan)).length

/-! ### Writing rows -/

/-- Packs encodings of `w` bits, least significant first (R61). -/
def packCodes (w : Nat) (cs : List Nat) : Bytes :=
  toLe (ceilDiv (w * cs.length) 8)
    (cs.foldr (fun c a => c % 2 ^ w + 2 ^ w * a) 0)

/-- Writes one tile of a compressed allocation: the slot first, then the tag (R138). -/
def State.writeTile (s : State) (al : Alloc) (w i : Nat) (tile : Bytes) : State :=
  let (tag, c) := encodeTile w tile
  let s := s.writeRun (al.base + i * 2048) c
  let da := al.dir.getD 0 + i / 4
  let b := (s.byte da).toNat
  let sh := 2 ^ (2 * (i % 4))
  let b' := b - b / sh % 4 * sh + tag * sh
  (s.writeRun da [BitVec.ofNat 8 b']).countQuiet 0x3019 0 tag 1

/-- Writes a run of bytes into a compressed allocation, tile by tile. A tile that the run covers in part keeps its other
decoded bytes (log entry 148). -/
def State.writeTiles (s : State) (al : Alloc) (w a : Nat) (bs : Bytes) : State :=
  let first := (a - al.base) / 2048
  (List.range ((a + bs.length - al.base + 2047) / 2048 - first)).foldl (fun s k =>
    let t := al.base + (first + k) * 2048
    let old := padTo 2048 (((s.tileAt al w t).2).getD [])
    let lo := max a t
    let hi := min (a + bs.length) (t + 2048)
    s.writeTile al w (first + k)
      (old.take (lo - t) ++ slice bs (lo - a) (hi - lo) ++ old.drop (hi - t))) s

/-- Writes a run of bytes, element width `w` bytes, into a compressed or a plain allocation (R138). -/
def State.putBytes (s : State) (w a : Nat) (bs : Bytes) : State :=
  match s.compressedAt a with
  | none => s.writeRun a bs
  | some al => s.writeTiles al w a bs

/-- The bytes of a run in a compressed or a plain allocation (R137). -/
def State.getBytes (s : State) (w a n : Nat) : Bytes :=
  match s.compressedAt a with
  | none => s.bytes a n
  | some al =>
    let first := (a - al.base) / 2048
    let tiles := (List.range ((a + n - al.base + 2047) / 2048 - first)).flatMap (fun k =>
      padTo 2048 (((s.tileAt al w (al.base + (first + k) * 2048)).2).getD []))
    slice tiles (a - al.base - first * 2048) n

/-- The bytes of a run of encodings at an address; bits of the last byte beyond the run keep what
memory holds (R61). -/
def State.runBytes (s : State) (w a : Nat) (cs : List Nat) : Bytes :=
  let bs := packCodes w cs
  let n := w * cs.length
  if n % 8 = 0 then bs
  else
    let i := bs.length - 1
    let old := (s.byte (a + i)).toNat
    bs.set i (BitVec.ofNat 8 ((bs.getD i 0).toNat + (old - old % 2 ^ (n % 8))))

/-- Writes a contiguous run of encodings from an index on: `idx` names its first element. -/
def State.writeCodes (s : State) (d : Desc) (idx : List Nat) (cs : List Nat) : State :=
  let a := d.bitAddr idx / 8
  match s.compressedAt a with
  | none => s.writeRun a (s.runBytes d.fmt.bits a cs)
  | some al => s.writeTiles al (d.fmt.bits / 8) a (packCodes d.fmt.bits cs)

/-- Converts and writes a run of values from index `i0` of a row; a block-scaled run is whole blocks
and writes its side-band entries (R62, R66, R77 to R80). Answers the counts. -/
def State.writeRow (s : State) (d : Desc) (sb : Option Desc) (i0 : Nat)
    (outer : List Nat) (vs : List Val) : State × Counts :=
  if d.fmt.isMx then
    let blocks := (chunked 32 vs).map (d.fmt.encodeBlock d.sat)
    let s := s.writeCodes d (i0 :: outer) (blocks.flatMap EncBlock.codes)
    let cnt := blocks.foldl (fun a b => a.add b.cnt) Counts.none
    match sb with
    | none => (s, cnt)
    | some b => (s.writeCodes b (i0 / 32 :: outer) (blocks.map EncBlock.entry), cnt)
  else
    let es := vs.map (d.fmt.convert d.sat)
    (s.writeCodes d (i0 :: outer) (es.map Enc.code),
      es.foldl (fun a e => a.add e.cnt) Counts.none)

/-- Writes the padding entries of a side-band row (R62). -/
def State.padSideBand (s : State) (d : Desc) (sb : Option Desc) (outer : List Nat) : State :=
  match sb with
  | none => s
  | some b =>
    let n := d.size 0 / 32
    if d.fmt.isMx && n < b.size 0 then
      s.writeCodes b (n :: outer) (List.replicate (b.size 0 - n) 0x80)
    else s

/-- Converts and writes whole rows: outer index and values of each. Answers the counts. -/
def State.writeRows (s : State) (d : Desc) (sb : Option Desc) :
    List (List Nat × List Val) → State × Counts
  | [] => (s, Counts.none)
  | (o, vs) :: rest =>
    let (s, c) := s.writeRow d sb 0 o vs
    let s := s.padSideBand d sb o
    let (s, c') := State.writeRows s d sb rest
    (s, c.add c')

/-- The outer index lists of a tensor, in ascending linear order. -/
def Desc.outers (d : Desc) : List (List Nat) := indexSpace (d.sizes.drop 1)

/-- The values of one row. -/
def State.row (s : State) (d : Desc) (sb : Option Desc) (outer : List Nat) : List Val :=
  (List.range (d.size 0)).map (fun i => s.val d sb (i :: outer))

/-! ### Slice versions (R289 to R291) -/

/-- The version a slice holds in a buffer (R289). -/
def State.sliceVersion (s : State) (verdesc slice buf : Nat) : Nat :=
  match s.plan.bind (fun p => p.descAt verdesc) with
  | some d => s.word (verAddr d slice buf) 8
  | none => 2 ^ 64 - 1

/-- A slice matches the effective version of a reader; all ones matches none (R291, R292). -/
def State.sliceMatches (s : State) (w : WeightSet) (v slice : Nat) : Bool :=
  let e := s.sliceVersion w.verdesc slice (v % 2)
  e ≠ 2 ^ 64 - 1 && e % 2 ^ 32 = v

/-- The slices of a weight set a record reads all carry its effective version. A descriptor of the
table spans its plane, so a record that reads it reads every slice (R291). -/
def State.versionsOk (s : State) (p : Plan) (r : Rec) (n : Nat) : Bool :=
  match p.planeOf n with
  | none => true
  | some (_, w, _) =>
    (List.range w.slices).all (s.sliceMatches w (effVersion p r s.step.current))

/-- Stamps the step's version on slices of a weight set, in the buffer the step writes (R289,
R291). -/
def State.stamp (s : State) (x : Ctx) (w : WeightSet) (slices : List Nat) : State :=
  let st := s.step.current
  slices.foldl (fun s j =>
    let s := s.setVersion w.verdesc j (st % 2) st
    let e := (w.verdesc, j, st % 2, st, x.r.recno)
    if s.step.versions.contains e then s
    else { s with step := { s.step with versions := s.step.versions ++ [e] } }) s

/-- Stamps every slice of the weight set whose plane a record wrote through descriptor `n`. -/
def State.stampPlane (s : State) (x : Ctx) (n : Nat) : State :=
  match x.plan.planeOf n with
  | none => s
  | some (_, w, _) => s.stamp x w (List.range w.slices)

end Sys2Proof.Machine
end

