-- ==== Sys2Proof/Machine/Sha3.lean ====
section
/-! DEFINITION. SHA3-256, the digest the spec names throughout (R247, R251, R428, R441, R517). The
algorithm is that of FIPS 202. PRESUMED (log entry 9). -/

namespace Sys2Proof.Machine

/-- A lane of the permutation's state. -/
abbrev Lane64 := BitVec 64

/-- Rotation to the left of a lane. -/
def rotl64 (x : Lane64) (n : Nat) : Lane64 := (x <<< n) ||| (x >>> (64 - n))

/-- Lane `x, y` of a state held as 25 lanes, `x` fastest. -/
def lane (a : List Lane64) (x y : Nat) : Lane64 := a.getD (x % 5 + 5 * (y % 5)) 0

/-- Builds a state from its lanes. -/
def lanes (f : Nat → Nat → Lane64) : List Lane64 := (List.range 25).map (fun i => f (i % 5) (i / 5))

/-- Rotation offsets, by lane. -/
def rhoOffsets : List Nat :=
  [0, 1, 62, 28, 27, 36, 44, 6, 55, 20, 3, 10, 43, 25, 39, 41, 45, 15, 21, 8, 18, 2, 61, 56, 14]

/-- Round constants. -/
def iotaConsts : List Lane64 :=
  [0x0000000000000001, 0x0000000000008082, 0x800000000000808A, 0x8000000080008000,
   0x000000000000808B, 0x0000000080000001, 0x8000000080008081, 0x8000000000008009,
   0x000000000000008A, 0x0000000000000088, 0x0000000080008009, 0x000000008000000A] ++
  [0x000000008000808B, 0x800000000000008B, 0x8000000000008089, 0x8000000000008003,
   0x8000000000008002, 0x8000000000000080, 0x000000000000800A, 0x800000008000000A,
   0x8000000080008081, 0x8000000000008080, 0x0000000080000001, 0x8000000080008008]

/-- One round. -/
def keccakRound (a : List Lane64) (rc : Lane64) : List Lane64 :=
  let c := (List.range 5).map (fun x =>
    lane a x 0 ^^^ lane a x 1 ^^^ lane a x 2 ^^^ lane a x 3 ^^^ lane a x 4)
  let d := (List.range 5).map (fun x => c.getD ((x + 4) % 5) 0 ^^^ rotl64 (c.getD ((x + 1) % 5) 0) 1)
  let a := lanes (fun x y => lane a x y ^^^ d.getD x 0)
  let r := (a.zip rhoOffsets).map (fun p => rotl64 p.1 p.2)
  let b := lanes (fun x y => lane r (x + 3 * y) x)
  let a := lanes (fun x y => lane b x y ^^^ (~~~(lane b (x + 1) y) &&& lane b (x + 2) y))
  a.set 0 (a.getD 0 0 ^^^ rc)

/-- The permutation. -/
def keccakF (a : List Lane64) : List Lane64 := iotaConsts.foldl keccakRound a

/-- Absorbs one block of 136 bytes. -/
def absorb (a : List Lane64) (block : Bytes) : List Lane64 :=
  keccakF ((a.zipIdx).map (fun p => p.1 ^^^ BitVec.ofNat 64 (fieldAt block (8 * p.2) 8)))

/-- The padding of a message to whole blocks. -/
def sha3Pad (n : Nat) : Bytes :=
  let k := 136 - n % 136
  if k = 1 then [0x86] else 0x06 :: (List.replicate (k - 2) 0 ++ [0x80])

/-- SHA3-256 of a byte string. -/
def sha3 (m : Bytes) : Bytes :=
  let a := (chunked 136 (m ++ sha3Pad m.length)).foldl absorb (List.replicate 25 0)
  (a.take 4).flatMap (fun l => toLe 8 l.toNat)

/-- SHA3-256 as one number, its first byte least significant. -/
def sha3Nat (m : Bytes) : Nat := leNat (sha3 m)

end Sys2Proof.Machine
end

