-- ==== Sys2Proof/Machine/Windows.lean ====
section
/-! DEFINITION. Shared windows: headers, slots, flags and the descriptors records name (R455 to
R460, R428, R431). -/

namespace Sys2Proof.Machine

/-- The weight set and slices of an optimizer or compose record (R307, R313). -/
def Rec.sliceRange (r : Rec) : Option (Nat × Nat × Nat) :=
  if r.engine = 3 && r.func = 0x010 then
    some (r.param0.toNat / 256 % 256, r.param1.toNat, r.param2.toNat)
  else if r.engine = 3 && r.func = 0x011 then
    some (r.param0.toNat % 256, r.param1.toNat, r.param2.toNat)
  else none

/-- The descriptors that a record reaches through a weight-set entry: both buffers of the planes an optimizer or compose
record reads or writes, and the version table (R286, R307, R313, R356). -/
def Rec.setDescs (p : Plan) (r : Rec) : List Nat :=
  match r.sliceRange with
  | some (w, _, _) =>
    match p.weightSets[w]? with
    | some ws =>
      if r.func = 0x011 then [ws.ldesc.1, ws.ldesc.2].filter (· ≠ 0xFFFFFFFF) ++ [ws.verdesc]
      else ([ws.ldesc, ws.m1desc, ws.m2desc, ws.tdesc].flatMap (fun d => [d.1, d.2])).filter (· ≠ 0xFFFFFFFF)
        ++ [ws.verdesc]
    | none => []
  | none => []

/-- What a record reads of a whole tensor, row by row. -/
def Desc.rowsRead (n : Nat) (d : Desc) : List Span := d.outers.map (fun o => d.span n (0 :: o) (d.size 0))

/-- A word that a record reads is poisoned: its attempt cannot succeed (R340). -/
def State.readsPoison (s : State) (l : List Span) : Bool :=
  !s.poison.isEmpty && l.any (fun x => s.poisoned x.addr x.len)

/-- Bytes of a window's header, H (R455). -/
def Window.headLen (w : Window) : Nat := ceilDiv (128 + 128 * w.slots) 4096 * 4096

/-- Base of a window's allocation. -/
def Plan.winBase (p : Plan) (w : Window) : Nat := ((p.allocs[w.alloc]?).map Alloc.base).getD 0

/-- First byte of a slot (R455). -/
def Plan.slotBase (p : Plan) (w : Window) (slot : Nat) : Nat :=
  p.winBase w + w.headLen + slot * w.slotSize

/-- The window of a number. -/
def Plan.window (p : Plan) (n : Nat) : Option Window := p.windows.find? (fun w => w.num = n)

/-- The slots of a window that a byte range meets. -/
def Plan.slotsMet (p : Plan) (w : Window) (lo hi : Nat) : List Nat :=
  let b := p.slotBase w 0
  if w.slotSize = 0 || hi < b || b + w.slots * w.slotSize ≤ lo then []
  else
    let f := (max lo b - b) / w.slotSize
    let l := min (w.slots - 1) ((hi - b) / w.slotSize)
    (List.range (l + 1 - f)).map (f + ·)

/-- Every (window, slot) a byte range meets. -/
def Plan.slotsIn (p : Plan) (lo hi : Nat) : List (Nat × Nat) :=
  p.windows.flatMap (fun w => (p.slotsMet w lo hi).map (fun i => (w.num, i)))

/-- A tensor lies in one slot of a window (R292, R455). -/
def Plan.inSlot (p : Plan) (d : Desc) : Bool :=
  p.windows.any (fun w => (List.range w.slots).any (fun i =>
    decide (p.slotBase w i ≤ d.range.1) && decide (d.range.2 < p.slotBase w i + w.slotSize)))

/-- Every (window, slot) a descriptor's range meets (R458). -/
def Plan.slotsOf (p : Plan) (d : Desc) : List (Nat × Nat) := p.slotsIn d.range.1 d.range.2

/-- Address of a slot's entry in its window's header (R456). -/
def Plan.slotEntry (p : Plan) (w : Window) (slot : Nat) : Nat := p.winBase w + 128 + 128 * slot

/-- The flag of a slot: 0 FREE, 1 HOST, 2 DEVICE, 3 RETIRED (R456). -/
def State.slotFlag (s : State) (p : Plan) (k : Nat × Nat) : Nat :=
  match p.window k.1 with
  | some w => s.word (p.slotEntry w k.2) 1
  | none => 0

/-- A range lies inside the die-shared area of one die (R19). -/
def inShared (a n : Nat) : Bool :=
  (List.range 4).any (fun d => decide (dieBase d + 0x4E000000 ≤ a) && decide (a + n ≤ dieBase d + 0x60000000))

/-- A device address lies in HBM or a die-shared area: a feed covers it (R356). -/
def fedAddr (a : Nat) : Bool := decide (a < 0x6000000000) || inShared a 1

/-- Every descriptor a record names. -/
def Rec.named (p : Plan) (r : Rec) : List Nat := r.descs ++ r.paramDescs ++ r.setDescs p

/-- The descriptors a record writes, before they resolve. -/
def Rec.writes (p : Plan) (r : Rec) : List Nat :=
  let f := r.func.toNat
  let opt (l : List (Option Nat)) : List Nat := l.filterMap id
  match r.engine.val with
  | 1 => opt [r.desc2] ++ (paramDesc r.param2).toList
  | 2 =>
    if f < 0x10 then opt [r.desc2] ++ (paramDesc r.param2).toList
    else if f < 0x20 then opt [r.desc2, r.desc1]
    else if f = 0x20 then opt [r.desc2, r.desc4]
    else opt [r.desc2]
  | 3 => if f = 0x010 then opt [r.desc2] ++ r.setDescs p else if f < 5 then opt [r.desc2, r.desc3] else opt [r.desc2]
  | 4 => if f = 1 then opt [r.desc1, r.desc2] else if f = 2 then opt [r.desc2, r.desc3, r.desc4]
         else if f = 3 then opt [r.desc2] else []
  | 5 => if f = 3 then opt [r.desc2, r.desc3, r.desc4] else if f ≤ 2 then opt [r.desc2, r.desc5]
         else if f = 4 then opt [r.desc2] else []
  | 6 => if f = 3 && !r.param2.toNat.testBit 0 then opt [r.desc2, r.desc0, r.desc1, r.desc3, r.desc5]
         else opt [r.desc2]
  | 7 => opt [r.desc2, r.desc3]
  | _ => []

/-- A record names a descriptor, which has a property. -/
def Plan.has (p : Plan) (o : Option Nat) (f : Desc → Bool) : Bool :=
  match o.bind p.descAt with
  | some d => f d
  | none => false

/-- The stream operands of a record. -/
def Rec.streams (r : Rec) : List Nat :=
  let opt (l : List (Option Nat)) : List Nat := l.filterMap id
  match r.engine.val, r.func.toNat with
  | 1, 2 => opt [r.desc1]
  | 2, 1 => opt [r.desc1]
  | 2, 2 => opt [r.desc1]
  | 2, 3 => (paramDesc r.param1).toList
  | 6, 1 => opt [r.desc1]
  | 6, 2 => opt [r.desc0]
  | 6, 3 => if r.param2.toNat.testBit 0 then opt [r.desc0, r.desc2] else opt [r.desc2]
  | 6, 5 => opt [r.desc0, r.desc2]
  | _, _ => []

/-- The descriptors of the plan that name tile streams. -/
def Plan.streamNames (p : Plan) : List Nat :=
  (p.weightSets.filter (fun w => decide (2 ≤ w.kind))).flatMap (fun w =>
      ([w.vdesc.1, w.vdesc.2, w.tdesc.1, w.tdesc.2]).filter (· ≠ 0xFFFFFFFF))
    ++ p.records.flatMap (List.flatMap Rec.streams)

/-- A load record is a copy that names a buffered descriptor as its target and moves bits of one format from a window
slot (R292). -/
def Plan.isLoadRec (p : Plan) (r : Rec) : Bool :=
  r.engine = 5 && r.func = 1 && ((r.desc2.bind p.planeOf).isSome) && p.has r.desc0 (fun x => p.has r.desc2 (fun o =>
    x.fmt = o.fmt && p.inSlot x))

/-- A copy between equal formats that names a tile stream, or loads a weight set: it moves bits (R175, R292; every other
copy converts, DEDUCED, log entry 169). -/
def Plan.movesBits (p : Plan) (r : Rec) : Bool :=
  p.isLoadRec r || ([r.desc0, r.desc2].filterMap id).any p.streamNames.contains

/-- The slots a record accesses (R458). -/
def Plan.slotsNamed (p : Plan) (r : Rec) : List (Nat × Nat) :=
  if p.windows.isEmpty then []
  else ((r.named p).flatMap (fun n => match p.descAt n with
    | some d => p.slotsOf d
    | none => [])).eraseDups

/-- Adds entries to a list without repeating any. -/
def addNew {α : Type} [DecidableEq α] (l : List α) (new : List α) : List α :=
  new.foldl (fun l a => if l.contains a then l else l ++ [a]) l

/-- Marks slots as accessed by the step (R458). -/
def State.accessSlots (s : State) (ks : List (Nat × Nat)) : State :=
  { s with step := { s.step with slotsUsed := addNew s.step.slotsUsed ks } }

/-- Auditing is on: AUDIT or BOTH (R427). -/
def State.auditing (s : State) : Bool := (s.obj 0x2A00 0).testBit 0

/-- The digest of a slot's bytes (R428). -/
def State.slotDigest (s : State) (p : Plan) (k : Nat × Nat) : Nat :=
  match p.window k.1 with
  | some w => sha3Nat (s.bytes (p.slotBase w k.2) w.slotSize)
  | none => 0

/-- What reading slots leaves behind: in AUDIT and BOTH the digest of each slot first read, and the
slots in which the read meets poison (R428, R460). -/
def State.noteReads (s : State) (p : Plan) (l : List Span) : State :=
  if p.windows.isEmpty then s
  else
    let met (x : Span) : List (Nat × Nat) := p.slotsIn x.addr (x.addr + x.len - 1)
    let ks := (l.flatMap met).eraseDups
    let bad := ((l.filter (fun x => s.poisoned x.addr x.len)).flatMap met).eraseDups
    let fresh := ks.filter (fun k => !s.step.slotDigests.any (fun d => d.1 = k.1 && d.2.1 = k.2))
    let digs := if s.auditing then fresh.map (fun k => (k.1, k.2, s.slotDigest p k)) else []
    { s with step := { s.step with slotsPoisoned := addNew s.step.slotsPoisoned bad
                                   slotDigests := s.step.slotDigests ++ digs } }

/-- Content digest of a tensor: its encodings in ascending linear index, packed (R428). -/
def State.contentDigest (s : State) (d : Desc) : Nat :=
  sha3Nat (packCodes d.fmt.bits (d.outers.flatMap (fun o =>
    (List.range (d.size 0)).map (fun i => s.code d (i :: o)))))

/-- The packed bytes of a tensor, as a tap copies them (R431). -/
def State.tensorBytes (s : State) (d : Desc) : Bytes :=
  packCodes d.fmt.bits (d.outers.flatMap (fun o =>
    (List.range (d.size 0)).map (fun i => s.code d (i :: o))))

/-- A tap: step, descriptor, window and slot (R431); `none` when all zeros. -/
def State.replayTap (s : State) (i : Nat) : Option (Nat × Nat × Nat × Nat) :=
  let b := s.blob 0x2A08 i 16
  if allZero b then none
  else some (fieldAt b 0 8, fieldAt b 8 4, fieldAt b 12 1, fieldAt b 13 3)

/-- Runs one tap on a tensor that a record has just written (R431). -/
def State.runTap (s : State) (p : Plan) (n w slot : Nat) : State :=
  match p.descAt n, p.window w with
  | some d, some win =>
    let b := s.tensorBytes d
    if slot < win.slots && b.length ≤ win.slotSize && s.slotFlag p (w, slot) = 2 then
      (s.writeRun (p.slotBase win slot) b).accessSlots [(w, slot)]
    else s.mgmtEvent 0x4907 []
  | _, _ => s.mgmtEvent 0x4907 []

/-- Runs every tap of the step that names a descriptor a record wrote (R431). -/
def State.runTaps (s : State) (p : Plan) (written : List Nat) : State :=
  (List.range 16).foldl (fun s i =>
    match s.replayTap i with
    | some (st, n, w, slot) =>
      if st = s.step.current && written.contains n then s.runTap p n w slot else s
    | none => s) s

/-- Notes the result tensors a record has written: those in a window (R427). -/
def State.noteResults (s : State) (p : Plan) (written : List Nat) : State :=
  if p.windows.isEmpty then s
  else
    let rs := written.filterMap (fun n => (p.descAt n).bind (fun d =>
      let ks := p.slotsOf d
      if p.windows.any (fun w => match p.allocs[w.alloc]? with
          | some a => decide (a.base ≤ d.range.1) && decide (d.range.2 < a.base + a.len)
          | none => false)
      then some (n, ks.head?) else none))
    { s with step := { s.step with results := addNew s.step.results rs } }

end Sys2Proof.Machine
end

