-- ==== Sys2Proof/Machine/Engine.lean ====
section
/-! DEFINITION. Running a record on its engine: the record in flight, the conditions every engine
shares, and writing a record's output with its status (R48, R53 to R55, R97, R101 to R105). -/

namespace Sys2Proof.Machine

/-- The block executes: powered, out of reset and not captured (R511). -/
def State.awake (s : State) : Bool :=
  s.phase = .up && s.freeze.st ≠ .capture && s.freeze.st ≠ .full

/-- The record in flight on a core with a record number. -/
def State.qrec (s : State) (c : Core) (r : Nat) : Option QRec :=
  s.cores[c].inflight.find? (fun q => q.recno = r)

/-- Changes the records in flight of a core that carry a record number. -/
def State.modQRec (s : State) (c : Core) (r : Nat) (f : QRec → QRec) : State :=
  s.modCore c (fun k => { k with inflight := k.inflight.map (fun q => if q.recno = r then f q else q) })

/-- The collective engine a record names (R402, R504). -/
def Rec.ceng (r : Rec) : Fin 2 :=
  if r.param0.toNat.testBit (if r.engine = 8 && r.func = 1 then 16 else 0) then 1 else 0

/-- The source island of a record's events (R23): its physical core, or the engine's own island. -/
def State.engineIsland (s : State) (c : Core) (r : Rec) : Nat :=
  match r.engine.val with
  | 5 => 0x80 + (coreDie c).val
  | 6 => 0x7C + (coreDie c).val
  | 7 | 8 => 0x84 + r.ceng.val
  | _ => (s.physOf c).val

/-- The descriptor a read resolves to, with its number (R291). -/
def Ctx.rd (x : Ctx) (n : Option Nat) : Option (Nat × Desc) :=
  n.bind (fun n =>
    let m := x.plan.resolveRead x.r x.step n
    (x.plan.descAt m).map (fun d => (m, d)))

/-- The descriptor a write resolves to, with its number (R291). -/
def Ctx.wr (x : Ctx) (n : Option Nat) : Option (Nat × Desc) :=
  n.bind (fun n =>
    let m := x.plan.resolveWrite x.step n
    (x.plan.descAt m).map (fun d => (m, d)))

/-- Lists taken in turn, one entry of each at a time. -/
def interleave {α : Type} (ls : List (List α)) : List α :=
  (List.range (ls.foldl (fun a l => max a l.length) 0)).flatMap (fun i => ls.filterMap (fun l => l[i]?))

/-- The rows of the tensors of some descriptors, in ascending element order (R357). -/
def Ctx.rowsOf (x : Ctx) (ns : List Nat) : List Span :=
  interleave (ns.map (fun n => match x.rd (some n) with
    | some (m, d) => d.rowsRead m
    | none => []))

/-- The first rows of a tensor, by the index of dimension 1. -/
def Ctx.rowsAt (x : Ctx) (n : Option Nat) (js : List Nat) : List Span :=
  match x.rd n with
  | some (m, d) => js.map (fun j => d.span m [0, j] (d.size 0))
  | none => []

/-- The need entry of a record (R363). -/
def Plan.needOf (p : Plan) (c : Core) (r : Nat) : Option Need :=
  p.needs.find? (fun n => n.core = c.val && n.recno = r)

/-- The chain and position of a record that takes its operand B from a chain (R373). -/
def Plan.chainOf (p : Plan) (c : Core) (r : Nat) : Option (Nat × Nat) :=
  (p.needOf c r).bind Need.chain

/-- What a kind of record reads: the descriptors whose slices it checks (R291), and the data in the order in which its
engine consumes it (R357). -/
structure Reads where
  named : Rec → List Nat
  spans : Ctx → State → List Span

/-- A record that reads whole tensors, in ascending element order (R357). -/
def byRows (f : Rec → List Nat) : Reads := ⟨f, fun x _ => x.rowsOf (f x.r)⟩

/-- Numbers the tiles of operand B among what a chained record reads: a run of spans that lie in one slot of `DESC1` is
a tile, unless a sweep has numbered it (R150, R373). -/
def markTiles (b : Nat) (slot : Nat → Nat) : (n : Nat) → (prev : Option Nat) → List Span → List Span
  | _, _, [] => []
  | n, prev, y :: rest =>
    if y.pass.isSome || y.desc ≠ b then y :: markTiles b slot n prev rest
    else
      let k := slot y.addr
      let n := if prev = some k then n else n + 1
      { y with pass := some (n - 1) } :: markTiles b slot n (some k) rest

/-- What a chained record reads with its tiles of B numbered; another record's reads as they are. -/
def Ctx.marked (x : Ctx) (reads : Reads) (s : State) : List Span :=
  let l := reads.spans x s
  match x.plan.chainOf x.core x.r.recno, x.rd x.r.desc1 with
  | some _, some (n, d) =>
    markTiles n (fun a => (a - d.base) / max 1 (d.size 0 * d.fmt.bits / 8)) 0 none l
  | _, _ => l

/-- What a record's own feed and engine read: a later member of a chain takes B from its predecessor (R357, R373). -/
def Ctx.takes (x : Ctx) (reads : Reads) (s : State) : List Span :=
  let l := x.marked reads s
  match x.plan.chainOf x.core x.r.recno with
  | some (_, pos) => if pos = 0 then l else l.filter (fun y => y.pass.isNone)
  | none => l

/-- The tiles of a record's chain pass; 0 for a record that is not chained (R373). -/
def Ctx.chainTiles (x : Ctx) (reads : Reads) (s : State) : Nat :=
  if (x.plan.chainOf x.core x.r.recno).isNone then 0
  else (x.marked reads s).foldl (fun a y => max a ((y.pass.map (· + 1)).getD 0)) 0

/-- Marks a record executed. -/
def State.finish (s : State) (c : Core) (r : Nat) : State :=
  s.modQRec c r (fun q => { q with phase := .executed })

/-- The slices a record reads carry its effective version: its own slice range for an optimizer or
compose record, else every slice of the planes it names (R291). -/
def State.versionsHold (s : State) (p : Plan) (r : Rec) (ns : List Nat) : Bool :=
  match r.sliceRange with
  | some (w, first, count) =>
    match p.weightSets[w]? with
    | some ws => (List.range count).all (fun j =>
        s.sliceMatches ws (effVersion p r s.step.current) (first + j))
    | none => true
  | none => ns.all (s.versionsOk p r)

/-- Where a record in flight runs. -/
def State.ctx (s : State) (p : Plan) (c : Core) (rc : Rec) (q : QRec) : Ctx :=
  ⟨c, s.engineIsland c rc, p, rc, s.step.current, !q.noCount⟩

/-- A record in flight can carry out its work: it is started, its feed's reads have landed, and its engine has taken
every tile of its chain pass (R53, R373, log entry 149). -/
def QRec.ready (q : QRec) : Bool :=
  q.phase = .started && !q.tagInvalid && q.reads.isEmpty && q.passed = q.chainTiles

/-- A predictor weight of a predict record is poisoned where it stands in the active plan slot (R281, R340). -/
def State.weightsPoison (s : State) (x : Ctx) : Bool :=
  x.r.engine = 4 && x.r.func = 1 && !s.poison.isEmpty && (match x.plan.preds[x.r.param0.toNat % 256]? with
    | some e => e.regions.any (fun g => s.poisoned (s.activeBase + g.1) g.2)
    | none => false)

/-- Begins a record on its engine: `want` says whether the record is the command's, `reads` what it reads, `effect` what
it does. A command whose record is not ready, or is another one, does nothing (log entry 1). A slice of another version, or a tile that does not decode,
aborts the step (R291, R138); a poisoned operand leaves the attempt to fail (R340, log entry 8). -/
def State.beginRecord (s : State) (c : Core) (r : Nat) (want : Rec → Bool) (reads : Reads)
    (effect : Ctx → QRec → State → State) : Result :=
  match s.plan, s.qrec c r with
  | some p, some q =>
    match p.recAt c r with
    | none => .next s
    | some rc =>
      let x := s.ctx p c rc q
      let l := x.takes reads s
      if !s.awake || s.step.status ≠ .running || !q.ready || !want rc then .next s
      else if s.readsPoison l || s.weightsPoison x then .next (s.noteReads p l)
      else if !s.versionsHold p rc (reads.named rc) then
        .next (s.abortWith 0x4105 (s.engineIsland c rc) (toLe 4 r))
      else if l.any (s.badSpan p) then
        .next (s.abortWith 0x4203 (s.engineIsland c rc) (toLe 4 r))
      else .next (effect x q (s.noteReads p l))
  | _, _ => .next s

/-- Runs a record whose effect completes with the command. -/
def State.runRecord (s : State) (c : Core) (r : Nat) (want : Rec → Bool) (reads : Reads)
    (effect : Ctx → QRec → State → State) : Result :=
  s.beginRecord c r want reads (fun x q s => (effect x q s).finish c r)

/-- `PARTIAL` is set at a bit of `PARAM0`. -/
def Rec.flag (r : Rec) (i : Nat) : Bool := r.param0.toNat.testBit i

/-! ### Output with status -/

/-- An output element before conversion, with its status bits (R97, R104). -/
structure OutElem where
  v : Val
  sat : Bool := false
  ovf : Bool := false
  long : Bool := false
  deriving DecidableEq, Repr

/-- An accumulated value as an output element (R97, R104). -/
def OutElem.ofAcc (a : Acc) : OutElem := ⟨a.v, a.sat, a.ovf, a.long⟩

/-- Values as output elements without status. -/
def plainElems (vs : List Val) : List OutElem := vs.map (fun v => ⟨v, false, false, false⟩)

/-- Output tiles of a tensor (R105): tile of an index. -/
def Desc.tileOf (d : Desc) : List Nat → Nat
  | [] => 0
  | [i] => i / 128
  | i :: j :: rest =>
    (linearIndex (d.sizes.drop 2) rest * ceilDiv (d.size 1) 128 + j / 128) * ceilDiv (d.size 0) 128
      + i / 128

/-- Number of output tiles of a tensor (R105). -/
def Desc.tiles (d : Desc) : Nat :=
  if d.sizes.length ≤ 1 then ceilDiv (d.size 0) 128
  else (d.sizes.drop 2).foldl (· * ·) 1 * ceilDiv (d.size 1) 128 * ceilDiv (d.size 0) 128

/-- ORs a status byte into a tile's. -/
def orTile (l : List Nat) (t b : Nat) : List Nat := l.set t (l.getD t 0 ||| b)

/-- The status bytes of a written tensor: the tiles of the rows given start afresh (R105). -/
def tileBytes (d : Desc) (old : List Nat) (rows : List (List Nat × List OutElem)) : List Nat :=
  let base := if old.length = d.tiles then old else List.replicate d.tiles 0
  let cleared := rows.foldl (fun l (o, es) =>
    (es.zipIdx).foldl (fun (l : List Nat) (_, i) => l.set (d.tileOf (i :: o)) 0) l) base
  rows.foldl (fun l (o, es) =>
    (es.zipIdx).foldl (fun l (e, i) =>
      let b := (TileStatus.mk e.long e.sat e.ovf).byte
      if b = 0 then l else orTile l (d.tileOf (i :: o)) b) l) cleared

/-- Writes the status of an output and adds its counts (R101, R102, R104, R105, R112). -/
def State.writeStatus (s : State) (x : Ctx) (n : Nat) (d : Desc)
    (rows : List (List Nat × List OutElem)) : State :=
  let old := (lookupKey n s.step.tiles).getD []
  let bytes := tileBytes d old rows
  let s := { s with step := { s.step with tiles := setKey n bytes s.step.tiles } }
  let sats := rows.foldl (fun a r => a + (r.2.filter OutElem.sat).length) 0
  let ovfs := rows.foldl (fun a r => a + (r.2.filter OutElem.ovf).length) 0
  let longTiles := (rows.flatMap (fun r => (r.2.zipIdx).filterMap (fun (e, i) =>
    if e.long then some (d.tileOf (i :: r.1)) else none))).eraseDups.length
  let m := s.obj 0x2100 2
  let s := s.count x 0x3014 n 0 longTiles m 0x3108 (toLe 4 n)
  let s := s.count x 0x3014 n 1 sats m 0x3109 (toLe 4 n)
  s.count x 0x3014 n 2 ovfs m 0x310A (toLe 4 n)

/-- Writes final values: conversion, side band, counts and status (R77 to R82, R105). -/
def State.writeFinal (s : State) (x : Ctx) (n : Nat) (d : Desc) (sb : Option Desc)
    (rows : List (List Nat × List OutElem)) : State :=
  let (s, cnt) := s.writeRows d sb (rows.map (fun r => (r.1, r.2.map OutElem.v)))
  let s := s.charge x n cnt
  s.writeStatus x n d rows

/-- Every tile that some rows of a tensor meet starts with a clear status (R105). -/
def State.clearStatus (s : State) (x : Ctx) (n : Nat) (d : Desc) (outers : List (List Nat)) : State :=
  s.writeStatus x n d (outers.map (fun o => (o, plainElems (List.replicate (d.size 0) Val.zero))))

/-- The encodings of a tensor are elements of its format: a tile stream's hold headers and index bytes too (R175), and a
low-half plane's are integers under another format's name (R294). -/
def Plan.holdsElements (p : Plan) (n : Nat) : Bool :=
  !p.streamNames.contains n && !p.weightSets.any (fun w => w.ldesc.1 = n || w.ldesc.2 = n)

/-- Writes encodings unchanged: NaN elements count as written, and the tiles start with a clear status (R82, R85, R105).
A stream that moves byte for byte counts none (log entry 151). -/
def State.writeRaw (s : State) (x : Ctx) (n : Nat) (d : Desc) (rows : List (List Nat × List Nat)) : State :=
  let s := rows.foldl (fun s r => s.writeCodes d (0 :: r.1) r.2) s
  let s := s.charge x n { nanOut := if x.plan.holdsElements n then rows.foldl (fun a r => a + d.fmt.nanCodes r.2) 0 else 0 }
  s.writeStatus x n d (rows.map (fun r => (r.1, plainElems (r.2.map (fun _ => Val.zero)))))

/-- Writes a partial: values without counts, and its status plane (R97, R146). A NaN element counts as written to its
tensor (R85). -/
def State.writePartial (s : State) (n : Nat) (d : Desc) (plane : Option Desc)
    (rows : List (List Nat × List OutElem)) : State :=
  let (s, cnt) := s.writeRows d none (rows.map (fun r => (r.1, r.2.map OutElem.v)))
  let s := s.noteNan n cnt.nanOut
  match plane with
  | none => s
  | some pl =>
    rows.foldl (fun s r => s.writeCodes pl (0 :: r.1)
      (r.2.flatMap (fun e => [if e.sat then 1 else 0, if e.ovf then 1 else 0]))) s

end Sys2Proof.Machine
end

