-- ==== Sys2Proof/Machine/Floods.lean ====
section
/-! DEFINITION. Down links, lost nodes, declared loss, freezes and the end of agreement attempts
(R409 to R416, R444, R509 to R511). -/

namespace Sys2Proof.Machine

/-! ### `FAULT_N` and the dying gasp -/

/-- `FAULT_N` is low: the module is lost, cannot run its plan, has lost its host port's PLL, has
failed bring-up or is in recovery (R509, R531, R535). -/
def State.faulty (s : State) : Bool :=
  s.moduleLost || s.planStuck || s.hostPllLost || s.bringup = .failed || s.bringup = .recovery

/-- Drives `FAULT_N`, which is high-impedance when unpowered or in reset (R509, R525). -/
def State.driveFault (s : State) : State :=
  let l : PinLevel := match s.phase with
    | .dark | .inReset => .z
    | _ => if s.faulty then .low else .high
  { s with pins := { s.pins with faultN := l } }

/-- The fabric ports can send the dying gasp: the module is powered and out of reset, a FULL freeze included, since
the gasp completes whatever state the rest of the device is in (R416, R515; R509 shows no other flit after `FROZEN`;
DEDUCED, log entry 139). -/
def State.canGasp (s : State) : Bool := s.phase = .up || s.phase = .fullFreeze

/-- Sends `DYING_GASP` with its cause on every UP port (R416). -/
def State.gasp (s : State) (cause : Nat) : State :=
  allPorts.foldl (fun s p =>
    if s.ports[p].st.isUp then s.sendLink p 0x0C 0 (toLe 1 cause) else s) s

/-- The module declares itself lost to its partners (R25, R347, R500). -/
def State.declareLost (s : State) : State :=
  if s.moduleLost then s else (({ s with moduleLost := true }).gasp 0x01).driveFault

/-! ### The end of agreement attempts -/

/-- Ends the launch agreement in progress without a launch: its rounds, its decision and the staging
lock go (R411, R444, R475). -/
def State.endAttempts (s : State) : State :=
  { s with rounds := s.rounds.filter (fun r => r.name.kind = 2)
           agree := { AgreeState.initial with attempt := s.agree.attempt, stopped := true }
           stageLock := false }

/-! ### Down links and lost nodes -/

/-- One end of a link lies before another: lower node, then lower port. -/
def LinkEnd.before (a b : LinkEnd) : Bool :=
  decide (a.1.toNat < b.1.toNat) || (a.1 = b.1 && decide (a.2 < b.2))

/-- A link by its ends, the lower first. -/
def DownLink.of (a b : LinkEnd) (cause : Nat) : DownLink :=
  if LinkEnd.before b a then ⟨b, a, cause⟩ else ⟨a, b, cause⟩

/-- The 8 bytes of a `DOWN_LINKS` entry (R418). -/
def DownLink.bytes (l : DownLink) : Bytes :=
  toLe 2 l.a.1.toNat ++ toLe 1 l.a.2 ++ toLe 2 l.b.1.toNat ++ toLe 1 l.b.2 ++ toLe 1 l.cause ++ [0]

/-- `DOWN_LINKS`, in ascending order (R418, R443). -/
def State.downLinkBytes (s : State) : Bytes :=
  (sortBy (fun (x y : DownLink) => LinkEnd.before x.a y.a || (x.a = y.a && LinkEnd.before x.b y.b))
    s.downLinks).flatMap DownLink.bytes

/-- A node is lost: it is listed, its event logged, the step aborted and every agreement attempt
ended (R411, R444). -/
def State.loseNode (s : State) (node : BitVec 16) : State :=
  if s.lostNodes.contains node then s
  else
    let s := { s with lostNodes := s.lostNodes ++ [node] }
    (s.abortWith 0x6106 s.mgmtIsland (toLe 2 node.toNat)).endAttempts

/-- The event that stands for a `LOSS` as the cause of an abort: silence, lane failure or a lost node
(DEDUCED, log entry 20). -/
def lossCode (cause : Nat) : BitVec 16 :=
  if cause = 2 then 0x2402 else if cause = 3 then 0x6106 else 0x6101

/-- What a `LOSS` from an origin does: the link is confirmed down, the first one aborts the step, and
a dying gasp makes the far end lost (R411). -/
def State.noteLoss (s : State) (origin : BitVec 16) (a b : LinkEnd) (cause : Nat) : State :=
  let l := DownLink.of a b cause
  let known := s.downLinks.any (fun x => x.a = l.a && x.b = l.b)
  let links := if known then
      s.downLinks.map (fun x => if x.a = l.a && x.b = l.b then { x with cause := max x.cause cause } else x)
    else s.downLinks ++ [l]
  let seen (m : List (Nat × Nat)) (n : BitVec 16) : List (Nat × Nat) :=
    if (lookupKey n.toNat m).isSome then m else m ++ [(n.toNat, s.gc.value)]
  let s := { s with downLinks := links
                    lossAt := seen (seen s.lossAt a.1) b.1
                    lossOrigins := addNew s.lossOrigins [origin.toNat] }
  let s := if known then s else s.abortStep (lossCode cause)
  if cause = 3 then s.loseNode (if a.1 = origin then b.1 else a.1) else s

/-- Floods `LOSS` naming a port's link (R409, R410). -/
def State.sendLoss (s : State) (p : Port) (cause : Nat) : State :=
  let ps := s.ports[p]
  s.flood 0x0B (toLe 2 s.nodeId.toNat ++ toLe 1 p.val ++ toLe 2 ps.peerNode.toNat
    ++ toLe 1 ps.peerPort ++ toLe 1 cause)

/-- Acts on this module's own report of a port's link (R411). -/
def State.ownLoss (s : State) (p : Port) (cause : Nat) : State :=
  let ps := s.ports[p]
  s.noteLoss s.nodeId (s.nodeId, p.val) (ps.peerNode, ps.peerPort) cause

/-- Floods `LOSS` naming a port's link, and acts on it here (R409, R410). -/
def State.floodLoss (s : State) (p : Port) (cause : Nat) : State := (s.sendLoss p cause).ownLoss p cause

/-! ### Freezes (R510, R511) -/

/-- Sets a freeze at count `c`. During a pending freeze the earlier count and the greater depth stand;
in CAPTURE only a FULL request acts (R510, log entry 21). -/
def State.freezeAt (s : State) (c : Nat) (full byPin : Bool) (cause : Nat) (trigger : Nat) : State :=
  match s.freeze.st with
  | .run =>
    ({ s with freeze := ⟨.pending, c, full, byPin, 0, trigger, 0⟩ }).setObj 0x3F00 6 cause
  | .pending =>
    { s with freeze := { s.freeze with count := min s.freeze.count c, full := s.freeze.full || full } }
  | .capture => if full then { s with freeze := { s.freeze with count := c, full := true } } else s
  | .full => s

/-- The islands have stopped: the GC is noted, and the free bytes of a read-out stand for this stop (R22, R511, R512,
log entry 6). -/
def State.stopIslands (s : State) : State :=
  { s with freeze := { s.freeze with stopGc := s.gc.value, draw := s.freeCount }, freeCount := s.freeCount + 1 }

/-- Enters FULL: every clock of the module stops (R514). From CAPTURE the islands have stopped already. -/
def State.enterFull (s : State) : State :=
  let s := if s.freeze.st = .capture then s else s.stopIslands
  { s with phase := .fullFreeze, freeze := { s.freeze with st := .full, full := true } }

/-- Sends `FROZEN` with the freeze's GC on every UP port (R415). -/
def State.sendFrozen (s : State) : State :=
  allPorts.foldl (fun s p =>
    if s.ports[p].st.isUp then s.sendLink p 0x0A 0 (toLe 8 s.freeze.count) else s) s

/-- `FREEZE_COUNT_REACHED` (R511). -/
def execFreezeCountReached (s : State) : Result :=
  if s.phase ≠ .up || decide (s.gc.value < s.freeze.count) then .next s
  else match s.freeze.st with
  | .pending =>
    let s := s.sendFrozen
    let s := s.setObj 0x3F00 5 s.freeze.count
    let s := s.mgmtEvent 0x6501 [if s.freeze.full then 2 else 1, BitVec.ofNat 8 (s.obj 0x3F00 6)]
    if s.freeze.full then .next s.enterFull
    else .next { s.stopIslands with freeze := { s.stopIslands.freeze with st := .capture } }
  | .capture => if s.freeze.full then .next s.enterFull else .next s
  | _ => .next s

/-- `CAPTURE_TIMEOUT` (R511): a CAPTURE that has not completed within 10 ms of its trigger. -/
def execCaptureTimeout (s : State) : Result :=
  if s.phase = .up && s.freeze.st = .pending && !s.freeze.full
      && decide (s.freeze.triggerUptime + 10000000 ≤ s.uptime) then .next s.enterFull
  else .next s

/-- A sparing whose copy stopped at a count and goes on from another: its start moves with it (R511). -/
def Sparing.resumed (x : Sparing) (stopped now : Nat) : Sparing :=
  { x with startGc := x.startGc.map (fun g => if g ≤ stopped then g + (now - stopped) else now) }

/-- CAPTURE ends: the islands restart, the ports resume, and the step in progress aborts (R513). A sparing copy has
stopped with the rest: the ticks of the CAPTURE do not count towards it (R511). -/
def State.releaseFreeze (s : State) : State :=
  let s := { s with
    sparing := s.sparing.map (fun (x : Sparing) => x.resumed s.freeze.stopGc s.gc.value)
    freeze := ⟨.run, 0, false, false, 0, 0, 0⟩
    pauses := if s.step.status = StepStatus.running then s.pauses ++ [(s.freeze.stopGc, s.gc.value)] else s.pauses }
  let s := { s with ports := vmap (fun (p : PortState) => { p with lastLife := s.gc.value }) s.ports }
  if s.stepLive then s.abortWith 0x4B02 s.mgmtIsland [] else s

/-- `FREEZE_N_ASSERT` (R510, R527). -/
def execFreezeNAssert (s : State) : Result :=
  let s := { s with pins := { s.pins with freezeN := false } }
  if s.phase ≠ .up || s.bringup ≠ .ready then .next s
  else .next (s.freezeAt (s.gc.value + 1000) (s.obj 0x3F00 4 = 2) true 1 s.uptime)

/-- `FREEZE_N_DEASSERT` (R513): ends a CAPTURE that the pin triggered. -/
def execFreezeNDeassert (s : State) : Result :=
  let s := { s with pins := { s.pins with freezeN := true } }
  if s.phase = .up && s.freeze.st = .capture && s.freeze.byPin then .next s.releaseFreeze else .next s

end Sys2Proof.Machine
end

