-- ==== Sys2Proof/Machine/Wire.lean ====
section
/-! DEFINITION. Flits and blocks as they stand on a link: the 256 bytes of a flit, its CRC-32C, and the block control
field (R386, R387, R392). -/

namespace Sys2Proof.Machine

/-! ### CRC-32C (R387) -/

/-- One bit of the CRC, least significant bit first: 0x82F63B78 is the polynomial 0x1EDC6F41 with its bits reversed. -/
def crcBit (c : BitVec 32) : BitVec 32 := if c.getLsbD 0 then (c >>> 1) ^^^ 0x82F63B78 else c >>> 1

/-- One byte of the CRC. -/
def crcByte (c : BitVec 32) (b : Byte) : BitVec 32 :=
  crcBit (crcBit (crcBit (crcBit (crcBit (crcBit (crcBit (crcBit (c ^^^ b.zeroExtend 32))))))))

/-- CRC-32C: all ones before the first byte, inverted after the last (R387; PRESUMED, log entry 154). -/
def crc32c (bs : Bytes) : BitVec 32 := ~~~ bs.foldl crcByte 0xFFFFFFFF

/-! ### Flits (R387) -/

/-- `FFLAGS`. -/
def flitFlags (f : Flit) : Nat :=
  f.vc.val * 64 + (if f.ack.isSome then 32 else 0) + (if f.cred.isSome then 16 else 0)

/-- `CRED`: zero where it is not valid. -/
def flitCred (f : Flit) : Nat := match f.cred with
  | some (v, n) => v.val * 16384 + n % 1024
  | none => 0

/-- The 28-byte header. -/
def flitHeader (ftype : BitVec 8) (f : Flit) : Bytes :=
  [ftype] ++ toLe 1 (flitFlags f) ++ toLe 2 f.seq.toNat ++ toLe 2 ((f.ack.map BitVec.toNat).getD 0) ++ toLe 2 (flitCred f)
    ++ toLe 2 f.dst.toNat ++ toLe 2 f.src.toNat ++ toLe 4 f.epoch.toNat
    ++ toLe 8 (f.hopptr % 16 * 2 ^ 60 + f.path.toNat) ++ toLe 4 f.xinfo.toNat

/-- The 256 bytes of a flit: header, payload, CRC over bytes 0 to 251. -/
def flitWire (ftype : BitVec 8) (f : Flit) : Bytes :=
  let b := flitHeader ftype f ++ padTo 224 f.payload
  b ++ toLe 4 (crc32c b).toNat

/-- The CRC of 256 bytes passes. -/
def crcPasses (raw : Bytes) : Bool := raw.length = 256 && fieldAt raw 252 4 = (crc32c (raw.take 252)).toNat

/-- The flit that 256 bytes spell, with its type; `none` where the CRC fails. -/
def readFlit (raw : Bytes) : Option (BitVec 8 × Flit) :=
  if !crcPasses raw then none
  else
    let flags := fieldAt raw 1 1
    let cred := fieldAt raw 6 2
    let route := fieldAt raw 16 8
    some (BitVec.ofNat 8 (fieldAt raw 0 1),
      { vc := ⟨flags / 64 % 4, Nat.mod_lt _ (by decide)⟩
        ack := if flags.testBit 5 then some (BitVec.ofNat 16 (fieldAt raw 4 2)) else none
        cred := if flags.testBit 4 then some (⟨cred / 16384 % 4, Nat.mod_lt _ (by decide)⟩, cred % 1024) else none
        seq := BitVec.ofNat 16 (fieldAt raw 2 2)
        dst := BitVec.ofNat 16 (fieldAt raw 8 2)
        src := BitVec.ofNat 16 (fieldAt raw 10 2)
        epoch := BitVec.ofNat 32 (fieldAt raw 12 4)
        hopptr := route / 2 ^ 60
        path := BitVec.ofNat 60 route
        xinfo := BitVec.ofNat 32 (fieldAt raw 24 4)
        payload := slice raw 28 224 })

/-! ### Blocks (R386) -/

/-- The number of the block in flight at an uptime: a block lasts 12.8 ns, and blocks follow without a gap since the
link was trained (R386; both directions count from the same moment, DEDUCED, log entry 155). -/
def PortState.blockNo (p : PortState) (uptime : Nat) : Nat := (uptime - p.trainedAt) * 10 / 128 % 2 ^ 32

/-- `LANEMAP`: the physical lane of logical lane `i` in bits `[4i+3:4i]` (R386, R418). -/
def Lanes.word (l : Lanes) : Nat := (l.map.toList.zipIdx).foldl (fun a (m, i) => a + m % 16 * 2 ^ (4 * i)) 0

/-- The block control field of the block that a port sends (R386). -/
def PortState.blockControl (p : PortState) (uptime : Nat) : BitVec 80 :=
  BitVec.ofNat 80 (p.blockNo uptime * 2 ^ 48 + p.tx.word * 2 ^ 16)

/-- Symbols that a codeword corrects at most (R386). -/
def correctable : Nat := 15

/-- Every codeword of a block is correctable (R386). -/
def blockGood (errors : Vector (Vector Nat 8) 4) : Bool :=
  errors.toList.all (fun w => decide (w.toList.sum ≤ correctable))

/-- Symbol errors of an active lane in a block, over its four codewords. -/
def laneErrors (errors : Vector (Vector Nat 8) 4) (lane : Fin 8) : Nat := (errors.toList.map (fun w => w[lane])).sum

/-- The lane that carried the most symbol errors of a block; the lowest of several (R391; DESIGN CHOICE, log entry
156). -/
def worstLane (errors : Vector (Vector Nat 8) 4) : Fin 8 :=
  (indices 8).foldl (fun a i => if laneErrors errors a < laneErrors errors i then i else a) 0

/-- The argument of a SWAP message: logical lane in [7:0], new physical lane in [15:8] (log entry 22). -/
def swapArg (lane phys : Nat) : BitVec 32 := BitVec.ofNat 32 (2 ^ 24 + phys * 256 + lane)

end Sys2Proof.Machine
end

