-- ==== Sys2Proof/Machine/Link.lean ====
section
/-! DEFINITION. The time root and parent, ports, lanes, lasers and the link layer (R384 to R393, R395,
R396, R409, R410, R433). -/

namespace Sys2Proof.Machine

/-! ### Time root and parent (R433) -/

/-- A node ID's domain (R397). -/
def nodeDomain (n : BitVec 16) : Nat := n.toNat / 2 ^ 14

/-- A port's peer lies in another domain (R397). -/
def State.isBridge (s : State) (p : Port) : Bool := nodeDomain s.ports[p].peerNode ≠ nodeDomain s.nodeId

/-- The roots a module hears of: port, root, priority and distance of the peer (R433, R436). -/
def State.heardRoots (s : State) : List (Port × BitVec 16 × Bool × Nat) :=
  allPorts.filterMap (fun p =>
    let ps := s.ports[p]
    match ps.peerRoot with
    | some (root, prio, dist) =>
      if ps.st.isUp && !s.isBridge p && decide (dist < 12) then some (p, root, prio, dist) else none
    | none => none)

/-- One root goes before another: the one with priority, then the lower node ID (R433). -/
def rootBefore (a b : BitVec 16 × Bool) : Bool :=
  (a.2 && !b.2) || (a.2 = b.2 && decide (a.1.toNat < b.1.toNat))

/-- This module's own candidacy as time root: it needs a node ID. -/
def State.ownRoot (s : State) : List (BitVec 16 × Bool) :=
  if s.obj 0x1104 1 = 1 then [(s.nodeId, s.obj 0x2A03 0 = 1)] else []

/-- The root and the parent port by R433: port and distance of the parent, `none` at the root. -/
def State.bestRoot (s : State) : Option ((BitVec 16 × Bool) × Option (Port × Nat)) :=
  let heard := s.heardRoots
  match sortBy rootBefore (s.ownRoot ++ heard.map (fun h => (h.2.1, h.2.2.1))) with
  | [] => none
  | r :: _ =>
    if s.ownRoot.contains r then some (r, none)
    else
      let key (h : Port × BitVec 16 × Bool × Nat) : Nat :=
        (h.2.2.2 * 65536 + s.ports[h.1].peerNode.toNat) * 32 + h.1.val
      let by' := heard.filter (fun h => (h.2.1, h.2.2.1) = r)
      match sortBy (fun a b => decide (key a < key b)) by' with
      | [] => none
      | h :: _ => some (r, some (h.1, h.2.2.2 + 1))

/-- This module is its domain's time root. -/
def State.isRoot (s : State) : Bool := s.gc.root = some s.nodeId && s.gc.parent.isNone

/-- Chooses root and parent again. The root is always LOCKED; a module that stops being root before its
first launch acquires anew (R432, R433, R435). -/
def State.chooseRoot (s : State) : State :=
  let g := s.gc
  match s.bestRoot with
  | none => s
  | some (r, par) =>
    let parent := par.map Prod.fst
    let changed := g.root ≠ some r.1 || g.parent ≠ parent
    if !changed then
      { s with gc := { g with rootPrio := r.2, dist := (par.map Prod.snd).getD 0 } }
    else
      let st : GcStatus := match par with
        | none => .locked
        | some _ => if s.isRoot && !s.step.launched then .free else g.st
      let s' : State := { s with gc := { g with
        root := some r.1, rootPrio := r.2, parent := parent, dist := (par.map Prod.snd).getD 0,
        samples := [], steer := 0, lastSample := g.value, st := st } }
      if g.root.isNone then s'
      else s'.mgmtEvent 0x6303 (toLe 2 r.1.toNat ++ toLe 1 ((parent.map Fin.val).getD 0xFF))

/-! ### Ports -/

/-- A direction has lost its spare for good: a swapped-out lane has failed its retest (R393). -/
def Lanes.bare (l : Lanes) : Bool := l.spare.isNone && !l.failed.isEmpty

/-- The state of a port that runs: UP, or `UP_NO_SPARE` once a swapped-out lane has failed its retest (R393). -/
def PortState.upStatus (p : PortState) : PortStatus := if p.tx.bare || p.rx.bare then .upNoSpare else .up

/-- The island of a port (R384). -/
def portIsland (p : Port) : Nat := 0x50 + p.val

/-- The laser group of a port (R32). -/
def portGroup (p : Port) : Fin 4 := ⟨p.val / 8, by omega⟩

/-- The number of LIT inputs of a group: DARK, lit on one, lit on both (R29, R385). -/
def State.groupLit (s : State) (g : Fin 4) : Nat :=
  ([(⟨2 * g.val, by omega⟩ : Fin 8), ⟨2 * g.val + 1, by omega⟩].filter (fun i => s.lasers[i].cls = .lit)).length

/-- A port that carried flits is lost: it floods `LOSS`, the step aborts with `code` as the cause, and
it is counted (R409). While its peer is frozen it floods none (R415). The island of a port that fails is mapped out
(R28; DEDUCED, log entry 176). -/
def State.portLost (s : State) (p : Port) (st : PortStatus) (cause : Nat) (code : BitVec 16) : State :=
  let carried := s.ports[p].st.isUp
  let waiting := s.ports[p].waitq
  let s := s.modPort p (fun ps => { ps with st := st, waitq := [] })
  let s := if st = .failed then s.setIsland (portIsland p) .failed else s
  let s := waiting.foldl (fun s w => s.freeBuffer w.2.2 w.2.1.vc) s
  if !carried then s
  else ((((s.addObj 0x3048 p.val 1).sendLoss p cause).abortStep code).ownLoss p cause).chooseRoot

/-- `PORT_SILENCE` (R409): 8,000 ticks without a flit. -/
def execPortSilence (p : Port) (s : State) : Result :=
  let ps := s.ports[p]
  if s.awake && ps.st.isUp && decide (ps.lastLife + 8000 ≤ s.gc.value) then
    .next ((s.event 0x6101 (portIsland p) (toLe 1 p.val)).portLost p .down 1 0x6101)
  else .next s

/-- Flits that wait at a port no longer hold a receive buffer of port `p`, whose link is trained anew (R390). -/
def PortState.dropOrigin (q : PortState) (p : Port) : PortState :=
  let clear (w : BitVec 8 × Flit × Option Port) : BitVec 8 × Flit × Option Port :=
    if w.2.2 = some p then (w.1, w.2.1, none) else w
  { q with waitq := q.waitq.map clear }

/-- `PORT_UP` (R419): a port finishes training with its peer. -/
def execPortUp (p : Port) (node : BitVec 16) (peer : Port) (s : State) : Result :=
  let ps := s.ports[p]
  if !s.awake || (ps.st ≠ .down && ps.st ≠ .training) || s.island (portIsland p) ≠ .run
      || s.groupLit (portGroup p) = 0 then .next s
  else
    let s := { s with ports := vmap (fun (q : PortState) => q.dropOrigin p) s.ports }
    let s := s.modPort p (fun ps =>
      { PortState.initial with st := ps.upStatus, tx := ps.tx, rx := ps.rx, peerNode := node,
                               peerPort := peer.val, lastLife := s.gc.value, trainedAt := s.uptime })
    .next ((s.setObj 0x2902 p.val (peer.val * 65536 + node.toNat)).event 0x6102 (portIsland p)
      (toLe 1 p.val))

/-- The module is held: its next launch is agreed with a shift and nothing runs (R345, R388). -/
def State.isHeld (s : State) : Bool :=
  s.step.status ≠ .running && (match s.agree.decided with
    | some l => decide (0 < l.shift)
    | none => false)

/-- `KEEPALIVE_SEND` (R409). -/
def execKeepaliveSend (p : Port) (s : State) : Result :=
  if s.awake && s.ports[p].st.isUp then
    .next (s.sendLink p 0x05 0 (toLe 8 s.gc.value ++ [if s.isHeld then 1 else 0] ++ toLe 1 p.val))
  else .next s

/-! ### Lasers (R32, R33, R385) -/

/-- The class of a reading (R385). -/
def laserClass (dbm : F32) : LaserClass :=
  let v := decodeF32 dbm
  if v.isNan || v.lt (decodeF32 0x41000000) then .dark
  else if v.lt (decodeF32 0x41700000) then .low
  else .lit

/-- The host link goes down (R451). -/
def State.hostLinkLost (s : State) : State :=
  if s.hostUp then (s.setObj 0x1100 5 0).event 0x6401 0x70 [] else s

/-- The ports of a group that has gone dark are down (R33). -/
def State.groupDown (s : State) (g : Fin 4) : State :=
  (allPorts.filter (fun p => portGroup p = g)).foldl (fun s p =>
    if s.ports[p].st.isUp || s.ports[p].st = .peerFrozen then s.portLost p .down 1 0x6202 else s) s

/-- `LASER_INPUT_MEASURE` (R385): a reading; a change of class needs two in a row. A fall to LOW logs 0x6203 as well as
0x6201 whatever the other input does; a fall to DARK logs 0x6201 where the other input carries the group, and 0x6202
where none does (R33). An input that goes on from LOW to DARK has left its group already: it logs nothing more (DESIGN
CHOICE, log entry 157). The events of the one cycle stand in the order of R489: the host port's 0x6401 of a dark `LG0`
(R450), then those of management by code; what the ports then log comes later (DEDUCED, log entry 174). -/
def execLaserInputMeasure (i : Fin 8) (dbm : F32) (s : State) : Result :=
  if s.phase ≠ .up then .next s
  else
    let l := s.lasers[i]
    let c := laserClass dbm
    let new : Laser := if c ≠ l.cls && c = l.cand then ⟨c, c, dbm⟩ else ⟨l.cls, c, dbm⟩
    let s := { s with lasers := vmodify s.lasers i (fun _ => new) }
    if l.cls ≠ .lit || new.cls = .lit then .next s
    else
      let g : Fin 4 := ⟨i.val / 2, by omega⟩
      let dark := s.groupLit g = 0
      let s := if dark && g = 0 then s.hostLinkLost else s
      let s := if new.cls = .low || !dark then s.mgmtEvent 0x6201 (toLe 1 i.val) else s
      let s := if dark then s.mgmtEvent 0x6202 (toLe 1 g.val) else s
      let s := if new.cls = .low then s.mgmtEvent 0x6203 (toLe 1 i.val) else s
      .next (if dark then s.groupDown g else s)

/-! ### Lanes (R391 to R393) -/

/-- Changes the lanes of one direction. -/
def PortState.modLanes (p : PortState) (d : Dir) (f : Lanes → Lanes) : PortState :=
  match d with
  | .tx => { p with tx := f p.tx }
  | .rx => { p with rx := f p.rx }

/-- The lanes of one direction. -/
def PortState.lanes (p : PortState) : Dir → Lanes
  | .tx => p.tx
  | .rx => p.rx

/-- A port whose spares have changed is UP or `UP_NO_SPARE`, whichever it was before. -/
def PortState.restate (p : PortState) : PortState :=
  if p.st.isUp then { p with st := p.upStatus } else p

/-- A lane of a receiver meets a condition of R391: it is swapped for the spare from 128 blocks on, and the message is
sent on this end's own lanes and its spare lane; a further lane with no spare left fails the port (R392, R393). -/
def State.laneFails (s : State) (p : Port) (lane : Fin 8) (rate : Bool) : State :=
  let ps := s.ports[p]
  let fail := (s.event 0x2402 (portIsland p) (toLe 1 p.val ++ toLe 1 lane.val)).portLost p .failed 2 0x2402
  match ps.rx.swap, ps.rx.spare with
  | some w, _ => if w.lane = lane.val then s else fail
  | none, none => fail
  | none, some sp =>
    let b := (ps.blockNo s.uptime + 128) % 2 ^ 32
    let s := s.modPort p (fun ps => ps.modLanes .rx (fun l => { l with swap := some ⟨lane.val, sp, b, rate, s.uptime⟩ }))
    s.sendLink p 0x0F (swapArg lane.val sp) (toLe 4 b)

/-- A port's lanes work: it is UP, or its peer is frozen. -/
def PortState.linked (p : PortState) : Bool := p.st.isUp || p.st = .peerFrozen

/-- `LANE_LOCK_LOST` (R391, R392): the receiver swaps the lane for its spare, or, with none left, the
port fails. -/
def execLaneLockLost (p : Port) (lane : Fin 8) (s : State) : Result :=
  if s.awake && s.ports[p].linked then .next (s.laneFails p lane false) else .next s

/-- `LANE_SWAP_AT_BLOCK` (R392): from block B on the logical lane is carried on the spare; the receiving end counts it.
The port stays up as it was. -/
def execLaneSwapAtBlock (p : Port) (d : Dir) (s : State) : Result :=
  let ps := s.ports[p]
  match (ps.lanes d).swap with
  | none => .next s
  | some w =>
    let reached := decide ((ps.blockNo s.uptime + 2 ^ 32 - w.block) % 2 ^ 32 < 2 ^ 31)
    if !s.awake || !ps.linked || !reached then .next s
    else
      let old := ((ps.lanes d).map.toList.getD w.lane 0)
      let s := s.modPort p (fun ps => ps.modLanes d (fun l =>
        { l with map := vmapIdx (fun i m => if i = w.lane then w.phys else m) l.map
                 spare := none, swap := none, testing := l.testing ++ [old]
                 errs := l.errs.filter (fun e => e.phys ≠ old) }))
      if d = .tx then .next s
      else .next ((s.addObj 0x3045 p.val 1).event 0x6103 (portIsland p)
        (toLe 1 p.val ++ toLe 1 w.lane ++ [if w.rate then 2 else 1]))

/-- An hour, in ns. -/
def oneHour : Nat := 3600000000000

/-- Adds errors of an active lane of a receiver; what is older than an hour goes (R391). -/
def PortState.noteErrs (p : PortState) (lane : Fin 8) (now ce ue : Nat) : PortState :=
  if ce + ue = 0 then p
  else p.modLanes .rx (fun l =>
    { l with errs := l.errs.filter (fun e => decide (now < e.at_ + oneHour)) ++ [⟨l.map[lane], now, ce, ue⟩] })

/-- A lane's errors of the last hour reach a limit of R391. -/
def State.laneWorn (s : State) (p : Port) (lane : Fin 8) : Bool :=
  let l := s.ports[p].rx
  let mine := l.errs.filter (fun e => e.phys = l.map[lane] && decide (s.uptime < e.at_ + oneHour))
  decide (s.obj 0x2904 0 ≤ (mine.map LaneErrs.ce).sum) || decide (s.obj 0x2904 1 ≤ (mine.map LaneErrs.ue).sum)

/-- Swaps every active lane whose errors reach a limit (R391). -/
def State.judgeLanes (s : State) (p : Port) : State :=
  (indices 8).foldl (fun s i => if s.ports[p].linked && s.laneWorn p i then s.laneFails p i true else s) s

/-- `LANE_RETEST_DONE` (R393): a swapped-out lane becomes the spare, or is marked failed. -/
def execLaneRetestDone (p : Port) (d : Dir) (lane : Fin 9) (pass : Bool) (s : State) : Result :=
  let ps := s.ports[p]
  if !s.awake || !(ps.lanes d).testing.contains lane.val then .next s
  else
    let s := s.modPort p (fun ps => (ps.modLanes d (fun l =>
      { l with testing := l.testing.filter (· ≠ lane.val)
               spare := if pass then some lane.val else l.spare
               failed := if pass then l.failed else addNew l.failed [lane.val] })).restate)
    .next (s.event (if pass then 0x1502 else 0x2401) (portIsland p) (toLe 1 p.val ++ toLe 1 lane.val))

/-! ### Receiving flits (R387 to R390) -/

/-- A port receives flits: it is trained and its island runs. -/
def State.hears (s : State) (p : Port) : Bool :=
  s.awake && s.island (portIsland p) = .run && (s.ports[p].st.isUp || s.ports[p].st = .peerFrozen)

/-- A flit that passes its CRC counts as life, and shows a frozen peer running again (R409, R415). -/
def PortState.life (p : PortState) (gc : Nat) : PortState :=
  { p with lastLife := gc, st := if p.st = .peerFrozen then p.upStatus else p.st }

/-- Frees replay entries and takes credits that ride in a flit (R389, R390). -/
def PortState.takeAck (p : PortState) (f : Flit) : PortState :=
  let p := match f.ack with
    | some a => { p with replay := p.replay.filter (fun e =>
        decide (32768 ≤ (a.toNat + 65536 - e.2.seq.toNat) % 65536)) }
    | none => p
  match f.cred with
  | some (v, n) => { p with txCredits := vmodify p.txCredits v (· + n) }
  | none => p

/-- What every flit with a good CRC does to its port. -/
def State.hear (s : State) (p : Port) (f : Flit) : State :=
  (s.modPort p (fun ps => (ps.life s.gc.value).takeAck f)).drainWait p

/-- Asks for a replay from the expected sequence number, once (R389). -/
def State.nakOnce (s : State) (p : Port) : State :=
  let ps := s.ports[p]
  if ps.nakSent then s
  else (s.sendLink p 0x0E (BitVec.ofNat 32 ps.rxSeq) []).modPort p (fun ps => { ps with nakSent := true })

/-- Receives a link flit. -/
def State.linkFlit (s : State) (p : Port) (f : Flit) (act : State → State) : Result :=
  if s.hears p then .next (act (s.hear p f)) else .next s

/-- Receives a sequenced flit: only the next one expected is accepted (R389). -/
def State.seqFlit (s : State) (p : Port) (f : Flit) (act : State → State) : Result :=
  if !s.hears p then .next s
  else
    let s := s.hear p f
    if f.seq.toNat ≠ s.ports[p].rxSeq then .next (s.nakOnce p)
    else .next (act (s.modPort p (fun ps => { ps with rxSeq := (ps.rxSeq + 1) % 65536, nakSent := false })))

/-- A staged value or a plan swap commits at the decided launch (R441, R474). -/
def State.commitsStaged (s : State) (launchGc : Nat) : Bool :=
  !s.staged.isEmpty || (s.swapAt launchGc).isSome

/-- A routed flit's epoch is accepted here (R396). -/
def State.epochOk (s : State) (f : Flit) : Bool :=
  let e := f.epoch.toNat
  e = s.epoch
    || ((e + 1) % 2 ^ 32 = s.epoch && (match s.epochCommitGc with
        | some g => decide (s.gc.value < g + 1000)
        | none => false))
    || (e = (s.epoch + 1) % 2 ^ 32 && (match s.agree.decided with
        | some l => decide (l.gc ≤ s.gc.value + 1000) && s.commitsStaged l.gc
        | none => false))

/-- A routed flit: delivered here, which frees its buffer, or forwarded (R390, R395, R396); a module without a valid
node ID carries none (R481). -/
def State.routed (s : State) (p : Port) (ftype : BitVec 8) (f : Flit) (deliver : State → State) : State :=
  if s.obj 0x1104 1 ≠ 0 && f.dst ≠ s.nodeId then s.forward (some p) (portIsland p) ftype f
  else
  let s := s.freeBuffer (some p) f.vc
  if s.obj 0x1104 1 = 0 then s
  else if ftype ≠ 0x0D && !s.epochOk f then
    (s.addObj 0x3046 0 1).abortWith 0x6104 (portIsland p) (toLe 1 p.val ++ toLe 2 f.src.toNat)
  else deliver s

/-- The origin and sequence of a flooded flit (R410). -/
def floodHead (f : Flit) : BitVec 16 × Nat := (BitVec.ofNat 16 (fieldAt f.payload 0 2), fieldAt f.payload 4 4)

/-- A flooded flit that is newer than the last of its origin is acted on and forwarded (R410). Its copies stand in the
ports they leave by, and its buffer is free (R390: every receiver drains channel 3). -/
def State.flooded (s : State) (p : Port) (ftype : BitVec 8) (f : Flit) (act : State → State) : State :=
  let s := s.freeBuffer (some p) f.vc
  let (origin, seq) := floodHead f
  let last := if origin = s.nodeId then some s.floodSeq else lookupKey origin.toNat s.floodSeen
  let newer := match last with
    | none => true
    | some l => let d := (seq + 2 ^ 32 - l) % 2 ^ 32; decide (0 < d) && decide (d < 2 ^ 31)
  if !newer || origin = s.nodeId then s
  else
    let s := { s with floodSeen := setKey origin.toNat seq s.floodSeen }
    (act s).floodOut ftype (some p) f

/-! ### Link flits -/

/-- `IDLE` (R388): its acknowledgement and credits only. -/
def execIdle (p : Port) (f : Flit) (s : State) : Result := s.linkFlit p f (fun s => s)

/-- `KEEPALIVE` (R409): life. -/
def execKeepalive (p : Port) (f : Flit) (s : State) : Result := s.linkFlit p f (fun s => s)

/-- Sends a kept flit again: it keeps its sequence number and its credit (R389, R390). -/
def State.resend (s : State) (p : Port) (e : BitVec 8 × Flit) : State :=
  let f := s.ports[p].stamp e.2
  let s := s.modPort p (fun ps => ps.takeCredits f.cred)
  { s with out := s.out ++ [.flit p e.1 f] }

/-- `NAK` (R389): the sender resends from the named flit on. -/
def execNak (p : Port) (f : Flit) (s : State) : Result :=
  s.linkFlit p f (fun s =>
    let want := f.xinfo.toNat % 65536
    let kept := s.ports[p].replay.filter (fun e =>
      decide ((e.2.seq.toNat + 65536 - want) % 65536 < 1024))
    if kept.isEmpty then s
    else
      let s := kept.foldl (fun s e => s.resend p e) s
      (s.addObj 0x3042 p.val 1).eventLimited 0x1501 p.val 1000000000 (portIsland p) (toLe 1 p.val))

/-- `LANECTL` (R392): a SWAP message schedules the move of a lane of this end's transmit direction. -/
def execLanectl (p : Port) (f : Flit) (s : State) : Result :=
  s.linkFlit p f (fun s =>
    let x := f.xinfo.toNat
    if x / 2 ^ 24 ≠ 1 || decide (8 ≤ x % 256) then s
    else s.modPort p (fun ps => ps.modLanes .tx (fun l =>
      { l with swap := some ⟨x % 256, x / 256 % 256, fieldAt f.payload 0 4, false, s.uptime⟩ })))

/-- `FROZEN` (R415): the peer freezes, and silence is no loss. -/
def execFrozen (p : Port) (f : Flit) (s : State) : Result :=
  s.linkFlit p f (fun s =>
    (s.modPort p (fun ps => { ps with st := .peerFrozen })).event 0x610A (portIsland p) (toLe 1 p.val))

/-- `DYING_GASP` (R416): the peer's link is flooded with cause 0x03 and the peer is lost at once. -/
def execDyingGasp (p : Port) (f : Flit) (s : State) : Result :=
  s.linkFlit p f (fun s => s.floodLoss p 3)

/-- The symbol errors of a block (R386, R391): corrected ones are counted on the port and on their lanes; an
uncorrectable block is counted on the port and on its worst lane, and all its flits fail. -/
def State.blockErrors (s : State) (p : Port) (errors : Vector (Vector Nat 8) 4) : State :=
  let now := s.uptime
  if blockGood errors then
    let total := ((indices 8).map (laneErrors errors)).sum
    ((s.addObj 0x3043 p.val total).modPort p (fun ps =>
      (indices 8).foldl (fun ps i => ps.noteErrs i now (laneErrors errors i) 0) ps)).judgeLanes p
  else
    (((s.addObj 0x3044 p.val 1).modPort p (fun ps => ps.noteErrs (worstLane errors) now 0 1)).nakOnce p).judgeLanes p

/-- `FLIT_CRC_FAIL` (R386, R387, R389): a flit whose CRC fails is discarded, and so is every flit of an uncorrectable
block. -/
def execFlitCrcFail (p : Port) (bad : BadFlit) (s : State) : Result :=
  if !s.hears p then .next s
  else match bad with
  | .flit raw => if (readFlit raw).isSome then .next s else .next (s.nakOnce p)
  | .block errors => .next (s.blockErrors p errors)

/-- `FLIT_RESERVED_TYPE` (R388): discarded and counted. -/
def execFlitReservedType (p : Port) (ftype : BitVec 8) (f : Flit) (s : State) : Result :=
  if ftype.toNat ≤ 0x10 then .next s
  else s.linkFlit p f (fun s => s.addObj 0x3046 2 1)

/-! ### Flooded flits (R410 to R417) -/

/-- `LOSS` (R411). -/
def execLoss (p : Port) (f : Flit) (s : State) : Result :=
  s.seqFlit p f (fun s => s.flooded p 0x0B f (fun s =>
    let b := f.payload
    s.noteLoss (floodHead f).1 (BitVec.ofNat 16 (fieldAt b 8 2), fieldAt b 10 1)
      (BitVec.ofNat 16 (fieldAt b 11 2), fieldAt b 13 1) (fieldAt b 14 1)))

/-- `LOSS_WINDOW_EXPIRY` (R411): no `LOSS` from the node within 20,000 ticks. -/
def execLossWindowExpiry (node : BitVec 16) (s : State) : Result :=
  match lookupKey node.toNat s.lossAt with
  | none => .next s
  | some t =>
    if !s.awake || decide (s.gc.value < t + 20000) || s.lossOrigins.contains node.toNat then .next s
    else .next (s.loseNode node)

/-- Records the shift of a hold for a launch: the largest stands (R414). -/
def State.noteHold (s : State) (step shift : Nat) : State :=
  { s with holds := setKey step (max shift ((lookupKey step s.holds).getD 0)) s.holds }

/-- `HOLD` (R414). -/
def execHold (p : Port) (f : Flit) (s : State) : Result :=
  s.seqFlit p f (fun s => s.flooded p 0x08 f (fun s =>
    let step := fieldAt f.payload 8 8
    let s := s.noteHold step (fieldAt f.payload 16 8)
    if s.holdsHeard.contains step then s
    else ({ s with holdsHeard := s.holdsHeard ++ [step] }).mgmtEvent 0x6109 (toLe 2 (floodHead f).1.toNat)))

/-- `FREEZE` (R415): a freeze at the count, or at once if it has passed; its depth is CAPTURE (R510). -/
def execFreeze (p : Port) (f : Flit) (s : State) : Result :=
  s.seqFlit p f (fun s => s.flooded p 0x09 f (fun s =>
    let c := max s.gc.value (fieldAt f.payload 8 8)
    s.freezeAt c false false 3 (s.uptime + (c - s.gc.value))))

/-- `ABORT` (R417): the matching current step aborts. -/
def execAbort (p : Port) (f : Flit) (s : State) : Result :=
  s.seqFlit p f (fun s => s.flooded p 0x10 f (fun s =>
    if s.stepLive && s.step.current = fieldAt f.payload 8 8 then
      s.abortWith 0x610B s.mgmtIsland (toLe 2 (floodHead f).1.toNat ++ slice f.payload 16 2)
    else s))

end Sys2Proof.Machine
end

