-- ==== Sys2Proof/Machine/Rounds.lean ====
section
/-! DEFINITION. Agreement rounds: eight words up a binomial tree and their minima and maxima down it
(R407). -/

namespace Sys2Proof.Machine

/-- The lowest set bit of a member index. -/
def lowBit (i : Nat) : Nat := match (List.range 17).find? i.testBit with
  | some j => 2 ^ j
  | none => 2 ^ 17

/-- The children of a member in a group of `n` (R407). -/
def roundChildren (i n : Nat) : List Nat :=
  ((List.range 17).filter (fun j => decide (2 ^ j < lowBit i) && decide (i + 2 ^ j < n))).map
    (fun j => i + 2 ^ j)

/-- The parent of a member: its lowest set bit cleared. -/
def roundParent (i : Nat) : Nat := i - lowBit i

/-- The `AGREE` payload (R407). -/
def agreePayload (name : RoundName) (down : Bool) (mins maxs : List Nat) : Bytes :=
  toLe 2 name.group ++ [if down then 1 else 0, 0] ++ toLe 8 name.key ++ mins.flatMap (toLe 4) ++
    maxs.flatMap (toLe 4) ++ toLe 1 name.kind ++ toLe 1 name.matrix

/-- The round an `AGREE` payload belongs to, its direction and its words (R407). -/
def agreeParse (b : Bytes) : RoundName × Bool × List Nat × List Nat :=
  (⟨fieldAt b 0 2, fieldAt b 76 1, fieldAt b 77 1, fieldAt b 4 8⟩, fieldAt b 2 2 = 1,
   (List.range 8).map (fun i => fieldAt b (12 + 4 * i) 4),
   (List.range 8).map (fun i => fieldAt b (44 + 4 * i) 4))

/-- A round nothing has entered yet. -/
def Round.new (name : RoundName) : Round :=
  ⟨name, List.replicate 8 (2 ^ 32 - 1), List.replicate 8 0, false, [], false, none⟩

/-- Enters words into a round. -/
def Round.merge (r : Round) (mins maxs : List Nat) : Round :=
  { r with mins := List.zipWith min r.mins mins, maxs := List.zipWith max r.maxs maxs }

/-- The round of a name. -/
def State.round (s : State) (name : RoundName) : Round :=
  (s.rounds.find? (fun r => r.name = name)).getD (Round.new name)

/-- Replaces the round of a name. -/
def State.setRound (s : State) (r : Round) : State :=
  { s with rounds := s.rounds.filter (fun x => x.name ≠ r.name) ++ [r] }

/-- Drops the round of a name. -/
def State.dropRound (s : State) (name : RoundName) : State :=
  { s with rounds := s.rounds.filter (fun x => x.name ≠ name) }

/-- Sends a round's words to a member of its group. -/
def State.sendAgree (s : State) (g : Group) (name : RoundName) (down : Bool) (mins maxs : List Nat)
    (member : Nat) : State :=
  s.sendRouted 0x07 false (g.members.getD member 0) 0 (agreePayload name down mins maxs)

/-- Sends a result to this member's children. -/
def State.sendDown (s : State) (g : Group) (me : Nat) (name : RoundName) (mins maxs : List Nat) : State :=
  (roundChildren me g.members.length).foldl (fun s c => s.sendAgree g name true mins maxs c) s

/-- Passes a round on once this member and all its children have contributed. The root answers its
result, sends it down and drops the round. -/
def State.advanceRound (s : State) (g : Group) (me : Nat) (r : Round) :
    State × Option (List Nat × List Nat) :=
  let all := (roundChildren me g.members.length).all (fun c => r.children.contains c)
  if !(r.own && all) || r.sentUp then (s.setRound r, none)
  else if me = 0 then
    ((s.dropRound r.name).sendDown g me r.name r.mins r.maxs, some (r.mins, r.maxs))
  else
    ((s.setRound { r with sentUp := true }).sendAgree g r.name false r.mins r.maxs (roundParent me),
      none)

/-- Contributes this module's words to a round, once. Answers the result if it stands. -/
def State.contribute (s : State) (name : RoundName) (words : List Nat) :
    State × Option (List Nat × List Nat) :=
  match s.runPlan.bind (fun p => p.group name.group) with
  | some g =>
    match g.myIndex with
    | some me =>
      let r := s.round name
      if r.own then (s, none)
      else s.advanceRound g me { r.merge words words with own := true }
    | none => (s, none)
  | none => (s, none)

/-- Takes an `AGREE` message of a round from a member. Answers the result if it stands. -/
def State.takeAgree (s : State) (src : BitVec 16) (payload : Bytes) :
    State × Option (RoundName × List Nat × List Nat) :=
  let (name, down, mins, maxs) := agreeParse payload
  match s.runPlan.bind (fun p => p.group name.group) with
  | some g =>
    match g.myIndex with
    | some me =>
      if down then
        let r := s.round name
        if !r.own || !r.sentUp then (s, none)
        else ((s.dropRound name).sendDown g me name mins maxs, some (name, mins, maxs))
      else
        match (roundChildren me g.members.length).find? (fun c => g.members.getD c 0 = src) with
        | none => (s, none)
        | some c =>
          let r := s.round name
          if r.children.contains c then (s, none)
          else
            let (s, res) := s.advanceRound g me
              { r.merge mins maxs with children := r.children ++ [c] }
            (s, res.map (fun x => (name, x.1, x.2)))
    | none => (s, none)
  | none => (s, none)

end Sys2Proof.Machine
end

