-- ==== Sys2Proof/Machine/Time.lean ====
section
/-! DEFINITION. The global counter: `TIME` flits, steering, holdover, domain alignment and `SYNC_IN`
(R432 to R438, R526). -/

namespace Sys2Proof.Machine

/-- The counter in 1/16 tick (R432). -/
def GcState.fine (g : GcState) : Nat := g.value * 16 + g.frac

/-- The code of `GC_STATE` (R435). -/
def GcStatus.code : GcStatus → Nat
  | .free => 0
  | .acquiring => 1
  | .locked => 2
  | .holdover => 3
  | .unlocked => 4

/-- Sets the counter by an offset in 1/16 tick: a jump (R432). -/
def GcState.jump (g : GcState) (d : Int) : GcState :=
  let n := (((g.fine : Int) + d) % (2 ^ 68 : Int)).toNat
  { g with value := n / 16, frac := n % 16, lastSample := n / 16 }

/-- `TIME_FLIT_SEND` (R434). -/
def execTimeFlitSend (p : Port) (s : State) : Result :=
  if !s.awake || !s.ports[p].st.isUp then .next s
  else
    let (t1, t2) := (s.ports[p].timeEcho).getD (0, 0)
    let g := s.gc
    let root := match g.root with
      | some r => r.toNat
      | none => 0xFFFF
    .next (s.sendLink p 0x06 0 (toLe 8 g.fine ++ toLe 8 t1 ++ toLe 8 t2 ++ toLe 2 root
      ++ [if g.rootPrio then 1 else 0] ++ toLe 1 (if g.root.isNone then 0xFF else g.dist)
      ++ toLe 1 g.st.code))

/-- The mean of the samples held, in 1/16 tick (R434). -/
def GcState.mean (g : GcState) : Int :=
  if g.samples.isEmpty then 0 else g.samples.foldl (· + ·) 0 / (g.samples.length : Int)

/-- The samples lie within ±0.5 tick in the mean (R435). -/
def lockable (l : List Int) : Bool :=
  l.length = 16 && decide ((l.foldl (· + ·) 0).natAbs ≤ 16 * 8)

/-- A sample from the parent (R434, R435). Before the first launch, the first sets the counter, and so does one that
shows the adjustment of the domain's root, which the module follows (R432, R438); every other steers it by rate
alone. -/
def State.takeSample (s : State) (off : Int) : State :=
  let g := s.gc
  let follows := (g.st = .acquiring || g.st = .locked) && decide (16 * 500000 ≤ off.natAbs)
  if !s.step.launched && (g.st = .free || follows) then
    { s with gc := { g.jump off with st := .acquiring, samples := [], steer := 0, aligned := g.aligned || follows } }
  else
    let l := (off :: g.samples).take 16
    let g' := { g with samples := l, lastSample := g.value }
    let g' := { g' with steer := g'.mean }
    if g.st ≠ .locked && lockable l then
      let s' := { s with gc := { g' with st := .locked } }
      if g.st = .acquiring then s' else s'.mgmtEvent 0x6304 []
    else { s with gc := g' }

/-- `TIME` (R434): the flit's times are kept for the echo; with an echo of an own flit they give the
peer's offset and delay, and from the parent a sample. -/
def execTime (p : Port) (f : Flit) (s : State) : Result :=
  s.linkFlit p f (fun s =>
    let b := f.payload
    let t3 : Int := fieldAt b 0 8
    let t1 : Int := fieldAt b 8 8
    let t2 : Int := fieldAt b 16 8
    let t4 : Int := s.gc.fine
    let dist := fieldAt b 27 1
    let s := s.modPort p (fun ps =>
      { ps with timeEcho := some (fieldAt b 0 8, s.gc.fine)
                peerRoot := if dist = 0xFF then none
                  else some (BitVec.ofNat 16 (fieldAt b 24 2), fieldAt b 26 1 = 1, dist) })
    let s := s.chooseRoot
    if t1 = 0 then s
    else
      let off := ((t2 - t1) + (t3 - t4)) / 2
      let s := s.modPort p (fun ps => { ps with offset := off, delay := ((t4 - t1) - (t3 - t2)) / 2 })
      let s := s.setObj 0x2A03 (p.val + 3) (bitsOfInt 64 off)
      if s.gc.parent = some p then s.takeSample off else s)

/-- `GC_HOLDOVER` (R435): no parent sample for 1 ms. -/
def execGcHoldover (s : State) : Result :=
  if s.awake && s.gc.st = .locked && !s.isRoot && decide (s.gc.lastSample + 1000000 ≤ s.gc.value) then
    .next (({ s with gc := { s.gc with st := .holdover, holdoverSince := s.gc.value, samples := [],
                                       steer := 0 } }).mgmtEvent 0x6301 [])
  else .next s

/-- `GC_UNLOCKED` (R435): HOLDOVER beyond 1 s. -/
def execGcUnlocked (s : State) : Result :=
  if s.awake && s.gc.st = .holdover && decide (s.gc.holdoverSince + 1000000000 < s.gc.value) then
    .next (({ s with gc := { s.gc with st := .unlocked } }).mgmtEvent 0x6302 [])
  else .next s

/-- The lowest domain of the run (R438). -/
def Plan.lowestDomain (p : Plan) : Nat := (p.runMembers.map nodeDomain).foldl min 3

/-- Before the first launch of a run that spans domains, this module lies in a domain other than the lowest, whose root
has not aligned (R438). A follower knows of it by the adjustment it has taken; whether a root that had nothing to adjust
by has aligned is a free value (log entry 179). -/
def State.mustAlign (s : State) (p : Plan) : Bool :=
  !s.step.launched && !s.gc.aligned && decide (p.lowestDomain < nodeDomain s.nodeId) &&
    (s.isRoot || !Config.rootAligned s.gc.value)

/-- The nearest multiple of a unit, a tie going up. -/
def nearestMultiple (v : Int) (unit : Nat) : Int := (v + (unit / 2 : Nat)) / (unit : Int) * (unit : Int)

/-- `GC_DOMAIN_ALIGN` (R438): the one adjustment of a domain's root, by the offset measured on a bridge
port into the lowest domain, rounded to 1,000,000 ticks. -/
def execGcDomainAlign (p : Port) (s : State) : Result :=
  match s.planNext with
  | none => .next s
  | some pl =>
    let ps := s.ports[p]
    if !s.awake || !s.isRoot || !s.mustAlign pl || !ps.st.isUp || !s.isBridge p
        || nodeDomain ps.peerNode ≠ pl.lowestDomain then .next s
    else
      let d := nearestMultiple ps.offset (16 * 1000000)
      .next { s with gc := { s.gc.jump d with aligned := true } }

/-- Counts an ignored pulse of a discrete input: `FREEZE_N`, `RESET_N`, `SYNC_IN` (R526). -/
def State.ignoredPulse (s : State) (i : Fin 3) : State :=
  (s.addObj 0x2012 i.val 1).eventLimited 0x6601 i.val 1000000000 s.mgmtIsland (toLe 1 i.val)

/-- `DISCRETE_INPUT_IGNORED` (R526, R527): `SYNC_IN` pulses before READY are not counted; a high pulse of `RESET_N` while
in reset is, and nothing logs then. -/
def execDiscreteInputIgnored (i : Fin 3) (s : State) : Result :=
  if s.phase = .inReset && i = 1 then .next (s.addObj 0x2012 1 1)
  else if s.phase ≠ .up || (i = 2 && s.bringup ≠ .ready) then .next s
  else .next (s.ignoredPulse i)

/-- `SYNC_IN_PULSE` (R437, R526, R527): it latches the counter, and in mode 0x02 steers the root so
that pulses fall on multiples of 1,000,000 ticks. A pulse within 1 ms of the last is ignored. -/
def execSyncInPulse (s : State) : Result :=
  if s.phase ≠ .up || s.bringup ≠ .ready || s.obj 0x2A03 1 = 0 then .next s
  else if (match s.syncSeenAt with
      | some t => decide (s.uptime < t + 1000000)
      | none => false) then .next (s.ignoredPulse 2)
  else
    let s := ({ s with syncSeenAt := some s.uptime }).setObj 0x2A03 2 s.gc.value
    if s.obj 0x2A03 1 = 2 && s.isRoot then
      let f : Int := s.gc.fine
      .next { s with gc := { s.gc with steer := nearestMultiple f (16 * 1000000) - f } }
    else .next s

end Sys2Proof.Machine
end

