-- ==== Sys2Proof/Machine/Dense.lean ====
section
/-! DEFINITION. The dense arrays: matrix products and the distance, tropical and comparison modes
(R144 to R147, R160 to R162). The BLK16 product stands with the sparse tiles. -/

namespace Sys2Proof.Machine

/-- The comparison of R146's `PRED` by the primitives of R76: ordered and true (R162). -/
def comparePred (pred : Nat) (a b : Val) : Bool :=
  match pred with
  | 0 => a.lt b
  | 1 => a.lt b || a.eqv b
  | 2 => a.eqv b
  | 3 => !a.isNan && !b.isNan && !a.eqv b
  | 4 => b.lt a
  | _ => b.lt a || a.eqv b

/-- One output of the tropical modes: terms rounded to FP32 in the float class, with the overflow
bit of R160. -/
def tropical (int max : Bool) (ps : List (Val × Val)) : OutElem :=
  let terms := ps.map (fun (a, b) =>
    let x := a.add b
    let r := if int then x else toF32 x
    (r, r.isInf && !x.isInf))
  match terms with
  | [] => ⟨Val.zero, false, false, false⟩
  | (t, o) :: rest =>
    rest.foldl (fun acc t =>
      ⟨if max then acc.v.max t.1 else acc.v.min t.1, false, acc.ovf || t.2, false⟩) ⟨t, false, o, false⟩

/-- One output element of a mode over its operand pairs in ascending K (R160). -/
def denseElem (mode : Nat) (int part : Bool) (segbase pred : Nat) (ps : List (Val × Val)) :
    OutElem :=
  let chunked (f : Val → Val → Val) : OutElem :=
    OutElem.ofAcc (orZero (reduceTerms int part segbase ((ps.zipIdx).map (fun (p, k) => (k, f p.1 p.2)))))
  match mode with
  | 0 => chunked Val.mul
  | 1 => chunked (fun a b => let d := a.sub b; d.mul d)
  | 2 => chunked absDiff
  | 3 => tropical int true ps
  | 4 => tropical int false ps
  | _ => ⟨Val.ofInt ((ps.filter (fun p => comparePred pred p.1 p.2)).length : Nat), false, false, false⟩

/-- The output rows of a dense product, before the fused stage. -/
def State.denseRows (s : State) (r : Rec) (a b out : Desc) (sbA sbB : Option Desc) :
    List (List Nat × List OutElem) :=
  let int := a.fmt.isIntClass
  let part := r.flag 3
  out.outers.map (fun o =>
    let row := s.row a sbA o
    (o, (List.range (out.size 0)).map (fun n =>
      let col := (List.range (a.size 0)).map (fun k => s.val b sbB (k :: n :: o.drop 1))
      denseElem r.mode.val int part r.segbase (r.param0.toNat % 8) (row.zip col))))

/-- An INT32 result: integer-class products, and every compare-and-count (R160). -/
def denseInt (r : Rec) (a : Desc) : Bool := a.fmt.isIntClass || r.mode = 5

/-- The fused stage over output rows (R111). -/
def State.fuseRows (s : State) (r : Rec) (int : Bool) (f : Option Desc)
    (rows : List (List Nat × List OutElem)) : List (List Nat × List OutElem) :=
  match f with
  | none => rows
  | some fd =>
    if r.fuse = 0 then rows
    else rows.map (fun (o, es) => (o, (es.zipIdx).map (fun (e, i) =>
      { e with v := fuseStage int r.fuse e.v (some (s.val fd none (i :: o))) })))

/-- An accumulate write of the compatibility mode (R317): output and fused operand are one
descriptor and `FUSE` is add. -/
def isAccumulate (p : Plan) (r : Rec) : Bool :=
  p.compat && r.engine = 1 && r.fuse = 1 && r.desc2.isSome && r.desc2 = r.desc3

/-- Writes rows with stochastic rounding into a `BF16` buffer, keyed by the record's `MBTAG` (R108 to
R110, R317). -/
def State.writeStochastic (s : State) (x : Ctx) (n : Nat) (d : Desc)
    (rows : List (List Nat × List OutElem)) : State :=
  let tid := d.tid x.r.mbtag.toNat
  let enc (o : List Nat) (i : Nat) (v : Val) : Enc :=
    stochBf16 d.sat v (s.draw x.step tid (linearIndex d.sizes (i :: o)))
  let encs : List (List Nat × List Enc) :=
    rows.map (fun r => (r.1, (r.2.zipIdx).map (fun e => enc r.1 e.2 e.1.v)))
  let s := encs.foldl (fun s r => s.writeCodes d (0 :: r.1) (r.2.map Enc.code)) s
  let cnt := encs.foldl (fun c r => r.2.foldl (fun (c : Counts) e => c.add e.cnt) c) Counts.none
  (s.charge x n cnt).writeStatus x n d rows

/-- Writes the rows of a dense record: partial, accumulate or final; a part record counts nothing (R97, R111, R146,
R317). -/
def State.writeDense (s : State) (x : Ctx) (int : Bool) (sbRead : Nat × Nat)
    (rows : List (List Nat × List OutElem)) (a b : Nat) : State :=
  let s := if x.r.flag 3 then s
    else (s.charge x a { mismatch := sbRead.1 }).charge x b { mismatch := sbRead.2 }
  match x.wr x.r.desc2 with
  | none => s
  | some (n, d) =>
    let aux := (x.wr (paramDesc x.r.param2)).map Prod.snd
    let s :=
      if x.r.flag 3 then s.writePartial n d aux rows
      else
        let rows := s.fuseRows x.r int ((x.rd x.r.desc3).map Prod.snd) rows
        if isAccumulate x.plan x.r && d.fmt = .bf16 then s.writeStochastic x n d rows
        else s.writeFinal x n d aux rows
    s.stampPlane x n

/-! ### The sweep (R150) -/

/-- One pass of a round: batch index, rows of A, columns of B, positions of K as start and length, and whether the
round's outputs are finished after it. -/
structure Pass where
  batch : List Nat
  row : Nat
  rows : Nat
  col : Nat
  cols : Nat
  k : Nat
  ks : Nat
  last : Bool
  deriving DecidableEq, Repr

/-- The runs of up to `n` in a range of size `m`: start and length. -/
def runsOf (n m : Nat) : List (Nat × Nat) :=
  (List.range (ceilDiv m (max 1 n))).map (fun i => (i * max 1 n, min (max 1 n) (m - i * max 1 n)))

/-- The passes of a dense record in the order of its sweep (R150). R150 does not say where the batch indices of dimensions
2 to 5 stand: the model puts them outermost, in ascending linear index (DESIGN CHOICE, log entry 189). -/
def Rec.sweep (r : Rec) (a b out : Desc) : List Pass :=
  let width := 128 / 2 ^ r.part.val
  let passlen := max 1 (r.param1.toNat % 1024)
  let arrays := ((List.range 4).filter (fun i => r.units.toNat.testBit i)).length
  let rowGroup := (if r.stat = 0 then passlen else width) * max 1 arrays
  let colGroup := if r.stat = 2 then passlen else width
  let kStep := if r.stat = 1 then 4096 else if a.fmt.bits = 4 && b.fmt.bits = 4 && r.mode = 0 then 256 else 128
  (indexSpace (a.sizes.drop 2)).flatMap (fun o =>
    (runsOf rowGroup (a.size 1)).flatMap (fun (t, ts) =>
      (runsOf colGroup (out.size 0)).flatMap (fun (n, ns) =>
        (runsOf kStep (a.size 0)).map (fun (k, ks) =>
          ⟨o, t, ts, n, ns, k, ks, decide (k + ks = a.size 0)⟩))))

/-- The part of a tensor, with its side band, that a pass takes: dimension 0 along K, dimension 1 the lines given. -/
def passSpans (t : Option (Nat × Desc)) (sb : Option (Nat × Desc)) (ps : Pass) (line lines : Nat) : List Span :=
  (List.range lines).flatMap (fun i =>
    let o := (line + i) :: ps.batch
    (match t with
      | some (m, d) => [d.span m (ps.k :: o) ps.ks]
      | none => []) ++
    (match sb with
      | some (m, d) => [d.span m (ps.k / 32 :: o) (ceilDiv ps.ks 32)]
      | none => []))

/-- What a dense record reads, in the order of its sweep (R150, R357): `tile` gives the data of B that a pass takes. -/
def Ctx.sweepSpans (x : Ctx) (passes : List Pass) (tile : Pass → List Span) : List Span :=
  passes.zipIdx.flatMap (fun (ps, i) =>
    let b := (tile ps).map (fun y => { y with pass := some i })
    let a := passSpans (x.rd x.r.desc0) (x.rd x.r.desc5) ps ps.row ps.rows
    let f := match x.rd x.r.desc3 with
      | some (m, d) =>
        if ps.last then (List.range ps.rows).map (fun t => d.span m (ps.col :: (ps.row + t) :: ps.batch) ps.cols)
        else []
      | none => []
    (if x.r.stat = 2 then a ++ b else b ++ a) ++ f)

/-- The passes of the dense record of a context. -/
def Ctx.passes (x : Ctx) : List Pass :=
  match x.rd x.r.desc0, x.rd x.r.desc1, x.wr x.r.desc2 with
  | some (_, a), some (_, b), some (_, out) => x.r.sweep a b out
  | _, _, _ => []

/-- What a matrix-product record reads. -/
def denseSpans (x : Ctx) (_ : State) : List Span :=
  x.sweepSpans x.passes (fun ps => passSpans (x.rd x.r.desc1) (x.rd x.r.desc4) ps ps.col ps.cols)

/-- The descriptors a dense record reads. -/
def denseReads : Reads :=
  ⟨fun r => [r.desc0, r.desc1, r.desc3, r.desc4, r.desc5].filterMap id, denseSpans⟩

/-- What a matrix-product record does (R145, R160). -/
def denseEffect (x : Ctx) (_ : QRec) (s : State) : State :=
  match x.rd x.r.desc0, x.rd x.r.desc1, x.wr x.r.desc2 with
  | some (na, a), some (nb, b), some (_, out) =>
    let sbA := (x.rd x.r.desc5).map Prod.snd
    let sbB := (x.rd x.r.desc4).map Prod.snd
    s.writeDense x (denseInt x.r a) (s.mismatches a sbA a.outers, s.mismatches b sbB b.outers)
      (s.denseRows x.r a b out sbA sbB) na nb
  | _, _, _ => s

/-- A matrix-product record of a mode. -/
def wantDense (mode : Fin 8) (r : Rec) : Bool := r.engine = 1 && r.func = 1 && r.mode = mode

/-- `MATRIX_PRODUCT_MULTIPLY_ADD` (R163, R160). -/
def execMatrixProductMultiplyAdd (c : Core) (r : Nat) (s : State) : Result :=
  s.runRecord c r (wantDense 0) denseReads denseEffect

/-- `SQUARED_L2_DISTANCE` (R160). -/
def execSquaredL2Distance (c : Core) (r : Nat) (s : State) : Result :=
  s.runRecord c r (wantDense 1) denseReads denseEffect

/-- `L1_DISTANCE` (R160). -/
def execL1Distance (c : Core) (r : Nat) (s : State) : Result :=
  s.runRecord c r (wantDense 2) denseReads denseEffect

/-- `MAX_PLUS` (R160). -/
def execMaxPlus (c : Core) (r : Nat) (s : State) : Result :=
  s.runRecord c r (wantDense 3) denseReads denseEffect

/-- `MIN_PLUS` (R160). -/
def execMinPlus (c : Core) (r : Nat) (s : State) : Result :=
  s.runRecord c r (wantDense 4) denseReads denseEffect

/-- `COMPARE_AND_COUNT` (R162, R160). -/
def execCompareAndCount (c : Core) (r : Nat) (s : State) : Result :=
  s.runRecord c r (wantDense 5) denseReads denseEffect

end Sys2Proof.Machine
end

