-- ==== Sys2Proof/Machine/Tiles.lean ====
section
/-! DEFINITION. Sparse tile formats: headers, bodies and their checks (R173 to R189), the stealing
protocol (R210, R211) and building tiles (R179, R183, R186, R187). -/

namespace Sys2Proof.Machine

/-- The tile formats of R173. -/
inductive TFmt where
  | brt | csr | blk | bmp
  deriving DecidableEq, Repr

/-- `TFMT` (R173). -/
def TFmt.code : TFmt → Nat
  | .brt => 1
  | .csr => 2
  | .blk => 3
  | .bmp => 4

/-- The format of a `TFMT` value. -/
def TFmt.ofCode : Nat → Option TFmt
  | 1 => some .brt
  | 2 => some .csr
  | 3 => some .blk
  | 4 => some .bmp
  | _ => none

/-- A tile header (R176). -/
structure TileHdr where
  tfmt : Nat
  tk : Nat
  nnz : Nat
  rowmax : Nat
  colmax : Nat
  resid : Nat
  tlim : Nat
  trow : Nat
  tcol : Nat
  pmap : Nat
  binstart : List Nat
  len : Nat
  rsvZero : Bool
  deriving DecidableEq, Repr

/-- Reads a header (R176). -/
def TileHdr.parse (b : Bytes) : TileHdr where
  tfmt := fieldAt b 0 1
  tk := fieldAt b 1 1
  nnz := fieldAt b 2 2
  rowmax := fieldAt b 4 1
  colmax := fieldAt b 5 1
  resid := fieldAt b 6 1
  tlim := fieldAt b 7 1
  trow := fieldAt b 8 4
  tcol := fieldAt b 12 4
  pmap := fieldAt b 16 8
  binstart := (slice b 24 8).map BitVec.toNat
  len := fieldAt b 32 2
  rsvZero := allZero (slice b 34 30)

/-- The 64 bytes of a header (R176). -/
def TileHdr.bytes (h : TileHdr) : Bytes :=
  toLe 1 h.tfmt ++ toLe 1 h.tk ++ toLe 2 h.nnz ++ toLe 1 h.rowmax ++ toLe 1 h.colmax ++
    toLe 1 h.resid ++ toLe 1 h.tlim ++ toLe 4 h.trow ++ toLe 4 h.tcol ++ toLe 8 h.pmap ++
    padTo 8 (h.binstart.map (BitVec.ofNat 8)) ++ toLe 2 h.len ++ List.replicate 30 0

/-- Set bits of a presence map. -/
def popcount64 (n : Nat) : Nat := ((List.range 64).filter (fun i => n.testBit i)).length

/-- Bytes of a slot of a tile stream (R175). -/
def Desc.slotBytes (d : Desc) : Nat := d.size 0 * d.fmt.bits / 8

/-- The k that a BRT-k stream's slot size gives (R178); 0 where it is none of the four sizes. -/
def Desc.brtK (d : Desc) : Nat :=
  (([4, 8, 16, 32].find? (fun k => d.slotBytes = 64 + 32 * k * (d.fmt.bits + 8)))).getD 0

/-- Address of a slot (R174, R175). -/
def Desc.slotAddr (d : Desc) (slot : Nat) : Nat := d.bitAddr [0, slot] / 8

/-- Bytes a tile requires by its format and header counts (R188). -/
def TileHdr.need (h : TileHdr) (w : Nat) : Nat :=
  let vals := ceilDiv (h.nnz * w) 512 * 64
  match h.tfmt with
  | 1 => 64 + 32 * h.tk * (w + 8)
  | 2 => 64 + 256 + ceilDiv h.nnz 64 * 64 + vals
  | 3 => 64 + 32 * popcount64 h.pmap * w
  | _ => 64 + 2048 + vals

/-- What the first tile of a stream fixes for a record (R180, R188). -/
structure TileFix where
  tfmt : Nat
  tk : Nat
  tlim : Nat
  deriving DecidableEq, Repr

/-- The checks of R188 on a header: formats accepted, what the first tile fixed, K / 128. -/
def TileHdr.ok (h : TileHdr) (d : Desc) (accept : List TFmt) (fix : Option TileFix) (kt slot : Nat) :
    Bool :=
  let w := d.fmt.bits
  accept.any (fun f => f.code = h.tfmt)
    && (match fix with
        | none => true
        | some f => f.tfmt = h.tfmt && f.tk = h.tk && f.tlim = h.tlim)
    && (if h.tfmt = 1 then
          [4, 8, 16, 32].contains h.tk && h.tk = d.brtK && 1 ≤ h.tlim && h.tlim ≤ h.tk
            && h.rowmax ≤ h.tlim && h.colmax ≤ h.tlim
        else h.tk = 0 && h.tlim = 0)
    && h.trow = slot / (max 1 kt) && h.tcol = slot % (max 1 kt)
    && h.len * 64 ≤ d.slotBytes && h.need w ≤ h.len * 64
    && h.rsvZero
    && (h.tfmt ≠ 3 || h.nnz = 256 * popcount64 h.pmap)

/-- Value `i` of a packed value plane at byte `off` of a slot (R61). -/
def planeValue (b : Bytes) (off w i : Nat) : Nat :=
  let bit := i * w
  fieldAt b (off + bit / 8) ((bit % 8 + w + 7) / 8) / 2 ^ (bit % 8) % 2 ^ w

/-- The entries of one line of a BRT-k tile: position and value code, or `none` when the body check
of R189 fails. `col` selects the column form (R178). -/
def brtLine (h : TileHdr) (w : Nat) (b : Bytes) (col : Bool) (line : Nat) :
    Option (List (Nat × Nat)) :=
  let k := h.tk
  let plane := 16 * k * w
  let vOff := 64 + if col then plane + 128 * k else 0
  let iOff := vOff + plane
  let slots := (List.range k).map (fun j =>
    ((b.getD (iOff + line * k + j) 0).toNat, planeValue b vOff w (line * k + j)))
  let valid := slots.takeWhile (fun p => p.1 ≥ 128)
  let rest := slots.dropWhile (fun p => p.1 ≥ 128)
  let es := valid.map (fun p => (p.1 - 128, p.2))
  let ascending := (es.zip (es.drop 1)).all (fun p => decide (p.1.1 < p.2.1))
  if rest.all (fun p => p.1 < 128) && ascending && es.length ≤ h.tlim then some es else none

/-- Row lengths of a CSR-T tile (R182). -/
def csrCounts (b : Bytes) : List Nat := (slice b 64 128).map BitVec.toNat

/-- The body checks of a CSR-T tile on its lengths and order: `ORDER` is a permutation whose bins start where `BINSTART`
says (R183, R189). -/
def csrOrderOk (h : TileHdr) (b : Bytes) : Bool :=
  let counts := csrCounts b
  let order := (slice b 192 128).map BitVec.toNat
  let bin (r : Nat) : Nat := min 7 (counts.getD r 0 / 16)
  let bins := order.map bin
  counts.foldl (· + ·) 0 = h.nnz && order.length = 128
    && (List.range 128).all (fun r => order.contains r)
    && (bins.zip (bins.drop 1)).all (fun p => decide (p.2 ≤ p.1))
    && (List.range 8).all (fun i => h.binstart.getD i 0 = (bins.filter (fun j => decide (i < j))).length)

/-- The entries of one row of a CSR-T tile (R182, R189). R182 keeps bit 7 of an index byte zero and R189 lists no check
of it: a byte of 128 and more is no column, and so a body fault (DESIGN CHOICE, log entry 186). -/
def csrLine (h : TileHdr) (w : Nat) (b : Bytes) (line : Nat) : Option (List (Nat × Nat)) :=
  let counts := csrCounts b
  let start := (counts.take line).foldl (· + ·) 0
  let n := counts.getD line 0
  let vOff := 320 + ceilDiv h.nnz 64 * 64
  let es := (List.range n).map (fun j =>
    ((b.getD (320 + start + j) 0).toNat, planeValue b vOff w (start + j)))
  if (es.zip (es.drop 1)).all (fun p => decide (p.1.1 < p.2.1)) && es.all (fun e => decide (e.1 < 128))
  then some es else none

/-- Rank of block `blk` among the present blocks (R186). -/
def blkRank (pmap blk : Nat) : Nat := ((List.range blk).filter (fun i => pmap.testBit i)).length

/-- The entries of one row of a BLK16 tile (R186). -/
def blkLine (h : TileHdr) (w : Nat) (b : Bytes) (line : Nat) : List (Nat × Nat) :=
  (List.range 8).flatMap (fun bc =>
    let blk := line / 16 * 8 + bc
    if h.pmap.testBit blk then
      (List.range 16).map (fun j =>
        (16 * bc + j, planeValue b 64 w (256 * blkRank h.pmap blk + 16 * (line % 16) + j)))
    else [])

/-- Membership of a BMP tile (R187). -/
def bmpMap (b : Bytes) : List Bool :=
  let m := slice b 64 2048
  (List.range 16384).map (bitAt m)

/-- The entries of one row of a BMP tile (R187). -/
def bmpLine (w : Nat) (b : Bytes) (map : List Bool) (line : Nat) : List (Nat × Nat) :=
  let before := ((map.take (128 * line)).filter (fun x => x)).length
  let cols := (List.range 128).filter (fun c => map.getD (128 * line + c) false)
  (cols.zipIdx).map (fun (c, j) => (c, planeValue b 2112 w (before + j)))

/-! ### The bytes a reader takes of a tile -/

/-- Bytes of a value plane that hold `n` values from value `i` on. -/
def planeBytes (off w i n : Nat) : Nat × Nat := (off + i * w / 8, ceilDiv (i * w + n * w) 8 - i * w / 8)

/-- The bytes of a tile, as offsets and lengths, that a reader of some lines takes after its header: never any beyond
`LEN`, and only the present blocks of a BLK16 tile (R176, R186, R188, R206). -/
def TileHdr.takes (h : TileHdr) (w : Nat) (b : Bytes) (col : Bool) (want : List Nat) : List (Nat × Nat) :=
  match h.tfmt with
  | 1 =>
    let plane := 16 * h.tk * w
    let vOff := 64 + if col then plane + 128 * h.tk else 0
    want.flatMap (fun l => [planeBytes vOff w (l * h.tk) h.tk, (vOff + plane + l * h.tk, h.tk)])
  | 2 =>
    let counts := (slice b 64 128).map BitVec.toNat
    let vOff := 320 + ceilDiv h.nnz 64 * 64
    (64, 256) :: want.flatMap (fun l =>
      let start := (counts.take l).foldl (· + ·) 0
      [(320 + start, counts.getD l 0), planeBytes vOff w start (counts.getD l 0)])
  | 3 => [(64, 32 * popcount64 h.pmap * w)]
  | _ => [(64, h.need w - 64)]

/-- The index planes of a BRT-k or CSR-T tile's row form, without its values (R213). -/
def TileHdr.index (h : TileHdr) (w : Nat) : List (Nat × Nat) :=
  if h.tfmt = 1 then [(64 + 16 * h.tk * w, 128 * h.tk)] else [(64, 256 + h.nnz)]

/-- A failure of a tile's checks. -/
inductive TileErr where
  | hdr | body
  deriving DecidableEq, Repr

/-- Lines wanted of a tile: of the row form, or of the column form. -/
structure TileData where
  hdr : TileHdr
  lines : List (Nat × List (Nat × Nat))
  deriving DecidableEq, Repr

/-- Reads lines of a tile after its checks (R188, R189). -/
def readTile (d : Desc) (b : Bytes) (accept : List TFmt) (fix : Option TileFix) (kt slot : Nat)
    (col : Bool) (want : List Nat) : Except TileErr TileData :=
  let h := TileHdr.parse b
  let w := d.fmt.bits
  if !h.ok d accept fix kt slot then .error .hdr
  else
    match TFmt.ofCode h.tfmt with
    | some .brt =>
      match want.mapM (fun l => (brtLine h w b col l).map (fun es => (l, es))) with
      | some ls => .ok ⟨h, ls⟩
      | none => .error .body
    | some .csr =>
      if !csrOrderOk h b then .error .body
      else
        match want.mapM (fun l => (csrLine h w b l).map (fun es => (l, es))) with
        | some ls => .ok ⟨h, ls⟩
        | none => .error .body
    | some .blk => .ok ⟨h, want.map (fun l => (l, blkLine h w b l))⟩
    | some .bmp =>
      let m := bmpMap b
      if (m.filter (fun x => x)).length ≠ h.nnz then .error .body
      else .ok ⟨h, want.map (fun l => (l, bmpLine w b m l))⟩
    | none => .error .hdr

/-- Bytes of a slot. -/
def State.slot (s : State) (d : Desc) (i : Nat) : Bytes := s.bytes (d.slotAddr i) d.slotBytes

/-- Tiles read of a stream, in the order read, and the slot whose check ended the reading. -/
structure TilesRead where
  tiles : List (Nat × TileData)
  bad : Option (TileErr × Nat)
  deriving DecidableEq, Repr

/-- Reads tiles of a stream in turn: each is a slot with the lines wanted of it. The first fixes
format, k and L for the rest (R180, R188); the first whose check fails ends the reading. -/
def State.readTiles (s : State) (d : Desc) (accept : List TFmt) (kt : Nat) (col : Bool) :
    Option TileFix → List (Nat × List Nat) → TilesRead
  | _, [] => ⟨[], none⟩
  | fix, (i, want) :: rest =>
    match readTile d (s.slot d i) accept fix kt i col want with
    | .error e => ⟨[], some (e, i)⟩
    | .ok t =>
      let m := s.readTiles d accept kt col (some (fix.getD ⟨t.hdr.tfmt, t.hdr.tk, t.hdr.tlim⟩)) rest
      ⟨(i, t) :: m.tiles, m.bad⟩

/-- What a reader of some lines takes of a slot: the header, and, where its checks pass, what `takes` says (R188). -/
def State.tileSpans (s : State) (n : Nat) (d : Desc) (accept : List TFmt) (kt : Nat) (takes : TileHdr → Bytes →
    List (Nat × Nat)) (slot : Nat) : List Span :=
  let b := s.slot d slot
  let h := TileHdr.parse b
  let a := d.slotAddr slot
  ⟨n, a, 64, none⟩ :: (if h.ok d accept none kt slot then (takes h b).map (fun p => ⟨n, a + p.1, p.2, none⟩) else [])

/-- A failed tile check aborts the step (R188, R189, R195). -/
def State.tileFault (s : State) (x : Ctx) (n slot : Nat) (e : TileErr) : State :=
  let p := (s.physOf x.core).val
  match e with
  | .hdr => (s.addObj 0x301E p 1).abortWith 0x4301 x.island (toLe 4 n ++ toLe 4 slot)
  | .body => (s.addObj 0x301F p 1).abortWith 0x4302 x.island (toLe 4 n ++ toLe 4 slot)

/-- Entries of a line of a tile read. -/
def tileLine (ts : List (Nat × TileData)) (slot line : Nat) : List (Nat × Nat) :=
  match lookupKey slot ts with
  | some t => (lookupKey line t.lines).getD []
  | none => []

/-! ### The stealing protocol of a CSR-T pass (R211) -/

/-- A lane: the sizes of the pieces in its queue, and guest window sets used. -/
structure Lane where
  pieces : List Nat
  guests : Nat
  deriving DecidableEq, Repr

/-- Entries left in a lane. -/
def Lane.rem (l : Lane) : Nat := l.pieces.foldl (· + ·) 0

/-- Removes `t` entries from the tail of a queue. -/
def cutTail : List Nat → Nat → List Nat
  | [], _ => []
  | [p], t => if p ≤ t then [] else [p - t]
  | p :: ps, t => p :: cutTail ps t

/-- The steals of one step, from the right-hand lane down (R211): lanes and number of steals. -/
def stealPass : List Lane → List Lane × Nat
  | [] => ([], 0)
  | l :: rest =>
    let (rest, n) := stealPass rest
    match rest with
    | [] => ([l], n)
    | r :: rs =>
      if l.rem = 0 && l.guests < 4 && r.rem ≥ 2 then
        let t := min (r.rem / 2) (r.pieces.getLastD 0)
        (⟨[t], l.guests + 1⟩ :: ⟨cutTail r.pieces t, r.guests⟩ :: rs, n + 1)
      else (l :: r :: rs, n)

/-- One entry of a lane's queue is processed. -/
def Lane.process (l : Lane) : Lane :=
  match l.pieces with
  | [] => l
  | p :: ps => ⟨if p ≤ 1 then ps else (p - 1) :: ps, l.guests⟩

/-- Runs the protocol: steps until every lane is empty, and steals made. -/
def runSteals : (fuel : Nat) → List Lane → Nat × Nat
  | 0, _ => (0, 0)
  | f + 1, ls =>
    if ls.all (fun l => l.rem = 0) then (0, 0)
    else
      let (ls, n) := stealPass ls
      let (k, m) := runSteals f (ls.map Lane.process)
      (k + 1, n + m)

/-- The protocol on row counts in lane order: lane 127 - i takes the i-th largest (R210). -/
def csrProtocol (ordered : List Nat) : Nat × Nat :=
  runSteals 16400 (ordered.reverse.map (fun n => ⟨if n = 0 then [] else [n], 0⟩))

/-! ### Building tiles -/

/-- The row order of CSR-T (R183): bins from 7 down, descending count, ascending row. -/
def csrOrder (counts : List Nat) : List Nat :=
  (List.range 129).reverse.flatMap (fun n =>
    (List.range 128).filter (fun r => counts.getD r 0 = n))

/-- Bin starts (R183). -/
def csrBins (counts : List Nat) : List Nat :=
  (List.range 7).map (fun b => (counts.filter (fun n => n ≥ 16 * (b + 1))).length) ++ [0]

/-- The transposed lines of a tile: for each column, the rows that hold it. -/
def transposeLines (rows : List (List (Nat × Nat))) : List (List (Nat × Nat)) :=
  (List.range 128).map (fun c =>
    (rows.zipIdx).filterMap (fun (es, r) => (lookupKey c es).map (fun v => (r, v))))

/-- The largest line length. -/
def maxLine (ls : List (List (Nat × Nat))) : Nat := ls.foldl (fun a l => max a l.length) 0

/-- Packs a value plane and pads it to a multiple of 64 bytes with zeros. -/
def packPlane (w : Nat) (cs : List Nat) : Bytes :=
  let b := packCodes w cs
  padTo (ceilDiv b.length 64 * 64) b

/-- One form of a BRT-k tile: value plane, then index plane (R178). -/
def brtForm (k w : Nat) (lines : List (List (Nat × Nat))) : Bytes :=
  let padded := lines.map (fun l => l.map some ++ List.replicate (k - l.length) none)
  packCodes w (padded.flatMap (fun l => l.map (fun e => match e with
      | some (_, v) => v
      | none => 0)))
    ++ padded.flatMap (fun l => l.map (fun e => match e with
      | some (i, _) => BitVec.ofNat 8 (128 + i)
      | none => 0))

/-- Builds a BRT-k tile in canonical form, or `none` when a line exceeds L (R179, R180, R190). -/
def buildBrt (w k lim trow tcol : Nat) (rows : List (List (Nat × Nat))) : Option Bytes :=
  let cols := transposeLines rows
  if maxLine rows > lim || maxLine cols > lim then none
  else
    let n := rows.foldl (fun a l => a + l.length) 0
    let h : TileHdr := ⟨1, k, n, maxLine rows, maxLine cols, 0, lim, trow, tcol, 0, [],
      (64 + 32 * k * (w + 8)) / 64, true⟩
    some (h.bytes ++ brtForm k w rows ++ brtForm k w cols)

/-- Builds a CSR-T tile (R182, R183). -/
def buildCsr (w trow tcol : Nat) (rows : List (List (Nat × Nat))) : Bytes :=
  let counts := rows.map List.length
  let n := counts.foldl (· + ·) 0
  let order := csrOrder counts
  let (cycles, _) := csrProtocol (order.map (fun r => counts.getD r 0))
  let body := counts.map (BitVec.ofNat 8) ++ order.map (BitVec.ofNat 8) ++
    padTo (ceilDiv n 64 * 64) (rows.flatMap (fun l => l.map (fun e => BitVec.ofNat 8 e.1))) ++
    packPlane w (rows.flatMap (fun l => l.map Prod.snd))
  let h : TileHdr := ⟨2, 0, n, maxLine rows, 0, cycles - ceilDiv n 128, 0, trow, tcol, 0,
    csrBins counts, (64 + body.length) / 64, true⟩
  h.bytes ++ body

/-- Builds a BLK16 tile: every block that holds an entry is present, other positions +0 (R186,
R190). -/
def buildBlk (w trow tcol : Nat) (rows : List (List (Nat × Nat))) : Bytes :=
  let present (b : Nat) : Bool := (List.range 16).any (fun i =>
    (rows.getD (b / 8 * 16 + i) []).any (fun e => e.1 / 16 = b % 8))
  let blocks := (List.range 64).filter present
  let pmap := blocks.foldl (fun a b => a + 2 ^ b) 0
  let vals := blocks.flatMap (fun b => (List.range 256).map (fun p =>
    (lookupKey (b % 8 * 16 + p % 16) (rows.getD (b / 8 * 16 + p / 16) [])).getD 0))
  let body := packCodes w vals
  let h : TileHdr := ⟨3, 0, 256 * blocks.length, 0, 0, 0, 0, trow, tcol, pmap, [],
    (64 + body.length) / 64, true⟩
  h.bytes ++ body

/-- Builds a BMP tile (R187). -/
def buildBmp (w trow tcol : Nat) (rows : List (List (Nat × Nat))) : Bytes :=
  let map := packBits ((List.range 16384).map (fun i =>
    (lookupKey (i % 128) (rows.getD (i / 128) [])).isSome)) 2048
  let n := rows.foldl (fun a l => a + l.length) 0
  let body := map ++ packPlane w (rows.flatMap (fun l => l.map Prod.snd))
  let h : TileHdr := ⟨4, 0, n, maxLine rows, maxLine (transposeLines rows), 0, 0, trow, tcol, 0, [],
    (64 + body.length) / 64, true⟩
  h.bytes ++ body

end Sys2Proof.Machine
end

