-- ==== Sys2Proof/Machine/Sparse.lean ====
section
/-! DEFINITION. The sparse engine: products, sampled products, gather, scatter-add, dispatch and
combine (R196 to R227), and the BLK16 product of the dense arrays (R167). -/

namespace Sys2Proof.Machine

/-! ### Lists and offsets -/

/-- Element `i` of a tensor taken as one line, innermost dimension fastest. -/
def unlinear : List Nat → Nat → List Nat
  | [], _ => []
  | n :: ns, i => i % (max 1 n) :: unlinear ns (i / (max 1 n))

/-- Integer element `i` of a tensor taken as one line. -/
def State.intAt (s : State) (d : Desc) (i : Nat) : Int := s.int d (unlinear d.sizes i)

/-- The indices of an active-set list, or `none` when it is malformed for a dimension of size `n`
(R205). -/
def State.activeList (s : State) (d : Desc) (n : Nat) : Option (List Nat) :=
  let a := s.intAt d 0
  if a < 0 || a > (d.size 0 : Int) - 1 then none
  else
    let l := (List.range a.toNat).map (fun i => s.intAt d (i + 1))
    if l.all (fun i => decide (0 ≤ i) && decide (i < n)) && (l.zip (l.drop 1)).all (fun p => decide (p.1 < p.2))
    then some (l.map Int.toNat) else none

/-- The offsets `o[0]` to `o[S]` of an offset tensor, or `none` when it is malformed for a count (R217). A negative S,
which R217 does not name, is malformed too: there is no o[S] (DEDUCED, log entry 188). -/
def State.offsets (s : State) (d : Desc) (count : Nat) : Option (List Nat) :=
  let sn := s.intAt d 0
  if sn < 0 || sn + 2 > d.size 0 then none
  else
    let l := (List.range (sn.toNat + 1)).map (fun i => s.intAt d (i + 1))
    if l.head? = some 0 && (l.zip (l.drop 1)).all (fun p => decide (p.1 ≤ p.2))
        && decide (l.getLastD 0 ≤ count)
    then some (l.map Int.toNat) else none

/-- The offsets a record names in a parameter: `some none` without one, `none` when malformed. -/
def State.recOffsets (s : State) (x : Ctx) (w : BitVec 32) (count : Nat) : Option (Option (List Nat)) :=
  match x.rd (paramDesc w) with
  | none => some none
  | some (_, d) => (s.offsets d count).map some

/-- A malformed list aborts the step (R205). -/
def State.badList (s : State) (x : Ctx) : State :=
  s.abortWith 0x4401 x.island (toLe 4 x.r.recno)

/-- A malformed offset tensor aborts the step (R217). -/
def State.badOffsets (s : State) (x : Ctx) : State :=
  s.abortWith 0x4402 x.island (toLe 4 x.r.recno)

/-! ### Products (R201 to R212) -/

/-- The shape of a stream's use: K / 128 and the lines of its output form. -/
structure SpShape where
  kt : Nat
  nt : Nat
  trans : Bool
  deriving DecidableEq, Repr

/-- The slot of a line group's tile: output band and chunk of the reduction (R174). -/
def SpShape.slot (g : SpShape) (band chunk : Nat) : Nat :=
  if g.trans then chunk * g.kt + band else band * g.kt + chunk

/-- Chunks of the reduction dimension. -/
def SpShape.chunks (g : SpShape) : Nat := if g.trans then g.nt else g.kt

/-- Output lines of the whole matrix. -/
def SpShape.lines (g : SpShape) : Nat := 128 * (if g.trans then g.kt else g.nt)

/-- The shape from the record's operands (R201): `aset` 2 is the reduction-line mode. -/
def spShape (x : Ctx) (xd w out : Desc) : SpShape :=
  let trans := x.r.flag 6
  let red := x.r.param0.toNat / 16 % 4 = 2
  let tiles := w.size 1
  let fromRed := xd.size 0 / 128
  let fromOut := out.size 0 / 128
  let chunks := if red then tiles / (max 1 fromOut) else fromRed
  let bands := tiles / (max 1 chunks)
  if trans then ⟨bands, chunks, true⟩ else ⟨chunks, bands, false⟩

/-- The line groups of a product in the order of its sweep: the output lines of each, band by band or 128 entries of the
list at a time (R204, R206). -/
def spGroups (g : SpShape) (list : Option (List Nat)) : List (List Nat) :=
  match list with
  | none => (List.range (g.lines / 128)).map (fun b => (List.range 128).map (fun i => 128 * b + i))
  | some l => chunked 128 l

/-- The tiles a line group reads of one chunk, with the lines wanted of each: its bands in ascending order (R204, R206). -/
def groupTiles (g : SpShape) (lines : List Nat) (c : Nat) : List (Nat × List Nat) :=
  ((List.range (g.lines / 128)).filter (fun b => lines.any (fun i => i / 128 = b))).map (fun b =>
    (g.slot b c, (lines.filter (fun i => i / 128 = b)).map (· % 128)))

/-- Cuts a list into runs of the lengths given, as far as it reaches. -/
def cutRuns {α : Type} : List Nat → List α → List (List α)
  | [], _ => []
  | n :: ns, l => if l.length < n then [] else l.take n :: cutRuns ns (l.drop n)

/-- The stored entries of an output line as reduction positions and value codes, ascending. -/
def spLine (g : SpShape) (ts : List (Nat × TileData)) (line : Nat) : List (Nat × Nat) :=
  (List.range g.chunks).flatMap (fun c =>
    (tileLine ts (g.slot (line / 128) c) (line % 128)).map (fun e => (128 * c + e.1, e.2)))

/-- Reduction positions to rows of the dense operand (R207): the identity without a list. -/
def redRow (list : Option (List Nat)) (pos : Nat) : Option Nat :=
  match list with
  | none => some pos
  | some l => l.findIdx? (· == pos)

/-- An element of a block-scaled tensor lies in a block with `ZERO` set (R63, R64). -/
def State.zeroBlock (s : State) (d : Desc) (sb : Option Desc) (idx : List Nat) : Bool :=
  match d.fmt.isMx, sb with
  | true, some b =>
    let e := s.code b (sbIndex idx)
    e / 256 ≠ 255 && e.testBit 7
  | _, _ => false

/-- A product of the sparse engine: with an element of a `ZERO` block it is a signed zero, whatever the other factor
(R72, R199). -/
def spMul (zero : Bool) (a b : Val) : Val := if zero then .fin (a.sign != b.sign) 0 0 else a.mul b

/-- One output element of a product (R198, R199, R207). -/
def State.spElem (s : State) (x : Ctx) (xd w : Desc) (sbX : Option Desc) (red : Option (List Nat))
    (entries : List (Nat × Nat)) (t : Nat) : OutElem :=
  let terms := entries.filterMap (fun (pos, code) =>
    (redRow red pos).map (fun row =>
      (pos, spMul (s.zeroBlock xd sbX [row, t]) (w.fmt.decode code) (s.val xd sbX [row, t]))))
  OutElem.ofAcc (orZero (reduceTerms w.fmt.isIntClass (x.r.flag 7) x.r.segbase terms))

/-- Steals of one pass over a tile: rows keep the counts of their hits (R209, R211). -/
def passSteals (b : Bytes) (red : Option (List Nat)) (chunk : Nat) (rows : List (Nat × List (Nat × Nat))) :
    Nat :=
  let order := (slice b 192 128).map BitVec.toNat
  let count (r : Nat) : Nat :=
    (((lookupKey r rows).getD []).filter (fun e => (redRow red (128 * chunk + e.1)).isSome)).length
  (csrProtocol (order.map count)).2

/-- Health counters of a product's passes over the tiles read, `groups` token groups each (R208, R212): merge-join
passes and steals. -/
def State.spHealth (s : State) (x : Ctx) (g : SpShape) (w : Desc) (csr : Bool)
    (red : Option (List Nat)) (ts : List (Nat × TileData)) (groups : Nat) : State :=
  let p := (s.physOf x.core).val
  let merge := match red with
    | some l => decide (l.length > 1024)
    | none => false
  if merge then s.addObj 0x3024 p (ts.length * groups)
  else if csr then
    let steals := ts.foldl (fun a (i, t) =>
      a + passSteals (s.slot w i) red (i % (max 1 g.kt)) t.lines) 0
    s.addObj 0x3025 p (steals * groups)
  else s

/-- The rows of a product's output over its finished line groups, with their tiles (R206). Positions of a block beyond a
list are +0. -/
def spRows (mx : Bool) (groups : List (List Nat × List (Nat × TileData))) (tokens : Nat)
    (elem : List (Nat × TileData) → Nat → Nat → OutElem) : List (List Nat × List OutElem) :=
  (List.range tokens).map (fun t =>
    let vs := groups.flatMap (fun (ls, ts) => ls.map (fun l => elem ts l t))
    ([t], if mx then vs ++ List.replicate (ceilDiv vs.length 32 * 32 - vs.length) ⟨Val.zero, false, false, false⟩
      else vs))

/-- Fuses rows whose fused operand is indexed as the output, up to `n` positions of each (R206,
R226). -/
def State.fuseFirst (s : State) (x : Ctx) (int : Bool) (n : Nat)
    (rows : List (List Nat × List OutElem)) : List (List Nat × List OutElem) :=
  match x.rd x.r.desc3 with
  | none => rows
  | some (_, fd) =>
    if x.r.fuse = 0 then rows
    else rows.map (fun r => (r.1, (r.2.zipIdx).map (fun e =>
      if e.2 < n then
        { e.1 with v := fuseStage int x.r.fuse e.1.v (some (s.val fd none (e.2 :: r.1))) }
      else e.1)))

/-- What a product record settles at its start: its operands, shape, active set and tokens (R201 to R208, R217). -/
structure SpRun where
  nx : Nat
  xd : Desc
  nw : Nat
  w : Desc
  no : Nat
  out : Desc
  shape : SpShape
  outList : Option (List Nat)
  red : Option (List Nat)
  tokens : Nat
  deriving DecidableEq, Repr

/-- A list or an offset tensor that a record finds malformed (R205, R217). -/
inductive ListErr where
  | list | offsets
  deriving DecidableEq, Repr

/-- A malformed list or offset tensor aborts the step (R205, R217). -/
def State.listFault (s : State) (x : Ctx) : ListErr → State
  | .list => s.badList x
  | .offsets => s.badOffsets x

/-- The active-set list of a product, `some none` without one, `none` when malformed (R202, R205). -/
def State.spList (s : State) (x : Ctx) (dim : Nat) : Option (Option (List Nat)) :=
  if x.r.param0.toNat / 16 % 4 = 0 then some none
  else match x.rd x.r.desc4 with
    | some (_, l) => (s.activeList l dim).map some
    | none => some none

/-- The start of a product record. Where both its list and its offset tensor are malformed, the list is found first: the
spec gives no order (DESIGN CHOICE, log entry 187). -/
def State.spRun (s : State) (x : Ctx) : Option (Except ListErr SpRun) :=
  match x.rd x.r.desc0, x.rd x.r.desc1, x.wr x.r.desc2 with
  | some (nx, xd), some (nw, w), some (no, out) =>
    let g := spShape x xd w out
    let aset := x.r.param0.toNat / 16 % 4
    match s.spList x (if aset = 1 then g.lines else 128 * g.chunks), s.recOffsets x x.r.param1 (xd.size 1) with
    | none, _ => some (.error .list)
    | _, none => some (.error .offsets)
    | some list, some offs =>
      some (.ok ⟨nx, xd, nw, w, no, out, g, if aset = 1 then list else none, if aset = 2 then list else none,
        match offs with
        | some o => o.getLastD 0
        | none => xd.size 1⟩)
  | _, _, _ => none

/-- The tile reads of a line group: its chunks in ascending order. Without a token there is no quad, and so none
(R204). -/
def SpRun.reads (u : SpRun) (lines : List Nat) : List (Nat × List Nat) :=
  if u.tokens = 0 then [] else (List.range u.shape.chunks).flatMap (groupTiles u.shape lines)

/-- Writes the output of a product's finished line groups, for the tokens below a limit. -/
def State.spWrite (s : State) (x : Ctx) (u : SpRun) (groups : List (List Nat × List (Nat × TileData))) (tokens : Nat) :
    State :=
  let sbX := (x.rd x.r.desc5).map Prod.snd
  let aux := (x.wr (paramDesc x.r.param2)).map Prod.snd
  let rows := spRows (u.outList.isSome && u.out.fmt.isMx) groups tokens (fun ts l t =>
    s.spElem x u.xd u.w sbX u.red (spLine u.shape ts l) t)
  let s :=
    if x.r.flag 7 then s.writePartial u.no u.out aux rows
    else
      let s := s.charge x u.nx
        { mismatch := s.mismatches u.xd sbX ((List.range tokens).map (fun t => [t])) }
      s.writeFinal x u.no u.out aux
        (s.fuseFirst x u.w.fmt.isIntClass ((groups.map (fun e => e.1.length)).foldl (· + ·) 0) rows)
  s.stampPlane x u.no

/-- What a BRT-k or CSR-T product does. A tile whose check fails ends the sweep: the line groups finished before it, for
the token groups of the first quad, are written (R188, R204). -/
def spProduct (fmt : TFmt) (x : Ctx) (_ : QRec) (s : State) : State :=
  match s.spRun x with
  | none => s
  | some (.error e) => s.listFault x e
  | some (.ok u) =>
    let groups := spGroups u.shape u.outList
    let reads := groups.map u.reads
    let m := s.readTiles u.w [fmt] u.shape.kt u.shape.trans none reads.flatten
    let done := groups.zip (cutRuns (reads.map List.length) m.tiles)
    let tokenGroups := ceilDiv u.tokens 128
    match m.bad with
    | some (e, i) =>
      (((s.spHealth x u.shape u.w (fmt = .csr) u.red m.tiles (min 4 tokenGroups)).spWrite x u done
        (min 512 u.tokens))).tileFault x u.nw i e
    | none => (s.spHealth x u.shape u.w (fmt = .csr) u.red m.tiles tokenGroups).spWrite x u done u.tokens

/-- What a list's reader takes of it: its count and the indices it counts (R205). -/
def State.listSpans (s : State) (x : Ctx) (n : Option Nat) (extra : Nat) : List Span :=
  match x.rd n with
  | some (m, d) => [d.span m [0] (min (d.size 0) (extra + (s.intAt d 0).toNat))]
  | none => []

/-- What a reader takes of the offset tensor named in a parameter (R217). -/
def State.offsetSpans (s : State) (x : Ctx) (w : BitVec 32) : List Span := s.listSpans x (paramDesc w) 2

/-- The rows of the dense operand that a chunk meets, as start and length along dimension 0 (R207). -/
def SpRun.chunkRows (u : SpRun) (c : Nat) : Nat × Nat :=
  match u.red with
  | none => (128 * c, min 128 (u.xd.size 0 - 128 * c))
  | some l =>
    ((l.filter (fun i => decide (i < 128 * c))).length, (l.filter (fun i => i / 128 = c)).length)

/-- What a product reads, in the order of its sweep (R204, R357). -/
def spSpans (fmt : TFmt) (x : Ctx) (s : State) : List Span :=
  (if x.r.param0.toNat / 16 % 4 = 0 then [] else s.listSpans x x.r.desc4 1) ++ s.offsetSpans x x.r.param1 ++
  match s.spRun x with
  | some (.ok u) =>
    (runsOf 512 u.tokens).flatMap (fun (t0, ts) =>
      (spGroups u.shape u.outList).zipIdx.flatMap (fun (lines, j) =>
        (List.range u.shape.chunks).flatMap (fun c =>
          ((groupTiles u.shape lines c).flatMap (fun e =>
            s.tileSpans u.nw u.w [fmt] u.shape.kt (fun h b => h.takes u.w.fmt.bits b u.shape.trans e.2) e.1)) ++
          (List.range ts).flatMap (fun t =>
            let (k, n) := u.chunkRows c
            if n = 0 then [] else
            u.xd.span u.nx [k, t0 + t] n :: (match x.rd x.r.desc5 with
              | some (m, d) => [d.span m [k / 32, t0 + t] (ceilDiv n 32)]
              | none => []))) ++
        (match x.rd x.r.desc3 with
          | some (m, d) => (List.range ts).map (fun t => d.span m [128 * j, t0 + t] lines.length)
          | none => [])))
  | _ => []

/-- Descriptors a product record reads. -/
def spReads (fmt : TFmt) : Reads :=
  ⟨fun r => [r.desc0, r.desc1, r.desc3, r.desc4, r.desc5].filterMap id, spSpans fmt⟩

/-- A sparse-engine record of a function. -/
def wantSparse (f : BitVec 12) (r : Rec) : Bool := r.engine = 2 && r.func = f

/-- `BRT_K_PRODUCT` (R204). -/
def execBrtKProduct (c : Core) (r : Nat) (s : State) : Result :=
  s.runRecord c r (wantSparse 1) (spReads .brt) (spProduct .brt)

/-- `CSR_T_PRODUCT` (R211). -/
def execCsrTProduct (c : Core) (r : Nat) (s : State) : Result :=
  s.runRecord c r (wantSparse 2) (spReads .csr) (spProduct .csr)

/-! ### The BLK16 product of the dense arrays (R167) -/

/-- The shape of a BLK16 product's stream. -/
def blkShape (a b : Desc) : SpShape := ⟨a.size 0 / 128, b.size 1 / (max 1 (a.size 0 / 128)), false⟩

/-- What a BLK16 product does. A tile whose check fails ends the sweep: of the first round of row groups, the output
columns finished before it are written (R150, R188). -/
def blkEffect (x : Ctx) (_ : QRec) (s : State) : State :=
  match x.rd x.r.desc0, x.rd x.r.desc1, x.wr x.r.desc2 with
  | some (na, a), some (nb, b), some (_, out) =>
    let g := blkShape a b
    let reads := (spGroups g none).map (fun l => (List.range g.chunks).flatMap (groupTiles g l))
    let m := s.readTiles b [.blk] g.kt false none reads.flatten
    let sbA := (x.rd x.r.desc5).map Prod.snd
    let int := a.fmt.isIntClass
    let elem (o : List Nat) (n : Nat) : OutElem :=
      let terms := (spLine g m.tiles n).map (fun e => (e.1, (s.val a sbA (e.1 :: o)).mul (b.fmt.decode e.2)))
      OutElem.ofAcc (orZero (reduceTerms int (x.r.flag 3) x.r.segbase terms))
    let rows (os : List (List Nat)) (n : Nat) : List (List Nat × List OutElem) :=
      os.map (fun o => (o, (List.range n).map (elem o)))
    match m.bad with
    | some (e, i) =>
      let bands := (cutRuns (reads.map List.length) m.tiles).length
      let first := match x.passes.head? with
        | some ps => out.outers.take ps.rows
        | none => []
      (s.writeDense x int (0, 0) (rows (if bands = 0 then [] else first) (128 * bands)) na nb).tileFault x nb i e
    | none => s.writeDense x int (s.mismatches a sbA a.outers, 0) (rows out.outers (out.size 0)) na nb
  | _, _, _ => s

/-- What a BLK16 product reads, in the order of its sweep: the present blocks of each tile (R150, R167, R186). -/
def blkSpans (x : Ctx) (s : State) : List Span :=
  match x.rd x.r.desc0, x.rd x.r.desc1 with
  | some (_, a), some (nb, b) =>
    let g := blkShape a b
    x.sweepSpans x.passes (fun ps =>
      (List.range (ceilDiv ps.ks 128)).flatMap (fun c =>
        s.tileSpans nb b [.blk] g.kt (fun h y => h.takes b.fmt.bits y false []) (g.slot (ps.col / 128) (ps.k / 128 + c))))
  | _, _ => []

/-- The reads of a BLK16 product. -/
def blkReads : Reads :=
  ⟨fun r => [r.desc0, r.desc1, r.desc3, r.desc5].filterMap id, blkSpans⟩

/-- `BLK16_PRODUCT` (R167). -/
def execBlk16Product (c : Core) (r : Nat) (s : State) : Result :=
  s.runRecord c r (fun q => q.engine = 1 && q.func = 2) blkReads blkEffect

/-! ### Sampled product (R213, R214) -/

/-- A structure tile whose value-plane row does not fit it (R213). -/
def sampledFits (plane : Desc) (t : TileHdr) : Bool :=
  if t.tfmt = 1 then plane.size 0 = 128 * t.tk else decide (t.nnz ≤ plane.size 0)

/-- The positions of a structure tile's entries in the row form: slot in the value plane, row and
column (R214). -/
def sampledPlaces (t : TileData) : List (Nat × Nat × Nat) :=
  if t.hdr.tfmt = 1 then
    t.lines.flatMap (fun (r, es) => (es.zipIdx).map (fun (e, j) => (r * t.hdr.tk + j, r, e.1)))
  else
    ((t.lines.flatMap (fun (r, es) => es.map (fun e => (r, e.1)))).zipIdx).map
      (fun (p, i) => (i, p.1, p.2))

/-- The output rows of a sampled product for the structure tiles given (R214). -/
def State.sampledRows (s : State) (x : Ctx) (u v plane : Desc) (kt : Nat) (ts : List (Nat × TileData)) :
    List (List Nat × List OutElem) :=
  let int := u.fmt.isIntClass
  let elem (n k : Nat) : OutElem :=
    let terms := (List.range (u.size 0)).map (fun t =>
      (t, (s.val u none [t, n]).mul (s.val v none [t, k])))
    OutElem.ofAcc (orZero (reduceTerms int (x.r.flag 7) x.r.segbase terms))
  ts.map (fun (i, t) =>
    let places := sampledPlaces t
    ([i], (List.range (plane.size 0)).map (fun j =>
      match lookupKey j places with
      | some (r, c) => elem (128 * (i / (max 1 kt)) + r) (128 * (i % (max 1 kt)) + c)
      | none => ⟨Val.zero, false, false, false⟩)))

/-- What a sampled product does. The first structure tile that fails its checks or does not fit the value plane ends it,
after the tiles before it are written (R188, R213). Of a tile that does both, the failed body check is reported: it is
read before anything is made of it (DESIGN CHOICE, log entry 187). -/
def sampledEffect (x : Ctx) (_ : QRec) (s : State) : State :=
  match x.rd x.r.desc0, x.rd x.r.desc1, x.wr x.r.desc2, x.rd (paramDesc x.r.param1) with
  | some (_, u), some (_, v), some (no, plane), some (nst, st) =>
    let kt := v.size 1 / 128
    let m := s.readTiles st [.brt, .csr] kt false none
      ((List.range (st.size 1)).map (fun i => (i, List.range 128)))
    let ts := m.tiles.takeWhile (fun t => sampledFits plane t.2.hdr)
    let bad := match m.tiles[ts.length]? with
      | some t => some (TileErr.hdr, t.1)
      | none => m.bad
    let rows := s.sampledRows x u v plane kt ts
    let steals := ts.foldl (fun a (i, t) =>
      if t.hdr.tfmt = 2 then a + passSteals (s.slot st i) none 0 t.lines else a) 0
    let s := s.addObj 0x3025 (s.physOf x.core).val (steals * ceilDiv (u.size 0) 128)
    let aux := (x.wr (paramDesc x.r.param2)).map Prod.snd
    let s := (if x.r.flag 7 then s.writePartial no plane aux rows
      else s.writeFinal x no plane aux rows).stampPlane x no
    match bad with
    | some (e, i) => s.tileFault x nst i e
    | none => s
  | _, _, _, _ => s

/-- What a sampled product reads, tile by tile: the header and index planes of the structure, then the lines of U and V
that it meets (R213). -/
def sampledSpans (x : Ctx) (s : State) : List Span :=
  match x.rd x.r.desc1, x.rd (paramDesc x.r.param1) with
  | some (_, v), some (nst, st) =>
    let kt := max 1 (v.size 1 / 128)
    (List.range (st.size 1)).flatMap (fun i =>
      s.tileSpans nst st [.brt, .csr] kt (fun h _ => h.index st.fmt.bits) i ++
        x.rowsAt x.r.desc0 ((List.range 128).map (fun r => 128 * (i / kt) + r)) ++
        x.rowsAt x.r.desc1 ((List.range 128).map (fun c => 128 * (i % kt) + c)))
  | _, _ => []

/-- The reads of a sampled product. -/
def sampledReads : Reads :=
  ⟨fun r => ([r.desc0, r.desc1].filterMap id) ++ (paramDesc r.param1).toList,
    sampledSpans⟩

/-- `SAMPLED_PRODUCT` (R213). -/
def execSampledProduct (c : Core) (r : Nat) (s : State) : Result :=
  s.runRecord c r (wantSparse 3) sampledReads sampledEffect

/-! ### Out-of-range positions (R130, R131) -/

/-- What a position along a dimension becomes. -/
inductive PosKind where
  | inRange (i : Nat)
  | clamped (i : Nat)
  | dropped
  deriving DecidableEq, Repr

/-- A position against bounds `[lo, hi]` and the `OOB` bit (R130, R216). -/
def boundPos (drop : Bool) (lo hi p : Int) : PosKind :=
  if lo ≤ p && p ≤ hi then .inRange p.toNat
  else if drop then .dropped
  else .clamped (if p < lo then lo else hi).toNat

/-- Charges out-of-range positions to the indexed tensor (R130, R131). -/
def State.chargeIndex (s : State) (x : Ctx) (n clamped dropped : Nat) : State :=
  let m := s.obj 0x2810 0
  let s := s.count x 0x3017 n 0 clamped m 0x4201 (toLe 4 n)
  s.count x 0x3017 n 1 dropped m 0x4202 (toLe 4 n)

/-- Number of clamped positions. -/
def countClamped (l : List PosKind) : Nat := (l.filter (fun k => match k with
  | .clamped _ => true
  | _ => false)).length

/-- Number of dropped positions. -/
def countDropped (l : List PosKind) : Nat := (l.filter (fun k => k = .dropped)).length

/-! ### Gather (R216 to R218) -/

/-- The source slice of one read of a gather (R216). -/
def gatherPos (drop : Bool) (m : Nat) (offs : Option (List Nat)) (p r : Int) : PosKind :=
  let whole := boundPos drop 0 ((m : Int) - 1)
  match offs with
  | none => whole r
  | some o =>
    let last : Int := o.getLastD 0
    if p < 0 || last ≤ p then whole r
    else
      match (o.zip (o.drop 1)).find? (fun b => decide ((b.1 : Int) ≤ p) && decide (p < b.2)) with
      | none => whole r
      | some (lo, hi) =>
        match boundPos drop lo ((hi : Int) - 1) r with
        | .inRange i => whole i
        | .clamped i =>
          match whole i with
          | .inRange j => .clamped j
          | k => k
        | .dropped => .dropped

/-- The coalescer after one read: entries of key and size, least recent first (R218); whether the
slice was resident. -/
def coalesce (cost : Nat) (es : List (Nat × Nat)) (key : Nat) : List (Nat × Nat) × Bool :=
  if cost > 64 then (es, false)
  else if es.any (fun e => e.1 = key) then (es.filter (fun e => e.1 ≠ key) ++ [(key, cost)], true)
  else
    let es := es ++ [(key, cost)]
    let used := es.foldl (fun a e => a + e.2) 0
    let rec evict : List (Nat × Nat) → Nat → List (Nat × Nat)
      | [], _ => []
      | e :: rest, u => if u ≤ 64 then e :: rest else evict rest (u - e.2)
    (evict es used, false)

/-- Reads through the coalescer, in output order: the keys not served by it, and the hits. -/
def coalesceAll (cost : Nat) : List (Nat × Nat) → List PosKind → List Nat × Nat
  | _, [] => ([], 0)
  | es, k :: ks =>
    match k with
    | .dropped => coalesceAll cost es ks
    | .inRange i | .clamped i =>
      let (es, hit) := coalesce cost es i
      let (miss, hits) := coalesceAll cost es ks
      if hit then (miss, hits + 1) else (i :: miss, hits)

/-- The position of an index operand at output or source index `i` (R215, R216). -/
def State.posOf (s : State) (x : Ctx) (i : Nat) : Int :=
  match x.rd x.r.desc4 with
  | some (_, d) => s.intAt d i
  | none => i

/-- The index elements that a record reads, one by one. -/
def Ctx.indexSpans (x : Ctx) (lim : Nat) : List Span :=
  match x.rd x.r.desc4 with
  | some (m, d) => (List.range lim).map (fun i => d.span m (unlinear d.sizes i) 1)
  | none => []

/-- The indices a record processes: all `n`, or those below o[S] (R217, R220). -/
def limitOf (n : Nat) (offs : Option (List Nat)) : Nat :=
  match offs with
  | some o => min n (o.getLastD 0)
  | none => n

/-- The reads of a gather in output order: output index and source slice (R216); `none` when its offset tensor is
malformed (R217). -/
def State.gatherReads (s : State) (x : Ctx) (src out : Desc) : Option (List (List Nat × PosKind)) :=
  let wlen := max 1 (x.r.param0.toNat / 65536 % 256)
  let plain := out.sizes.length = 2
  let n := if plain then out.size 1 else out.size 2
  (s.recOffsets x x.r.param2 n).map (fun offs =>
    (List.range (limitOf n offs)).flatMap (fun i =>
      let p := s.posOf x i
      (List.range wlen).map (fun w =>
        (if plain then [i] else [w, i],
          gatherPos src.drop (src.size 1) offs p (p + x.r.param1.toInt + w)))))

/-- The source slices a gather reads, each once for a run of hits of the coalescer, and the hits (R218). -/
def gatherMissed (src : Desc) (reads : List (List Nat × PosKind)) : List Nat × Nat :=
  coalesceAll (ceilDiv (src.size 0 * src.fmt.bits / 8) 4096) [] (reads.map Prod.snd)

/-- What a gather does. -/
def gatherEffect (x : Ctx) (_ : QRec) (s : State) : State :=
  match x.rd x.r.desc0, x.wr x.r.desc2 with
  | some (ns, src), some (no, out) =>
    match s.gatherReads x src out with
    | none => s.badOffsets x
    | some reads =>
      let kinds := reads.map Prod.snd
      let (missed, hits) := gatherMissed src reads
      let sb := (x.rd x.r.desc5).map Prod.snd
      let rows := reads.map (fun r => (r.1, match r.2 with
        | .inRange i | .clamped i => (s.row src sb [i]).map (fun v => ⟨v, false, false, false⟩)
        | .dropped => List.replicate (out.size 0) ⟨Val.zero, false, false, false⟩))
      let s := s.charge x ns { mismatch := s.mismatches src sb (missed.map (fun i => [i])) }
      let s := s.addObj 0x3026 (s.physOf x.core).val hits
      let s := s.chargeIndex x ns (countClamped kinds) (countDropped kinds)
      let s := s.writeFinal x no out ((x.wr x.r.desc1).map Prod.snd) rows
      s.stampPlane x no
  | _, _ => s

/-- What a gather reads: its offset tensor, its positions, and the slices that miss the coalescer (R218, R219). -/
def gatherSpans (x : Ctx) (s : State) : List Span :=
  s.offsetSpans x x.r.param2 ++
  match x.rd x.r.desc0, x.wr x.r.desc2 with
  | some (_, src), some (_, out) =>
    match s.gatherReads x src out with
    | none => []
    | some reads =>
      let wlen := max 1 (x.r.param0.toNat / 65536 % 256)
      let missed := (gatherMissed src reads).1
      x.indexSpans (reads.length / wlen) ++ interleave [x.rowsAt x.r.desc0 missed, x.rowsAt x.r.desc5 missed]
  | _, _ => []

/-- The reads of a gather. -/
def gatherRecReads : Reads :=
  ⟨fun r => ([r.desc0, r.desc4, r.desc5].filterMap id) ++
    (paramDesc r.param2).toList, gatherSpans⟩

/-- `GATHER` (R216). -/
def execGather (c : Core) (r : Nat) (s : State) : Result :=
  s.runRecord c r (wantSparse 0x10) gatherRecReads gatherEffect

/-! ### Scatter-add (R220, R221) -/

/-- The integer class of accumulated contributions: the plain integer formats and `INT32S`. -/
def Fmt.accInt (f : Fmt) : Bool := f.isIntClass || f = .int32s

/-- The rows of a reduce-write by their outer indices, in ascending element offset, each cut where the next begins: every
destination element is written once, however the rows alias (R119, R127). Answers outer index and length. -/
def destRows (out : Desc) (dests : List (List Nat)) : List (List Nat × Nat) :=
  let off (o : List Nat) : Int := out.offset (0 :: o)
  let l := sortBy (fun a b => decide (off a < off b)) dests
  (l.zipIdx).filterMap (fun (d, i) =>
    let n := match l[i + 1]? with
      | some e => min (out.size 0) (off e - off d).toNat
      | none => out.size 0
    if n = 0 then none else some (d, n))

/-- The contributions to a destination element: placed positions, with their source index, whose element lies at the same
offset, in ascending linear source index (R127). Answers source element and source index. -/
def contributions (out : Desc) (placed : List (Nat × Nat)) (d e : Nat) : List (Nat × Nat) :=
  placed.filterMap (fun (p, i) =>
    let k := out.offset [e, d] - out.offset [0, p]
    if 0 ≤ k && k < out.size 0 then some (k.toNat, i) else none)

/-- The placed positions of a scatter-add with their source index, and what happened to each position (R130, R220). -/
def State.scatterPlaces (s : State) (x : Ctx) (out : Desc) (lim : Nat) : List (Nat × Nat) × List PosKind :=
  let kinds := (List.range lim).map (fun i => boundPos out.drop 0 ((out.size 1 : Int) - 1) (s.posOf x i))
  ((kinds.zipIdx).filterMap (fun (k, i) => match k with
    | .inRange p | .clamped p => some (p, i)
    | .dropped => none), kinds)

/-- The destination positions that receive a contribution. -/
def destsOf (out : Desc) (placed : List (Nat × Nat)) : List (List Nat) :=
  ((List.range (out.size 1)).filter (fun d => placed.any (fun p => p.1 = d))).map (fun d => [d])

/-- What a scatter-add does. -/
def scatterEffect (x : Ctx) (_ : QRec) (s : State) : State :=
  match x.rd x.r.desc0, x.wr x.r.desc2 with
  | some (ns, src), some (no, out) =>
    match s.recOffsets x x.r.param2 (src.size 1) with
    | none => s.badOffsets x
    | some offs =>
      let lim := limitOf (src.size 1) offs
      let (placed, kinds) := s.scatterPlaces x out lim
      let sb := (x.rd x.r.desc5).map Prod.snd
      let sbo := (x.wr x.r.desc1).map Prod.snd
      let int := src.fmt.accInt
      let accum := x.r.flag 0
      let rows := (destRows out (destsOf out placed)).map (fun (o, n) =>
        (o, (List.range n).map (fun e =>
          let terms := ((contributions out placed (o.headD 0) e).zipIdx).map (fun (c, j) => (j, s.val src sb [c.1, c.2]))
          let a := OutElem.ofAcc (orZero (reduceTerms int false x.r.segbase terms))
          if accum then { a with v := fuseStage int 1 a.v (some (s.val out sbo (e :: o))) } else a)))
      let s := s.charge x ns { mismatch := s.mismatches src sb ((List.range lim).map (fun i => [i])) }
      let s := s.charge x no { mismatch := if accum then s.mismatches out sbo (rows.map Prod.fst) else 0 }
      let s := s.chargeIndex x no (countClamped kinds) (countDropped kinds)
      let s := s.writeFinal x no out sbo rows
      s.stampPlane x no
  | _, _ => s

/-- What a scatter-add reads: offsets, positions, contributions, and with `ACCUM` its destinations (R220, R221). -/
def scatterSpans (x : Ctx) (s : State) : List Span :=
  s.offsetSpans x x.r.param2 ++
  match x.rd x.r.desc0, x.wr x.r.desc2 with
  | some (_, src), some (no, out) =>
    match s.recOffsets x x.r.param2 (src.size 1) with
    | none => []
    | some offs =>
      let lim := limitOf (src.size 1) offs
      let from_ := List.range lim
      x.indexSpans lim ++ interleave [x.rowsAt x.r.desc0 from_, x.rowsAt x.r.desc5 from_] ++
        (if x.r.flag 0 then
          (destsOf out (s.scatterPlaces x out lim).1).flatMap (fun o => out.span no (0 :: o) (out.size 0) ::
            (match x.wr x.r.desc1 with
              | some (m, b) => [b.span m (0 :: o) (out.size 0 / 32)]
              | none => []))
        else [])
  | _, _ => []

/-- The reads of a scatter-add. -/
def scatterReads : Reads :=
  ⟨fun r => ([r.desc0, r.desc4, r.desc5].filterMap id) ++
    (paramDesc r.param2).toList, scatterSpans⟩

/-- `SCATTER_ADD` (R222). -/
def execScatterAdd (c : Core) (r : Nat) (s : State) : Result :=
  s.runRecord c r (wantSparse 0x11) scatterReads scatterEffect

/-! ### Expert dispatch and combine (R223 to R226) -/

/-- `TOPK` of `PARAM0` (R215). -/
def Rec.topk (r : Rec) : Nat := r.param0.toNat % 16
/-- `RLEN` of `PARAM0` (R215). -/
def Rec.rlen (r : Rec) : Nat := r.param0.toNat / 16 % 16
/-- `CAP` of `PARAM1` (R215). -/
def Rec.cap (r : Rec) : Nat := r.param1.toNat % 65536
/-- `NEXP` of `PARAM1` (R215). -/
def Rec.nexp (r : Rec) : Nat := r.param1.toNat / 65536

/-- The candidate list of a token (R223): `none` for an entry that is no candidate. -/
def State.candidates (s : State) (r : Rec) (cand : Desc) (t : Nat) : List (Option Nat) :=
  if r.flag 8 then
    let counts := (List.range r.nexp).map (fun e => (s.int cand [e, t], e))
    let order := sortBy (fun a b => decide (a.1 < b.1)) counts
    (order.take r.rlen).map (fun p => some p.2)
  else
    (List.range r.rlen).map (fun q =>
      let e := s.int cand [q, t]
      if 0 ≤ e && e < r.nexp then some e.toNat else none)

/-- The placements of a dispatch: token, assignment, expert, slot, list position; and counts. -/
structure Placing where
  places : List (Nat × Nat × Nat × Nat × Nat)
  moved : Nat
  residual : Nat
  deriving DecidableEq, Repr

/-- Tokens an expert holds so far. -/
def Placing.fill (p : Placing) (e : Nat) : Nat := (p.places.filter (fun a => a.2.2.1 = e)).length

/-- An expert can take an assignment of a token (R224). -/
def Placing.free (p : Placing) (cap t : Nat) (e : Option Nat) : Option Nat :=
  match e with
  | none => none
  | some e =>
    if p.places.any (fun a => a.1 = t && a.2.2.1 = e) || cap ≤ p.fill e then none else some e

/-- Places an assignment (R224). -/
def Placing.place (p : Placing) (t j e q : Nat) : Placing :=
  { p with places := p.places ++ [(t, j, e, p.fill e, q)] }

/-- Phase A of a round, over tokens in ascending order: the placing and the overflow (R224). -/
def phaseA (cap j : Nat) (cands : List (Nat × List (Option Nat))) (p : Placing) :
    Placing × List (Nat × List (Option Nat)) :=
  cands.foldl (fun (acc : Placing × List (Nat × List (Option Nat))) tc =>
    match acc.1.free cap tc.1 ((tc.2[j]?).join) with
    | some e => (acc.1.place tc.1 j e j, acc.2)
    | none => (acc.1, acc.2 ++ [tc])) (p, [])

/-- Phase B of a round over the overflow (R224). -/
def phaseB (cap j rlen : Nat) (rest : List (Nat × List (Option Nat))) (p : Placing) : Placing :=
  rest.foldl (fun p tc =>
    let later := (List.range rlen).filter (fun q => decide (j < q))
    match later.findSome? (fun q => (p.free cap tc.1 ((tc.2[q]?).join)).map (fun e => (e, q))) with
    | some (e, q) => { p.place tc.1 j e q with moved := p.moved + 1 }
    | none => { p with residual := p.residual + 1 }) p

/-- All rounds of a dispatch (R224). -/
def dispatchPlacing (r : Rec) (cands : List (Nat × List (Option Nat))) : Placing :=
  (List.range r.topk).foldl (fun p j =>
    let (p, rest) := phaseA r.cap j cands p
    phaseB r.cap j r.rlen rest p) ⟨[], 0, 0⟩

/-- The 16 map elements of a token (R224, R225). -/
def mapRow (r : Rec) (p : Placing) (t : Nat) : List Val :=
  (List.range 16).map (fun i =>
    let j := i % 8
    match p.places.find? (fun a => a.1 = t && a.2.1 = j) with
    | some (_, _, e, sl, q) =>
      if i < 8 then Val.ofInt ((e * r.cap + sl : Nat) : Int) else Val.ofInt ((q : Nat) : Int)
    | none => Val.ofInt (-1))

/-- Charges routing counts to the map tensor (R227). -/
def State.chargeRoute (s : State) (x : Ctx) (n moved residual invalid : Nat) : State :=
  let m := s.obj 0x2301 0
  let s := s.count x 0x3020 n 0 moved m 0x4403 (toLe 4 n)
  let s := s.count x 0x3020 n 1 residual m 0x4404 (toLe 4 n)
  s.count x 0x3020 n 2 invalid m 0x4405 (toLe 4 n)

/-- What an expert dispatch does. -/
def dispatchEffect (x : Ctx) (_ : QRec) (s : State) : State :=
  match x.rd x.r.desc0, x.rd x.r.desc1, x.wr x.r.desc2, x.wr x.r.desc4 with
  | some (_, src), some (_, cand), some (no, buf), some (nm, map) =>
    let t := src.size 1
    match s.recOffsets x x.r.param2 t with
    | none => s.badOffsets x
    | some offs =>
      let lim := limitOf t offs
      let cands := (List.range lim).map (fun i => (i, s.candidates x.r cand i))
      let invalid := cands.foldl (fun a c => a + (c.2.filter Option.isNone).length) 0
      let p := dispatchPlacing x.r cands
      let slots := (List.range x.r.nexp).flatMap (fun e => (List.range x.r.cap).map (fun k => (e, k)))
      let rows := slots.map (fun (e, k) =>
        ([k, e], plainElems (match p.places.find? (fun a => a.2.2.1 = e && a.2.2.2.1 = k) with
          | some a => s.row src none [a.1]
          | none => List.replicate (buf.size 0) Val.zero)))
      let maps := (List.range t).map (fun i => ([i], plainElems (mapRow x.r p i)))
      let s := s.chargeRoute x nm p.moved p.residual invalid
      let s := (s.writeFinal x no buf none rows).stampPlane x no
      (s.writeFinal x nm map none maps).stampPlane x nm
  | _, _, _, _ => s

/-- What an expert dispatch reads: offsets, candidate lists, then the slices it places (R223, R224). -/
def dispatchSpans (x : Ctx) (s : State) : List Span :=
  s.offsetSpans x x.r.param2 ++
  match x.rd x.r.desc0, x.rd x.r.desc1 with
  | some (_, src), some (_, cand) =>
    match s.recOffsets x x.r.param2 (src.size 1) with
    | none => []
    | some offs =>
      let ts := List.range (limitOf (src.size 1) offs)
      let p := dispatchPlacing x.r (ts.map (fun i => (i, s.candidates x.r cand i)))
      x.rowsAt x.r.desc1 ts ++ x.rowsAt x.r.desc0 (p.places.map Prod.fst)
  | _, _ => []

/-- The reads of an expert dispatch. -/
def dispatchReads : Reads :=
  ⟨fun r => ([r.desc0, r.desc1].filterMap id) ++
    (paramDesc r.param2).toList, dispatchSpans⟩

/-- `EXPERT_DISPATCH` (R224). -/
def execExpertDispatch (c : Core) (r : Nat) (s : State) : Result :=
  s.runRecord c r (wantSparse 0x20) dispatchReads dispatchEffect

/-- The placed assignments of a token as combine reads them: `none` inside for -1, or the slot index
of a malformed entry (R226). -/
def State.combineMap (s : State) (r : Rec) (map : Desc) (t : Nat) :
    Except Int (List (Nat × Nat × Nat)) :=
  (List.range r.topk).foldlM (fun acc j =>
    let slot := s.int map [j, t]
    let q := s.int map [8 + j, t]
    if slot = -1 && q = -1 then .ok acc
    else if 0 ≤ slot && slot < (r.nexp * r.cap : Nat) && 0 ≤ q && q < (r.rlen : Nat) then
      .ok (acc ++ [(j, slot.toNat, q.toNat)])
    else .error slot) []

/-- The map entries of every token a combine takes, or the slot index of the first malformed one, by token, then by
choice (R226; DESIGN CHOICE, log entry 187). -/
def State.combineMaps (s : State) (r : Rec) (map : Desc) (lim : Nat) : Except Int (List (Nat × List (Nat × Nat × Nat))) :=
  (List.range lim).foldlM (fun (acc : List (Nat × List (Nat × Nat × Nat))) i =>
    (s.combineMap r map i).map (fun l => acc ++ [(i, l)])) []

/-- Tokens that reduce-write one destination, merged in canonical order: their results, each in `FP32`, form one
reduction that is added to what the destination holds (R127, R221, R226; DESIGN CHOICE, log entry 150). -/
def State.mergeTokens (s : State) (out : Desc) (rows : List (List Nat × List OutElem)) : List (List Nat × List OutElem) :=
  let placed := rows.map (fun r => (r.1.headD 0, r.1.headD 0))
  let elem (c : Nat × Nat) : OutElem :=
    (((rows.find? (fun r => r.1 = [c.2])).map (fun r => r.2.getD c.1 ⟨Val.zero, false, false, false⟩))).getD
      ⟨Val.zero, false, false, false⟩
  (destRows out (destsOf out placed)).map (fun (o, n) =>
    (o, (List.range n).map (fun e =>
      let cs := (contributions out placed (o.headD 0) e).map elem
      let a := orZero (reduceTerms false false 0 ((cs.zipIdx).map (fun c => (c.2, c.1.v))))
      ⟨addF32 a.v (toF32 (s.val out none (e :: o))), cs.any OutElem.sat, a.ovf || cs.any OutElem.ovf,
        cs.any OutElem.long⟩)))

/-- What an expert combine does. A malformed map entry ends it before any token is written (R226; DESIGN CHOICE, log entry
108). -/
def combineEffect (x : Ctx) (_ : QRec) (s : State) : State :=
  match x.rd x.r.desc0, x.rd x.r.desc1, x.wr x.r.desc2, x.rd x.r.desc4 with
  | some (_, y), some (_, gate), some (no, out), some (_, map) =>
    match s.recOffsets x x.r.param2 (out.size 1) with
    | none => s.badOffsets x
    | some offs =>
      match s.combineMaps x.r map (limitOf (out.size 1) offs) with
      | .error slot =>
        s.abortWith 0x4406 x.island (toLe 4 x.r.recno ++ toLe 4 (bitsOfInt 32 slot))
      | .ok maps =>
        let rows := maps.map (fun (i, l) =>
          ([i], (List.range (out.size 0)).map (fun d =>
            let terms := l.map (fun (j, slot, q) =>
              (j, (s.val gate none [q, i]).mul
                (s.val y none [d, slot % (max 1 x.r.cap), slot / (max 1 x.r.cap)])))
            OutElem.ofAcc (orZero (reduceTerms false false x.r.segbase terms)))))
        let rows := s.fuseFirst x false (out.size 0) rows
        let rows := if out.acc = 2 then s.mergeTokens out rows else rows
        let s := s.writeFinal x no out none rows
        s.stampPlane x no
  | _, _, _, _ => s

/-- What an expert combine reads: offsets, and token by token its map, gates, slots and fused operand, and the destination
it reduce-writes (R226). -/
def combineSpans (x : Ctx) (s : State) : List Span :=
  s.offsetSpans x x.r.param2 ++
  match x.rd x.r.desc0, x.wr x.r.desc2, x.rd x.r.desc4 with
  | some (ny, y), some (no, out), some (_, map) =>
    match s.recOffsets x x.r.param2 (out.size 1) with
    | none => []
    | some offs =>
      (List.range (limitOf (out.size 1) offs)).flatMap (fun i =>
        let l := match s.combineMap x.r map i with
          | .ok l => l
          | .error _ => []
        x.rowsAt x.r.desc4 [i] ++ x.rowsAt x.r.desc1 [i] ++
          l.map (fun (_, slot, _) =>
            y.span ny [0, slot % (max 1 x.r.cap), slot / (max 1 x.r.cap)] (y.size 0)) ++
          x.rowsAt x.r.desc3 [i] ++ (if out.acc = 2 then [out.span no [0, i] (out.size 0)] else []))
  | _, _, _ => []

/-- The reads of an expert combine. -/
def combineReads : Reads :=
  ⟨fun r => ([r.desc0, r.desc1, r.desc3, r.desc4].filterMap id) ++
    (paramDesc r.param2).toList, combineSpans⟩

/-- `EXPERT_COMBINE` (R226). -/
def execExpertCombine (c : Core) (r : Nat) (s : State) : Result :=
  s.runRecord c r (wantSparse 0x21) combineReads combineEffect

end Sys2Proof.Machine
end

