-- ==== Sys2Proof/Machine/Weights.lean ====
section
/-! DEFINITION. Split master weights: compose and split (R294 to R296). -/

namespace Sys2Proof.Machine

/-- Significand width and smallest normal exponent of a value format (R294). -/
def Fmt.splitSpec : Fmt → Nat × Int
  | .bf16 => (8, -126)
  | .fp16 => (11, -14)
  | .e4m3 => (4, -6)
  | _ => (3, -14)

/-- The exponent of the unit of a low half beside the value `hi` (R294). -/
def Fmt.unitExp (f : Fmt) (hi : Val) : Int :=
  let (p, emin) := f.splitSpec
  let q := min 16 (24 - p)
  let e := match hi with
    | .fin _ m x => if m = 0 then emin else max (floorLog2 m 1 x) emin
    | _ => emin
  e - p + 1 - q

/-- The master weight of two halves (R294). -/
def compose (f : Fmt) (hi : Val) (lo : Int) : Val :=
  match hi with
  | .fin _ _ _ => if lo = 0 then hi else hi.add ((Val.ofInt lo).scale (f.unitExp hi))
  | _ => hi

/-- The halves of a weight: encoding and counts of the high half, low half, and whether the split
was inexact (R295). -/
structure Split where
  hi : Enc
  lo : Int
  inexact : Bool

/-- Splits an `FP32` weight (R295). -/
def splitWeight (f : Fmt) (sat : Bool) (w : Val) : Split :=
  let hi := f.convert sat w
  let hv := f.decode hi.code
  match hv with
  | .fin _ _ _ =>
    let u := f.unitExp hv
    let d := w.sub hv
    let r := match d with
      | .fin s m e => roundInt s m (e - u)
      | _ => if d.sign then -32768 else 32767
    let lo := min (max r (-32768)) 32767
    ⟨hi, lo, !(((Val.ofInt lo).scale u).eqv d)⟩
  | _ => ⟨hi, 0, false⟩

/-- A low half from its 16-bit encoding, and back (R294). -/
def lowOf (code : Nat) : Int := signedOf 16 code

end Sys2Proof.Machine
end

