-- ==== Sys2Proof/Machine/Mask.lean ====
section
/-! DEFINITION. The mask engines: score, select, rebuild, sync and commit (R232 to R255). -/

namespace Sys2Proof.Machine

/-- `TFIRST` (R237). -/
def Rec.tfirst (r : Rec) : Nat := r.param0.toNat
/-- `TCOUNT` (R237). -/
def Rec.tcount (r : Rec) : Nat := r.param1.toNat / 65536
/-- `CANDS` (R237). -/
def Rec.cands (r : Rec) : Nat := r.param2.toNat % 64

/-- The detail of the events of R258. -/
def maskDetail (x : Ctx) : Bytes := toLe 1 x.r.matrix ++ toLe 4 x.r.recno

/-- K / 128 of a stream from the header of its last slot, which must agree with the tile count
(R239). -/
def State.streamKt (s : State) (d : Desc) : Option Nat :=
  let h := TileHdr.parse (s.slot d (d.size 1 - 1))
  if (h.trow + 1) * (h.tcol + 1) = d.size 1 then some (h.tcol + 1) else none

/-- Reads the record's tiles of a stream whole, in its row form, after its last slot (R237, R239). -/
def State.recTiles (s : State) (x : Ctx) (d : Desc) (accept : List TFmt) : Nat × TilesRead :=
  match s.streamKt d with
  | none => (0, ⟨[], some (.hdr, d.size 1 - 1)⟩)
  | some kt =>
    (kt, s.readTiles d accept kt false none
      ((List.range x.r.tcount).map (fun i => (x.r.tfirst + i, List.range 128))))

/-- What a mask record reads of a stream: the header of its last slot, then for each of its tiles the header and the row
form (R239), with what `rest` adds for the tile. -/
def State.recTileSpans (s : State) (x : Ctx) (n : Nat) (d : Desc) (accept : List TFmt) (rest : Nat → Nat → List Span) :
    List Span :=
  let kt := (s.streamKt d).getD 0
  ⟨n, d.slotAddr (d.size 1 - 1), 64, none⟩ :: (List.range x.r.tcount).flatMap (fun i =>
    s.tileSpans n d accept kt (fun h b => h.takes d.fmt.bits b false (List.range 128)) (x.r.tfirst + i) ++
      rest i (x.r.tfirst + i))

/-- The rows of a stream's tensor that some slots are. -/
def slotRows (slots : List Nat) : List (List Nat) := slots.map (fun i => [i])

/-- A malformed schedule or change list aborts the step (R237, R241, R243, R244). -/
def State.badChange (s : State) (x : Ctx) : State := s.abortWith 0x4501 x.island (maskDetail x)

/-- A mask-engine record of a function. -/
def wantMask (f : BitVec 12) (r : Rec) : Bool := r.engine = 6 && r.func = f

/-- The rows of a tile read whole. -/
def TileData.rows (t : TileData) : List (List (Nat × Nat)) :=
  (List.range 128).map (fun r => (lookupKey r t.lines).getD [])

/-! ### Score (R239, R240) -/

/-- The order of candidates: larger key first, then the lower position. -/
def keyAbove (a b : Nat × Nat) : Bool := decide (b.1 < a.1) || (a.1 = b.1 && decide (a.2 < b.2))

/-- The grow key of a position, `none` for a NaN gradient (R239). -/
def State.growKey (s : State) (x : Ctx) (grad : Option Desc) (tid : Word) (kt slot i r c : Nat) :
    Option Nat :=
  match grad with
  | some g =>
    let v := s.val g none [c, r, i]
    if v.isNan then none else some (encodeF32 v.abs).toNat
  | none =>
    let n := 128 * (slot / (max 1 kt)) + r
    let k := 128 * (slot % (max 1 kt)) + c
    some (s.draw x.step tid (n * (128 * kt) + k))

/-- The candidate list of one row as elements, and its NaN count (R239, R240). -/
def State.scoreRow (s : State) (x : Ctx) (grad : Option Desc) (tid : Word) (kt slot i r : Nat)
    (row : List (Nat × Nat)) : List Int × Nat :=
  let free := (List.range 128).filter (fun c => (lookupKey c row).isNone)
  let keys := free.map (fun c => (s.growKey x grad tid kt slot i r c, c))
  let ok := keys.filterMap (fun p => p.1.map (fun k => (k, p.2)))
  let best := (sortBy keyAbove ok).take x.r.cands
  (best.flatMap (fun p => [(p.1 : Int), (p.2 : Int)]) ++
    (List.replicate (x.r.cands - best.length) [0, -1]).flatten, keys.length - ok.length)

/-- What a score record does. -/
def scoreEffect (x : Ctx) (_ : QRec) (s : State) : State :=
  match x.rd x.r.desc1, x.wr x.r.desc2 with
  | some (ns, st), some (no, out) =>
    match s.recTiles x st [.brt] with
    | (_, ⟨_, some (e, i)⟩) => s.tileFault x ns i e
    | (kt, ⟨ts, none⟩) =>
      let grad := if x.r.param2.toNat.testBit 8 then none else (x.rd x.r.desc0).map Prod.snd
      let lists := (ts.zipIdx).map (fun (t, i) =>
        (t.2.rows.zipIdx).map (fun (row, r) => s.scoreRow x grad (st.tid 2) kt t.1 i r row))
      let nans := lists.foldl (fun a l => l.foldl (fun a p => a + p.2) a) 0
      let s := s.writeRaw x no out ((lists.zipIdx).map (fun (l, i) =>
        ([i], (l.flatMap Prod.fst).map (bitsOfInt 32))))
      s.count x 0x3027 x.r.matrix 3 nans (s.obj 0x2400 1) 0x3110 (maskDetail x)
  | _, _ => s

/-- What a score record reads: tile by tile the stored positions and the gradient of the tile (R239). -/
def scoreSpans (x : Ctx) (s : State) : List Span :=
  match x.rd x.r.desc1 with
  | some (n, st) => s.recTileSpans x n st [.brt] (fun i _ =>
      match x.rd x.r.desc0 with
      | some (m, g) =>
        if x.r.param2.toNat.testBit 8 then [] else (List.range 128).map (fun r => g.span m [0, r, i] 128)
      | none => [])
  | none => []

/-- The descriptors a score record reads. -/
def scoreReads : Reads := ⟨fun r => [r.desc0, r.desc1].filterMap id, scoreSpans⟩

/-- `SCORE_GRADIENT` (R239). -/
def execScoreGradient (c : Core) (r : Nat) (s : State) : Result :=
  s.runRecord c r (fun q => wantMask 1 q && !q.param2.toNat.testBit 8) scoreReads scoreEffect

/-- `SCORE_RANDOM` (R239). -/
def execScoreRandom (c : Core) (r : Nat) (s : State) : Result :=
  s.runRecord c r (fun q => wantMask 1 q && q.param2.toNat.testBit 8) scoreReads scoreEffect

/-! ### Select (R241 to R243) -/

/-- The prune key of a stored entry (R242). -/
def pruneKey (f : Fmt) (code : Nat) (lo : Option Nat) : Nat :=
  let hi := f.decode code
  let w := match lo with
    | some l => compose f hi (lowOf l)
    | none => hi
  if w.isNan then 0 else 1 + (encodeF32 w.abs).toNat

/-- Adds one to an entry of a table of counts. -/
def bump (l : List Nat) (i : Nat) : List Nat := l.set i (l.getD i 0 + 1)

/-- Entries of each row, or column, among positions. -/
def tally128 (ps : List Nat) : List Nat := ps.foldl bump (List.replicate 128 0)

/-- Accepts candidates in order while room is left in their row and column (R243). -/
def growLoop (lim d : Nat) : List Nat → List Nat → List Nat → List Nat → List Nat
  | [], _, _, grown => grown
  | p :: ps, rows, cols, grown =>
    if grown.length = d then grown
    else if rows.getD (p / 128) 0 < lim && cols.getD (p % 128) 0 < lim then
      growLoop lim d ps (bump rows (p / 128)) (bump cols (p % 128)) (grown ++ [p])
    else growLoop lim d ps rows cols grown

/-- The choice of one tile: pruned and grown positions (R243). `stored` holds prune keys and
positions, `cand` grow keys and positions. -/
def selectTile (lim f : Nat) (stored cand : List (Nat × Nat)) : List Nat × List Nat :=
  let d := stored.length * f / 65536
  let order := sortBy (fun a b => decide (a.1 < b.1) || (a.1 = b.1 && decide (a.2 < b.2))) stored
  let pruned := (order.take d).map Prod.snd
  let left := (order.drop d).map Prod.snd
  (pruned, growLoop lim d ((sortBy keyAbove cand).map Prod.snd)
    (tally128 (left.map (· / 128))) (tally128 (left.map (· % 128))) [])

/-- The candidates of a tile, or `none` for a column that names no position (R243). -/
def State.tileCands (s : State) (x : Ctx) (cd : Desc) (i : Nat) : Option (List (Nat × Nat)) :=
  let es := (List.range (128 * x.r.cands)).map (fun e =>
    (s.code cd [2 * e, i], s.int cd [2 * e + 1, i], e / x.r.cands))
  if es.any (fun e => decide (e.2.1 < -1) || decide (127 < e.2.1)) then none
  else some (es.filterMap (fun e => if e.2.1 < 0 then none else some (e.1, 128 * e.2.2 + e.2.1.toNat)))

/-- The choices of the tiles in turn, or `none` when a candidate list is malformed. -/
def State.selectTiles (s : State) (x : Ctx) (st : Desc) (low : Option Desc) (cd : Desc) (f : Nat) :
    List ((Nat × TileData) × Nat) → Option (List (List Nat × List Nat))
  | [] => some []
  | ((slot, t), i) :: rest =>
    match s.tileCands x cd i with
    | none => none
    | some cand =>
      let stored := (t.rows.zipIdx).flatMap (fun (row, r) => (row.zipIdx).map (fun (e, j) =>
        (pruneKey st.fmt e.2 (low.map (fun d => s.code d [r * t.hdr.tk + j, slot])),
          128 * r + e.1)))
      (s.selectTiles x st low cd f rest).map (selectTile t.hdr.tlim f stored cand :: ·)

/-- The fraction of this mask update, or `none` outside its range (R241). -/
def State.pruneFraction (s : State) (x : Ctx) (d : Desc) : Option Nat :=
  let f := s.int d [min (x.step / (max 1 x.plan.maskPeriod)) (d.size 0 - 1)]
  if 0 ≤ f && f ≤ 65536 then some f.toNat else none

/-- A change list is long enough for L of the first tile (R237). -/
def changeFits (ch : Desc) (ts : List (Nat × TileData)) : Bool :=
  match ts with
  | [] => true
  | t :: _ => decide (256 * t.2.hdr.tlim + 16 ≤ ch.size 0)

/-- What a select record does. -/
def selectEffect (x : Ctx) (_ : QRec) (s : State) : State :=
  match x.rd x.r.desc0, x.wr x.r.desc2, x.rd x.r.desc4, x.rd x.r.desc5 with
  | some (ns, st), some (no, out), some (_, cd), some (_, sched) =>
    match s.pruneFraction x sched with
    | none => s.badChange x
    | some f =>
      match s.recTiles x st [.brt] with
      | (_, ⟨_, some (e, i)⟩) => s.tileFault x ns i e
      | (_, ⟨ts, none⟩) =>
        if !changeFits out ts then s.badChange x
        else
          match s.selectTiles x st ((x.rd x.r.desc1).map Prod.snd) cd f ts.zipIdx with
          | none => s.badChange x
          | some sel =>
            let s := s.writeRaw x no out ((sel.zipIdx).map (fun (c, i) =>
              let l := c.1.length :: c.2.length :: (c.1 ++ c.2)
              ([i], l ++ List.replicate (out.size 0 - l.length) 0)))
            let pruned := sel.foldl (fun a c => a + c.1.length) 0
            let grown := sel.foldl (fun a c => a + c.2.length) 0
            let m := s.obj 0x2400 1
            let s := s.count x 0x3027 x.r.matrix 0 pruned m 0x4506 (maskDetail x)
            let s := s.count x 0x3027 x.r.matrix 1 grown m 0x4507 (maskDetail x)
            s.count x 0x3027 x.r.matrix 2 (pruned - grown) m 0x4505 (maskDetail x)
  | _, _, _, _ => s

/-- What a select record reads: the schedule's element, then tile by tile the entries, their low halves and the
candidates (R241 to R243). -/
def selectSpans (x : Ctx) (s : State) : List Span :=
  (match x.rd x.r.desc5 with
    | some (m, d) => [d.span m [min (x.step / (max 1 x.plan.maskPeriod)) (d.size 0 - 1)] 1]
    | none => []) ++
  match x.rd x.r.desc0 with
  | some (n, st) => s.recTileSpans x n st [.brt] (fun i slot =>
      x.rowsAt x.r.desc1 [slot] ++ x.rowsAt x.r.desc4 [i])
  | none => []

/-- The reads of a select record. -/
def selectReads : Reads :=
  ⟨fun r => [r.desc0, r.desc1, r.desc4, r.desc5].filterMap id, selectSpans⟩

/-- `SELECT` (R243). -/
def execSelect (c : Core) (r : Nat) (s : State) : Result :=
  s.runRecord c r (wantMask 2) selectReads selectEffect

/-! ### Rebuild (R244 to R248) -/

/-- An entry of a rebuilt tile: column, value code and companion codes. -/
abbrev MaskEntry := Nat × Nat × List Nat

/-- The value of a grown entry (R245). -/
def State.grownValue (s : State) (x : Ctx) (tid : Word) (e : Nat) : Val :=
  if x.r.param2.toNat / 16 % 4 = 1 then
    let r : Nat := s.draw x.step tid e % 2 ^ 24
    let ishift := x.r.param2.toNat / 256 % 128
    (Val.ofInt (2 * (r : Int) + 1 - 2 ^ 24)).scale (-24 - (ishift : Int))
  else Val.zero

/-- A tile as rows of entries with their companions (R233). -/
def State.maskRows (s : State) (planes : List Desc) (slot : Nat) (t : TileData) : List (List MaskEntry) :=
  (t.rows.zipIdx).map (fun (row, r) => (row.zipIdx).map (fun (e, j) =>
    (e.1, e.2, planes.map (fun d => s.code d [r * t.hdr.tk + j, slot]))))

/-- Removes pruned positions; `none` when one is not stored (R244). -/
def pruneAll : List Int → List (List MaskEntry) → Option (List (List MaskEntry))
  | [], rows => some rows
  | p :: ps, rows =>
    if p < 0 || 16384 ≤ p then none
    else
      let r := p.toNat / 128
      let c := p.toNat % 128
      let row := rows.getD r []
      if row.any (fun e => e.1 = c) then pruneAll ps (rows.set r (row.filter (fun e => e.1 ≠ c)))
      else none

/-- Inserts grown positions with their splits; `none` when one is stored (R244). -/
def growAll (mk : Nat → MaskEntry) : List Int → List (List MaskEntry) → Option (List (List MaskEntry))
  | [], rows => some rows
  | p :: ps, rows =>
    if p < 0 || 16384 ≤ p then none
    else
      let r := p.toNat / 128
      let c := p.toNat % 128
      let row := rows.getD r []
      if row.any (fun e => e.1 = c) then none
      else growAll mk ps (rows.set r (insertBy (fun a b => decide (a.1 < b.1)) (mk p.toNat) row))

/-- A tile's change list: pruned and grown positions, or `none` for a count beyond the tile. -/
def State.changeOf (s : State) (ch : Desc) (i : Nat) : Option (List Int × List Int) :=
  let d := s.int ch [0, i]
  let g := s.int ch [1, i]
  if d < 0 || g < 0 || 2 + d + g > (ch.size 0 : Int) then none
  else
    let at' (k : Nat) : Int := s.int ch [k, i]
    some ((List.range d.toNat).map (fun k => at' (2 + k)),
      (List.range g.toNat).map (fun k => at' (2 + d.toNat + k)))

/-- A rebuilt tile: its slot, the slot's bytes and the rows of its companion planes; with what the
splits of grown entries count. -/
structure Rebuilt where
  slot : Nat
  bytes : Bytes
  comps : List (List Nat)
  cnt : Counts
  inexact : Nat

/-- The rebuilt tile of one slot, or `none` for a change list that is refused (R244, R245). -/
def State.rebuildTile (s : State) (x : Ctx) (st ch : Desc) (planes : List Desc) (kt i : Nat)
    (slot : Nat) (t : TileData) : Option Rebuilt :=
  match s.changeOf ch i with
  | none => none
  | some (ps, gs) =>
    let place (p : Nat) : Nat :=
      (128 * (slot / (max 1 kt)) + p / 128) * (128 * kt) + 128 * (slot % (max 1 kt)) + p % 128
    let sp (p : Nat) : Split := splitWeight st.fmt st.sat (s.grownValue x (st.tid 1) (place p))
    let mk (p : Nat) : MaskEntry :=
      let v := sp p
      (p % 128, v.hi.code, (planes.zipIdx).map (fun (_, k) => if k = 0 then bitsOfInt 16 v.lo else 0))
    match (pruneAll ps (s.maskRows planes slot t)).bind (growAll mk gs) with
    | none => none
    | some rows =>
      (buildBrt st.fmt.bits t.hdr.tk t.hdr.tlim t.hdr.trow t.hdr.tcol
          (rows.map (fun row => row.map (fun e => (e.1, e.2.1))))).map (fun b =>
        { slot := slot, bytes := padTo st.slotBytes b,
          comps := (planes.zipIdx).map (fun (_, k) => rows.flatMap (fun row =>
            row.map (fun e => e.2.2.getD k 0) ++ List.replicate (t.hdr.tk - row.length) 0)),
          cnt := gs.foldl (fun c p => c.add (sp p.toNat).hi.cnt) Counts.none,
          inexact := (gs.filter (fun p => (sp p.toNat).inexact)).length })

/-- The rebuilt tiles of a record up to the first whose change list is refused, and whether one was. -/
def State.rebuildTiles (s : State) (x : Ctx) (st ch : Desc) (planes : List Desc) (kt : Nat) :
    List ((Nat × TileData) × Nat) → List Rebuilt × Bool
  | [] => ([], false)
  | ((slot, t), i) :: rest =>
    match s.rebuildTile x st ch planes kt i slot t with
    | none => ([], true)
    | some b =>
      let m := s.rebuildTiles x st ch planes kt rest
      (b :: m.1, m.2)

/-- The form sum of one form of a tile read back (R246). -/
def formSum (col : Bool) (lines : List (Nat × List (Nat × Nat))) : Nat :=
  lines.foldl (fun a (l, es) => es.foldl (fun a e =>
    (a + (if col then 128 * e.1 + l else 128 * l + e.1) * 65536 + e.2) % 2 ^ 64) a) 0

/-- The forms of a slot, as they stand in memory, agree (R246). -/
def State.formsAgree (s : State) (st : Desc) (kt slot : Nat) : Bool :=
  let b := s.slot st slot
  match readTile st b [.brt] none kt slot false (List.range 128),
      readTile st b [.brt] none kt slot true (List.range 128) with
  | .ok r, .ok c => formSum false r.lines = formSum true c.lines
  | _, _ => false

/-- Writes a rebuilt tile and its companions (R244). -/
def State.putRebuilt (s : State) (st : Desc) (planes : List (Nat × Desc)) (b : Rebuilt) : State :=
  (planes.zip b.comps).foldl (fun s p => s.writeCodes p.1.2 [0, b.slot] p.2)
    (s.writeRun (st.slotAddr b.slot) b.bytes)

/-- Adds to `SPLIT_INEXACT` of the weight set a descriptor belongs to (R295, R324). -/
def State.countInexact (s : State) (x : Ctx) (n k : Nat) : State :=
  match x.plan.planeOf n with
  | none => s
  | some (w, _, _) =>
    s.count x 0x2602 w 1 k (s.obj 0x2600 3) 0x3130 (toLe 4 x.r.recno ++ toLe 1 w)

/-- What a rebuild that applies a change list does (R244 to R247). Tile by tile it reads, rebuilds and writes; the first
tile it refuses, or whose checks fail, ends it; the slices of what stands written are stamped then too (R291). -/
def applyEffect (x : Ctx) (_ : QRec) (s : State) : State :=
  match x.wr x.r.desc2, x.rd x.r.desc4, x.wr x.r.desc5 with
  | some (ns, st), some (_, ch), some (nd, digests) =>
    let (kt, m) := s.recTiles x st [.brt]
    let planes := [x.r.desc0, x.r.desc1, x.r.desc3].filterMap x.wr
    let s := s.setSync x.r.matrix true
    if !changeFits ch m.tiles then s.badChange x
    else
      let (bs, refused) := s.rebuildTiles x st ch (planes.map Prod.snd) kt m.tiles.zipIdx
      let s := bs.foldl (fun s b => s.putRebuilt st planes b) s
      let cut := if bs.isEmpty then s else ((ns, st) :: planes).foldl (fun s d => s.stampPlane x d.1) s
      if !bs.all (fun b => s.formsAgree st kt b.slot) then
        cut.abortWith 0x4504 x.island (maskDetail x)
      else if refused then cut.badChange x
      else
        match m.bad with
        | some (e, i) => cut.tileFault x ns i e
        | none =>
          let dig := sha3 (toLe 8 x.step ++ toLe 4 (st.tid 0).toNat ++
            bs.flatMap (fun b => s.slot st b.slot))
          let run := x.r.param2.toNat / 65536
          let s := (s.writeRun (digests.bitAddr [0, run] / 8) (dig ++ List.replicate 32 0)).clearStatus x nd digests (slotRows [run])
          let s := s.charge x ns (bs.foldl (fun c b => c.add b.cnt) Counts.none)
          let s := s.countInexact x ns (bs.foldl (fun a b => a + b.inexact) 0)
          ((ns, st) :: planes).foldl (fun s d =>
            (s.clearStatus x d.1 d.2 (slotRows (bs.map Rebuilt.slot))).stampPlane x d.1) s
  | _, _, _ => s

/-- What a rebuild that applies a change list reads: tile by tile the slot, its companions and its change list. -/
def applySpans (x : Ctx) (s : State) : List Span :=
  match x.wr x.r.desc2 with
  | some (n, st) => s.recTileSpans x n st [.brt] (fun i slot =>
      (([x.r.desc0, x.r.desc1, x.r.desc3].filterMap x.wr).map (fun d => d.2.span d.1 [0, slot] (d.2.size 0))) ++
        x.rowsAt x.r.desc4 [i])
  | none => []

/-- The reads of a rebuild that applies a change list. -/
def applyReads : Reads :=
  ⟨fun r => [r.desc0, r.desc1, r.desc2, r.desc3, r.desc4].filterMap id, applySpans⟩

/-- `REBUILD_APPLY` (R244). -/
def execRebuildApply (c : Core) (r : Nat) (s : State) : Result :=
  s.runRecord c r (fun q => wantMask 3 q && !q.rmode) applyReads applyEffect

/-- A tile converted into the format its target's header names (R190), or the event code of its
failure (R184). -/
def convertTile (st tgt : Desc) (h : TileHdr) (t : TileData) : Except (BitVec 16) Bytes :=
  let w := tgt.fmt.bits
  let rows := if t.hdr.tfmt = 3 && h.tfmt ≠ 3 then
      t.rows.map (fun l => l.filter (fun e => decide (e.2 % 2 ^ st.fmt.bits ≠ 0)))
    else t.rows
  let b := match TFmt.ofCode h.tfmt with
    | some .brt => buildBrt w h.tk h.tlim h.trow h.tcol rows
    | some .csr => some (buildCsr w h.trow h.tcol rows)
    | some .blk => some (buildBlk w h.trow h.tcol rows)
    | _ => some (buildBmp w h.trow h.tcol rows)
  match b with
  | none => .error 0x4303
  | some b => if b.length > tgt.slotBytes then .error 0x4303 else .ok (padTo tgt.slotBytes b)

/-- Converts tiles in turn: the slots built, and whether a target header failed or a tile did not
fit, with its slot (R184, R248). -/
def State.convertTiles (s : State) (st tgt : Desc) (kt : Nat) :
    Option TileFix → List (Nat × TileData) → List (Nat × Bytes) × Option (BitVec 16 × Nat)
  | _, [] => ([], none)
  | fix, (i, t) :: rest =>
    let h := TileHdr.parse (s.slot tgt i)
    if !h.ok tgt [.brt, .csr, .blk, .bmp] fix kt i then ([], some (0x4301, i))
    else
      match convertTile st tgt h t with
      | .error c => ([], some (c, i))
      | .ok b =>
        let (bs, e) := s.convertTiles st tgt kt (some (fix.getD ⟨h.tfmt, h.tk, h.tlim⟩)) rest
        ((i, b) :: bs, e)

/-- NaN values among the entries of some tiles. -/
def nanEntries (f : Fmt) (ts : List (Nat × TileData)) : Nat :=
  ts.foldl (fun a t => a + f.nanCodes (t.2.lines.flatMap (fun l => l.2.map Prod.snd))) 0

/-- What a rebuild that converts does (R248): the target's slots are checked against the target stream's own shape
(R188). A tile that does not fit its slot or its limit writes nothing for the record (R184, R190); what stands written
before a failed check stays, its slices stamped (R291). -/
def convertEffect (x : Ctx) (_ : QRec) (s : State) : State :=
  match x.rd x.r.desc0, x.wr x.r.desc2 with
  | some (ns, st), some (nt, tgt) =>
    let (_, m) := s.recTiles x st [.brt, .csr, .blk, .bmp]
    match s.streamKt tgt with
    | none => s.tileFault x nt (tgt.size 1 - 1) .hdr
    | some kt =>
      let (bs, bad) := s.convertTiles st tgt kt none m.tiles
      let t := bs.foldl (fun s b => s.writeRun (tgt.slotAddr b.1) b.2) s
      let cut := if bs.isEmpty then t else t.stampPlane x nt
      match bad, m.bad with
      | some (code, i), _ =>
        if code = 0x4301 then cut.tileFault x nt i .hdr
        else s.abortWith code x.island (toLe 4 nt ++ toLe 4 i)
      | none, some (e, i) => cut.tileFault x ns i e
      | none, none =>
        ((t.charge x nt { nanOut := nanEntries st.fmt m.tiles }).clearStatus x nt tgt
          (slotRows (bs.map Prod.fst))).stampPlane x nt
  | _, _ => s

/-- What a rebuild that converts reads: the last slot of each stream, and tile by tile the source and the target's
header. -/
def convertSpans (x : Ctx) (s : State) : List Span :=
  match x.rd x.r.desc0, x.wr x.r.desc2 with
  | some (n, st), some (m, tgt) =>
    ⟨m, tgt.slotAddr (tgt.size 1 - 1), 64, none⟩ ::
      s.recTileSpans x n st [.brt, .csr, .blk, .bmp] (fun _ slot => [⟨m, tgt.slotAddr slot, 64, none⟩])
  | _, _ => []

/-- The reads of a rebuild that converts. -/
def convertReads : Reads :=
  ⟨fun r => [r.desc0].filterMap id, convertSpans⟩

/-- `REBUILD_CONVERT` (R248). -/
def execRebuildConvert (c : Core) (r : Nat) (s : State) : Result :=
  s.runRecord c r (fun q => wantMask 3 q && q.rmode) convertReads convertEffect

/-! ### Sync and commit (R249, R251) -/

/-- What a sync record does (R249). Slots that are moved whole count no NaN (R85; DEDUCED, log entry 151). -/
def syncEffect (x : Ctx) (_ : QRec) (s : State) : State :=
  if !s.syncFlags.contains x.r.matrix then s
  else
    match x.rd x.r.desc0, x.wr x.r.desc2 with
    | some (_, st), some (nt, tgt) =>
      let s := (List.range (st.size 1)).foldl (fun s i =>
        s.writeRun (tgt.slotAddr i) (s.slot st i)) s
      ((s.setSync x.r.matrix false).clearStatus x nt tgt (slotRows (List.range (st.size 1)))).stampPlane x nt
    | _, _ => s

/-- What a sync record reads: with its flag clear nothing, else every slot of the matrix (R249). -/
def State.syncReads (s : State) : Reads where
  named r := if s.syncFlags.contains r.matrix then [r.desc0].filterMap id else []
  spans x _ := x.rowsOf (if s.syncFlags.contains x.r.matrix then [x.r.desc0].filterMap id else [])

/-- `SYNC` (R249). -/
def execSync (c : Core) (r : Nat) (s : State) : Result :=
  s.runRecord c r (wantMask 5) s.syncReads syncEffect

/-- The round of a matrix's commit in a step (R251, R407). -/
def maskRound (group matrix step : Nat) : RoundName := ⟨group, 2, matrix, step % 2 ^ 48⟩

/-- The end of a mask commit's round: agreement marks the matrix pending and completes the record,
any difference aborts the step (R251). -/
def State.maskAgreed (s : State) (c : Core) (r : Nat) (x : Ctx) (mins maxs : List Nat) : State :=
  if mins = maxs then
    let dig := leNat (mins.flatMap (toLe 4))
    ({ s with step := { s.step with masks := s.step.masks ++ [(x.r.matrix, dig)] } }).finish c r
  else s.abortWith 0x4503 x.island (maskDetail x)

/-- What a commit record does: it enters its mask digest into the group's round (R251). -/
def maskCommitEffect (c : Core) (r : Nat) (x : Ctx) (_ : QRec) (s : State) : State :=
  match x.rd x.r.desc0 with
  | none => s
  | some (_, d) =>
    let dig := sha3 ((List.range x.r.param0.toNat).flatMap (fun j => s.bytes (d.bitAddr [0, j] / 8) 32))
    let words := (List.range 8).map (fun i => fieldAt dig (4 * i) 4)
    match s.contribute (maskRound (x.r.param2.toNat % 65536) x.r.matrix x.step) words with
    | (s, some (mins, maxs)) => s.maskAgreed c r x mins maxs
    | (s, none) => s

/-- What a commit record reads: the run digests of its matrix (R251). -/
def commitSpans (x : Ctx) (_ : State) : List Span :=
  match x.rd x.r.desc0 with
  | some (m, d) => (List.range x.r.param0.toNat).map (fun j => ⟨m, d.bitAddr [0, j] / 8, 32, none⟩)
  | none => []

/-- The reads of a commit record. -/
def commitReads : Reads :=
  ⟨fun r => [r.desc0].filterMap id, commitSpans⟩

/-- `MASK_COMMIT_RECORD` (R251). -/
def execMaskCommitRecord (c : Core) (r : Nat) (s : State) : Result :=
  s.beginRecord c r (wantMask 4) commitReads (maskCommitEffect c r)

end Sys2Proof.Machine
end

