-- ==== Sys2Proof/Machine/Vector.lean ====
section
/-! DEFINITION. The vector unit's tables, element-wise functions, derivatives, reductions and
dropout masks (R305 to R309, R107). -/

namespace Sys2Proof.Machine

/-! ### Arithmetic -/

/-- The integer below or at a value, clamped to 0 and 255 (R306). -/
def floorClamp : Val → Nat
  | .fin true _ _ => 0
  | .fin false m e => min 255 (if e ≥ 0 then m * 2 ^ e.toNat else m / 2 ^ (-e).toNat)
  | .inf s => if s then 0 else 255
  | .nan => 0

/-- A fused multiply-add, rounded once. -/
def fmaF32 (a b c : Val) : Val := toF32 ((a.mul b).add c)

/-- A table evaluated at an `FP32` input (R306). -/
def FnTable.eval (t : FnTable) (x : Val) : Val :=
  if x.isNan then .nan
  else
    let u := mulF32 (subF32 x (decodeF32 t.xmin)) (decodeF32 t.scale)
    if u.isNan then .nan
    else if u.lt Val.zero && !t.loext then decodeF32 t.loval
    else if !u.lt (Val.ofInt 256) && !t.hiext then decodeF32 t.hival
    else
      let i := floorClamp u
      let w := subF32 u (Val.ofInt i)
      let c (j : Nat) : Val := decodeF32 (t.coef.getD (3 * i + j) 0)
      fmaF32 (fmaF32 (c 2) w (c 1)) w (c 0)

/-- Fraction bits of the logarithm's working precision. -/
def logBits : Nat := 256

/-- Twice the series of the inverse hyperbolic tangent, in units of `2^-256`. -/
def atanhSum (z2 : Nat) : (fuel i term : Nat) → Nat
  | 0, _, _ => 0
  | f + 1, i, term => 2 * (term / (2 * i + 1)) + atanhSum z2 f (i + 1) (term * z2 / 2 ^ logBits)

/-- `ln (a / b)` for `b ≤ a < 2 b`, in units of `2^-256`. -/
def lnRatio (a b : Nat) : Nat :=
  let z := (a - b) * 2 ^ logBits / (a + b)
  atanhSum (z * z / 2 ^ logBits) 90 0 z

/-- The natural logarithm of a positive `m * 2^e`, rounded once (R307). -/
def lnF32 (m : Nat) (e : Int) : Val :=
  let k := Nat.log2 m
  let y : Int := lnRatio m (2 ^ k)
  let r := (e + k) * (lnRatio 2 1 : Int) + y
  toF32 ((Val.ofInt r).scale (-(logBits : Int)))

/-- The logarithm function of the vector unit (R73, R74, R307). -/
def logF32 : Val → Val
  | .nan => .nan
  | .inf s => if s then .nan else .inf false
  | .fin s m e =>
    if m = 0 then decodeF32 (Config.logOfZero s)
    else if s then .nan
    else lnF32 m e

/-! ### Reading and writing -/

/-- A tensor as the vector unit reads it: each element in `FP32`, with the elements that became
infinite counted (R81, R82). -/
structure VuIn where
  num : Nat
  rows : List (List Nat × List Val)
  overflow : Nat
  mismatch : Nat

/-- Reads an operand with its side band. -/
def State.vuRead (s : State) (x : Ctx) (n sb : Option Nat) : Option VuIn :=
  (x.rd n).map (fun (num, d) =>
    let b := (x.rd sb).map Prod.snd
    let raw := d.outers.map (fun o => (o, s.row d b o))
    { num := num
      rows := raw.map (fun r => (r.1, r.2.map toF32))
      overflow := raw.foldl (fun a r => a + (r.2.filter (fun v =>
        !v.isInf && (toF32 v).isInf)).length) 0
      mismatch := s.mismatches d b d.outers })

/-- Charges what reading an operand counts (R82). -/
def State.vuCharge (s : State) (x : Ctx) (i : VuIn) : State :=
  s.charge x i.num { overflow := i.overflow, mismatch := i.mismatch }

/-- Writes the output of a vector-unit record (R77 to R82, R307). -/
def State.vuWrite (s : State) (x : Ctx) (rows : List (List Nat × List OutElem)) : State :=
  match x.wr x.r.desc2 with
  | none => s
  | some (n, d) =>
    let sb := (x.wr x.r.desc3).map Prod.snd
    (s.writeFinal x n d sb rows).stampPlane x n

/-- A function of one operand, element by element. -/
def vuMap1 (f : Rec → Val → Val) (x : Ctx) (_ : QRec) (s : State) : State :=
  match s.vuRead x x.r.desc0 x.r.desc5 with
  | none => s
  | some a =>
    (s.vuCharge x a).vuWrite x (a.rows.map (fun r => (r.1, plainElems (r.2.map (f x.r)))))

/-- A function of two operands, element by element. -/
def vuMap2 (f : Ctx → Val → Val → Val) (x : Ctx) (_ : QRec) (s : State) : State :=
  match s.vuRead x x.r.desc0 x.r.desc5, s.vuRead x x.r.desc1 x.r.desc4 with
  | some a, some b =>
    ((s.vuCharge x a).vuCharge x b).vuWrite x
      ((a.rows.zip b.rows).map (fun (r, q) => (r.1, plainElems (List.zipWith (f x) r.2 q.2))))
  | _, _ => s

/-- The descriptors a vector-unit record of functions 0x3001 to 0x3004 reads. -/
def vuReads : Reads := byRows (fun r => [r.desc0, r.desc5, r.desc1, r.desc4].filterMap id)

/-- A vector-unit record of a function. -/
def wantVu (f : BitVec 12) (r : Rec) : Bool := r.engine = 3 && r.func = f

/-- An element-wise record of an operation (R307). -/
def wantElem (op : Nat) (r : Rec) : Bool := wantVu 3 r && r.param0.toNat % 16 = op

/-! ### Tables and derivatives -/

/-- The table pair a record names. -/
def Ctx.pair (x : Ctx) : Option (FnTable × FnTable) := x.plan.tables[x.r.param0.toNat % 256]?

/-- What a table-function record does (R306). -/
def tableEffect (x : Ctx) (q : QRec) (s : State) : State :=
  match x.pair with
  | none => s
  | some p => vuMap1 (fun _ v => p.1.eval v) x q s

/-- What a derivative record with the table does (R308). -/
def derivTableEffect (x : Ctx) (q : QRec) (s : State) : State :=
  match x.pair with
  | none => s
  | some p => vuMap2 (fun _ dy v => mulF32 dy (p.2.eval v)) x q s

/-- What a derivative record with husk bits does (R308). -/
def derivHuskEffect : Ctx → QRec → State → State :=
  vuMap2 (fun x dy h =>
    mulF32 dy (decodeF32 (if h.isZero then x.r.param2 else x.r.param1)))

/-- `TABLE_FUNCTION` (R306). -/
def execTableFunction (c : Core) (r : Nat) (s : State) : Result :=
  s.runRecord c r (wantVu 1) vuReads tableEffect

/-- `DERIVATIVE_TABLE` (R308). -/
def execDerivativeTable (c : Core) (r : Nat) (s : State) : Result :=
  s.runRecord c r (fun q => wantVu 2 q && q.param0.toNat / 256 % 4 = 0) vuReads derivTableEffect

/-- `DERIVATIVE_HUSK` (R308). -/
def execDerivativeHusk (c : Core) (r : Nat) (s : State) : Result :=
  s.runRecord c r (fun q => wantVu 2 q && q.param0.toNat / 256 % 4 = 1) vuReads derivHuskEffect

/-! ### Element-wise functions -/

/-- `ELEMENT_ADD` (R307). -/
def execElementAdd (c : Core) (r : Nat) (s : State) : Result :=
  s.runRecord c r (wantElem 0) vuReads (vuMap2 (fun _ => addF32))

/-- `ELEMENT_SUBTRACT` (R307). -/
def execElementSubtract (c : Core) (r : Nat) (s : State) : Result :=
  s.runRecord c r (wantElem 1) vuReads (vuMap2 (fun _ => subF32))

/-- `ELEMENT_MULTIPLY` (R307). -/
def execElementMultiply (c : Core) (r : Nat) (s : State) : Result :=
  s.runRecord c r (wantElem 2) vuReads (vuMap2 (fun _ => mulF32))

/-- `ELEMENT_DIVIDE` (R307). -/
def execElementDivide (c : Core) (r : Nat) (s : State) : Result :=
  s.runRecord c r (wantElem 3) vuReads (vuMap2 (fun _ => divF32))

/-- `ELEMENT_MAXIMUM` (R307). -/
def execElementMaximum (c : Core) (r : Nat) (s : State) : Result :=
  s.runRecord c r (wantElem 4) vuReads (vuMap2 (fun _ => Val.max))

/-- `ELEMENT_MINIMUM` (R307). -/
def execElementMinimum (c : Core) (r : Nat) (s : State) : Result :=
  s.runRecord c r (wantElem 5) vuReads (vuMap2 (fun _ => Val.min))

/-- `ELEMENT_SQUARE_ROOT` (R307). -/
def execElementSquareRoot (c : Core) (r : Nat) (s : State) : Result :=
  s.runRecord c r (wantElem 6) vuReads (vuMap1 (fun _ => sqrtF32))

/-- `ELEMENT_LOGARITHM` (R307). -/
def execElementLogarithm (c : Core) (r : Nat) (s : State) : Result :=
  s.runRecord c r (wantElem 7) vuReads (vuMap1 (fun _ => logF32))

/-- The comparison of the vector unit: "not equal" holds for a NaN operand (R76). -/
def vectorPred (pred : Nat) (a b : Val) : Bool := if pred = 3 then !a.eqv b else comparePred pred a b

/-- `ELEMENT_COMPARE` (R307). -/
def execElementCompare (c : Core) (r : Nat) (s : State) : Result :=
  s.runRecord c r (wantElem 8) vuReads (vuMap2 (fun x a b =>
    if vectorPred (x.r.param0.toNat / 16 % 8) a b then Val.one else Val.zero))

/-! ### Reductions (R107) -/

/-- The reduction of one row: its operation as `PARAM0` [1:0] gives it. No operand of the record lists parts with their
blocks and status planes, so it sums by R107 and a collective combines parts (R97; DEDUCED, log entry 180). -/
def vuReduceRow (op segbase : Nat) (vs : List Val) : OutElem :=
  if op < 2 then
    let a := orZero (reduceTerms false false segbase ((vs.zipIdx).map (fun p => (p.2, p.1))))
    ⟨if op = 0 then a.v else mulF32 a.v (ratioF32 false 1 vs.length 0), a.sat, a.ovf, a.long⟩
  else
    match vs with
    | [] => ⟨Val.zero, false, false, false⟩
    | v :: rest => ⟨rest.foldl (if op = 2 then Val.max else Val.min) v, false, false, false⟩

/-- The rows of a reduction's output: one result for each outer index of the input (R307). -/
def reduceRows (rank : Nat) (out : Desc) (op segbase : Nat) (rows : List (List Nat × List Val)) :
    List (List Nat × List OutElem) :=
  let res := rows.map (fun r => vuReduceRow op segbase r.2)
  if rank ≤ 1 then [([], res)]
  else (out.outers.zip (chunked (out.size 0) res))

/-- What a reduction record does. -/
def reduceEffect (x : Ctx) (_ : QRec) (s : State) : State :=
  match s.vuRead x x.r.desc0 x.r.desc5, x.rd x.r.desc0, x.wr x.r.desc2 with
  | some a, some (_, d), some (_, out) =>
    (s.vuCharge x a).vuWrite x
      (reduceRows d.sizes.length out (x.r.param0.toNat % 4) x.r.segbase a.rows)
  | _, _, _ => s

/-- A reduction record of an operation. -/
def wantReduce (op : Nat) (r : Rec) : Bool := wantVu 4 r && r.param0.toNat % 4 = op

/-- `REDUCE_SUM` (R107). -/
def execReduceSum (c : Core) (r : Nat) (s : State) : Result :=
  s.runRecord c r (wantReduce 0) vuReads reduceEffect

/-- `REDUCE_MEAN` (R107). -/
def execReduceMean (c : Core) (r : Nat) (s : State) : Result :=
  s.runRecord c r (wantReduce 1) vuReads reduceEffect

/-- `REDUCE_MAXIMUM` (R107). -/
def execReduceMaximum (c : Core) (r : Nat) (s : State) : Result :=
  s.runRecord c r (wantReduce 2) vuReads reduceEffect

/-- `REDUCE_MINIMUM` (R107). -/
def execReduceMinimum (c : Core) (r : Nat) (s : State) : Result :=
  s.runRecord c r (wantReduce 3) vuReads reduceEffect

/-! ### Dropout masks (R309) -/

/-- What a dropout-mask record does. -/
def dropoutEffect (x : Ctx) (_ : QRec) (s : State) : State :=
  match x.wr x.r.desc2 with
  | none => s
  | some (_, d) =>
    let tid := d.tid x.r.mbtag.toNat
    s.vuWrite x (d.outers.map (fun o => (o, plainElems ((List.range (d.size 0)).map (fun i =>
      if s.draw x.step tid (linearIndex d.sizes (i :: o)) < x.r.param1.toNat then Val.one
      else Val.zero)))))

/-- `DROPOUT_MASK` (R309). -/
def execDropoutMask (c : Core) (r : Nat) (s : State) : Result :=
  s.runRecord c r (wantVu 5) (byRows (fun _ => [])) dropoutEffect

end Sys2Proof.Machine
end

