-- ==== Sys2Proof/Machine/Optimizer.lean ====
section
/-! DEFINITION. The optimizer and compose records over the slices of a weight set (R288, R307, R313
to R316). -/

namespace Sys2Proof.Machine

/-- A stored element of a slice (R288, R316): its place in the companion planes (outer index and
position of dimension 0), its row and column in its tile, and its value encoding. -/
structure Spot where
  outer : List Nat
  idx : Nat
  row : Nat
  col : Nat
  code : Nat

/-- The elements of one slice, with the stream tile that holds them. -/
structure SliceSpots where
  tile : Option (Nat × TileData)
  spots : List Spot

/-- A dense set's slice: rows `n` and columns `k` of its tile (R288). -/
def State.denseSlice (s : State) (v : Desc) (sliceRows j : Nat) : SliceSpots :=
  let per := 128 / (max 1 sliceRows)
  let kt := ceilDiv (v.size 0) 128
  let t := j / (max 1 per)
  let n0 := 128 * (t / (max 1 kt)) + j % (max 1 per) * sliceRows
  let k0 := 128 * (t % (max 1 kt))
  let ns := (List.range sliceRows).filter (fun i => decide (n0 + i < v.size 1))
  let ks := (List.range 128).filter (fun i => decide (k0 + i < v.size 0))
  ⟨none, ns.flatMap (fun i => ks.map (fun c =>
    ⟨[n0 + i], k0 + c, n0 + i, k0 + c, s.code v [k0 + c, n0 + i]⟩))⟩

/-- The entries of a tile with their places in the companion planes (R233). -/
def TileData.places (slot : Nat) (t : TileData) : List Spot :=
  if t.hdr.tfmt = 3 then
    t.lines.flatMap (fun (r, es) => es.map (fun e =>
      ⟨[slot], 256 * blkRank t.hdr.pmap (r / 16 * 8 + e.1 / 16) + 16 * (r % 16) + e.1 % 16, r, e.1, e.2⟩))
  else if t.hdr.tfmt = 1 then
    t.lines.flatMap (fun (r, es) => (es.zipIdx).map (fun (e, j) =>
      ⟨[slot], r * t.hdr.tk + j, r, e.1, e.2⟩))
  else
    ((t.lines.flatMap (fun (r, es) => es.map (fun e => (r, e)))).zipIdx).map
      (fun (p, i) => ⟨[slot], i, p.1, p.2.1, p.2.2⟩)

/-- The format of a weight set's streams (R286, R173). -/
def WeightSet.tfmt (w : WeightSet) : TFmt :=
  if w.kind = 2 then .brt else if w.kind = 3 then .csr else .blk

/-- The slots that hold a run of slices (R288). -/
def WeightSet.slots (w : WeightSet) (first count : Nat) : List Nat :=
  let per := max 1 (128 / (max 1 w.sliceRows))
  (List.range ((first + count + per - 1) / per)).filter (fun i => decide (first / per ≤ i))

/-- The slices of a record with their stored elements (R316), up to the tile that fails its checks. No operand of an
optimizer or compose record gives K / 128, which R188 wants: as R239 says of mask-engine records, the header of the
stream's last slot does (DEDUCED, log entry 185). -/
def State.sliceSpots (s : State) (w : WeightSet) (v : Desc) (first count : Nat) :
    List SliceSpots × Option (TileErr × Nat) :=
  if w.kind = 1 then ((List.range count).map (fun j => s.denseSlice v w.sliceRows (first + j)), none)
  else
    let per := max 1 (128 / (max 1 w.sliceRows))
    match s.streamKt v with
    | none => ([], some (.hdr, v.size 1 - 1))
    | some kt =>
      let m := s.readTiles v [w.tfmt] kt false none ((w.slots first count).map (fun i => (i, List.range 128)))
      ((List.range count).filterMap (fun j =>
        let i := (first + j) / per
        (lookupKey i m.tiles).map (fun t =>
          let lo := (first + j) % per * w.sliceRows
          ⟨some (i, t), (t.places i).filter (fun p =>
            decide (lo ≤ p.row) && decide (p.row < lo + w.sliceRows))⟩)), m.bad)

/-- What a record reads of the value plane for a run of slices: the elements of a dense set, else the header of the last
slot and the slots that hold the slices (R239, R316). -/
def State.valueSpans (s : State) (n : Nat) (w : WeightSet) (v : Desc) (first count : Nat) : List Span :=
  if w.kind = 1 then
    ((List.range count).flatMap (fun j => (s.denseSlice v w.sliceRows (first + j)).spots)).map (fun p =>
      v.span n (p.idx :: p.outer) 1)
  else
    ⟨n, v.slotAddr (v.size 1 - 1), 64, none⟩ :: (w.slots first count).flatMap (s.tileSpans n v [w.tfmt]
      ((s.streamKt v).getD 0) (fun h b => h.takes v.fmt.bits b false (List.range 128)))

/-- The elements of a companion plane at the places of some stored elements. -/
def Ctx.spotSpans (x : Ctx) (n : Option Nat) (spots : List Spot) : List Span :=
  match x.rd n with
  | some (m, d) => spots.map (fun p => d.span m (p.idx :: p.outer) 1)
  | none => []

/-- A descriptor number of a weight-set entry: `none` where the plane is absent (R286). -/
def planeNum (n : Nat) : Option Nat := if n = 0xFFFFFFFF then none else some n

/-! ### Writing elements -/

/-- Replaces bytes of a string from an offset on. -/
def splice (b : Bytes) (off : Nat) (v : Bytes) : Bytes :=
  b.take off ++ v ++ b.drop (off + v.length)

/-- Replaces elements of one row of a plane, leaving the others (R316). -/
def State.updateRow (s : State) (d : Desc) (outer : List Nat) (ch : List (Nat × Nat)) : State :=
  let row := (List.range (d.size 0)).map (fun i => s.code d (i :: outer))
  s.writeCodes d (0 :: outer) (ch.foldl (fun r c => r.set c.1 c.2) row)

/-- Replaces elements of a plane, row by row. -/
def State.updatePlane (s : State) (d : Desc) (ch : List (List Nat × Nat × Nat)) : State :=
  ((ch.map Prod.fst).eraseDups).foldl (fun s o =>
    s.updateRow d o ((ch.filter (fun c => c.1 = o)).map Prod.snd)) s

/-- The byte offsets of an entry's value in its slot: both forms of a BRT-k tile, else one (R179,
R182, R186). `rank` is the entry's position in its column. -/
def valueOffsets (h : TileHdr) (w : Nat) (p : Spot) (rank : Nat) : List Nat :=
  if h.tfmt = 1 then
    [64 + p.idx * w / 8, 64 + 16 * h.tk * w + 128 * h.tk + (p.col * h.tk + rank) * w / 8]
  else if h.tfmt = 2 then [320 + ceilDiv h.nnz 64 * 64 + p.idx * w / 8]
  else [64 + p.idx * w / 8]

/-- Writes new values of a tile's entries into a slot, at the positions of the tile given (R316). -/
def State.updateSlot (s : State) (d : Desc) (slot : Nat) (t : TileData) (ch : List (Spot × Nat)) : State :=
  let w := d.fmt.bits
  let rank (p : Spot) : Nat :=
    (t.lines.filter (fun l => decide (l.1 < p.row) && l.2.any (fun e => e.1 = p.col))).length
  let b := ch.foldl (fun b c =>
    (valueOffsets t.hdr w c.1 (rank c.1)).foldl (fun b o => splice b o (toLe (w / 8) c.2)) b)
    (s.slot d slot)
  s.writeRun (d.slotAddr slot) b

/-- The transpose of a tile read whole, in CSR-T order (R185). -/
def TileData.transpose (t : TileData) : TileData :=
  ⟨{ t.hdr with trow := t.hdr.tcol, tcol := t.hdr.trow },
    ((transposeLines t.rows).zipIdx).map (fun (l, c) => (c, l))⟩

/-- Writes new high halves of one slice: the value plane, and the transposed plane or stream
(R316). -/
def State.writeValues (s : State) (v : Desc) (tv : Option Desc) (nt : Nat) (sl : SliceSpots)
    (ch : List (Spot × Nat)) : State :=
  match sl.tile with
  | none =>
    let s := s.updatePlane v (ch.map (fun c => (c.1.outer, c.1.idx, c.2)))
    match tv with
    | none => s
    | some d => s.updatePlane d (ch.map (fun c => ([c.1.idx], c.1.row, c.2)))
  | some (slot, t) =>
    let s := s.updateSlot v slot t ch
    match tv with
    | none => s
    | some d =>
      let tt := t.transpose
      let i := t.hdr.tcol * nt + t.hdr.trow
      let ps := tt.places i
      s.updateSlot d i tt (ch.filterMap (fun c =>
        (ps.find? (fun p => p.row = c.1.col && p.col = c.1.row)).map (fun p => (p, c.2))))

/-! ### The optimizer -/

/-- The hyperparameters of a step (R314). -/
structure Hyper where
  eta : Val
  b1 : Val
  c1 : Val
  b2 : Val
  c2 : Val
  eps : Val
  lam : Val
  gam : Val

/-- Row `min (s - STEP_FIRST, h - 1)` of the hyperparameter tensor (R314). -/
def State.hyper (s : State) (x : Ctx) (d : Desc) : Hyper :=
  let r := min (x.step - x.plan.stepFirst) (d.size 1 - 1)
  let at' (i : Nat) : Val := s.val d none [i, r]
  ⟨at' 0, at' 1, at' 2, at' 3, at' 4, at' 5, at' 6, at' 7⟩

/-- The update of one element: new weight and moments (R315). -/
def optStep (alg : Nat) (h : Hyper) (w g0 m v : Val) : Val × Val × Val :=
  let g := mulF32 h.gam g0
  if alg = 0 then
    let g := fmaF32 h.lam w g
    let m := fmaF32 h.b1 m g
    (fmaF32 h.eta.neg m w, m, v)
  else
    let g := if alg = 1 then fmaF32 h.lam w g else g
    let m := fmaF32 h.b1 m (mulF32 h.c1 g)
    let v := fmaF32 h.b2 v (mulF32 h.c2 (mulF32 g g))
    let q := divF32 m (addF32 (sqrtF32 v) h.eps)
    (fmaF32 h.eta.neg (if alg = 1 then q else fmaF32 h.lam w q) w, m, v)

/-- The planes an optimizer record reads and writes. -/
structure OptPlanes where
  vr : Desc
  vw : Desc
  lr : Desc
  lw : Desc
  m1r : Desc
  m1w : Desc
  m2r : Option Desc
  m2w : Option Desc

/-- What an element becomes: value, low half, moments, and whether the split was inexact. -/
structure OptOut where
  spot : Spot
  hi : Enc
  lo : Int
  m1 : Enc
  m2 : Enc
  inexact : Bool

/-- A moment as stored: `FP32` as is, `BF16` by stochastic rounding with tensor identifier low half 0
(R108 to R110, R315). -/
def State.storeMoment (s : State) (x : Ctx) (d : Desc) (p : Spot) (v : Val) : Enc :=
  if d.fmt = .bf16 then
    stochBf16 d.sat v (s.draw x.step (d.tid 0) (linearIndex d.sizes (p.idx :: p.outer)))
  else d.fmt.convert d.sat v

/-- The update of one stored element (R315). -/
def State.optElem (s : State) (x : Ctx) (alg : Nat) (h : Hyper) (g : Desc) (pl : OptPlanes) (p : Spot) :
    OptOut :=
  let i := p.idx :: p.outer
  let w := compose pl.vr.fmt (pl.vr.fmt.decode p.code) (lowOf (s.code pl.lr i))
  let v0 := match pl.m2r with
    | some d => s.val d none i
    | none => Val.zero
  let (w', m, v) := optStep alg h w (s.val g none i) (s.val pl.m1r none i) v0
  let sp := splitWeight pl.vr.fmt pl.vw.sat w'
  { spot := p, hi := sp.hi, lo := sp.lo, m1 := s.storeMoment x pl.m1w p m
    m2 := match pl.m2w with
      | some d => s.storeMoment x d p v
      | none => ⟨0, Counts.none⟩
    inexact := sp.inexact }

/-- Sums what elements count. -/
def sumCounts (f : OptOut → Counts) (os : List OptOut) : Counts :=
  os.foldl (fun c o => c.add (f o)) Counts.none

/-- Writes the results of one slice (R316). -/
def State.writeOpt (s : State) (pl : OptPlanes) (tv : Option Desc) (nt : Nat) (sl : SliceSpots) (os : List OptOut) : State :=
  let s := s.writeValues pl.vw tv nt sl (os.map (fun o => (o.spot, o.hi.code)))
  let plane (f : OptOut → Nat) := os.map (fun o => (o.spot.outer, o.spot.idx, f o))
  let s := s.updatePlane pl.lw (plane (fun o => bitsOfInt 16 o.lo))
  let s := s.updatePlane pl.m1w (plane (fun o => o.m1.code))
  match pl.m2w with
  | some d => s.updatePlane d (plane (fun o => o.m2.code))
  | none => s

/-- The planes of an optimizer record; the second moment is carried on by every algorithm of a set that has one
(R315). -/
def optPlanes (x : Ctx) (w : WeightSet) : Option OptPlanes :=
  let rd (n : Nat) := (x.rd (planeNum n)).map Prod.snd
  let wr (n : Nat) := (x.wr (planeNum n)).map Prod.snd
  match x.rd x.r.desc1, x.wr x.r.desc2, rd w.ldesc.1, wr w.ldesc.1, rd w.m1desc.1, wr w.m1desc.1 with
  | some (_, vr), some (_, vw), some lr, some lw, some m1r, some m1w =>
    some ⟨vr, vw, lr, lw, m1r, m1w, rd w.m2desc.1, wr w.m2desc.1⟩
  | _, _, _, _, _, _ => none

/-- A failed tile check of a weight set's value plane (R188, R189). -/
def State.valueFault (s : State) (x : Ctx) (e : TileErr × Nat) : State :=
  s.tileFault x (((x.rd x.r.desc1).map Prod.fst).getD 0) e.2 e.1

/-- The slices of an optimizer or compose record: its first and the number of them done. -/
def Rec.slicesDone (r : Rec) (n : Nat) : List Nat := (List.range n).map (r.param1.toNat + ·)

/-- What an optimizer record does. A tile whose check fails ends it after the slices before it (R188). -/
def optEffect (x : Ctx) (_ : QRec) (s : State) : State :=
  let wn := x.r.param0.toNat / 256 % 256
  let alg := x.r.param0.toNat % 16
  match x.plan.weightSets[wn]?, x.rd x.r.desc0, x.rd x.r.desc3, x.wr x.r.desc2 with
  | some w, some (_, g), some (_, hd), some (nv, _) =>
    match optPlanes x w with
    | none => s
    | some pl =>
      let (sls, bad) := s.sliceSpots w pl.vr x.r.param1.toNat x.r.param2.toNat
      let h := s.hyper x hd
      let outs := sls.map (fun sl => (sl, sl.spots.map (s.optElem x alg h g pl)))
      let all := outs.flatMap Prod.snd
      let tv := x.wr (planeNum w.tdesc.1)
      let nt := match s.streamKt pl.vr with
        | some kt => pl.vr.size 1 / (max 1 kt)
        | none => 1
      let s := outs.foldl (fun s o => s.writeOpt pl (tv.map Prod.snd) nt o.1 o.2) s
      let num (n : Nat) : Nat := x.plan.resolveWrite x.step n
      let s := s.charge x nv (sumCounts (fun o => o.hi.cnt) all)
      let s := match tv with
        | some (n, _) => s.charge x n { nanOut := (sumCounts (fun o => o.hi.cnt) all).nanOut }
        | none => s
      let s := s.charge x (num w.m1desc.1) (sumCounts (fun o => o.m1.cnt) all)
      let s := s.charge x (num w.m2desc.1) (sumCounts (fun o => o.m2.cnt) all)
      let s := s.countInexact x nv (all.filter OptOut.inexact).length
      let outers := (all.map (fun o => o.spot.outer)).eraseDups
      let planes := (nv, pl.vw) :: (num w.ldesc.1, pl.lw) :: (num w.m1desc.1, pl.m1w) ::
        (pl.m2w.toList.map (fun d => (num w.m2desc.1, d)) ++ tv.toList)
      let s := planes.foldl (fun s d => s.clearStatus x d.1 d.2 outers) s
      let s := s.stamp x w (x.r.slicesDone sls.length)
      match bad with
      | some e => s.valueFault x e
      | none => s
  | _, _, _, _ => s

/-- An optimizer record of an algorithm (R313). -/
def wantOpt (alg : Nat) (r : Rec) : Bool := wantVu 0x010 r && r.param0.toNat % 16 = alg

/-- What an optimizer record reads: its row of hyperparameters, then the values of its slices with their companions and
gradients (R313, R314). -/
def optSpans (x : Ctx) (s : State) : List Span :=
  x.rowsAt x.r.desc3 (match x.rd x.r.desc3 with
    | some (_, d) => [min (x.step - x.plan.stepFirst) (d.size 1 - 1)]
    | none => []) ++
  match x.plan.weightSets[x.r.param0.toNat / 256 % 256]?, x.rd x.r.desc1 with
  | some w, some (n, v) =>
    let spots := ((s.sliceSpots w v x.r.param1.toNat x.r.param2.toNat).1).flatMap SliceSpots.spots
    s.valueSpans n w v x.r.param1.toNat x.r.param2.toNat ++
      interleave (([planeNum w.ldesc.1, planeNum w.m1desc.1, planeNum w.m2desc.1, x.r.desc0]).map
        (fun d => x.spotSpans d spots))
  | _, _ => []

/-- The descriptors an optimizer record names for reading. -/
def optReads : Reads := ⟨fun r => [r.desc0, r.desc1, r.desc3].filterMap id, optSpans⟩

/-- `OPTIMIZER_MOMENTUM_SGD` (R315). -/
def execOptimizerMomentumSgd (c : Core) (r : Nat) (s : State) : Result :=
  s.runRecord c r (wantOpt 0) optReads optEffect

/-- `OPTIMIZER_ADAM` (R315). -/
def execOptimizerAdam (c : Core) (r : Nat) (s : State) : Result :=
  s.runRecord c r (wantOpt 1) optReads optEffect

/-- `OPTIMIZER_ADAMW` (R315). -/
def execOptimizerAdamw (c : Core) (r : Nat) (s : State) : Result :=
  s.runRecord c r (wantOpt 2) optReads optEffect

/-! ### Compose (R294, R307) -/

/-- The low plane that a compose record adds: none for a set that keeps none (R307). -/
def lowNum (w : WeightSet) : Option Nat := if w.low then planeNum w.ldesc.1 else none

/-- What a compose record does: master weights of the slices, in the layout of the companion
planes. -/
def composeEffect (x : Ctx) (_ : QRec) (s : State) : State :=
  match x.plan.weightSets[x.r.param0.toNat % 256]?, x.rd x.r.desc1, x.wr x.r.desc2 with
  | some w, some (_, v), some (no, out) =>
    let low := (x.rd (lowNum w)).map Prod.snd
    let (sls, bad) := s.sliceSpots w v x.r.param1.toNat x.r.param2.toNat
    let es := (sls.flatMap SliceSpots.spots).map (fun p =>
      let lo := match low with
        | some d => lowOf (s.code d (p.idx :: p.outer))
        | none => 0
      (p, out.fmt.convert out.sat (compose v.fmt (v.fmt.decode p.code) lo)))
    let s := s.updatePlane out (es.map (fun e => (e.1.outer, e.1.idx, e.2.code)))
    let s := s.charge x no (es.foldl (fun c e => c.add e.2.cnt) Counts.none)
    let s := s.clearStatus x no out (es.map (fun e => e.1.outer)).eraseDups
    let s := match x.plan.planeOf no with
      | some (_, w, _) => s.stamp x w (x.r.slicesDone sls.length)
      | none => s
    match bad with
    | some e => s.valueFault x e
    | none => s
  | _, _, _ => s

/-- What a compose record reads: the values of its slices with their low halves (R307). -/
def composeSpans (x : Ctx) (s : State) : List Span :=
  match x.plan.weightSets[x.r.param0.toNat % 256]?, x.rd x.r.desc1 with
  | some w, some (n, v) =>
    s.valueSpans n w v x.r.param1.toNat x.r.param2.toNat ++ x.spotSpans (lowNum w)
      (((s.sliceSpots w v x.r.param1.toNat x.r.param2.toNat).1).flatMap SliceSpots.spots)
  | _, _ => []

/-- The reads of a compose record. -/
def composeReads : Reads :=
  ⟨fun r => [r.desc1].filterMap id, composeSpans⟩

/-- `COMPOSE` (R294). -/
def execCompose (c : Core) (r : Nat) (s : State) : Result :=
  s.runRecord c r (wantVu 0x011) composeReads composeEffect

end Sys2Proof.Machine
end

