-- ==== Sys2Proof/Machine/Predictor.lean ====
section
/-! DEFINITION. The predictor unit: predict, check, merge and reference count (R259 to R279). -/

namespace Sys2Proof.Machine

/-- The predictor number of a record (R265). -/
def Rec.pred (r : Rec) : Nat := r.param0.toNat % 256

/-- The predictor entry of a record. -/
def Ctx.entry (x : Ctx) : Option PredEntry := x.plan.preds[x.r.pred]?

/-- The policy of a layer in force: 0 LOG, 1 GLEAN, 2 HALT (R261, R276). -/
def State.policy (s : State) (l : Nat) : Nat := s.obj 0x2501 l

/-- The detail of the events of R284. -/
def predDetail (x : Ctx) : Bytes := toLe 1 x.r.pred ++ toLe 4 x.r.recno

/-- Adds to a predictor count of `PRED_EVENT_MASK`, unless a gate with `SENSE` 0 governs the record (R282, R303). -/
def State.countPred (s : State) (x : Ctx) (i n : Nat) : State :=
  if !x.counts then s else s.count x 0x302A x.r.pred i n (s.obj 0x2500 1) (BitVec.ofNat 16 (0x3120 + i)) (predDetail x)

/-- Adds to a predictor count that has no event, unless a gate with `SENSE` 0 governs the record (R282, R303). -/
def State.countPredQuiet (s : State) (x : Ctx) (fam n : Nat) : State :=
  if x.counts then s.countQuiet fam x.r.pred 0 n else s

/-- The tokens that take part: the offsets' last where a record names them (R265). -/
def State.predTokens (s : State) (x : Ctx) (t : Nat) : Option Nat :=
  (s.recOffsets x x.r.param2 t).map (fun o => match o with
    | some o => o.getLastD 0
    | none => t)

/-- A row of predictor weights (R261). -/
def PredEntry.weights (e : PredEntry) (b : Bytes) (cols row : Nat) : List Val :=
  let w := e.pfmt.bits / 8
  (List.range cols).map (fun k => e.pfmt.decode (fieldAt b ((row * cols + k) * w) w))

/-- A dot product of the predictor with its bias (R268, R88, R111). -/
def predDot (ws xs : List Val) (bias : F32) : Val :=
  let terms := ((ws.zip xs).zipIdx).map (fun (p, k) => (k, p.1.mul p.2))
  addF32 (orZero (reduceTerms false false 0 terms)).v (decodeF32 bias)

/-- The scores of every neuron for one token (R268). -/
def PredEntry.scores (e : PredEntry) (x : List Val) : List Val :=
  let h := (List.range e.h).map (fun j =>
    let v := predDot (e.weights e.p1 e.d j) x (e.b1.getD j 0)
    e.pfmt.decode (e.pfmt.convert true (Val.zero.max v)).code)
  (List.range e.n).map (fun n => predDot (e.weights e.p2 e.h n) h (e.b2.getD n 0))

/-- The maximum of each neuron's scores over the tokens (R268). -/
def maxScores : List (List Val) → List Val
  | [] => []
  | [v] => v
  | v :: vs => List.zipWith Val.max v (maxScores vs)

/-- The neurons named, in ascending order, and the number of candidates (R268). -/
def nameNeurons (theta : Val) (a : Nat) (score : List Val) : List Nat × Nat :=
  let cand := (score.zipIdx).filter (fun p => theta.lt p.1)
  let order := sortBy (fun p q => q.1.ltTotal p.1) cand
  (sortBy (fun i j => decide (i < j)) ((order.take a).map Prod.snd), cand.length)

/-- Writes a list of R205: its count, then its indices. -/
def State.writeList (s : State) (x : Ctx) (n : Nat) (d : Desc) (l : List Nat) : State :=
  s.writeRaw x n d [([], l.length :: l)]

/-- What a predict record does. -/
def predictEffect (x : Ctx) (_ : QRec) (s : State) : State :=
  match x.entry, x.rd x.r.desc0, x.wr x.r.desc1 with
  | some e, some (_, xd), some (nl, list) =>
    match s.predTokens x (xd.size 1) with
    | none => s.badOffsets x
    | some t' =>
      let score := maxScores ((List.range t').map (fun t => e.scores (s.row xd none [t])))
      let (named, cands) := nameNeurons (decodeF32 e.theta) e.a score
      let s := s.writeList x nl list named
      let s := match x.wr x.r.desc2 with
        | some (n, sd) => if score.isEmpty then s else s.writeFinal x n sd none [([], plainElems score)]
        | none => s
      let s := s.countPred x 0 (cands - named.length)
      let s := s.countPred x 4 (score.filter Val.isNan).length
      s.countPredQuiet x 0x302B named.length
  | _, _, _ => s

/-- The tokens of an operand that a record reads: those that take part (R265). -/
def State.tokenSpans (s : State) (x : Ctx) (n : Option Nat) : List Span :=
  match x.rd n with
  | some (_, d) => x.rowsAt n (List.range ((s.predTokens x (d.size 1)).getD 0))
  | none => []

/-- What a predict record reads: the offsets, then the layer's input (R265, R268). -/
def predictReads : Reads where
  named r := [r.desc0].filterMap id ++ (paramDesc r.param2).toList
  spans x s := s.offsetSpans x x.r.param2 ++ s.tokenSpans x x.r.desc0

/-- A predictor-unit record of a function. -/
def wantPred (f : BitVec 12) (r : Rec) : Bool := r.engine = 4 && r.func = f

/-- `PREDICT` (R268). -/
def execPredict (c : Core) (r : Nat) (s : State) : Result :=
  s.runRecord c r (wantPred 1) predictReads predictEffect

/-- Tokens of a neuron whose value in a tensor is greater than zero (R271, R277). -/
def State.activeTokens (s : State) (d : Desc) (t' n : Nat) : Nat :=
  ((List.range t').filter (fun t => Val.zero.lt (s.val d none [n, t]))).length

/-- The detected misses with their token counts, by descending count and ascending neuron (R271). -/
def State.misses (s : State) (z : Desc) (t' n : Nat) (listed : List Nat) : List (Nat × Nat) :=
  let cs := ((List.range n).filter (fun i => !listed.contains i)).map (fun i => (s.activeTokens z t' i, i))
  sortBy (fun a b => decide (b.1 < a.1)) (cs.filter (fun c => decide (0 < c.1)))

/-- Writes the gleaning list, the merged list and the merge index (R271). -/
def State.writeGlean (s : State) (x : Ctx) (e : PredEntry) (listed glean : List Nat) : State :=
  let merged := sortBy (fun i j => decide (i < j)) (listed ++ glean)
  let idx := merged.map (fun n => match listed.findIdx? (· == n) with
    | some i => i
    | none => e.a + (glean.findIdx? (· == n)).getD 0)
  let put (s : State) (d : Option Nat) (l : List Nat) : State :=
    match x.wr d with
    | some (n, t) => s.writeList x n t l
    | none => s
  put (put (put s x.r.desc3 glean) x.r.desc2 merged) x.r.desc4 idx

/-- What a check record does. -/
def checkEffect (x : Ctx) (_ : QRec) (s : State) : State :=
  match x.entry, x.rd x.r.desc0, x.rd x.r.desc1 with
  | some e, some (_, z), some (_, list) =>
    match s.activeList list e.n, s.predTokens x (z.size 1) with
    | none, _ => s.badList x
    | _, none => s.badOffsets x
    | some listed, some t' =>
      let miss := s.misses z t' e.n listed
      let s := s.countPred x 1 miss.length
      if s.policy x.r.pred = 1 then
        let glean := sortBy (fun i j => decide (i < j)) ((miss.take e.g).map Prod.snd)
        let s := s.countPred x 2 glean.length
        let s := s.countPred x 3 (miss.length - glean.length)
        s.writeGlean x e listed glean
      else if s.policy x.r.pred = 2 && !miss.isEmpty then
        let s := s.event 0x3125 x.island (predDetail x ++ toLe 4 miss.length)
        { s with step := { s.step with halt := some x.r.pred } }
      else s
  | _, _, _ => s

/-- What a check record reads: the list and the offsets, then the shadow estimate (R265, R271). -/
def checkReads : Reads where
  named r := [r.desc0, r.desc1].filterMap id ++ (paramDesc r.param2).toList
  spans x s := s.listSpans x x.r.desc1 1 ++ s.offsetSpans x x.r.param2 ++ s.tokenSpans x x.r.desc0

/-- `CHECK` (R271). -/
def execCheck (c : Core) (r : Nat) (s : State) : Result :=
  s.runRecord c r (wantPred 2) checkReads checkEffect

/-- The entries of a merge index, or `none` when it is malformed (R265, R205). -/
def State.mergeIndex (s : State) (d : Desc) (lines : Nat) : Option (List Nat) :=
  let a := s.intAt d 0
  if a < 0 || a > (d.size 0 : Int) - 1 then none
  else
    let l := (List.range a.toNat).map (fun i => s.intAt d (i + 1))
    if l.all (fun i => decide (0 ≤ i) && decide (i < lines)) then some (l.map Int.toNat) else none

/-- What a merge record does. -/
def mergeEffect (x : Ctx) (_ : QRec) (s : State) : State :=
  match x.rd x.r.desc0, x.rd x.r.desc1, x.wr x.r.desc2 with
  | some (_, src), some (_, ix), some (no, out) =>
    match s.mergeIndex ix (src.size 0) with
    | none => s.badList x
    | some idx =>
      (s.writeRaw x no out ((List.range (src.size 1)).map (fun t =>
        ([t], idx.map (fun i => s.code src [i, t]))))).stampPlane x no
  | _, _, _ => s

/-- What a merge record reads: the merge index, then the concatenated output (R274). -/
def mergeReads : Reads where
  named r := [r.desc0, r.desc1].filterMap id
  spans x s := s.listSpans x x.r.desc1 1 ++ x.rowsOf ([x.r.desc0].filterMap id)

/-- `MERGE` (R274). -/
def execMerge (c : Core) (r : Nat) (s : State) : Result :=
  s.runRecord c r (wantPred 3) mergeReads mergeEffect

/-- What a reference-count record does. -/
def refEffect (x : Ctx) (_ : QRec) (s : State) : State :=
  match x.entry, x.rd x.r.desc0, x.rd x.r.desc1, x.rd x.r.desc2 with
  | some e, some (_, ref), some (_, list), some (_, z) =>
    match s.activeList list e.n, s.predTokens x (ref.size 1) with
    | none, _ => s.badList x
    | _, none => s.badOffsets x
    | some listed, some t' =>
      let out := (List.range e.n).filter (fun n => !listed.contains n)
      let isTrue (n : Nat) : Bool := decide (0 < s.activeTokens ref t' n)
      let isDet (n : Nat) : Bool := decide (0 < s.activeTokens z t' n)
      let s := s.countPredQuiet x 0x302C (out.filter isTrue).length
      let s := s.countPredQuiet x 0x302D (out.filter (fun n => isTrue n && isDet n)).length
      let s := s.countPredQuiet x 0x302E (out.filter (fun n => !isTrue n && isDet n)).length
      { s with step := { s.step with refRecs := setKey x.r.pred x.r.recno s.step.refRecs } }
  | _, _, _, _ => s

/-- What a reference-count record reads: the list and the offsets, then the reference and the estimate (R265, R277). -/
def refReads : Reads where
  named r := [r.desc0, r.desc1, r.desc2].filterMap id ++ (paramDesc r.param2).toList
  spans x s := s.listSpans x x.r.desc1 1 ++ s.offsetSpans x x.r.param2 ++
    interleave [s.tokenSpans x x.r.desc0, s.tokenSpans x x.r.desc2]

/-- `REFERENCE_COUNT` (R277). -/
def execReferenceCount (c : Core) (r : Nat) (s : State) : Result :=
  s.runRecord c r (wantPred 4) refReads refEffect

end Sys2Proof.Machine
end

