-- ==== Sys2Proof/Machine/Copies.lean ====
section
/-! DEFINITION. The stream engines' copies, transpose copies and stash records (R133, R134, R292,
R297 to R301). -/

namespace Sys2Proof.Machine

/-! ### Copies -/

/-- A stream-engine record of a function. -/
def wantStream (f : BitVec 12) (r : Rec) : Bool := r.engine = 5 && r.func = f

/-- The encodings of a tensor's rows, as many of each row as the target of a copy holds. -/
def State.codeRows (s : State) (src tgt : Desc) : List (List Nat × List Nat) :=
  tgt.outers.map (fun o => (o, (List.range (min (src.size 0) (tgt.size 0))).map (fun i => s.code src (i :: o))))

/-- Moves a tensor's bits unchanged, a block-scaled one with its side band (R175, R292). -/
def State.moveBits (s : State) (x : Ctx) (src tgt : Desc) (nt : Nat) : State :=
  let t := s.writeRaw x nt tgt (s.codeRows src tgt)
  match x.rd x.r.desc4, x.wr x.r.desc5 with
  | some (_, a), some (_, b) => (s.codeRows a b).foldl (fun t r =>
      (t.writeCodes b (0 :: r.1) r.2).padSideBand tgt (some b) r.1) t
  | _, _ => t

/-- Sets the sync flag of a masked matrix whose value plane a load record wrote (R292). -/
def State.loadSync (s : State) (p : Plan) (n : Nat) : State :=
  match p.planeOf n with
  | some (_, w, pr) => if w.masked && pr = w.vdesc then s.setSync w.matrix true else s
  | none => s

/-- What a copy record does: it moves bits for a load and for a tile stream, else it converts (R133, R175, R292). -/
def copyEffect (x : Ctx) (_ : QRec) (s : State) : State :=
  match x.rd x.r.desc0, x.wr x.r.desc2 with
  | some (ns, src), some (nt, tgt) =>
    if x.plan.movesBits x.r then
      let s := s.moveBits x src tgt nt
      (if x.plan.isLoadRec x.r then s.loadSync x.plan nt else s).stampPlane x nt
    else
      let sbS := (x.rd x.r.desc4).map Prod.snd
      let sbT := (x.wr x.r.desc5).map Prod.snd
      let rows := tgt.outers.map (fun o => (o, plainElems (s.row src sbS o)))
      let s := s.charge x ns { mismatch := s.mismatches src sbS src.outers }
      (s.writeFinal x nt tgt sbT rows).stampPlane x nt
  | _, _ => s

/-- The descriptors a copy reads. -/
def copyReads : Reads := byRows (fun r => [r.desc0, r.desc4].filterMap id)

/-- `COPY` (R133). -/
def execCopy (c : Core) (r : Nat) (s : State) : Result :=
  s.runRecord c r (wantStream 1) copyReads copyEffect

/-- Exchanges entries 0 and `d` of an index. -/
def swapDims (d : Nat) (idx : List Nat) : List Nat :=
  (idx.set 0 (idx.getD d 0)).set d (idx.getD 0 0)

/-- What a transpose copy does: an element of a block-scaled source passes through `FP32` (R134). -/
def transposeEffect (x : Ctx) (_ : QRec) (s : State) : State :=
  match x.rd x.r.desc0, x.wr x.r.desc2 with
  | some (ns, src), some (nt, tgt) =>
    let d := x.r.param0.toNat % 8
    let sbS := (x.rd x.r.desc4).map Prod.snd
    let sbT := (x.wr x.r.desc5).map Prod.snd
    let elem (idx : List Nat) : Val :=
      let v := s.val src sbS (swapDims d idx)
      if src.fmt.isMx then toF32 v else v
    let rows := tgt.outers.map (fun o =>
      (o, plainElems ((List.range (tgt.size 0)).map (fun i => elem (i :: o)))))
    let s := s.charge x ns { mismatch := s.mismatches src sbS src.outers }
    (s.writeFinal x nt tgt sbT rows).stampPlane x nt
  | _, _ => s

/-- `TRANSPOSE_COPY` (R134). -/
def execTransposeCopy (c : Core) (r : Nat) (s : State) : Result :=
  s.runRecord c r (wantStream 2) copyReads transposeEffect

/-! ### The stash (R297 to R301) -/

/-- `SLOT` of a stash record. -/
def Rec.stashSlot (r : Rec) : Nat := r.param1.toNat % 4096

/-- The detail of a stash event (R326). -/
def stashDetail (x : Ctx) : Bytes := toLe 4 x.r.recno ++ toLe 4 x.r.stashSlot

/-- The codes of an entry, dimension 0 limited to `a`, and what their conversion counts (R298). -/
def State.stashCodes (s : State) (x : Ctx) (src prim : Desc) (a : Nat) : List Nat × Counts :=
  let vals := src.outers.flatMap (fun o => (List.range (min a (src.size 0))).map (fun i => i :: o))
  if x.r.param0.toNat % 16 = 1 then
    (vals.map (fun i =>
      if x.r.param0.toNat / 16 % 4 = 1 then s.code src i
      else if Val.zero.lt (s.val src none i) then 1 else 0), Counts.none)
  else
    let es := vals.map (fun i => prim.fmt.convert prim.sat (s.val src none i))
    (es.map Enc.code, es.foldl (fun c e => c.add e.cnt) Counts.none)

/-- The bytes of an entry: its codes, then free bytes up to a multiple of 64, the same in every run that R7 compares
(R298, log entry 6). -/
def stashBytes (pad : Bytes → Nat → Byte) (w : Nat) (codes : List Nat) : Bytes :=
  let b := packCodes w codes
  b ++ (List.range (ceilDiv b.length 64 * 64 - b.length)).map (pad b)

/-- Writes a directory row (R300). -/
def State.writeDirRow (s : State) (x : Ctx) (dir : Desc) (a : StashAlloc) : State :=
  let kind := x.r.param0.toNat % 16
  s.writeCodes dir [0, a.row]
    ([kind * 16 + (if a.stored then 1 else 2), a.primary, a.off, a.spill, a.count]
      ++ List.replicate 11 0)

/-- What a stash-write record does with the space its issue gave it (R299). -/
def stashWriteEffect (x : Ctx) (q : QRec) (s : State) : State :=
  match x.rd x.r.desc0, x.wr x.r.desc2, x.wr x.r.desc3, x.wr x.r.desc4, q.stash with
  | some (_, src), some (np, prim), some (_, ovf), some (_, dir), some a =>
    if a.stored then
      let (codes, cnt) := s.stashCodes x src prim a.count
      let pad := Config.padByte x.plan.imageDigest s.runSeed x.step x.core.val x.r.recno
      let b := stashBytes pad prim.fmt.bits codes
      let s := s.putBytes (prim.fmt.bits / 8) prim.range.1 (b.take a.primary)
      let s := s.putBytes 1 (ovf.base + x.step % 2 * (ovf.size 0 / 2) + a.off) (b.drop a.primary)
      ((s.charge x np cnt).writeDirRow x dir a).stampPlane x np
    else
      let s := s.writeDirRow x dir a
      s.count x 0x2603 x.core.val 0 1 (s.obj 0x2600 3) 0x4601 (stashDetail x)
  | _, _, _, _, _ => s

/-- What a stash write reads: its list, and the positions of the source that it stores (R298, R299). -/
def stashWriteSpans (x : Ctx) (s : State) : List Span :=
  s.listSpans x x.r.desc1 1 ++
  match x.rd x.r.desc0, (s.qrec x.core x.r.recno).bind QRec.stash with
  | some (n, d), some a => if a.stored then d.outers.map (fun o => d.span n (0 :: o) a.count) else []
  | _, _ => []

/-- The reads of a stash write. -/
def stashWriteReads : Reads :=
  ⟨fun r => [r.desc0, r.desc1].filterMap id, stashWriteSpans⟩

/-- `STASH_WRITE` (R299). -/
def execStashWrite (c : Core) (r : Nat) (s : State) : Result :=
  s.runRecord c r (wantStream 3) stashWriteReads stashWriteEffect

/-- The directory row of a slot in the bank of this step, or of the step before (R299, R301). -/
def stashRow (step slot : Nat) (prev : Bool) : Nat :=
  4096 * ((step + if prev then 1 else 0) % 2) + slot

/-- `STATE` of a directory row: 0 EMPTY, 1 STORED, 2 REGEN (R300). -/
def State.stashState (s : State) (dir : Desc) (row : Nat) : Nat := s.code dir [0, row] % 16

/-- Encoding `i` of a packed byte string. -/
def codeAt (w : Nat) (b : Bytes) (i : Nat) : Nat :=
  fieldAt b (i * w / 8) ((i * w % 8 + w + 7) / 8) / 2 ^ (i * w % 8) % 2 ^ w

/-- A stored entry: its bytes in the primary region, and the address and length of its overflow part (R299, R300). -/
def State.stashParts (s : State) (step row : Nat) (prev : Bool) (ovf dir : Desc) : Nat × Nat × Nat :=
  let half := (step + if prev then 1 else 0) % 2
  (s.code dir [1, row], ovf.base + half * (ovf.size 0 / 2) + s.code dir [2, row], s.code dir [3, row])

/-- What a stash-read record does. -/
def stashReadEffect (x : Ctx) (_ : QRec) (s : State) : State :=
  match x.rd x.r.desc0, x.wr x.r.desc2, x.rd x.r.desc3, x.rd x.r.desc4 with
  | some (_, prim), some (no, out), some (_, ovf), some (_, dir) =>
    let prev := x.r.param0.toNat.testBit 0
    let row := stashRow x.step x.r.stashSlot prev
    if s.stashState dir row ≠ 1 then s.abortWith 0x4602 x.island (stashDetail x)
    else
      let (n, addr, m) := s.stashParts x.step row prev ovf dir
      let b := s.getBytes (prim.fmt.bits / 8) prim.range.1 n ++ s.getBytes 1 addr m
      let a := min (s.code dir [4, row]) (out.size 0)
      (s.writeRaw x no out ((out.outers.zipIdx).map (fun o =>
        (o.1, (List.range a).map (fun i => codeAt out.fmt.bits b (o.2 * a + i)))))).stampPlane x no
  | _, _, _, _ => s

/-- What a stash read reads: the directory row, then the entry's two parts (R301). -/
def stashReadSpans (x : Ctx) (s : State) : List Span :=
  match x.rd x.r.desc0, x.rd x.r.desc3, x.rd x.r.desc4 with
  | some (np, prim), some (no, ovf), some (nd, dir) =>
    let prev := x.r.param0.toNat.testBit 0
    let row := stashRow x.step x.r.stashSlot prev
    let (n, addr, m) := s.stashParts x.step row prev ovf dir
    dir.span nd [0, row] 16 :: (if s.stashState dir row ≠ 1 then []
      else [⟨np, prim.range.1, n, none⟩] ++ if m = 0 then [] else [⟨no, addr, m, none⟩])
  | _, _, _ => []

/-- The reads of a stash read. -/
def stashReadReads : Reads :=
  ⟨fun r => [r.desc0, r.desc3, r.desc4].filterMap id, stashReadSpans⟩

/-- `STASH_READ` (R301). -/
def execStashRead (c : Core) (r : Nat) (s : State) : Result :=
  s.runRecord c r (wantStream 4) stashReadReads stashReadEffect

end Sys2Proof.Machine
end

