-- ==== Sys2Proof/Machine/Transfers.lean ====
section
/-! DEFINITION. What records send to other modules: transfers (R398), and the writes of each stage of a collective
record (R403 to R406). -/

namespace Sys2Proof.Machine

/-! ### Transfers (R398) -/

/-- A transfer ID that no unacknowledged transfer of this module carries (R398). -/
def State.freshXid (s : State) : Nat :=
  ((List.range (s.outbound.length + 1)).map (fun i => (s.nextXid + i) % 65536)).find?
    (fun x => !s.outbound.any (fun o => o.xid = x)) |>.getD s.nextXid

/-- What sends a transfer: a record on its core, with the tags its head carries (R398). -/
structure Sender where
  core : Core
  recno : Nat
  worktag : BitVec 32
  mbtag : BitVec 16
  deriving DecidableEq, Repr

/-- A record as a sender. -/
def Sender.of (c : Core) (r : Rec) : Sender := ⟨c, r.recno, r.worktag, r.mbtag⟩

/-- The checkpoint engine outside any record (R507). -/
def Sender.restore : Sender := ⟨0, 2 ^ 32, 0, 0xFFFF⟩

/-- Sends one contiguous piece of at most 65,536 bytes to another module's memory (R398). -/
def State.sendPiece (s : State) (o : Sender) (version : Nat) (dst : BitVec 16) (a : Nat) (bs : Bytes) : State :=
  let xid := s.freshXid
  let head := toLe 8 a ++ toLe 4 bs.length ++ toLe 4 o.worktag.toNat ++ toLe 2 o.mbtag.toNat ++ [0, 0]
    ++ toLe 8 version
  let s := { s with nextXid := (xid + 1) % 65536, outbound := s.outbound ++ [Outbound.mk dst xid o.core o.recno] }
  let s := s.sendRouted 0x01 true dst (BitVec.ofNat 32 (xid * 65536)) head
  ((chunked 224 bs).zipIdx).foldl (fun s (d, i) =>
    s.sendRouted 0x02 true dst (BitVec.ofNat 32 (xid * 65536 + i)) d) s

/-- Sends a byte string to another module's memory, in pieces (R398). -/
def State.sendWrite (s : State) (o : Sender) (version : Nat) (dst : BitVec 16) (a : Nat) (bs : Bytes) : State :=
  ((chunked 65536 bs).zipIdx).foldl (fun s (d, i) => s.sendPiece o version dst (a + 65536 * i) d) s

/-! ### Collective records (R400 to R406) -/

/-- A collective record of a function. -/
def wantColl (f : BitVec 12) (r : Rec) : Bool := r.engine = 7 && r.func = f

/-- The group of a collective record (R402). -/
def Plan.collGroup (p : Plan) (r : Rec) : Option Group := p.group (r.param0.toNat / 65536)

/-- `⌈log2 n⌉`. -/
def log2Up (n : Nat) : Nat := ((List.range 17).find? (fun k => decide (n ≤ 2 ^ k))).getD 17

/-- Stages of a collective record of a group of `n` (R406): tree levels, or rounds. -/
def collStages (r : Rec) (n : Nat) : Nat := if r.func = 3 then n - 1 else log2Up n

/-- The element of a part at a position; absent where its part holds no segment (R97). -/
def partAt (p : PartIn) (f : Fmt) (e : Nat) : Option Acc :=
  match p.values.getD e none with
  | some w => some ⟨f.decode w.toNat, p.sat.getD e false, p.ovf.getD e false, false⟩
  | none => none

/-- Elements as a part. -/
def partOf (f : Fmt) (l : List (Option Acc)) : PartIn :=
  ⟨0, l.map (fun a => a.map (fun a => BitVec.ofNat 32 (f.convert false a.v).code)),
    l.map (fun a => (a.map Acc.sat).getD false), l.map (fun a => (a.map Acc.ovf).getD false)⟩

/-- This member's own part of an element: its value and status from memory (R97, R146). -/
def State.ownPart (s : State) (src : Desc) (plane : Option Desc) (idx : List Nat) : Acc :=
  let bit (k : Nat) : Bool := match plane with
    | some pl => s.code pl ((2 * idx.headD 0 + k) :: idx.drop 1) = 1
    | none => false
  ⟨src.fmt.decode (s.code src idx), bit 0, bit 1, false⟩

/-- This member's own part of shard `i` of `n`: the leaf of the shard's tree that lies on it (R403). -/
def State.ownShard (s : State) (src : Desc) (plane : Option Desc) (n i : Nat) : PartIn :=
  let z := src.size 1 / max 1 n
  partOf src.fmt ((indexSpace (src.size 0 :: z :: src.sizes.drop 2)).map (fun o =>
    some (s.ownPart src plane (o.headD 0 :: (i * z + o.getD 1 0) :: o.drop 2))))

/-- The first part of the node of shard `i` that lies on member `me` after `k` levels: at level 0 its own part, above
it the part `a` with `(a + i) mod n = me` where the level has a node there (R403). -/
def nodeOn (n me k i : Nat) : Option Nat :=
  if k = 0 then some me
  else
    let a := (me + n - i % n) % n
    if a % 2 ^ k = 0 then some a else none

/-- The node of shard `i` from part `b` that this member holds at level `k`. -/
def State.heldNode (s : State) (x : Ctx) (me n k i b : Nat) (nodes : List Piece) : Option PartIn :=
  if k = 0 then
    if b = me then (x.rd x.r.desc0).map (fun d => s.ownShard d.2 ((x.rd x.r.desc1).map Prod.snd) n i) else none
  else (nodes.find? (fun p => p.shard = i && p.part = b)).map Piece.node

/-- Values and status plane of a node as they are sent: 4 bytes an element, an absent one zero, and two bits an element
(R97, R146; log entry 152). -/
def nodeBytes (p : PartIn) : Bytes × Bytes :=
  (p.values.flatMap (fun v => toLe 4 ((v.map BitVec.toNat).getD 0)),
    packCodes 1 ((p.sat.zip p.ovf).flatMap (fun b => [if b.1 then 1 else 0, if b.2 then 1 else 0])))

/-- What a write of a stage carries: the receiving member, the shard, and the bytes, of a status plane or not. -/
abbrev StageWrite := Nat × Nat × Bool × Bytes

/-- A reduce-scatter's writes of a level: every node this member holds goes to the member that evaluates its parent
(R403). -/
def State.scatterWrites (s : State) (x : Ctx) (me n k : Nat) (nodes : List Piece) : List StageWrite :=
  (List.range n).flatMap (fun i =>
    match nodeOn n me k i with
    | none => []
    | some b =>
      let dst := (b - b % 2 ^ (k + 1) + i) % n
      if dst = me then []
      else match s.heldNode x me n k i b nodes with
        | some p => [(dst, i, false, (nodeBytes p).1), (dst, i, true, (nodeBytes p).2)]
        | none => [])

/-- The stride of a level of an all-gather's binomial trees, the highest first: a member passes on what it holds before
its own children need it (R404; DESIGN CHOICE, log entry 153). -/
def gatherStride (n k : Nat) : Nat := 2 ^ (log2Up n - 1 - k)

/-- An all-gather's writes of a level: every shard this member holds goes to its child of the level (R404). -/
def State.gatherWrites (s : State) (x : Ctx) (me n k : Nat) (nodes : List Piece) : List StageWrite :=
  let d := gatherStride n k
  (List.range n).flatMap (fun i =>
    let j := (me + n - i % n) % n
    if j % (2 * d) = 0 && decide (j + d < n) then
      let b : Option Bytes := if i = me then (x.rd x.r.desc0).map (fun d => s.tensorBytes d.2)
        else (nodes.find? (fun p => p.shard = i)).map Piece.bytes
      match b with
      | some b => [((me + d) % n, i, false, b)]
      | none => []
    else [])

/-- Member `me` passes the shard of member `i` on in some level of an all-gather (R404). -/
def passesOn (n me i : Nat) : Bool :=
  let j := (me + n - i % n) % n
  (List.range (log2Up n)).any (fun k => j % (2 * gatherStride n k) = 0 && decide (j + gatherStride n k < n))

/-- Outer indices of the section for or from member `i`: slots of `EPM` experts (R405). A buffer is by
member (rank 4) or by expert (rank 3). -/
def sectionOuters (byMember : Bool) (cap epm i : Nat) : List (List Nat) :=
  (List.range epm).flatMap (fun e => (List.range cap).map (fun c =>
    if byMember then [c, i, e] else [c, i * epm + e]))

/-- The section of a send buffer for member `i`, packed (R405). -/
def State.sectionFor (s : State) (x : Ctx) (src : Desc) (i : Nat) : Bytes :=
  let p1 := x.r.param1.toNat
  packCodes src.fmt.bits ((sectionOuters (p1.testBit 16) (src.size 1) (p1 % 65536) i).flatMap (fun o =>
    (List.range (src.size 0)).map (fun d => s.code src (d :: o))))

/-- The writes of stage `k` of a collective record: in round `q` of an all-to-all, member `i` sends to member
`(i + q) mod n` (R403 to R405). -/
def State.stageWrites (s : State) (x : Ctx) (me n k : Nat) (nodes : List Piece) : List StageWrite :=
  if x.r.func = 1 then s.scatterWrites x me n k nodes
  else if x.r.func = 2 then s.gatherWrites x me n k nodes
  else
    let dst := (me + k + 1) % n
    match x.rd x.r.desc0 with
    | some (_, src) => [(dst, me, false, s.sectionFor x src dst)]
    | none => []

/-- Sends the writes of stage `k` of a collective record to their members, tagged with the version its data carry
(R291, R398, R404). -/
def State.sendStage (s : State) (x : Ctx) (k : Nat) (nodes : List Piece) : State :=
  match x.plan.collGroup x.r with
  | none => s
  | some g =>
    match g.myIndex with
    | none => s
    | some me =>
      let n := g.members.length
      let version := if x.r.func = 2 && x.r.param1.toNat.testBit 8 then x.step else 0
      if k < collStages x.r n then
        (s.stageWrites x me n k nodes).foldl (fun s (dst, i, status, b) =>
          let node := g.members.getD dst 0
          let a := Config.peerAddr x.plan.imageDigest x.core.val x.r.recno node k i status
          s.sendWrite (Sender.of x.core x.r) version node a.toNat b) s
      else s

/-- The pieces that other members' writes of a stage bring: shard and first part (R403, R404). -/
def stagePieces (r : Rec) (me n k : Nat) : List (Nat × Nat) :=
  if r.func = 1 then
    (List.range n).flatMap (fun i =>
      match nodeOn n me (k + 1) i with
      | none => []
      | some a => ([a, a + 2 ^ k].filter (fun b => decide (b < n) &&
          (if k = 0 then b ≠ me else (b + i) % n ≠ me))).map (fun b => (i, b)))
  else if r.func = 2 then
    let d := gatherStride n k
    ((List.range n).filter (fun i => ((me + n - i % n) % n) % (2 * d) = d)).map (fun i => (i, 0))
  else []

/-- What another member sends in a stage, the node of a shard or the shard: its bytes are free (log entry 23). -/
def State.peerPiece (s : State) (x : Ctx) (n k : Nat) (w : Nat × Nat) : Piece :=
  match x.rd x.r.desc0 with
  | none => ⟨w.1, w.2, ⟨0, [], [], []⟩, []⟩
  | some (_, src) =>
    if x.r.func = 1 then
      let l := (List.range (src.elems / max 1 n)).map
        (Config.peerElem x.plan.imageDigest s.runSeed x.step x.core.val x.r.recno k w.1 w.2)
      ⟨w.1, w.2, ⟨0, l.map Prod.fst, l.map (fun v => v.2.1), l.map (fun v => v.2.2)⟩, []⟩
    else
      ⟨w.1, w.2, ⟨0, [], [], []⟩, (List.range (ceilDiv (src.elems * src.fmt.bits) 8)).map
        (Config.peerByte x.plan.imageDigest s.runSeed x.step x.core.val x.r.recno w.1)⟩

/-- The nodes of the next level that lie on this member, each the sum of its two children (R95, R403). -/
def State.nextNodes (s : State) (x : Ctx) (me n k : Nat) (held got : List Piece) : List Piece :=
  let f : Fmt := ((x.rd x.r.desc0).map (fun d => d.2.fmt)).getD .fp32
  (List.range n).flatMap (fun i =>
    match nodeOn n me (k + 1) i with
    | none => []
    | some a =>
      let child (b : Nat) : Option PartIn :=
        match got.find? (fun p => p.shard = i && p.part = b) with
        | some p => some p.node
        | none => s.heldNode x me n k i b held
      match child a, (if a + 2 ^ k < n then child (a + 2 ^ k) else none) with
      | some l, some r => [⟨i, a, partOf f ((List.range l.values.length).map (fun e =>
          addOpt (f = .int32s) (partAt l f e) (partAt r f e))), []⟩]
      | some l, none => [⟨i, a, l, []⟩]
      | none, some r => [⟨i, a, r, []⟩]
      | none, none => [])

/-- What a member holds after a stage, with what the other members send in it. -/
def State.afterStage (s : State) (x : Ctx) (me n k : Nat) (held : List Piece) : List Piece :=
  let got := (stagePieces x.r me n k).map (s.peerPiece x n k)
  if x.r.func = 1 then s.nextNodes x me n k held got else held ++ got

end Sys2Proof.Machine
end

