-- ==== Sys2Proof/Machine/Feeds.lean ====
section
/-! DEFINITION. Feeds: what the stream engines read for a record, in which pieces and in which order, and the landing of
those reads (R354, R356, R357, R373, R379, R380). -/

namespace Sys2Proof.Machine

/-! ### What a record reads (R357) -/

/-- The indices of dimension 1 that a prefetch brings in: those of its list, or all (R379); `none` where the list is
malformed. -/
def State.prefetchRows (s : State) (x : Ctx) (d : Desc) : Option (List Nat) :=
  match x.rd x.r.desc4 with
  | none => some (List.range (d.size 1))
  | some (_, l) => s.activeList l (d.size 1)

/-- What a prefetch reads: its list, then the rows it brings in (R379). -/
def prefetchSpans (x : Ctx) (s : State) : List Span :=
  s.listSpans x x.r.desc4 1 ++
  match x.rd x.r.desc0 with
  | none => []
  | some (n, d) =>
    let outers := if d.sizes.length ≤ 1 then [[]]
      else (indexSpace (d.sizes.drop 2)).flatMap (fun o => ((s.prefetchRows x d).getD []).map (fun j => j :: o))
    outers.map (fun o => d.span n (0 :: o) (d.size 0))

/-- The reads of a prefetch. -/
def prefetchReads : Reads := ⟨fun r => [r.desc0, r.desc4].filterMap id, prefetchSpans⟩

/-- What a record reads through its feed, by its engine and function (R356, R357). -/
def State.recReads (s : State) (r : Rec) : Reads :=
  match r.engine.val, r.func.toNat with
  | 1, 2 => blkReads
  | 1, _ => denseReads
  | 2, 0x01 => spReads .brt
  | 2, 0x02 => spReads .csr
  | 2, 0x03 => sampledReads
  | 2, 0x10 => gatherRecReads
  | 2, 0x11 => scatterReads
  | 2, 0x20 => dispatchReads
  | 2, 0x21 => combineReads
  | 3, 0x05 => byRows (fun _ => [])
  | 3, 0x10 => optReads
  | 3, 0x11 => composeReads
  | 3, _ => vuReads
  | 4, 1 => predictReads
  | 4, 2 => checkReads
  | 4, 3 => mergeReads
  | 4, 4 => refReads
  | 5, 1 => copyReads
  | 5, 2 => copyReads
  | 5, 3 => stashWriteReads
  | 5, 4 => stashReadReads
  | 5, 5 => prefetchReads
  | 6, 1 => scoreReads
  | 6, 2 => selectReads
  | 6, 3 => if r.rmode then convertReads else applyReads
  | 6, 4 => commitReads
  | 6, 5 => s.syncReads
  | _, _ => byRows (fun _ => [])

/-! ### Pieces (R331, R354, R357) -/

/-- Whole 64-byte granules of a span. -/
def Span.granules (y : Span) : Span :=
  { y with addr := y.addr / 64 * 64, len := ceilDiv (y.addr + y.len) 64 * 64 - y.addr / 64 * 64 }

/-- Joins spans that follow each other in one tensor, and in one tile of a chain, with no gap (R357). -/
def joinSpans : List Span → List Span
  | [] => []
  | a :: rest =>
    match joinSpans rest with
    | [] => [a]
    | b :: bs =>
      if a.desc = b.desc && a.pass = b.pass && decide (a.addr ≤ b.addr) && decide (b.addr ≤ a.addr + a.len) then
        { a with len := max (a.addr + a.len) (b.addr + b.len) - a.addr } :: bs
      else a :: b :: bs

/-- The parts of a span that lie in one 2 KiB row each: their first addresses. -/
def Span.rows (y : Span) : List Nat :=
  if y.len = 0 then []
  else (List.range ((y.addr + y.len - 1) / 2048 + 1 - y.addr / 2048)).map (fun i =>
    max y.addr ((y.addr / 2048 + i) * 2048))

/-- Marks each read of a line that no later read of the list meets (R337). -/
def lastReads : List Read → List Read × List Nat
  | [] => ([], [])
  | r :: rest =>
    let (l, seen) := lastReads rest
    let k := r.addr / 2048
    if seen.contains k then ({ r with last := false } :: l, seen) else ({ r with last := true } :: l, k :: seen)

/-- The reads of a feed, in the order it makes them: what lies in HBM or the die-shared area, in pieces of up to 2 KiB
that cross no 2 KiB row, each with its descriptor's hint (R132, R356, R357). -/
def Plan.feedReads (p : Plan) (l : List Span) : List Read :=
  let hint (n : Nat) : Hint := ((p.descAt n).map Desc.hint).getD .normal
  let fed := l.filter (fun y => decide (0 < y.len) && fedAddr y.addr)
  (lastReads ((joinSpans (fed.map Span.granules)).flatMap (fun y =>
    y.rows.map (fun a => ⟨a, hint y.desc, false, y.pass⟩)))).1

/-- A feed writes: some tensor the record writes lies in HBM or the die-shared area (R356). -/
def Plan.feedWrites (p : Plan) (r : Rec) (step : Nat) : Bool :=
  (r.writes p).any (fun n => match p.descAt (p.resolveWrite step n) with
    | some d => fedAddr d.range.1 || fedAddr d.range.2
    | none => false)

/-- A record takes its credits, and its feed's reads begin (R366, R370). -/
def State.openFeed (s : State) (p : Plan) (c : Core) (rc : Rec) (reqs : List (Nat × Nat)) : State :=
  match s.qrec c rc.recno with
  | none => s
  | some q =>
    let x := s.ctx p c rc q
    let reads := s.recReads rc
    let l := if reqs.isEmpty then [] else p.feedReads (x.takes reads s)
    let n := x.chainTiles reads s
    s.modQRec c rc.recno (fun q =>
      { q with phase := .granted, credits := reqs, reads := l, chainTiles := n
               feedWrites := !reqs.isEmpty && p.feedWrites rc s.step.current })

/-! ### Landing (R132, R337, R380) -/

/-- The effect of a read on its die's cache: a line that a record reads with `LAST` goes with its last read (R337). -/
def State.landRead (s : State) (c : Core) (r : Read) : State :=
  s.cacheRead (coreDie c) (if r.hint = .last && !r.last then .stream else r.hint) r.addr

/-- Counts one discarded read of a core's die, and lets a cancelled record end with its last (R380). -/
def State.discardRead (s : State) (c : Core) (r : Nat) : State :=
  let s := s.addObj 0x303F (coreDie c).val 1
  s.modQRec c r (fun q =>
    let l := q.reads.drop 1
    { q with reads := l, phase := if l.isEmpty then .executed else q.phase })

/-- Every read of a record's feed that has not landed lands. -/
def State.landAll (s : State) (c : Core) (r : Nat) : State :=
  match s.qrec c r with
  | none => s
  | some q => (q.reads.foldl (fun s x => s.landRead c x) s).modQRec c r (fun q => { q with reads := [] })

/-! ### Prefetch and cancel (R378 to R381) -/

/-- What a prefetch does once the lines its feed has read are in the die's cache (R379). -/
def prefetchEffect (x : Ctx) (_ : QRec) (s : State) : State :=
  match x.rd x.r.desc0 with
  | none => s
  | some (_, d) => if (s.prefetchRows x d).isNone then s.badList x else s

/-- `PREFETCH` (R379): the reads still under way land, and the record has executed. -/
def execPrefetch (c : Core) (r : Nat) (s : State) : Result :=
  match s.plan, s.qrec c r with
  | some p, some q =>
    match p.recAt c r with
    | some rc =>
      if s.awake && s.step.status = .running && q.phase = .started && !q.tagInvalid && wantStream 5 rc then
        (s.landAll c r).runRecord c r (wantStream 5) prefetchReads prefetchEffect
      else .next s
    | none => .next s
  | _, _ => .next s

/-- Invalidates the work tag of a prefetch in flight: it issues no further read, and ends with its
last read in flight (R380). -/
def QRec.cancel (q : QRec) : QRec :=
  let l := if q.phase = .issued then [] else q.reads.take 32
  { q with tagInvalid := true, reads := l, phase := if l.isEmpty then .executed else q.phase }

/-- A record in flight is a prefetch under a work tag, whose last read has not landed (R381). -/
def Plan.isPrefetch (p : Plan) (c : Core) (tag : BitVec 32) (q : QRec) : Bool :=
  match p.recAt c q.recno with
  | some r => wantStream 5 r && r.worktag = tag && q.phase ≠ .executed && (q.phase = .issued || !q.reads.isEmpty)
  | none => false

end Sys2Proof.Machine
end

