-- ==== Sys2Proof/Machine/Sparing.lean ====
section
/-! DEFINITION. Sparing a physical core: staging, copy and commit of the core map (R16, R17, R28, R499,
R500). -/

namespace Sys2Proof.Machine

/-- Base of a physical core's store (R19). -/
def coreStore (p : Nat) : Nat := dieBase (p / 13) + p % 13 * 0x6000000

/-- Bytes of a core store (R19). -/
def coreStoreSize : Nat := 0x6000000

/-- The spare a logical core's die can still give: unused, and not taken by another sparing (R16, R500). -/
def State.spareFree (s : State) (c : Core) : Option Phys :=
  if s.sparing.any (fun x => coreDie x.logical = coreDie c) then none else s.spares[coreDie c]

/-- Fences the core's island and starts the copy of its store (R28, R499). -/
def State.startSpare (s : State) (x : Sparing) : State :=
  { s.setIsland x.physical.val .fenced with
    sparing := s.sparing.map (fun y => if y.logical = x.logical then { y with startGc := some s.gc.value } else y) }

/-- Starts every scheduled sparing once the module has completed its step and has not contributed to
the agreement (R499). -/
def State.startScheduled (s : State) : State :=
  if s.step.status = .running || s.agree.contributed || s.agree.decided.isSome then s
  else (s.sparing.filter (fun x => x.startGc.isNone)).foldl State.startSpare s

/-- No spare is left for a core with a lasting fault: the plan cannot run (R500). -/
def State.cannotSpare (s : State) (c : Core) : State :=
  let s := (s.event 0x2503 (s.physOf c).val (toLe 1 c.val ++ toLe 1 (s.physOf c).val)).setObj 0x2600 4 0
  ({ s with planStuck := true }).driveFault

/-- A core with a lasting fault is spared at once, where its die has a spare (R499, R500). -/
def State.spareLasting (s : State) (c : Core) : State :=
  match s.sparing.find? (fun x => x.logical = c) with
  | some x => if x.startGc.isNone then s.startSpare x else s
  | none =>
    match s.spareFree c with
    | none => s.cannotSpare c
    | some sp =>
      let x : Sparing := ⟨c, s.physOf c, sp, none, false, 1⟩
      State.startSpare { s with sparing := s.sparing ++ [x] } x

/-- Schedules a pre-emptive or requested sparing (R497, R499). -/
def State.scheduleSpare (s : State) (c : Core) (cause : Nat) : State :=
  if s.sparing.any (fun x => x.logical = c) then s
  else
    match s.spareFree c with
    | none => s
    | some sp =>
      let x : Sparing := ⟨c, s.physOf c, sp, none, false, cause⟩
      State.startScheduled { s with sparing := s.sparing ++ [x] }

/-- The logical core a physical core serves. -/
def State.logicalOf (s : State) (p : Nat) : Option Core := (indices 48).find? (fun c => (s.physOf c).val = p)

/-- Shows the sum of a core's sixty one-minute bins, and schedules its sparing at the limit (R497). -/
def State.checkTransients (s : State) (p : Nat) : State :=
  let sum := ((lookupKey p s.transientBins).getD []).foldl (· + ·) 0
  let s := s.setObj 0x5031 p sum
  let limit := s.obj 0x5030 0
  if limit = 0 || sum < limit then s
  else match s.logicalOf p with
    | some c => s.scheduleSpare c 2
    | none => s

/-- Counts a class-0x1 event of a record that ran on a physical core (R497). -/
def State.noteTransient (s : State) (p : Nat) : State :=
  let b := (lookupKey p s.transientBins).getD []
  ({ s with transientBins := setKey p ((b.headD 0 + 1) :: b.drop 1) s.transientBins }).checkTransients p

/-- An address lies in an allocation that holds persistent state: weights with their versions, low
halves and moments, masks, or checkpoints (R55, R340). -/
def Plan.persistentAt (p : Plan) (a : Nat) : Bool :=
  let descs := (p.weightSets.flatMap (fun w => w.verdesc :: w.buffered)).filterMap p.descAt
  let ranges := descs.map Desc.range
  let ranges := match p.ckpt with
    | some k => ranges ++ [(k.localBase, k.localBase + 2 * k.slotBytes - 1),
                           (k.wardBase, k.wardBase + 2 * k.slotBytes - 1)]
    | none => ranges
  p.allocs.any (fun al => decide (al.base ≤ a) && decide (a < al.base + al.len) &&
    ranges.any (fun r => decide (r.1 < al.base + al.len) && decide (al.base ≤ r.2)))

/-- The device addresses of a physical address that an allocation may name (R19, R20). -/
def State.aliases (s : State) (a : Nat) : List Nat :=
  if a < 0x6000000000 then [a]
  else
    let o := (a - 0x10000000000) % 0x60000000
    let p := (a - 0x10000000000) / 0x60000000 * 13 + o / 0x6000000
    match s.logicalOf p with
    | some c => if o / 0x6000000 < 13 then [a, 0x20000000000 + c.val * 0x8000000 + o % 0x6000000] else [a]
    | none => [a]

/-- Lost data in an allocation that holds persistent state needs a replay (R340). -/
def State.lostData (s : State) (a : Nat) : State :=
  match s.plan with
  | none => s
  | some p => if (s.aliases a).any p.persistentAt then s.setObj 0x2600 4 0 else s

/-- Copies `[src, src + n)` of a list keyed by address to `[dst, dst + n)`, replacing what was there. -/
def copyCells {β : Type} (src dst n : Nat) (l : List (Nat × β)) : List (Nat × β) :=
  let inside (a : Nat) (k : Nat) : Bool := decide (a ≤ k) && decide (k < a + n)
  let moved := (l.filter (fun e => inside src e.1)).map (fun e => (e.1 - src + dst, e.2))
  l.filter (fun e => decide (e.1 < dst)) ++ moved ++ l.filter (fun e => decide (dst + n ≤ e.1))

/-- `SPARE_COPY_DONE` (R499): the copy of 49,152 ticks has ended; poison moves with its words. -/
def execSpareCopyDone (l : Core) (s : State) : Result :=
  match s.sparing.find? (fun x => x.logical = l) with
  | none => .next s
  | some x =>
    match x.startGc with
    | none => .next s
    | some t =>
      if !s.awake || x.copied || decide (s.gc.value < t + 49152) then .next s
      else
        let a := coreStore x.physical.val
        let b := coreStore x.spare.val
        let s := (s.poison.filter (fun w => decide (a ≤ w) && decide (w < a + coreStoreSize))).foldl
          State.lostData s
        .next { s with
          mem := copyCells a b coreStoreSize s.mem
          poison := (copyCells a b coreStoreSize (s.poison.map (fun w => (w, ())))).map Prod.fst
          sparing := s.sparing.map (fun y => if y.logical = l then { y with copied := true } else y) }

/-- A sparing copy runs or is still to start: the module does not contribute (R499). -/
def State.sparingBusy (s : State) : Bool := s.sparing.any (fun x => !x.copied)

/-- Writes that arrive for a core store under a sparing are held at the die fabric (R499). -/
def State.holdsWrite (s : State) (a : Nat) : Bool :=
  s.sparing.any (fun x => x.startGc.isSome &&
    decide (0x20000000000 + x.logical.val * 0x8000000 ≤ a) &&
    decide (a < 0x20000000000 + (x.logical.val + 1) * 0x8000000))

/-- Commits one sparing: the map changes, the old core reads FAILED and the spare RUN (R17, R499). -/
def State.commitSpare (s : State) (x : Sparing) : State :=
  let s := { s with coreMap := s.coreMap.set x.logical x.spare
                    spares := s.spares.set (coreDie x.logical) none }
  let s := (s.setIsland x.physical.val .failed).setIsland x.spare.val .run
  s.mgmtEvent 0x2501 (toLe 1 x.logical.val ++ toLe 1 x.physical.val ++ toLe 1 x.spare.val
    ++ toLe 1 x.cause)

/-- Commits every copied sparing at a launch and delivers the held writes through the new map (R446,
R499). -/
def State.commitSpares (s : State) : State :=
  let due := s.sparing.filter Sparing.copied
  if due.isEmpty then s
  else
    let s := due.foldl State.commitSpare { s with sparing := s.sparing.filter (fun x => !x.copied) }
    s.heldWrites.foldl (fun s w => s.writeRun w.1 w.2) { s with heldWrites := [] }

end Sys2Proof.Machine
end

