-- ==== Sys2Proof/Machine/Sequencer.lean ====
section
/-! DEFINITION. The core sequencers: issue, credits, data, completion, tallies and signals, gates and
the end of a step (R47 to R54, R234, R266, R302, R365 to R381). -/

namespace Sys2Proof.Machine

/-! ### Queues -/

/-- The arrays a dense record names. -/
def Rec.arrays (r : Rec) : List (Fin 4) := (indices 4).filter (fun a => r.units.toNat.testBit a.val)

/-- The quarter whose queue a partition uses (R156). -/
def Rec.quarter (r : Rec) : Fin 4 :=
  if r.part = 0 then 0 else if r.part = 1 then (if r.pidx = 0 then 0 else 2) else r.pidx

/-- The queues a record is enqueued in (R51, R156, R236, R400). -/
def Rec.queues (r : Rec) : List QueueId :=
  match r.engine.val with
  | 0 => [.csq]
  | 1 => r.arrays.map (fun a => .da a r.quarter)
  | 2 => [.se]
  | 3 => [.vu]
  | 4 => [.pu]
  | 5 => [.st]
  | 6 => if r.func = 2 || (r.func = 3 && !r.rmode) then [.me, .vu] else [.me]
  | _ => [.ce r.ceng]

/-- A queue has a free entry of its four (R51). A record keeps its entry until it completes, its remote writes
acknowledged, as the entries of a rebuild are kept until then (R48, R236; for other records DESIGN CHOICE, log entry
165). -/
def CoreState.queueFree (k : CoreState) (i : QueueId) : Bool :=
  decide ((k.inflight.filter (fun q => q.queues.contains i)).length < 4)

/-- Records of the queue before `r` in issue order. -/
def CoreState.ahead (k : CoreState) (q : QRec) : List QRec :=
  (k.inflight.takeWhile (fun x => x.recno ≠ q.recno)).filter (fun x =>
    x.queues.any (fun i => q.queues.contains i))

/-! ### Signals (R45, R47 to R50) -/

/-- The 8 bytes of a signal entry (R45). -/
def Signal.bytes (g : Signal) : Bytes :=
  toLe 8 (g.scope.val * 2 ^ 62 + g.node.toNat * 2 ^ 46 + g.core.val * 2 ^ 40 + g.tally.val * 2 ^ 34
    + g.inc)

/-- Sends one signal with the step's number (R49). -/
def State.sendSignal (s : State) (c : Core) (g : Signal) : State :=
  let put (t : Core) : State :=
    { s with signals := s.signals ++ [⟨t, g.tally, g.inc, s.step.current, (s.physOf c).val⟩] }
  if g.scope = 0 then put c
  else if g.scope = 1 then (if h : g.core.val < 48 then put ⟨g.core.val, h⟩ else s)
  else s.sendRouted 0x04 false g.node 0 (toLe 8 s.step.current ++ g.bytes)

/-- Sends a record's signals (R48). -/
def State.sendSignals (s : State) (c : Core) (r : Rec) : State :=
  r.sigs.foldl (fun s g => s.sendSignal c g) s

/-- Adds to a tally; an increment beyond 32 bits aborts the step (R47). -/
def State.addTally (s : State) (c : Core) (t : Fin 64) (inc : Nat) : State :=
  if s.cores[c].tallies[t] + inc > 0xFFFFFFFF then s.abortWith 0x4102 (s.physOf c).val []
  else s.modCore c (fun k => { k with tallies := vmodify k.tallies t (· + inc) })

/-- The step after the current one; before the first launch, the step to be launched. -/
def State.nextStep (s : State) : Nat :=
  if s.step.launched then s.step.current + 1 else s.obj 0x2A04 1

/-- A signal reaches its target core (R50); the fenced crossing of a core that is mapped out delivers nothing, and
answers its sender with an error (R28).
A signal of the current step counts whatever the step's state: what an abort has cleared stays without effect, as the
next launch zeroes the tallies (R47, R55). -/
def State.applySignal (s : State) (sender : Nat) (c : Core) (t : Fin 64) (inc step : Nat) : State :=
  if s.isFenced (s.physOf c).val then s.fenceHit sender (s.physOf c).val
  else if s.step.launched && step = s.step.current then s.addTally c t inc
  else if step = s.nextStep then
    if s.cores[c].held.length < 64 then
      s.modCore c (fun k => { k with held := k.held ++ [(step, t, inc)] })
    else
      ({ s with step := { s.step with nextAborts := true } }).event 0x4104 (s.physOf c).val []
  else s.event 0x4103 (s.physOf c).val []

/-- `SIGNAL_ARRIVAL` (R50): the `k`-th signal under way on the die fabric arrives. -/
def execSignalArrival (k : Nat) (s : State) : Result :=
  match s.awake, s.signals[k]? with
  | true, some m =>
    .next (({ s with signals := s.signals.eraseIdx k }).applySignal m.sender m.core m.tally m.inc m.step)
  | _, _ => .next s

/-! ### Credits (R361 to R367) -/

/-- The credits of a pool (R361, R362). -/
def Plan.poolCredits (p : Plan) (n : Nat) : Nat :=
  if n < 48 then 5 else if n < 52 then 4 else ((p.pools[n - 64]?).map Pool.credits).getD 0

/-- Credits of a pool that a record in flight still holds. A thread credit returns once the feed has completed its last
read and its last write, every credit of a cancelled record once its last read in flight has landed (R367). -/
def QRec.holds (q : QRec) (pool : Nat) : Nat :=
  if q.reads.isEmpty && (q.tagInvalid || (decide (pool < 64) && (q.phase = .executed || !q.feedWrites))) then 0
  else ((q.credits.filter (fun r => r.1 = pool)).map Prod.snd).foldl (· + ·) 0

/-- Free credits of a pool (R366): none of those that a record, aborted ones with reads in flight included, still holds
(R367). -/
def State.poolFree (s : State) (p : Plan) (pool : Nat) : Nat :=
  let held := (indices 48).foldl (fun a c =>
    a + (s.cores[c].inflight ++ s.cores[c].landing).foldl (fun a q => a + q.holds pool) 0) 0
  let chained := ((s.chainHeld.filter (fun h => h.pool = pool)).map ChainHold.credits).foldl (· + ·) 0
  p.poolCredits pool - held - chained

/-- The fewest free credits of every pool over a step: all of them for a pool that the step did not use (R382). -/
def Plan.poolLows (p : Plan) (low : List (Nat × Nat)) : List (Nat × Nat) :=
  (List.range 52 ++ (List.range p.pools.length).map (64 + ·)).map (fun n =>
    (n, (lookupKey n low).getD (p.poolCredits n)))

/-- A record is its queues' requester: nothing before it still waits for credits (R365). -/
def CoreState.requester (k : CoreState) (q : QRec) : Bool :=
  q.phase = .issued && (k.ahead q).all (fun x => x.phase ≠ .issued)

/-- The descriptors' sheaves of a record are resident in its stream engine (R358). -/
def State.sheavesIn (s : State) (p : Plan) (c : Core) (r : Rec) : Bool :=
  (r.named p).all (fun n => (s.sheaves[coreEngine c]).contains (n / 64))

/-- A record of the plan in force asks for credits: one with no need entry acquires nothing (R363). -/
def State.asksCredits (s : State) (c : Core) (r : Nat) : Bool := (s.plan.bind (fun p => p.needOf c r)).isSome

/-- Starts the wait of every requester of a core that asks for credits (R363, R366). -/
def State.markWaits (s : State) (c : Core) : State :=
  let k := s.cores[c]
  s.modCore c (fun k' => { k' with inflight := k'.inflight.map (fun q =>
    if k.requester q && q.waitSince.isNone && s.asksCredits c q.recno then { q with waitSince := some s.gc.value }
    else q) })

/-- A requester that waits on a pool stands before another in its wait order (R366). -/
def State.before (s : State) (p : Plan) (pool : Nat) (c : Core) (q : QRec) : Bool :=
  let key := (q.waitSince.getD 0, c.val, q.recno)
  let lt (a b : Nat × Nat × Nat) : Bool :=
    decide (a.1 < b.1) || (a.1 = b.1 && (decide (a.2.1 < b.2.1) || (a.2.1 = b.2.1 && decide (a.2.2 < b.2.2))))
  (indices 48).any (fun d =>
    let k := s.cores[d]
    k.inflight.any (fun x => k.requester x &&
      (match p.needOf d x.recno with
       | some n => n.reqs.any (fun r => r.1 = pool)
       | none => false) && lt (x.waitSince.getD 0, d.val, x.recno) key))

/-- Records the fewest free credits of a pool in the step, and grants that waited (R382). -/
def State.notePool (s : State) (p : Plan) (pool : Nat) (waited : Bool) : State :=
  let free := s.poolFree p pool
  let low := min free ((lookupKey pool s.step.poolLow).getD (p.poolCredits pool))
  { s with step := { s.step with poolLow := setKey pool low s.step.poolLow
                                 poolWaited := addKey pool (if waited then 1 else 0) s.step.poolWaited } }

/-! ### Starting (R53, R458) -/

/-- A record waits for operand data before it starts (R53): it reads some. A no-operation and a gate read none through a
feed, nor does a dropout mask, a cancel, a sync whose flag is clear (R249) or a shard verification. -/
def State.readsData (s : State) (r : Rec) : Bool :=
  match r.engine.val with
  | 0 => false
  | 3 => r.func ≠ 5
  | 5 => r.func ≠ 6
  | 6 => r.func ≠ 5 || s.syncFlags.contains r.matrix
  | 8 => r.func = 1
  | _ => true

/-- The island of an engine that several cores share, and how many records it runs at once: the mask engine of a die
one, a collective engine 16 (R236, R400). -/
def sharedEngine (c : Core) (r : Rec) : Option (Nat × Nat) :=
  match r.engine.val with
  | 6 => some (0x7C + (coreDie c).val, 1)
  | 7 | 8 => some (0x84 + r.ceng.val, 16)
  | _ => none

/-- Records that run on a shared engine (R236, R400). -/
def State.runningOn (s : State) (p : Plan) (island : Nat) : Nat :=
  (indices 48).foldl (fun a c => a + (s.cores[c].inflight.filter (fun q => q.phase = .started &&
    (match p.recAt c q.recno with
     | some r => (sharedEngine c r).any (fun e => e.1 = island)
     | none => false))).length) 0

/-- A record's engine has room to run it (R236, R400). -/
def State.engineRoom (s : State) (p : Plan) (c : Core) (r : Rec) : Bool :=
  match sharedEngine c r with
  | some (i, n) => decide (s.runningOn p i < n)
  | none => true

/-- Notes the record last started on an engine's island (R512). -/
def State.noteStart (s : State) (c : Core) (r : Rec) : State :=
  { s with lastStarted := setKey (s.engineIsland c r) r.recno s.lastStarted }

/-- What follows the start of a record: a shared engine's rotating order moves past its core, and the writes of a
collective record's first stage begin (R236, R400, R406, R512). -/
def State.started (s : State) (p : Plan) (c : Core) (r : Rec) (q : QRec) : State :=
  let s := s.noteStart c r
  let s := match sharedEngine c r with
    | some (i, _) => { s with rotor := setKey i ((c.val + 1) % 48) s.rotor }
    | none => s
  if r.engine = 7 then s.sendStage (s.ctx p c r q) 0 [] else s

/-- The first RETIRED slot a record names (R458). -/
def State.retiredSlot (s : State) (p : Plan) (r : Rec) : Option (Nat × Nat) :=
  (p.slotsNamed r).find? (fun w => s.slotFlag p w = 3)

/-- The detail of event 0x4A01: window and slot. -/
def slotDetail (w : Nat × Nat) : Bytes := toLe 1 w.1 ++ toLe 4 w.2

/-- Starts one record when its conditions hold (R53): the one before it in each queue has executed, which frees the
engine, while it may still wait for acknowledgements (DESIGN CHOICE, log entry 165); one that waits and names a slot the host has retired aborts
the step (R458). -/
def State.tryStart (s : State) (p : Plan) (c : Core) (recno : Nat) : State :=
  match s.qrec c recno, p.recAt c recno with
  | some q, some r =>
    let waits := q.phase = .issued || q.phase = .granted
    match if waits then s.retiredSlot p r else none with
    | some w => s.abortWith 0x4A01 (s.physOf c).val (slotDetail w)
    | none =>
      if q.phase = .granted && (q.arrived || !s.readsData r) && (s.cores[c].ahead q).all (fun x => x.phase = .executed)
          && s.engineRoom p c r then
        if (p.slotsNamed r).all (fun w => s.slotFlag p w = 2) then
          (s.modQRec c recno (fun q => { q with phase := .started, startedGc := s.gc.value })).started p c r q
        else if q.slotWaited then s
        else (s.modQRec c recno (fun q => { q with slotWaited := true })).addObj 0x304B 0 1
      else s
  | _, _ => s

/-- The cores in the rotating order of a shared engine (R236, R400). -/
def State.rotation (s : State) (island : Nat) : List Core :=
  let k := (lookupKey island s.rotor).getD 0
  (indices 48).drop k ++ (indices 48).take k

/-- Starts the records of a core that a condition picks out. -/
def State.startCore (s : State) (p : Plan) (c : Core) (pick : Rec → Bool) : State :=
  (s.cores[c].inflight.map QRec.recno).foldl (fun s r =>
    if (p.recAt c r).any pick then s.tryStart p c r else s) s

/-- Starts every record of every core whose conditions hold: those of a core's own engines, then those of each shared
engine in its rotating order (R53, R236, R400). -/
def State.startAll (s : State) : State :=
  match s.plan with
  | none => s
  | some p =>
    if s.step.status ≠ .running then s
    else
      let s := (indices 48).foldl (fun s c => s.startCore p c (fun r => (sharedEngine c r).isNone)) s
      [0x7C, 0x7D, 0x7E, 0x7F, 0x84, 0x85].foldl (fun s i =>
        (s.rotation i).foldl (fun s c =>
          s.startCore p c (fun r => (sharedEngine c r).any (fun e => e.1 = i))) s) s

/-- What follows any change of the queues of a core: waits begin and records start. -/
def State.settle (s : State) (c : Core) : State := (s.markWaits c).startAll

/-! ### Issue (R51) -/

/-- The running step is a mask step (R234). -/
def State.maskStep (s : State) (p : Plan) : Bool :=
  p.masked && decide (0 < p.maskPeriod) && s.step.current % p.maskPeriod = 0

/-- The running step is a reference step (R266). -/
def State.refStep (s : State) (p : Plan) : Bool :=
  decide (0 < p.refPeriod) && s.step.current % p.refPeriod = 0

/-- The running step carries a checkpoint (R502). -/
def State.ckptStep (s : State) (p : Plan) : Bool :=
  decide (0 < p.ckptPeriod) && s.step.current % p.ckptPeriod = 0

/-- A record does not run in the step: a mask record, a reference record or a checkpoint record of another
kind of step (R234, R266, R502). -/
def State.outOfStep (s : State) (p : Plan) (r : Rec) : Bool :=
  (r.mbtag = 0xFFFF && !s.maskStep p)
    || (decide (0x8000 ≤ r.mbtag.toNat) && r.mbtag ≠ 0xFFFF && !s.refStep p)
    || (r.engine = 8 && !s.ckptStep p)

/-- A record is treated as completed at issue (R234, R266, R302, R502). -/
def State.doneAtIssue (s : State) (p : Plan) (c : Core) (r : Rec) : Bool :=
  decide (0 < s.cores[c].skip) || s.outOfStep p r

/-- A core whose records are all complete has reported `core_done` (R51). -/
def State.checkDone (s : State) (c : Core) : State :=
  s.modCore c (fun k => { k with done := k.done || (k.ended && k.inflight.isEmpty) })

/-- A core moves past a record it has issued. -/
def CoreState.pass (k : CoreState) (r : Rec) : CoreState :=
  { k with next := k.next + 1, last := r.recno, ended := k.ended || r.endstep,
           skip := k.skip - 1, sense0 := k.sense0 - 1 }

/-- Every array a dense record names is in the record's partition mode, or is idle (R156). -/
def CoreState.modeOk (k : CoreState) (r : Rec) : Bool :=
  r.arrays.all (fun a => k.daModes[a] = r.part) ||
    r.arrays.all (fun a => !k.inflight.any (fun q => q.queues.any (fun i => match i with
      | .da b _ => b = a
      | _ => false)))

/-- Sets the partition mode of the arrays a record names. -/
def CoreState.setMode (k : CoreState) (r : Rec) : CoreState :=
  { k with daModes := vmapIdx (fun i m => if r.units.toNat.testBit i then r.part else m) k.daModes
           drainSince := none }

/-- The stash space of a stash write (R298, R299), or `none` when its list is malformed. -/
def State.stashSpace (s : State) (p : Plan) (c : Core) (r : Rec) : Option StashAlloc :=
  let step := s.step.current
  let at' (n : Option Nat) : Option Desc := n.bind p.descAt
  match at' r.desc0, at' r.desc2, at' r.desc3 with
  | some src, some prim, some ovf =>
    let count : Option Nat := match at' r.desc1 with
      | none => some (src.size 0)
      | some l => (s.activeList l (2 ^ 40)).map (fun l => min l.length (src.size 0))
    count.map (fun a =>
      let elems := a * (src.sizes.drop 1).foldl (· * ·) 1
      let size := ceilDiv (elems * prim.fmt.bits) 512 * 64
      let cap := prim.range.2 + 1 - prim.range.1
      let ptr := if step % 2 = 0 then s.cores[c].overflow.1 else s.cores[c].overflow.2
      let row := stashRow step r.stashSlot false
      if size ≤ cap then ⟨row, true, size, 0, 0, a⟩
      else if ptr + (size - cap) ≤ ovf.size 0 / 2 then ⟨row, true, cap, ptr, size - cap, a⟩
      else ⟨row, false, 0, 0, 0, a⟩)
  | _, _, _ => none

/-- Advances the overflow pointer of the step's half (R299). -/
def CoreState.takeOverflow (k : CoreState) (step : Nat) (a : StashAlloc) : CoreState :=
  if step % 2 = 0 then { k with overflow := (k.overflow.1 + a.spill, k.overflow.2) }
  else { k with overflow := (k.overflow.1, k.overflow.2 + a.spill) }

/-- Enqueues a record (R51), a record of the core sequencer like any other: it starts at the head of its queue (R53). -/
def State.enqueue (s : State) (p : Plan) (c : Core) (r : Rec) (stash : Option StashAlloc) : State :=
  let phase : Phase := if (p.needOf c r.recno).isNone && s.sheavesIn p c r then .granted else .issued
  let k := s.cores[c]
  let q : QRec :=
    { recno := r.recno, queues := r.queues, phase := phase, noCount := decide (0 < k.sense0),
      startedGc := s.gc.value, stash := stash }
  let s := s.accessSlots (p.slotsNamed r)
  let s := (r.named p).foldl (fun s n =>
    let j := n / 64
    let e := coreEngine c
    if (s.sheaves[e]).contains j then { s with sheaves := vmodify s.sheaves e (nameSheaf j) } else s) s
  (s.modCore c (fun k =>
    let k := { k.pass r with inflight := k.inflight ++ [q] }
    match stash with
    | some a => k.takeOverflow s.step.current a
    | none => k)).settle c

/-- Adds the cycles a record has waited for a change of partition mode (R156). -/
def State.endDrain (s : State) (c : Core) : State :=
  if s.cores[c].drainSince.isNone then s else s.addObj 0x301D (s.physOf c).val (coreCycles (s.drainTicks c))

/-- A holder of chain slots matches a record's chain pass: chain, position, tags (R367, R373). -/
def passKey (p : Plan) (step : Nat) (r : Rec) : BitVec 16 × Nat := (r.mbtag, effVersion p r step)

/-- A gate that has issued and not yet decided: which records follow, and whether they count, depends on it (R302). -/
def State.gatePending (s : State) (p : Plan) (c : Core) : Bool :=
  s.cores[c].inflight.any (fun q => q.phase ≠ .executed &&
    (p.recAt c q.recno).any (fun r => r.engine = 0 && r.func = 1))

/-- The chain slots that a record's predecessor still holds for it are free (R367). -/
def State.freeChain (s : State) (p : Plan) (c : Core) (r : Rec) : State :=
  match p.chainOf c r.recno with
  | some (ch, pos) =>
    let key := passKey p s.step.current r
    { s with chainHeld := s.chainHeld.filter (fun h =>
        !(h.chain = ch && h.pos + 1 = pos && h.mbtag = key.1 && h.version = key.2)) }
  | none => s

/-- Issues a record that has a place in its queues (R51). -/
def State.issue (s : State) (p : Plan) (c : Core) (r : Rec) : State :=
  let k := s.cores[c]
  if r.engine = 1 && !k.modeOk r then
    s.modCore c (fun k => { k with drainSince := some (k.drainSince.getD s.gc.value) })
  else
    let s := if r.engine = 1 then (s.endDrain c).modCore c (fun k => k.setMode r) else s
    match s.retiredSlot p r with
    | some w => s.abortWith 0x4A01 (s.physOf c).val (slotDetail w)
    | none =>
      if r.engine = 5 && r.func = 3 then
        match s.stashSpace p c r with
        | none => s.abortWith 0x4401 (s.physOf c).val (toLe 4 r.recno)
        | some a => s.enqueue p c r (some a)
      else s.enqueue p c r none

/-- `RECORD_ISSUE` (R51): the next record of a core issues. -/
def execRecordIssue (c : Core) (s : State) : Result :=
  match s.plan with
  | none => .next s
  | some p =>
    let k := s.cores[c]
    match p.recAt c k.next with
    | none => .next s
    | some r =>
      if !s.awake || s.step.status ≠ .running || k.ended || s.island (s.physOf c).val ≠ .run
          || (r.engine = 2 && s.seFenced.contains (s.physOf c).val)
          || s.gatePending p c
          || !r.waits.all (fun w => decide (w.thresh ≤ k.tallies[w.tally])) then .next s
      else if s.doneAtIssue p c r then
        .next ((((s.sendSignals c r).freeChain p c r).modCore c (fun k => k.pass r)).checkDone c)
      else if !r.queues.all k.queueFree then .next s
      else .next (s.issue p c r)

/-! ### Credits, data and reads -/

/-- `CREDIT_GRANT` (R366): a requester that stands first in every pool it names takes all its credits
at once. -/
def execCreditGrant (c : Core) (r : Nat) (s : State) : Result :=
  match s.plan, s.qrec c r with
  | some p, some q =>
    match p.recAt c r with
    | none => .next s
    | some rc =>
      let reqs := ((p.needOf c r).map Need.reqs).getD []
      if !s.awake || s.step.status ≠ .running || !s.cores[c].requester q || !s.sheavesIn p c rc
          || !reqs.all (fun x => decide (x.2 ≤ s.poolFree p x.1) && !s.before p x.1 c q) then .next s
      else
        let waited := s.gc.value - q.waitSince.getD s.gc.value
        let s := s.openFeed p c rc reqs
        let s := s.addObj 0x303E (s.physOf c).val (coreCycles waited)
        let s := reqs.foldl (fun s x => s.notePool p x.1 (decide (0 < waited))) s
        .next (s.settle c)
  | _, _ => .next s

/-- The micro-batch tags of data and record agree as R54 compares them; where either is a reference-step record's, bit 15
of both is cleared first (R266). -/
def tagsAgree (a b : BitVec 16) : Bool :=
  let ref (t : BitVec 16) : Bool := decide (0x8000 ≤ t.toNat) && t ≠ 0xFFFF
  if ref a || ref b then a.toNat % 0x8000 = b.toNat % 0x8000 else a = b

/-- A record reads a weight set: data for it carries its effective version (R291). -/
def Rec.readsWeights (p : Plan) (r : Rec) : Bool := (r.named p).any (fun n => (p.planeOf n).isSome)

/-- The record at the head of the queues of a record in flight: the first that has not executed (R53, R54). -/
def CoreState.headOf (k : CoreState) (q : QRec) : QRec :=
  ((k.ahead q).find? (fun x => x.phase ≠ .executed)).getD q

/-- `DATA_ARRIVAL` (R54): data arrives at the engine of a record, which compares its tags with those of the record at the
head of its queue. Data that differs in its work tag alone is not the head's (log entry 145); data of a dense array
begins a pass where its pass tag has changed (R53, R152). -/
def execDataArrival (c : Core) (r : Nat) (t : DataTags) (s : State) : Result :=
  match s.plan, s.qrec c r with
  | some p, some q =>
    let h := s.cores[c].headOf q
    match p.recAt c h.recno with
    | none => .next s
    | some rc =>
      if !s.awake || s.step.status ≠ .running || h.phase = .issued || h.phase = .executed then .next s
      else if s.cores[c].cancelled.contains t.worktag then
        .next (s.addObj 0x303F (coreDie c).val 1)
      else if !tagsAgree t.mbtag rc.mbtag
          || (rc.readsWeights p && t.version.toNat ≠ effVersion p rc s.step.current) then
        .next (s.abortWith 0x4105 (s.engineIsland c rc) (toLe 4 h.recno))
      else if t.worktag ≠ rc.worktag || (rc.engine = 1 && !t.newPass) then .next s
      else .next ((s.modQRec c h.recno (fun q => { q with arrived := true })).settle c)
  | _, _ => .next s

/-- The next read of a record's feed to land is one of an address and hint. -/
def QRec.lands (q : QRec) (addr : Nat) (hint : Hint) : Bool := match q.reads with
  | x :: _ => x.addr = addr && x.hint = hint
  | [] => false

/-- The record of an aborted step whose next read in flight this is (R380). -/
def CoreState.landingOf (k : CoreState) (r addr : Nat) (hint : Hint) : Option QRec :=
  k.landing.find? (fun q => q.recno = r && q.lands addr hint)

/-- A read of an aborted record lands in a discarded buffer; with its last the record's credits return (R367, R380). -/
def State.landAborted (s : State) (c : Core) (q : QRec) : State :=
  let left : QRec := { q with reads := q.reads.drop 1 }
  (s.addObj 0x303F (coreDie c).val 1).modCore c (fun k =>
    { k with landing := k.landing.filter (fun x => decide (x ≠ q)) ++ (if left.reads.isEmpty then [] else [left]) })

/-- `FEED_READ_LANDED` (R380): the oldest read of a record's feed that is in flight lands, and is kept or discarded; its
hint is its descriptor's (R132), and reads land in the order issued, so no other read can land. Those of an aborted
step, issued before, land before those of its relaunch. -/
def execFeedReadLanded (c : Core) (r : Nat) (addr : Nat) (hint : Hint) (s : State) : Result :=
  match s.cores[c].landingOf r addr hint, s.qrec c r with
  | some q, _ => if s.awake then .next ((s.landAborted c q).settle c) else .next s
  | none, none => .next s
  | none, some q =>
    match q.reads with
    | [] => .next s
    | x :: rest =>
      if !s.awake || q.phase = .issued || x.addr ≠ addr || x.hint ≠ hint then .next s
      else if q.tagInvalid then .next ((s.discardRead c r).settle c)
      else .next (((s.modQRec c r (fun q => { q with reads := rest })).landRead c x).settle c)

/-- `CANCEL` (R380): a cancel acts when it issues; where its prefetch has completed, or its last read has landed, it has
no effect (R381). -/
def execCancel (c : Core) (r : Nat) (s : State) : Result :=
  match s.plan, s.qrec c r with
  | some p, some q =>
    match p.recAt c r with
    | none => .next s
    | some rc =>
      if !s.awake || s.step.status ≠ .running || q.phase = .executed || !wantStream 6 rc then .next s
      else
        let hit := s.cores[c].inflight.any (p.isPrefetch c rc.param0)
        let s := if !hit then s else s.modCore c (fun k =>
          { k with cancelled := addNew k.cancelled [rc.param0]
                   inflight := k.inflight.map (fun x => if p.isPrefetch c rc.param0 x then x.cancel else x) })
        .next ((s.finish c r).settle c)
  | _, _ => .next s

/-! ### The weight chain (R372 to R374) -/

/-- The pool of the slots that a member fills for its successor (R372, R373). -/
def Plan.forwardPool (p : Plan) (ch pos : Nat) : Option Nat :=
  (p.chains[ch]?).bind (fun x => if pos + 1 < x.members.length then some (x.slotPool + pos) else none)

/-- Records of a member's core in flight that belong to a chain pass. -/
def State.passMates (s : State) (p : Plan) (ch pos : Nat) (key : BitVec 16 × Nat) : List (Core × Nat) :=
  match (p.chains[ch]?).bind (fun x => x.members[pos]?) with
  | none => []
  | some m =>
    if h : m < 48 then
      let c : Core := ⟨m, h⟩
      (s.cores[c].inflight.filter (fun q => match p.recAt c q.recno with
        | some r => p.chainOf c q.recno = some (ch, pos) && passKey p s.step.current r = key
        | none => false)).map (fun q => (c, q.recno))
    else []

/-- Tiles that stand in a member's slots for the taking of its successor. -/
def State.tilesAt (s : State) (p : Plan) (ch pos : Nat) (key : BitVec 16 × Nat) : Nat :=
  let live := (s.passMates p ch pos key).foldl (fun a m => match s.qrec m.1 m.2 with
    | some q => a + q.tiles
    | none => a) 0
  let held := (s.chainHeld.filter (fun h => h.chain = ch && h.pos = pos && h.mbtag = key.1
    && h.version = key.2)).foldl (fun a h => a + h.tiles) 0
  live + held

/-- Takes one tile from a member's slots. -/
def State.takeTile (s : State) (p : Plan) (ch pos : Nat) (key : BitVec 16 × Nat) : State :=
  match (s.passMates p ch pos key).find? (fun m => match s.qrec m.1 m.2 with
      | some q => decide (0 < q.tiles)
      | none => false) with
  | some m => s.modQRec m.1 m.2 (fun q => { q with tiles := q.tiles - 1 })
  | none =>
    { s with chainHeld := s.chainHeld.map (fun h =>
        if h.chain = ch && h.pos = pos && h.mbtag = key.1 && h.version = key.2 then
          { h with tiles := h.tiles - 1 } else h) }

/-- A head's feed has read the tile it is to deliver (R373). -/
def QRec.tileRead (q : QRec) : Bool :=
  !q.reads.any (fun r => match r.pass with
    | some t => decide (t ≤ q.passed)
    | none => false)

/-- `CHAIN_TILE_FORWARD` (R373): a member takes the next tile of its pass, delivers it to its engine and writes it
into its successor's next free slot. -/
def execChainTileForward (c : Core) (r : Nat) (s : State) : Result :=
  match s.plan, s.qrec c r with
  | some p, some q =>
    match p.recAt c r, p.chainOf c r with
    | some rc, some (ch, pos) =>
      let key := passKey p s.step.current rc
      let fwd := p.forwardPool ch pos
      let room := match fwd with
        | some pool => decide (q.tiles < q.holds pool)
        | none => true
      if !s.awake || s.step.status ≠ .running || q.phase = .issued || q.phase = .executed || !room
          || decide (q.chainTiles ≤ q.passed) || (pos = 0 && !q.tileRead)
          || (pos ≠ 0 && s.tilesAt p ch (pos - 1) key = 0) then .next s
      else
        let s := if pos = 0 then s else s.takeTile p ch (pos - 1) key
        let s := s.modQRec c r (fun q => { q with passed := q.passed + 1 })
        match fwd with
        | none => .next s
        | some _ =>
          .next ((s.modQRec c r (fun q => { q with tiles := q.tiles + 1 })).addObj 0x3041 (coreDie c).val 1)
    | _, _ => .next s
  | _, _ => .next s

/-- `LOAD_INTERLOCK_RELEASE` (R153): the injector lets the first vector of a pass in after the cycles
it was held. -/
def execLoadInterlockRelease (c : Core) (r : Nat) (held : Nat) (s : State) : Result :=
  match s.plan.bind (fun p => p.recAt c r), s.qrec c r with
  | some rc, some q =>
    if s.awake && rc.engine = 1 && q.phase = .started then
      .next (s.addObj 0x301C (s.physOf c).val held)
    else .next s
  | _, _ => .next s

/-! ### Completion (R48, R52) -/

/-- Chain slots that stay held after a record until its successor's record of the pass completes
(R367). -/
def State.holdSlots (s : State) (p : Plan) (c : Core) (rc : Rec) (q : QRec) : State :=
  match p.chainOf c rc.recno with
  | none => s
  | some (ch, pos) =>
    let key := passKey p s.step.current rc
    let s := s.freeChain p c rc
    match p.forwardPool ch pos with
    | none => s
    | some pool =>
      let next := (p.chains[ch]?).bind (fun x => x.members[pos + 1]?)
      let succDone := match next with
        | some m =>
          if h : m < 48 then
            let d : Core := ⟨m, h⟩
            -- the successor's record has already issued and left the queues
            (p.records.getD m []).any (fun x => p.chainOf d x.recno = some (ch, pos + 1)
              && passKey p s.step.current x = key && decide (x.recno < s.cores[d].next)
              && (s.qrec d x.recno).isNone)
          else true
        | none => true
      if succDone then s
      else { s with chainHeld := s.chainHeld ++
        [⟨c, rc.recno, pool, q.holds pool, ch, pos, key.1, key.2, q.tiles⟩] }

/-- The counter of records whose retry succeeded, by engine (R171, R230, R257, R283, R325). -/
def retryCounter (r : Rec) : Option Nat :=
  match r.engine.val with
  | 1 => some 0x301A
  | 2 => some 0x3022
  | 3 => some 0x3033
  | 4 => some 0x3031
  | 6 => some 0x3028
  | _ => none

/-- The unit a record's retry counters are kept for: its physical core, or its mask engine. -/
def State.retryUnit (s : State) (c : Core) (r : Rec) : Nat :=
  if r.engine = 6 then (coreDie c).val else (s.physOf c).val

/-- Counts a class-0x1 event of a record towards its physical core, for the engines of a core (R497). -/
def State.transientOf (s : State) (c : Core) (r : Rec) : State :=
  if 1 ≤ r.engine.val && r.engine.val ≤ 4 then s.noteTransient (s.physOf c).val else s

/-- Logs a successful retry at a record's completion (R172, R495). -/
def State.noteRetry (s : State) (c : Core) (r : Rec) (q : QRec) : State :=
  match q.failed, retryCounter r with
  | some (code, detail), some obj =>
    ((s.addObj obj (s.retryUnit c r) 1).event code (s.engineIsland c r) detail).transientOf c r
  | _, _ => s

/-- Counts a record that ran longer than `PLANCYC` plus 1 % (R56). -/
def State.noteOverrun (s : State) (c : Core) (r : Rec) (q : QRec) : State :=
  if coreCycles (s.gc.value - q.startedGc) * 100 > r.plancyc * 101 then s.addObj 0x5006 c.val 1 else s

/-- The descriptors a record has written, resolved (R291). -/
def Rec.written (p : Plan) (r : Rec) (step : Nat) : List Nat :=
  ((r.writes p).map (p.resolveWrite step)).eraseDups

/-- A record completes: taps, results, retry, overrun, signals; its credits return (R48, R367,
R431). -/
def State.complete (s : State) (p : Plan) (c : Core) (rc : Rec) (q : QRec) : State :=
  let wrote := if q.tagInvalid then [] else rc.written p s.step.current
  let s := (s.noteResults p wrote).runTaps p wrote
  let s := (s.noteRetry c rc q).noteOverrun c rc q
  let s := (s.sendSignals c rc).holdSlots p c rc q
  let s := s.modCore c (fun k => { k with inflight := k.inflight.filter (fun x => x.recno ≠ rc.recno) })
  (s.checkDone c).settle c

/-- `RECORD_COMPLETE` (R48): a record that has executed, with all its writes visible or acknowledged,
sends its signals. -/
def execRecordComplete (c : Core) (r : Nat) (s : State) : Result :=
  match s.plan, s.qrec c r with
  | some p, some q =>
    match p.recAt c r with
    | none => .next s
    | some rc =>
      if !s.awake || s.step.status ≠ .running || q.phase ≠ .executed
          || s.outbound.any (fun o => o.core = c && o.recno = r) then .next s
      else .next (s.complete p c rc q)
  | _, _ => .next s

/-- `STEP_COMPLETE` (R52): every core has reported `core_done`; NaN and HALT abort the step at its
end (R85, R275), and scheduled sparings begin (R499). -/
def execStepComplete (s : State) : Result :=
  if !s.awake || s.step.status ≠ .running || !(indices 48).all (fun c => s.cores[c].done) then .next s
  else
    let s := { s with step := { s.step with status := .ended, endGc := s.gc.value, stoppedGc := s.gc.value } }
    let halt := s.step.halt
    let s := match s.step.nan with
      | some d =>
        if s.obj 0x2100 1 = 1 then s.abortWith 0x3104 s.mgmtIsland (toLe 4 d) else s
      | none => s
    let s := match halt with
      | some _ => s.abortStep 0x3125
      | none => s
    .next s.startScheduled

/-! ### The core sequencer's own records (R44, R302) -/

/-- `NO_OPERATION` (R44). -/
def execNoOperation (c : Core) (r : Nat) (s : State) : Result :=
  s.runRecord c r (fun q => q.engine = 0 && q.func = 0) (byRows (fun _ => [])) (fun _ _ s => s)

/-- What a gate does: the records it governs run, without counts under `SENSE` 0, or are treated as
completed at issue (R302, R303). -/
def gateEffect (x : Ctx) (_ : QRec) (s : State) : State :=
  match x.rd x.r.desc4 with
  | none => s
  | some (_, dir) =>
    let p1 := x.r.param1.toNat
    let st := s.stashState dir (stashRow x.step x.r.stashSlot (p1.testBit 12))
    let sense := p1.testBit 13
    let run := if sense then st = 1 else st = 2
    let n := x.r.param0.toNat % 65536
    s.modCore x.core (fun k =>
      { k with skip := if run then 0 else n, sense0 := if run && !sense then n else 0 })

/-- What a gate reads: the directory row of its slot (R302). -/
def gateSpans (x : Ctx) (_ : State) : List Span :=
  match x.rd x.r.desc4 with
  | some (n, d) => [d.span n [0, stashRow x.step x.r.stashSlot (x.r.param1.toNat.testBit 12)] 16]
  | none => []

/-- `REGEN_GATE` (R302). -/
def execRegenGate (c : Core) (r : Nat) (s : State) : Result :=
  s.runRecord c r (fun q => q.engine = 0 && q.func = 1) ⟨fun r => [r.desc4].filterMap id, gateSpans⟩ gateEffect

/-! ### Watchdogs (R375 to R377) -/

/-- Ticks since a GC in which no watchdog counts: freezes, and the waits between the end of a step and its launch
(R376). -/
def State.paused (s : State) (since : Nat) : Nat :=
  s.pauses.foldl (fun a x => a + (x.2 - max since x.1)) 0

/-- A watched condition that holds. -/
structure Watched where
  /-- the GC at which it began. -/
  since : Nat
  kind : Nat
  island : Nat
  recno : Nat
  deriving DecidableEq, Repr

/-- The ticks for which a condition has held, without those a stop explains (R376). -/
def State.watchTicks (s : State) (w : Watched) : Nat := s.gc.value - w.since - s.paused w.since

/-- The detail of a watchdog's event: the island and the record's `RECNO` (R375). -/
def Watched.detail (w : Watched) : Bytes := toLe 1 w.island ++ toLe 4 w.recno

/-- A record in flight, with the island it stands on (R23). -/
def State.recIsland (s : State) (c : Core) (r : Nat) : Option (QRec × Nat) :=
  match s.plan, s.qrec c r with
  | some p, some q => (p.recAt c r).map (fun rc => (q, s.engineIsland c rc))
  | _, _ => none

/-- A condition that holds; `none` when it does not, or while a stop explains it: an island it concerns does not run, the
module is frozen, or no step runs (R375, R376). -/
def State.watched (s : State) (w : WatchCondition) : Option Watched :=
  let running (i : Nat) : Bool := s.awake && s.step.status = .running && islandAssigned i && s.island i = .run
  match w with
  | .crossing sender receiver r since =>
    if running sender.toNat && running receiver.toNat then some ⟨since, 0, receiver.toNat, r⟩ else none
  | .credit c r =>
    (s.recIsland c r).bind (fun (q, i) =>
      if running (s.physOf c).val && running i && q.phase = .issued then
        q.waitSince.map (fun t => ⟨t, 1, i, r⟩)
      else none)
  | .engine c r since =>
    (s.recIsland c r).bind (fun (q, i) =>
      if running (s.physOf c).val && running i && q.phase = .started && q.startedGc ≤ since then
        some ⟨since, 2, i, r⟩ else none)

/-- `WATCHDOG_EXPIRY` (R375): a condition that outlasts its limit is logged once. -/
def execWatchdogExpiry (w : WatchCondition) (s : State) : Result :=
  match s.watched w with
  | none => .next s
  | some x =>
    if s.standing.contains w || s.watchTicks x ≤ 1000 * s.obj 0x2801 x.kind then .next s
    else
      .next ((({ s with standing := s.standing ++ [w] }).addObj 0x3040 x.kind 1).event
        (BitVec.ofNat 16 (0x4701 + x.kind)) x.island x.detail)

/-- The standing conditions that are not over: a wait for credits stands in this state, and what crosses and what an
engine consumes is free (log entry 123). -/
def State.standingNow (s : State) : List WatchCondition :=
  (s.standing.zipIdx.filter (fun (w, i) => match w with
    | .credit _ _ => true
    | _ => Config.stillStands s.gc.value i)).map Prod.fst

/-- The island of the oldest standing condition that still holds: the one that began first, then the lower island; 0xFF
for none (R377). -/
def State.oldestStanding (s : State) : Nat :=
  let hold := s.standingNow.filterMap (fun w => (s.watched w).map (fun x => (x.since, x.island)))
  match sortBy (fun a b => decide (a.1 < b.1) || (a.1 = b.1 && decide (a.2 < b.2))) hold with
  | [] => 0xFF
  | x :: _ => x.2

/-- `STEP_OVERTIME` (R377). -/
def execStepOvertime (s : State) : Result :=
  if s.awake && s.step.status = .running && decide (s.step.planned + s.obj 0x2801 3 ≤ s.gc.value) then
    .next (s.abortWith 0x4704 s.mgmtIsland (toLe 1 s.oldestStanding))
  else .next s

end Sys2Proof.Machine
end

