-- ==== Sys2Proof/Machine/Writes.lean ====
section
/-! DEFINITION. Routed flits that act here: remote writes, tally messages and agreement rounds
(R398, R399, R407). -/

namespace Sys2Proof.Machine

/-! ### Remote writes (R398) -/

/-- A byte range meets a plan slot (R39). -/
def meetsPlanSlot (a n : Nat) : Bool := decide (a < 0x6000000000) && decide (0x5D00000000 < a + n)

/-- A remote write may land: its range lies within one allocation of the active plan and touches no
plan slot (R398). -/
def State.mayWrite (s : State) (a n : Nat) : Bool :=
  1 ≤ n && n ≤ 65536 && !meetsPlanSlot a n &&
    (match s.plan with
     | some p => (p.allocOf a n).isSome
     | none => false)

/-- The transfer of a sender's ID. -/
def State.transfer (s : State) (src : BitVec 16) (xid : Nat) : Option Inbound :=
  s.inbound.find? (fun t => t.src = src && t.xid = xid)

/-- Drops the transfer of a sender's ID. -/
def State.dropTransfer (s : State) (src : BitVec 16) (xid : Nat) : State :=
  { s with inbound := s.inbound.filter (fun t => !(t.src = src && t.xid = xid)) }

/-- `WRITE_HEAD` (R398). -/
def execWriteHead (p : Port) (f : Flit) (s : State) : Result :=
  s.seqFlit p f (fun s => s.routed p 0x01 f (fun s =>
    let xid := f.xinfo.toNat / 65536
    let a := fieldAt f.payload 0 6
    let n := fieldAt f.payload 8 4
    let s := s.dropTransfer f.src xid
    if s.mayWrite a n then
      { s with inbound := s.inbound ++ [Inbound.mk f.src xid a n [] false] }
    else
      ({ s with inbound := s.inbound ++ [Inbound.mk f.src xid a n [] true] }).abortWith 0x4801
        (portIsland p) (toLe 2 f.src.toNat ++ toLe 6 a)))

/-- Bytes arrive at a device address: written, or held while a sparing copy runs (R398, R499). -/
def State.land (s : State) (a : Nat) (bs : Bytes) : State :=
  if s.holdsWrite a then { s with heldWrites := s.heldWrites ++ [(a, bs)] } else s.writeRun a bs

/-- The transfer's every byte has arrived. -/
def Inbound.complete (t : Inbound) : Bool := decide (ceilDiv t.len 224 ≤ t.got.length)

/-- Ends a transfer whose every byte is visible: it is acknowledged, or, when discarded, forgotten. -/
def State.endTransfer (s : State) (t : Inbound) : State :=
  let held := s.heldWrites.any (fun w => decide (t.addr ≤ w.1) && decide (w.1 < t.addr + t.len))
  if !t.complete || (held && !t.discard) then s
  else
    let s := s.dropTransfer t.src t.xid
    if t.discard then s
    else s.sendRouted 0x03 false t.src (BitVec.ofNat 32 (t.xid * 65536)) []

/-- `DATA` (R398): the receiver writes the data as it lands. A stack out of service takes none: its fence answers the port
with an error, and the transfer is never acknowledged (R28, R347; DEDUCED, log entry 158). -/
def execData (p : Port) (f : Flit) (s : State) : Result :=
  s.seqFlit p f (fun s => s.routed p 0x02 f (fun s =>
    let xid := f.xinfo.toNat / 65536
    let i := f.xinfo.toNat % 65536
    match s.transfer f.src xid with
    | none => s
    | some t =>
      if t.got.contains i || decide (t.len ≤ 224 * i) then s
      else
        let t' := { t with got := t.got ++ [i] }
        let s := { s with inbound := s.inbound.map (fun (x : Inbound) => if x.src = t.src && x.xid = xid then t' else x) }
        if t.discard then s.endTransfer t'
        else match s.stackOut (t.addr + 224 * i) (min 224 (t.len - 224 * i)) with
          | some o => (s.fenceHit (portIsland p) o).dropTransfer t.src t.xid
          | none => (s.land (t.addr + 224 * i) (f.payload.take (min 224 (t.len - 224 * i)))).endTransfer t'))

/-- `WRITE_ACK` (R398): the sender's transfer is complete for R48. -/
def execWriteAck (p : Port) (f : Flit) (s : State) : Result :=
  s.seqFlit p f (fun s => s.routed p 0x03 f (fun s =>
    { s with outbound := s.outbound.filter (fun o =>
        !(o.dst = f.src && o.xid = f.xinfo.toNat / 65536)) }))

/-! ### Tally messages (R399) -/

/-- `TALLY` (R399): the signal applies to its logical core by R50. -/
def execTally (p : Port) (f : Flit) (s : State) : Result :=
  s.seqFlit p f (fun s => s.routed p 0x04 f (fun s =>
    let v := fieldAt f.payload 8 8
    let core := bitsOf v 40 6
    if h : core < 48 then
      s.applySignal (portIsland p) ⟨core, h⟩ ⟨bitsOf v 34 6, Nat.mod_lt _ (by decide)⟩ (bitsOf v 0 32)
        (fieldAt f.payload 0 8)
    else s))

/-! ### Agreement (R407) -/

/-- The commit record of a matrix in flight (R251). -/
def State.commitRec (s : State) (p : Plan) (matrix : Nat) : Option (Core × Rec) :=
  (indices 48).findSome? (fun c => s.cores[c].inflight.findSome? (fun q =>
    match p.recAt c q.recno with
    | some r => if wantMask 4 r && r.matrix = matrix && q.phase = .started then some (c, r) else none
    | none => none))

/-- What the result of a round does: a mask commit completes or aborts the step (R251); a launch round
waits for the end of its attempt (R444). -/
def State.roundDone (s : State) (name : RoundName) (mins maxs : List Nat) : State :=
  match name.kind with
  | 2 =>
    match s.plan with
    | none => s
    | some p =>
      match s.commitRec p name.matrix with
      | none => s
      | some (c, r) =>
        s.maskAgreed c r.recno ⟨c, s.engineIsland c r, p, r, s.step.current, true⟩ mins maxs
  | 0 => { s with agree := { s.agree with resA := some (mins, maxs) } }
  | _ => { s with agree := { s.agree with resB := some (mins, maxs) } }

/-- `AGREE` (R407). -/
def execAgree (p : Port) (f : Flit) (s : State) : Result :=
  s.seqFlit p f (fun s => s.routed p 0x07 f (fun s =>
    match s.takeAgree f.src f.payload with
    | (s, some (name, mins, maxs)) => s.roundDone name mins maxs
    | (s, none) => s))

end Sys2Proof.Machine
end

