-- ==== Sys2Proof/Machine/Collectives.lean ====
section
/-! DEFINITION. The collective engines: reduce-scatter, all-gather and all-to-all with their stages,
and the hold that waits for a stage (R345, R400 to R406). The other members' contributions to a result are the
commands' operands, and what they send within a stage is free (log entry 23). -/

namespace Sys2Proof.Machine

/-- Runs a collective record whose every stage has ended: `effect` gets this member's index and the
number of members, and answers `none` when the contributions do not fit the record. -/
def State.runCollective (s : State) (c : Core) (r : Nat) (want : Rec → Bool) (reads : Reads)
    (effect : Ctx → (me n : Nat) → State → Option State) : Result :=
  s.beginRecord c r want reads (fun x q s =>
    match x.plan.collGroup x.r with
    | none => s
    | some g =>
      match g.myIndex with
      | none => s
      | some me =>
        let n := g.members.length
        if q.stage < collStages x.r n then s
        else
          match effect x me n s with
          | some s => s.finish c r
          | none => s)

/-! ### Reduce-scatter (R403) -/

/-- One result row of a shard: `tree` over the parts in member order, the parts of each block apart, numbered 0, 1, 2 in
it, and their roots in block order (R95, R97, R403; that a block's parts keep the member order is DEDUCED, log entry
181). -/
def State.shardRow (s : State) (src tgt : Desc) (plane : Option Desc) (me : Nat) (parts : List PartIn)
    (outer : List Nat) : List OutElem :=
  let int := src.fmt = .int32s
  (List.range (tgt.size 0)).map (fun i =>
    let e := linearIndex tgt.sizes (i :: outer)
    let own := s.ownPart src plane (i :: (me * tgt.size 1 + outer.headD 0) :: outer.drop 1)
    let vs := parts.zipIdx.filterMap (fun (p, j) =>
      (partAt p src.fmt e).map (fun a =>
        (p.block, ((parts.take j).filter (fun q => q.block = p.block)).length, if j = me then own else a)))
    OutElem.ofAcc (orZero (blocksOf int vs)))

/-- Result rows that reduce-write their destination: elements that meet in one place merge in canonical order, as one
reduction (R119, R127; DESIGN CHOICE, log entry 150). -/
def mergeRows (int : Bool) (out : Desc) (rows : List (List Nat × List OutElem)) : List (List Nat × List OutElem) :=
  let off (r : List Nat × List OutElem) : Int := out.offset (0 :: r.1)
  (destRows out (rows.map Prod.fst)).map (fun (o, n) =>
    (o, (List.range n).map (fun e =>
      let cs := rows.filterMap (fun r => let k := out.offset (e :: o) - off r
        if 0 ≤ k then r.2[k.toNat]? else none)
      let a := orZero (reduceTerms int false 0 ((cs.zipIdx).map (fun c => (c.2, c.1.v))))
      ⟨a.v, a.sat || cs.any OutElem.sat, a.ovf || cs.any OutElem.ovf, a.long || cs.any OutElem.long⟩)))

/-- What a reduce-scatter does (R403). -/
def reduceScatterEffect (parts : List PartIn) (x : Ctx) (me n : Nat) (s : State) : Option State :=
  match x.rd x.r.desc0, x.wr x.r.desc2 with
  | some (_, src), some (no, tgt) =>
    if parts.length ≠ n || !parts.all (fun p => p.values.length = tgt.elems) then none
    else
      let plane := (x.rd x.r.desc1).map Prod.snd
      let rows := tgt.outers.map (fun o => (o, s.shardRow src tgt plane me parts o))
      let rows := if tgt.acc = 2 then mergeRows (src.fmt = .int32s) tgt rows else rows
      some ((if x.r.flag 1 then s.writePartial no tgt ((x.wr x.r.desc3).map Prod.snd) rows
        else s.writeFinal x no tgt none rows).stampPlane x no)
  | _, _ => some s

/-- `REDUCE_SCATTER` (R403). -/
def execReduceScatter (c : Core) (r : Nat) (parts : List PartIn) (s : State) : Result :=
  s.runCollective c r (wantColl 1) (byRows (fun r => [r.desc0, r.desc1].filterMap id)) (reduceScatterEffect parts)

/-! ### All-gather (R404) -/

/-- The rows of a packed block of elements at the outer indices given. -/
def blockRows (tgt : Desc) (outers : List (List Nat)) (b : Bytes) : List (List Nat × List Nat) :=
  let n := tgt.size 0
  outers.zipIdx.map (fun (o, k) => (o, (List.range n).map (fun i => codeAt tgt.fmt.bits b (k * n + i))))

/-- The shard of member `j` as an all-gather writes it: this member's own, the bits that this member has passed on, or
what the command brings (R404). -/
def shardBits (own : Bytes) (nodes : List Piece) (me n j : Nat) (b : Bytes) : Bytes :=
  if j = me then own
  else if passesOn n me j then ((nodes.find? (fun p => p.shard = j)).map Piece.bytes).getD b
  else b

/-- What an all-gather does: member `i`'s shard stands at position `i`, and with `WSV` the slices carry
the step's version (R289, R404). -/
def allGatherEffect (shards : List Bytes) (x : Ctx) (me n : Nat) (s : State) : Option State :=
  match x.rd x.r.desc0, x.wr x.r.desc2 with
  | some (_, src), some (no, tgt) =>
    let len := ceilDiv (src.elems * src.fmt.bits) 8
    if shards.length ≠ n || !shards.all (fun b => b.length = len) then none
    else
      let own := s.tensorBytes src
      let nodes := ((s.qrec x.core x.r.recno).map QRec.nodes).getD []
      let s := s.writeRaw x no tgt (shards.zipIdx.flatMap (fun (b, j) =>
        blockRows tgt (src.outers.map (fun o => (j * src.size 1 + o.headD 0) :: o.drop 1)) (shardBits own nodes me n j b)))
      let s := s.stampPlane x no
      let p1 := x.r.param1.toNat
      if p1.testBit 8 then
        match x.plan.weightSets[p1 % 256]? with
        | some w => some (s.stamp x w (List.range w.slices))
        | none => some s
      else some s
  | _, _ => some s

/-- `ALL_GATHER` (R404). -/
def execAllGather (c : Core) (r : Nat) (shards : List Bytes) (s : State) : Result :=
  s.runCollective c r (wantColl 2) (byRows (fun r => [r.desc0].filterMap id)) (allGatherEffect shards)

/-! ### All-to-all (R405) -/

/-- What an all-to-all does: every member's section lands at its place, this member's own by a local
copy (R405). -/
def allToAllEffect (sections : List Bytes) (x : Ctx) (me n : Nat) (s : State) : Option State :=
  match x.rd x.r.desc0, x.wr x.r.desc2 with
  | some (_, src), some (no, tgt) =>
    let p1 := x.r.param1.toNat
    let back := p1.testBit 16
    let epm := p1 % 65536
    let cap := src.size 1
    let len := ceilDiv (src.size 0 * cap * epm * src.fmt.bits) 8
    if sections.length ≠ n || !sections.all (fun b => b.length = len) then none
    else
      let own := s.sectionFor x src me
      some ((s.writeRaw x no tgt (sections.zipIdx.flatMap (fun (b, i) =>
        blockRows tgt (sectionOuters (!back) cap epm i) (if i = me then own else b)))).stampPlane x no)
  | _, _ => some s

/-- An all-to-all record of a direction (R402). -/
def wantAllToAll (back : Bool) (r : Rec) : Bool := wantColl 3 r && r.param1.toNat.testBit 16 = back

/-- `ALL_TO_ALL_DISPATCH` (R405). -/
def execAllToAllDispatch (c : Core) (r : Nat) (sections : List Bytes) (s : State) : Result :=
  s.runCollective c r (wantAllToAll false) (byRows (fun r => [r.desc0].filterMap id)) (allToAllEffect sections)

/-- `ALL_TO_ALL_RETURN` (R405). -/
def execAllToAllReturn (c : Core) (r : Nat) (sections : List Bytes) (s : State) : Result :=
  s.runCollective c r (wantAllToAll true) (byRows (fun r => [r.desc0].filterMap id)) (allToAllEffect sections)

/-! ### Stages and the hold (R345, R406) -/

/-- `COLLECTIVE_STAGE_END` (R406): a stage ends once its last write is acknowledged, and the writes of the next begin. -/
def execCollectiveStageEnd (c : Core) (r : Nat) (s : State) : Result :=
  match s.plan, s.qrec c r with
  | some p, some q =>
    match p.recAt c r with
    | none => .next s
    | some rc =>
      match p.collGroup rc with
      | none => .next s
      | some g =>
        let n := g.members.length
        let me := g.myIndex.getD 0
        if s.awake && s.step.status = .running && rc.engine = 7 && q.phase = .started
            && decide (q.stage < collStages rc n)
            && !s.outbound.any (fun o => o.core = c && o.recno = r) then
          let x := s.ctx p c rc q
          let nodes := s.afterStage x me n q.stage q.nodes
          .next ((s.modQRec c r (fun q => { q with stage := q.stage + 1, nodes := nodes })).sendStage x (q.stage + 1) nodes)
        else .next s
  | _, _ => .next s

/-- The collective stages in progress: core, record and stage (R345). -/
def State.stagesNow (s : State) : List (Core × Nat × Nat) :=
  match s.plan with
  | none => []
  | some p =>
    (indices 48).flatMap (fun c => s.cores[c].inflight.filterMap (fun q =>
      match p.recAt c q.recno with
      | some r =>
        if r.engine = 7 && q.phase = .started
            && (p.collGroup r).any (fun g => decide (q.stage < collStages r g.members.length)) then
          some (c, q.recno, q.stage)
        else none
      | none => none))

/-- An agreement round whose hop level was in progress at a hold's beginning has moved on or ended (R406). -/
def State.roundOver (s : State) (r : Round) : Bool := !s.rounds.contains r

/-- A stage noted at a hold's beginning has ended. -/
def State.stageOver (s : State) (x : Core × Nat × Nat) : Bool :=
  match s.qrec x.1 x.2.1 with
  | some q => q.phase ≠ .started || decide (x.2.2 < q.stage)
  | none => true

/-- The step that the next agreement is keyed by: the host's, else the one after the current step; a
relaunch of the current step is an outcome of that agreement (R440, R442, R444; DEDUCED, log entry 27). -/
def State.launchStep (s : State) : Nat :=
  match s.agree.hostLaunch with
  | some l => l.step
  | none => s.nextStep

/-- The launch a hold asks for: the first whose agreement round has not started (R345). -/
def State.holdStep (s : State) : Nat :=
  if s.agree.contributed || s.agree.decided.isSome then s.launchStep + 1 else s.launchStep

/-- `HOLD_SEND` (R345): once the stages in progress at a stack's entry into HOT have ended. -/
def execHoldSend (s : State) : Result :=
  match s.holdDue with
  | [] => .next s
  | h :: rest =>
    if !s.awake || !h.stages.all s.stageOver || !h.rounds.all s.roundOver then .next s
    else
      let step := s.holdStep
      let shift := s.obj 0x2704 0
      let s := ({ s with holdDue := rest }).noteHold step shift
      let s := (s.event 0x5103 (0x40 + h.stack.val) (toLe 1 h.stack.val)).addObj 0x303B 0 1
      .next (s.flood 0x08 (toLe 8 step ++ toLe 8 shift))

end Sys2Proof.Machine
end

