-- ==== Sys2Proof/Machine/Memory.lean ====
section
/-! DEFINITION. Memory faults, row repair, temperature and margins, the loss of an island, and the
management islands (R25, R330, R338 to R350, R501, R538). -/

namespace Sys2Proof.Machine

/-! ### HBM rows (R327 to R330, R342, R343) -/

/-- The row of an HBM address: stack and unit of 2 KiB within it (R330). -/
def hbmRow (a : Nat) : Nat := let (h, o) := hbmDecode a; h * 25165824 + o / 2048

/-- The stack of a row. -/
def rowStack (r : Nat) : Nat := r / 25165824

/-- The unit of a row in its stack. -/
def rowUnit (r : Nat) : Nat := r % 25165824

/-- The bank of a row: stack, pseudo-channel, bank (R330). -/
def rowBank (r : Nat) : Nat × Nat := (rowStack r, rowUnit r % 1024)

/-- The device address at a stack offset: the inverse of R328 and R329. -/
def hbmEncode (h o : Nat) : Nat :=
  if o < 0x600000000 then
    let k := o / 4096
    k * 32768 + (h ^^^ (k % 8) ^^^ (k / 8 % 8)) * 4096 + o % 4096
  else 0x3000000000 + h * 0x600000000 + (o - 0x600000000)

/-- The device address of the 4 KiB block that holds a row (R343). -/
def rowBlock (r : Nat) : Nat := hbmEncode (rowStack r) (rowUnit r / 2 * 4096)

/-- The 8 bytes of a row in `HBM_REPAIR_LIST` (R352). -/
def repairBytes (e : Nat × Bool) : Bytes :=
  let u := rowUnit e.1
  toLe 1 (rowStack e.1) ++ toLe 1 (u % 64) ++ toLe 1 (u / 64 % 16) ++ toLe 2 (u / 1024)
    ++ [if e.2 then 2 else 1, 0, 0]

/-- The device addresses of the 4 KiB blocks that hold unrepairable rows (R343). -/
def State.badBlocks (s : State) : List Nat := (s.badRows.map rowBlock).eraseDups

/-- Marks a row as faulty, unless it is known to be beyond repair (R342, R343). -/
def State.markRow (s : State) (r : Nat) : State :=
  if s.badRows.contains r then s
  else { s with faultyRows := addNew s.faultyRows [r] }

/-- Repairs one faulty row, or lists it as unrepairable (R342, R343). -/
def State.repairRow (s : State) (r : Nat) : State :=
  let h := rowStack r
  let detail := toLe 1 h ++ toLe 6 (hbmEncode h (rowUnit r * 2048))
  let s := { s with rowErrors := dropKey r s.rowErrors }
  if s.nv.repairs.any (fun e => rowBank e.1 = rowBank r) then
    ({ s with badRows := addNew s.badRows [r] }).event 0x2303 (0x40 + h) detail
  else
    (({ s with nv := s.nv.modStores (fun x => { x with repairs := x.repairs ++ [(r, false)] }) }).setObj 0x2707 (2 + h)
      (s.obj 0x2707 (2 + h) - 1)).event 0x2301 (0x40 + h) detail

/-- The rows whose corrected errors have reached the limit in force (R342). -/
def State.overLimit (s : State) : List Nat :=
  (s.rowErrors.filter (fun e => decide (s.obj 0x2706 0 ≤ e.2))).map Prod.fst

/-- Repairs every faulty row at a step boundary (R342). -/
def State.repairRows (s : State) : State :=
  let s := s.overLimit.foldl State.markRow s
  s.faultyRows.foldl State.repairRow { s with faultyRows := [] }

/-! ### ECC (R338 to R341) -/

/-- The compute die of a physical SRAM address. -/
def sramDie (a : Nat) : Nat := (a - 0x10000000000) / 0x60000000

/-- A corrected word: counted, and towards its row's limit (R338, R339, R342). -/
def State.noteCorrected (s : State) (a : Nat) : State :=
  if a < 0x6000000000 then
    let r := hbmRow a
    let s := s.addObj 0x3035 (hbmDecode a).1 1
    let s := { s with rowErrors := addKey r 1 s.rowErrors }
    if s.obj 0x2706 0 ≤ (lookupKey r s.rowErrors).getD 0 then s.markRow r else s
  else s.addObj 0x3038 (sramDie a) 1

/-- An uncorrectable read of a word is counted (R338, R339). -/
def State.noteUncorrectable (s : State) (a : Nat) : State :=
  if a < 0x6000000000 then s.addObj 0x3036 (hbmDecode a).1 1 else s.addObj 0x3039 (sramDie a) 1

/-- Inserts into a rising list. -/
def insertNat (n : Nat) : List Nat → List Nat
  | [] => [n]
  | m :: ms => if n < m then n :: m :: ms else if n = m then m :: ms else m :: insertNat n ms

/-- The source island of a memory event: the stack's controller, or the die fabric (R23). -/
def memIsland (a : Nat) : Nat := if a < 0x6000000000 then 0x40 + (hbmDecode a).1 else 0x74 + sramDie a

/-- The detail of a memory event: stack or die, and address (R353). -/
def memDetail (a : Nat) : Bytes :=
  toLe 1 (if a < 0x6000000000 then (hbmDecode a).1 else sramDie a) ++ toLe 6 a

/-- Poisons a word and logs it; an HBM row that holds one is faulty (R340, R342). -/
def State.poisonWord (s : State) (a : Nat) : State :=
  let w := (eccWord a).1
  let s := { s with poison := insertNat w s.poison }
  let s := if a < 0x6000000000 then s.markRow (hbmRow a) else s
  s.event 0x2302 (memIsland a) (memDetail w)

/-- `HBM_SCRUB` (R341). -/
def execHbmScrub (addr : Nat) (w : WordCheck) (s : State) : Result :=
  if !s.awake || decide (0x6000000000 ≤ addr) then .next s
  else match w with
  | .clean => .next s
  | .correctable => .next (s.noteCorrected addr)
  | .uncorrectable => .next (s.poisonWord addr)

/-- An SRAM address lies in a cache segment (R333). -/
def State.inCacheSegment (s : State) (a : Nat) : Bool :=
  let o := (a - 0x10000000000) % 0x60000000
  decide (0x4E000000 ≤ o) && (match s.plan with
    | some p => !p.segAllocated (sramDie a) ((o - 0x4E000000) / 0x1000000)
    | none => true)

/-- An uncorrectable word of a cache line: the die invalidates the line and fetches it again from HBM, so that it
stands in the cache as before (R338). -/
def State.refetchLine (s : State) (die : Nat) (a : Nat) : State :=
  (s.addObj 0x303A die 1).event 0x1301 (0x74 + die) (toLe 1 die ++ toLe 6 a)

/-- `SRAM_SCRUB` (R341). -/
def execSramScrub (addr : Nat) (w : WordCheck) (s : State) : Result :=
  if !s.awake || decide (addr < 0x10000000000) || decide (0x10180000000 ≤ addr) then .next s
  else match w with
  | .clean => .next s
  | .correctable => .next (s.noteCorrected addr)
  | .uncorrectable =>
    if s.inCacheSegment addr then .next (s.refetchLine (sramDie addr) addr)
    else .next (s.poisonWord addr)

/-! ### Temperature (R344 to R347) -/

/-- Enters or leaves WARM (R344). -/
def State.warmStep (s : State) (h : Stack) (t : Val) : State :=
  let warm := decodeF32 (BitVec.ofNat 32 (s.obj 0x2702 0))
  if s.thermal[h] = .normal && !t.lt warm then
    ({ s with thermal := s.thermal.set h .doubled }).event 0x5101 (0x40 + h.val) (toLe 1 h.val)
  else s

/-- Enters HOT from WARM: the launch is held, but for a frozen module (R345, R346). -/
def State.hotStep (s : State) (h : Stack) (t : Val) : State :=
  let hot := decodeF32 (BitVec.ofNat 32 (s.obj 0x2702 1))
  if s.thermal[h] = .doubled && !t.lt hot then
    let s := { s with thermal := s.thermal.set h .hold }
    if s.awake then { s with holdDue := s.holdDue ++ [HoldWait.mk h s.stagesNow s.rounds] } else s
  else s

/-- Leaves HOT for WARM, and WARM for NORMAL, below their thresholds less the hysteresis (R344). -/
def State.coolStep (s : State) (h : Stack) (t : Val) : State :=
  let hyst := decodeF32 (BitVec.ofNat 32 (s.obj 0x2702 2))
  let hot := decodeF32 (BitVec.ofNat 32 (s.obj 0x2702 1))
  let warm := decodeF32 (BitVec.ofNat 32 (s.obj 0x2702 0))
  let s := if s.thermal[h] = .hold && t.lt (hot.sub hyst) then
      ({ s with thermal := s.thermal.set h .doubled }).event 0x5104 (0x40 + h.val) (toLe 1 h.val)
    else s
  if s.thermal[h] = .doubled && t.lt (warm.sub hyst) then
    ({ s with thermal := s.thermal.set h .normal }).event 0x5102 (0x40 + h.val) (toLe 1 h.val)
  else s

/-- `HBM_TEMP_READING` (R344): a stack's reading moves it between NORMAL, WARM and HOT. -/
def execHbmTempReading (h : Stack) (t : F32) (s : State) : Result :=
  if s.phase ≠ .up || s.thermal[h] = .trip then .next s
  else
    let s := { s with temps := s.temps.set h t }
    let v := decodeF32 t
    if v.isNan then .next s
    else .next (((s.warmStep h v).hotStep h v).coolStep h v)

/-- Sets the trip latch with its cause; the first cause stands until power is cycled (R524). -/
def State.latch (s : State) (cause : Nat) : State :=
  if s.tripLatch then s
  else { s with tripLatch := true, latchedCause := cause, pins := { s.pins with thermTripN := .low } }

/-- An island whose fault makes the module unable to run its plan: it declares itself lost (R25, R500). -/
def State.moduleFails (s : State) (code : BitVec 16) : State := (s.abortStep code).declareLost

/-- `STACK_TRIP` (R347, R515): the stack is shut down and fenced, the step stops and the module is lost. The trip's own
oscillator needs no other clock: in FULL freeze the stack is shut down, the latch set and the dying gasp sent, while
nothing logs and no step is there to abort (R514); in reset the stack is off and the latch set. That management stays up
is R347's word beside R524's (log entry 60). -/
def execStackTrip (h : Stack) (s : State) : Result :=
  if s.phase = .dark || s.thermal[h] = .trip then .next s
  else if s.phase = .inReset then .next (({ s with thermal := s.thermal.set h .trip }).latch 2)
  else
    let s := (({ s with thermal := s.thermal.set h .trip }).setIsland (0x40 + h.val) .fenced).latch 2
    if s.phase = .fullFreeze then .next ({ (if s.canGasp then s.gasp 0x01 else s) with moduleLost := true }).driveFault
    else .next ((s.event 0x5105 (0x40 + h.val) (toLe 1 h.val)).moduleFails 0x5105)

/-! ### Margins (R348 to R350) -/

/-- `MARGIN_DRIFT_PROBE` (R350): with errors on one side the delay moves one step away from it. -/
def execMarginDriftProbe (h : Stack) (pc : Fin 64) (lowErr highErr : Bool) (s : State) : Result :=
  if !s.awake || s.thermal[h] = .trip || lowErr = highErr then .next s
  else
    let k := h.val * 64 + pc.val
    let d : Int := (lookupKey k s.strobes).getD 0 + (if lowErr then 1 else -1)
    .next (({ s with strobes := setKey k d s.strobes }).addObj 0x303C h.val 1)

/-- A lane passes when both its eyes are at least 24 wide and 16 high (R348). -/
def LaneEye.passes (e : LaneEye) : Bool :=
  decide (24 ≤ e.readWidth.toNat) && decide (16 ≤ e.readHeight.toNat) &&
    decide (24 ≤ e.writeWidth.toNat) && decide (16 ≤ e.writeHeight.toNat)

/-- The eye of a lane (R348). -/
def StackScan.lane (x : StackScan) (i : Fin 256) : LaneEye :=
  ((x.others.find? (fun e => e.1 = i)).map Prod.snd).getD x.eye

/-- A stack passes when each of its 256 lanes does (R348). -/
def StackScan.passes (x : StackScan) : Bool := (indices 256).all (fun i => LaneEye.passes (StackScan.lane x i))

/-- The four bytes of a lane in `MARGIN_RESULT` (R349). -/
def LaneEye.bytes (e : LaneEye) : Bytes := [e.readWidth, e.readHeight, e.writeWidth, e.writeHeight]

/-- A lane's delays and reference voltages, at the centres of its eyes (R348). -/
def LaneEye.setting (e : LaneEye) : List Nat :=
  [e.readDelay.toNat, e.readVref.toNat, e.writeDelay.toNat, e.writeVref.toNat]

/-- What a scan of some stacks leaves: its results, every lane at its centre, and no drift (R348, R349). -/
def State.keepScan (s : State) (scanned : List Stack) (scans : Vector StackScan 8) : State :=
  { s with
    marginResult := (indices 8).flatMap (fun h =>
      if scanned.contains h then (indices 256).flatMap (fun i => LaneEye.bytes (StackScan.lane scans[h] i))
      else slice s.marginResult (1024 * h.val) 1024)
    laneSets := (indices 8).flatMap (fun h =>
      if scanned.contains h then (indices 256).map (fun i => (h.val * 256 + i.val, LaneEye.setting (StackScan.lane scans[h] i)))
      else s.laneSets.filter (fun e => e.1 / 256 = h.val))
    strobes := s.strobes.filter (fun x => !scanned.any (fun h => h.val = x.1 / 64)) }

/-- `MARGIN_SCAN_DONE` (R348, R349): the results of the stacks under scan. -/
def execMarginScanDone (results : Vector StackScan 8) (s : State) : Result :=
  if !s.awake || s.marginScan.isEmpty then .next s
  else
    let ok := s.marginScan.all (fun h => StackScan.passes results[h])
    .next ({ s.keepScan s.marginScan results with marginScan := [] }.setObj 0x2708 1 (if ok then 2 else 3))

/-! ### Spares and islands -/

/-- No standby is left: a new management firmware can no longer be pinned, and one already staged is dropped (R501, R518;
DEDUCED, log entry 173). -/
def State.noStandby (s : State) : State :=
  { s.setObj 0x5032 1 2 with staged := dropKey (objKey 0x5104 1) s.staged }

/-- Island B takes over: it fences A, serves every later frame and leaves no standby (R501). -/
def State.takeover (s : State) : State :=
  let s := (s.setIsland 0x78 .fenced).noStandby
  let s := { s with mgmt := { s.mgmt with active := .b } }
  s.mgmtEvent 0x2502 []

/-- Island B can take over: A is active and B stands by. -/
def State.canTakeOver (s : State) : Bool := s.mgmt.active = .a && s.obj 0x5032 1 = 0

/-- `MGMT_TAKEOVER` (R501). -/
def execMgmtTakeover (s : State) : Result :=
  if s.phase = .up && s.canTakeOver then .next s.takeover else .next s

/-- `MGMT_BOTH_SILENT` (R501): the fabric ports send the dying gasp. -/
def execMgmtBothSilent (s : State) : Result :=
  if s.phase ≠ .up || s.mgmt.silent then .next s
  else .next (({ s with mgmt := { s.mgmt with silent := true } }).declareLost)

/-- A spare is lost while a sparing was to use it: the map change is dropped (R17), the old map stays in force, and a
core whose copy had begun stays fenced with no spare left for it (R28, R500). -/
def State.dropSparing (s : State) (x : Sparing) : State :=
  let s := { s with
    sparing := s.sparing.filter (fun y => y.logical ≠ x.logical)
    heldWrites := s.heldWrites.filter (fun w => !(decide (0x20000000000 + x.logical.val * 0x8000000 ≤ w.1) &&
      decide (w.1 < 0x20000000000 + (x.logical.val + 1) * 0x8000000))) }
  if x.startGc.isSome then s.cannotSpare x.logical else s

/-- A spare is lost: the map changes that were to use it are dropped (R17, R500). -/
def State.spareLost (s : State) (p : Nat) : State :=
  let due := s.sparing.filter (fun x => x.spare.val = p)
  due.foldl State.dropSparing { s.setIsland p .failed with
    spares := vmap (fun (x : Option Phys) => if x.map Fin.val = some p then none else x) s.spares }

/-- `SPARE_SELF_TEST` (R538): a spare that fails is unusable; one being filled by a copy is not tested. -/
def execSpareSelfTest (d : CDie) (pass : Bool) (s : State) : Result :=
  match s.spares[d] with
  | none => .next s
  | some sp =>
    if !s.awake || s.bringup ≠ .ready || pass
        || s.sparing.any (fun x => x.spare = sp && x.startGc.isSome && !x.copied) then .next s
    else .next (({ s with sparesFailed := addNew s.sparesFailed [d] }.spareLost sp.val).event 0x2506 sp.val (toLe 1 sp.val))

/-- What the loss of a core's PLL leads to: sparing, or one spare less (R17, R25, R500). -/
def State.coreStopped (s : State) (p : Nat) : State :=
  match s.logicalOf p with
  | some c =>
    let s := (s.setIsland p .failed).abortStep 0x2101
    s.spareLasting c
  | none => s.spareLost p

/-- `PLL_LOCK_LOST` (R25). The loss of the only serving management island leaves it stopped (log entry 140). -/
def execPllLockLost (i : Island) (s : State) : Result :=
  let n := i.toNat
  let st := s.island n
  if s.phase ≠ .up || !islandAssigned n || (st ≠ .run && st ≠ .spare) then .next s
  else
    let s := s.event 0x2101 n [BitVec.ofNat 8 n]
    if n ≤ 0x33 then .next (s.coreStopped n)
    else if h : 0x50 ≤ n ∧ n ≤ 0x6F then
      let p : Port := ⟨n - 0x50, by omega⟩
      .next ((s.setIsland n .failed).portLost p .failed 1 0x2101)
    else if n = 0x70 then
      .next (({ (s.setIsland n .failed).hostLinkLost with hostPllLost := true }).driveFault)
    else if n = 0x78 then
      .next (if s.canTakeOver then s.takeover
        else if s.mgmt.active = .b then (s.setIsland n .failed).noStandby else s.setIsland n .failed)
    else if n = 0x79 then .next ({ (s.setIsland n .failed).noStandby with standbyOff := true })
    else .next ((s.setIsland n .failed).moduleFails 0x2101)

end Sys2Proof.Machine
end

