-- ==== Sys2Proof/Machine/Entries.lean ====
section
/-! DEFINITION. What each entry of the object dictionary reads as: live values of the state, stored
values, DOMAIN contents, and the configuration and operational digests (R29, R56, R86, R113, R139, R171,
R230, R257, R282, R325, R352, R382, R418, R441, R448, R466, R477 to R490, R512, R520, R541). -/

namespace Sys2Proof.Machine

/-! ### Which items exist (R471 check 3) -/

/-- A masked matrix of the plan (R257, R286). -/
def Plan.hasMatrix (p : Plan) (m : Nat) : Bool := p.weightSets.any (fun w => w.masked && w.matrix = m)

/-- The subindex of an assigned entry names an existing item under a plan (R471). -/
def itemExists (p : Option Plan) (idx sub : Nat) : Bool :=
  let inPlan (f : Plan → Bool) : Bool := match p with
    | some p => f p
    | none => false
  if idx = 0x2002 || idx = 0x2003 then islandAssigned sub
  else if 0x2401 ≤ idx && idx ≤ 0x2404 then inPlan (fun p => p.hasMatrix sub)
  else if (0x2501 ≤ idx && idx ≤ 0x2505) || (0x302B ≤ idx && idx ≤ 0x302E) then
    inPlan (fun p => decide (sub < p.preds.length))
  else if idx = 0x2601 || idx = 0x2602 then inPlan (fun p => decide (sub < p.weightSets.length))
  else if idx = 0x2B01 then inPlan (fun p => (p.window sub).isSome)
  else true

/-! ### Codes -/

/-- `ISLAND_STATE` (R29). -/
def IslandState.code : IslandState → Nat
  | .run => 0
  | .held => 1
  | .spare => 2
  | .fenced => 3
  | .failed => 4

/-- `LASER_INPUT_STATE` (R29). -/
def LaserClass.code : LaserClass → Nat
  | .dark => 0
  | .low => 1
  | .lit => 2

/-- `STEP_STATE` (R56). -/
def StepStatus.code : StepStatus → Nat
  | .idle => 0
  | .running => 1
  | .ended => 2
  | .aborted => 3

/-- `HBM_THERM_STATE` (R352). -/
def Thermal.code : Thermal → Nat
  | .normal => 0
  | .doubled => 1
  | .hold => 2
  | .trip => 3

/-- `PORT_STATE` (R418). -/
def PortStatus.code : PortStatus → Nat
  | .down => 0
  | .training => 1
  | .up => 2
  | .upNoSpare => 3
  | .peerFrozen => 4
  | .failed => 5

/-- `BRINGUP_STATE` (R541). -/
def Bringup.code : Bringup → Nat
  | .running => 0
  | .ready => 1
  | .failed => 2
  | .recovery => 3

/-- `LANE_MAP` of one direction (R418). -/
def Lanes.code (l : Lanes) : Nat :=
  (l.spare.getD 15) * 2 ^ 32 + l.word

/-- A number as the two's complement of `w` bits, held at the ends of its range. -/
def clampInt (w : Nat) (v : Int) : Nat :=
  bitsOfInt w (max (-(2 ^ (w - 1) : Int)) (min ((2 ^ (w - 1) : Int) - 1) v))

/-! ### Programs and keys (R479, R480, R516, R534, R539) -/

/-- The program that runs of a kind: the plan's own section for the kinds it carries, else the resident
one (R516); the boot ROM is fixed. -/
def State.program (s : State) (k : Nat) : Program :=
  match s.plan.bind (fun p => lookupKey k p.micro) with
  | some b => ⟨fieldAt b 12 4, sha3Nat b⟩
  | none => if k = 0 then ⟨Config.perPart 0x1001 0, Config.perPart 0x1002 0⟩
            else s.running.toList.getD (k - 1) ⟨0, 0⟩

/-- The customer key in force: the newest fuse entry, unless it is a revocation or the stored key did not
match it (R534, R539). -/
def State.customerKey (s : State) : Option (BitVec 256) :=
  if s.keyUnusable then none
  else match s.nv.fuses.getLast? with
  | some (some k) => some k
  | _ => none

/-! ### Counts by descriptor, predictor and core -/

/-- A per-item count, which holds at the largest value of its type (R83). -/
def State.countOf (s : State) (fam who i cap : Nat) : Nat :=
  min cap ((lookupKey (fam, who, i) s.counts).getD 0)

/-- `POOL_STATE` of a pool (R382). -/
def State.poolState (s : State) (pool sub : Nat) : Nat :=
  match s.plan with
  | none => 0
  | some p =>
    match sub with
    | 0 => p.poolCredits pool
    | 1 => s.poolFree p pool
    | 2 => (lookupKey pool s.poolLow).getD 0
    | _ => (lookupKey pool s.poolWaited).getD 0

/-- Cycles that logical cores mapped to a physical core have waited and no counter holds yet (R170). -/
def State.liveWait (s : State) (p : Nat) (ticks : Core → Nat) : Nat :=
  (indices 48).foldl (fun a c => if (s.physOf c).val = p then a + coreCycles (ticks c) else a) 0

/-- The partition modes of a physical core's arrays (R171). -/
def State.daMode (s : State) (p : Nat) : Nat :=
  match s.logicalOf p with
  | some c => (s.cores[c].daModes.toList.zipIdx).foldl (fun a (m, i) => a + m.val * 4 ^ i) 0
  | none => 0

/-- The key of a shared window (R452). -/
def State.rkey (s : State) (w : Nat) : Nat := (lookupKey w s.winGens).getD 0 % 2 ^ 24 * 256 + w

/-! ### Digests of the configuration (R441) -/

/-- An entry in a digest or in `STAGED_LIST` order: index, subindex, length and value (R441). -/
def entryBytes (idx sub : Nat) (v : Bytes) : Bytes := toLe 2 idx ++ toLe 1 sub ++ toLe 4 v.length ++ v

/-- The entries a plan sets. -/
def Plan.valueOf (p : Plan) (idx sub : Nat) : Option Bytes :=
  (p.values.find? (fun v => v.1 = idx && v.2.1 = sub)).map (fun v => v.2.2)

/-- The object digest of a plan: no write reaches an entry while a plan sets it, so each is in force with
the plan's value (R441, R476). -/
def Plan.objectDigest (p : Plan) : Nat :=
  let vs := sortBy (fun (a b : Nat × Nat × Bytes) => decide (objKey a.1 a.2.1 < objKey b.1 b.2.1)) p.values
  sha3Nat (vs.flatMap (fun v => entryBytes v.1 v.2.1 v.2.2))

/-- The configuration digest with a plan in force and a third part (R441); without a plan its parts are
empty (DEDUCED, log entry 28). -/
def configDigest (p : Option Plan) (part3 : Nat) : Nat :=
  match p with
  | some p => sha3Nat (toLe 32 p.objectDigest ++ toLe 32 p.setDigest ++ toLe 32 part3 ++ toLe 4 p.numModules)
  | none => sha3Nat (sha3 [] ++ toLe 32 0 ++ toLe 32 part3 ++ toLe 4 0)

/-- The third part: the set digest of a verified staged image that is not in force (R41, R441). -/
def State.stagedSet (s : State) (swaps : Bool) : Nat :=
  match s.verifiedStaged with
  | some p => if swaps then 0 else p.setDigest
  | none => 0

/-- The policy of a layer as `PRED_POLICY` holds it (R261, R283). -/
def Policy.code : Policy → Nat
  | .log => 0
  | .glean => 1
  | .halt => 2

/-- The value that a plan's own sections give an entry when it becomes active: `PRED_POLICY` and
`PRED_DETECT_FLOOR` of its layers (R261, R283). -/
def Plan.predValue (p : Plan) (idx sub : Nat) : Option Nat :=
  match p.preds[sub]? with
  | none => none
  | some l => if idx = 0x2501 then some l.policy.code else if idx = 0x2504 then some l.floor else none

/-- `IDENTITY_PUBLIC_KEY` (R480). -/
def identityKey : Bytes := (List.range 1312).map (Config.perPartByte 0x1003 2)

/-- A digit or a capital letter for each number (R480). -/
def serialChar (n : Nat) : Byte :=
  if n % 36 < 10 then BitVec.ofNat 8 (0x30 + n % 36) else BitVec.ofNat 8 (0x41 + (n % 36 - 10))

/-- Days of a month. -/
def monthDays (y m : Nat) : Nat :=
  if m = 2 then (if (y % 4 = 0 && y % 100 ≠ 0) || y % 400 = 0 then 29 else 28)
  else if [4, 6, 9, 11].contains m then 30 else 31

/-- A date as the decimal number YYYYMMDD for each number: every date of the calendar is one (R480; log entry 5). -/
def dateOf (n : Nat) : Nat :=
  let y := n / 372 % 10000
  let m := n / 31 % 12 + 1
  y * 10000 + m * 100 + (n % 31 % monthDays y m + 1)

/-! ### Scalars -/

/-- The value of a scalar entry for a reader's selections, as a number of its type. -/
def State.value (s : State) (sel : Selection) (idx sub : Nat) : Nat :=
  match idx with
  | 0x1000 => if sub = 4 then dateOf (Config.perPart 0x1000 4) else s.obj idx sub
  | 0x1001 => (s.program sub).version
  | 0x1002 => (s.program sub).digest
  | 0x1003 =>
    if sub = 1 then ((s.customerKey.map BitVec.toNat).getD 0)
    else if sub = 3 then sha3Nat identityKey else s.obj idx sub
  | 0x1004 =>
    if sub = 0 then configDigest s.plan (s.stagedSet false) else s.obj idx sub
  | 0x1005 => s.mgmt.challenge
  | 0x1006 => 4 - s.nv.fuses.length
  | 0x1200 => if sub = 0 then s.staged.length else if s.stageLock then 1 else 0
  | 0x2000 => (s.coreMap.toList.getD sub 0).val
  | 0x2001 => ((s.spares.toList.getD sub none).map Fin.val).getD 0xFF
  | 0x2002 => (s.island sub).code
  | 0x2003 => islandClock sub
  | 0x2004 => s.groupLit ⟨sub % 4, Nat.mod_lt _ (by decide)⟩
  | 0x2005 => ((s.lasers.toList[sub]?).map (fun l => l.cls.code)).getD 0
  | 0x2010 => if sub = 0 then s.bringup.code else s.obj idx sub
  | 0x2201 => s.daMode sub
  | 0x2404 => if s.syncFlags.contains sub then 1 else 0
  | 0x2500 =>
    if sub = 0 then ((s.plan.map (fun p => p.preds.length)).getD 0)
    else if sub = 2 then ((s.plan.map Plan.refPeriod).getD 0) else s.obj idx sub
  | 0x2502 => ((s.plan.bind (fun p => p.preds[sub]?)).map PredEntry.a).getD 0
  | 0x2503 => ((s.plan.bind (fun p => p.preds[sub]?)).map PredEntry.g).getD 0
  | 0x2600 =>
    if sub = 0 then (if (s.plan.map Plan.compat).getD false then 1 else 0)
    else if sub = 2 then ((s.plan.map (fun p => p.weightSets.length)).getD 0) else s.obj idx sub
  | 0x2602 => s.countOf 0x2602 sub 1 0xFFFFFFFFFFFFFFFF
  | 0x2603 => s.countOf 0x2603 sub 0 0xFFFFFFFFFFFFFFFF
  | 0x2701 => (s.temps.toList.getD sub 0).toNat
  | 0x2703 => ((s.thermal.toList[sub]?).map Thermal.code).getD 0
  | 0x2705 => s.cacheWays sub
  | 0x2802 => sel.pool
  | 0x2803 => s.poolState sel.pool sub
  | 0x2901 => ((s.ports.toList[sub]?).map (fun p => p.st.code)).getD 0
  | 0x2903 => ((s.ports.toList[sub / 2]?).map (fun p =>
      if sub % 2 = 0 then p.tx.code else p.rx.code)).getD 0
  | 0x2906 => ((s.lasers.toList[sub]?).map (fun l => l.dbm.toNat)).getD 0
  | 0x2A02 =>
    match sub with
    | 0 => s.gc.value
    | 1 => s.gc.st.code
    | 2 => clampInt 32 (if s.gc.samples.isEmpty then 0
      else s.gc.samples.foldl (· + ·) 0 * 1000 / (16 * s.gc.samples.length : Int))
    | 3 => (s.gc.parent.map Fin.val).getD 0xFF
    | 4 => (s.gc.root.map BitVec.toNat).getD 0xFFFF
    | _ => if s.gc.root.isNone then 0xFF else s.gc.dist
  | 0x2B00 => ((s.plan.map (fun p => p.windows.length)).getD 0)
  | 0x2B01 => s.rkey sub
  | 0x3002 => s.uptime / 1000000000
  | 0x3011 => sel.numeric
  | 0x3012 => s.countOf 0x3010 sel.numeric sub 0xFFFFFFFF
  | 0x3015 => s.countOf 0x3014 sel.numeric sub 0xFFFFFFFF
  | 0x3018 => s.countOf 0x3017 sel.numeric sub 0xFFFFFFFF
  | 0x3021 => s.countOf 0x3020 sel.numeric sub 0xFFFFFFFF
  | 0x302B => s.countOf idx sub 0 0xFFFFFFFFFFFFFFFF
  | 0x302C => s.countOf idx sub 0 0xFFFFFFFFFFFFFFFF
  | 0x302D => s.countOf idx sub 0 0xFFFFFFFFFFFFFFFF
  | 0x302E => s.countOf idx sub 0 0xFFFFFFFFFFFFFFFF
  | 0x302F => sel.pred
  | 0x3030 => s.countOf 0x302A sel.pred sub 0xFFFFFFFFFFFFFFFF
  | 0x301D => min 0xFFFFFFFFFFFFFFFF (s.obj idx sub + s.liveWait sub s.drainTicks)
  | 0x303E => min 0xFFFFFFFFFFFFFFFF (s.obj idx sub + s.liveWait sub s.creditTicks)
  | 0x3F00 => if sub = 0 then (if s.freeze.st = .capture || s.freeze.st = .full then 1 else 0) else s.obj idx sub
  | 0x5002 => if sub = 0 then s.imageSlot.digest else s.stagedSlot.digest
  | 0x5004 => if sub = 0 then s.step.current else s.step.status.code
  | 0x5005 => ((s.cores.toList[sub]?).map CoreState.last).getD 0
  | 0x5032 => if sub = 0 then s.mgmtIsland else s.obj idx sub
  | 0x5103 => match (s.nv.programs.toList[sub - 1]?).bind ProgramStore.staged with
    | some p => p.digest
    | none => 0
  | 0x5104 => s.pinned.toList.getD (sub - 1) 0
  | 0x6000 =>
    match sub with
    | 1 => s.log.recs.length
    | 2 => s.log.nextSeq
    | 3 => s.log.lost
    | _ => sel.eventFrom
  | _ => if 0x3100 ≤ idx && idx ≤ 0x3106 then (lookupKey (objKey idx sub) s.telemetry).getD 0
         else s.obj idx sub

/-- Bytes of a STR entry (R480). -/
def strBytes (sub : Nat) : Bytes :=
  match sub with
  | 0 => ascii "TGM96-LC"
  | 1 => ascii "960-0417-01"
  | _ => (List.range 12).map (fun i => serialChar (Config.perPartByte 0x1000 2 i).toNat)

/-- The value in force of an RWS entry. -/
def State.inForce (s : State) (o : Obj) (sub : Nat) : Bytes :=
  toLe (o.ty.size.getD 0) (s.value {} o.idx sub)

/-- The value of an RWS entry as it will be in force from a launch at which `p` becomes active, if any: the
plan's, then a staged one, else the one in force (R441, R474, R476). The count of a swap that takes place is 0 then,
unless another is staged (log entry 26). -/
def State.nextBytes (s : State) (swap : Option Plan) (o : Obj) (sub : Nat) : Bytes :=
  let byPlan : Option Bytes := match swap with
    | some p => match p.valueOf o.idx sub with
      | some v => some v
      | none => (p.predValue o.idx sub).map (toLe (o.ty.size.getD 0))
    | none => none
  match byPlan with
  | some v => v
  | none =>
    if o.idx = 0x5003 && swap.isSome then
      (if s.plan.isSome then lookupKey (objKey o.idx sub) s.staged else none).getD (toLe 8 0)
    else (lookupKey (objKey o.idx sub) s.staged).getD (s.inForce o sub)

/-- The RWS entries with their subindexes, in ascending order. -/
def rwsEntries : List (Obj × Nat) :=
  sortBy (fun (a b : Obj × Nat) => decide (objKey a.1.idx a.2 < objKey b.1.idx b.2))
    ((objects.filter (fun o => o.acc = .rws)).flatMap (fun o =>
      (List.range (o.hi + 1 - o.lo)).map (fun i => (o, o.lo + i))))

/-- The operational digest from a launch: every RWS entry the image in force does not set (R441). -/
def State.operationalDigest (s : State) (swap image : Option Plan) : Nat :=
  let es := rwsEntries.filter (fun e => itemExists image e.1.idx e.2 && (match image with
    | some p => (p.valueOf e.1.idx e.2).isNone
    | none => true))
  sha3Nat (es.flatMap (fun e => entryBytes e.1.idx e.2 (s.nextBytes swap e.1 e.2)))

/-- The configuration digest from a launch at GC `g` (R441). -/
def State.configDigestAt (s : State) (g : Nat) : Nat :=
  configDigest (s.imageAt g) (s.stagedSet (s.swapAt g).isSome)

/-- The GC for which the digests of a coming launch are taken: the host's count, else the planned one,
before the first launch the swap count itself (R440, R443; DEDUCED, log entry 29). -/
def State.nextGc (s : State) : Nat :=
  match s.agree.decided, s.agree.hostLaunch with
  | some l, _ => l.gc
  | none, some l => l.gc
  | none, none => if s.step.launched then s.step.planned else s.swapGc

/-! ### DOMAIN contents -/

/-- A descriptor's six counts in `NUMERIC_TABLE` (R86). -/
def State.numericRow (s : State) (n : Nat) : Bytes :=
  (List.range 6).flatMap (fun i => toLe 4 (s.countOf 0x3010 n i 0xFFFFFFFF))

/-- `STAGED_LIST` (R477). -/
def State.stagedList (s : State) : Bytes :=
  (sortBy (fun (a b : Nat × Bytes) => decide (a.1 < b.1)) s.staged).flatMap (fun e =>
    toLe 2 (e.1 / 256) ++ toLe 1 (e.1 % 256) ++ [0] ++ toLe 4 e.2.length
      ++ padTo (ceilDiv e.2.length 8 * 8) e.2)

/-- The 80 bytes of an audit record (R429). -/
def AuditRec.bytes (a : AuditRec) : Bytes :=
  toLe 8 a.step ++ toLe 4 a.desc ++ toLe 2 a.node.toNat ++ [0, 0] ++ toLe 32 a.prov ++ toLe 32 a.content

/-- The 48 bytes of a replay record (R430). -/
def ReplayRec.bytes (r : ReplayRec) : Bytes :=
  toLe 8 r.step ++ toLe 8 r.gc ++ toLe 4 r.epoch ++ toLe 4 (if r.relaunch then 1 else 0) ++ toLe 8 r.shift
    ++ toLe 16 r.seed

/-- The records of `EVENT_LOG` from the first at or after a sequence number on (R490). -/
def EventLog.from (l : EventLog) (seq : Nat) : List EventRec := l.recs.dropWhile (fun e => decide (e.seq < seq))

/-- The record of an island in `CAPTURE_ISLANDS`; its last 112 bytes are working state the spec does not
lay out (R512, log entry 6). -/
def State.islandRecord (s : State) (i : Nat) : Bytes :=
  toLe 1 i ++ toLe 1 (s.island i).code ++ [0, 0] ++ toLe 4 ((lookupKey i s.lastStarted).getD 0)
    ++ toLe 8 s.freeze.stopGc ++ (List.range 112).map (fun k => Config.freeByte s.freeze.draw (i * 112 + k))

/-- `CAPTURE_ISLANDS` (R512). -/
def State.captureIslands (s : State) : Bytes := islandIds.flatMap s.islandRecord

/-- A byte of memory as a reader outside the records gets it: a free value for a poisoned word and for a stack that is
off, since the spec does not say what such a read gives (R340, R347, log entry 6). -/
def State.byteFor (s : State) (draw a : Nat) : Byte :=
  if s.poisoned a 1 || (s.stackOut a 1).isSome then Config.freeByte draw a else s.byte a

/-- A byte of a read-out in a stop: an internal control block's as it stood at the freeze, zero where there is none,
and memory elsewhere (R22, R512, log entry 6). -/
def State.captureByte (s : State) (a : Nat) : Byte :=
  if 0x30000000000 ≤ a then (if Config.controlBlock a then Config.freeByte s.freeze.draw a else 0)
  else s.byteFor s.freeze.draw a

/-- The contents of a DOMAIN entry for a reader's selections, but for `CAPTURE_DATA`, which is read in
place. -/
def State.domain (s : State) (sel : Selection) (idx sub : Nat) : Bytes :=
  let ofPlan : Bytes := (s.plan.bind (fun p => p.valueOf idx sub)).getD []
  match idx with
  | 0x1003 => identityKey
  | 0x1100 => s.blob idx sub 16
  | 0x1101 => s.mgmt.attestReport
  | 0x1102 => s.blob idx sub 18
  | 0x1103 => s.blob idx sub 0
  | 0x1200 => s.stagedList
  | 0x2707 =>
    if sub = 0 then s.nv.repairs.flatMap repairBytes else s.badBlocks.flatMap (toLe 8)
  | 0x2708 => s.marginResult
  | 0x2907 =>
    if sub = 0 then s.downLinkBytes
    else if sub = 1 then s.activeSets.flatMap (fun k => toLe 2 k.1.toNat ++ toLe 1 k.2 ++ [0])
    else s.lostNodes.flatMap (fun n => toLe 2 n.toNat)
  | 0x2A05 => s.blob idx sub 128
  | 0x2A07 => if sub = 0 then s.auditLog.flatMap AuditRec.bytes else s.replayLog.flatMap ReplayRec.bytes
  | 0x2A08 => s.blob idx sub 16
  | 0x3013 => (List.range ((s.plan.map (fun p => p.descs.length)).getD 0)).flatMap s.numericRow
  | 0x3016 => ((lookupKey sel.numeric s.tileStatus).getD []).map (BitVec.ofNat 8)
  | 0x3F01 => s.captureIslands
  | 0x6000 => (s.log.from sel.eventFrom).flatMap EventRec.bytes
  | _ => ofPlan

/-- The bytes a READ of a scalar entry returns (R461, R469). The digests of the next launch are the staged
and planned values in force from it. -/
def State.readBytes (s : State) (sel : Selection) (o : Obj) (sub : Nat) : Bytes :=
  match o.ty with
  | .str => strBytes sub
  | .digest =>
    if o.idx = 0x1004 then
      toLe 32 (if sub = 0 then s.value sel 0x1004 0
        else if sub = 1 then s.configDigestAt s.nextGc
        else s.operationalDigest (s.swapAt s.nextGc) (s.imageAt s.nextGc))
    else toLe 32 (s.value sel o.idx sub)
  | _ => toLe (o.ty.size.getD 0) (s.value sel o.idx sub)

end Sys2Proof.Machine
end

