-- ==== Sys2Proof/Machine/Commit.lean ====
section
/-! DEFINITION. What commits at a step boundary: the step's counts, masks, versions, audit records, window
slots and checkpoint; staged values, programs, the plan swap and the core map (R17, R41, R55, R83, R105,
R252, R278, R292, R299, R337, R342, R413, R428, R429, R446, R457, R460, R474, R476, R499, R506, R518,
R519). -/

namespace Sys2Proof.Machine

/-! ### The step's own results -/

/-- Indexes of the module totals that a step's counts add to (R83, R482). -/
def totalFams : List Nat := [0x3010, 0x3014, 0x3017, 0x3019, 0x3020, 0x3027, 0x302A]

/-- Adds the step's counts to the counts by item and to the module totals (R83). -/
def State.commitCounts (s : State) : State :=
  s.step.counts.foldl (fun s e =>
    let s := { s with counts := addKey e.1 e.2 s.counts }
    if totalFams.contains e.1.1 then s.addObj e.1.1 e.1.2.2 e.2 else s) s

/-- The step's version of every weight set it wrote, and the largest use of each core's overflow half
(R289, R299, R324). -/
def State.commitSets (s : State) (p : Plan) : State :=
  let st := s.step.current
  let s := p.weightSets.zipIdx.foldl (fun s (w, i) =>
    if s.step.versions.any (fun v => v.1 = w.verdesc) then s.setObj 0x2601 i st else s) s
  (indices 48).foldl (fun s c =>
    let o := s.cores[c].overflow
    let used := if st % 2 = 0 then o.1 else o.2
    if s.obj 0x2604 c.val < used then s.setObj 0x2604 c.val used else s) s

/-- Stored entries of a masked matrix: the `NNZ` of all its tiles in the buffer that becomes current
(R252). -/
def State.storedEntries (s : State) (p : Plan) (m st : Nat) : Nat :=
  match p.weightSets.find? (fun w => w.masked && w.matrix = m) with
  | none => 0
  | some w =>
    match p.descAt (if st % 2 = 0 then w.vdesc.1 else w.vdesc.2) with
    | none => 0
    | some d => (List.range (d.size 1)).foldl (fun a i => a + (TileHdr.parse (s.slot d i)).nnz) 0

/-- Every pending matrix commits (R252). -/
def State.commitMasks (s : State) (p : Plan) : State :=
  let st := s.step.current
  let s := s.step.masks.foldl (fun s m =>
    let s := s.addObj 0x2401 m.1 1
    (s.setObj 0x2402 m.1 m.2).setObj 0x2403 m.1 (s.storedEntries p m.1 st)) s
  if s.maskStep p then s.addObj 0x2400 0 1 else s

/-- At a reference step the detection rate of each layer is held against its floor (R278). -/
def State.commitReference (s : State) (p : Plan) : State :=
  if !s.refStep p then s
  else
    (List.range p.preds.length).foldl (fun s l =>
      let n (fam : Nat) : Nat := (lookupKey (fam, l, 0) s.step.counts).getD 0
      if n 0x302D * 65536 < s.obj 0x2504 l * n 0x302C then
        (s.setObj 0x2505 l 1).mgmtEvent 0x3126 (toLe 1 l ++ toLe 4 ((lookupKey l s.step.refRecs).getD 0))
      else s.setObj 0x2505 l 0) s

/-! ### Audit (R427 to R429) -/

/-- The value-plane bytes of a slice in ascending element offset (R428): of a BRT-k tile the slots of the slice's rows in
the row form, empty ones included (R178), of another tile its entries by their place in the value plane, of a dense set
its elements row by row. -/
def State.sliceBytes (s : State) (w : WeightSet) (d : Desc) (j : Nat) (sl : SliceSpots) : Bytes :=
  match sl.tile with
  | some (i, t) =>
    if t.hdr.tfmt = 1 then
      let row := t.hdr.tk * d.fmt.bits / 8
      slice (s.slot d i) (64 + j % max 1 (128 / max 1 w.sliceRows) * w.sliceRows * row) (w.sliceRows * row)
    else packCodes d.fmt.bits ((sortBy (fun (a b : Spot) => decide (a.idx < b.idx)) sl.spots).map Spot.code)
  | none => packCodes d.fmt.bits (sl.spots.map Spot.code)

/-- The set digest of a version of a weight set, from its buffer (R428). -/
def State.formSetDigest (s : State) (p : Plan) (w : WeightSet) (v : Nat) : Nat :=
  match p.descAt (if v % 2 = 0 then w.vdesc.1 else w.vdesc.2) with
  | none => sha3Nat []
  | some d =>
    sha3Nat (((s.sliceSpots w d 0 w.slices).1).zipIdx.flatMap (fun (sl, j) => sha3 (s.sliceBytes w d j sl)))

/-- The set digest of a version, as it was formed when the version was written. -/
def State.setDigest (s : State) (p : Plan) (i : Nat) (w : WeightSet) (v : Nat) : Nat :=
  match s.setDigests.find? (fun e => e.1 = i && e.2.1 = v) with
  | some e => e.2.2
  | none => s.formSetDigest p w v

/-- Keeps the set digests of the versions the step wrote, and drops those no later step reads. -/
def State.keepSetDigests (s : State) (p : Plan) : State :=
  let st := s.step.current
  let new := (p.weightSets.zipIdx.filter (fun (w, _) => s.step.versions.any (fun v => v.1 = w.verdesc))).map
    (fun (w, i) => (i, st, s.formSetDigest p w st))
  { s with setDigests := (s.setDigests.filter (fun e => decide (st ≤ e.2.1 + 2) && e.2.1 ≠ st)) ++ new }

/-- A record reads a weight set of the plan (R291). -/
def Rec.readsSet (p : Plan) (r : Rec) (i : Nat) (w : WeightSet) : Bool :=
  match r.sliceRange with
  | some (k, _, _) => k = i
  | none =>
    (r.named p).any (fun n => w.buffered.contains n && (r.engine = 6 || !(r.writes p).contains n))

/-- The versions of a weight set read in the step, rising (R428). -/
def State.versionsRead (s : State) (p : Plan) (i : Nat) (w : WeightSet) : List Nat :=
  let st := s.step.current
  ([2, 1, 0].filter (fun k => decide (k ≤ st) && p.records.any (fun l => l.any (fun r =>
    !s.outOfStep p r && r.verOffset p = (2 ^ 32 - k) % 2 ^ 32 && r.readsSet p i w)))).map (st - ·)

/-- The weight digest of the step (R428). -/
def State.weightDigest (s : State) (p : Plan) : Nat :=
  sha3Nat (p.weightSets.zipIdx.flatMap (fun (w, i) =>
    (s.versionsRead p i w).flatMap (fun v => toLe 1 i ++ toLe 8 v ++ toLe 32 (s.setDigest p i w v))))

/-- The input digest of the step (R428). -/
def State.inputDigest (s : State) : Nat :=
  let ds := sortBy (fun (a b : Nat × Nat × Nat) => decide (a.1 < b.1) || (a.1 = b.1 && decide (a.2.1 < b.2.1)))
    s.step.slotDigests
  sha3Nat (ds.flatMap (fun d => toLe 1 d.1 ++ toLe 4 d.2.1 ++ toLe 32 d.2.2))

/-- The audit records of the step, in ascending descriptor number (R429). -/
def State.auditRecs (s : State) (p : Plan) : List AuditRec :=
  let w := s.weightDigest p
  let i := s.inputDigest
  let rs := sortBy (fun (a b : Nat × Option (Nat × Nat)) => decide (a.1 < b.1)) s.step.results
  rs.filterMap (fun r => (p.descAt r.1).map (fun d =>
    ⟨s.step.current, r.1, p.nodeId,
     sha3Nat (toLe 32 p.imageDigest ++ toLe 32 w ++ toLe 32 i ++ toLe 8 s.step.current ++ toLe 4 r.1),
     s.contentDigest d⟩))

/-- Keeps the newest 65,536 of a log (R430). -/
def keepLog {α : Type} (l : List α) : List α := l.drop (l.length - 65536)

/-! ### Window slots (R460) -/

/-- Writes a new flag into a slot's flag word: `FSEQ` rises by one (R456, R459). -/
def State.setFlag (s : State) (a flag : Nat) : State :=
  let fseq := s.word (a + 4) 4
  s.writeRun a (toLe 8 ((fseq + 1) % 2 ^ 32 * 2 ^ 32 + flag))

/-- Flips one slot at the commit of the step (R460). -/
def State.flipSlot (s : State) (p : Plan) (recs : List AuditRec) (k : Nat × Nat) : State :=
  match p.window k.1 with
  | none => s
  | some w =>
    let a := p.slotEntry w k.2
    if s.step.slotsPoisoned.contains k then
      (s.setFlag a 3).mgmtEvent 0x4A02 (toLe 1 k.1 ++ toLe 4 k.2)
    else
      let mine := recs.filter (fun r => s.step.results.contains (r.desc, some k))
      let audit := match mine.getLast? with
        | some r => r.bytes
        | none => List.replicate 80 0
      (s.setFlag a 1).writeRun (a + 8) (toLe 8 s.step.current ++ audit)

/-- Flips every slot the step accessed in ascending order, then notifies (R460, R465). -/
def State.flipSlots (s : State) (p : Plan) (recs : List AuditRec) : State :=
  let ks := sortBy (fun (a b : Nat × Nat) => decide (a.1 < b.1) || (a.1 = b.1 && decide (a.2 < b.2)))
    s.step.slotsUsed
  let s := ks.foldl (fun s k => s.flipSlot p recs k) s
  p.windows.foldl (fun s w =>
    match (ks.filter (fun k => k.1 = w.num)) with
    | [] => s
    | k :: rest =>
      if w.notify then
        s.notice ([2] ++ toLe 1 w.num ++ toLe 8 s.step.current ++ toLe 4 (rest.length + 1) ++ toLe 4 k.2)
      else s) s

/-! ### Checkpoints (R502, R503, R506) -/

/-- The slot of checkpoint `t` (R502). -/
def Plan.ckptSlot (p : Plan) (t : Nat) : Nat := t / (max 1 p.ckptPeriod) % 2

/-- Base of slot `k` of a region (R503). -/
def CkptTable.slot (c : CkptTable) (base k : Nat) : Nat := base + k * c.slotBytes

/-- Address of row `j` of a slot's entry table (R503). -/
def CkptTable.row (c : CkptTable) (slot j : Nat) : Nat := slot + c.slotBytes - 48 * c.entries + 48 * j

/-- The shard digest of a slot: SHA3-256 of its entry table (R506). -/
def State.shardDigest (s : State) (c : CkptTable) (slot : Nat) : Nat :=
  sha3Nat (s.bytes (c.row slot 0) (48 * c.entries))

/-- Checkpoint t commits with step t: t and the shard digest, of the local slot and of the ward slot (R506). -/
def State.commitCkpt (s : State) (p : Plan) : State :=
  let t := s.step.current
  match p.ckpt with
  | some c =>
    if s.ckptStep p then
      let k := p.ckptSlot t
      { ((s.setObj 0x5021 k t).setObj 0x5021 (k + 2) t).setObj 0x5022 k (s.shardDigest c (c.slot c.localBase k)) with
        wardDigests := vmapIdx (fun i d => if i = k then s.shardDigest c (c.slot c.wardBase k) else d) s.wardDigests }
    else s
  | none => s

/-! ### The commit of a step (R55, R446) -/

/-- Everything the completed step commits. -/
def State.commitStep (s : State) (p : Plan) : State :=
  let s := s.commitCounts
  let s := { s with tileStatus := s.step.tiles, poolLow := p.poolLows s.step.poolLow
                    poolWaited := s.step.poolWaited }
  let s := ((s.commitSets p).commitMasks p).commitReference p
  let s := s.keepSetDigests p
  let recs := if s.auditing then s.auditRecs p else []
  let s := { s with auditLog := keepLog (s.auditLog ++ recs) }
  let s := (s.flipSlots p recs).commitCkpt p
  (s.addObj 0x3001 0 1).setObj 0x2A06 0 (s.step.endGc - s.step.launchGc)

/-! ### Programs (R518, R519) -/

/-- The standby island starts the new firmware and becomes active; the other loads it (R501, R519). -/
def State.swapMgmt (s : State) : State :=
  match s.mgmt.active with
  | .a => (({ s with mgmt := { s.mgmt with active := .b } }).setObj 0x5032 1 1).mgmtEvent 0x2502 []
  | .b => ({ s with mgmt := { s.mgmt with active := .a } }).setObj 0x5032 1 1

/-- A verified staged image becomes the running program, and is written over the previous copy of the store
(R518, R519, R533). With kind 0x01, B becomes active and A its standby, which loads (R501, R519). -/
def State.runProgram (s : State) (k : Kind) (new : Program) : State :=
  let st := s.nv.programs[k]
  let s := { s with nv := s.nv.modStores (fun x => x.setProgram k ⟨new, st.current, none⟩)
                    running := s.running.set k new }
  let s := s.setObj 0x5101 (k.val + 1) 0
  let s := if k = 0 then s.swapMgmt else s
  s.mgmtEvent 0x7202 (toLe 1 (k.val + 1))

/-- A pin comes into force: a changed one that names the staged image makes it run (R518). One for management firmware
does not where no standby is ready (R501; DEDUCED, log entry 173). -/
def State.setPin (s : State) (k : Kind) (digest : Nat) : State :=
  let changed := s.pinned[k] ≠ digest
  if k = 0 && changed && s.obj 0x5032 1 ≠ 0 then s
  else
  let s := { s with pinned := s.pinned.set k digest }
  match s.nv.programs[k].staged with
  | some p => if changed && p.digest = digest then s.runProgram k p else s
  | none => s

/-! ### Staged values and plan swaps (R41, R474, R476) -/

/-- A value of an RWS entry comes into force. -/
def State.putValue (s : State) (key : Nat) (v : Bytes) : State :=
  if key / 256 = 0x5104 then
    if h : 1 ≤ key % 256 ∧ key % 256 ≤ 9 then s.setPin ⟨key % 256 - 1, by omega⟩ (leNat v) else s
  else s.setObj (key / 256) (key % 256) (leNat v)

/-- Every staged value comes into force in ascending order and the list empties (R474). -/
def State.commitStaged (s : State) (gc : Nat) : State :=
  if s.staged.isEmpty then s
  else
    let vs := sortBy (fun (a b : Nat × Bytes) => decide (a.1 < b.1)) s.staged
    let s := ((({ s with staged := [] }).setObj 0x1201 0 gc).setObj 0x1201 1 vs.length)
    vs.foldl (fun s e => s.putValue e.1 e.2) s

/-- A window keeps its header and slots from one plan to the next (R457). -/
def Plan.keepsWindow (old new : Plan) (w : Window) : Bool :=
  match old.window w.num with
  | some v => old.winBase v = new.winBase w && v.slots = w.slots && v.slotSize = w.slotSize
      && ((old.allocs[v.alloc]?).map Alloc.len) = ((new.allocs[w.alloc]?).map Alloc.len)
  | none => false

/-- Initialises a window: its head with the next generation, and every slot entry FREE (R456, R457). -/
def State.initWindow (s : State) (p : Plan) (w : Window) : State :=
  let gen := (lookupKey w.num s.winGens).getD 0 + 1
  let s := { s with winGens := setKey w.num gen s.winGens }
  let head := ascii "TG96WIND" ++ toLe 1 w.num ++ [if w.notify then 1 else 0, 0, 0] ++ toLe 4 w.slots
    ++ toLe 8 w.slotSize ++ toLe 8 w.headLen ++ toLe 8 gen ++ List.replicate 88 0
  let s := s.writeRun (p.winBase w) head
  (List.range w.slots).foldl (fun s i =>
    s.writeRun (p.slotEntry w i) (toLe 8 0 ++ List.replicate 8 0xFF ++ List.replicate 112 0)) s

/-- A weight set is carried over from the plan that was active before (R292). -/
def Plan.carries (old new : Plan) (i : Nat) (w : WeightSet) : Bool :=
  match old.weightSets[i]? with
  | some v => v.kind = w.kind && v.masked = w.masked && v.low = w.low && v.m1 = w.m1 && v.m2 = w.m2
      && (v.verdesc :: v.buffered).map old.descAt = (w.verdesc :: w.buffered).map new.descAt
  | none => false

/-- Every version entry of a fresh weight set matches no read (R292). -/
def State.freshSet (s : State) (i : Nat) (w : WeightSet) : State :=
  let s := { s with setDigests := s.setDigests.filter (fun e => e.1 ≠ i) }
  let s := s.setObj 0x2601 i 0
  (List.range w.slices).foldl (fun s j =>
    (s.setVersion w.verdesc j 0 (2 ^ 64 - 1)).setVersion w.verdesc j 1 (2 ^ 64 - 1)) s

/-- Clears every count that follows R83, with what the spec counts from the activation of an image (R83,
R257, R482). -/
def State.clearCounts (s : State) : State :=
  let s := { s with counts := [], tileStatus := [], poolLow := [], poolWaited := [] }
  let s := totalFams.foldl (fun s f => (List.range 6).foldl (fun s i =>
    if (objFind f i).isSome then s.setObj f i 0 else s) s) s
  let s := (List.range 48).foldl (fun s c => s.setObj 0x2604 c 0) s
  (List.range 256).foldl (fun s l => s.setObj 0x2505 l 0) (s.setObj 0x2400 0 0)

/-- The module can run a plan although a sparse engine of it is fenced (R500). -/
def State.unstuck (s : State) (p : Plan) : State :=
  let uses := s.seFenced.any (fun i => match s.logicalOf i with
    | some c => (p.records.getD c.val []).any (fun r => r.engine = 2)
    | none => false)
  if s.seFenced.isEmpty || uses then s else ({ s with planStuck := false }).driveFault

/-- A verified staged image becomes active (R41, R83, R292, R335, R359, R413, R457, R476). `PLAN_SWAP_GC` in force
returns to 0, as R507 states of a restore: the swap it named has taken place (DESIGN CHOICE, log entry 26). -/
def State.activate (s : State) (p : Plan) : State :=
  let old := s.plan
  let s := { s with plan := some p
                    activeSlot := some (s.activeSlot = some false)
                    caches := Vector.replicate 4 []
                    sheaves := Vector.replicate 8 []
                    activeSets := [] }
  let s := ((s.setObj 0x5001 0 0).setObj 0x5001 1 0).setObj 0x5003 0 0
  let s := s.clearCounts
  let s := (p.preds.zipIdx).foldl (fun s (l, i) =>
    (s.setObj 0x2501 i l.policy.code).setObj 0x2504 i l.floor) s
  let s := p.values.foldl (fun s v =>
    match (objFind v.1 v.2.1).bind (fun o => o.ty.size) with
    | some _ => s.putValue (objKey v.1 v.2.1) v.2.2
    | none => s) s
  let s := (p.weightSets.zipIdx).foldl (fun s (w, i) =>
    match old with
    | some o => if o.carries p i w then s else s.freshSet i w
    | none => s.freshSet i w) s
  let s := p.windows.foldl (fun s w =>
    match old with
    | some o => if o.keepsWindow p w then s else s.initWindow p w
    | none => s.initWindow p w) s
  s.unstuck p

/-- Staged values and, where it is due, the plan swap commit together at a launch GC or a restore, and the
configuration epoch rises (R441, R446, R474). A staged swap count that a first activation has used up is
not kept (log entry 26). -/
def State.commitConfig (s : State) (swap : Option Plan) (gc : Nat) : State :=
  let any := !s.staged.isEmpty || swap.isSome
  let count := if s.plan.isSome then lookupKey (objKey 0x5003 0) s.staged else none
  let s := s.commitStaged gc
  let s := match swap with
    | some p =>
      let s := s.activate p
      match count, p.valueOf 0x5003 0 with
      | some v, none => s.setObj 0x5003 0 (leNat v)
      | _, _ => s
    | none => s
  if any then
    ({ s with epochCommitGc := some gc }).setObj 0x1004 3 ((s.epoch + 1) % 2 ^ 32)
  else s

/-! ### The core map, rows and routes (R17, R342, R413) -/

/-- The core map changes that are due commit; writes held for a spared store are delivered and their
transfers acknowledged (R398, R499). -/
def State.commitMap (s : State) : State :=
  let s := s.commitSpares
  s.inbound.foldl (fun s t => s.endTransfer t) s

/-- The backup sets that a set of down links calls for (R412, R413): the key is the lower end. -/
def State.setsFor (s : State) (p : Plan) : List (BitVec 16 × Nat) :=
  (p.backups.map (fun b => (b.lnode, b.lport))).filter (fun k => s.downLinks.any (fun l => l.a = k))

/-- The output ports of a route, hop by hop (R394). -/
def Route.ports (r : Route) : List Nat := (List.range r.hops).map (fun h => r.path.toNat / 2 ^ (5 * h) % 32)

/-- The node that a path from this module has reached, where the plan's routes and the port's peer tell it: this
module at no hop, and the destination of the route that has these hops (R394, R395). -/
def State.nodeAfter (s : State) (p : Plan) (hops : List Nat) : Option (BitVec 16) :=
  if hops.isEmpty then some s.nodeId
  else match p.routes.find? (fun r => r.ports = hops) with
  | some r => some r.dst
  | none => match hops with
    | [h] => let v := s.obj 0x2902 h
      if v = 0xFFFFFFFF then none else some (BitVec.ofNat 16 v)
    | _ => none

/-- A route crosses a link: at some hop it leaves by one of the link's ends (R413; DEDUCED, log entry 30). -/
def State.crosses (s : State) (p : Plan) (r : Route) (l : DownLink) : Bool :=
  (List.range r.hops).any (fun h => match s.nodeAfter p (r.ports.take h) with
    | some n => (n, r.ports.getD h 0) = l.a || (n, r.ports.getD h 0) = l.b
    | none => false)

/-- The down links are covered by the image in force from a launch: no destination is replaced twice, and a link that a
route crosses has a set (R413). The sets active now stay so unless the launch swaps the plan (`swap`). -/
def State.covered (s : State) (p : Plan) (swap : Bool) : Bool :=
  let keys := addNew (if swap then [] else s.activeSets) (s.setsFor p)
  let dsts := (p.backups.filter (fun b => keys.contains (b.lnode, b.lport))).flatMap
    (fun b => b.routes.map Route.dst)
  let bare := s.downLinks.any (fun l => !keys.contains l.a && p.routes.any (fun r => s.crosses p r l))
  dsts.eraseDups.length = dsts.length && !bare

/-- The sets of the agreed down links become active (R413). -/
def State.activateSets (s : State) (p : Plan) : State :=
  (s.setsFor p).foldl (fun s k =>
    if s.activeSets.contains k then s
    else ({ s with activeSets := s.activeSets ++ [k] }).mgmtEvent 0x6107 (toLe 2 k.1.toNat ++ toLe 1 k.2)) s

end Sys2Proof.Machine
end

