-- ==== Sys2Proof/Machine/Launch.lean ====
section
/-! DEFINITION. The launch agreement and the launch of a step (R41, R47, R50, R51, R299, R300, R337, R345,
R413, R425, R430, R435, R438 to R447, R475, R499, R502, R506). -/

namespace Sys2Proof.Machine

/-! ### Contribution (R442, R443) -/

/-- The planned launch GC: the host's `LAUNCH_GC`, else the `P` of the last launch (R440). -/
def State.plannedGc (s : State) : Nat :=
  match s.agree.hostLaunch with
  | some l => l.gc
  | none => s.step.planned

/-- The step before the coming launch has ended: completed, aborted, or none where the host launches
(R442). -/
def State.boundary (s : State) : Bool :=
  match s.agree.hostLaunch with
  | some _ => s.step.status = .idle || s.step.status = .aborted
  | none => s.step.launched && (s.step.status = .ended || s.step.status = .aborted)

/-- The module has aborted the step since it contributed. -/
def State.wordsStale (s : State) : Bool :=
  s.agree.hostLaunch.isNone && s.step.status = .aborted && !s.agree.saidAborted

/-- The next attempt begins: at once, or at a GC (R444). -/
def State.newAttempt (s : State) (at' : Option Nat) : State :=
  { s with agree := { s.agree with attempt := s.agree.attempt + 1, contributed := false, resA := none,
                                   resB := none, decided := none, retryAt := at' } }

/-- The key of a round of the agreement (R442). -/
def State.agreeName (s : State) (b : Bool) : RoundName :=
  ⟨0, if b then 1 else 0, 0,
   s.launchStep % 2 ^ 48 + s.agree.attempt % 2 ^ 15 * 2 ^ 48 + (if b then 2 ^ 63 else 0)⟩

/-- A module's configuration agrees with the image in force from the launch (R441). -/
def configHolds (p : Plan) : Bool := configDigest (some p) 0 = p.configDigest

/-- Words of a digest (R443). -/
def digestWords (d : Bytes) : List Nat := (List.range 8).map (fun i => fieldAt d (4 * i) 4)

/-- The run seed from the launch, 16 bytes (R443, R448). -/
def State.seedNext (s : State) (swap : Option Plan) : Bytes :=
  match objFind 0x2A01 0 with
  | some o => s.nextBytes swap o 0 ++ s.nextBytes swap o 1
  | none => []

/-- The launch digest (R443). -/
def State.launchDigest (s : State) : Bytes :=
  let g := s.plannedGc
  sha3 (toLe 32 (s.configDigestAt g) ++ toLe 32 (s.operationalDigest (s.swapAt g) (s.imageAt g))
    ++ s.seedNext (s.swapAt g) ++ toLe 8 s.launchStep ++ s.downLinkBytes)

/-- An automatic relaunch is allowed on this module (R445). -/
def State.autoAllowed (s : State) : Bool :=
  s.obj 0x2A04 4 = 1 && s.obj 0x2600 4 = 1 && decide (s.step.relaunches < s.obj 0x2A04 5) &&
    s.step.causes.all (fun c => c = 0x4704 || [1, 2, 5, 6].contains (c.toNat / 4096))

/-- The clock is ready to launch (R435). -/
def State.gcReady (s : State) : Bool := s.gc.st = .locked || s.gc.st = .holdover

/-- The shift this module asks for: the largest of the holds for the launch, and a hold of its own while a
stack is HOT (R345, R414). -/
def State.askedShift (s : State) : Nat :=
  max ((lookupKey s.launchStep s.holds).getD 0)
    (if s.thermal.toList.any (· = .hold) then s.obj 0x2704 0 else 0)

/-- A plan swap is due at a launch GC, and this module holds no verified image for it: the agreement fails, so the
module is not ready (R41; DEDUCED, log entry 143). -/
def State.swapMissing (s : State) (g : Nat) : Bool :=
  decide (0 < s.swapGc) && decide (s.swapGc ≤ g) && s.verifiedStaged.isNone

/-- The words of round B (R443). -/
def State.roundB (s : State) (p : Plan) : List Nat :=
  let host := s.agree.hostLaunch.isSome
  let aborted := !host && s.step.status = .aborted
  let bit (b : Bool) : Nat := if b then 1 else 0
  [bit aborted, bit (!s.autoAllowed),
   bit (!s.gcReady || !configHolds p || s.mustAlign p || s.swapMissing s.plannedGc),
   min s.askedShift 0xFFFFFFFF,
   min (s.agree.contribGc + p.launch.settle - s.plannedGc) 0xFFFFFFFF,
   if aborted then ((s.step.causes.head?).getD 0).toNat else 0, 0, 0]

/-- The module may contribute now; one that has lost an island it cannot run its plan without does not (R25, R347, R411,
R442, R499; DEDUCED, log entry 158). -/
def State.mayContribute (s : State) (p : Plan) : Bool :=
  s.boundary && !s.moduleLost && !s.agree.contributed && s.agree.decided.isNone && !s.agree.stopped
    && s.agree.retryAt.isNone && s.lostNodes.isEmpty && !s.sparingBusy
    && decide (s.plannedGc ≤ s.gc.value + p.launch.lead)

/-- Contributes to both rounds of an attempt; the staging lock begins (R442, R475). -/
def State.joinAttempt (s : State) (p : Plan) : State :=
  let said := s.agree.hostLaunch.isNone && s.step.status = .aborted
  let s := { s with stageLock := true
                    agree := { s.agree with contributed := true, contribGc := s.gc.value, saidAborted := said,
                                            resA := none, resB := none } }
  let s := if configHolds p || s.agree.digestLogged then s
    else ({ s with agree := { s.agree with digestLogged := true } }).mgmtEvent 0x4904 []
  let a := s.agreeName false
  let b := s.agreeName true
  let wa := digestWords s.launchDigest
  let wb := s.roundB p
  let s := match s.contribute a wa with
    | (s, some r) => s.roundDone a r.1 r.2
    | (s, none) => s
  match s.contribute b wb with
  | (s, some r) => s.roundDone b r.1 r.2
  | (s, none) => s

/-- `AGREE_CONTRIBUTE` (R442): a module whose step has ended joins the agreement within `AGREE_LEAD` of the
planned launch. Sparings that wait for the end of the step start first (R499); a step aborted since its launch
was agreed leads to a new attempt at once (DEDUCED, log entry 31). -/
def execAgreeContribute (s : State) : Result :=
  if !s.awake then .next s
  else
    let s := s.startScheduled
    let stale := s.wordsStale && (match s.agree.decided with
      | some l => !l.relaunch
      | none => false)
    let s := if stale then s.newAttempt none else s
    match s.imageAt s.plannedGc with
    | none => .next s
    | some p => if s.mayContribute p then .next (s.joinAttempt p) else .next s

/-! ### Outcomes (R444) -/

/-- `AGREE_LAST`: minimum and maximum words of rounds A and B (R448). -/
def agreeLast (a b : List Nat × List Nat) : Bytes :=
  (a.1 ++ a.2 ++ b.1 ++ b.2).flatMap (toLe 4)

/-- The attempts stop without a launch, and the step does not commit (R413, R444). -/
def State.stopAttempts (s : State) (cause : BitVec 16) : State :=
  (if s.step.status = .ended then s.abortStep cause else s).endAttempts

/-- A new attempt after one that found a module not ready; its event is logged once (R444). -/
def State.notReady (s : State) : State :=
  let s := if s.agree.notReadyLogged then s
    else ({ s with agree := { s.agree with notReadyLogged := true } }).mgmtEvent 0x4906 []
  s.newAttempt (some (s.gc.value + 1000000))

/-- Decides a launch, unless a plan swap due at it has no image, or the down links are not covered by the image in
force from it (R41, R413, R444). -/
def State.decideLaunch (s : State) (step shift : Nat) (relaunch : Bool) : State :=
  let l : LaunchPlan := ⟨step, s.plannedGc + shift, shift, relaunch⟩
  if s.swapMissing l.gc then s.notReady
  else if (match s.imageAt l.gc with
    | some p => s.covered p (s.swapAt l.gc).isSome
    | none => true) then { s with agree := { s.agree with decided := some l } }
  else (s.mgmtEvent 0x6108 (toLe 8 step)).stopAttempts 0x6108

/-- What an attempt's results lead to (R444). -/
def State.outcome (s : State) (a b : List Nat × List Nat) : State :=
  let hi (i : Nat) : Nat := b.2.getD i 0
  let shift := max (hi 3) (hi 4)
  let cause := BitVec.ofNat 16 (hi 5)
  if a.1 ≠ a.2 then
    let n := s.agree.differing + 1
    if 3 ≤ n then (s.mgmtEvent 0x4901 []).stopAttempts 0x4901
    else ({ s with agree := { s.agree with differing := n } }).newAttempt (some (s.gc.value + 10000))
  else
    let s := { s with agree := { s.agree with differing := 0 } }
    if hi 2 ≠ 0 then s.notReady
    else if hi 0 = 0 then
      if s.wordsStale then s.newAttempt none else s.decideLaunch s.launchStep shift false
    else
      let s := s.mgmtEvent 0x4902 (toLe 2 cause.toNat)
      if hi 1 = 0 then
        let s := if s.step.status = .ended then s.abortStep cause else s
        if s.agree.hostLaunch.isSome then s.decideLaunch s.launchStep shift false
        else s.decideLaunch s.step.current shift true
      else (s.mgmtEvent 0x4903 []).stopAttempts cause

/-- `AGREE_ATTEMPT_END` (R444): both rounds of the attempt have ended. -/
def execAgreeAttemptEnd (s : State) : Result :=
  match s.agree.resA, s.agree.resB with
  | some a, some b =>
    if !s.awake || !s.agree.contributed || s.agree.decided.isSome then .next s
    else
      let s := { s with blobs := setKey (objKey 0x2A05 0) (agreeLast a b) s.blobs }
      .next (s.outcome a b)
  | _, _ => .next s

/-- `AGREE_RETRY_TIMER` (R444): the wait before a new attempt is over. -/
def execAgreeRetryTimer (s : State) : Result :=
  match s.agree.retryAt with
  | none => .next s
  | some t =>
    if !s.awake || decide (s.gc.value < t) then .next s
    else .next { s with agree := { s.agree with retryAt := none } }

/-! ### The launch (R446) -/

/-- Ticks that the launch rules add after step `n` (R439, R440). -/
def LaunchRules.extra (l : LaunchRules) (n : Nat) : Nat :=
  l.rules.foldl (fun a r => if n % (max 1 r.1) = r.2.1 then a + r.2.2 else a) 0

/-- Sets every row of a stash directory's bank to `EMPTY` (R300). -/
def State.emptyBank (s : State) (d : Desc) (bank : Nat) : State :=
  (List.range 4096).foldl (fun s i => s.writeCodes d [0, 4096 * bank + i] (List.replicate 16 0)) s

/-- The stash directories of a plan: those its stash writes, stash reads and gates name (R298, R301, R302). -/
def Plan.stashDirs (p : Plan) : List Nat :=
  (p.records.flatMap (fun l => (l.filter (fun r =>
    (r.engine = 5 && (r.func = 3 || r.func = 4)) || (r.engine = 0 && r.func = 1))).filterMap Rec.desc4)).eraseDups

/-- A core at the launch of step `n`: its tallies are zero and it starts at its first record; the overflow
pointer of the step's half is zero, and the set of cancelled tags is empty (R47, R51, R299, R378). Reads of an aborted
step that are still in flight land (R380). -/
def CoreState.launch (n : Nat) (k : CoreState) : CoreState :=
  { CoreState.idle with
    held := k.held.filter (fun h => h.1 ≠ n)
    landing := k.landing
    last := k.last
    daModes := k.daModes
    overflow := if n % 2 = 0 then (0, k.overflow.2) else (k.overflow.1, 0)
    overflowHigh := k.overflowHigh }

/-- Adds the signals held for step `n` to the zeroed tallies; an overflow aborts the step, which clears those that
are left (R47, R50, R55). -/
def State.applyHeld (s : State) (n : Nat) (held : List (Core × List (Nat × Fin 64 × Nat))) : State :=
  held.foldl (fun s k => k.2.foldl (fun s h =>
    if h.1 = n && s.step.status = .running then s.addTally k.1 h.2.1 h.2.2 else s) s) s

/-- Both copies in a carrying step's slot become invalid at its launch (R506). -/
def State.dropCkpt (s : State) (p : Plan) : State :=
  if s.ckptStep p then
    let k := p.ckptSlot s.step.current
    (s.setObj 0x5021 k (2 ^ 64 - 1)).setObj 0x5021 (k + 2) (2 ^ 64 - 1)
  else s

/-- The step that a launch makes current, with everything that a launch starts afresh (R47, R51, R321, R337, R376,
R440). -/
def State.armStep (s : State) (p : Plan) (l : LaunchPlan) : State :=
  let n := l.step
  let again := if l.relaunch then s.step.relaunches + 1 else 0
  let key := s.launchStep
  { s with
    step := { StepState.initial with
      current := n, status := .running, launched := true, lastLaunched := n, launchGc := l.gc,
      planned := l.gc + p.launch.period + p.launch.extra n, relaunches := again }
    cores := vmap (CoreState.launch n) s.cores
    caches := vmap (List.map (fun (c : CacheLine) => { c with sticky := false })) s.caches
    standing := []
    pauses := s.pauses ++ [(s.step.stoppedGc, s.gc.value)]
    chainHeld := []
    holds := s.holds.filter (fun h => decide (key < h.1))
    holdsHeard := s.holdsHeard.filter (fun h => decide (key < h))
    rounds := s.rounds.filter (fun r => r.name.kind = 2 || r.name.key % 2 ^ 48 ≠ key % 2 ^ 48)
    agree := AgreeState.initial
    stageLock := false
    coreFaults := if l.relaunch then s.coreFaults else []
    collFaults := if l.relaunch then s.collFaults else [] }

/-- Starts step `l.step` at GC `l.gc` under the plan in force: banks are emptied, the checkpoint slots it fills become
invalid, and the signals held for it count (R50, R299, R300, R321, R506). -/
def State.startStep (s : State) (p : Plan) (l : LaunchPlan) : State :=
  let n := l.step
  let aborts := s.step.nextAborts
  let held := (indices 48).map (fun c => (c, s.cores[c].held))
  let s := (s.armStep p l).setObj 0x2600 4 1
  let s := p.stashDirs.foldl (fun s d => match p.descAt d with
    | some d => s.emptyBank d (n % 2)
    | none => s) s
  let s := s.dropCkpt p
  let s := s.applyHeld n held
  if aborts then s.abortStep 0x4104 else s

/-- Replay mode is on (R427). -/
def State.replaying (s : State) : Bool := (s.obj 0x2A00 0).testBit 1

/-- What a launch leaves in the objects and the replay log (R430, R448, R483). -/
def State.noteLaunch (s : State) (l : LaunchPlan) (again : Bool) : State :=
  let s := (s.setObj 0x2A04 2 l.gc).setObj 0x2A04 3 l.shift
  let s := if l.relaunch then s.addObj 0x3001 2 1 else s
  if s.replaying then
    { s with replayLog := keepLog (s.replayLog ++
        [⟨l.step, l.gc, s.epoch, again, l.shift, s.obj 0x2A01 0 + s.obj 0x2A01 1 * 2 ^ 64⟩]) }
  else s

/-- The image holds the step (R425, R440). -/
def Plan.holdsStep (p : Plan) (n : Nat) : Bool :=
  decide (p.stepFirst ≤ n) && decide (n ≤ p.stepLast) && decide (n < 2 ^ 48)

/-- Commits what is due and launches (R446). A step outside the image is not launched: the one before it
stays committed, and the module idles (R440; DEDUCED, log entry 32). -/
def State.launch (s : State) (l : LaunchPlan) : State :=
  let commits := !l.relaunch && s.agree.hostLaunch.isNone && s.step.status = .ended
  let again := l.relaunch || (s.step.launched && s.step.status = .aborted && s.step.current = l.step)
  let s := match s.plan with
    | some p => if commits then s.commitStep p else s
    | none => s
  let swap := s.swapAt l.gc
  match s.imageAt l.gc with
  | none => s.endAttempts
  | some p =>
    if !p.holdsStep l.step then
      let s := (s.mgmtEvent 0x4905 []).endAttempts
      { s with step := { s.step with status := .idle } }
    else
      let s := (s.commitConfig swap l.gc).commitMap.repairRows
      let s := s.activateSets p
      let s := s.noteLaunch l again
      s.startStep p l

/-- `STEP_LAUNCH` (R446): at the agreed launch GC everything due commits and the step launches. A step
aborted since its agreement does not commit; a new attempt follows (R55; DEDUCED, log entry 31). -/
def execStepLaunch (s : State) : Result :=
  match s.agree.decided with
  | none => .next s
  | some l =>
    if !s.awake || s.moduleLost || decide (s.gc.value < l.gc) || s.step.status = .running then .next s
    else if !l.relaunch && s.wordsStale then .next (s.newAttempt none)
    else .next (s.launch l)

end Sys2Proof.Machine
end

