-- ==== Sys2Proof/Machine/Image.lean ====
section
/-! DEFINITION. A plan image as bytes: header, section table, trailer, operation records, descriptors and the
sections the device reads, each with the checks that refuse it with `SECTION_BAD` (R35 to R37, R42 to R45,
R115 to R117, R121, R122, R260 to R262, R286, R305, R361 to R364, R372, R394, R401, R412, R439, R441, R455,
R503). -/

namespace Sys2Proof.Machine

/-! ### Header, trailer and section table (R35 to R37) -/

/-- Bytes of the trailer (R37). -/
def trailerLen : Nat := 2484

/-- The bytes before the trailer. -/
def imageBody (b : Bytes) : Bytes := b.take (b.length - trailerLen)

/-- A field of the trailer, taken from the end of the image (R37). -/
def trailerAt (b : Bytes) (off n : Nat) : Bytes := slice (b.drop (b.length - trailerLen)) off n

/-- `MAGIC` and `FORMAT_VER` (R35). -/
def magicOk (b : Bytes) : Bool := slice b 0 8 = ascii "TG96PLAN" && fieldAt b 8 4 = 0x00010000

/-- `IMAGE_SIZE` is the number of bytes received, at most 6 GiB (R39, R40). An image too short for its header and
trailer is refused with the same code, since the spec names none (DESIGN CHOICE, log entry 146). -/
def sizeOk (b : Bytes) : Bool :=
  fieldAt b 16 8 = b.length && decide (b.length ≤ 6 * 2 ^ 30) && decide (128 + trailerLen ≤ b.length)

/-- A section table entry (R36). -/
structure Sect where
  type : Nat
  inst : Nat
  off : Nat
  len : Nat
  rsv : Bool
  deriving DecidableEq, Repr

/-- Reads a section table entry (R36). -/
def Sect.parse (e : Bytes) : Sect where
  type := fieldAt e 0 2
  inst := fieldAt e 2 2
  off := fieldAt e 8 8
  len := fieldAt e 16 8
  rsv := !allZero (slice e 4 4) || !allZero (slice e 24 8)

/-- `n` entries of `size` bytes at an offset; `none` where they leave the section. -/
def entriesAt (b : Bytes) (off n size : Nat) : Option (List Bytes) :=
  if b.length < off + n * size then none else some ((chunked size (slice b off (n * size))).take n)

/-- The entries of a section that holds nothing else. -/
def entriesOf (b : Bytes) (size : Nat) : Option (List Bytes) :=
  if b.length % size = 0 then some (chunked size b) else none

/-- The section table (R35, R36). -/
def sections (b : Bytes) : Option (List Sect) :=
  (entriesAt (imageBody b) 128 (fieldAt b 56 4) 32).map (List.map Sect.parse)

/-- No two of the byte ranges (start, end) overlap. -/
def disjoint (rs : List (Nat × Nat)) : Bool :=
  let rs := sortBy (fun (a b : Nat × Nat) => decide (a.1 < b.1)) (rs.filter (fun r => decide (r.1 < r.2)))
  (rs.zip (rs.drop 1)).all (fun (a, b) => decide (a.2 ≤ b.1))

/-- Section types of which an image holds exactly one (R37). -/
def soleTypes : List Nat := [2, 3, 4, 5, 6, 7, 0xA]

/-- The sections lie in the image between the section table and the trailer, which follows the last of
them; they are aligned and do not overlap, and their types, instances and counts are those of R36 and
R37. Records stand on multiples of 128 bytes (R42): a section of them that does not is misaligned (log entry 147). -/
def sectionsOk (b : Bytes) (ss : List Sect) : Bool :=
  let bodyLen := b.length - trailerLen
  let first := 128 + 32 * ss.length
  let count (t : Nat) : Nat := (ss.filter (fun x => x.type = t)).length
  let once (t i : Nat) : Bool := decide ((ss.filter (fun x => x.type = t && x.inst = i)).length ≤ 1)
  ss.all (fun x => decide (1 ≤ x.type) && decide (x.type ≤ 0xC) && x.off % (if x.type = 1 then 128 else 64) = 0 && decide (first ≤ x.off)
      && decide (x.off + x.len ≤ bodyLen)
      && (if x.type = 1 then decide (x.inst < 48) else x.type = 0xB || x.inst = 0))
    && ss.foldl (fun m x => max m (x.off + x.len)) first = bodyLen
    && disjoint (ss.map (fun x => (x.off, x.off + x.len)))
    && count 1 = 48 && (List.range 48).all (once 1) && soleTypes.all (fun t => count t = 1)
    && decide (count 8 ≤ 1) && decide (count 9 ≤ 1) && decide (count 0xC ≤ 1)
    && ss.all (fun x => x.type ≠ 0xB || once 0xB x.inst)

/-- The bytes of a section. -/
def Sect.body (x : Sect) (b : Bytes) : Bytes := slice b x.off x.len

/-- The bytes of the section of a type and instance. -/
def sectionOf (b : Bytes) (ss : List Sect) (t i : Nat) : Option Bytes :=
  (ss.find? (fun x => x.type = t && x.inst = i)).map (fun x => x.body b)

/-! ### Records and descriptors (R42 to R45, R115 to R117) -/

/-- A descriptor number; all ones is none (R42). -/
def descNo (n : Nat) : Option Nat := if n = 0xFFFFFFFF then none else some n

/-- The waits of a record (R45). -/
def recWaits (b : Bytes) : List Wait :=
  (List.range (min 4 (fieldAt b 9 1 / 16))).map (fun i =>
    let v := fieldAt b (64 + 8 * i) 8
    ⟨Fin.ofNat 64 v, v / 2 ^ 32⟩)

/-- The signals of a record (R45). -/
def recSigs (b : Bytes) : List Signal :=
  (List.range (min 4 (fieldAt b 9 1 % 16))).map (fun i =>
    let v := fieldAt b (96 + 8 * i) 8
    ⟨Fin.ofNat 4 (v / 2 ^ 62), BitVec.ofNat 16 (v / 2 ^ 46), Fin.ofNat 64 (v / 2 ^ 40),
     Fin.ofNat 64 (v / 2 ^ 34), v % 2 ^ 32⟩)

/-- Reads an operation record (R42, R43). -/
def parseRec (b : Bytes) : Rec :=
  let op := fieldAt b 0 2
  let ctrl := fieldAt b 2 2
  { engine := Fin.ofNat 16 (op / 4096), func := BitVec.ofNat 12 op
    stat := Fin.ofNat 4 (ctrl / 2 ^ 14), part := Fin.ofNat 4 (ctrl / 2 ^ 12), pidx := Fin.ofNat 4 (ctrl / 2 ^ 10)
    mode := Fin.ofNat 8 (ctrl / 2 ^ 7), fuse := Fin.ofNat 4 (ctrl / 2 ^ 5), endstep := ctrl.testBit 4
    recno := fieldAt b 4 4, units := BitVec.ofNat 4 (fieldAt b 8 1)
    mbtag := BitVec.ofNat 16 (fieldAt b 10 2), worktag := BitVec.ofNat 32 (fieldAt b 12 4)
    segbase := fieldAt b 16 4, wver := fieldAt b 20 4
    desc0 := descNo (fieldAt b 24 4), desc1 := descNo (fieldAt b 28 4), desc2 := descNo (fieldAt b 32 4)
    desc3 := descNo (fieldAt b 36 4), desc4 := descNo (fieldAt b 40 4), desc5 := descNo (fieldAt b 44 4)
    param0 := BitVec.ofNat 32 (fieldAt b 48 4), param1 := BitVec.ofNat 32 (fieldAt b 52 4)
    param2 := BitVec.ofNat 32 (fieldAt b 60 4), plancyc := fieldAt b 56 4
    waits := recWaits b, sigs := recSigs b }

/-- A bit that the layout of R42, R43 or R45 holds at zero is set, or an entry beyond `NWAIT` or `NSIG` is not
zero. -/
def recReserved (b : Bytes) : Bool :=
  let counts := fieldAt b 9 1
  fieldAt b 2 1 % 16 ≠ 0 || fieldAt b 8 1 / 16 ≠ 0 ||
  (List.range 4).any (fun i =>
    let w := fieldAt b (64 + 8 * i) 8
    let g := fieldAt b (96 + 8 * i) 8
    let scope := g / 2 ^ 62
    (if counts / 16 ≤ i then w ≠ 0 else bitsOf w 6 26 ≠ 0) ||
    (if counts % 16 ≤ i then g ≠ 0
     else bitsOf g 32 2 ≠ 0 || (scope ≠ 2 && bitsOf g 46 16 ≠ 0) || (scope = 0 && bitsOf g 40 6 ≠ 0)))

/-- The rank field of a descriptor (R117). -/
def descRank (b : Bytes) : Nat := fieldAt b 9 1 % 8

/-- The six sizes a descriptor stores (R115, R117). -/
def descSizes (b : Bytes) : List Nat :=
  let v := fieldAt b 9 5
  (v - v % 16) :: (List.range 5).map (fun i => fieldAt b (14 + 5 * i) 5)

/-- The five strides a descriptor stores (R115). -/
def descStrides (b : Bytes) : List Int := (List.range 5).map (fun i => signedOf 40 (fieldAt b (39 + 5 * i) 5))

/-- The cache hint of a code (R116). -/
def hintOf (n : Nat) : Hint :=
  match n % 4 with
  | 0 => .normal
  | 1 => .stream
  | 2 => .keep
  | _ => .last

/-- Reads a descriptor (R115 to R117). -/
def parseDesc (b : Bytes) : Desc :=
  let v := fieldAt b 0 6
  let rank := min 6 (descRank b)
  { base := v - v % 64, hint := hintOf (v / 16), drop := v.testBit 3, sat := v.testBit 2, acc := Fin.ofNat 4 v
    fmt := (Fmt.ofCode (fieldAt b 6 1)).getD .mxsb, tidHi := BitVec.ofNat 16 (fieldAt b 7 2)
    sizes := (descSizes b).take rank, strides := (descStrides b).take (rank - 1) }

/-! ### Allocations (R121, R122) -/

/-- A range lies inside the first 96 MiB of one slot of the logical window (R20). -/
def inStore (a n : Nat) : Bool :=
  decide (0x20000000000 ≤ a) && decide (a < 0x20180000000) &&
    decide ((a - 0x20000000000) % 0x8000000 + n ≤ 0x6000000)

/-- Whether an allocation entry names a compressed region, its `ADIR` otherwise zero (R121). -/
def allocDir (compressed : Bool) (adir : Nat) : Option (Option Nat) :=
  if compressed then some (some adir) else if adir = 0 then some none else none

/-- Reads an allocation and checks it alone (R121, R122): its range avoids both plan slots (R39). A tile directory lies
anywhere in HBM, a plan slot included, since R39 keeps only entries out of the slots (DESIGN CHOICE, log entry 164). -/
def parseAlloc (e : Bytes) : Option Alloc := do
  let base := fieldAt e 0 8
  let len := fieldAt e 8 8
  let flags := fieldAt e 17 1
  let comp := flags = 1
  let dir ← allocDir comp (fieldAt e 24 8)
  let grain := if comp then 2048 else 64
  let ok := decide (flags ≤ 1) && allZero (slice e 18 6) && base % grain = 0 && len % grain = 0
    && (decide (base + len ≤ 0x5D00000000) || decide (0x6000000000 ≤ base))
  if !ok then none
  else match fieldAt e 16 1 with
  | 1 => if decide (base + len ≤ 0x6000000000) && (match dir with
          | some d => decide (d + ceilDiv len 8192 ≤ 0x6000000000)
          | none => true) then some ⟨base, len, .hbm, dir⟩ else none
  | 2 => if !comp && inStore base len then some ⟨base, len, .core, none⟩ else none
  | 3 => if !comp && inShared base len then some ⟨base, len, .shared, none⟩ else none
  | _ => none

/-- The allocation table: no entry overlaps another or a tile directory; two directories may overlap (R122). -/
def parseAllocs (b : Bytes) : Option (List Alloc) := do
  let as ← (← entriesOf b 32).mapM parseAlloc
  let dirs := as.filterMap (fun a => a.dir.map (fun d => (d, d + ceilDiv a.len 8192)))
  let apart (a : Alloc) : Bool := dirs.all (fun d => decide (d.2 ≤ a.base) || decide (a.base + a.len ≤ d.1))
  if disjoint (as.map (fun a => (a.base, a.base + a.len))) && as.all apart then some as else none

/-! ### Credits and chains (R361 to R364, R372) -/

/-- The logical core whose store holds an allocation (R20). -/
def Alloc.store (a : Alloc) : Option Nat :=
  if a.kind = .core then some ((a.base - 0x20000000000) / 0x8000000) else none

/-- The die whose die-shared area holds an allocation (R19). -/
def Alloc.die (a : Alloc) : Option Nat :=
  if a.kind = .shared then some ((a.base - 0x10000000000) / 0x60000000) else none

/-- Reads a pool entry (R362). -/
def parsePool (as : List Alloc) (e : Bytes) : Option Pool := do
  let kind := fieldAt e 0 1
  let owner := fieldAt e 2 2
  let credits := fieldAt e 4 4
  let csize := fieldAt e 8 4
  let n := fieldAt e 12 4
  let a ← as[n]?
  let mine := if kind = 4 then decide (0x100 ≤ owner) && a.die = some (owner - 0x100) else a.store = some owner
  if decide (2 ≤ kind) && decide (kind ≤ 4) && fieldAt e 1 1 = 0 && allZero (slice e 16 16) && decide (1 ≤ credits)
    && decide (1 ≤ csize) && csize % 2048 = 0 && mine && decide (credits * csize ≤ a.len)
  then some ⟨kind, owner, credits, csize, n⟩ else none

/-- Reads a chain entry (R372). -/
def parseChain (i : Nat) (e : Bytes) : Option Chain :=
  let n := fieldAt e 2 1
  let ms := (slice e 4 n).map BitVec.toNat
  let pool := fieldAt e 52 4
  let near (x : Nat × Nat) : Bool := x.1 / 12 = x.2 / 12 || x.2 / 12 = (x.1 / 12 + 1) % 4
  if fieldAt e 0 2 = i && decide (1 ≤ n) && decide (n ≤ 48) && fieldAt e 3 1 = 0
    && allZero (slice e (4 + n) (48 - n)) && ms.all (fun m => decide (m < 48))
    && ms.eraseDups.length = ms.length && (ms.zip (ms.drop 1)).all near && decide (pool < 65536)
    && allZero (slice e 56 8)
  then some ⟨ms, pool⟩ else none

/-- Pool of a number; the listed ones start at 64 (R361). -/
def poolAt (ps : List Pool) (n : Nat) : Option Pool := if n < 64 then none else ps[n - 64]?

/-- The slot pools of a chain are there, owned by the right members (R372). -/
def chainPoolsOk (ps : List Pool) (c : Chain) : Bool :=
  (c.members.drop 1).zipIdx.all (fun (m, i) => match poolAt ps (c.slotPool + i) with
    | some p => p.kind = 3 && p.owner = m
    | none => false)

/-- The chain of a need entry: number and position when `CHAINED` is set, else zeros (R363). -/
def needChain (cs : List Chain) (e : Bytes) : Option (Option (Nat × Nat)) :=
  let ch := fieldAt e 6 2
  let pos := fieldAt e 8 1
  match fieldAt e 5 1 with
  | 0 => if ch = 0 && pos = 0 then some none else none
  | 1 => match cs[ch]? with
    | some c => if c.members[pos]? = some (fieldAt e 4 1) then some (some (ch, pos)) else none
    | none => none
  | _ => none

/-- Reads a need entry (R363). -/
def parseNeed (cs : List Chain) (e : Bytes) : Option Need := do
  let chain ← needChain cs e
  let qs := ((List.range 5).map (fun i => fieldAt e (12 + 4 * i) 4)).filter (· ≠ 0)
  let reqs := qs.map (fun q => (q / 65536, q % 65536))
  if fieldAt e 4 1 < 48 && allZero (slice e 9 3) && reqs.all (fun q => decide (1 ≤ q.2))
  then some ⟨fieldAt e 0 4, fieldAt e 4 1, chain, reqs⟩ else none

/-- Reads the credit section (R361): pools, chains and need entries. -/
def parseCredits (as : List Alloc) (b : Bytes) : Option (List Pool × List Chain × List Need) := do
  let np := fieldAt b 0 2
  let nc := fieldAt b 2 2
  if b.length < 64 || !allZero (slice b 32 32) || decide (4032 < np) || decide (1024 < nc) then none
  else
    let ps ← (← entriesAt b (fieldAt b 8 8) np 32).mapM (parsePool as)
    let cs ← ((← entriesAt b (fieldAt b 24 8) nc 64).zipIdx).mapM (fun (e, i) => parseChain i e)
    let ns ← (← entriesAt b (fieldAt b 16 8) (fieldAt b 4 4) 32).mapM (parseNeed cs)
    if cs.all (chainPoolsOk ps) then some (ps, cs, ns) else none

/-! ### Routes, backup routes and groups (R394, R401, R412) -/

/-- Reads a route entry (R394). -/
def parseRoute (e : Bytes) : Option Route :=
  let hops := fieldAt e 3 1
  let path := fieldAt e 8 8
  let vc := fieldAt e 2 1
  if h : vc < 4 then
    if vc ≤ 2 && decide (1 ≤ hops) && decide (hops ≤ 12) && allZero (slice e 4 4) && path / 2 ^ (5 * hops) = 0
    then some ⟨BitVec.ofNat 16 (fieldAt e 0 2), ⟨vc, h⟩, hops, BitVec.ofNat 60 path⟩ else none
  else none

/-- Keys rise strictly. -/
def rising (l : List Nat) : Bool := (l.zip (l.drop 1)).all (fun (a, b) => decide (a < b))

/-- Route entries in ascending destination, each at most once. -/
def parseRoutes (es : List Bytes) : Option (List Route) := do
  let rs ← es.mapM parseRoute
  if rising (rs.map (fun r => r.dst.toNat)) then some rs else none

/-- Reads the route section (R394). -/
def parseRouteSection (b : Bytes) : Option (List Route) := do
  let es ← entriesAt b 64 (fieldAt b 0 4) 16
  if allZero (slice b 4 60) then parseRoutes es else none

/-- Reads the backup section (R412). -/
def parseBackups (b : Bytes) : Option (List Backup) := do
  let es ← entriesAt b 64 (fieldAt b 0 4) 16
  let sets ← es.mapM (fun e => do
    let rs ← parseRoutes (← entriesAt b (fieldAt e 8 8) (fieldAt e 4 4) 16)
    if fieldAt e 2 1 < 32 && fieldAt e 3 1 = 0 then
      some (Backup.mk (BitVec.ofNat 16 (fieldAt e 0 2)) (fieldAt e 2 1) rs) else none)
  if allZero (slice b 4 60) && rising (sets.map (fun x => x.lnode.toNat * 256 + x.lport)) then some sets else none

/-- Reads the canonical-tree section for a module of a run (R401). -/
def parseGroups (node : BitVec 16) (run : List (BitVec 16)) (b : Bytes) : Option (List Group) := do
  let n := fieldAt b 0 2
  let es ← entriesAt b 64 n 32
  if !allZero (slice b 2 62) then none
  else (es.zipIdx).mapM (fun (e, i) => do
    let cnt := fieldAt e 4 4
    let ms := (← entriesAt b (fieldAt e 16 8) cnt 2).map (fun m => BitVec.ofNat 16 (leNat m))
    let me := ms.findIdx? (· == node)
    if fieldAt e 0 2 = i + 1 && allZero (slice e 2 2) && allZero (slice e 12 4) && allZero (slice e 24 8)
      && decide (1 ≤ cnt) && decide (cnt ≤ 65536) && ms.eraseDups.length = cnt && ms.all run.contains
      && fieldAt e 8 4 = me.getD 0xFFFFFFFF
    then some (Group.mk ms me) else none)

/-! ### Predictors, tables and launch rules (R260 to R262, R305, R439) -/

/-- The policy of a code (R261). -/
def policyOf : Nat → Option Policy
  | 0 => some .log
  | 1 => some .glean
  | 2 => some .halt
  | _ => none

/-- The three weight and bias regions of a predictor entry: offset and length (R261). -/
def predRegions (e : Bytes) : List (Nat × Nat) :=
  let w := ((Fmt.ofCode (fieldAt e 2 1)).map Fmt.bits).getD 0
  let d := fieldAt e 4 4
  let h := fieldAt e 8 2
  let n := fieldAt e 12 4
  [(fieldAt e 32 8, h * d * w / 8), (fieldAt e 40 8, n * h * w / 8), (fieldAt e 48 8, 4 * (h + n))]

/-- FP32 encodings in a byte string. -/
def f32s (b : Bytes) : List F32 := (chunked 4 b).map (fun x => BitVec.ofNat 32 (leNat x))

/-- Reads a predictor entry of a section at an offset of the image, checking its ranges and encodings (R261, R262). -/
def parsePred (off : Nat) (sec : Bytes) (i : Nat) (e : Bytes) : Option PredEntry := do
  let policy ← policyOf (fieldAt e 1 1)
  let pfmt ← Fmt.ofCode (fieldAt e 2 1)
  let d := fieldAt e 4 4
  let h := fieldAt e 8 2
  let n := fieldAt e 12 4
  let a := fieldAt e 16 4
  let g := fieldAt e 20 4
  let ok := fieldAt e 0 1 = i && [Fmt.bf16, .fp16, .e4m3, .e5m2].contains pfmt
    && decide (1 ≤ d) && d % 128 = 0 && decide (d ≤ 65536)
    && decide (32 ≤ h) && h % 32 = 0 && decide (h ≤ 1024) && decide (1 ≤ n) && n % 128 = 0 && decide (n ≤ 65536)
    && decide (64 ≤ a) && a % 64 = 0 && decide (a ≤ n)
    && (if policy = .glean then decide (64 ≤ g) && g % 64 = 0 else g = 0) && decide (a + g ≤ n)
    && fieldAt e 3 1 = 0 && allZero (slice e 10 2) && allZero (slice e 30 2) && allZero (slice e 56 8)
  let rs := predRegions e
  let body (k : Nat) : Bytes := let r := rs.getD k (0, 0); slice sec r.1 r.2
  let bias := f32s (body 2)
  if ok then
    some ⟨policy, pfmt, d, h, n, a, g, BitVec.ofNat 32 (fieldAt e 24 4), fieldAt e 28 2, body 0, body 1, bias.take h,
          bias.drop h, rs.map (fun r => (off + r.1, r.2))⟩
  else none

/-- Reads the predictor section: the reference period and the entries; the regions lie after the entries,
apart from each other and on 64-byte boundaries (R260, R262). -/
def parsePreds (off : Nat) (b : Bytes) : Option (Nat × List PredEntry) := do
  let n := fieldAt b 0 2
  let es ← entriesAt b 64 n 64
  let ps ← (es.zipIdx).mapM (fun (e, i) => parsePred off b i e)
  let rs := es.flatMap predRegions
  if decide (1 ≤ n) && decide (n ≤ 256) && allZero (slice b 2 2) && allZero (slice b 8 56)
    && rs.all (fun r => r.1 % 64 = 0 && decide (64 + 64 * n ≤ r.1) && decide (r.1 + r.2 ≤ b.length))
    && disjoint (rs.map (fun r => (r.1, r.1 + r.2)))
  then some (fieldAt b 4 4, ps) else none

/-- An FP32 encoding is finite. -/
def f32Finite (w : F32) : Bool := w.toNat / 2 ^ 23 % 256 ≠ 255

/-- Reads one function or derivative table (R305). -/
def parseTable (e : Bytes) : Option FnTable :=
  let f (off : Nat) : F32 := BitVec.ofNat 32 (fieldAt e off 4)
  let flags := fieldAt e 16 4
  let coef := f32s (slice e 64 3072)
  if flags < 4 && allZero (slice e 20 44) && f32Finite (f 0) && f32Finite (f 4) && coef.all f32Finite
  then some ⟨f 0, f 4, f 8, f 12, flags.testBit 1, flags.testBit 0, coef⟩ else none

/-- Reads the vector-unit table section (R305). -/
def parseTables (b : Bytes) : Option (List (FnTable × FnTable)) := do
  let n := fieldAt b 0 2
  let es ← entriesAt b 64 n 6272
  if b.length = 64 + 6272 * n && decide (1 ≤ n) && decide (n ≤ 256) && allZero (slice b 2 62) then
    es.mapM (fun e => do some (← parseTable (slice e 0 3136), ← parseTable (slice e 3136 3136)))
  else none

/-- Reads the launch rules (R439). -/
def parseLaunch (b : Bytes) : Option LaunchRules := do
  let period := fieldAt b 0 8
  let lead := fieldAt b 8 4
  let settle := fieldAt b 12 4
  let n := fieldAt b 16 2
  let rules := (← entriesAt b 64 n 16).map (fun e => (fieldAt e 0 4, fieldAt e 4 4, fieldAt e 8 8))
  if b.length = 64 + 16 * n && decide (1000000 ≤ period) && decide (100000 ≤ lead) && decide (lead ≤ period)
    && decide (10000 ≤ settle) && decide (settle ≤ 10000000) && decide (n ≤ 16) && allZero (slice b 18 46)
    && rules.all (fun r => decide (1 ≤ r.1) && decide (r.2.1 < r.1))
  then some ⟨period, lead, settle, rules⟩ else none

/-! ### Object-dictionary values (R37, R441) -/

/-- Reads the entries of the object-dictionary section: index, subindex, length and value (R441); `fuel`
bounds their number. -/
def parseValues : (fuel : Nat) → Bytes → Option (List (Nat × Nat × Bytes))
  | _, [] => some []
  | 0, _ => none
  | f + 1, b =>
    let n := fieldAt b 3 4
    if b.length < 7 + n then none
    else (parseValues f (b.drop (7 + n))).map ((fieldAt b 0 2, fieldAt b 2 1, slice b 7 n) :: ·)

/-- A value lies in a range. -/
def between (lo v hi : Nat) : Bool := decide (lo ≤ v) && decide (v ≤ hi)

/-- An FP32 value lies in a closed range of two. -/
def f32Between (lo : F32) (v : Nat) (hi : F32) : Bool :=
  let x := decodeF32 (BitVec.ofNat 32 v)
  !x.lt (decodeF32 lo) && !(decodeF32 hi).lt x

/-- The rule of a type for a value (R469). -/
def ObjType.valueOk (t : ObjType) (v : Nat) : Bool :=
  match t with
  | .bool => decide (v ≤ 1)
  | .f32 => f32Finite (BitVec.ofNat 32 v)
  | _ => true

/-- The part of an entry's rule that asks nothing of the state (R56, R86, R113, R139, R230, R257, R282, R325, R352,
R382, R418, R427, R437, R466 (its mask names classes 1 to 7), R510, R520). -/
def valueRule (idx sub v : Nat) : Bool :=
  match idx, sub with
  | 0x2100, 0 => decide (v < 64)
  | 0x2100, 2 => decide (v < 8)
  | 0x2810, 0 => decide (v < 4)
  | 0x2301, 0 => decide (v < 8)
  | 0x2400, 1 => decide (v < 16)
  | 0x2500, 1 => decide (v < 32)
  | 0x2600, 3 => decide (v < 4)
  | 0x2702, 0 => f32Between 0x428C0000 v 0x42AA0000
  | 0x2702, 1 => f32Between 0x428C0000 v 0x42BE0000
  | 0x2702, 2 => f32Between 0x3F800000 v 0x40A00000
  | 0x2704, 0 => decide (1000000 ≤ v)
  | 0x2706, 0 => decide (0 < v)
  | 0x2801, 3 => decide (1000000 ≤ v)
  | 0x2801, _ => decide (0 < v)
  | 0x2904, _ => decide (0 < v)
  | 0x2A00, 0 => between 1 v 3
  | 0x2A03, 1 => decide (v ≤ 2)
  | 0x1100, 3 => decide (v ≤ 4094)
  | 0x1100, 4 => decide (v ≤ 7)
  | 0x1102, 4 => decide (v < 128)
  | 0x3F00, 1 => v = 1 || v = 2
  | 0x3F00, 4 => v = 1 || v = 2
  | 0x5030, 1 => decide (v < 48)
  | _, _ => true

/-- The values name entries of the dictionary, each at most once, of its type's length, and each a value that the type
and the entry's own rule allow, whatever the state (R427: the device refuses any other value; DEDUCED for images, log
entry 183). -/
def valuesOk (vs : List (Nat × Nat × Bytes)) : Bool :=
  (vs.map (fun v => objKey v.1 v.2.1)).eraseDups.length = vs.length &&
    vs.all (fun v => match objFind v.1 v.2.1 with
      | some o => (match o.ty.size with
        | some n => v.2.2.length = n && o.ty.valueOk (leNat v.2.2) && valueRule v.1 v.2.1 (leNat v.2.2)
        | none => true)
      | none => false)

/-- The value of a table that the plan sets, empty where it sets none. -/
def valueIn (vs : List (Nat × Nat × Bytes)) (idx sub : Nat) : Bytes :=
  ((vs.find? (fun v => v.1 = idx && v.2.1 = sub)).map (fun v => v.2.2)).getD []

/-- Reads a weight-set entry, checking its encodings (R286, R287). -/
def parseWeightSet (i : Nat) (e : Bytes) : Option WeightSet :=
  let flags := fieldAt e 2 1
  let kind := fieldAt e 1 1
  let pair (off : Nat) : Nat × Nat := (fieldAt e off 4, fieldAt e (off + 4) 4)
  let w : WeightSet :=
    { kind := kind, masked := flags.testBit 3, low := flags.testBit 2, m1 := flags.testBit 0, m2 := flags.testBit 1
      matrix := fieldAt e 3 1, mfmt := fieldAt e 4 1, sliceRows := fieldAt e 6 2, vdesc := pair 8, ldesc := pair 16
      m1desc := pair 24, m2desc := pair 32, tdesc := pair 40, verdesc := fieldAt e 48 4, slices := fieldAt e 52 4 }
  if fieldAt e 0 1 = i && decide (1 ≤ kind) && decide (kind ≤ 4) && decide (flags < 16) && fieldAt e 5 1 = 0
    && [16, 32, 64, 128].contains w.sliceRows && allZero (slice e 56 8)
    && (if w.masked then kind = 2 else w.matrix = 0)
    && (if w.m1 || w.m2 then w.mfmt = 1 || w.mfmt = 2 else w.mfmt = 0)
  then some w else none

/-- Reads `WEIGHT_SET_TABLE` (R286): two entries share no `MATRIX` (R287). -/
def parseWeightSets (b : Bytes) : Option (List WeightSet) := do
  let ws ← ((← entriesOf b 64).zipIdx).mapM (fun (e, i) => parseWeightSet i e)
  let ms := (ws.filter WeightSet.masked).map WeightSet.matrix
  if ms.eraseDups.length = ms.length then some ws else none

/-- Reads a window entry (R455). -/
def parseWindow (as : List Alloc) (e : Bytes) : Option Window := do
  let w : Window :=
    { num := fieldAt e 0 1, notify := fieldAt e 1 1 = 1, alloc := fieldAt e 4 4, slots := fieldAt e 8 4
      slotSize := fieldAt e 16 8 }
  let a ← as[w.alloc]?
  if decide (w.num < 64) && fieldAt e 1 1 < 2 && allZero (slice e 2 2) && allZero (slice e 12 4)
    && allZero (slice e 24 8) && a.kind = .hbm && a.dir.isNone && decide (1 ≤ w.slots) && decide (w.slots ≤ 65536)
    && w.slotSize % 4096 = 0 && decide (4096 ≤ w.slotSize) && decide (w.slotSize ≤ 2 ^ 32)
    && decide (w.headLen + w.slots * w.slotSize ≤ a.len)
  then some w else none

/-- Reads `WINDOW_TABLE` (R455). -/
def parseWindows (as : List Alloc) (b : Bytes) : Option (List Window) := do
  let ws ← (← entriesOf b 32).mapM (parseWindow as)
  if rising (ws.map Window.num) && (ws.map Window.alloc).eraseDups.length = ws.length then some ws else none

/-- Reads `CKPT_TABLE` for a module of a run (R503); `none` inside where the plan sets no table. -/
def parseCkpt (node : BitVec 16) (run : List (BitVec 16)) (as : List Alloc) (b : Bytes) :
    Option (Option CkptTable) :=
  if b.isEmpty then some none
  else
    let c : CkptTable :=
      { buddy := BitVec.ofNat 16 (fieldAt b 0 2), ward := BitVec.ofNat 16 (fieldAt b 2 2), entries := fieldAt b 4 4
        buddyBase := fieldAt b 8 8, wardBase := fieldAt b 16 8, localBase := fieldAt b 24 8, slotBytes := fieldAt b 32 8 }
    let region (base : Nat) : Bool :=
      as.any (fun a => a.kind = .hbm && a.base = base && a.len = 2 * c.slotBytes)
    if b.length = 64 && allZero (slice b 40 24) && decide (1 ≤ c.entries) && decide (c.entries ≤ 65535)
      && decide (1 ≤ c.slotBytes) && c.slotBytes % 4096 = 0 && decide (48 * c.entries ≤ c.slotBytes)
      && region c.localBase && region c.wardBase && c.localBase ≠ c.wardBase
      && c.buddy ≠ node && c.ward ≠ node && run.contains c.buddy && run.contains c.ward
    then some (some c) else none

end Sys2Proof.Machine
end

