-- ==== Sys2Proof/Machine/RecordCheck.lean ====
section
/-! DEFINITION. The checks of verification on an operation record, which refuse an image with `BAD_RECORD`
(R46, R65, R70, R96, R97, R111, R126, R129, R133, R134, R144 to R147, R175, R178, R181, R185, R187, R200 to
R203, R213, R215, R217, R220, R223, R226, R234 to R238, R251, R264 to R267, R290, R294, R297, R298, R301, R302,
R307, R313, R317, R355, R378, R379, R400, R402, R405, R425, R504). -/

namespace Sys2Proof.Machine

/-! ### Named tensors -/

/-- A record names none, or a descriptor that has a property. -/
def Plan.may (p : Plan) (o : Option Nat) (f : Desc → Bool) : Bool := o.isNone || p.has o f

/-- Rank of a tensor. -/
def Desc.rank (d : Desc) : Nat := d.sizes.length

/-- A tensor may be written by a record other than those of R126. -/
def Desc.isWrite (d : Desc) : Bool := d.acc = 1

/-- An index tensor or list of rank 1 (R126, R205, R217). -/
def Desc.isList (d : Desc) : Bool := d.fmt = .int32s && d.rank = 1

/-- Capacity of a list (R205). -/
def Desc.cap (d : Desc) : Nat := d.size 0 - 1

/-- The format is multiplied by the arrays and the sparse engine (R58, R70). -/
def Fmt.multiplied (f : Fmt) : Bool := f.isFloatClass || f.isIntClass

/-- Two operands are of one class (R70). -/
def sameClass (a b : Fmt) : Bool := (a.isFloatClass && b.isFloatClass) || (a.isIntClass && b.isIntClass)

/-- A format that results convert into (R58, R77). -/
def Fmt.isResult (f : Fmt) : Bool := f ≠ .bit1 && f ≠ .mxsb

/-- A side band is named exactly where its tensor is block-scaled, one row of entries per row (R62). Its innermost size
may exceed the entries a row needs, as R120's alignment asks; the surplus is written 0x0080 (DESIGN CHOICE, log entry
163). -/
def Plan.sideOk (p : Plan) (o : Option Nat) (d : Desc) : Bool :=
  if d.fmt.isMx then
    p.has o (fun s => s.fmt = .mxsb && s.rank = d.rank && s.sizes.drop 1 = d.sizes.drop 1
      && decide (ceilDiv (d.size 0) 32 ≤ s.size 0))
  else o.isNone

/-- A status plane has the output's sizes with the innermost doubled (R146). -/
def statusOk (d s : Desc) : Bool := s.fmt = .bit1 && s.sizes = 2 * d.size 0 :: d.sizes.drop 1

/-- `AUXDESC`: the status plane of a partial, else the output's side band (R146, R202). -/
def Plan.auxOk (p : Plan) (r : Rec) (partial_ : Bool) (out : Desc) : Bool :=
  if partial_ then p.has (paramDesc r.param2) (statusOk out) else p.sideOk (paramDesc r.param2) out

/-- An output tensor: written, and a partial in `FP32` or `INT32S` without a fused stage (R97, R126, R146). -/
def outOk (r : Rec) (partial_ : Bool) (out : Desc) : Bool :=
  out.isWrite && out.fmt.isResult
    && (!partial_ || (r.fuse = 0 && (out.fmt = .fp32 || out.fmt = .int32s)))

/-- Formats of a fused operand (R111). -/
def Fmt.fusable (f : Fmt) : Bool :=
  [Fmt.fp32, .bf16, .fp16, .e4m3, .e5m2, .int8s, .int8u, .int4s, .int4u].contains f

/-- The fused operand of a record that fuses: one element for each of the output (R111). -/
def Plan.fusedOk (p : Plan) (r : Rec) (out : Desc) : Bool :=
  r.fuse ≠ 3 && (r.fuse = 0 || p.has r.desc3 (fun d => d.fmt.fusable && d.sizes = out.sizes))

/-- The segment range of a reduction stays in its block of 2²⁸ and below 2³² (R96). -/
def segsOk (r : Rec) (k : Nat) : Bool :=
  let last := r.segbase + max 1 (ceilDiv k 4096) - 1
  decide (last < 2 ^ 32) && r.segbase / 2 ^ 28 = last / 2 ^ 28

/-- Two tensors' byte ranges overlap. -/
def Desc.overlaps (a b : Desc) : Bool := decide (a.range.1 ≤ b.range.2) && decide (b.range.1 ≤ a.range.2)

/-- The control fields of a record of an engine other than the arrays (R43, R46). -/
def Rec.plain (r : Rec) : Bool := r.stat = 3 && r.part = 0 && r.pidx = 0 && r.mode = 0 && r.units = 0

/-- Descriptor fields that are none. -/
def noneOf (l : List (Option Nat)) : Bool := l.all Option.isNone

/-- The number of elements of a tensor stays within the index of a draw (R425). -/
def drawsOk (n : Nat) : Bool := decide (n ≤ 2 ^ 48)

/-! ### Tile streams (R175, R178) -/

/-- A descriptor names a tile stream as R175 lays it out, outside any compressed allocation. -/
def Plan.isStream (p : Plan) (d : Desc) : Bool :=
  [Fmt.bf16, .fp16, .e4m3, .e5m2, .int8s, .int8u, .int4s, .int4u].contains d.fmt && d.rank = 2
    && d.strides = [(d.size 0 : Int)]
    && !p.allocs.any (fun a => a.dir.isSome && decide (a.base ≤ d.base) && decide (d.base < a.base + a.len))

/-- The slot size of a BRT-k stream is one of the four for its value width (R178). -/
def Desc.isBrt (d : Desc) : Bool := d.brtK ≠ 0

/-- The matrix of a stream has the given extents, multiples of 128 (R174, R175). -/
def tilesOk (d : Desc) (n k : Nat) : Bool :=
  decide (0 < n) && decide (0 < k) && n % 128 = 0 && k % 128 = 0 && d.size 1 = n / 128 * (k / 128)

/-! ### The checks of each engine -/

/-- Functions of the core sequencer: no operation and the regen gate (R44, R302). -/
def Plan.csqOk (p : Plan) (c : Nat) (r : Rec) : Bool :=
  r.plain && r.fuse = 0 &&
  match r.func.toNat with
  | 0 => true
  | 1 =>
    let n := r.param0.toNat % 65536
    let gov := ((p.records.getD c []).drop (r.recno + 1)).take n
    decide (1 ≤ n) && gov.length = n && gov.all (fun g => !g.endstep && !(g.engine = 0 && g.func = 1))
      && p.has r.desc4 (fun d => d.fmt = .int32s && d.sizes = [16, 8192])
  | _ => false

/-- Dense-array records (R144 to R147). -/
def Plan.daOk (p : Plan) (r : Rec) : Bool :=
  let p0 := r.param0.toNat
  let part := p0.testBit 3
  let passlen := r.param1.toNat
  let blk := r.func = 2
  let ctrl := (r.func = 1 || blk) && r.units ≠ 0 && decide (r.stat.val ≤ 2) && r.part ≠ 3
    && decide (r.pidx.val < 2 ^ r.part.val) && decide (r.mode.val ≤ 5)
    && p0 / 16 = 0 && (if r.mode = 5 then decide (p0 % 8 ≤ 5) else p0 % 8 = 0)
    && (if r.stat = 1 then passlen = 0 else decide (1 ≤ passlen) && decide (passlen ≤ 512))
    && (!blk || (r.mode = 0 && r.stat = 0))
  ctrl &&
  p.has r.desc0 (fun a => p.has r.desc1 (fun b => p.has r.desc2 (fun o =>
    let k := a.size 0
    let n := o.size 0
    a.size 1 = o.size 1 && (List.range 4).all (fun i => a.size (i + 2) = o.size (i + 2))
      && sameClass a.fmt b.fmt && p.sideOk r.desc5 a
      && (if blk then
            p.isStream b && b.slotBytes = 64 + 2048 * b.fmt.bits && tilesOk b n k && r.desc4.isNone
          else
            b.size 0 = k && b.size 1 = n && (List.range 4).all (fun i => b.size (i + 2) = a.size (i + 2))
              && p.sideOk r.desc4 b)
      && decide (ceilDiv k 4096 ≤ 256) && segsOk r k
      && outOk r part o && p.fusedOk r o && p.auxOk r part o
      && (r.desc3 ≠ r.desc2 || r.fuse = 0 || drawsOk o.elems))))

/-- Product records of the sparse engine (R200 to R203). The compacted side holds at least the list's capacity:
R205's capacity is one below a size, which R120 makes a multiple of 16 (DEDUCED, log entry 33). -/
def Plan.productOk (p : Plan) (r : Rec) : Bool :=
  let p0 := r.param0.toNat
  let part := p0.testBit 7
  let trans := p0.testBit 6
  let aset := p0 / 16 % 4
  let csr := r.func = 2
  p0 / 256 = 0 && p0 % 16 = 0 && aset ≠ 3 && !(csr && (trans || aset = 1)) &&
  p.has r.desc0 (fun x => p.has r.desc1 (fun w => p.has r.desc2 (fun o =>
    let lists := if aset = 0 then r.desc4.isNone
      else p.has r.desc4 (fun l => l.isList && decide (l.cap ≤ (if aset = 1 then o else x).size 0))
    let shape := match aset with
      | 0 => tilesOk w (o.size 0) (x.size 0)
      | 1 => x.size 0 % 128 = 0 && decide (0 < x.size 0) && w.size 1 % (x.size 0 / 128) = 0
      | _ => o.size 0 % 128 = 0 && decide (0 < o.size 0) && w.size 1 % (o.size 0 / 128) = 0
    let k := if aset = 2 then w.size 1 / max 1 (o.size 0 / 128) * 128 else x.size 0
    x.rank = 2 && o.rank = 2 && x.size 1 = o.size 1 && p.isStream w && (csr || w.isBrt)
      && sameClass x.fmt w.fmt && !(aset = 2 && x.fmt.isMx) && p.sideOk r.desc5 x && lists && shape
      && decide (k ≤ 256 * 4096) && segsOk r k
      && outOk r part o && p.fusedOk r o && p.auxOk r part o
      && p.may (paramDesc r.param1) Desc.isList)))

/-- Sampled-product records (R213). -/
def Plan.sampledOk (p : Plan) (r : Rec) : Bool :=
  let part := r.param0.toNat.testBit 7
  (r.param0 = 0 || r.param0 = 0x80) && r.fuse = 0 && noneOf [r.desc3, r.desc4, r.desc5] && !p.compat &&
  p.has r.desc0 (fun u => p.has r.desc1 (fun v => p.has r.desc2 (fun o => p.has (paramDesc r.param1) (fun t =>
    u.rank = 2 && v.rank = 2 && u.size 0 = v.size 0 && sameClass u.fmt v.fmt && !u.fmt.isMx && !v.fmt.isMx
      && p.isStream t && tilesOk t (u.size 1) (v.size 1) && o.rank = 2 && o.size 1 = t.size 1
      && decide (u.size 0 ≤ 256 * 4096) && segsOk r (u.size 0) && outOk r part o && p.auxOk r part o))))

/-- Gather records (R215). -/
def Plan.gatherOk (p : Plan) (r : Rec) : Bool :=
  let wlen := r.param0.toNat / 65536
  r.fuse = 0 && r.param0.toNat % 65536 = 0 && decide (1 ≤ wlen) && decide (wlen ≤ 255) && r.desc3.isNone &&
  p.has r.desc0 (fun x => p.has r.desc2 (fun o =>
    let n := if wlen = 1 then o.size 1 else o.size 2
    x.rank = 2 && (if wlen = 1 then o.rank = 2 else o.rank = 3 && o.size 1 = wlen) && x.size 0 = o.size 0
      && o.isWrite && o.fmt.isResult && p.sideOk r.desc1 o && p.sideOk r.desc5 x
      && p.may r.desc4 (fun i => i.fmt = .int32s && decide (n ≤ i.elems))))

/-- Contributions and destination of a scatter-add are both of the float or both of the integer class, the widest format
of each with it (R70, R221). -/
def classesMeet (a b : Fmt) : Bool :=
  let whole (f : Fmt) : Bool := f.isIntClass || f = .int32s
  whole a = whole b

/-- Scatter-add records (R215, R220, R221). -/
def Plan.scatterOk (p : Plan) (r : Rec) : Bool :=
  r.fuse = 0 && decide (r.param0.toNat ≤ 1) && r.param1 = 0 && r.desc3.isNone &&
  p.has r.desc0 (fun x => p.has r.desc2 (fun o =>
    let n := x.size 1
    x.rank = 2 && o.rank = 2 && x.size 0 = o.size 0 && o.acc = 2 && o.fmt.isResult && x.fmt.isResult
      && classesMeet x.fmt o.fmt
      && decide (n ≤ 1048576) && segsOk r n && p.sideOk r.desc1 o && p.sideOk r.desc5 x
      && p.has r.desc4 (fun i => i.fmt = .int32s && decide (n ≤ i.elems))))

/-- `RLEN`, `TOPK`, `NEXP` and `CAP` of a dispatch or combine record (R215, R223). -/
def routeOk (r : Rec) : Bool :=
  let topk := r.param0.toNat % 16
  let rlen := r.param0.toNat / 16 % 16
  let nexp := r.param1.toNat / 65536
  let cap := r.param1.toNat % 65536
  decide (1 ≤ topk) && decide (topk ≤ rlen) && decide (rlen ≤ 8) && decide (1 ≤ nexp) && decide (nexp ≤ 4096)
    && decide (1 ≤ cap) && decide (nexp * cap ≤ 2 ^ 31 - 1)

/-- A dispatch map for `t` tokens (R215). -/
def mapOk (t : Nat) (d : Desc) : Bool := d.fmt = .int32s && d.sizes = [16, t]

/-- Expert dispatch records (R215, R223). -/
def Plan.dispatchOk (p : Plan) (r : Rec) : Bool :=
  let nexp := r.param1.toNat / 65536
  let cap := r.param1.toNat % 65536
  let need := if r.param0.toNat.testBit 8 then nexp else r.param0.toNat / 16 % 16
  r.fuse = 0 && r.param0.toNat / 512 = 0 && routeOk r && noneOf [r.desc3, r.desc5] &&
  p.has r.desc0 (fun x => p.has r.desc1 (fun i => p.has r.desc2 (fun o =>
    x.rank = 2 && !x.fmt.isMx && i.fmt = .int32s && i.rank = 2 && i.size 1 = x.size 1 && decide (need ≤ i.size 0)
      && o.fmt = x.fmt && o.sizes = [x.size 0, cap, nexp] && o.isWrite
      && p.has r.desc4 (fun m => mapOk (x.size 1) m && m.isWrite))))

/-- Expert combine records (R215, R226). -/
def Plan.combineOk (p : Plan) (r : Rec) : Bool :=
  let nexp := r.param1.toNat / 65536
  let cap := r.param1.toNat % 65536
  r.param0.toNat / 256 = 0 && routeOk r && r.desc5.isNone &&
  p.has r.desc0 (fun y => p.has r.desc1 (fun g => p.has r.desc2 (fun o =>
    y.sizes = [o.size 0, cap, nexp] && y.fmt.isFloatClass && !y.fmt.isMx && g.fmt.isFloatClass && !g.fmt.isMx
      && g.rank = 2 && decide (r.param0.toNat / 16 % 16 ≤ g.size 0) && g.size 1 = o.size 1 && o.rank = 2
      && (o.acc = 1 || o.acc = 2) && o.fmt.isResult && !o.fmt.isMx && segsOk r 8 && p.fusedOk r o
      && p.has r.desc4 (mapOk (o.size 1)))))

/-- Sparse-engine records (R200). -/
def Plan.seOk (p : Plan) (r : Rec) : Bool :=
  r.plain && (match r.func.toNat with
    | 0x01 => p.productOk r
    | 0x02 => p.productOk r
    | 0x03 => p.sampledOk r
    | 0x10 => p.gatherOk r
    | 0x11 => p.scatterOk r
    | 0x20 => p.dispatchOk r
    | 0x21 => p.combineOk r
    | _ => false)
    && (r.func.toNat < 0x10 || p.may (paramDesc r.param2) Desc.isList)

/-- The gradient buffer of the compatibility mode: written by dense-array records, or combined from such a
buffer by a reduce-scatter (R317). -/
def Plan.compatBuffer (p : Plan) (n : Nat) : Bool :=
  let all := p.records.flatMap id
  let dense (k : Nat) : Bool := all.any (fun r => r.engine = 1 && r.desc2 = some k)
  dense n || all.any (fun r => r.engine = 7 && r.func = 1 && r.desc2 = some n && (r.desc0.map dense).getD false)

/-- The planes beside a weight set's stream hold as many tiles as the stream: the companions and the transposed stream of
its table entry, and what the record names in their layout (R175, R233, R313). -/
def Plan.tileCountsOk (p : Plan) (w : WeightSet) (o : Option Nat) : Bool :=
  w.kind = 1 || p.has (some w.vdesc.1) (fun v =>
    ((o.toList ++ [w.ldesc.1, w.m1desc.1, w.m2desc.1, w.tdesc.1]).filter (· ≠ 0xFFFFFFFF)).all (fun n =>
      p.has (some n) (fun d => d.size 1 = v.size 1)))

/-- The moment planes that an optimizer record draws over keep their element index below 2⁴⁸ (R315, R425). -/
def Plan.momentDrawsOk (p : Plan) (w : WeightSet) : Bool :=
  ([w.m1desc.1, w.m2desc.1].filter (· ≠ 0xFFFFFFFF)).all (fun n =>
    p.has (some n) (fun d => d.fmt ≠ .bf16 || drawsOk d.elems))

/-- Optimizer and compose records (R307, R313). An optimizer record reads the value plane at offset -1, which is the
record's own `WVER`; its gradient is `FP32`, or in the compatibility mode the `BF16` buffer (R317). -/
def Plan.optimizerOk (p : Plan) (r : Rec) : Bool :=
  match r.sliceRange with
  | none => false
  | some (k, first, count) =>
    match p.weightSets[k]? with
    | none => false
    | some w =>
      let value (o : Option Nat) : Bool := o = some w.vdesc.1 || o = some w.vdesc.2
      let alg := r.param0.toNat % 16
      decide (first + count ≤ w.slices) && value r.desc1 && noneOf [r.desc4, r.desc5] &&
      (if r.func = 0x011 then
        r.param0.toNat / 256 = 0 && noneOf [r.desc0, r.desc3]
          && p.has r.desc2 (fun o => o.fmt = .fp32 && o.isWrite) && p.tileCountsOk w r.desc2
      else
        r.verOffset p = 2 ^ 32 - 1 && r.param0.toNat / 65536 = 0 && bitsOf r.param0.toNat 4 4 = 0 && decide (alg ≤ 2) && w.m1 && (alg = 0 || w.m2)
          && w.low && value r.desc2 && p.has r.desc2 Desc.isWrite
          && p.has r.desc0 (fun g => g.fmt = .fp32 || (p.compat && g.fmt = .bf16))
          && p.tileCountsOk w r.desc0 && p.momentDrawsOk w
          && (!p.compat || (r.desc0.map p.compatBuffer).getD false)
          && p.has r.desc3 (fun h => h.fmt = .fp32 && h.rank = 2 && h.size 0 = 16))

/-- Vector-unit records (R307). -/
def Plan.vuOk (p : Plan) (r : Rec) : Bool :=
  let p0 := r.param0.toNat
  let zero12 := r.param1 = 0 && r.param2 = 0
  let pair := decide (p0 % 256 < p.tables.length)
  let out (f : Desc → Bool) : Bool := p.has r.desc2 (fun o => o.isWrite && p.sideOk r.desc3 o && f o)
  let inp (f : Desc → Bool) : Bool := p.has r.desc0 (fun x => p.sideOk r.desc5 x && f x)
  r.plain && r.fuse = 0 &&
  match r.func.toNat with
  | 0x01 => p0 / 256 = 0 && pair && zero12 && noneOf [r.desc1, r.desc4]
      && inp (fun x => out (fun o => o.fmt.isResult && o.sizes = x.sizes))
  | 0x02 =>
    let husk := p0 / 256 = 1
    decide (p0 / 256 ≤ 1) && (husk || (pair && zero12)) &&
      inp (fun x => p.has r.desc1 (fun d => d.sizes = x.sizes && p.sideOk r.desc4 d && (!husk || d.fmt = .bit1)) &&
        out (fun o => o.fmt.isResult && o.sizes = x.sizes))
  | 0x03 =>
    let op := p0 % 16
    let pred := p0 / 16
    decide (op ≤ 8) && (if op = 8 then decide (pred ≤ 5) else pred = 0) && zero12 &&
      inp (fun x =>
        (if op = 6 || op = 7 then noneOf [r.desc1, r.desc4]
         else p.has r.desc1 (fun b => b.sizes = x.sizes && p.sideOk r.desc4 b)) &&
        out (fun o => o.sizes = x.sizes && (if op = 8 then o.fmt = .bit1 else o.fmt.isResult)))
  | 0x04 => decide (p0 ≤ 3) && zero12 && noneOf [r.desc1, r.desc4] &&
      inp (fun x => segsOk r (x.size 0) &&
        out (fun o => o.fmt.isResult && (if x.rank = 1 then o.rank = 1 else o.sizes = x.sizes.drop 1)))
  | 0x05 => p0 = 0 && r.param2 = 0 && noneOf [r.desc0, r.desc1, r.desc3, r.desc4, r.desc5] &&
      p.has r.desc2 (fun o => o.isWrite && o.fmt = .bit1 && drawsOk o.elems)
  | 0x10 => p.optimizerOk r
  | 0x11 => p.optimizerOk r
  | _ => false

/-- Some predict record of the plan reads the layer with as many tokens, where there is one (R267). -/
def Plan.tokensOk (p : Plan) (r : Rec) (t : Nat) : Bool :=
  let xs := (p.records.flatMap id).filter (fun q =>
    q.engine = 4 && q.func = 1 && q.param0.toNat % 256 = r.param0.toNat % 256)
  xs.isEmpty || xs.any (fun q => p.has q.desc0 (fun x => x.size 1 = t))

/-- Predictor-unit records (R264 to R267). -/
def Plan.puOk (p : Plan) (r : Rec) : Bool :=
  let list (n : Nat) (d : Desc) : Bool := d.isList && decide (n ≤ d.cap)
  r.plain && r.fuse = 0 && r.param0.toNat / 256 = 0 && r.param1 = 0 && r.desc5.isNone &&
  match p.preds[r.param0.toNat]? with
  | none => false
  | some l =>
    let est (d : Desc) : Bool :=
      (d.fmt = .fp32 || d.fmt = .int32s) && d.rank = 2 && d.size 0 = l.n && p.tokensOk r (d.size 1)
    let off := p.may (paramDesc r.param2) Desc.isList
    match r.func.toNat with
    | 0x01 => off && noneOf [r.desc3, r.desc4]
        && p.has r.desc0 (fun x => x.rank = 2 && x.size 0 = l.d && x.fmt.isFloatClass && !x.fmt.isMx)
        && p.has r.desc1 (fun d => list l.a d && d.isWrite)
        && p.may r.desc2 (fun d => d.fmt = .fp32 && d.sizes = [l.n] && d.isWrite)
    | 0x02 => off && p.has r.desc0 est && p.has r.desc1 (list l.a) &&
        (if l.policy = .glean then
          p.has r.desc2 (fun d => list (l.a + l.g) d && d.isWrite) && p.has r.desc3 (fun d => list l.g d && d.isWrite)
            && p.has r.desc4 (fun d => list (l.a + l.g) d && d.isWrite)
        else noneOf [r.desc2, r.desc3, r.desc4])
    | 0x03 => l.policy = .glean && r.param2 = 0 && noneOf [r.desc3, r.desc4] && p.has r.desc1 (list (l.a + l.g)) &&
        p.has r.desc0 (fun x => p.has r.desc2 (fun o =>
          x.rank = 2 && o.rank = 2 && x.fmt = o.fmt && decide (l.a + l.g ≤ x.size 0) && decide (l.a + l.g ≤ o.size 0)
            && x.size 1 = o.size 1 && o.isWrite))
    | 0x04 => off && noneOf [r.desc3, r.desc4] && p.has r.desc0 est && p.has r.desc1 (list l.a) && p.has r.desc2 est
        && decide (0x8000 ≤ r.mbtag.toNat) && r.mbtag ≠ 0xFFFF
    | _ => false

/-- Source and target of a copy or transpose copy: apart, and no conversion of a tile stream (R129, R133,
R175). -/
def Plan.copyOk (p : Plan) (r : Rec) (shape : Desc → Desc → Bool) : Bool :=
  p.has r.desc0 (fun x => p.has r.desc2 (fun o =>
    let storage (f : Fmt) : Bool := !f.isResult
    shape x o && o.isWrite && !x.overlaps o && p.sideOk r.desc4 x && p.sideOk r.desc5 o
      && (x.fmt = o.fmt || (!storage x.fmt && !storage o.fmt
        && !([r.desc0, r.desc2].filterMap id).any p.streamNames.contains))))

/-- A stash directory, and a core's overflow region (R298). -/
def Plan.stashOk (p : Plan) (r : Rec) : Bool :=
  p.has r.desc4 (fun d => d.fmt = .int32s && d.sizes = [16, 8192])
    && p.has r.desc3 (fun d => d.fmt = .int8u && d.rank = 1 && d.size 0 % 2 = 0 && inShared d.base (d.size 0))

/-- The entry formats of a kind of stash entry (R297). -/
def stashFmt (kind : Nat) (f : Fmt) : Bool :=
  match kind with
  | 1 => f = .bit1
  | 2 => f = .bf16 || f = .e4m3 || f = .e5m2
  | 3 => f = .fp32
  | 4 => f.isResult && !f.isMx
  | _ => false

/-- The least innermost size that R120 allows for `n` elements of a format. -/
def leastRow (f : Fmt) (n : Nat) : Nat := ceilDiv (n * f.bits) 512 * 512 / f.bits

/-- The working tensor has the sizes of the source, dimension 0 the list's capacity, for a write of the slot; the
capacity is one below a size, so it stands for the least innermost size that R120 allows for it (R301; DEDUCED, log
entry 33). -/
def Plan.workingOk (p : Plan) (r : Rec) (w : Desc) : Bool :=
  let ws := (p.records.flatMap id).filter (fun q =>
    q.engine = 5 && q.func = 3 && q.desc4 = r.desc4 && q.param1 = r.param1)
  ws.any (fun q => p.has q.desc0 (fun x =>
    w.sizes.drop 1 = x.sizes.drop 1 && w.rank = x.rank && (match q.desc1 with
      | none => w.size 0 = x.size 0
      | some _ => p.has q.desc1 (fun l => w.size 0 = leastRow w.fmt l.cap))))

/-- Stream-engine records (R133, R134, R298, R301, R355, R378, R379). -/
def Plan.stOk (p : Plan) (c : Nat) (r : Rec) : Bool :=
  let p0 := r.param0.toNat
  let blank (o : Option Nat) : Bool := o.isNone || o = some 0
  let blankParam (w : BitVec 32) : Bool := w = 0 || w = 0xFFFFFFFF
  r.plain && r.fuse = 0 &&
  match r.func.toNat with
  | 1 => p.copyOk r (fun x o => x.sizes = o.sizes)
  | 2 =>
    let d := p0 % 8
    decide (1 ≤ d) && p.copyOk r (fun x o => decide (d < x.rank) && o.sizes = (x.sizes.set 0 (x.size d)).set d (x.size 0))
  | 3 =>
    let kind := p0 % 16
    let hsrc := p0 / 16 % 4
    p0 / 64 = 0 && decide (hsrc ≤ 1) && (kind = 1 || hsrc = 0) && r.param1.toNat < 4096 && r.param2 = 0 && r.desc5.isNone
      && p.stashOk r && p.may r.desc1 Desc.isList
      && p.has r.desc0 (fun x => !x.fmt.isMx && x.fmt ≠ .mxsb && (hsrc = 0 || x.fmt = .bit1))
      && p.has r.desc2 (fun o => o.isWrite && stashFmt kind o.fmt)
  | 4 => p0 ≤ 1 && r.param1.toNat < 4096 && r.param2 = 0 && p.stashOk r
      && p.has r.desc0 (fun x => !x.fmt.isMx && p.has r.desc2 (fun o => o.fmt = x.fmt && o.isWrite && p.workingOk r o))
  | 5 => blank r.desc2 && blank r.desc3 && blank r.desc5 && blankParam r.param0 && blankParam r.param1
      && blankParam r.param2 && p.may r.desc4 Desc.isList
      && p.has r.desc0 (fun x => decide (x.range.2 < 0x6000000000) && (x.hint = .normal || x.hint = .keep))
  | 6 =>
    let l := p.records.getD c []
    noneOf [r.desc0, r.desc1, r.desc2, r.desc3, r.desc4, r.desc5]
      && !p.needs.any (fun n => n.core = c && n.recno = r.recno)
      && (l.take r.recno).any (fun q => q.engine = 5 && q.func = 5 && q.worktag = r.param0)
      && decide ((l.filter (fun q => q.engine = 5 && q.func = 6)).length ≤ 256)
  | _ => false

/-- Two masked streams of a record carry different matrices (R238). -/
def Plan.matricesOk (p : Plan) (r : Rec) : Bool :=
  let sets := p.weightSets.zipIdx.filter (fun (w, _) =>
    w.masked && r.streams.any (fun n => n = w.vdesc.1 || n = w.vdesc.2))
  decide (sets.length ≤ 1) || (sets.map (fun x => x.1.matrix)).eraseDups.length = sets.length

/-- A record scores, selects, rebuilds for commit or syncs a masked stream under a matrix number. -/
def Rec.masks (r : Rec) : Bool :=
  r.engine = 6 && ([1, 2, 5].contains r.func.toNat || (r.func = 3 && !r.param2.toNat.testBit 0))

/-- The weight set whose value plane a stream is. -/
def Plan.setOf (p : Plan) (n : Nat) : Option Nat := p.weightSets.findIdx? (fun w => w.vdesc.1 = n || w.vdesc.2 = n)

/-- No other masked stream of the plan carries the matrix number of a record: no masked set but the stream's own has
it, and no other record gives it to another set (R238). -/
def Plan.matrixAlone (p : Plan) (r : Rec) : Bool :=
  !r.masks || r.streams.all (fun n =>
    let own := p.setOf n
    p.weightSets.zipIdx.all (fun (w, i) => !w.masked || w.matrix ≠ r.matrix || own = some i)
      && (own.isNone || p.records.all (fun l => l.all (fun q => !q.masks || q.matrix ≠ r.matrix
        || q.streams.all (fun m => (p.setOf m).isNone || p.setOf m = own)))))

/-- A stream can be BRT-k by what the plan says of it: no set of another kind holds it, and no product reads it as
BLK16 or CSR-T (R181). -/
def Plan.brtByPlan (p : Plan) (n : Nat) : Bool :=
  p.weightSets.all (fun w => w.kind = 2 || !([w.vdesc.1, w.vdesc.2, w.tdesc.1, w.tdesc.2]).contains n)
    && p.records.all (fun l => l.all (fun q =>
      !((q.engine = 1 && q.func = 2) || (q.engine = 2 && q.func = 2)) || q.desc1 ≠ some n))

/-- Mask-engine records (R181, R234 to R238, R251). -/
def Plan.meOk (p : Plan) (r : Rec) : Bool :=
  let p1 := r.param1.toNat
  let p2 := r.param2.toNat
  let first := r.param0.toNat
  let count := p1 / 65536
  let brt (d : Desc) : Bool := p.isStream d && d.isBrt
  let covers (d : Desc) : Bool := decide (1 ≤ count) && decide (first + count ≤ d.size 1)
  let plane (s d : Desc) : Bool := d.sizes = [128 * s.brtK, s.size 1]
  let cands := p2 % 64
  let candsOk := decide (1 ≤ cands) && decide (cands ≤ 32)
  let candT (d : Desc) : Bool := d.fmt = .int32s && d.sizes = [256 * cands, count]
  let change (d : Desc) : Bool := d.fmt = .int32s && d.rank = 2 && decide (272 ≤ d.size 0) && d.size 1 = count
  let step := r.mbtag = 0xFFFF
  r.plain && r.fuse = 0 && p.matricesOk r && p.matrixAlone r && (!r.masks || r.streams.all p.brtByPlan) &&
  match r.func.toNat with
  | 1 =>
    let src := p2.testBit 8
    step && bitsOf p1 8 8 = 0 && p2 / 512 = 0 && bitsOf p2 6 2 = 0 && candsOk && noneOf [r.desc3, r.desc4, r.desc5]
      && p.has r.desc1 (fun s => brt s && covers s && drawsOk (s.size 1 * 16384))
      && (if src then r.desc0.isNone else p.has r.desc0 (fun g => g.fmt = .fp32 && g.sizes = [128, 128, count]))
      && p.has r.desc2 (fun o => candT o && o.isWrite)
  | 2 => step && bitsOf p1 8 8 = 0 && p2 / 64 = 0 && candsOk && r.desc3.isNone
      && p.has r.desc0 (fun s => brt s && covers s && p.may r.desc1 (plane s))
      && p.has r.desc2 (fun o => change o && o.isWrite) && p.has r.desc4 candT
      && p.has r.desc5 (fun d => d.isList)
  | 3 =>
    let ishift := bitsOf p2 8 7
    let init := bitsOf p2 4 2
    let run := p2 / 65536
    bitsOf p1 8 8 = 0 && !p2.testBit 15 && bitsOf p2 6 2 = 0 && bitsOf p2 1 3 = 0 && decide (init ≤ 1)
      && decide (ishift ≤ 100) &&
    (if p2.testBit 0 then
      !step && init = 0 && ishift = 0 && run = 0 && p1 % 256 = 0 && noneOf [r.desc1, r.desc3, r.desc4, r.desc5]
        && p.has r.desc0 (fun x => p.has r.desc2 (fun o =>
          p.isStream x && p.isStream o && x.fmt = o.fmt && x.size 1 = o.size 1 && covers x && o.isWrite))
    else
      step && p.has r.desc2 (fun s => brt s && covers s && s.isWrite && p.has r.desc0 (plane s) && p.has r.desc1 (plane s)
          && p.may r.desc3 (plane s) && drawsOk (s.size 1 * 16384))
        && p.has r.desc4 change
        && p.has r.desc5 (fun d => d.fmt = .int8u && d.rank = 2 && d.size 0 = 64 && decide (run < d.size 1)))
  | 4 => step && decide (1 ≤ first) && decide (first ≤ 65535) && p1 / 256 = 0 && p2 / 65536 = 0
      && noneOf [r.desc1, r.desc2, r.desc3, r.desc4, r.desc5]
      && p.has r.desc0 (fun d => d.fmt = .int8u && d.sizes = [64, first])
      && ((p.group p2).bind Group.myIndex).isSome
      && decide (((p.records.flatMap id).filter (fun q =>
          q.engine = 6 && q.func = 4 && q.param1.toNat % 256 = p1 % 256)).length ≤ 1)
  | 5 => first = 0 && p1 / 256 = 0 && p2 = 0 && noneOf [r.desc1, r.desc3, r.desc4, r.desc5]
      && p.has r.desc0 (fun x => p.has r.desc2 (fun o =>
        brt x && brt o && x.fmt = o.fmt && x.sizes = o.sizes && o.isWrite))
  | _ => false

/-- Collective records (R400, R402, R405). -/
def Plan.ceOk (p : Plan) (r : Rec) : Bool :=
  let p0 := r.param0.toNat
  let p1 := r.param1.toNat
  r.plain && r.fuse = 0 && r.param2 = 0 && noneOf [r.desc4, r.desc5] &&
  match p.group (p0 / 65536) with
  | none => false
  | some g =>
    let n := g.members.length
    g.myIndex.isSome &&
    p.has r.desc0 (fun a => p.has r.desc2 (fun o =>
      let rest := a.rank = o.rank && a.size 0 = o.size 0 && a.sizes.drop 2 = o.sizes.drop 2
      match r.func.toNat with
      | 1 =>
        let part := p0.testBit 1
        bitsOf p0 2 14 = 0 && p1 = 0 && (a.fmt = .fp32 || a.fmt = .int32s) && rest && decide (2 ≤ a.rank)
          && o.size 1 * n = a.size 1 && (o.acc = 1 || o.acc = 2) && o.fmt.isResult && !o.fmt.isMx
          && (!part || o.fmt = a.fmt) && p.may r.desc1 (statusOk a)
          && (if part then p.has r.desc3 (statusOk o) else r.desc3.isNone)
      | 2 =>
        let k := p1 % 256
        bitsOf p0 1 15 = 0 && p1 / 512 = 0 && noneOf [r.desc1, r.desc3] && rest && decide (2 ≤ a.rank) && a.fmt = o.fmt
          && o.size 1 = n * a.size 1 && o.isWrite
          && (!p1.testBit 8 || (match p.weightSets[k]? with
            | some w => ([r.desc0, r.desc2].filterMap id).all w.buffered.contains
            | none => false))
      | 3 =>
        let epm := p1 % 65536
        let x := if p1.testBit 16 then o else a
        let y := if p1.testBit 16 then a else o
        bitsOf p0 1 15 = 0 && p1 / 2 ^ 17 = 0 && noneOf [r.desc1, r.desc3] && a.fmt = o.fmt && o.isWrite
          && decide (1 ≤ epm) && x.rank = 3 && x.size 2 = n * epm && y.sizes = [x.size 0, x.size 1, n, epm]
      | _ => false))

/-- Length of a shard's source region (R504). -/
def Desc.regionLen (d : Desc) : Nat := d.range.2 + 1 - d.range.1

/-- The shard entries of the plan: entry, offset in the slot, length (R504). -/
def Plan.shards (p : Plan) : List (Nat × Nat × Nat) :=
  ((p.records.flatMap id).filter (fun r => r.engine = 8 && r.func = 1)).map (fun r =>
    (r.param0.toNat % 65536, r.param1.toNat * 4096,
     ((r.desc0.bind p.descAt).map Desc.regionLen).getD 0))

/-- Checkpoint-engine records (R504). -/
def Plan.kpOk (p : Plan) (r : Rec) : Bool :=
  r.plain && r.fuse = 0 && r.param2 = 0 && noneOf [r.desc1, r.desc2, r.desc3, r.desc4, r.desc5] &&
  match p.ckpt with
  | none => false
  | some c =>
    match r.func.toNat with
    | 1 => r.param0.toNat / 2 ^ 17 = 0 && r.param0.toNat % 65536 < c.entries && p.has r.desc0 (fun d =>
        decide (r.param1.toNat * 4096 + d.regionLen ≤ c.slotBytes - 48 * c.entries))
    | 2 => decide (r.param0.toNat ≤ 1) && r.param1 = 0 && r.desc0.isNone
    | _ => false

/-- The shard entries of a plan with a checkpoint table: each entry once, none missing, none overlapping
(R504). -/
def Plan.shardsOk (p : Plan) : Bool :=
  match p.ckpt with
  | none => true
  | some c =>
    let js := p.shards.map (fun x => x.1)
    js.length = c.entries && js.eraseDups.length = js.length
      && disjoint (p.shards.map (fun x => (x.2.1, x.2.1 + x.2.2)))

/-! ### Rules for every record -/

/-- A select record of the plan reads a low-half plane of the weight set that an all-gather's plane belongs to (R312). -/
def Plan.selectsLow (p : Plan) (r : Rec) : Bool :=
  p.weightSets.any (fun w => w.low && r.descs.any (fun n => n = w.ldesc.1 || n = w.ldesc.2)
    && p.records.any (fun l => l.any (fun q => q.engine = 6 && q.func = 2
      && q.descs.any (fun n => n = w.ldesc.1 || n = w.ldesc.2))))

/-- Every low-half plane a record names is one it may name (R294); an all-gather carries one that select records read
(R312). -/
def Plan.lowOk (p : Plan) (r : Rec) : Bool :=
  let low := p.weightSets.flatMap (fun w => ([w.ldesc.1, w.ldesc.2]).filter (· ≠ 0xFFFFFFFF))
  !(r.descs ++ r.paramDescs).any low.contains || r.engine = 8 || (r.engine = 7 && r.func = 2 && p.selectsLow r) || (r.engine = 6 && [2, 3, 5].contains r.func.toNat) || p.isLoadRec r
    || r.sliceRange.isSome

/-- A record that names a buffered descriptor reads at an offset of 0, -1 or -2 (R287, R290). -/
def Plan.offsetOk (p : Plan) (r : Rec) : Bool :=
  let off := r.verOffset p
  !(r.descs ++ r.paramDescs).any (fun n => p.weightSets.any (fun w => w.buffered.contains n || w.verdesc = n))
    || off = 0 || off = 2 ^ 32 - 1 || off = 2 ^ 32 - 2

/-- The micro-batch tag fits the record and the plan (R234, R266, R267). -/
def Plan.tagOk (p : Plan) (r : Rec) : Bool :=
  (r.mbtag ≠ 0xFFFF || p.masked) && (r.mbtag = 0xFFFF || r.mbtag.toNat < 0x8000 || p.refPeriod ≠ 0)

/-- A signal names a logical core, and adds something (R45, R46). -/
def Signal.ok (g : Signal) : Bool := g.scope ≠ 3 && decide (g.core.val < 48) && decide (1 ≤ g.inc)

/-- The rules of R46 for every record, and those of its engine's chapter. -/
def Plan.recOk (p : Plan) (c pos : Nat) (raw : Bytes) (r : Rec) : Bool :=
  let counts := fieldAt raw 9 1
  decide (counts / 16 ≤ 4) && decide (counts % 16 ≤ 4) && r.recno = pos
    && (r.descs ++ r.paramDescs).all (fun n => decide (n < p.descs.length))
    && r.sigs.all Signal.ok && p.tagOk r && p.offsetOk r && p.lowOk r &&
  match r.engine.val with
  | 0 => p.csqOk c r
  | 1 => p.daOk r
  | 2 => p.seOk r
  | 3 => p.vuOk r
  | 4 => p.puOk r
  | 5 => p.stOk c r
  | 6 => p.meOk r
  | 7 => p.ceOk r
  | 8 => p.kpOk r
  | _ => false

/-- Every tile stream that a record names stands as R175 lays it out. -/
def Plan.streamsOk (p : Plan) : Bool :=
  let bad := p.streamNames.filter (fun n => !p.has (some n) p.isStream)
  bad.isEmpty || p.records.all (fun l => l.all (fun r => !(r.named p).any bad.contains))

/-- A record that must be a mask-step record by its function (R234). -/
def Rec.mustMask (r : Rec) : Bool :=
  r.engine = 6 && ([1, 2, 4].contains r.func.toNat || (r.func = 3 && !r.param2.toNat.testBit 0))

/-- The tensors a record reads and does not write; a prefetch or a cancel reads none. -/
def Rec.readsOnly (p : Plan) (r : Rec) : List Nat :=
  if r.engine = 5 && decide (5 ≤ r.func.toNat) then []
  else (r.named p).filter (fun n => !(r.writes p).contains n)

/-- One round: a record outside the mask engine serves only mask-step records when some of them read each tensor it
writes and no other record does. -/
def Plan.maskRound (p : Plan) (l : List (Rec × Bool)) : List (Rec × Bool) :=
  l.map (fun (r, b) =>
    (r, b || (r.engine ≠ 6 && !(r.writes p).isEmpty && (r.writes p).all (fun n =>
      l.any (fun x => x.2 && (x.1.readsOnly p).contains n) && l.all (fun x => x.2 || !(x.1.readsOnly p).contains n)))))

/-- Every record that serves only mask-step records is one (R234; "serves" is read as writing what they alone read, up to
four records deep: DEDUCED, log entry 160). -/
def Plan.servesOk (p : Plan) : Bool :=
  let l := (p.records.flatMap id).map (fun r => (r, r.mustMask))
  !l.any Prod.snd || (p.maskRound (p.maskRound (p.maskRound (p.maskRound l)))).all (fun x => !x.2 || x.1.mbtag = 0xFFFF)

/-- A core's list ends in exactly one record with `ENDSTEP` set (R46). -/
def listEnds (l : List Rec) : Bool :=
  (match l.getLast? with
    | some r => r.endstep
    | none => false) && l.dropLast.all (fun r => !r.endstep)

/-- Every record of the plan passes (R40 check 0x08): `raws` holds the 48 lists as bytes. -/
def Plan.recordsOk (p : Plan) (raws : List (List Bytes)) : Bool :=
  p.records.all listEnds && !(p.compat && p.masked) && p.shardsOk && p.streamsOk && p.servesOk
    && (raws.zip p.records).zipIdx.all (fun (l, c) =>
      (l.1.zip l.2).zipIdx.all (fun (x, i) => p.recOk c i x.1 x.2))

end Sys2Proof.Machine
end

