-- ==== Sys2Proof/Machine/Checkpoint.lean ====
section
/-! DEFINITION. The checkpoint engine and the restore of a checkpoint (R255, R321, R322, R502 to R507). -/

namespace Sys2Proof.Machine

/-! ### Shard records (R504) -/

/-- A checkpoint record of a function. -/
def wantShard (f : BitVec 12) (r : Rec) : Bool := r.engine = 8 && r.func = f

/-- The entry a shard stream record streams. -/
def Rec.entry (r : Rec) : Nat := r.param0.toNat % 65536

/-- Offset of that entry in its slot. -/
def Rec.entryOffset (r : Rec) : Nat := r.param1.toNat * 4096

/-- The bytes of a region in ascending address, decoded where it is compressed (R137, R322, R504). -/
def State.regionBytes (s : State) (d : Desc) : Bytes := s.getBytes (d.fmt.bits / 8) d.range.1 d.regionLen

/-- A row of an entry table: offset, length and digest (R503). -/
def entryRow (off : Nat) (b : Bytes) : Bytes := toLe 8 off ++ toLe 8 b.length ++ sha3 b

/-- Own transfers of a record are not yet acknowledged (R398). -/
def State.unacked (s : State) (c : Core) (r : Nat) : Bool := s.outbound.any (fun o => o.core = c && o.recno = r)

/-- What a shard stream record does (R504): first its entry's bytes go to both slots; once every write is
acknowledged, the table row follows. -/
def shardStreamEffect (x : Ctx) (q : QRec) (s : State) : State :=
  match x.plan.ckpt, x.rd x.r.desc0 with
  | some c, some (_, d) =>
    let k := x.plan.ckptSlot x.step
    let here := c.slot c.localBase k
    let there := c.slot c.buddyBase k
    let off := x.r.entryOffset
    if q.stage = 0 then
      let b := s.regionBytes d
      let s := s.writeRun (here + off) b
      let s := s.sendWrite (Sender.of x.core x.r) x.step c.buddy (there + off) b
      s.modQRec x.core x.r.recno (fun q => { q with stage := 1 })
    else if s.unacked x.core x.r.recno then s
    else
      let row := entryRow off (s.bytes (here + off) d.regionLen)
      let s := s.writeRun (c.row here x.r.entry) row
      (s.sendWrite (Sender.of x.core x.r) x.step c.buddy (c.row there x.r.entry) row).finish x.core x.r.recno
  | _, _ => s.finish x.core x.r.recno

/-- `SHARD_STREAM` (R504): the first command streams the data, the second, once it is acknowledged, writes the
table row. -/
def execShardStream (c : Core) (r : Nat) (s : State) : Result :=
  s.beginRecord c r (wantShard 1) (byRows (fun r => [r.desc0].filterMap id)) shardStreamEffect

/-- The digest of an entry of a slot is that of its bytes (R504). -/
def State.entryHolds (s : State) (c : CkptTable) (slot j : Nat) : Bool :=
  let row := s.bytes (c.row slot j) 48
  let off := fieldAt row 0 8
  let len := fieldAt row 8 8
  decide (off + len ≤ c.slotBytes - 48 * c.entries) && sha3 (s.bytes (slot + off) len) = slice row 16 32

/-- What a shard verify record does: every entry of the ward slot is recomputed (R504, R506). -/
def shardVerifyEffect (x : Ctx) (_ : QRec) (s : State) : State :=
  match x.plan.ckpt with
  | none => s
  | some c =>
    let slot := c.slot c.wardBase (x.plan.ckptSlot x.step)
    if (List.range c.entries).all (s.entryHolds c slot) then s else s.abortWith 0x1601 x.island []

/-- `SHARD_VERIFY` (R504, R506). -/
def execShardVerify (c : Core) (r : Nat) (s : State) : Result :=
  s.runRecord c r (wantShard 2) (byRows (fun _ => [])) shardVerifyEffect

/-! ### Restore (R507) -/

/-- An agreement attempt is in progress (R442, R475). -/
def State.attempting (s : State) : Bool := s.agree.contributed || s.agree.decided.isSome || s.stageLock

/-- `CKPT_RESTORE` may be written (R507). -/
def State.mayRestore (s : State) : Bool :=
  (s.step.status = .idle || s.step.status = .aborted) && !s.attempting && s.restore.isNone

/-- The local slot holds checkpoint `t` (R506, R520). -/
def State.holdsCkpt (s : State) (p : Plan) (t : Nat) : Bool := s.obj 0x5021 (p.ckptSlot t) = t

/-- A module that does not hold a checkpoint asks its buddy for the buddy's ward slot by a `MGMT` frame (R507 step 3);
the bytes of that frame, which no rule states, are free values (log entry 159). -/
def State.askBuddy (s : State) (t : Nat) : State := match s.plan.bind Plan.ckpt with
  | some c => s.sendRouted 0x0D false c.buddy 0 ((List.range 224).map (Config.askByte t))
  | none => s

/-- A restore begins: it is a step boundary, at which staged values and a due plan swap commit (R507 step 1) and
faulty rows are repaired (R342). A module that does not hold the checkpoint asks its buddy for it. An image activated so
is the host's replan (R508): what the old one knew of links and nodes lost goes (R411, R413; DEDUCED, log entry 177). -/
def State.startRestore (s : State) (t : Nat) : State :=
  let any := !s.staged.isEmpty
  let s := s.commitStaged s.gc.value
  let swap := if s.obj 0x5003 0 = 0 then none else s.verifiedStaged
  let s := match swap with
    | some p => { s.activate p with downLinks := [], lossAt := [], lossOrigins := [], lostNodes := [] }
    | none => s
  let s := if any || swap.isSome then
      ({ s with epochCommitGc := some s.gc.value }).setObj 0x1004 3 ((s.epoch + 1) % 2 ^ 32)
    else s
  let s := s.repairRows
  let pulling := match s.plan with
    | some p => !s.holdsCkpt p t
    | none => true
  let s := if pulling then s.askBuddy t else s
  ({ s with restore := some ⟨t, pulling⟩ }).setObj 0x5023 1 1

/-- Shard stream records in ascending entry. -/
def Plan.streams (p : Plan) : List Rec :=
  sortBy (fun (a b : Rec) => decide (a.entry < b.entry)) ((p.records.flatMap id).filter (wantShard 1))

/-- Copies entries back to their sources in order, checking each digest, and stops at the first that fails
(R507 step 2); a compressed region takes its tiles with the tags their data chooses (R138). -/
def State.writeBack (s : State) (p : Plan) (c : CkptTable) (slot t : Nat) : List Rec → State × Bool
  | [] => (s, true)
  | r :: rest =>
    match r.desc0.bind (fun n => p.descAt (p.resolveRead r t n)) with
    | none => (s, false)
    | some d =>
      let b := s.bytes (slot + r.entryOffset) d.regionLen
      if (s.stackOut d.range.1 d.regionLen).isSome then (s, false)
      else if s.bytes (c.row slot r.entry) 48 = entryRow r.entryOffset b then
        (s.putBytes (d.fmt.bits / 8) d.range.1 b).writeBack p c slot t rest
      else (s, false)

/-- The slot pulled from the buddy becomes the local one (R507 step 3). -/
def State.adoptSlot (s : State) (p : Plan) (c : CkptTable) (t : Nat) (b : Bytes) : State :=
  let k := p.ckptSlot t
  let slot := c.slot c.localBase k
  let s := s.writeRun slot b
  (s.setObj 0x5021 k t).setObj 0x5022 k (s.shardDigest c slot)

/-- Every DEVICE slot of every window returns to HOST, with `FSTEP` all ones (R507 step 5). -/
def State.returnSlots (s : State) (p : Plan) : State :=
  p.windows.foldl (fun s w => (List.range w.slots).foldl (fun s i =>
    let a := p.slotEntry w i
    if s.word a 1 = 2 then (s.setFlag a 1).writeRun (a + 8) (toLe 8 (2 ^ 64 - 1)) else s) s) s

/-- The committed version that a restored version table shows for a weight set: the newer of its two buffers' that is a
version; 0 where neither is (R292, R322, R325). -/
def State.restoredVersion (s : State) (w : WeightSet) : Nat :=
  ([0, 1].map (s.sliceVersion w.verdesc 0)).foldl (fun a v => if v = 2 ^ 64 - 1 then a else max a v) 0

/-- The restore ends: sync flags, slots and the step's state (R255, R321, R507 step 5). -/
def State.finishRestore (s : State) (p : Plan) (t : Nat) : State :=
  let flags := (p.weightSets.filter WeightSet.masked).map WeightSet.matrix
  let s := { s with restore := none, syncFlags := flags
                    step := { s.step with current := (t + 2 ^ 64 - 1) % 2 ^ 64, status := .idle, causes := [],
                                          relaunches := 0 } }
  let s := p.weightSets.zipIdx.foldl (fun s (w, i) => s.setObj 0x2601 i (s.restoredVersion w)) s
  ((s.returnSlots p).setObj 0x2600 4 1).setObj 0x5023 1 2

/-- The restore fails (R507). -/
def State.failRestore (s : State) : State :=
  let s := { s with restore := none, step := { s.step with status := .aborted } }
  (s.mgmtEvent 0x4B01 []).setObj 0x5023 1 3

/-- Sends this module's local slot to a buddy whose ward slot does not hold the checkpoint (R507 step 4; by writes, as
the shard streams that fill it: DEDUCED, log entry 159). -/
def State.remirror (s : State) (p : Plan) (c : CkptTable) (t : Nat) : State :=
  let k := p.ckptSlot t
  s.sendWrite Sender.restore t c.buddy (c.slot c.buddyBase k) (s.bytes (c.slot c.localBase k) c.slotBytes)

/-- What a restore of checkpoint `t` does once its slot is at hand (R507). -/
def State.runRestore (s : State) (x : Restore) (pulled : Option Bytes) : State :=
  match s.plan with
  | none => s.failRestore
  | some p =>
    match p.ckpt with
    | none => s.failRestore
    | some c =>
      let slot := c.slot c.localBase (p.ckptSlot x.step)
      let ready : Option State :=
        if !x.pulling then some s
        else pulled.bind (fun b => if b.length = c.slotBytes then some (s.adoptSlot p c x.step b) else none)
      match ready with
      | none => s.failRestore
      | some s =>
        if (s.stackOut slot c.slotBytes).isSome then s.failRestore
        else match s.writeBack p c slot x.step p.streams with
        | (s, true) => (if x.pulling || Config.buddyHolds p.imageDigest x.step then s else s.remirror p c x.step).finishRestore p x.step
        | (s, false) => s.failRestore

/-- `CKPT_RESTORE_DONE` (R507): the restore's copying is over; `pulled` is the buddy's ward slot when this
module had to ask for it and the buddy holds the checkpoint (log entries 23 and 159). -/
def execCkptRestoreDone (pulled : Option Bytes) (s : State) : Result :=
  match s.restore with
  | none => .next s
  | some x => if s.awake then .next (s.runRestore x pulled) else .next s

end Sys2Proof.Machine
end

