-- ==== Sys2Proof/Machine/Faults.lean ====
section
/-! DEFINITION. Faults that hardware detects in an attempt of a record, the retry rule, lasting faults,
and the transient bins (R158, R165, R228, R229, R254, R281, R318, R323, R338 to R340, R360, R408, R495
to R500). -/

namespace Sys2Proof.Machine

/-! ### What a fault of an engine logs and counts -/

/-- The lasting event and its counter, by engine (R158, R228, R254, R281, R323). -/
def lastingOf (r : Rec) : Option (BitVec 16 × Nat) :=
  match r.engine.val with
  | 1 => some (0x2201, 0x301B)
  | 2 => some (0x2202, 0x3023)
  | 3 => some (0x2205, 0x3034)
  | 4 => some (0x2204, 0x3032)
  | 6 => some (0x2203, 0x3029)
  | _ => none

/-- The transient event a retry's success logs, by engine and fault (R158, R228, R254, R281, R323). -/
def transientCode (r : Rec) (k : FaultKind) : BitVec 16 :=
  match r.engine.val, k with
  | 1, .checksum .. => 0x1201
  | 1, _ => 0x1202
  | 2, _ => 0x1203
  | 3, _ => 0x1208
  | 4, _ => 0x1207
  | 6, _ => 0x1205
  | _, _ => 0

/-- The array of a dense record in which a fault was met; for one that names none the lowest of `UNITS` (R172). -/
def FaultKind.array (k : FaultKind) (r : Rec) : Fin 4 :=
  match k with
  | .checksum a .. => a
  | .engineState a => a
  | .operand _ _ a => a
  | _ => (r.arrays.head?).getD 0

/-- The localisation of a failed check: the column that a row check names, then the streamed vector that a column check
names; all ones where the check did not fail (R165; DESIGN CHOICE, log entry 168). -/
def FaultKind.place (k : FaultKind) : Bytes :=
  match k with
  | .checksum _ _ col v => toLe 1 ((col.map BitVec.toNat).getD 0xFF) ++ toLe 4 ((v.map BitVec.toNat).getD 0xFFFFFFFF)
  | _ => []

/-- The detail of a record's fault events: the array, partition and localisation of a dense pass, else
the record with its unit, matrix, predictor or weight set (R172, R231, R258, R284, R326). -/
def State.faultDetail (s : State) (c : Core) (r : Rec) (k : FaultKind) : Bytes :=
  match r.engine.val, k with
  | 1, k => toLe 1 (FaultKind.array k r).val ++ toLe 1 r.pidx.val ++ FaultKind.place k
  | 2, _ => toLe 4 r.recno ++ toLe 1 (s.physOf c).val
  | 3, _ => toLe 4 r.recno ++ (match r.sliceRange with
    | some (w, _, _) => toLe 1 w
    | none => [])
  | 4, _ => toLe 1 (r.param0.toNat % 256) ++ toLe 4 r.recno
  | 6, _ => toLe 1 r.matrix ++ toLe 4 r.recno
  | _, _ => toLe 4 r.recno

/-- The event of a fault in a record that cannot be repeated once it has written: a scatter-add with
`ACCUM` 1 or a reduce-written combine, a rebuild with `RMODE` 0, an accumulate write (R229, R254,
R318). -/
def unrepeatable (p : Plan) (r : Rec) : Option (BitVec 16) :=
  let f := r.func.toNat
  match r.engine.val with
  | 1 => if isAccumulate p r then some 0x1209 else none
  | 2 =>
    if f = 0x11 && r.flag 0 then some 0x1204
    else if f = 0x21 && ((r.desc2.bind p.descAt).map Desc.acc) = some 2 then some 0x1204
    else none
  | 6 => if f = 3 && !r.rmode then some 0x1206 else none
  | _ => none

/-- The unit a record runs on: its mask engine, or its physical core (R496). -/
def State.faultUnit (s : State) (c : Core) (r : Rec) : Nat :=
  if r.engine = 6 then 64 + (coreDie c).val else (s.physOf c).val

/-! ### Lasting faults (R496 to R500) -/

/-- What a lasting fault of a record's engine leads to: the loss of the module for a mask engine, the
fence of a sparse engine whose die has no spare, else sparing of the core (R498 to R500). -/
def State.lastingFault (s : State) (c : Core) (r : Rec) : State :=
  if r.engine = 6 then
    (s.event 0x2507 (0x7C + (coreDie c).val) (toLe 1 r.matrix ++ toLe 4 r.recno)).declareLost
  else if r.engine = 2 && (s.spareFree c).isNone && !s.sparing.any (fun x => x.logical = c) then
    let p := (s.physOf c).val
    let s := (s.event 0x2504 p (toLe 1 c.val ++ toLe 1 p)).setObj 0x2600 4 0
    ({ s with seFenced := addNew s.seFenced [p], planStuck := true }).driveFault
  else s.spareLasting c

/-- A record fails for good: its event and counter, the abort, and what follows (R495, R496). -/
def State.failRecord (s : State) (c : Core) (r : Rec) (k : FaultKind) : State :=
  match lastingOf r with
  | some (code, obj) =>
    let d := s.faultDetail c r k
    ((s.addObj obj (s.retryUnit c r) 1).abortWith code (s.engineIsland c r) d).lastingFault c r
  | none => s.abortStep 0x2302

/-! ### Attempts (R495) -/

/-- A fault in a collective or checkpoint engine: no member retries it alone, and a second one in the
relaunch loses the module (R408, R496, R500). -/
def State.collectiveFault (s : State) (r : Rec) : State :=
  let e := r.ceng.val
  let again := decide (0 < s.step.relaunches) && lookupKey e s.collFaults = some s.step.current
  let s := { s with collFaults := setKey e s.step.current s.collFaults }
  let s := (s.addObj 0x3047 e 1).abortWith 0x1503 (0x84 + e) (toLe 4 r.recno)
  if again then (s.event 0x2505 (0x84 + e) (toLe 4 r.recno)).declareLost else s

/-- A fault after a first write that cannot be repeated: the step aborts without a retry, and the same
fault in the relaunch is lasting (R229, R254, R318, R496). A record is its core's (R42). -/
def State.writtenFault (s : State) (c : Core) (r : Rec) (k : FaultKind) (code : BitVec 16) : State :=
  let key := (s.faultUnit c r, c.val, r.recno, s.step.current)
  if decide (0 < s.step.relaunches) && s.coreFaults.contains key then s.failRecord c r k
  else
    let s := { s with coreFaults := addNew s.coreFaults [key] }
    let s := match retryCounter r with
      | some obj => s.addObj obj (s.retryUnit c r) 1
      | none => s
    let detail := if code = 0x1209 then toLe 4 r.recno else s.faultDetail c r k
    (s.abortWith code (s.engineIsland c r) detail).transientOf c r

/-- An attempt stops (R495): the first failure starts the record again on the same unit, the second is
lasting. An executed record has written all it writes, so only one that cannot be repeated still fails. -/
def State.attemptFault (s : State) (p : Plan) (c : Core) (r : Rec) (q : QRec) (k : FaultKind) : State :=
  if 7 ≤ r.engine.val then s.collectiveFault r
  else if q.phase = .executed then
    match unrepeatable p r with
    | some code => s.writtenFault c r k code
    | none => s
  else if q.failed.isSome then s.failRecord c r k
  else
    let f := (transientCode r k, s.faultDetail c r k)
    s.modQRec c r.recno (fun q => { q with failed := some f })

/-- An operand word is uncorrectable: it is counted, and a word still bad when read again is lost: it is
poisoned and the step aborts (R338 to R340). -/
def State.operandFault (s : State) (p : Plan) (c : Core) (r : Rec) (q : QRec) (k : FaultKind)
    (a : Nat) (lost : Bool) : State :=
  let s := s.noteUncorrectable a
  if !lost then s.attemptFault p c r q k
  else
    let s := (((s.noteUncorrectable a).lostData a).poisonWord a).abortStep 0x2302
    if 7 ≤ r.engine.val then s.collectiveFault r
    else if q.phase = .executed then
      match unrepeatable p r with
      | some code => s.writtenFault c r k code
      | none => s
    else if (lastingOf r).isSome then s.failRecord c r k
    else s

/-- The engine's own state and checks cover a fault of this kind. Checksums are those of the dense arrays in multiply-add
mode, and one of the two checks has failed (R144, R163, R165); the core sequencer and the stream engines have neither
(log entry 24). A dense record meets a fault in an array of its own. -/
def faultFits (k : FaultKind) (r : Rec) : Bool :=
  (r.engine ≠ 1 || r.arrays.contains (FaultKind.array k r)) &&
  match k with
  | .checksum _ part col v =>
    r.engine = 1 && r.mode = 0 && (col.isSome || v.isSome) && part.val = (if r.part = 0 then 0 else r.pidx.val)
  | .engineState _ => r.engine ≠ 0 && r.engine ≠ 5
  | _ => true

/-- A fault of this kind can meet a record that has come so far: before it has its credits only its descriptors are
fetched (R358, R360), before its start its feed and its shadow loads read operands as well (R158, R370). -/
def faultMeets (k : FaultKind) (q : QRec) : Bool :=
  match q.phase, k with
  | .issued, .descriptor => true
  | .issued, _ => false
  | .granted, .checksum .. => false
  | .granted, .engineState _ => false
  | _, _ => true

/-- A line of the die-shared cache is resident. -/
def State.lineIn (s : State) (die : Fin 4) (a : Nat) : Bool :=
  (s.caches[die]).any (fun l => l.addr = a / 2048 * 2048)

/-- `RECORD_FAULT` (R495): the attempt of a record meets a fault that hardware detects, or takes a word that was
corrected on its way (R338, R339). -/
def execRecordFault (c : Core) (r : Nat) (k : FaultKind) (s : State) : Result :=
  match s.plan, s.qrec c r with
  | some p, some q =>
    match p.recAt c r with
    | none => .next s
    | some rc =>
      if !s.awake || s.step.status ≠ .running || !faultFits k rc || !faultMeets k q then .next s
      else match k with
      | .cacheLine a =>
        if s.lineIn (coreDie c) a.toNat then .next (s.refetchLine (coreDie c).val a.toNat) else .next s
      | .corrected a =>
        match s.phys a.toNat with
        | none => .next s
        | some w => .next (s.noteCorrected w)
      | .operand a lost _ =>
        match s.phys a.toNat with
        | none => .next s
        | some w => .next (s.operandFault p c rc q k w lost)
      | _ => .next (s.attemptFault p c rc q k)
  | _, _ => .next s

/-! ### Transient bins (R497) -/

/-- `TRANSIENT_BIN_ROLL` (R497): a minute passes; every core's sums are taken again. -/
def execTransientBinRoll (s : State) : Result :=
  if !s.awake then .next s
  else
    let s := { s with transientBins := s.transientBins.map (fun (b : Nat × List Nat) => (b.1, (0 :: b.2).take 60)) }
    .next ((s.transientBins.map Prod.fst).foldl State.checkTransients s)

end Sys2Proof.Machine
end

