-- ==== Sys2Proof/Machine/HostPort.lean ====
section
/-! DEFINITION. The host port: its link, neighbour protocols, and the RoCEv2 operations on shared windows (R450 to
R454, R459). -/

namespace Sys2Proof.Machine

/-! ### The link (R450, R451) -/

/-- `HOST_LINK_DOWN` (R451): steps continue. -/
def execHostLinkDown (s : State) : Result := if s.phase = .up then .next s.hostLinkLost else .next s

/-- `HOST_LINK_UP` (R451): it needs the light of `LG0`, and a port that has kept its PLL (R25, R450). -/
def execHostLinkUp (s : State) : Result :=
  if s.phase ≠ .up || s.hostUp || s.hostPllLost || s.groupLit 0 = 0 then .next s
  else .next ((s.setObj 0x1100 5 1).event 0x6402 0x70 [])

/-- The host port receives frames: its link is up and its island runs, in CAPTURE as well (R509). -/
def State.hostHears (s : State) : Bool := s.phase = .up && s.hostUp

/-- `HOST_FRAME_DISCARD` (R450). -/
def execHostFrameDiscard (s : State) : Result :=
  if s.hostHears then .next (s.addObj 0x3049 0 1) else .next s

/-- The IPv6 link-local address formed from a MAC address by EUI-64 (R450). -/
def eui64Address (mac : Nat) : Nat :=
  let hi := mac / 2 ^ 24 % 2 ^ 24
  0xFE80 * 2 ^ 112 + (hi ^^^ 0x020000) * 2 ^ 40 + 0xFFFE * 2 ^ 24 + mac % 2 ^ 24

/-- The number that bytes in network order spell. -/
def beNat (b : Bytes) : Nat := leNat b.reverse

/-- The port's IPv6 address: `HOST_IPV6`, and until it is written the link-local one (R450, R466; that its bytes stand in
network order is DESIGN CHOICE, log entry 182). -/
def State.hostIpv6 (s : State) : Nat :=
  let b := s.blob 0x1100 2 16
  if allZero b then eui64Address (s.value {} 0x1100 0) else beNat b

/-- A request asks for an address of this port (R450). -/
def State.answersTo (s : State) : Neighbour → Bool
  | .arp a | .icmpEcho a => s.obj 0x1100 1 ≠ 0 && a.toNat = s.obj 0x1100 1
  | .neighbourSolicitation a | .icmpv6Echo a => a.toNat = s.hostIpv6

/-- `NEIGHBOUR_REPLY` (R450): a request for another address is a frame like any other that the port discards. -/
def execNeighbourReply (n : Neighbour) (s : State) : Result :=
  if !s.hostHears then .next s
  else if s.answersTo n then .next { s with out := s.out ++ [.neighbour n] }
  else .next (s.addObj 0x3049 0 1)

/-! ### Queue pairs (R452) -/

/-- The entries of `QP_TABLE`, 32 bytes each: number, state, peer address, peer queue pair, path MTU (R466). Their places
are the model's (log entry 42): number in bytes 0 and 1, state in byte 2, path MTU in bytes 24 and 25. -/
def State.qpEntries (s : State) : List Bytes := chunked 32 (s.blob 0x1103 0 0)

/-- An entry describes a queue pair that is set up, with a path MTU that the port supports, and not in the error state
(R452; states 1 and 2, log entry 42). -/
def qpReady (qp : Nat) (e : Bytes) : Bool :=
  fieldAt e 0 2 = qp && fieldAt e 2 1 = 1 && [1024, 2048, 4096].contains (fieldAt e 24 2)

/-- A packet that IP ECN marks is answered with a congestion notification packet (R452). -/
def State.noteMark (s : State) (q : Packet) : State := if q.ecn then { s with out := s.out ++ [.cnp q.qp] } else s

/-- A queue pair executes requests: RDMA runs while the module works and the link is up. -/
def State.qpServes (s : State) (qp : Nat) : Bool := s.awake && s.hostUp && s.qpEntries.any (qpReady qp)

/-- A queue pair enters the error state (R454). -/
def State.qpFails (s : State) (qp : Nat) : State :=
  let es := s.qpEntries.map (fun e => if qpReady qp e then e.set 2 2 else e)
  { s with blobs := setKey (objKey 0x1103 0) es.flatten s.blobs }

/-- Answers an operation of a queue pair. -/
def State.rdmaReply (s : State) (qp : Nat) (r : RdmaReply) : State := { s with out := s.out ++ [.rdma qp r] }

/-- Refuses an operation: it changes nothing, is counted, and the queue pair enters the error state (R454). -/
def State.rdmaRefuse (s : State) (qp : Nat) : State := ((s.addObj 0x304A 0 1).qpFails qp).rdmaReply qp .nakAccess

/-- An operation on bytes of a stack out of service: the fence delivers nothing, counts it and answers with an error
(R28, R347; that the error is the NAK of a refused operation is DEDUCED, log entry 158). -/
def State.rdmaFenced (s : State) (qp a n : Nat) (act : State) : State := match s.stackOut a n with
  | some i => (s.fenceHit 0x70 i).rdmaRefuse qp
  | none => act

/-- The window a key names (R452). -/
def State.keyWindow (s : State) (rkey : BitVec 32) : Option (Plan × Window) :=
  match s.plan with
  | none => none
  | some p =>
    match p.window (rkey.toNat % 256) with
    | some w => if s.rkey w.num = rkey.toNat then some (p, w) else none
    | none => none

/-- The range lies wholly in one slot whose flag is HOST (R454). -/
def State.inHostSlot (s : State) (p : Plan) (w : Window) (va n : Nat) : Bool :=
  decide (w.headLen ≤ va) &&
    (let k := (va - w.headLen) / w.slotSize
     decide (k < w.slots) && decide (va + n ≤ w.headLen + (k + 1) * w.slotSize) && s.slotFlag p (w.num, k) = 1)

/-! ### Operations (R453, R454, R459) -/

/-- The bytes that an RDMA READ returns; those of a poisoned word are free values, since the spec does not say what
such a read gives (R340, log entry 6). -/
def State.rdmaBytes (s : State) (a n : Nat) : Bytes :=
  (List.range n).map (fun i => s.byteFor s.freeCount (a + i))

/-- Each poisoned word that is read counts as an uncorrectable read (R338, R340). -/
def State.notePoisonRead (s : State) (a n : Nat) : State :=
  (s.poison.filter (fun w => decide (w < a + n) && decide (a < w + 32))).foldl State.noteUncorrectable s

/-- `RDMA_READ` (R454). -/
def execRdmaRead (q : Packet) (rkey : BitVec 32) (va len : Nat) (s : State) : Result :=
  if !s.qpServes q.qp then .next s
  else
  let s := s.noteMark q
  match s.keyWindow rkey with
  | none => .next (s.rdmaRefuse q.qp)
  | some (p, w) =>
    if decide (va + len ≤ w.headLen) || s.inHostSlot p w va len then
      let a := p.winBase w + va
      let b := s.rdmaBytes a len
      .next (s.rdmaFenced q.qp a len
        (({ s.notePoisonRead a len with freeCount := s.freeCount + 1 }).rdmaReply q.qp (.data b)))
    else .next (s.rdmaRefuse q.qp)

/-- `RDMA_WRITE` (R336, R454). -/
def execRdmaWrite (q : Packet) (rkey : BitVec 32) (va : Nat) (bytes : Bytes) (s : State) : Result :=
  if !s.qpServes q.qp then .next s
  else
  let s := s.noteMark q
  match s.keyWindow rkey with
  | none => .next (s.rdmaRefuse q.qp)
  | some (p, w) =>
    if s.inHostSlot p w va bytes.length then
      let a := p.winBase w + va
      .next (s.rdmaFenced q.qp a bytes.length ((s.writeRun a bytes).rdmaReply q.qp .ack))
    else .next (s.rdmaRefuse q.qp)

/-- The slot whose flag word stands at an offset of the window (R454, R456). -/
def Window.flagAt (w : Window) (va : Nat) : Option Nat :=
  if 128 ≤ va ∧ va % 128 = 0 ∧ (va - 128) / 128 < w.slots then some ((va - 128) / 128) else none

/-- The flips the host may make (R459). -/
def hostFlip (a b : Nat) : Bool := [(0, 1), (1, 2), (1, 0), (0, 3), (1, 3)].contains (a, b)

/-- A swap makes an allowed flip: the flag changes, `FSEQ` rises by one, and no other bit changes (R459). -/
def flipOk (old new : Nat) : Bool :=
  hostFlip (old % 256) (new % 256) && new / 2 ^ 32 = (old / 2 ^ 32 + 1) % 2 ^ 32
    && new % 2 ^ 32 / 256 = old % 2 ^ 32 / 256

/-- `RDMA_COMPARE_SWAP` (R453, R459). -/
def execRdmaCompareSwap (q : Packet) (rkey : BitVec 32) (va : Nat) (cmp swp : BitVec 64) (s : State) : Result :=
  if !s.qpServes q.qp then .next s
  else
  let s := s.noteMark q
  match s.keyWindow rkey with
  | none => .next (s.rdmaRefuse q.qp)
  | some (p, w) =>
    match w.flagAt va with
    | none => .next (s.rdmaRefuse q.qp)
    | some _ =>
      let a := p.winBase w + va
      let old := s.word a 8
      if (s.stackOut a 8).isSome then .next (s.rdmaFenced q.qp a 8 s)
      else if old ≠ cmp.toNat then .next (s.rdmaReply q.qp (.atomic (BitVec.ofNat 64 old)))
      else if flipOk old swp.toNat then
        .next (((s.writeRun a (toLe 8 swp.toNat)).rdmaReply q.qp (.atomic (BitVec.ofNat 64 old))).startAll)
      else .next (s.rdmaRefuse q.qp)

/-- `RDMA_UNSUPPORTED` (R452): any operation but the three supported ones. -/
def execRdmaUnsupported (q : Packet) (_ : BitVec 8) (s : State) : Result :=
  if s.awake && s.hostUp then .next ((s.noteMark q).rdmaReply q.qp .nakInvalid) else .next s

end Sys2Proof.Machine
end

