-- ==== Sys2Proof/Machine/Power.lean ====
section
/-! DEFINITION. Power, reset, boot and bring-up, the trips, telemetry and the test access port (R342, R351, R484,
R485, R514, R522 to R537). -/

namespace Sys2Proof.Machine

/-! ### Outputs and the loss of volatile values (R468, R509, R525, R532) -/

/-- The pins of a module that is unpowered or in reset: its outputs are high-impedance and `PRESENT_N` is open, but
a set trip latch drives `THERM_TRIP_N` low (R509, R524, R525). -/
def State.offPins (s : State) : Pins :=
  { s.pins with pwrGood := .z, thermTripN := if s.tripLatch then .low else .z, faultN := .z, presentN := .z }

/-- Non-volatile contents with every idle half of the program stores empty: a staged image does not survive
(R468, R517). -/
def NonVolatile.settled (nv : NonVolatile) : NonVolatile :=
  nv.modStores (fun x => { x with programs := vmap (fun (p : ProgramStore) => { p with staged := none }) x.programs })

/-- A stack that has tripped stays off until power-on (R344, R347). -/
def tripKept (t : Thermal) : Thermal := if t = .trip then .trip else .normal

/-- Islands that stay out of use until power-on: the fenced controllers of tripped stacks (R347), and a host port or a
standby island that lost its clock (R25). -/
def State.lostIslands (s : State) : List (Nat × IslandState) :=
  ((indices 8).filter (fun h => s.thermal[h] = .trip)).map (fun h => (0x40 + h.val, .fenced)) ++
    (if s.hostPllLost then [(0x70, .failed)] else []) ++ (if s.standbyOff then [(0x79, .failed)] else [])

/-- The state at a release of reset that carries over what reset does not touch: non-volatile contents, the latch,
the first stage, the input pins, what stays lost until power-on, what has been sent and what waits (R25, R344,
R468). -/
def State.restarted (s : State) : State :=
  { State.atRelease s.nv.settled s.freeCount with
    stage := s.stage, latchedCause := s.latchedCause, tripLatch := s.tripLatch
    hostPllLost := s.hostPllLost, standbyOff := s.standbyOff
    od := if s.standbyOff then [(objKey 0x5032 1, 2)] else []
    thermal := vmap tripKept s.thermal
    islands := s.lostIslands.foldl (fun l x => setKey x.1 x.2 l) (State.atRelease s.nv 0).islands
    pins := { (State.atRelease s.nv 0).pins with pwrEn := s.pins.pwrEn, resetN := s.pins.resetN
                                                 freezeN := s.pins.freezeN
                                                 faultN := if s.hostPllLost then .low else .high
                                                 thermTripN := if s.tripLatch then .low else .high }
    tap := s.tap, out := s.out, pending := s.pending }

/-- Every island is held in reset and every volatile value is lost (R29, R532). -/
def State.heldInReset (s : State) : State :=
  { s.restarted with phase := .inReset, pins := s.offPins, islands := islandIds.map (fun i => (i, .held)) }

/-- The rails go down (R529, R532). -/
def State.powerOff (s : State) : State :=
  { { s with hostPllLost := false, standbyOff := false, thermal := Vector.replicate 8 .normal }.restarted with
    phase := .dark, pins := s.offPins, tap := ⟨0x01⟩ }

/-- The regulators run: rails are up, in reset or not (R528, R529). -/
def State.powered (s : State) : Bool := s.phase ≠ .dark

/-! ### `PWR_EN` and the first stage (R522, R528, R529, R532) -/

/-- The rails come up, and the module waits in reset for its release (R528). -/
def State.railsUp (s : State) : State := { s.heldInReset with stage := .running }

/-- `PWR_EN_ASSERT` (R528, R529): the first stage starts and the rails come up. A rail out of regulation turns
everything off, and its cause is kept for the next attempt. -/
def execPwrEnAssert (railFault : Bool) (s : State) : Result :=
  if s.pins.pwrEn then .next s
  else
    let s := { s with pins := { s.pins with pwrEn := true } }
    if s.stage ≠ .off then .next s
    else if railFault then .next { s with latchedCause := 5 }
    else .next s.railsUp

/-- `PWR_EN_DEASSERT` (R524, R527, R532): the dying gasp, then power-off. The trip latch lets go of
`THERM_TRIP_N`, and a tripped first stage may start again. -/
def execPwrEnDeassert (s : State) : Result :=
  if !s.pins.pwrEn then .next s
  else
    let s := if s.canGasp then s.gasp 0x03 else s
    let stage : Stage := match s.stage with
      | .underLockout | .trippedUnder => .underLockout
      | .overLockout | .trippedOver => .overLockout
      | .running | .tripped | .off => .off
    .next (State.powerOff { s with pins := { s.pins with pwrEn := false }, tripLatch := false, stage := stage })

/-- Notes the cause of a stop for the next bring-up; a set latch keeps its own (R524). -/
def State.noteStop (s : State) (cause : Nat) : State := if s.tripLatch then s else { s with latchedCause := cause }

/-- `UNDERVOLTAGE_STOP` (R522, R532): the first stage stops, and the hold-up powers the dying gasp; a stage that does not
run may not start. -/
def execUndervoltageStop (s : State) : Result :=
  match s.stage with
  | .running =>
    let s := if s.canGasp then s.gasp 0x03 else s
    .next { (s.noteStop 4).powerOff with stage := .underLockout }
  | .off => .next { s with stage := .underLockout }
  | .tripped => .next { s with stage := .trippedUnder }
  | _ => .next s

/-- `OVERVOLTAGE_LOCKOUT` (R522): the first stage stops; one that does not run may not start. -/
def execOvervoltageLockout (s : State) : Result :=
  match s.stage with
  | .running => .next { s.powerOff with stage := .overLockout }
  | .off => .next { s with stage := .overLockout }
  | .tripped => .next { s with stage := .trippedOver }
  | _ => .next s

/-- `OVER_CURRENT_TRIP` (R522): the first stage stops until `PWR_EN` is cycled. -/
def execOverCurrentTrip (s : State) : Result :=
  if s.stage ≠ .running then .next s else .next { (s.noteStop 3).powerOff with stage := .tripped }

/-- The first stage may start again: with `PWR_EN` asserted it does, and the rails come up unless the trip latch
holds the regulators off (R522, R524). -/
def State.restartStage (s : State) : State :=
  if !s.pins.pwrEn then { s with stage := .off }
  else if s.tripLatch then { s with stage := .running }
  else s.railsUp

/-- `UNDERVOLTAGE_LOCKOUT_EXIT` (R522). -/
def execUndervoltageLockoutExit (s : State) : Result :=
  match s.stage with
  | .underLockout => .next s.restartStage
  | .trippedUnder => .next { s with stage := .tripped }
  | _ => .next s

/-- `OVERVOLTAGE_LOCKOUT_EXIT` (R522). -/
def execOvervoltageLockoutExit (s : State) : Result :=
  match s.stage with
  | .overLockout => .next s.restartStage
  | .trippedOver => .next { s with stage := .tripped }
  | _ => .next s

/-! ### Readings and trips (R522 to R524) -/

/-- `INPUT_VOLTAGE_OUT_OF_RANGE` (R522). -/
def execInputVoltageOutOfRange (s : State) : Result :=
  if s.phase = .up && s.stage = .running then .next (s.eventLimited 0x5201 0 1000000000 s.mgmtIsland [])
  else .next s

/-- `INPUT_POWER_HIGH` (R522). -/
def execInputPowerHigh (s : State) : Result :=
  if s.phase = .up then .next (s.eventLimited 0x5202 0 1000000000 s.mgmtIsland []) else .next s

/-- `COOLANT_INLET_HIGH` (R523). -/
def execCoolantInletHigh (s : State) : Result :=
  if s.phase = .up then .next (s.mgmtEvent 0x5203 []) else .next s

/-- `DIE_TEMP_WARNING` (R524). -/
def execDieTempWarning (d : Die) (s : State) : Result :=
  if s.phase = .up then .next (s.eventLimited 0x5204 d.val 1000000000 s.mgmtIsland (toLe 1 d.val)) else .next s

/-- `DIE_TRIP` (R515, R524): the latch drives `THERM_TRIP_N` low, sends the dying gasp and disables every
regulator. -/
def execDieTrip (_ : Die) (s : State) : Result :=
  if !s.powered then .next s
  else
    let s := if s.canGasp then s.gasp 0x01 else s
    .next (s.latch 1).powerOff

/-! ### Reset and boot (R528, R530, R532 to R535) -/

/-- `RESET_N_ASSERT` (R514, R527, R532): the dying gasp, then every island is held in reset; it ends any freeze. -/
def execResetNAssert (s : State) : Result :=
  let s := { s with pins := { s.pins with resetN := false } }
  match s.phase with
  | .dark | .inReset => .next s
  | .up | .fullFreeze => .next (s.gasp 0x02).heldInReset

/-- What boots of a kind: its current copy, its previous one, or none (R534). -/
inductive BootCopy where
  | current | previous | none
  deriving DecidableEq, Repr

/-- The copy of a kind that passes its checks (R534). -/
def bootCopy (b : StoreChecks) (k : Kind) : BootCopy :=
  if !b.badCurrent.contains k then .current else if !b.badPrevious.contains k then .previous else .none

/-- Starts the copy of a kind, logging the use of a previous one; the measured program is what runs, and what
`PROGRAM_PIN` defaults to. Of a kind that does not start nothing is measured: version and digest read 0 (R518, R534;
DEDUCED, log entry 172). -/
def State.bootKind (s : State) (b : StoreChecks) (k : Kind) : State :=
  let put (p : Program) : State := { s with running := s.running.set k p, pinned := s.pinned.set k p.digest }
  match bootCopy b k with
  | .current => put s.nv.programs[k].current
  | .previous => (put s.nv.programs[k].previous).mgmtEvent 0x7203 (toLe 1 (k.val + 1))
  | .none => put ⟨0, 0⟩

/-- Bring-up fails with a cause (R531, R541). -/
def State.bringupFails (s : State) (cause : Nat) : State :=
  (({ s with bringup := .failed }).setObj 0x2010 1 cause).driveFault

/-- The cause latched before is reported once (R524). -/
def State.reportStop (s : State) : State :=
  if s.latchedCause = 0 then s
  else
    let c := s.latchedCause
    (({ s with latchedCause := 0 }).setObj 0x2011 0 c).mgmtEvent 0x5205 (toLe 1 c)

/-- The stored customer key can be read and is the one fused (R534). -/
def State.keyMatches (s : State) (b : StoreChecks) : Bool :=
  match s.nv.storedKey, s.customerKey with
  | none, none => true
  | some k, some h => b.customerKeyOk && BitVec.ofNat 256 (sha3Nat k) = h
  | _, _ => false

/-- The customer key is loaded only when it matches its fuse; else the slot counts as empty (R534). -/
def State.loadKey (s : State) (b : StoreChecks) : State :=
  if s.keyMatches b then s else ({ s with keyUnusable := true }).mgmtEvent 0x7206 []

/-- An island's boot ROM finds no firmware to start, and enters recovery (R534). -/
def noFirmware (b : StoreChecks) : Bool := !b.vendorKeyOk || bootCopy b 0 = .none

/-- Nothing has been measured of any kind yet (R534). -/
def State.unmeasured (s : State) : State :=
  { s with running := Vector.replicate 9 ⟨0, 0⟩, pinned := Vector.replicate 9 0 }

/-- The boot ROM of island B, from its own store: without firmware it is no standby (R501, R534; DEDUCED, log entry
172). -/
def State.bootStandby (s : State) (b : StoreChecks) : State :=
  if s.standbyOff then s
  else if noFirmware b then s.setObj 0x5032 1 2
  else if bootCopy b 0 = .previous then s.event 0x7203 0x79 [1]
  else s

/-- The boot ROMs and management A: firmware, then kinds 0x02 to 0x09; recovery when no firmware of A verifies (R534,
R535). -/
def State.boot (s : State) (x : BootChecks) : State :=
  let b := x.a
  let s := ((({ s with bootChecks := x }).reportStop).loadKey b).unmeasured
  if noFirmware b then (({ s with bringup := .recovery }).mgmtEvent 0x7204 []).driveFault
  else
    let s := ((indices 9).foldl (fun s k => s.bootKind b k) s).bootStandby x.b
    if (indices 9).any (fun k => bootCopy b k = .none) then s.bringupFails 3 else s

/-- Spare rows left in a stack: 1,024 less those repaired (R352). -/
def State.countSpareRows (s : State) : State :=
  (indices 8).foldl (fun s (h : Stack) =>
    s.setObj 0x2707 (2 + h.val) (1024 - (s.nv.repairs.filter (fun e => rowStack e.1 = h.val)).length)) s

/-- `RESET_N_RELEASE` (R528, R530, R534): the module leaves reset once the rails are good, and bring-up begins.
Without `REFCLK` it stays in reset. High pulses of `RESET_N` ignored while in reset stay counted (R526). -/
def execResetNRelease (b : BootChecks) (s : State) : Result :=
  let s := { s with pins := { s.pins with resetN := true } }
  if s.phase ≠ .inReset || !b.refclk then .next s else .next (((s.restarted.setObj 0x2012 1 (s.obj 0x2012 1)).countSpareRows).boot b)

/-! ### Bring-up (R530, R531, R536, R537) -/

/-- The spare that can stand in for a core that fails its self-test: one of its die that passed, and that no sparing
fills already (R536). -/
def State.testSpare (s : State) (bad : List Phys) (p : Phys) : Option Phys :=
  (s.spares[(⟨p.val / 13, by omega⟩ : Fin 4)]).filter (fun sp =>
    !bad.contains sp && !s.sparing.any (fun x => x.spare = sp))

/-- One core fails its self-test: a spare is lost, or its logical core moves to the spare; a core whose die has no
usable spare is left FAILED (R536). `bad` are all the cores that failed. -/
def State.coreTestFails (s : State) (bad : List Phys) (p : Phys) : State :=
  let d : Fin 4 := ⟨p.val / 13, by omega⟩
  match s.logicalOf p.val with
  | none => (({ s with spares := s.spares.set d none }).setIsland p.val .failed).event 0x2506 p.val (toLe 1 p.val)
  | some c =>
    match s.testSpare bad p with
    | none => s.setIsland p.val .failed
    | some sp =>
      let s := { s with coreMap := s.coreMap.set c sp, spares := s.spares.set d none }
      ((s.setIsland p.val .failed).setIsland sp.val .run).event 0x2601 p.val
        (toLe 1 p.val ++ toLe 1 c.val ++ toLe 1 sp.val)

/-- Every core's self-test, their events in order of source island (R489, R536). -/
def State.coreTests (s : State) (bad : List Phys) : State :=
  ((indices 52).filter (fun p => bad.contains p)).foldl (fun s p => s.coreTestFails bad p) s

/-- After the self-tests every logical core runs on a core that passed (R536). -/
def State.coresPass (s : State) (bad : List Phys) : Bool := s.coreMap.toList.all (fun p => !bad.contains p)

/-- The module is READY; a `FREEZE_N` already held low freezes it at once (R527, R530). -/
def State.getReady (s : State) (ms : Nat) : State :=
  let s := ({ s with bringup := .ready }).setObj 0x2010 2 ms
  if s.pins.freezeN then s else s.freezeAt s.gc.value (s.obj 0x3F00 4 = 2) true 1 s.uptime

/-- The stacks that are off, fail their scan or cannot be repaired (R347, R348, R537). -/
def State.failedStacks (s : State) (b : BringupResult) : List Stack :=
  (indices 8).filter (fun h => s.thermal[h] = .trip || !StackScan.passes b.scans[h] || b.unrepairable.contains h)

/-- Every listed soft repair of a stack that can be repaired is made hard (R342, R537). -/
def State.hardenRepairs (s : State) (bad : List Stack) : State :=
  { s with nv := s.nv.modStores (fun x =>
      { x with repairs := x.repairs.map (fun e => (e.1, e.2 || !bad.any (fun h => rowStack e.1 = h.val))) }) }

/-- `BRINGUP_COMPLETE` (R351, R530, R531, R536, R537): listed repairs are made hard, memory is cleared, and what was
found decides between READY and FAILED; after R + 1,000 ms it is too late. -/
def execBringupComplete (b : BringupResult) (s : State) : Result :=
  if s.phase ≠ .up || s.bringup ≠ .running || decide (1000 < b.ms) || decide (1000000000 < s.uptime) then .next s
  else
    let s := (s.hardenRepairs b.unrepairable).keepScan (indices 8) b.scans
    match s.failedStacks b with
    | h :: hs =>
      .next (((h :: hs).foldl (fun s (h : Stack) => s.event 0x2602 (0x40 + h.val) (toLe 1 h.val)) s).bringupFails 1)
    | [] =>
      let s := { s with mem := [], poison := [] }
      match b.clearFail with
      | some a => .next ((s.mgmtEvent 0x2603 (toLe 6 a.toNat)).bringupFails 4)
      | none =>
        let s := s.coreTests b.coreFail
        .next (if s.coresPass b.coreFail then s.getReady b.ms else s.bringupFails 2)

/-- `BRINGUP_TIMEOUT` (R530): not READY by R + 1,000 ms. -/
def execBringupTimeout (s : State) : Result :=
  if s.phase = .up && s.bringup = .running && decide (1000000000 ≤ s.uptime) then .next (s.bringupFails 5)
  else .next s

/-! ### Telemetry (R484, R485) -/

/-- Entries of a list of readings at subindexes from 0. -/
def readings (idx n : Nat) (l : List F32) : List (Nat × Nat) :=
  (l.take n).zipIdx.map (fun (w, i) => (objKey idx i, w.toNat))

/-- The telemetry entries of a refresh (R485). -/
def Telemetry.entries (t : Telemetry) : List (Nat × Nat) :=
  [(objKey 0x3100 0, t.inputV.toNat), (objKey 0x3100 1, t.inputA.toNat), (objKey 0x3100 2, t.inputW.toNat),
   (objKey 0x3100 3, t.energyMj % 2 ^ 64), (objKey 0x3100 4, t.intermediateV.toNat),
   (objKey 0x3102 0, t.coolantIn.toNat), (objKey 0x3102 1, t.coolantOut.toNat),
   (objKey 0x3105 0, t.hbmRead.toNat), (objKey 0x3105 1, t.hbmWrite.toNat)]
  ++ readings 0x3101 6 t.dieTemp ++ readings 0x3103 7 t.railW ++ readings 0x3104 7 t.engineBusy
  ++ readings 0x3106 32 t.portTx

/-- `TELEMETRY_REFRESH` (R484): the readings of the last 1 ms. -/
def execTelemetryRefresh (t : Telemetry) (s : State) : Result :=
  if s.phase ≠ .up then .next s
  else .next { s with telemetry := (Telemetry.entries t).foldl (fun l e => setKey e.1 e.2 l) s.telemetry }

end Sys2Proof.Machine
end

