-- ==== Sys2Proof/Machine/Verify.lean ====
section
/-! DEFINITION. The verification of a staged plan image: the checks of R40 in their order, with those of whole
sections (R41, R122 to R125, R136, R262, R287, R288, R293, R364, R394, R401, R455), of descriptors (R125) and
of microprograms (R38, R517). -/

namespace Sys2Proof.Machine

/-! ### Reading the image -/

/-- The set digest and the other header fields that hold numbers (R35), with the parsed sections: every section
check that stands alone has passed. -/
def parsePlan (b : Bytes) (ss : List Sect) : Option Plan := do
  let sec (t : Nat) : Bytes := (sectionOf b ss t 0).getD []
  let node := BitVec.ofNat 16 (fieldAt b 24 2)
  let flags := fieldAt b 12 4
  let records ← (List.range 48).mapM (fun c =>
    (entriesOf ((sectionOf b ss 1 c).getD []) 128).map (List.map parseRec))
  let descs := (← entriesOf (sec 2) 64).map parseDesc
  let allocs ← parseAllocs (sec 3)
  let (pools, chains, needs) ← parseCredits allocs (sec 4)
  let routes ← parseRouteSection (sec 5)
  let run := runOf node (routes.map Route.dst)
  let backups ← parseBackups (sec 6)
  let groups ← parseGroups node run (sec 7)
  let (refPeriod, preds) ← (match ss.find? (fun x => x.type = 8) with
    | some x => parsePreds x.off (x.body b)
    | none => some (0, []))
  let tables ← (match sectionOf b ss 9 0 with
    | some x => parseTables x
    | none => some [])
  let launch ← parseLaunch (sec 0xA)
  let values ← parseValues b.length (sec 0xC)
  if !valuesOk values then none
  else
    let weightSets ← parseWeightSets (valueIn values 0x2600 1)
    let windows ← parseWindows allocs (valueIn values 0x2B00 1)
    let ckpt ← parseCkpt node run allocs (valueIn values 0x5020 0)
    some {
      masked := flags.testBit 1, compat := flags.testBit 0, nodeId := node, numModules := fieldAt b 28 4
      stepFirst := fieldAt b 32 8, stepLast := fieldAt b 40 8, maskPeriod := fieldAt b 48 4
      ckptPeriod := fieldAt b 52 4, setDigest := fieldAt b 64 32, configDigest := fieldAt b 96 32
      imageDigest := leNat (trailerAt b 0 32), records := records, descs := descs, allocs := allocs
      pools := pools, needs := needs, chains := chains, routes := routes, backups := backups, groups := groups
      refPeriod := refPeriod, preds := preds, tables := tables, launch := launch
      micro := (ss.filter (fun x => x.type = 0xB)).map (fun x => (x.inst, x.body b))
      values := values, weightSets := weightSets, windows := windows, ckpt := ckpt }

/-! ### Checks across sections (SECTION_BAD) -/

/-- Header values in their ranges (R35). R40 names no code for one that is not: SECTION_BAD is the model's
choice (log entry 34). Group 0 holds every module of the run, so each other one needs a route (R394, R401); an image with
more routes than that is accepted, and every node it routes to counts as a module of the run (DESIGN CHOICE, log entry
12). -/
def Plan.headerOk (p : Plan) : Bool :=
  decide (p.numModules ≤ p.runMembers.length) && decide (1 ≤ p.numModules) && decide (p.numModules ≤ 65536) && decide (p.stepFirst ≤ p.stepLast)
    && (if p.masked then decide (1 ≤ p.maskPeriod) else p.maskPeriod = 0)

/-- The descriptors that a named one may resolve to: a buffered one either buffer of its plane (R291). -/
def Plan.buffersOf (p : Plan) (n : Nat) : List Nat := match p.planeOf n with
  | some (_, _, pr) => [pr.1, pr.2]
  | none => [n]

/-- A record has a feed (R356): its engine is served and some tensor it names, or the other buffer of one, lies outside
its core's store (R291). -/
def Plan.hasFeed (p : Plan) (r : Rec) : Bool :=
  decide (1 ≤ r.engine.val) && decide (r.engine.val ≤ 6) && ((r.named p).flatMap p.buffersOf).any (fun n =>
    p.has (some n) (fun d => fedAddr d.range.1 || fedAddr d.range.2))

/-- The thread pool of a record (R361, R363). -/
def threadOf (c : Nat) (r : Rec) : Nat := if r.engine = 6 then 48 + c / 12 else c

/-- A request of a need entry names a pool that the record may use, for credits it holds (R364). A thread pool
other than the record's own counts as a staging pool of another core does (DEDUCED, log entry 35). -/
def Plan.requestOk (p : Plan) (n : Need) (r : Rec) (q : Nat × Nat) : Bool :=
  if q.1 < 52 then q.1 = threadOf n.core r && q.2 = 1
  else match poolAt p.pools q.1 with
  | none => false
  | some k =>
    decide (q.2 ≤ k.credits) &&
    match k.kind with
    | 2 => k.owner = n.core
    | 4 => k.owner = 0x100 + n.core / 12
    | _ => match n.chain with
      | some (ch, pos) => (match p.chains[ch]? with
        | some c => decide (pos + 1 < c.members.length) && q.1 = c.slotPool + pos
        | none => false)
      | none => false

/-- A need entry names a record of the plan, and each pool once (R364). -/
def Plan.needOk (p : Plan) (n : Need) : Bool :=
  match (p.records.getD n.core [])[n.recno]? with
  | none => false
  | some r => n.reqs.all (p.requestOk n r) && (n.reqs.map Prod.fst).eraseDups.length = n.reqs.length

/-- The need entries (R363, R364): in order, and a record with a feed requests a credit of its own thread
pool. -/
def Plan.needsOk (p : Plan) : Bool :=
  rising (p.needs.map (fun n => n.core * 2 ^ 32 + n.recno)) && p.needs.all p.needOk
    && p.records.zipIdx.all (fun (l, c) => l.zipIdx.all (fun (r, i) =>
      !p.hasFeed r || p.needs.any (fun n => n.core = c && n.recno = i
        && n.reqs.any (fun q => q.1 = threadOf c r))))

/-- Every node a signal names has a route (R394). The members of group 0 are this module and the destinations of its
routes (R401; log entry 12). -/
def Plan.routesOk (p : Plan) : Bool :=
  p.records.all (fun l => l.all (fun r => r.sigs.all (fun g =>
    g.scope ≠ 2 || p.routes.any (fun x => x.dst = g.node))))

/-- The two buffers of a plane: present as the flags say, of one format and shape, apart (R286, R287). -/
def Plan.planeOk (p : Plan) (on : Bool) (fmt : Fmt → Bool) (d : Nat × Nat) : Bool :=
  if on then
    p.has (some d.1) (fun a => p.has (some d.2) (fun b =>
      fmt a.fmt && a.fmt = b.fmt && a.sizes = b.sizes && a.strides = b.strides && !a.overlaps b))
  else d.1 = 0xFFFFFFFF && d.2 = 0xFFFFFFFF

/-- Number of 128 by 128 tiles of a weight set (R288). -/
def WeightSet.tiles (w : WeightSet) (v : Desc) : Nat :=
  if w.kind = 1 then (if v.rank = 2 && v.size 0 % 128 = 0 && v.size 1 % 128 = 0 then v.size 0 / 128 * (v.size 1 / 128)
    else 0)
  else v.size 1

/-- A weight set's planes, version table and slices (R286 to R289, R293). -/
def Plan.weightSetOk (p : Plan) (w : WeightSet) : Bool :=
  let moment (f : Fmt) : Bool := if w.mfmt = 1 then f = .fp32 else f = .bf16
  let value (f : Fmt) : Bool := [Fmt.bf16, .fp16, .e4m3, .e5m2].contains f
  p.has (some w.vdesc.1) (fun v =>
    p.planeOk true value w.vdesc && p.planeOk w.low (· = .bf16) w.ldesc && p.planeOk w.m1 moment w.m1desc
      && p.planeOk w.m2 moment w.m2desc
      && p.planeOk (w.kind = 1 || (w.kind = 3 && w.tdesc.1 ≠ 0xFFFFFFFF)) (· = v.fmt) w.tdesc
      && (w.kind ≠ 1 || p.has (some w.tdesc.1) (fun t => t.sizes = v.sizes.reverse))
      && decide (0 < w.tiles v) && w.slices = w.tiles v * (128 / w.sliceRows)
      && p.has (some w.verdesc) (fun d => d.fmt = .int32s && d.sizes = [16, w.slices]))

/-- Every check across sections. -/
def Plan.sectionsAgree (p : Plan) : Bool :=
  p.headerOk && p.needsOk && p.routesOk && p.weightSets.all p.weightSetOk

/-! ### Reserved fields (RESERVED_SET) -/

/-- A reserved field of the header, of the section table or of a record is not zero (R40 check 0x07). -/
def reservedSet (b : Bytes) (ss : List Sect) (raws : List (List Bytes)) : Bool :=
  fieldAt b 12 4 / 4 ≠ 0 || fieldAt b 26 2 ≠ 0 || fieldAt b 60 4 ≠ 0 || ss.any Sect.rsv
    || raws.any (fun l => l.any recReserved)

/-! ### Descriptors (R125) -/

/-- The descriptors that records name as side bands (R62, R145, R201, R215, R307, R133). -/
def Rec.sideNames (r : Rec) : List Nat :=
  let opt (l : List (Option Nat)) : List Nat := l.filterMap id
  match r.engine.val with
  | 1 => opt [r.desc4, r.desc5, paramDesc r.param2]
  | 2 => if r.func.toNat < 0x10 then opt [r.desc5, paramDesc r.param2] else if r.func.toNat < 0x20 then opt [r.desc1, r.desc5]
         else []
  | 3 => opt [r.desc3, r.desc4, r.desc5]
  | 5 => if r.func.toNat ≤ 2 then opt [r.desc4, r.desc5] else []
  | _ => []

/-- The first and last byte that an index space touches, as integers (R123). -/
def Desc.extent (d : Desc) : Int × Int :=
  let w : Int := d.fmt.bits
  let spans := (d.sizes.drop 1).zip d.strides |>.map (fun (n, s) => ((n : Int) - 1) * s * w / 8)
  let lo := spans.foldl (fun a x => if x < 0 then a + x else a) (0 : Int)
  let hi := spans.foldl (fun a x => if x < 0 then a else a + x) ((d.size 0 : Int) * w / 8)
  ((d.base : Int) + lo, (d.base : Int) + hi - 1)

/-- Strides a format's packing allows (R120). -/
def packing (f : Fmt) : Nat :=
  if f.isMx then 32 else match f with
  | .int4s | .int4u => 2
  | .bit1 => 8
  | _ => 1

/-- The alignment conditions of R120. -/
def Desc.alignOk (d : Desc) : Bool :=
  let bits := d.size 0 * d.fmt.bits
  bits % 512 = 0 && (d.fmt.bits ≠ 6 || bits / 8 % 24 = 0)
    && d.strides.all (fun s => s % (packing d.fmt : Int) = 0)

/-- The nesting test of R124: dimensions in ascending stride, the span so far. -/
def nests : Nat → List (Nat × Nat) → Bool
  | _, [] => true
  | span, (s, n) :: rest => decide (span ≤ s) && nests ((n - 1) * s + span) rest

/-- A write descriptor maps every index to its own address (R124). -/
def Desc.nested (d : Desc) : Bool :=
  let dims := ((d.sizes.drop 1).zip d.strides).filter (fun x => decide (1 < x.1))
  nests (d.size 0) (sortBy (fun (a b : Nat × Nat) => decide (a.1 < b.1)) (dims.map (fun x => (x.2.natAbs, x.1))))

/-- The shape of a descriptor in a compressed allocation (R136). -/
def Desc.compressedOk (d : Desc) (al : Alloc) : Bool :=
  let w := d.fmt.bits
  al.dir.isNone ||
    ((w = 8 || w = 16 || w = 32) && d.acc ≠ 2 && (d.base - al.base) % 2048 = 0 && (d.size 0 * w / 8) % 2048 = 0
      && d.strides.all (fun s => decide (0 < s) && s * (w : Int) / 8 % 2048 = 0))

/-- The bytes `first` to `last` touch both the header and a slot of a window, or two slots of one (R455). The bytes
of the allocation past the last slot belong to neither. -/
def Plan.crossesWindow (p : Plan) (first last : Nat) : Bool :=
  p.windows.any (fun w => match p.allocs[w.alloc]? with
    | none => false
    | some al =>
      let f := first - al.base
      let l := last - al.base
      let past := w.headLen + w.slots * w.slotSize
      decide (al.base ≤ first) && decide (last < al.base + al.len) && decide (w.headLen ≤ l)
        && (decide (f < w.headLen)
          || (decide (f < past) && decide ((min l (past - 1) - w.headLen) / w.slotSize ≠ (f - w.headLen) / w.slotSize))))

/-- The checks of R125 on a descriptor, in order; 0 where all pass. -/
def Plan.descCode (p : Plan) (side : Bool) (b : Bytes) : Nat :=
  let d := parseDesc b
  let rank := descRank b
  let (first, last) := d.extent
  let allocAt (a : Int) : Option (Nat × Alloc) := if a < 0 then none else p.allocOf a.toNat 1
  if (Fmt.ofCode (fieldAt b 6 1)).isNone || (d.fmt = .mxsb && !side) then 1
  else if d.acc = 3 || fieldAt b 9 1 / 8 % 2 = 1 then 2
  else if rank = 0 || 6 < rank then 3
  else if d.sizes.any (· = 0) || ((descSizes b).drop rank).any (· ≠ 0) || ((descStrides b).drop (rank - 1)).any (· ≠ 0)
  then 4
  else if !d.alignOk then 5
  else match allocAt first, allocAt last with
  | some (i, al), some (j, _) =>
    if i ≠ j || p.crossesWindow first.toNat last.toNat then 7
    else if d.acc = 1 && !d.nested then 8
    else if !d.compressedOk al then 9
    else 0
  | _, _ => 6

/-- The first descriptor that is refused, with its code (R125). -/
def Plan.refusedDesc (p : Plan) (raws : List Bytes) : Option (Nat × Nat) :=
  let side := p.records.flatMap (List.flatMap Rec.sideNames)
  (raws.zipIdx.map (fun (b, i) => (i, p.descCode (side.contains i) b))).find? (fun x => x.2 ≠ 0)

/-! ### Program images (R38, R517) -/

/-- The checks of R517 on a program image in their order, for a kind; 0 where all pass. `vendor` is
`VENDOR_KEY_HASH` and `hw` `HW_REVISION`. -/
def programCode (vendor : BitVec 256) (hw kind : Nat) (b : Bytes) : Nat :=
  let size := fieldAt b 16 8
  let body := slice b 128 size
  let tr := b.drop (128 + size)
  if slice b 0 8 ≠ ascii "TG96PROG" || !allZero (slice b 9 3) || !allZero (slice b 26 6) || !allZero (slice b 64 64)
  then 1
  else if b.length ≠ 128 + size + 2452 || size = 0 || 64 * 2 ^ 20 < size then 2
  else if sha3 body ≠ slice b 32 32 then 3
  else if BitVec.ofNat 256 (leNat (slice tr 0 32)) ≠ vendor
      || !Config.verify vendor (BitVec.ofNat 256 (sha3Nat (b.take (128 + size)))) (slice tr 32 2420) then 4
  else if fieldAt b 8 1 ≠ kind then 5
  else if hw < fieldAt b 24 2 then 6
  else 0

/-- The checks of R517 on a program image, against this module's vendor key and hardware revision. -/
def State.programCheck (s : State) (kind : Nat) (b : Bytes) : Nat :=
  programCode (BitVec.ofNat 256 (s.obj 0x1003 0)) (s.obj 0x1000 3) kind b

/-- The first microprogram that fails, with its kind and check code; its kind is one of 0x04 to 0x09
(R38). -/
def State.microFail (s : State) (p : Plan) : Option (Nat × Nat) :=
  (p.micro.map (fun m => (m.1, if 4 ≤ m.1 ∧ m.1 ≤ 9 then s.programCheck m.1 m.2 else 5))).find? (fun x => x.2 ≠ 0)

/-! ### Streams in other formats (R181, R187) -/

/-- The tile format that stands in the first header of a stream's allocation, as verification finds it (log entry
161). -/
def State.streamTfmt (s : State) (p : Plan) (n : Nat) : Nat := match p.descAt n with
  | some d => s.word d.base 1
  | none => 0

/-- A product, gather or dispatch record of a plan. -/
def Rec.noBmp (r : Rec) : Bool :=
  r.engine = 1 || (r.engine = 2 && [0x01, 0x02, 0x03, 0x10, 0x20].contains r.func.toNat)

/-- A record names a stream in a format it may not: BMP in a product, gather or dispatch (R187), any but BRT-k in a
record of a mask change (R181). The format stands nowhere but in the tile headers: where the stream's slots hold none
yet, nothing is refused, and the run-time checks of R188 stand (DEDUCED, log entry 161). -/
def State.wrongStream (s : State) (p : Plan) : Bool :=
  let named := p.streamNames
  p.records.any (fun l => l.any (fun r =>
    (r.noBmp && (r.named p).any (fun n => named.contains n && s.streamTfmt p n = TFmt.code .bmp))
      || (r.masks && r.streams.any (fun n => let c := s.streamTfmt p n
        c = TFmt.code .csr || c = TFmt.code .blk || c = TFmt.code .bmp))))

/-! ### Verification (R40) -/

/-- What a verification finds: a plan, or a refusal code with the detail of event 0x4101 and, for a descriptor,
its number and code. -/
inductive Verdict where
  | verified (p : Plan)
  | refused (code : Nat) (detail : Bytes) (desc : Nat) (dcode : Nat)
  deriving DecidableEq, Repr

/-- A refusal that names no descriptor. -/
def refuse (code : Nat) : Verdict := .refused code [BitVec.ofNat 8 code] 0xFFFFFFFF 0

/-- The signature check: none while the key slot is empty (R40 check 0x04). -/
def State.signatureOk (s : State) (b : Bytes) : Bool :=
  match s.customerKey with
  | none => true
  | some k => BitVec.ofNat 256 (leNat (trailerAt b 32 32)) = k
      && Config.verify k (BitVec.ofNat 256 (leNat (trailerAt b 0 32))) (trailerAt b 64 2420)

/-- The checks of R40 from the sections on. -/
def State.verifyBody (s : State) (b : Bytes) (ss : List Sect) : Verdict :=
  match parsePlan b ss with
  | none => refuse 6
  | some p =>
    let raws := (List.range 48).map (fun c => chunked 128 ((sectionOf b ss 1 c).getD []))
    if !p.sectionsAgree then refuse 6
    else if reservedSet b ss raws then refuse 7
    else if !p.recordsOk raws || s.wrongStream p then refuse 8
    else match p.refusedDesc (chunked 64 ((sectionOf b ss 2 0).getD [])) with
    | some (n, c) => .refused 9 [9, BitVec.ofNat 8 c] n c
    | none => match s.microFail p with
      | some (k, c) => .refused 0xA [0xA, BitVec.ofNat 8 k, BitVec.ofNat 8 c] 0xFFFFFFFF 0
      | none => .verified p

/-- The checks of R40 in the order given, stopping at the first failure. -/
def State.verify (s : State) (b : Bytes) : Verdict :=
  if !magicOk b then refuse 1
  else if !sizeOk b then refuse 2
  else if sha3 (imageBody b) ≠ trailerAt b 0 32 then refuse 3
  else if !s.signatureOk b then refuse 4
  else if s.obj 0x1104 1 = 0 || fieldAt b 24 2 ≠ s.obj 0x1104 0 then refuse 5
  else match sections b with
  | none => refuse 6
  | some ss => if sectionsOk b ss then s.verifyBody b ss else refuse 6

end Sys2Proof.Machine
end

