-- ==== Sys2Proof/Machine/Frames.lean ====
section
/-! DEFINITION. Ivwidin requests: frames, sources, selections, kept responses, and the checks of R471 with the
entries' own rules (R276, R349, R352, R440, R452, R461 to R464, R466, R469 to R472, R475, R476, R481, R491 to
R493, R499, R507, R510 to R513, R515, R518, R520, R530, R531, R535, R539). -/

namespace Sys2Proof.Machine

/-! ### Requests (R461) -/

/-- A request as a command carries it: `op` is the operation the command names. -/
structure Req where
  src : Source
  h : FrameHead
  op : Nat
  idx : Nat
  sub : Nat
  payload : Bytes
  deriving DecidableEq, Repr

/-- Status codes (R461). -/
inductive Status where
  | ok | noObject | noSubindex | access | length | range | state | signature | segment | busy | badFrame
  deriving DecidableEq, Repr

/-- `ISTATUS` (R461). -/
def Status.code : Status → Nat
  | .ok => 0
  | .noObject => 1
  | .noSubindex => 2
  | .access => 3
  | .length => 4
  | .range => 5
  | .state => 6
  | .signature => 7
  | .segment => 8
  | .busy => 9
  | .badFrame => 0xA

/-- The operation reads (R461). -/
def Req.reads (q : Req) : Bool := q.op = 1 || q.op = 3

/-- The operation is segmented (R461). -/
def Req.segmented (q : Req) : Bool := q.op = 3 || q.op = 4

/-- `LAST` is set (R461). -/
def Req.last (q : Req) : Bool := q.h.iflags.toNat.testBit 1

/-- The value written. -/
def Req.value (q : Req) : Nat := leNat q.payload

/-- The 24-byte header of a request (R461). -/
def Req.header (q : Req) : Bytes :=
  let h := q.h
  [h.iver, h.iop] ++ toLe 2 h.iflags.toNat ++ toLe 4 h.iseq.toNat ++ toLe 2 q.idx ++ toLe 1 q.sub ++ [h.istatus]
    ++ toLe 8 h.ioffset.toNat ++ toLe 2 h.ilen.toNat ++ toLe 2 h.rsv.toNat

/-- The digest a signed frame is signed over (R461). -/
def Req.digest (q : Req) : BitVec 256 := BitVec.ofNat 256 (sha3Nat (q.header ++ q.payload))

/-- The requester is a peer module (R464). -/
def Req.fromPeer (q : Req) : Bool := match q.src with
  | .peer _ => true
  | .host _ _ => false

/-! ### Sources and selections (R462, R472) -/

/-- Most sources whose selections are kept (R472). -/
def maxSources : Nat := 16

/-- The selections of a source (R472). -/
def State.selection (s : State) (src : Source) : Selection := (lookupKey src s.mgmt.selections).getD {}

/-- A source's selections, with the source now the one heard from last; the one idle longest makes room
(R472; DEDUCED: every request counts, log entry 36). -/
def State.select (s : State) (src : Source) (sel : Selection) : State :=
  let l := (src, sel) :: dropKey src s.mgmt.selections
  { s with mgmt := { s.mgmt with selections := l.take maxSources } }

/-- Notes a request from a source (R472). -/
def State.touch (s : State) (src : Source) : State := s.select src (s.selection src)

/-- The kept response to a repeated request (R462). -/
def State.keptResponse (s : State) (q : Req) : Option Response :=
  (lookupKey q.src s.mgmt.kept).bind (lookupKey q.h.iseq)

/-- Keeps a response; the newest 64 of each source stay (R462). -/
def State.keep (s : State) (q : Req) (r : Response) : State :=
  let l := (lookupKey q.src s.mgmt.kept).getD []
  let l := (dropKey q.h.iseq l ++ [(q.h.iseq, r)])
  { s with mgmt := { s.mgmt with kept := setKey q.src (l.drop (l.length - 64)) s.mgmt.kept } }

/-- The frame of a response, at most 200 bytes of payload to a peer (R461, R464). -/
def Response.frame (r : Response) : Bytes :=
  let p := r.payload.take 200
  [1, r.iop] ++ toLe 2 r.iflags.toNat ++ toLe 4 r.iseq.toNat ++ toLe 2 r.idx.toNat ++ [r.sub]
    ++ toLe 1 r.istatus ++ toLe 8 r.ioffset.toNat ++ toLe 2 p.length ++ [0, 0] ++ p

/-- Sends a response: to the host, or in a `MGMT` flit to a peer (R461, R464). -/
def State.respond (s : State) (src : Source) (r : Response) : State :=
  match src with
  | .host _ _ => { s with out := s.out ++ [.response src r] }
  | .peer n => s.sendRouted 0x0D false n 0 r.frame

/-! ### Check 1: the frame (R461) -/

/-- The header is well formed and its operation is the command's own; a command whose frame names another is a
malformed one (log entry 37). -/
def Req.wellFormed (q : Req) : Bool :=
  q.h.iver = 1 && q.h.iop.toNat = q.op && decide (q.h.iflags.toNat < 4) && q.h.istatus = 0 && q.h.rsv = 0
    && q.h.ilen.toNat = q.payload.length && decide (q.payload.length ≤ 4096)
    && (q.segmented || q.h.ioffset = 0) && q.h.iflags.toNat.testBit 0 = q.h.auth.isSome

/-! ### Checks 2 to 4: the entry and its access (R470, R471, R476) -/

/-- The entry exists and names an item (R471 check 3). -/
def State.hasEntry (s : State) (q : Req) : Bool := (objFind q.idx q.sub).isSome && itemExists s.plan q.idx q.sub

/-- The active or the verified staged image sets the entry (R476). -/
def State.planSets (s : State) (idx sub : Nat) : Bool :=
  [s.plan, s.verifiedStaged].any (fun p => match p with
    | some p => (p.valueOf idx sub).isSome
    | none => false)

/-- A predictor layer of the active plan whose policy is GLEAN (R276). -/
def State.gleanLayer (s : State) (idx sub : Nat) : Bool :=
  idx = 0x2501 && (s.plan.bind (fun p => p.predValue idx sub)) = some 1

/-- The access right and the type permit the operation, and no plan sets the entry (R276, R469, R470, R476). -/
def State.accessOk (s : State) (q : Req) : Bool :=
  match objFind q.idx q.sub with
  | none => false
  | some o =>
    q.segmented = (o.ty = .domain) &&
      (if q.reads then o.acc ≠ .wo
       else o.acc ≠ .ro && o.acc ≠ .const && !s.planSets q.idx q.sub && !s.gleanLayer q.idx q.sub)

/-! ### Check 5: signatures (R491 to R493) -/

/-- Writes of the entry must be signed (R491). -/
def State.mustSign (s : State) (idx sub : Nat) : Bool :=
  (idx = 0x2A00 && sub = 0) || idx = 0x2A01 || idx = 0x6001 || idx = 0x5100 || idx = 0x5104
    || (idx = 0x1006 && (sub = 2 || (sub = 0 && s.customerKey.isSome)))

/-- The `ISEQ` that a signed request must carry (R493). -/
def State.challengeFor (s : State) (q : Req) : BitVec 32 :=
  BitVec.ofNat 32 (s.mgmt.challenge + (if q.op = 4 then q.h.ioffset.toNat / 4096 else 0))

/-- Why a write that must be signed is refused: 1 key hash, 2 signature, 3 challenge, 4 missing signature; `none`
when it is accepted. An empty key slot checks nothing, but a peer never makes these writes (R464, R492, R494). -/
def State.signatureFault (s : State) (q : Req) : Option Nat :=
  if q.reads || !s.mustSign q.idx q.sub then none
  else if q.fromPeer then some 4
  else match s.customerKey, q.h.auth with
  | none, _ => none
  | some _, none => some 4
  | some k, some a =>
    if a.keyHash ≠ k then some 1
    else if !Config.verify k q.digest a.signature then some 2
    else if q.h.iseq ≠ s.challengeFor q then some 3
    else none

/-! ### Checks 6 to 8: segments and lengths (R463, R469) -/

/-- The transfer of an entry in progress (R463). -/
def State.transferOf (s : State) (q : Req) : Option Transfer := lookupKey (objKey q.idx q.sub) s.mgmt.transfers

/-- The snapshot a source reads (R463). -/
def State.snapshotOf (s : State) (q : Req) : Option Snapshot :=
  s.mgmt.snapshots.find? (fun x => x.src = q.src && x.key = objKey q.idx q.sub)

/-- A read-out that is not bounded by a snapshot: `CAPTURE_DATA` covers the whole address map (R512). -/
def Req.inPlace (q : Req) : Bool := q.idx = 0x3F01 && q.sub = 1

/-- Largest length of a DOMAIN (R469). -/
def maxDomain : Nat := 2 ^ 40 - 1

/-- The end of the pieces a transfer holds. -/
def Transfer.extent (t : Transfer) : Nat := t.pieces.foldl (fun a p => max a (p.1 + p.2.length)) 0

/-- `IOFFSET` and length lie within the entry, for a read, or within the transfer, for a write (R463, R471). A
read away from offset 0 needs a snapshot. -/
def State.segmentOk (s : State) (q : Req) : Bool :=
  let off := q.h.ioffset.toNat
  let n := q.payload.length
  if q.op = 3 then
    let want := q.value
    (n ≠ 2 || (decide (1 ≤ want) && decide (want ≤ 4096))) &&
      (if q.inPlace then decide (off ≤ maxDomain)
       else if off = 0 then true
       else match s.snapshotOf q with
         | some x => decide (off ≤ x.bytes.length)
         | none => false)
  else if q.op = 4 then
    off % 4096 = 0 && (q.last || n = 4096) && decide (off + n ≤ maxDomain) &&
      (match s.transferOf q with
       | none => true
       | some t => t.src ≠ q.src || off = 0 ||
         ((match t.len with
           | some l => decide (off + n ≤ l) && (!q.last || off + n = l)
           | none => true) && (!q.last || decide (t.extent ≤ off + n))))
  else true

/-- No other source's transfer of the entry is in progress (R463). -/
def State.notBusy (s : State) (q : Req) : Bool :=
  q.op ≠ 4 || (match s.transferOf q with
    | some t => t.src = q.src
    | none => true)

/-- Payload length (R461, R469). -/
def Req.lengthOk (q : Req) : Bool :=
  match q.op with
  | 1 => q.payload.isEmpty
  | 2 => (match (objFind q.idx q.sub).bind (fun o => o.ty.size) with
    | some n => q.payload.length = n
    | none => true)
  | 3 => q.payload.length = 2
  | 0x10 => q.payload.length = 32
  | _ => true

/-! ### Check 9: the state of the device -/

/-- Base of the staged plan slot (R39). Before any image is active the spec names none: the model stages into slot 0
(DESIGN CHOICE, log entry 162). -/
def State.stagedBase (s : State) : Nat := if s.activeSlot = some false then 0x5E80000000 else 0x5D00000000

/-- Identity and health entries (R515). -/
def isHealth (idx : Nat) : Bool :=
  (decide (0x1000 ≤ idx) && decide (idx ≤ 0x10FF)) || (decide (0x3000 ≤ idx) && decide (idx ≤ 0x31FF)) || idx = 0x6000

/-- The attestation report can be formed in bring-up, recovery and CAPTURE, and so is read there (R540; DEDUCED,
log entry 38). -/
def Req.attests (q : Req) : Bool := q.op = 0x10 || (q.idx = 0x1101 && q.sub = 2 && q.reads)

/-- What the bring-up state serves (R530, R531, R535). `BRINGUP_STATE` reads RUNNING from R + 200 ms, and RECOVERY in
recovery, so its object is read then (log entry 49). -/
def State.bringupServes (s : State) (q : Req) : Bool :=
  match s.bringup with
  | .ready => true
  | .running => q.reads && (isHealth q.idx || q.idx = 0x2010)
  | .failed => (q.reads && (isHealth q.idx || q.idx = 0x2010)) || q.idx = 0x6000 || q.idx = 0x6001
  | .recovery => (q.reads && (decide (0x1000 ≤ q.idx) && decide (q.idx ≤ 0x10FF) || q.idx = 0x2010))
      || (!q.reads && q.sub = 1 && (q.idx = 0x5100 || q.idx = 0x5104))

/-- What a CAPTURE serves (R509). -/
def State.captureServes (s : State) (q : Req) : Bool :=
  s.freeze.st ≠ .capture || (q.reads && isHealth q.idx) || (decide (0x3F00 ≤ q.idx) && decide (q.idx ≤ 0x3FFF))

/-- GC of the launch point that is due next (R349, R440): the agreed one, the host's, or the planned one. -/
def State.dueLaunch (s : State) : Option Nat :=
  match s.agree.decided, s.agree.hostLaunch with
  | some l, _ => some l.gc
  | none, some l => some l.gc
  | none, none => if s.step.launched && !s.agree.stopped && s.step.status ≠ .idle then some s.step.planned else none

/-- A launch point is due within 20 ms (R349). -/
def State.launchNear (s : State) : Bool := match s.dueLaunch with
  | some g => decide (g ≤ s.gc.value + 20000000)
  | none => false

/-- A program kind by its subindex 1 to 9 (R479). -/
def kindOf (sub : Nat) : Option Kind := if h : 1 ≤ sub ∧ sub ≤ 9 then some ⟨sub - 1, by omega⟩ else none

/-- The digest of the verified staged image of a kind (R518). -/
def State.stagedProgram (s : State) (k : Kind) : Option Nat := (s.nv.programs[k].staged).map Program.digest

/-- A staged pin names the staged image of a kind (R518). -/
def State.pinNamesStaged (s : State) (sub : Nat) : Bool :=
  match kindOf sub, lookupKey (objKey 0x5104 sub) s.staged with
  | some k, some b => s.stagedProgram k = some (leNat b)
  | _, _ => false

/-- A write may stage one more entry (R475, R476). -/
def State.mayStage (s : State) (q : Req) : Bool :=
  !s.stageLock && ((lookupKey (objKey q.idx q.sub) s.staged).isSome || decide (s.staged.length < 1024))

/-- The core a `SPARE_REQUEST` names has an unused spare on its die (R499, R520). -/
def State.canSpare (s : State) (l : Nat) : Bool :=
  if h : l < 48 then (s.spareFree ⟨l, h⟩).isSome && !s.sparing.any (fun x => x.logical.val = l) else true

/-- The entry's own condition on the state for a write (R349, R440, R475, R476, R481, R507, R513, R518, R520,
R539). -/
def State.writeStateOk (s : State) (q : Req) : Bool :=
  (match objFind q.idx q.sub with
   | some o => o.acc ≠ .rws || s.bringup = .recovery || s.mayStage q
   | none => true) &&
  match q.idx, q.sub with
  | 0x1104, 0 => s.plan.isNone
  | 0x1006, _ => decide (s.nv.fuses.length < 4)
  | 0x1200, 2 => !s.stageLock
  | 0x2708, 0 => s.step.status ≠ .running && !s.launchNear
  | 0x2A04, 0 => s.step.status = .idle || s.step.status = .aborted
  | 0x2A04, 1 => s.step.status = .idle || s.step.status = .aborted
  | 0x5000, _ => (s.stackOut (s.stagedBase + q.h.ioffset.toNat) q.payload.length).isNone
  | 0x3F00, 3 => q.value = 0 || (s.freeze.st = .capture && s.pins.freezeN)
  | 0x5023, 0 => s.mayRestore
  | 0x5030, 1 => s.canSpare q.value
  | 0x5100, k => !s.pinNamesStaged k
  | 0x5104, 1 => s.obj 0x5032 1 = 0 || s.bringup = .recovery
  | _, _ => true

/-- The current state permits the operation (R471 check 9, R512). -/
def State.stateOk (s : State) (q : Req) : Bool :=
  q.attests || (s.bringupServes q && s.captureServes q &&
    (q.idx ≠ 0x3F01 || q.sub = 0 || s.freeze.st = .capture) && (q.reads || s.writeStateOk q))

/-! ### Check 10: the value (R469 and the object tables) -/

/-- The pending value of an RWS scalar: staged, else in force (R352). -/
def State.pendingValue (s : State) (idx sub : Nat) : Nat :=
  match lookupKey (objKey idx sub) s.staged with
  | some b => leNat b
  | none => s.obj idx sub

/-- The warm threshold lies at least 5.0 below the hot one (R352). -/
def apart (warm hot : Nat) : Bool :=
  let w := decodeF32 (BitVec.ofNat 32 warm)
  let h := decodeF32 (BitVec.ofNat 32 hot)
  !h.lt (w.add (decodeF32 0x40A00000))

/-- A step lies in the image a launch would run, where there is one; checked again at the launch (R440; log
entry 39). -/
def State.stepInImage (s : State) (n : Nat) : Bool := match s.planNext with
  | some p => p.holdsStep n
  | none => decide (n < 2 ^ 48)

/-- A `PROGRAM_PIN` names the running digest or that of a verified staged image (R518). -/
def State.pinOk (s : State) (sub digest : Nat) : Bool := match kindOf sub with
  | some k => (s.program sub).digest = digest || s.stagedProgram k = some digest
  | none => false

/-- A pool of the active plan: a thread pool or a pool of its table (R361, R362, R382). -/
def State.poolExists (s : State) (n : Nat) : Bool := match s.plan with
  | some p => decide (n < 52) || (poolAt p.pools n).isSome
  | none => false

/-- The rule of a scalar entry for a written value: what it asks of the value alone, and of the state (R56, R86, R276,
R282, R352, R382, R440, R510, R518). -/
def State.ruleOk (s : State) (idx sub v : Nat) : Bool :=
  valueRule idx sub v &&
  match idx, sub with
  | 0x2501, _ => v = 0 || v = 2
  | 0x2702, 0 => apart v (s.pendingValue 0x2702 1)
  | 0x2702, 1 => apart (s.pendingValue 0x2702 0) v
  | 0x2A04, 0 => s.stepInImage (s.obj 0x2A04 1)
  | 0x2A04, 1 => s.stepInImage v
  | 0x3011, 0 => decide (v < (s.plan.map (fun p => p.descs.length)).getD 0)
  | 0x302F, 0 => decide (v < (s.plan.map (fun p => p.preds.length)).getD 0)
  | 0x2802, 0 => s.poolExists v
  | 0x3F00, 2 => decide (s.gc.value + 10000 ≤ v)
  | 0x5104, k => s.pinOk k v
  | _, _ => true

/-- The value is accepted: its type's own rule, then the entry's (R469, R471 check 10). -/
def State.valueOk (s : State) (q : Req) : Bool :=
  q.op ≠ 2 || ((match (objFind q.idx q.sub).map Obj.ty with
    | some t => t.valueOk q.value
    | none => true) && s.ruleOk q.idx q.sub q.value)

/-! ### All checks (R471) -/

/-- The status of the first check that fails. -/
def firstFail : List (Bool × Status) → Status
  | [] => .ok
  | (true, _) :: rest => firstFail rest
  | (false, st) :: _ => st

/-- The checks of R471 in their order. -/
def State.checks (s : State) (q : Req) : List (Bool × Status) :=
  [(q.wellFormed, .badFrame), (q.op = 0x10 || objIndexAssigned q.idx, .noObject),
   (q.op = 0x10 || s.hasEntry q, .noSubindex), (q.op = 0x10 || s.accessOk q, .access),
   ((s.signatureFault q).isNone, .signature), (s.segmentOk q, .segment), (s.notBusy q, .busy),
   (q.lengthOk, .length), (s.stateOk q, .state), (s.valueOk q, .range)]

/-- The status of a request's checks. -/
def State.screen (s : State) (q : Req) : Status := firstFail (s.checks q)

end Sys2Proof.Machine
end

