-- ==== Sys2Proof/Machine/Serve.lean ====
section
/-! DEFINITION. What accepted Ivwidin requests do: scalar writes, segmented writes and reads, plan and program
images, attestation; and the answering of a request (R40, R276, R349, R431, R437, R440, R452, R461 to R477, R481,
R490 to R494, R499, R507, R510 to R513, R517, R518, R535, R539, R540). -/

namespace Sys2Proof.Machine

/-- The answer to a request: its status, payload, and whether `LAST` is set. -/
structure Answer where
  st : Status
  payload : Bytes := []
  last : Bool := false
  deriving DecidableEq, Repr

/-! ### Signed writes (R492, R493) -/

/-- Notes the first accepted write to a signed entry while the key slot is empty (R492). -/
def State.noteUnchecked (s : State) (q : Req) : State :=
  if s.mustSign q.idx q.sub && s.customerKey.isNone && !s.mgmt.uncheckedSeen then
    ({ s with mgmt := { s.mgmt with uncheckedSeen := true } }).mgmtEvent 0x7102 []
  else s

/-- Draws a new challenge (R493; a free value, log entry 6). -/
def State.redraw (s : State) : State :=
  { s with mgmt := { s.mgmt with challenge := (Config.randomWord s.freeCount).toNat }, freeCount := s.freeCount + 1 }

/-- The request is signed (R461): after each signed write that executes the challenge is drawn again, whatever the
entry and whether or not a key was held to check it with (R493; DEDUCED, log entry 184). -/
def Req.signed (q : Req) : Bool := q.h.auth.isSome

/-! ### Scalar writes (R470) -/

/-- Stages a value (R474). -/
def State.stageValue (s : State) (q : Req) : State := { s with staged := setKey (objKey q.idx q.sub) q.payload s.staged }

/-- Sets a selection of the requester (R472, R490). -/
def State.choose (s : State) (q : Req) (f : Selection → Selection) : State := s.select q.src (f (s.selection q.src))

/-- Discards every event record held (R490, R494). -/
def State.clearLog (s : State) : State :=
  let n := s.log.recs.length
  let unread := (s.log.recs.filter (fun e => !e.read)).length
  ({ s with log := { s.log with recs := [], lost := s.log.lost + unread } }).mgmtEvent 0x7103 (toLe 4 n)

/-- Fuses an entry of the customer key slot (R539). -/
def State.fuse (s : State) (k : Option (BitVec 256)) : State :=
  ({ s with nv := { s.nv with fuses := s.nv.fuses ++ [k] } }).mgmtEvent 0x7205 [if k.isSome then 1 else 2]

/-- Starts a margin scan of the stacks in a bit mask (R349). -/
def State.startMargin (s : State) (mask : Nat) : State :=
  let hs := (indices 8).filter (fun (h : Stack) => mask.testBit h.val)
  if hs.isEmpty then s else ({ s with marginScan := addNew s.marginScan hs }).setObj 0x2708 1 1

/-- The host asks for a launch: a new agreement, with its planned launch at the written count (R440). -/
def State.armLaunch (s : State) (gc : Nat) : State :=
  let s := s.setObj 0x2A04 0 gc
  let s := { s with rounds := s.rounds.filter (fun r => r.name.kind = 2), stageLock := false }
  { s with agree := { AgreeState.initial with hostLaunch := some ⟨s.obj 0x2A04 1, gc, 0, false⟩ } }

/-- A written `LAUNCH_STEP` also counts for a launch already asked for and not yet contributed to (R440). -/
def State.setLaunchStep (s : State) (n : Nat) : State :=
  let s := s.setObj 0x2A04 1 n
  match s.agree.hostLaunch with
  | some l => if s.agree.contributed then s
              else { s with agree := { s.agree with hostLaunch := some { l with step := n } } }
  | none => s

/-- Floods `FREEZE` for the whole run and freezes here at the same count (R415, R510). -/
def State.freezeRun (s : State) (c : Nat) : State :=
  let s := if s.awake then s.flood 0x09 (toLe 8 c) else s
  s.freezeAt c false false 3 (s.uptime + (c - s.gc.value))

/-- A verified image has become the current copy of a kind, and the current one the previous (R533, R534). -/
def StoreChecks.renew (b : StoreChecks) (k : Kind) : StoreChecks :=
  { b with badCurrent := b.badCurrent.filter (· ≠ k)
           badPrevious := b.badPrevious.filter (· ≠ k) ++ (if b.badCurrent.contains k then [k] else []) }

/-- A pin written in recovery: the named staged image becomes the current copy, and the module restarts at once as if
`RESET_N` had been released; of every other copy the boot ROM finds what it found before (R535; log entry 40). -/
def State.pinInRecovery (s : State) (k : Kind) (digest : Nat) : State :=
  let st := s.nv.programs[k]
  let b := s.bootChecks
  match st.staged.filter (fun p => p.digest = digest) with
  | some p =>
    let s := { s with nv := s.nv.modStores (fun x => x.setProgram k ⟨p, st.current, none⟩) }
    (s.restarted.countSpareRows).boot ⟨b.refclk, StoreChecks.renew b.a k, StoreChecks.renew b.b k⟩
  | none => (s.restarted.countSpareRows).boot b

/-- Writes `PROGRAM_PIN`: staged, or in recovery at once (R518, R535). -/
def State.writePin (s : State) (q : Req) : State :=
  match s.bringup, kindOf q.sub with
  | .recovery, some k => s.pinInRecovery k q.value
  | _, _ => s.stageValue q

/-- Writes an entry with no behaviour of its own: staged, or in force at once (R470, R474). -/
def State.writePlain (s : State) (q : Req) : State :=
  match (objFind q.idx q.sub).map Obj.acc with
  | some .rws => s.stageValue q
  | _ => s.setObj q.idx q.sub q.value

/-- What an accepted WRITE does (R470). -/
def State.applyWrite (s : State) (q : Req) : State :=
  let v := q.value
  match q.idx, q.sub with
  | 0x3011, _ => s.choose q (fun c => { c with numeric := v })
  | 0x302F, _ => s.choose q (fun c => { c with pred := v })
  | 0x2802, _ => s.choose q (fun c => { c with pool := v })
  | 0x6000, _ => s.choose q (fun c => { c with eventFrom := v })
  | 0x1104, _ => ((s.setObj 0x1104 0 v).setObj 0x1104 1 1).chooseRoot
  | 0x2A03, 0 => (s.setObj 0x2A03 0 v).chooseRoot
  | 0x1200, _ => if v = 1 then { s with staged := [] } else s
  | 0x6001, _ => if v = 1 then s.clearLog else s
  | 0x1006, _ => if v = 1 then s.fuse none else s
  | 0x2708, _ => s.startMargin v
  | 0x2A04, 0 => s.armLaunch v
  | 0x2A04, 1 => s.setLaunchStep v
  | 0x3F00, 1 => s.freezeAt (s.gc.value + 1000) (v = 2) false 2 s.uptime
  | 0x3F00, 2 => s.freezeRun v
  | 0x3F00, 3 => if v = 1 then s.releaseFreeze else s
  | 0x5023, _ => s.startRestore v
  | 0x5030, 1 => if h : v < 48 then s.scheduleSpare ⟨v, h⟩ 3 else s
  | 0x5104, _ => s.writePin q
  | _, _ => s.writePlain q

/-- Executes an accepted WRITE, with what signing asks for (R492, R493). -/
def State.execWrite (s : State) (q : Req) : State × Answer :=
  let s := (s.noteUnchecked q).applyWrite q
  (if q.signed then s.redraw else s, ⟨.ok, [], false⟩)

/-! ### Plan images (R39, R40) -/

/-- Bytes of a plan slot (R39). -/
def planSlotSize : Nat := 0x180000000

/-- Changes the staged plan slot. -/
def State.setStagedSlot (s : State) (x : PlanSlot) : State :=
  { s with slots := if s.activeSlot = some false then (s.slots.1, x) else (x, s.slots.2) }

/-- The four objects of a plan refusal (R56, R139). -/
def State.setPlanStatus (s : State) (st code desc dcode : Nat) : State :=
  (((s.setObj 0x5001 0 st).setObj 0x5001 1 code).setObj 0x5001 2 desc).setObj 0x5001 3 dcode

/-- A whole image has arrived: it is verified, and the refusal recorded (R40, R56, R57, R125). -/
def State.stagePlan (s : State) (b : Bytes) : State × Status :=
  let digest := leNat (trailerAt b 0 32)
  match s.verify b with
  | .verified p => ((s.setStagedSlot ⟨some p, digest, s.customerKey.isNone⟩).setPlanStatus 2 0 0xFFFFFFFF 0, .ok)
  | .refused code detail desc dcode =>
    (((s.setStagedSlot ⟨none, digest, false⟩).setPlanStatus 3 code desc dcode).mgmtEvent 0x4101 detail, .range)

/-! ### Update images (R517) -/

/-- The staged image of a kind. -/
def State.setStagedProgram (s : State) (k : Kind) (p : Option Program) : State :=
  { s with nv := s.nv.modStores (fun x => { x with programs := vmodify x.programs k (fun y => { y with staged := p }) }) }

/-- A whole update image has arrived: it is checked, and a verified one loaded into the idle half (R517). -/
def State.stageProgram (s : State) (k : Kind) (b : Bytes) : State × Status :=
  let sub := k.val + 1
  let code := s.programCheck sub b
  if code = 0 then
    (((s.setStagedProgram k (some ⟨fieldAt b 12 4, sha3Nat b⟩)).setObj 0x5101 sub 2).setObj 0x5102 sub 0, .ok)
  else
    ((((s.setStagedProgram k none).setObj 0x5101 sub 3).setObj 0x5102 sub code).mgmtEvent 0x7201
      (toLe 1 sub ++ toLe 1 code), .range)

/-! ### Other DOMAIN entries (R431, R452, R466, R539) -/

/-- The customer key is fused and written into both program stores (R539). -/
def State.programKey (s : State) (b : Bytes) : State × Status :=
  if b.length ≠ 1312 then (s, .range)
  else
    let k : BitVec 256 := BitVec.ofNat 256 (sha3Nat b)
    (({ s with nv := s.nv.modStores (fun x => { x with customerKey := some b }) }).fuse (some k), .ok)

/-- An entry of a fixed or tabled length takes its value at once (R470; the lengths of R431, R452, R466). -/
def State.setBlob (s : State) (idx sub : Nat) (b : Bytes) : State × Status :=
  let ok := match idx with
    | 0x1103 => b.length % 32 = 0 && decide (b.length ≤ 256 * 32)
    | 0x1102 => b.length = 18
    | _ => b.length = 16
  if ok then ({ s with blobs := setKey (objKey idx sub) b s.blobs }, .ok) else (s, .range)

/-- A transfer is complete: the entry's own checks run (R463, R469). -/
def State.finishTransfer (s : State) (idx sub : Nat) (b : Bytes) : State × Status :=
  match idx with
  | 0x5000 => s.stagePlan b
  | 0x5100 => (match kindOf sub with
    | some k => s.stageProgram k b
    | none => (s, .range))
  | 0x1006 => s.programKey b
  | _ => s.setBlob idx sub b

/-! ### Segmented writes (R463) -/

/-- A transfer begins: what was staged of the entry is no longer (R56, R520). -/
def State.beginTransfer (s : State) (q : Req) : State :=
  match q.idx with
  | 0x5000 => (s.setStagedSlot PlanSlot.empty).setPlanStatus 1 0 0xFFFFFFFF 0
  | 0x5100 => (match kindOf q.sub with
    | some k => ((s.setStagedProgram k none).setObj 0x5101 q.sub 1).setObj 0x5102 q.sub 0
    | none => s)
  | _ => s

/-- A segment of a plan image goes to its place in the staged slot (R39, R40). -/
def State.storeSegment (s : State) (q : Req) : State :=
  let off := q.h.ioffset.toNat
  if q.idx = 0x5000 && decide (off + q.payload.length ≤ planSlotSize) then s.writeRun (s.stagedBase + off) q.payload
  else s

/-- The bytes of a transfer whose every byte has arrived (R463). -/
def Transfer.whole (t : Transfer) : Option Bytes :=
  t.len.bind (fun l =>
    ((List.range (ceilDiv l 4096)).mapM (fun i => lookupKey (4096 * i) t.pieces)).map (fun ps => ps.flatten))

/-- A transfer with one more segment; the one with `LAST` fixes the length (R463), and a signed transfer has every
segment signed (R493). -/
def Transfer.add (t : Transfer) (q : Req) (now : Nat) : Transfer :=
  let off := q.h.ioffset.toNat
  { t with pieces := setKey off q.payload t.pieces, last := now
           len := if q.last then some (off + q.payload.length) else t.len
           signed := t.signed && q.signed }

/-- The transfer that a segment belongs to: a segment at offset 0 begins a new one (R463). -/
def State.ongoing (s : State) (q : Req) : Option Transfer := if q.h.ioffset = 0 then none else s.transferOf q

/-- Executes an accepted SEG_WRITE (R463, R493). -/
def State.execSegment (s : State) (q : Req) : State × Answer :=
  let key := objKey q.idx q.sub
  let fresh := (s.ongoing q).isNone
  let t := ((s.ongoing q).getD ⟨q.src, [], none, 0, true⟩).add q s.uptime
  let s := s.noteUnchecked q
  let s := if fresh then s.beginTransfer q else s
  let s := s.storeSegment q
  match t.whole with
  | none => ({ s with mgmt := { s.mgmt with transfers := setKey key t s.mgmt.transfers } }, ⟨.ok, [], false⟩)
  | some b =>
    let s := { s with mgmt := { s.mgmt with transfers := dropKey key s.mgmt.transfers } }
    let (s, st) := s.finishTransfer q.idx q.sub b
    (if t.signed then s.redraw else s, ⟨st, [], false⟩)

/-! ### Reads (R461, R463, R512) -/

/-- Marks what a snapshot of `EVENT_LOG` returns as read (R490). -/
def State.markRead (s : State) (sel : Selection) : State :=
  { s with log := { s.log with recs := s.log.recs.map (fun (e : EventRec) =>
      if e.seq < sel.eventFrom then e else { e with read := true }) } }

/-- What reading an entry as a snapshot leaves: read records (R490). -/
def State.afterSnapshot (s : State) (q : Req) : State :=
  if q.idx = 0x6000 then s.markRead (s.selection q.src) else s

/-- Takes a snapshot of an entry for the requester (R463). -/
def State.takeSnapshot (s : State) (q : Req) : State × Bytes :=
  let b := s.domain (s.selection q.src) q.idx q.sub
  let key := objKey q.idx q.sub
  let s := s.afterSnapshot q
  let rest := s.mgmt.snapshots.filter (fun x => !(x.src = q.src && x.key = key))
  ({ s with mgmt := { s.mgmt with snapshots := Snapshot.mk q.src key b s.uptime :: rest } }, b)

/-- The snapshot a read away from offset 0 uses, held anew for 10 s (R463). -/
def State.useSnapshot (s : State) (q : Req) : State × Bytes :=
  let key := objKey q.idx q.sub
  let b := ((s.snapshotOf q).map Snapshot.bytes).getD []
  ({ s with mgmt := { s.mgmt with snapshots := s.mgmt.snapshots.map (fun (x : Snapshot) =>
      if x.src = q.src && x.key = key then { x with last := s.uptime } else x) } }, b)

/-- Bytes wanted: a peer's frame holds at most 200 (R461, R464). -/
def Req.wanted (q : Req) : Nat := if q.fromPeer then min 200 q.value else q.value

/-- `n` bytes of a read-out at an address (R512). -/
def State.readOut (s : State) (a n : Nat) : Bytes := (List.range n).map (fun i => s.captureByte (a + i))

/-- Executes an accepted SEG_READ (R463, R512). -/
def State.execSegRead (s : State) (q : Req) : State × Answer :=
  let off := q.h.ioffset.toNat
  if q.inPlace then
    (s, ⟨.ok, s.readOut (s.obj 0x3F01 0 + off) q.wanted, false⟩)
  else
    let (s, b) := if off = 0 then s.takeSnapshot q else s.useSnapshot q
    (s, ⟨.ok, slice b off q.wanted, decide (b.length ≤ off + q.wanted)⟩)

/-- Executes an accepted READ (R461). -/
def State.execRead (s : State) (q : Req) : Answer :=
  match objFind q.idx q.sub with
  | some o => ⟨.ok, s.readBytes (s.selection q.src) o q.sub, false⟩
  | none => ⟨.noSubindex, [], false⟩

/-! ### Attestation (R540) -/

/-- `AFLAGS` (R540): the plan's signature unchecked, control writes unchecked, recovery, island B active. -/
def State.attestFlags (s : State) : Nat :=
  (if s.imageSlot.unchecked then 1 else 0) + (if s.mgmt.uncheckedSeen then 2 else 0)
    + (if s.bringup = .recovery then 4 else 0) + (if s.mgmt.active = .b then 8 else 0)

/-- Bytes 0 to 575 of the report (R540). In recovery the boot ROM reads what it serves, the objects 0x1000 to 0x10FF,
and the other fields hold zeros (DEDUCED, log entry 175). -/
def State.attestBody (s : State) (nonce : Bytes) : Bytes :=
  let v (idx sub : Nat) : Nat := s.value {} idx sub
  let up (x : Nat) : Nat := if s.bringup = .recovery then 0 else x
  ascii "TG96ATST" ++ toLe 4 0x00010000 ++ toLe 4 s.attestFlags ++ nonce ++ toLe 8 (up s.gc.value)
    ++ toLe 8 (up (v 0x5004 0)) ++ toLe 2 (up (v 0x1104 0)) ++ toLe 2 (v 0x1000 3) ++ strBytes 2
    ++ toLe 32 (v 0x1003 3) ++ toLe 32 (v 0x1003 0) ++ toLe 32 (v 0x1003 1) ++ toLe 32 (up (v 0x5002 0))
    ++ toLe 32 (v 0x1004 0) ++ (List.range 10).flatMap (fun k => toLe 32 (v 0x1002 k)) ++ toLe 4 (up s.epoch)
    ++ List.replicate 12 0

/-- The report, signed by the fused identity key (R540; the signature is a free value, log entry 6). -/
def State.attestReport (s : State) (nonce : Bytes) : Bytes :=
  let b := s.attestBody nonce
  b ++ (List.range 2420).map (Config.signByte (BitVec.ofNat 256 (sha3Nat b)))

/-- Executes an accepted ATTEST (R540). -/
def State.execReport (s : State) (q : Req) : State × Answer :=
  ({ s with mgmt := { s.mgmt with attestReport := s.attestReport q.payload } }, ⟨.ok, [], false⟩)

/-! ### Answering (R461, R462, R471, R483, R494) -/

/-- Executes an accepted request. -/
def State.perform (s : State) (q : Req) : State × Answer :=
  match q.op with
  | 1 => (s, s.execRead q)
  | 2 => s.execWrite q
  | 3 => s.execSegRead q
  | 4 => s.execSegment q
  | _ => s.execReport q

/-- What a refusal leaves: a refused signature is counted and logged (R483, R494), a refused launch step logged
(R449), and a refused scan shown (R352). Nothing else changes (R471). -/
def State.noteRefusal (s : State) (q : Req) (st : Status) : State :=
  if st = .signature then
    (s.addObj 0x3003 3 1).mgmtEvent 0x7101 (toLe 2 q.idx ++ toLe 1 q.sub ++ toLe 1 ((s.signatureFault q).getD 0))
  else if st = .range && q.idx = 0x2A04 && decide (q.sub ≤ 1) then s.mgmtEvent 0x4905 []
  else if st = .state && q.idx = 0x5000 then
    match s.stackOut (s.stagedBase + q.h.ioffset.toNat) q.payload.length with
    | some i => s.fenceHit s.mgmtIsland i
    | none => s
  else if st = .state && q.idx = 0x2708 && s.bringup = .ready && s.freeze.st ≠ .capture then s.setObj 0x2708 1 4
  else s

/-- Executes a request: the checks of R471, then what it does. -/
def State.execute (s : State) (q : Req) : State × Answer :=
  let s := s.touch q.src
  match s.screen q with
  | .ok => s.perform q
  | st => (s.noteRefusal q st, ⟨st, [], false⟩)

/-- The response that carries an answer (R461). -/
def Req.response (q : Req) (a : Answer) : Response where
  iop := q.h.iop
  iflags := if a.last then 6 else 4
  iseq := q.h.iseq
  idx := BitVec.ofNat 16 q.idx
  sub := BitVec.ofNat 8 q.sub
  istatus := a.st.code
  ioffset := q.h.ioffset
  payload := a.payload

/-- Management hears a requester: it runs, and the host's link, or the fabric, carries frames (R451, R501, R509). -/
def State.answers (s : State) (src : Source) : Bool :=
  s.mgmtServes && (match src with
    | .host _ _ => s.hostUp
    | .peer _ => s.awake)

/-- Counts a response by its status (R483). -/
def State.countStatus (s : State) (code : Nat) : State := if code = 0 then s else s.addObj 0x3003 2 1

/-- A repeated request is answered from its kept response: counted as replayed, and as an error or as answered
`SIGNATURE` by that response's own status (R462, R483). -/
def State.replay (s : State) (src : Source) (r : Response) : State :=
  let s := (s.addObj 0x3003 1 1).countStatus r.istatus
  (if r.istatus = Status.signature.code then s.addObj 0x3003 3 1 else s).respond src r

/-- Serves a request. A repeated `ISEQ` is answered from the kept response and executes nothing (R462). -/
def State.serve (s : State) (q : Req) : Result :=
  if !s.answers q.src then .next s
  else match s.keptResponse q with
  | some r => .next (s.replay q.src r)
  | none =>
    let (s, a) := s.execute q
    let s := (s.addObj 0x3003 0 1).countStatus a.st.code
    let r := q.response a
    .next ((s.keep q r).respond q.src r)

end Sys2Proof.Machine
end

