-- ==== Sys2Proof/Machine/Requests.lean ====
section
/-! DEFINITION. The request commands, one meaning for each row, and the timers of segmented transfers (R463, R464,
R519). -/

namespace Sys2Proof.Machine

/-- A READ or WRITE of an entry by a command: operation, index and subindex. -/
def frameOf (src : Source) (h : FrameHead) (op idx sub : Nat) (payload : Bytes) : Req := ⟨src, h, op, idx, sub, payload⟩

/-- `IVWIDIN_READ` (R461). -/
def execIvwidinRead (src : Source) (h : FrameHead) (idx : BitVec 16) (sub : BitVec 8) (payload : Bytes) (s : State) :
    Result := s.serve (frameOf src h 1 idx.toNat sub.toNat payload)

/-- `IVWIDIN_WRITE` (R470). -/
def execIvwidinWrite (src : Source) (h : FrameHead) (idx : BitVec 16) (sub : BitVec 8) (payload : Bytes) (s : State) :
    Result := s.serve (frameOf src h 2 idx.toNat sub.toNat payload)

/-- `SEG_READ` (R463). -/
def execSegRead (src : Source) (h : FrameHead) (idx : BitVec 16) (sub : BitVec 8) (payload : Bytes) (s : State) :
    Result := s.serve (frameOf src h 3 idx.toNat sub.toNat payload)

/-- `SEG_WRITE` (R463). -/
def execSegWrite (src : Source) (h : FrameHead) (idx : BitVec 16) (sub : BitVec 8) (payload : Bytes) (s : State) :
    Result := s.serve (frameOf src h 4 idx.toNat sub.toNat payload)

/-- `ATTEST` (R540). -/
def execAttest (src : Source) (h : FrameHead) (nonce : Bytes) (s : State) : Result :=
  s.serve (frameOf src h 0x10 0 0 nonce)

/-- `RWS_STAGE_WRITE` (R474). -/
def execRwsStageWrite (src : Source) (h : FrameHead) (idx : BitVec 16) (sub : BitVec 8) (payload : Bytes) (s : State) :
    Result := s.serve (frameOf src h 2 idx.toNat sub.toNat payload)

/-- The entry of a selector (R472, R490). -/
def selectorEntry (sel : Selector) : Nat × Nat :=
  match sel with
  | .numeric => (0x3011, 0)
  | .pred => (0x302F, 0)
  | .pool => (0x2802, 0)
  | .eventFrom => (0x6000, 4)

/-- `SELECTOR_WRITE` (R472). -/
def execSelectorWrite (src : Source) (h : FrameHead) (sel : Selector) (payload : Bytes) (s : State) : Result :=
  s.serve (frameOf src h 2 (selectorEntry sel).1 (selectorEntry sel).2 payload)

/-- `PLAN_STAGE` (R40). -/
def execPlanStage (src : Source) (h : FrameHead) (payload : Bytes) (s : State) : Result :=
  s.serve (frameOf src h 4 0x5000 0 payload)

/-- `LAUNCH_GC` (R440). -/
def execLaunchGc (src : Source) (h : FrameHead) (payload : Bytes) (s : State) : Result :=
  s.serve (frameOf src h 2 0x2A04 0 payload)

/-- `NODE_ID` (R481). -/
def execNodeId (src : Source) (h : FrameHead) (payload : Bytes) (s : State) : Result :=
  s.serve (frameOf src h 2 0x1104 0 payload)

/-- `MARGIN_START` (R349). -/
def execMarginStart (src : Source) (h : FrameHead) (payload : Bytes) (s : State) : Result :=
  s.serve (frameOf src h 2 0x2708 0 payload)

/-- `FREEZE_REQUEST_CAPTURE` (R510). -/
def execFreezeRequestCapture (src : Source) (h : FrameHead) (s : State) : Result :=
  s.serve (frameOf src h 2 0x3F00 1 [1])

/-- `FREEZE_REQUEST_FULL` (R510). -/
def execFreezeRequestFull (src : Source) (h : FrameHead) (s : State) : Result :=
  s.serve (frameOf src h 2 0x3F00 1 [2])

/-- `FREEZE_AT_GC` (R510). -/
def execFreezeAtGc (src : Source) (h : FrameHead) (payload : Bytes) (s : State) : Result :=
  s.serve (frameOf src h 2 0x3F00 2 payload)

/-- `FREEZE_RELEASE` (R513). -/
def execFreezeRelease (src : Source) (h : FrameHead) (payload : Bytes) (s : State) : Result :=
  s.serve (frameOf src h 2 0x3F00 3 payload)

/-- `CAPTURE_READOUT` (R512). -/
def execCaptureReadout (src : Source) (h : FrameHead) (islands : Bool) (payload : Bytes) (s : State) : Result :=
  s.serve (frameOf src h 3 0x3F01 (if islands then 2 else 1) payload)

/-- `CKPT_RESTORE` (R507). -/
def execCkptRestore (src : Source) (h : FrameHead) (payload : Bytes) (s : State) : Result :=
  s.serve (frameOf src h 2 0x5023 0 payload)

/-- `SPARE_REQUEST` (R499). -/
def execSpareRequest (src : Source) (h : FrameHead) (payload : Bytes) (s : State) : Result :=
  s.serve (frameOf src h 2 0x5030 1 payload)

/-- `UPDATE_STAGE` (R517). -/
def execUpdateStage (src : Source) (h : FrameHead) (kind : Kind) (payload : Bytes) (s : State) : Result :=
  s.serve (frameOf src h 4 0x5100 (kind.val + 1) payload)

/-- `PROGRAM_PIN` (R518). -/
def execProgramPin (src : Source) (h : FrameHead) (kind : Kind) (payload : Bytes) (s : State) : Result :=
  s.serve (frameOf src h 2 0x5104 (kind.val + 1) payload)

/-- `STAGE_DISCARD` (R477). -/
def execStageDiscard (src : Source) (h : FrameHead) (payload : Bytes) (s : State) : Result :=
  s.serve (frameOf src h 2 0x1200 2 payload)

/-- `EVENT_LOG_CLEAR` (R490). -/
def execEventLogClear (src : Source) (h : FrameHead) (payload : Bytes) (s : State) : Result :=
  s.serve (frameOf src h 2 0x6001 0 payload)

/-- `CUSTOMER_KEY_PROGRAM` (R539). -/
def execCustomerKeyProgram (src : Source) (h : FrameHead) (payload : Bytes) (s : State) : Result :=
  s.serve (frameOf src h 4 0x1006 0 payload)

/-- `CUSTOMER_KEY_REVOKE` (R539). -/
def execCustomerKeyRevoke (src : Source) (h : FrameHead) (payload : Bytes) (s : State) : Result :=
  s.serve (frameOf src h 2 0x1006 2 payload)

/-- `PRED_POLICY` (R276). -/
def execPredPolicy (src : Source) (h : FrameHead) (layer : BitVec 8) (payload : Bytes) (s : State) : Result :=
  s.serve (frameOf src h 2 0x2501 layer.toNat payload)

/-- `REPLAY_TAP` (R431). -/
def execReplayTap (src : Source) (h : FrameHead) (tap : Fin 16) (payload : Bytes) (s : State) : Result :=
  s.serve (frameOf src h 4 0x2A08 tap.val payload)

/-- `QP_TABLE` (R452). -/
def execQpTable (src : Source) (h : FrameHead) (payload : Bytes) (s : State) : Result :=
  s.serve (frameOf src h 4 0x1103 0 payload)

/-! ### Frames from peers (R464) -/

/-- The header of a frame that a `MGMT` flit carries (R461, R464): never signed. -/
def peerHead (b : Bytes) : FrameHead where
  iver := b.getD 0 0
  iop := b.getD 1 0
  iflags := BitVec.ofNat 16 (fieldAt b 2 2)
  iseq := BitVec.ofNat 32 (fieldAt b 4 4)
  istatus := b.getD 11 0
  ioffset := BitVec.ofNat 64 (fieldAt b 12 8)
  ilen := BitVec.ofNat 16 (fieldAt b 20 2)
  rsv := BitVec.ofNat 16 (fieldAt b 22 2)
  auth := none

/-- The request of a peer's frame: an operation that R461 does not list, or that a peer cannot ask for, is none of
the four (R464). -/
def peerRequest (node : BitVec 16) (b : Bytes) : Req :=
  let h := peerHead b
  let op := if 1 ≤ h.iop.toNat ∧ h.iop.toNat ≤ 4 then h.iop.toNat else 0x100
  ⟨.peer node, h, op, fieldAt b 8 2, fieldAt b 10 1, slice b 24 (min 200 h.ilen.toNat)⟩

/-- `MGMT` (R464): a request from a peer; responses to this module's own frames ask for nothing. -/
def execMgmt (p : Port) (f : Flit) (s : State) : Result :=
  s.seqFlit p f (fun s => s.routed p 0x0D f (fun s =>
    if (fieldAt f.payload 2 2).testBit 2 then s
    else match s.serve (peerRequest f.src f.payload) with
      | .next s => s
      | _ => s))

/-! ### Timers (R463, R519) -/

/-- Ten seconds, in ns. -/
def tenSeconds : Nat := 10000000000

/-- What a discarded transfer leaves of its entry: nothing is staged (R463; log entry 41). -/
def State.dropStaged (s : State) (idx sub : Nat) : State :=
  if idx = 0x5000 then s.setObj 0x5001 0 0 else if idx = 0x5100 then s.setObj 0x5101 sub 0 else s

/-- `SEG_TRANSFER_TIMEOUT` (R463). -/
def execSegTransferTimeout (idx : BitVec 16) (sub : BitVec 8) (s : State) : Result :=
  let key := objKey idx.toNat sub.toNat
  match lookupKey key s.mgmt.transfers with
  | none => .next s
  | some t =>
    if s.phase = .up && decide (t.last + tenSeconds ≤ s.uptime) then
      let s := { s with mgmt := { s.mgmt with transfers := dropKey key s.mgmt.transfers } }
      .next (s.dropStaged idx.toNat sub.toNat)
    else .next s

/-- `SNAPSHOT_EXPIRY` (R463). -/
def execSnapshotExpiry (src : Source) (idx : BitVec 16) (sub : BitVec 8) (s : State) : Result :=
  if s.phase ≠ .up then .next s
  else
    let key := objKey idx.toNat sub.toNat
    .next { s with mgmt := { s.mgmt with snapshots := s.mgmt.snapshots.filter (fun (x : Snapshot) =>
      !(x.src = src && x.key = key && decide (x.last + tenSeconds ≤ s.uptime))) } }

/-- `STANDBY_READY` (R519): after a firmware changeover the other island has loaded and stands by. -/
def execStandbyReady (s : State) : Result :=
  if s.phase = .up && s.obj 0x5032 1 = 1 then .next (s.setObj 0x5032 1 0) else .next s

end Sys2Proof.Machine
end

