-- ==== Sys2Proof/Machine/Tap.lean ====
section
/-! DEFINITION. The IEEE 1149.1 test access port (R514). -/

namespace Sys2Proof.Machine

/-- Selects an instruction and shifts a value out of its register (R514). -/
def State.shift (s : State) (ir : BitVec 8) (v : Nat) : State := { s with tap := ⟨ir⟩, out := s.out ++ [.tdo v] }

/-- `TAP_RESET` (R514): the controller's reset selects IDCODE (PRESUMED from IEEE 1149.1, log entry 7). -/
def execTapReset (s : State) : Result :=
  if s.phase = .dark then .next s else .next { s with tap := ⟨0x01⟩ }

/-- `TAP_BYPASS` (R514): any instruction but IDCODE and IJTAG; the bypass register captures 0 (PRESUMED, log
entry 7). -/
def execTapBypass (ir : BitVec 8) (s : State) : Result :=
  if s.phase = .dark || ir = 0x01 || ir = 0x24 then .next s else .next (s.shift ir 0)

/-- `TAP_IDCODE` (R514). -/
def execTapIdcode (s : State) : Result :=
  if s.phase = .dark then .next s else .next (s.shift 0x01 (s.obj 0x3F02 0))

/-- The address belongs to a die's bonded SRAM (R19). -/
def inDie (d : CDie) (a : Nat) : Bool := decide (dieBase d.val ≤ a) && decide (a < dieBase d.val + 0x60000000)

/-- What the network returns of a memory-access instrument: 32 data bits, then the syndrome, 0 for a word without
error. A poisoned word's syndrome and data, and the control blocks, are free values (R22, R340, R514, log entry
6). -/
def State.scanWord (s : State) (d : CDie) (addr : Nat) : Nat :=
  let a := addr / 4 * 4
  if !inDie d a && decide (a < 0x30000000000) then 0
  else
    let data := leNat ((List.range 4).map (fun i => s.captureByte (a + i)))
    let syndrome := if s.poisoned a 4 then (Config.freeByte s.freeze.draw (2 ^ 48 + a)).toNat else 0
    data + syndrome * 2 ^ 32

/-- `TAP_IJTAG` (R514): the IEEE 1687 network; outside FULL its scans read zeros. -/
def execTapIjtag (x : IjtagAccess) (s : State) : Result :=
  if s.phase = .dark then .next s
  else if s.phase ≠ .fullFreeze then .next (s.shift 0x24 0)
  else
    let v := match x with
      | .island i => if islandAssigned i.toNat then leNat (s.islandRecord i.toNat) else 0
      | .memory d a => s.scanWord d a.toNat
    .next (s.shift 0x24 v)

end Sys2Proof.Machine
end

