-- ==== Sys2Proof/Machine/Dispatch.lean ====
section
/-! DEFINITION. The meaning of every command: one arm for each row of spec/opcode_table.json. -/

namespace Sys2Proof.Machine

/-- The effect of a command on everything but the queue. -/
def exec (i : Instr) (s : State) : Host.Outcome State Fault Refusal :=
  match i with
  | .pwrEnAssert railFault => Sys2Proof.Machine.execPwrEnAssert railFault s
  | .pwrEnDeassert => Sys2Proof.Machine.execPwrEnDeassert s
  | .resetNAssert => Sys2Proof.Machine.execResetNAssert s
  | .resetNRelease b => Sys2Proof.Machine.execResetNRelease b s
  | .bringupComplete b => Sys2Proof.Machine.execBringupComplete b s
  | .bringupTimeout => Sys2Proof.Machine.execBringupTimeout s
  | .undervoltageStop => Sys2Proof.Machine.execUndervoltageStop s
  | .overvoltageLockout => Sys2Proof.Machine.execOvervoltageLockout s
  | .overCurrentTrip => Sys2Proof.Machine.execOverCurrentTrip s
  | .inputVoltageOutOfRange => Sys2Proof.Machine.execInputVoltageOutOfRange s
  | .inputPowerHigh => Sys2Proof.Machine.execInputPowerHigh s
  | .coolantInletHigh => Sys2Proof.Machine.execCoolantInletHigh s
  | .dieTempWarning d => Sys2Proof.Machine.execDieTempWarning d s
  | .dieTrip d => Sys2Proof.Machine.execDieTrip d s
  | .stackTrip h => Sys2Proof.Machine.execStackTrip h s
  | .pllLockLost isl => Sys2Proof.Machine.execPllLockLost isl s
  | .freezeNAssert => Sys2Proof.Machine.execFreezeNAssert s
  | .freezeNDeassert => Sys2Proof.Machine.execFreezeNDeassert s
  | .syncInPulse => Sys2Proof.Machine.execSyncInPulse s
  | .tapReset => Sys2Proof.Machine.execTapReset s
  | .tapBypass ir => Sys2Proof.Machine.execTapBypass ir s
  | .tapIdcode => Sys2Proof.Machine.execTapIdcode s
  | .tapIjtag a => Sys2Proof.Machine.execTapIjtag a s
  | .hbmTempReading h t => Sys2Proof.Machine.execHbmTempReading h t s
  | .holdSend => Sys2Proof.Machine.execHoldSend s
  | .sramScrub addr w => Sys2Proof.Machine.execSramScrub addr w s
  | .hbmScrub addr w => Sys2Proof.Machine.execHbmScrub addr w s
  | .spareSelfTest d pass => Sys2Proof.Machine.execSpareSelfTest d pass s
  | .marginDriftProbe h pc lowErr highErr => Sys2Proof.Machine.execMarginDriftProbe h pc lowErr highErr s
  | .laserInputMeasure inp dbm => Sys2Proof.Machine.execLaserInputMeasure inp dbm s
  | .keepaliveSend p => Sys2Proof.Machine.execKeepaliveSend p s
  | .portSilence p => Sys2Proof.Machine.execPortSilence p s
  | .portUp p node peer => Sys2Proof.Machine.execPortUp p node peer s
  | .timeFlitSend p => Sys2Proof.Machine.execTimeFlitSend p s
  | .gcHoldover => Sys2Proof.Machine.execGcHoldover s
  | .gcUnlocked => Sys2Proof.Machine.execGcUnlocked s
  | .gcDomainAlign p => Sys2Proof.Machine.execGcDomainAlign p s
  | .lossWindowExpiry node => Sys2Proof.Machine.execLossWindowExpiry node s
  | .watchdogExpiry w => Sys2Proof.Machine.execWatchdogExpiry w s
  | .stepOvertime => Sys2Proof.Machine.execStepOvertime s
  | .mgmtTakeover => Sys2Proof.Machine.execMgmtTakeover s
  | .mgmtBothSilent => Sys2Proof.Machine.execMgmtBothSilent s
  | .segTransferTimeout idx sub => Sys2Proof.Machine.execSegTransferTimeout idx sub s
  | .snapshotExpiry src idx sub => Sys2Proof.Machine.execSnapshotExpiry src idx sub s
  | .laneLockLost p lane => Sys2Proof.Machine.execLaneLockLost p lane s
  | .laneSwapAtBlock p d => Sys2Proof.Machine.execLaneSwapAtBlock p d s
  | .laneRetestDone p d lane pass => Sys2Proof.Machine.execLaneRetestDone p d lane pass s
  | .transientBinRoll => Sys2Proof.Machine.execTransientBinRoll s
  | .telemetryRefresh t => Sys2Proof.Machine.execTelemetryRefresh t s
  | .freezeCountReached => Sys2Proof.Machine.execFreezeCountReached s
  | .captureTimeout => Sys2Proof.Machine.execCaptureTimeout s
  | .flitCrcFail p bad => Sys2Proof.Machine.execFlitCrcFail p bad s
  | .idle p f => Sys2Proof.Machine.execIdle p f s
  | .writeHead p f => Sys2Proof.Machine.execWriteHead p f s
  | .data p f => Sys2Proof.Machine.execData p f s
  | .writeAck p f => Sys2Proof.Machine.execWriteAck p f s
  | .tally p f => Sys2Proof.Machine.execTally p f s
  | .keepalive p f => Sys2Proof.Machine.execKeepalive p f s
  | .time p f => Sys2Proof.Machine.execTime p f s
  | .agree p f => Sys2Proof.Machine.execAgree p f s
  | .hold p f => Sys2Proof.Machine.execHold p f s
  | .freeze p f => Sys2Proof.Machine.execFreeze p f s
  | .frozen p f => Sys2Proof.Machine.execFrozen p f s
  | .loss p f => Sys2Proof.Machine.execLoss p f s
  | .dyingGasp p f => Sys2Proof.Machine.execDyingGasp p f s
  | .mgmt p f => Sys2Proof.Machine.execMgmt p f s
  | .nak p f => Sys2Proof.Machine.execNak p f s
  | .lanectl p f => Sys2Proof.Machine.execLanectl p f s
  | .abort p f => Sys2Proof.Machine.execAbort p f s
  | .flitReservedType p ftype f => Sys2Proof.Machine.execFlitReservedType p ftype f s
  | .hostLinkDown => Sys2Proof.Machine.execHostLinkDown s
  | .hostLinkUp => Sys2Proof.Machine.execHostLinkUp s
  | .hostFrameDiscard => Sys2Proof.Machine.execHostFrameDiscard s
  | .neighbourReply n => Sys2Proof.Machine.execNeighbourReply n s
  | .rdmaRead qp rkey va len => Sys2Proof.Machine.execRdmaRead qp rkey va len s
  | .rdmaWrite qp rkey va bytes => Sys2Proof.Machine.execRdmaWrite qp rkey va bytes s
  | .rdmaCompareSwap qp rkey va cmp swp => Sys2Proof.Machine.execRdmaCompareSwap qp rkey va cmp swp s
  | .rdmaUnsupported qp op => Sys2Proof.Machine.execRdmaUnsupported qp op s
  | .ivwidinRead src h idx sub payload => Sys2Proof.Machine.execIvwidinRead src h idx sub payload s
  | .ivwidinWrite src h idx sub payload => Sys2Proof.Machine.execIvwidinWrite src h idx sub payload s
  | .segRead src h idx sub payload => Sys2Proof.Machine.execSegRead src h idx sub payload s
  | .segWrite src h idx sub payload => Sys2Proof.Machine.execSegWrite src h idx sub payload s
  | .attest src h nonce => Sys2Proof.Machine.execAttest src h nonce s
  | .rwsStageWrite src h idx sub payload => Sys2Proof.Machine.execRwsStageWrite src h idx sub payload s
  | .selectorWrite src h sel payload => Sys2Proof.Machine.execSelectorWrite src h sel payload s
  | .planStage src h payload => Sys2Proof.Machine.execPlanStage src h payload s
  | .launchGc src h payload => Sys2Proof.Machine.execLaunchGc src h payload s
  | .nodeId src h payload => Sys2Proof.Machine.execNodeId src h payload s
  | .marginStart src h payload => Sys2Proof.Machine.execMarginStart src h payload s
  | .marginScanDone results => Sys2Proof.Machine.execMarginScanDone results s
  | .freezeRequestCapture src h => Sys2Proof.Machine.execFreezeRequestCapture src h s
  | .freezeRequestFull src h => Sys2Proof.Machine.execFreezeRequestFull src h s
  | .freezeAtGc src h payload => Sys2Proof.Machine.execFreezeAtGc src h payload s
  | .freezeRelease src h payload => Sys2Proof.Machine.execFreezeRelease src h payload s
  | .captureReadout src h islands payload => Sys2Proof.Machine.execCaptureReadout src h islands payload s
  | .ckptRestore src h payload => Sys2Proof.Machine.execCkptRestore src h payload s
  | .spareRequest src h payload => Sys2Proof.Machine.execSpareRequest src h payload s
  | .updateStage src h kind payload => Sys2Proof.Machine.execUpdateStage src h kind payload s
  | .programPin src h kind payload => Sys2Proof.Machine.execProgramPin src h kind payload s
  | .stageDiscard src h payload => Sys2Proof.Machine.execStageDiscard src h payload s
  | .eventLogClear src h payload => Sys2Proof.Machine.execEventLogClear src h payload s
  | .customerKeyProgram src h payload => Sys2Proof.Machine.execCustomerKeyProgram src h payload s
  | .customerKeyRevoke src h payload => Sys2Proof.Machine.execCustomerKeyRevoke src h payload s
  | .predPolicy src h layer payload => Sys2Proof.Machine.execPredPolicy src h layer payload s
  | .replayTap src h tap payload => Sys2Proof.Machine.execReplayTap src h tap payload s
  | .qpTable src h payload => Sys2Proof.Machine.execQpTable src h payload s
  | .agreeContribute => Sys2Proof.Machine.execAgreeContribute s
  | .agreeAttemptEnd => Sys2Proof.Machine.execAgreeAttemptEnd s
  | .agreeRetryTimer => Sys2Proof.Machine.execAgreeRetryTimer s
  | .stepLaunch => Sys2Proof.Machine.execStepLaunch s
  | .recordIssue c => Sys2Proof.Machine.execRecordIssue c s
  | .sheafFetch e j w => Sys2Proof.Machine.execSheafFetch e j w s
  | .creditGrant c r => Sys2Proof.Machine.execCreditGrant c r s
  | .dataArrival c r t => Sys2Proof.Machine.execDataArrival c r t s
  | .feedReadLanded c r addr hint => Sys2Proof.Machine.execFeedReadLanded c r addr hint s
  | .chainTileForward c r => Sys2Proof.Machine.execChainTileForward c r s
  | .loadInterlockRelease c r held => Sys2Proof.Machine.execLoadInterlockRelease c r held s
  | .recordComplete c r => Sys2Proof.Machine.execRecordComplete c r s
  | .signalArrival k => Sys2Proof.Machine.execSignalArrival k s
  | .stepComplete => Sys2Proof.Machine.execStepComplete s
  | .recordFault c r k => Sys2Proof.Machine.execRecordFault c r k s
  | .spareCopyDone l => Sys2Proof.Machine.execSpareCopyDone l s
  | .noOperation c r => Sys2Proof.Machine.execNoOperation c r s
  | .regenGate c r => Sys2Proof.Machine.execRegenGate c r s
  | .matrixProductMultiplyAdd c r => Sys2Proof.Machine.execMatrixProductMultiplyAdd c r s
  | .squaredL2Distance c r => Sys2Proof.Machine.execSquaredL2Distance c r s
  | .l1Distance c r => Sys2Proof.Machine.execL1Distance c r s
  | .maxPlus c r => Sys2Proof.Machine.execMaxPlus c r s
  | .minPlus c r => Sys2Proof.Machine.execMinPlus c r s
  | .compareAndCount c r => Sys2Proof.Machine.execCompareAndCount c r s
  | .blk16Product c r => Sys2Proof.Machine.execBlk16Product c r s
  | .brtKProduct c r => Sys2Proof.Machine.execBrtKProduct c r s
  | .csrTProduct c r => Sys2Proof.Machine.execCsrTProduct c r s
  | .sampledProduct c r => Sys2Proof.Machine.execSampledProduct c r s
  | .gather c r => Sys2Proof.Machine.execGather c r s
  | .scatterAdd c r => Sys2Proof.Machine.execScatterAdd c r s
  | .expertDispatch c r => Sys2Proof.Machine.execExpertDispatch c r s
  | .expertCombine c r => Sys2Proof.Machine.execExpertCombine c r s
  | .tableFunction c r => Sys2Proof.Machine.execTableFunction c r s
  | .derivativeTable c r => Sys2Proof.Machine.execDerivativeTable c r s
  | .derivativeHusk c r => Sys2Proof.Machine.execDerivativeHusk c r s
  | .elementAdd c r => Sys2Proof.Machine.execElementAdd c r s
  | .elementSubtract c r => Sys2Proof.Machine.execElementSubtract c r s
  | .elementMultiply c r => Sys2Proof.Machine.execElementMultiply c r s
  | .elementDivide c r => Sys2Proof.Machine.execElementDivide c r s
  | .elementMaximum c r => Sys2Proof.Machine.execElementMaximum c r s
  | .elementMinimum c r => Sys2Proof.Machine.execElementMinimum c r s
  | .elementSquareRoot c r => Sys2Proof.Machine.execElementSquareRoot c r s
  | .elementLogarithm c r => Sys2Proof.Machine.execElementLogarithm c r s
  | .elementCompare c r => Sys2Proof.Machine.execElementCompare c r s
  | .reduceSum c r => Sys2Proof.Machine.execReduceSum c r s
  | .reduceMean c r => Sys2Proof.Machine.execReduceMean c r s
  | .reduceMaximum c r => Sys2Proof.Machine.execReduceMaximum c r s
  | .reduceMinimum c r => Sys2Proof.Machine.execReduceMinimum c r s
  | .dropoutMask c r => Sys2Proof.Machine.execDropoutMask c r s
  | .optimizerMomentumSgd c r => Sys2Proof.Machine.execOptimizerMomentumSgd c r s
  | .optimizerAdam c r => Sys2Proof.Machine.execOptimizerAdam c r s
  | .optimizerAdamw c r => Sys2Proof.Machine.execOptimizerAdamw c r s
  | .compose c r => Sys2Proof.Machine.execCompose c r s
  | .predict c r => Sys2Proof.Machine.execPredict c r s
  | .check c r => Sys2Proof.Machine.execCheck c r s
  | .merge c r => Sys2Proof.Machine.execMerge c r s
  | .referenceCount c r => Sys2Proof.Machine.execReferenceCount c r s
  | .copy c r => Sys2Proof.Machine.execCopy c r s
  | .transposeCopy c r => Sys2Proof.Machine.execTransposeCopy c r s
  | .stashWrite c r => Sys2Proof.Machine.execStashWrite c r s
  | .stashRead c r => Sys2Proof.Machine.execStashRead c r s
  | .prefetch c r => Sys2Proof.Machine.execPrefetch c r s
  | .cancel c r => Sys2Proof.Machine.execCancel c r s
  | .scoreGradient c r => Sys2Proof.Machine.execScoreGradient c r s
  | .scoreRandom c r => Sys2Proof.Machine.execScoreRandom c r s
  | .select c r => Sys2Proof.Machine.execSelect c r s
  | .rebuildApply c r => Sys2Proof.Machine.execRebuildApply c r s
  | .rebuildConvert c r => Sys2Proof.Machine.execRebuildConvert c r s
  | .maskCommitRecord c r => Sys2Proof.Machine.execMaskCommitRecord c r s
  | .sync c r => Sys2Proof.Machine.execSync c r s
  | .reduceScatter c r parts => Sys2Proof.Machine.execReduceScatter c r parts s
  | .allGather c r shards => Sys2Proof.Machine.execAllGather c r shards s
  | .allToAllDispatch c r sections => Sys2Proof.Machine.execAllToAllDispatch c r sections s
  | .allToAllReturn c r sections => Sys2Proof.Machine.execAllToAllReturn c r sections s
  | .collectiveStageEnd c r => Sys2Proof.Machine.execCollectiveStageEnd c r s
  | .shardStream c r => Sys2Proof.Machine.execShardStream c r s
  | .shardVerify c r => Sys2Proof.Machine.execShardVerify c r s
  | .undervoltageLockoutExit => Sys2Proof.Machine.execUndervoltageLockoutExit s
  | .overvoltageLockoutExit => Sys2Proof.Machine.execOvervoltageLockoutExit s
  | .discreteInputIgnored inp => Sys2Proof.Machine.execDiscreteInputIgnored inp s
  | .ckptRestoreDone pulled => Sys2Proof.Machine.execCkptRestoreDone pulled s
  | .standbyReady => Sys2Proof.Machine.execStandbyReady s

end Sys2Proof.Machine
end

