-- ==== Sys2Proof/Machine/Tick.lean ====
section
/-! DEFINITION. The passing of one tick of 1 ns when no command waits (R10, R432, R511, R528). -/

namespace Sys2Proof.Machine

/-- The clocks run: the module is powered, out of reset and not in a FULL freeze (R514, R528). -/
def State.clocked (s : State) : Bool := s.phase = .up

/-- One tick of the counter. Steering changes its rate by 1/16 tick in 625 ticks, 100 ppm, until the
offset is gone (R432). -/
def GcState.tick (g : GcState) (uptime : Nat) : GcState :=
  let d : Int := if uptime % 625 ≠ 0 then 0 else if 0 < g.steer then 1 else if g.steer < 0 then -1 else 0
  let n := ((((g.value * 16 + g.frac : Nat) : Int) + 16 + d) % (2 ^ 68 : Int)).toNat
  { g with value := n / 16, frac := n % 16, steer := g.steer - d }

/-- A SWAP message under way is repeated every 64 ns on the spare lane of the receiving end's own transmit direction,
while that lane is unused (R392). -/
def State.repeatSwaps (s : State) : State :=
  let due := allPorts.filterMap (fun p =>
    let ps := s.ports[p]
    match ps.rx.swap, ps.tx.spare with
    | some w, some _ =>
      if ps.st.isUp && (s.uptime - w.since) % 64 = 0 then some (Out.spareLane p (swapArg w.lane w.phys) w.block) else none
    | _, _ => none)
  { s with out := s.out ++ due }

/-- One tick of the global counter and of the time since reset (R432, R483), with the messages that repeat by it (R392);
nothing else happens at a tick (log entry 2). -/
def State.tick (s : State) : State :=
  if s.clocked then ({ s with uptime := s.uptime + 1, gc := s.gc.tick s.uptime }).repeatSwaps else s

end Sys2Proof.Machine
end

