-- ==== Sys2Proof/Safety.lean ====
section
/-! DEFINITION. The terms claims are stated in: the invariant of the block, when a record may run, what an event
leaves in the log, and when a request is accepted. -/

namespace Sys2Proof.Machine

/-! ### The invariant -/

/-- What holds of the core map, the spares and the sparings (R14 to R17, R499): each logical core is served by a core
of its own die, no two by one, and a spare, unused or under a copy, serves none. -/
structure CoresOk (m : Vector Phys 48) (sp : Vector (Option Phys) 4) (l : List Sparing) : Prop where
  ownDie : ∀ c : Core, (m[c]).val / 13 = c.val / 12
  distinct : ∀ c d : Core, m[c] = m[d] → c = d
  spareDie : ∀ (d : Fin 4) (p : Phys), sp[d] = some p → p.val / 13 = d.val
  spareFree : ∀ (d : Fin 4) (p : Phys), sp[d] = some p → ∀ c : Core, m[c] ≠ p
  copyDie : ∀ x ∈ l, x.spare.val / 13 = x.logical.val / 12
  copyFree : ∀ x ∈ l, ∀ c : Core, m[c] ≠ x.spare
  onePerDie : l.Pairwise (fun x y => coreDie x.logical ≠ coreDie y.logical)

/-- What every command and every tick keeps. -/
structure State.Inv (s : State) : Prop where
  /-- memory has its canonical form. -/
  memory : Memory.wf s.mem = true
  /-- the object dictionary's scalars have theirs. -/
  objects : Assoc.wf objDefault s.od = true
  /-- the global counter has 64 bits (R432). -/
  counter : s.gc.value < 2 ^ 64
  /-- the logs hold at most 65,536 records (R429, R430, R489). -/
  events : s.log.recs.length ≤ 65536
  audits : s.auditLog.length ≤ 65536
  replays : s.replayLog.length ≤ 65536
  /-- selections of at most 16 sources are kept (R472). -/
  sources : s.mgmt.selections.length ≤ maxSources
  /-- the customer key has four fuse entries (R539). -/
  fuses : s.nv.fuses.length ≤ 4
  cores : CoresOk s.coreMap s.spares s.sparing
  /-- a step runs under an active image (R41, R440). -/
  image : s.stepLive = true → s.plan.isSome = true

/-! ### Events -/

/-- The record of an event that comes next stands in a log: code, source island and detail (R487). -/
def Logged (s t : State) (code : BitVec 16) (island : Nat) (detail : Bytes) : Prop :=
  ∃ e ∈ t.log.recs, e.code = code ∧ e.island = island ∧ e.detail = detail ∧ e.seq = s.log.nextSeq ∧
    e.gc = s.gc.value

/-- Only the logging of events has changed: the log, the counters of classes (R483), and what notices need (R465). -/
structure OnlyLogs (s t : State) : Prop where
  frame : t = { s with log := t.log, od := t.od, out := t.out,
                       mgmt := { s.mgmt with noticeSeq := t.mgmt.noticeSeq, lastLogged := t.mgmt.lastLogged } }
  objects : ∀ idx sub, idx ≠ 0x3000 → sub < 256 → t.obj idx sub = s.obj idx sub

/-- Only what sending flits and logging events needs has changed. -/
def OnlySends (s t : State) : Prop :=
  t = { s with ports := t.ports, out := t.out, od := t.od, log := t.log, mgmt := t.mgmt, floodSeq := t.floodSeq,
               fenceErrors := t.fenceErrors, errorReplies := t.errorReplies }

/-- Only what the abort of a step needs has changed (R55): what it sends and logs, the step, its records, rounds and
messages in flight, and the version entries that it marks. -/
def OnlyAborts (s t : State) : Prop :=
  t = { s with ports := t.ports, out := t.out, od := t.od, log := t.log, mgmt := t.mgmt, floodSeq := t.floodSeq,
               mem := t.mem, poison := t.poison, caches := t.caches, syncFlags := t.syncFlags, cores := t.cores,
               signals := t.signals, fenceErrors := t.fenceErrors, errorReplies := t.errorReplies,
               chainHeld := t.chainHeld, rounds := t.rounds, outbound := t.outbound, step := t.step }

/-- A rate-limited event is due: none of its code and item was logged within the period (R522). -/
def State.limitPast (s : State) (code : BitVec 16) (item period : Nat) : Prop :=
  ∀ t, lookupKey (code.toNat * 256 + item) s.mgmt.lastLogged = some t → t + period ≤ s.uptime

/-- A flit with a type and a first payload byte was sent on a port. -/
def Sent (t : State) (p : Port) (ftype : BitVec 8) (first : Byte) : Prop :=
  ∃ f, Out.flit p ftype f ∈ t.out ∧ f.payload.head? = some first

/-! ### Receiving flits -/

/-- Only ports and what is sent have changed. -/
def OnlyPorts (s t : State) : Prop := t = { s with ports := t.ports, out := t.out }

/-- A sequenced flit is the next one expected on a port that receives (R389). -/
structure InOrder (s : State) (p : Port) (f : Flit) : Prop where
  hears : s.hears p = true
  next : f.seq.toNat = s.ports[p].rxSeq

/-- A module that has taken a sequenced flit in its order: the next number is expected. -/
def State.taken (s : State) (p : Port) (f : Flit) : State :=
  (s.hear p f).modPort p (fun ps => { ps with rxSeq := (ps.rxSeq + 1) % 65536, nakSent := false })

/-- A module that has taken a sequenced flit for itself: the flit's receive buffer is free as well (R390). -/
def State.delivered (s : State) (p : Port) (f : Flit) : State := (s.taken p f).freeBuffer (some p) f.vc

/-- A routed flit is for this module, which has a valid node ID, and its epoch is accepted (R395, R396, R481). -/
structure ForHere (s : State) (f : Flit) : Prop where
  valid : s.obj 0x1104 1 ≠ 0
  dst : f.dst = s.nodeId
  epoch : s.epochOk f = true

/-- A flooded flit comes from another module and is newer than the last of its origin, or the first (R410). -/
structure NewFlood (s : State) (f : Flit) : Prop where
  other : (floodHead f).1 ≠ s.nodeId
  newer : ∀ last, lookupKey (floodHead f).1.toNat s.floodSeen = some last →
    0 < ((floodHead f).2 + 2 ^ 32 - last) % 2 ^ 32 ∧ ((floodHead f).2 + 2 ^ 32 - last) % 2 ^ 32 < 2 ^ 31

/-- A flooded flit is this module's own, or one of an origin whose last is as new or newer (R410). -/
def OldFlood (s : State) (f : Flit) : Prop :=
  (floodHead f).1 = s.nodeId ∨ ∃ last, lookupKey (floodHead f).1.toNat s.floodSeen = some last ∧
    (((floodHead f).2 + 2 ^ 32 - last) % 2 ^ 32 = 0 ∨ 2 ^ 31 ≤ ((floodHead f).2 + 2 ^ 32 - last) % 2 ^ 32)

/-! ### Power -/

/-- Every volatile value of the module is lost, and what survives without power is kept (R468, R532, R533, R539). -/
structure VolatileLost (s t : State) : Prop where
  memory : t.mem = [] ∧ t.poison = []
  objects : t.od = [] ∧ t.blobs = [] ∧ t.staged = []
  logs : t.log.recs = [] ∧ t.auditLog = [] ∧ t.replayLog = []
  plan : t.plan = none ∧ t.activeSlot = none ∧ t.step = StepState.initial
  cores : t.coreMap = shippedMap ∧ t.spares = shippedSpares ∧ t.sparing = []
  counter : t.gc = GcState.initial ∧ t.uptime = 0
  fuses : t.nv.fuses = s.nv.fuses ∧ t.nv.storedKey = s.nv.storedKey
  repairs : t.nv.repairs = s.nv.repairs
  programs : ∀ k : Kind, t.nv.programs[k] = { s.nv.programs[k] with staged := none }

/-- A trip latch that is set drives `THERM_TRIP_N` low while every other output is open (R509, R524, R525). -/
def OutputsOpen (t : State) : Prop :=
  t.pins.pwrGood = .z ∧ t.pins.faultN = .z ∧ t.pins.presentN = .z ∧
    t.pins.thermTripN = if t.tripLatch then .low else .z

/-- `DYING_GASP` with a cause went out on every port that carried flits (R416). -/
def Gasped (s t : State) (cause : Byte) : Prop :=
  ∀ p : Port, s.ports[p].st.isUp = true → Sent t p 0x0C cause

/-! ### Floods and events among others -/

/-- A flooded flit stands as sent, or as waiting to be sent, on every UP port but the one it came by (R410). -/
def FloodedOn (s t : State) (except : Option Port) (ftype : BitVec 8) (b : Bytes) : Prop :=
  ∃ new, t.out = s.out ++ new ∧ ∀ q : Port, except ≠ some q → s.ports[q].st.isUp = true →
    ∃ g : Flit, g.payload = b ∧ (Out.flit q ftype g ∈ new ∨ (ftype, g, none) ∈ t.ports[q].waitq)

/-- The payload of a flood that this module originates: its node ID, the next sequence, and the notice's bytes (R410). -/
def State.floodBytes (s : State) (b : Bytes) : Bytes :=
  padTo 224 (toLe 2 s.nodeId.toNat ++ [0, 0] ++ toLe 4 ((s.floodSeq + 1) % 2 ^ 32) ++ b)

/-- What `LOSS` says of a port's link: both ends and the cause (R411). -/
def State.lossBytes (s : State) (p : Port) (cause : Nat) : Bytes :=
  toLe 2 s.nodeId.toNat ++ toLe 1 p.val ++ toLe 2 s.ports[p].peerNode.toNat ++ toLe 1 s.ports[p].peerPort ++ toLe 1 cause

/-- An event stands in a log with its code, source island and detail, among others of the same command. -/
def Noted (t : State) (code : BitVec 16) (island : Nat) (detail : Bytes) : Prop :=
  ∃ e ∈ t.log.recs, e.code = code ∧ e.island = island ∧ e.detail = detail

/-! ### Records -/

/-- A record stands started at its engine in the running step of a module that executes, with its data at hand (R51,
R53, R373). -/
structure RecordReady (s : State) (c : Core) (r : Nat) (p : Plan) (rc : Rec) (q : QRec) : Prop where
  awake : s.awake = true
  running : s.step.status = .running
  plan : s.plan = some p
  record : p.recAt c r = some rc
  inFlight : s.qrec c r = some q
  started : q.phase = .started
  tag : q.tagInvalid = false
  landed : q.reads = []
  tiles : q.passed = q.chainTiles

/-- What a record in flight reads (R357). -/
def State.spansOf (s : State) (c : Core) (p : Plan) (rc : Rec) (q : QRec) (reads : Reads) : List Span :=
  (s.ctx p c rc q).takes reads s

/-- The operands of a record are sound: no poisoned word, the version the record asks for, and tiles that decode
(R138, R291, R340). -/
structure OperandsSound (s : State) (c : Core) (p : Plan) (rc : Rec) (q : QRec) (reads : Reads) : Prop where
  poison : s.readsPoison (s.spansOf c p rc q reads) = false
  weights : s.weightsPoison (s.ctx p c rc q) = false
  versions : s.versionsHold p rc (reads.named rc) = true
  tiles : (s.spansOf c p rc q reads).any (s.badSpan p) = false

/-- Only what a record may change has changed: memory with its poison and cached lines, the dictionary, events and
notices, sync flags, and what the step gathers of its tensors, counts and versions (R83 to R85, R105, R249, R291). -/
def OnlyRecord (s t : State) : Prop :=
  t = { s with mem := t.mem, poison := t.poison, caches := t.caches, od := t.od, log := t.log, mgmt := t.mgmt,
               out := t.out, syncFlags := t.syncFlags,
               step := { s.step with
                 counts := t.step.counts, seen := t.step.seen, tiles := t.step.tiles, nan := t.step.nan,
                 halt := t.step.halt, refRecs := t.step.refRecs, versions := t.step.versions,
                 slotsPoisoned := t.step.slotsPoisoned, slotDigests := t.step.slotDigests } }

/-- Only counting has changed: counters with the events they log, and what the step gathers of counts, tiles and NaN
elements (R82 to R85, R105, R483). -/
def OnlyCounts (s t : State) : Prop :=
  t = { s with od := t.od, log := t.log, mgmt := t.mgmt, out := t.out,
               step := { s.step with counts := t.step.counts, seen := t.step.seen, tiles := t.step.tiles,
                                     nan := t.step.nan } }

/-- A record has run to its end: its entry reads executed, the step goes on, and nothing else has changed but what a
record may change. -/
structure Ran (s t : State) (c : Core) (r : Nat) (q : QRec) : Prop where
  done : t.qrec c r = some { q with phase := .executed }
  frame : ∃ u, OnlyRecord s u ∧ t = u.finish c r

/-- What a step has gathered stays within the dictionary's subindexes: its matrices, its counts, and the weight sets and
predictors of its plan (R36, R467, R482). -/
structure CountsFit (s : State) (p : Plan) : Prop where
  matrices : ∀ m ∈ s.step.masks, m.1 < 256
  once : (s.step.masks.map Prod.fst).Nodup
  counts : ∀ e ∈ s.step.counts, e.1.2.2 < 256
  sets : p.weightSets.length ≤ 256
  preds : p.preds.length ≤ 256

/-! ### Records that nothing cuts short -/

/-- A BLK16 product takes only tiles that pass their checks (R167, R188). -/
def State.blkClean (s : State) (x : Ctx) : Prop :=
  ∀ a b : Nat × Desc, x.rd x.r.desc0 = some a → x.rd x.r.desc1 = some b →
    let g := blkShape a.2 b.2
    (s.readTiles b.2 [.blk] g.kt false none
      ((spGroups g none).map (fun l => (List.range g.chunks).flatMap (groupTiles g l))).flatten).bad = none

/-- A BRT-k or CSR-T product finds its list and offsets well formed, and takes only tiles that pass their checks (R188,
R189, R205, R217). -/
def State.spClean (s : State) (x : Ctx) (fmt : TFmt) : Prop :=
  ∃ u, s.spRun x = some (.ok u) ∧ (s.readTiles u.w [fmt] u.shape.kt u.shape.trans none
    ((spGroups u.shape u.outList).map u.reads).flatten).bad = none

/-- A sampled product's structure tiles pass their checks and fit the value plane (R188, R213). -/
def State.sampledClean (s : State) (x : Ctx) : Prop :=
  ∀ v plane st : Nat × Desc, x.rd x.r.desc1 = some v → x.wr x.r.desc2 = some plane →
    x.rd (paramDesc x.r.param1) = some st →
    let m := s.readTiles st.2 [.brt, .csr] (v.2.size 1 / 128) false none
      ((List.range (st.2.size 1)).map (fun i => (i, List.range 128)))
    m.bad = none ∧ ∀ t ∈ m.tiles, sampledFits plane.2 t.2.hdr = true

/-- A gather finds its offset tensor well formed (R217). -/
def State.gatherClean (s : State) (x : Ctx) : Prop :=
  ∀ src out : Nat × Desc, x.rd x.r.desc0 = some src → x.wr x.r.desc2 = some out →
    (s.gatherReads x src.2 out.2).isSome = true

/-- A scatter-add or dispatch finds its offset tensor well formed (R217). -/
def State.scatterClean (s : State) (x : Ctx) : Prop :=
  ∀ src : Nat × Desc, x.rd x.r.desc0 = some src → (s.recOffsets x x.r.param2 (src.2.size 1)).isSome = true

/-- A combine finds its offset tensor and every map entry well formed (R217, R226). -/
def State.combineClean (s : State) (x : Ctx) : Prop :=
  ∀ out map : Nat × Desc, x.wr x.r.desc2 = some out → x.rd x.r.desc4 = some map →
    ∃ offs maps, s.recOffsets x x.r.param2 (out.2.size 1) = some offs ∧
      s.combineMaps x.r map.2 (limitOf (out.2.size 1) offs) = .ok maps

/-- A stash read's slot holds an entry (R301). -/
def State.stashClean (s : State) (x : Ctx) : Prop :=
  ∀ dir : Nat × Desc, x.rd x.r.desc4 = some dir →
    s.stashState dir.2 (stashRow x.step x.r.stashSlot (x.r.param0.toNat.testBit 0)) = 1

/-- The tiles that hold a record's slices of weight set `wn` pass their checks (R188, R316). -/
def State.slicesClean (s : State) (x : Ctx) (wn : Nat) : Prop :=
  ∀ (w : WeightSet) (v : Nat × Desc), x.plan.weightSets[wn]? = some w → x.rd x.r.desc1 = some v →
    (s.sliceSpots w v.2 x.r.param1.toNat x.r.param2.toNat).2 = none

/-- A predictor record finds its offset tensor well formed (R217, R265). -/
def State.tokensClean (s : State) (x : Ctx) : Prop :=
  ∀ d : Nat × Desc, x.rd x.r.desc0 = some d → (s.predTokens x (d.2.size 1)).isSome = true

/-- A check or reference count finds its list and offset tensor well formed (R205, R217, R265). -/
def State.listClean (s : State) (x : Ctx) : Prop :=
  s.tokensClean x ∧ ∀ (e : PredEntry) (l : Nat × Desc), x.entry = some e → x.rd x.r.desc1 = some l →
    (s.activeList l.2 e.n).isSome = true

/-- A merge finds its index well formed (R205, R265). -/
def State.mergeClean (s : State) (x : Ctx) : Prop :=
  ∀ src ix : Nat × Desc, x.rd x.r.desc0 = some src → x.rd x.r.desc1 = some ix →
    (s.mergeIndex ix.2 (src.2.size 0)).isSome = true

/-- A score record's tiles pass their checks (R188, R239). -/
def State.scoreClean (s : State) (x : Ctx) : Prop :=
  ∀ st : Nat × Desc, x.rd x.r.desc1 = some st → (s.recTiles x st.2 [.brt]).2.bad = none

/-- A select record finds its fraction in range, its tiles sound, its change list long enough and every candidate a
position or none (R188, R237, R241, R243). -/
def State.selectClean (s : State) (x : Ctx) : Prop :=
  ∀ st out cd sched : Nat × Desc, x.rd x.r.desc0 = some st → x.wr x.r.desc2 = some out → x.rd x.r.desc4 = some cd →
    x.rd x.r.desc5 = some sched →
    let m := (s.recTiles x st.2 [.brt]).2
    ∃ f, s.pruneFraction x sched.2 = some f ∧ m.bad = none ∧ changeFits out.2 m.tiles = true ∧
      (s.selectTiles x st.2 ((x.rd x.r.desc1).map Prod.snd) cd.2 f m.tiles.zipIdx).isSome = true

/-- A rebuild that applies a change list finds its tiles sound, no change list refused, and every tile it wrote with
forms that agree (R188, R237, R244, R246). -/
def State.applyClean (s : State) (x : Ctx) : Prop :=
  ∀ st ch : Nat × Desc, x.wr x.r.desc2 = some st → x.rd x.r.desc4 = some ch →
    let m := s.recTiles x st.2 [.brt]
    let planes := [x.r.desc0, x.r.desc1, x.r.desc3].filterMap x.wr
    let u := s.setSync x.r.matrix true
    let b := u.rebuildTiles x st.2 ch.2 (planes.map Prod.snd) m.1 m.2.tiles.zipIdx
    m.2.bad = none ∧ changeFits ch.2 m.2.tiles = true ∧ b.2 = false ∧
      b.1.all (fun y => (b.1.foldl (fun s y => s.putRebuilt st.2 planes y) u).formsAgree st.2 m.1 y.slot) = true

/-- A rebuild that converts finds both streams sound, and every tile fits its target (R184, R188, R248). -/
def State.convertClean (s : State) (x : Ctx) : Prop :=
  ∀ st tgt : Nat × Desc, x.rd x.r.desc0 = some st → x.wr x.r.desc2 = some tgt →
    let m := (s.recTiles x st.2 [.brt, .csr, .blk, .bmp]).2
    m.bad = none ∧ ∃ kt, s.streamKt tgt.2 = some kt ∧ (s.convertTiles st.2 tgt.2 kt none m.tiles).2 = none

/-! ### Runs of memory -/

/-- Only a run of bytes of memory has changed: every other address reads as before. -/
def OnlyRun (s t : State) (a n : Nat) : Prop :=
  ∀ x, s.phys x = t.phys x → (∀ p q, s.phys a = some p → s.phys x = some q → q < p ∨ p + n ≤ q) → t.byte x = s.byte x

/-- Every byte of memory reads as before. -/
def SameMemory (s t : State) : Prop := ∀ a, t.byte a = s.byte a

/-! ### Requests -/

/-- A request is heard, is no repetition, and passes the checks of R471. -/
structure Accepted (s : State) (q : Req) : Prop where
  heard : s.answers q.src = true
  fresh : s.keptResponse q = none
  checks : (s.touch q.src).screen q = .ok

/-- A request that executed as `u` with an answer: it is counted, its response kept and sent (R461, R462, R483). -/
def State.replied (u : State) (q : Req) (a : Answer) : State :=
  let u := (u.addObj 0x3003 0 1).countStatus a.st.code
  (u.keep q (q.response a)).respond q.src (q.response a)

/-- An accepted write ran with an effect: the first to a signed entry with no key is noted, and one that was signed
draws a new challenge (R492, R493). -/
def State.wrote (s : State) (q : Req) (effect : State → State) : State :=
  let u := effect ((s.touch q.src).noteUnchecked q)
  (if q.signed then u.redraw else u).replied q ⟨.ok, [], false⟩

end Sys2Proof.Machine
end

