-- ==== Sys2Proof/Certificates/Slice0/Obligations.lean ====
section
/-! DEFINITION. The statements for the provers, from the numbered rules of spec/. -/

section

open Sys2Proof Sys2Proof.Machine

/-! ### The queue and the machine as a whole -/

/-- A step takes the command at the front of the queue and is `exec` of it with the queue's rest. -/
def Obligations.StepRunsTheFront : Prop :=
  ∀ (s : State) (c : Instr) (rest : List Instr), s.pending = c :: rest →
    step s = exec c { s with pending := rest }

/-- Every command completes, in every state, and leaves the queue as it stands. That a command answers a next state also
where its conditions do not hold is the model's choice (log entry 1). -/
def Obligations.EveryCommandCompletesAndKeepsTheQueue : Prop :=
  ∀ (c : Instr) (s : State), ∃ t : State, exec c s = .next t ∧ t.pending = s.pending

/-- Every step, a command or a tick, keeps the invariant: memory and objects in canonical form, the counter within 64
bits, logs and kept selections within their limits, four fuse entries, one physical core of its own die for each
logical core, and a running step only under an active image. -/
def Obligations.StepKeepsTheInvariant : Prop :=
  ∀ s : State, s.Inv → ∃ t, step s = .next t ∧ t.Inv

/-- No command, reset and power loss included, ever takes a fused key entry away or changes one (R539). -/
def Obligations.FusesAreNeverCleared : Prop :=
  ∀ (c : Instr) (s : State), ∃ t : State, exec c s = .next t ∧ s.nv.fuses <+: t.nv.fuses

/-- What reset leaves: the shipped core map and spares, the counter at zero and FREE, bring-up running, no step, no
plan, every port DOWN with 256 credits for each channel, every dictionary scalar at its default, and memory of +0.
The invariant holds there. -/
def Obligations.ResetLeavesTheSpecsValues : Prop :=
  (let s := State.reset
   (∀ l : Core, (s.coreMap[l]).val = l.val / 12 * 13 + l.val % 12) ∧
   (∀ d : Fin 4, (s.spares[d]).map Fin.val = some (13 * d.val + 12)) ∧
   s.gc.value = 0 ∧ s.gc.st = .free ∧ s.bringup = .running ∧ s.step.status = .idle ∧ s.plan = none ∧
   s.freeze.st = .run ∧ s.log.recs = [] ∧ s.pending = [] ∧
   (∀ p : Port, s.ports[p].st = .down ∧ ∀ v : Fin 4, s.ports[p].txCredits[v] = 256) ∧
   (∀ idx sub, s.obj idx sub = objDefault (objKey idx sub)) ∧
   (∀ a, s.byte a = 0)) ∧
  (State.reset.Inv)

/-! ### Power, reset and bring-up -/

/-- The rails come up with the first stage (R522, R528, R529): at `PWR_EN`, and at the exit of a lockout while `PWR_EN`
stands and no trip latch holds the regulators off. The module then waits in reset, its volatile values lost. A rail
that fails leaves it dark with its cause kept; without `PWR_EN` a lockout ends off; a stage that over-current stopped
stays off when a lockout ends. The model's choice (log entry 1): an asserted `PWR_EN` has no edge, and the end of a
lockout that does not stand changes nothing. -/
def Obligations.RailsComeUp : Prop :=
  ∀ s : State,
    (s.pins.pwrEn = false → s.stage = .off →
      ∃ t : State, exec (.pwrEnAssert false) s = .next t ∧ t.phase = .inReset ∧ t.stage = .running ∧
        t.pins.pwrEn = true ∧ VolatileLost s t ∧ OutputsOpen t ∧ t.tripLatch = s.tripLatch) ∧
    (s.pins.pwrEn = false → s.stage = .off →
      exec (.pwrEnAssert true) s = .next { s with pins := { s.pins with pwrEn := true }, latchedCause := 5 }) ∧
    (s.pins.pwrEn = false → s.stage ≠ .off → ∀ f,
      exec (.pwrEnAssert f) s = .next { s with pins := { s.pins with pwrEn := true } }) ∧
    (s.pins.pwrEn = true → ∀ f, exec (.pwrEnAssert f) s = .next s) ∧
    (s.pins.pwrEn = true → s.tripLatch = false →
      ∀ x ∈ [(Stage.underLockout, Instr.undervoltageLockoutExit), (.overLockout, .overvoltageLockoutExit)],
        s.stage = x.1 →
        ∃ t : State, exec x.2 s = .next t ∧ t.phase = .inReset ∧ t.stage = .running ∧ VolatileLost s t ∧ OutputsOpen t) ∧
    (∀ x ∈ [(Stage.underLockout, Stage.trippedUnder, Instr.undervoltageLockoutExit),
        (.overLockout, .trippedOver, .overvoltageLockoutExit)],
      (s.stage = x.1 → s.pins.pwrEn = false → exec x.2.2 s = .next { s with stage := .off }) ∧
      (s.stage = x.1 → s.pins.pwrEn = true → s.tripLatch = true →
        exec x.2.2 s = .next { s with stage := .running }) ∧
      (s.stage = x.2.1 → exec x.2.2 s = .next { s with stage := .tripped }) ∧
      (s.stage ≠ x.1 → s.stage ≠ x.2.1 → exec x.2.2 s = .next s))

/-- The rails go down (R522, R524, R532): at the end of `PWR_EN`, at an undervoltage, an overvoltage, an over-current
and at the trip of a die. Volatile values are lost and the outputs open; the first stage and the cause kept for the
next bring-up are as each says (4 undervoltage, 3 over-current, 1 die). The end of `PWR_EN` lets an over-current stop go,
while a lockout stands until the input allows the stage; an input out of range locks out a stage that does not run as
well. That a set latch keeps its own cause is the model's reading (log entry 61). -/
def Obligations.RailsGoDown : Prop :=
  ∀ s : State,
    (s.pins.pwrEn = true →
      ∃ t : State, exec .pwrEnDeassert s = .next t ∧ t.phase = .dark ∧ VolatileLost s t ∧ OutputsOpen t ∧
        t.pins.pwrEn = false ∧ t.tripLatch = false ∧ t.latchedCause = s.latchedCause ∧
        (s.stage = .running ∨ s.stage = .tripped → t.stage = .off) ∧
        (s.stage = .underLockout ∨ s.stage = .trippedUnder → t.stage = .underLockout) ∧
        (s.stage = .overLockout ∨ s.stage = .trippedOver → t.stage = .overLockout)) ∧
    (s.stage = .running →
      (∃ t : State, exec .undervoltageStop s = .next t ∧ t.phase = .dark ∧ VolatileLost s t ∧ OutputsOpen t ∧
        t.stage = .underLockout ∧ t.latchedCause = if s.tripLatch then s.latchedCause else 4) ∧
      (∃ t : State, exec .overvoltageLockout s = .next t ∧ t.phase = .dark ∧ VolatileLost s t ∧ OutputsOpen t ∧
        t.stage = .overLockout ∧ t.latchedCause = s.latchedCause) ∧
      (∃ t : State, exec .overCurrentTrip s = .next t ∧ t.phase = .dark ∧ VolatileLost s t ∧ OutputsOpen t ∧
        t.stage = .tripped ∧ t.latchedCause = if s.tripLatch then s.latchedCause else 3)) ∧
    (∀ x ∈ [(Instr.undervoltageStop, Stage.underLockout, Stage.trippedUnder),
        (.overvoltageLockout, .overLockout, .trippedOver)],
      (s.stage = .off → exec x.1 s = .next { s with stage := x.2.1 }) ∧
      (s.stage = .tripped → exec x.1 s = .next { s with stage := x.2.2 })) ∧
    (s.phase ≠ .dark → ∀ d : Die,
      ∃ t : State, exec (.dieTrip d) s = .next t ∧ t.phase = .dark ∧ VolatileLost s t ∧ OutputsOpen t ∧
        t.tripLatch = true ∧ t.pins.thermTripN = .low ∧ t.stage = s.stage ∧
        t.latchedCause = if s.tripLatch then s.latchedCause else 1)

/-- The dying gasp goes out before power or reset takes the module away, in FULL freeze as well (R416, R515, R524,
R532; that FULL freeze does not hold it back is the model's reading, log entry 139): cause 3 for the end of `PWR_EN` or
an undervoltage, 2 for reset, 1 for a die's trip, on every port that carries flits. -/
def Obligations.DyingGaspGoesFirst : Prop :=
  ∀ s : State, s.phase = .up ∨ s.phase = .fullFreeze →
    (s.pins.pwrEn = true → ∃ t : State, exec .pwrEnDeassert s = .next t ∧ Gasped s t 3) ∧
    (s.stage = .running → ∃ t : State, exec .undervoltageStop s = .next t ∧ Gasped s t 3) ∧
    (∃ t : State, exec .resetNAssert s = .next t ∧ Gasped s t 2) ∧
    (∀ d : Die, ∃ t : State, exec (.dieTrip d) s = .next t ∧ Gasped s t 1)

/-- `RESET_N` holds every island in reset and ends a freeze; its release starts bring-up from the values of R468,
with the current copy of every program that passes its checks. Without `REFCLK` the module stays in reset; without a
firmware it enters recovery with `FAULT_N` low (R528, R532, R534, R535). -/
def Obligations.ResetAndRelease : Prop :=
  ∀ s : State,
    (s.phase = .up ∨ s.phase = .fullFreeze →
      ∃ t : State, exec .resetNAssert s = .next t ∧ t.phase = .inReset ∧ t.pins.resetN = false ∧ VolatileLost s t ∧
        OutputsOpen t ∧ t.freeze.st = .run ∧ t.stage = s.stage) ∧
    (s.phase = .inReset → ∀ b : BootChecks, b.refclk = true → b.a.vendorKeyOk = true → b.a.badCurrent = [] →
      ∃ t : State, exec (.resetNRelease b) s = .next t ∧ t.phase = .up ∧ t.bringup = .running ∧ t.pins.resetN = true ∧
        t.pins.pwrGood = .high ∧ t.pins.presentN = .low ∧ t.uptime = 0 ∧ t.gc = GcState.initial ∧ t.plan = none ∧
        t.step.status = .idle ∧ ∀ k : Kind, t.running[k] = s.nv.programs[k].current) ∧
    (s.phase = .inReset → ∀ b : BootChecks, b.refclk = true →
      b.a.vendorKeyOk = false ∨ (0 ∈ b.a.badCurrent ∧ 0 ∈ b.a.badPrevious) →
      ∃ t : State, exec (.resetNRelease b) s = .next t ∧ t.phase = .up ∧ t.bringup = .recovery ∧ t.pins.faultN = .low ∧
        ∃ e ∈ t.log.recs, e.code = 0x7204) ∧
    (s.phase = .inReset → ∀ b : BootChecks, b.refclk = false →
      exec (.resetNRelease b) s = .next { s with pins := { s.pins with resetN := true } })

/-- Bring-up ends (R342, R348, R351, R527, R530, R531, R536, R537, R541, R542), in its time. With every stack in service
and passed it is READY with its time in ms, memory cleared, no poison, every listed repair hard, and the eyes of its
scan shown, a `FREEZE_N` held low freezing it at once; a core that fails its self-test moves its logical core to the
die's spare with event 0x2601, and a failed spare is lost with 0x2506. It is FAILED with its cause and `FAULT_N` low: 1
where stacks are off, fail their scan or cannot be repaired, each with event 0x2602, the repairs of those that can be
hard, 2 where a core fails and its die has no spare, 4 where the clearing of memory fails, with event 0x2603, and 5 at
the limit of 1,000 ms, after which no bring-up ends otherwise. The details of 0x2601 (physical, logical, spare) and
0x2602 are the model's choice (log entry 17). -/
def Obligations.BringUpEnds : Prop :=
  ∀ s : State, s.Inv → s.phase = .up → s.bringup = .running →
    (∀ (sc : Vector StackScan 8) (un : List Stack) (cf : Option (BitVec 48)) (l : List Phys) (ms : Nat), ms ≤ 1000 →
      s.uptime ≤ 1000000000 →
      ((∀ h : Stack, s.thermal[h] ≠ .trip ∧ StackScan.passes sc[h] = true) → un = [] →
        (cf = none → l = [] →
          ∃ t : State, exec (.bringupComplete ⟨sc, un, cf, l, ms⟩) s = .next t ∧ t.bringup = .ready ∧
            t.obj 0x2010 2 = ms ∧ t.mem = [] ∧ t.poison = [] ∧ (∀ e ∈ t.nv.repairs, e.2 = true) ∧
            t.coreMap = s.coreMap ∧
            t.marginResult = (indices 8).flatMap (fun h => (indices 256).flatMap (fun i =>
              let e := StackScan.lane sc[h] i
              [e.readWidth, e.readHeight, e.writeWidth, e.writeHeight])) ∧
            (s.pins.freezeN = true → t.freeze = s.freeze) ∧
            (s.pins.freezeN = false → s.freeze.st = .run → t.freeze.st = .pending ∧ t.freeze.byPin = true)) ∧
        (∀ (p : Phys) (c : Core), cf = none → l = [p] → s.logicalOf p.val = some c → s.sparing = [] →
          (∀ sp, s.spares[p.val / 13]? = some (some sp) →
            ∃ t : State, exec (.bringupComplete ⟨sc, un, cf, l, ms⟩) s = .next t ∧ t.bringup = .ready ∧
              t.coreMap = s.coreMap.set c sp ∧ t.island p.val = .failed ∧ t.island sp.val = .run ∧
              Logged s t 0x2601 p.val (toLe 1 p.val ++ toLe 1 c.val ++ toLe 1 sp.val)) ∧
          (s.spares[p.val / 13]? = some none →
            ∃ t : State, exec (.bringupComplete ⟨sc, un, cf, l, ms⟩) s = .next t ∧ t.bringup = .failed ∧
              t.obj 0x2010 1 = 2 ∧ t.pins.faultN = .low ∧ t.island p.val = .failed)) ∧
        (∀ p : Phys, cf = none → l = [p] → s.logicalOf p.val = none →
          ∃ t : State, exec (.bringupComplete ⟨sc, un, cf, l, ms⟩) s = .next t ∧ t.bringup = .ready ∧
            t.coreMap = s.coreMap ∧ t.spares[p.val / 13]? = some none ∧ t.island p.val = .failed ∧
            Logged s t 0x2506 p.val (toLe 1 p.val)) ∧
        (∀ a, cf = some a →
          ∃ t : State, exec (.bringupComplete ⟨sc, un, cf, l, ms⟩) s = .next t ∧ t.bringup = .failed ∧
            t.obj 0x2010 1 = 4 ∧ t.pins.faultN = .low ∧ Logged s t 0x2603 s.mgmtIsland (toLe 6 a.toNat))) ∧
      (∀ h : Stack, s.thermal[h] = .trip ∨ StackScan.passes sc[h] = false ∨ h ∈ un →
        ∃ t : State, exec (.bringupComplete ⟨sc, un, cf, l, ms⟩) s = .next t ∧ t.bringup = .failed ∧
          t.obj 0x2010 1 = 1 ∧ t.pins.faultN = .low ∧ Noted t 0x2602 (0x40 + h.val) (toLe 1 h.val) ∧
          t.nv.repairs = s.nv.repairs.map (fun e => (e.1, e.2 || !un.any (fun h => rowStack e.1 = h.val))))) ∧
    (∀ b : BringupResult, 1000 < b.ms ∨ 1000000000 < s.uptime → exec (.bringupComplete b) s = .next s) ∧
    (1000000000 ≤ s.uptime →
      ∃ t : State, exec .bringupTimeout s = .next t ∧ t.bringup = .failed ∧ t.obj 0x2010 1 = 5 ∧ t.pins.faultN = .low)

/-! ### Warnings and temperature -/

/-- Warnings are logged and change nothing else (R522, R523, R524, R526). An input voltage outside its range while the
first stage runs logs event 0x5201, an input power too high 0x5202 and a die above its warning 0x5204 with the die,
each where none was logged within the last second; within it the command changes nothing at all. A coolant inlet too
warm logs event 0x5203. A pulse ignored on a discrete input is counted, for `SYNC_IN` once bring-up is READY, and logs
event 0x6601 with its input where none was logged within the last second; within it only the count changes. While
reset is held a pulse ignored on `RESET_N` is counted.
Completes: `inputVoltageOutOfRange`, `inputPowerHigh`, `coolantInletHigh`,
`dieTempWarning`, `discreteInputIgnored`. -/
def Obligations.WarningsAreLogged : Prop :=
  (∀ s : State, s.phase = .inReset → exec (.discreteInputIgnored 1) s = .next (s.addObj 0x2012 1 1)) ∧
  ∀ s : State, s.Inv → s.phase = .up →
    (s.stage = .running → s.limitPast 0x5201 0 1000000000 →
      ∃ t : State, exec .inputVoltageOutOfRange s = .next t ∧ Logged s t 0x5201 s.mgmtIsland [] ∧ OnlyLogs s t) ∧
    (s.stage = .running → ¬ s.limitPast 0x5201 0 1000000000 → exec .inputVoltageOutOfRange s = .next s) ∧
    (s.limitPast 0x5202 0 1000000000 →
      ∃ t : State, exec .inputPowerHigh s = .next t ∧ Logged s t 0x5202 s.mgmtIsland [] ∧ OnlyLogs s t) ∧
    (¬ s.limitPast 0x5202 0 1000000000 → exec .inputPowerHigh s = .next s) ∧
    (∃ t : State, exec .coolantInletHigh s = .next t ∧ Logged s t 0x5203 s.mgmtIsland [] ∧ OnlyLogs s t) ∧
    (∀ d : Die,
      (s.limitPast 0x5204 d.val 1000000000 →
        ∃ t : State, exec (.dieTempWarning d) s = .next t ∧ Logged s t 0x5204 s.mgmtIsland (toLe 1 d.val) ∧
          OnlyLogs s t) ∧
      (¬ s.limitPast 0x5204 d.val 1000000000 → exec (.dieTempWarning d) s = .next s)) ∧
    (∀ i : Fin 3, (i = 2 → s.bringup = .ready) →
      (s.limitPast 0x6601 i.val 1000000000 →
        ∃ t : State, exec (.discreteInputIgnored i) s = .next t ∧
          t.obj 0x2012 i.val = min 0xFFFFFFFF (s.obj 0x2012 i.val + 1) ∧
          Logged s t 0x6601 s.mgmtIsland (toLe 1 i.val) ∧ OnlyLogs (s.addObj 0x2012 i.val 1) t) ∧
      (¬ s.limitPast 0x6601 i.val 1000000000 →
        exec (.discreteInputIgnored i) s = .next (s.addObj 0x2012 i.val 1)))

/-- The reading of a stack's temperature (R344, R345): below its thresholds a NORMAL stack only shows it; from WARM's
threshold refresh is doubled with event 0x5101; from HOT's, a WARM stack holds the launch, and the hold waits to be
sent; below HOT less the hysteresis a HOT stack is WARM with event 0x5104, and below WARM less it NORMAL with 0x5102. Once the
stages and the agreement's hop levels noted have ended, the hold is sent with event 0x5103: it is counted in
`THERM_HOLDS`, the largest shift asked for its launch stands, and a `HOLD` with that launch and the shift asked for
floods every UP port. -/
def Obligations.TemperatureMovesAStack : Prop :=
  (∀ (s : State) (x : HoldWait) (rest : List HoldWait), s.Inv → s.holdDue = x :: rest → s.awake = true →
    (x.stages.all s.stageOver = true → x.rounds.all s.roundOver = true →
      ∃ t : State, exec .holdSend s = .next t ∧ t.holdDue = rest ∧ t.step = s.step ∧ t.mem = s.mem ∧
        lookupKey s.holdStep t.holds = some (max (s.obj 0x2704 0) ((lookupKey s.holdStep s.holds).getD 0)) ∧
        Logged s t 0x5103 (0x40 + x.stack.val) (toLe 1 x.stack.val) ∧
        t.obj 0x303B 0 = min (2 ^ 32 - 1) (s.obj 0x303B 0 + 1) ∧
        FloodedOn s t none 0x08 (s.floodBytes (toLe 8 s.holdStep ++ toLe 8 (s.obj 0x2704 0)))) ∧
    (x.stages.all s.stageOver = false ∨ x.rounds.all s.roundOver = false → exec .holdSend s = .next s)) ∧
  ∀ (s : State) (h : Stack) (w : F32), s.phase = .up → (decodeF32 w).isNan = false →
    let v := decodeF32 w
    let limit (i : Nat) : Val := decodeF32 (BitVec.ofNat 32 (s.obj 0x2702 i))
    (s.thermal[h] = .normal → v.lt (limit 0) = true →
      exec (.hbmTempReading h w) s = .next { s with temps := s.temps.set h w }) ∧
    (s.thermal[h] = .normal → v.lt (limit 0) = false → v.lt (limit 1) = true →
      v.lt ((limit 0).sub (limit 2)) = false →
      ∃ t : State, exec (.hbmTempReading h w) s = .next t ∧ t.thermal = s.thermal.set h .doubled ∧
        t.temps = s.temps.set h w ∧ Logged s t 0x5101 (0x40 + h.val) (toLe 1 h.val)) ∧
    (s.thermal[h] = .doubled → v.lt (limit 1) = false → v.lt ((limit 1).sub (limit 2)) = false → s.awake = true →
      ∃ t : State, exec (.hbmTempReading h w) s = .next t ∧ t.thermal = s.thermal.set h .hold ∧
        t.temps = s.temps.set h w ∧ ∃ x : HoldWait, x.stack = h ∧ t.holdDue = s.holdDue ++ [x]) ∧
    (s.thermal[h] = .hold → v.lt ((limit 1).sub (limit 2)) = true → v.lt ((limit 0).sub (limit 2)) = false →
      ∃ t : State, exec (.hbmTempReading h w) s = .next t ∧ t.thermal[h] = .doubled ∧
        Logged s t 0x5104 (0x40 + h.val) (toLe 1 h.val)) ∧
    (s.thermal[h] = .doubled → v.lt (limit 1) = true → v.lt ((limit 0).sub (limit 2)) = true →
      ∃ t : State, exec (.hbmTempReading h w) s = .next t ∧ t.thermal[h] = .normal ∧
        Logged s t 0x5102 (0x40 + h.val) (toLe 1 h.val))

/-- The trip of a stack (R347, R524): it is shut down and fenced, the step aborts with cause 0x5105, the module gasps
and declares itself lost, and the latch drives `THERM_TRIP_N` low. In FULL freeze the stack is shut down, the latch set,
the gasp sent and `FAULT_N` low as well, while nothing is logged and the step stands as it was frozen (the model's
reading of R509, R514 and R515, log entries 139 and 170). In reset the stack is off and the latch set. That the cause
kept is 2 unless the latch stands already is the model's reading (log entry 61), and so is that management stays up
(log entry 60). -/
def Obligations.StackTripStopsTheStep : Prop :=
  ∀ (s : State) (h : Stack), s.thermal[h] ≠ .trip →
    let latched := if s.tripLatch then s.latchedCause else 2
    (s.phase = .fullFreeze →
      ∃ t : State, exec (.stackTrip h) s = .next t ∧ t.thermal = s.thermal.set h .trip ∧ t.island (0x40 + h.val) = .fenced ∧
        t.moduleLost = true ∧ t.pins.faultN = .low ∧ t.tripLatch = true ∧ t.phase = .fullFreeze ∧ t.step = s.step ∧
        t.log = s.log ∧ t.latchedCause = latched ∧ Gasped s t 1) ∧
    (s.phase = .inReset →
      ∃ t : State, exec (.stackTrip h) s = .next t ∧ t.thermal = s.thermal.set h .trip ∧ t.tripLatch = true ∧
        t.latchedCause = latched ∧ (s.tripLatch = false → t.pins.thermTripN = .low) ∧
        t = { s with thermal := t.thermal, tripLatch := t.tripLatch, latchedCause := t.latchedCause, pins := t.pins }) ∧
    (s.phase = .up → s.moduleLost = false →
    ∃ t : State, exec (.stackTrip h) s = .next t ∧ t.thermal = s.thermal.set h .trip ∧ t.island (0x40 + h.val) = .fenced ∧
      t.moduleLost = true ∧ t.pins.faultN = .low ∧ t.tripLatch = true ∧ t.latchedCause = latched ∧
      (s.tripLatch = false → t.pins.thermTripN = .low) ∧
      (s.stepLive = true → t.step.status = .aborted ∧ t.step.causes = s.step.causes ++ [0x5105]) ∧
      (∀ p : Port, s.ports[p].st.isUp = true → Sent t p 0x0C 1) ∧
      (∃ e ∈ t.log.recs, e.code = 0x5105 ∧ e.island = 0x40 + h.val))

/-! ### Memory scrubs and margins -/

/-- A scrub pass (R338 to R342): a clean word changes nothing; a corrected one is counted for its stack or die; an
uncorrectable one is poisoned with event 0x2302 and, in HBM, its row listed for repair unless it is known to be beyond
repair, but in a cache segment the line is fetched again with event 0x1301, so that the cache holds what it held. -/
def Obligations.ScrubsCorrectOrPoison : Prop :=
  ∀ (s : State) (a : Nat), s.Inv → s.awake = true →
    (a < 0x6000000000 →
      exec (.hbmScrub a .clean) s = .next s ∧
      (∃ t : State, exec (.hbmScrub a .correctable) s = .next t ∧
        t.obj 0x3035 (hbmDecode a).1 = min (2 ^ 64 - 1) (s.obj 0x3035 (hbmDecode a).1 + 1) ∧
        t.mem = s.mem ∧ t.poison = s.poison ∧
        (s.obj 0x2706 0 ≤ (lookupKey (hbmRow a) s.rowErrors).getD 0 + 1 →
          hbmRow a ∉ s.badRows → hbmRow a ∈ t.faultyRows)) ∧
      (∃ t : State, exec (.hbmScrub a .uncorrectable) s = .next t ∧ (a / 32 * 32) ∈ t.poison ∧
        (hbmRow a ∉ s.badRows → hbmRow a ∈ t.faultyRows) ∧
        Logged s t 0x2302 (memIsland a) (memDetail (a / 32 * 32)))) ∧
    (0x10000000000 ≤ a → a < 0x10180000000 →
      exec (.sramScrub a .clean) s = .next s ∧
      (∃ t : State, exec (.sramScrub a .correctable) s = .next t ∧
        t.obj 0x3038 (sramDie a) = min (2 ^ 64 - 1) (s.obj 0x3038 (sramDie a) + 1) ∧ t.mem = s.mem) ∧
      (s.inCacheSegment a = false →
        ∃ t : State, exec (.sramScrub a .uncorrectable) s = .next t ∧ (a / 4 * 4) ∈ t.poison ∧
          Logged s t 0x2302 (memIsland a) (memDetail (a / 4 * 4))) ∧
      (s.inCacheSegment a = true →
        ∃ t : State, exec (.sramScrub a .uncorrectable) s = .next t ∧ t.poison = s.poison ∧ t.caches = s.caches ∧
          t.mem = s.mem ∧ Logged s t 0x1301 (0x74 + sramDie a) (toLe 1 (sramDie a) ++ toLe 6 a)))

/-- Probes, scans and readings (R348 to R350, R385, R484): a probe with errors on one side moves the strobe one step
away from it and counts it, and with both or none moves nothing; a scan's end shows the eyes of the lanes of the stacks
scanned, the others' as they were, and 2 or 3 for pass or fail, and sets each lane scanned to its eye's centre; a laser's class changes at the second
reading of the new one, a fall to DARK with event 0x6201 and a fall to LOW with 0x6203 after it, while the other input
of its group carries it; a refresh shows the readings it is given. -/
def Obligations.ProbesAndReadings : Prop :=
  ∀ s : State, s.Inv →
    (s.awake = true → ∀ (h : Stack) (pc : Fin 64), s.thermal[h] ≠ .trip →
      (∀ low : Bool, ∃ t : State, exec (.marginDriftProbe h pc low !low) s = .next t ∧
        lookupKey (h.val * 64 + pc.val) t.strobes =
          some ((lookupKey (h.val * 64 + pc.val) s.strobes).getD 0 + (if low then 1 else -1)) ∧
        t.obj 0x303C h.val = min (2 ^ 32 - 1) (s.obj 0x303C h.val + 1)) ∧
      (∀ both : Bool, exec (.marginDriftProbe h pc both both) s = .next s)) ∧
    (s.awake = true → s.marginScan ≠ [] → s.marginResult.length = 8192 → ∀ sc : Vector StackScan 8,
      let eye (h : Stack) (i : Fin 256) : LaneEye := StackScan.lane sc[h] i
      ∃ t : State, exec (.marginScanDone sc) s = .next t ∧ t.marginScan = [] ∧ t.marginResult.length = 8192 ∧
        (∀ h ∈ s.marginScan, ∀ i : Fin 256,
          slice t.marginResult (1024 * h.val + 4 * i.val) 4 =
            [(eye h i).readWidth, (eye h i).readHeight, (eye h i).writeWidth, (eye h i).writeHeight] ∧
          lookupKey (256 * h.val + i.val) t.laneSets = some
            [(eye h i).readDelay.toNat, (eye h i).readVref.toNat, (eye h i).writeDelay.toNat, (eye h i).writeVref.toNat]) ∧
        (∀ h : Stack, h ∉ s.marginScan →
          slice t.marginResult (1024 * h.val) 1024 = slice s.marginResult (1024 * h.val) 1024 ∧
          ∀ i : Fin 256, lookupKey (256 * h.val + i.val) t.laneSets = lookupKey (256 * h.val + i.val) s.laneSets) ∧
        t.mem = s.mem ∧ t.step = s.step ∧
        t.obj 0x2708 1 = if s.marginScan.all (fun h => (indices 256).all (fun i =>
          decide (24 ≤ (eye h i).readWidth.toNat ∧ 16 ≤ (eye h i).readHeight.toNat ∧
            24 ≤ (eye h i).writeWidth.toNat ∧ 16 ≤ (eye h i).writeHeight.toNat))) then 2 else 3) ∧
    (s.phase = .up → ∀ (i : Fin 8) (w : F32),
      (laserClass w ≠ s.lasers[i].cls → laserClass w ≠ s.lasers[i].cand →
        exec (.laserInputMeasure i w) s =
          .next { s with lasers := s.lasers.set i ⟨s.lasers[i].cls, laserClass w, w⟩ }) ∧
      (laserClass w = .lit →
        exec (.laserInputMeasure i w) s =
          .next { s with lasers := s.lasers.set i ⟨if s.lasers[i].cand = .lit then .lit else s.lasers[i].cls, .lit, w⟩ }) ∧
      (s.lasers[i].cls = .lit → s.lasers[i].cand = .dark → laserClass w = .dark →
        0 < ({ s with lasers := s.lasers.set i ⟨.dark, .dark, w⟩ }).groupLit ⟨i.val / 2, by omega⟩ →
        ∃ t : State, exec (.laserInputMeasure i w) s = .next t ∧ t.lasers = s.lasers.set i ⟨.dark, .dark, w⟩ ∧
          Logged s t 0x6201 s.mgmtIsland (toLe 1 i.val)) ∧
      (s.lasers[i].cls = .lit → s.lasers[i].cand = .low → laserClass w = .low →
        0 < ({ s with lasers := s.lasers.set i ⟨.low, .low, w⟩ }).groupLit ⟨i.val / 2, by omega⟩ →
        ∃ t : State, exec (.laserInputMeasure i w) s = .next t ∧ t.lasers = s.lasers.set i ⟨.low, .low, w⟩ ∧
          Logged s t 0x6201 s.mgmtIsland (toLe 1 i.val) ∧ Noted t 0x6203 s.mgmtIsland (toLe 1 i.val))) ∧
    (s.phase = .up → ∀ r : Telemetry, ∃ t : State, exec (.telemetryRefresh r) s = .next t ∧
      t = { s with telemetry := t.telemetry } ∧
      lookupKey (objKey 0x3100 0) t.telemetry = some r.inputV.toNat ∧
      lookupKey (objKey 0x3102 0) t.telemetry = some r.coolantIn.toNat)

/-! ### Islands, spares and the management islands -/

/-- Islands that fail or take over (R17, R25, R409, R410, R501, R519, R538): a spare that fails its self-test is lost with
event 0x2506, but not while a copy fills it; a port whose clock is lost fails, the step aborts, and `LOSS` naming its
link floods every other UP port; management B takes over from A, which is fenced, with event 0x2502, also when A's clock
is lost; a lost memory controller's clock aborts the step and the module is lost; and B, updated, stands by again. The
model's readings: with both management islands silent the ports gasp and the module is lost (log entry 106), and the
detail of 0x2101 is the island (log entry 17). -/
def Obligations.IslandsFailAndTakeOver : Prop :=
  ∀ s : State, s.Inv →
    (∀ (d : CDie) (sp : Phys), s.awake = true → s.bringup = .ready → s.spares[d] = some sp →
      exec (.spareSelfTest d true) s = .next s ∧
      ((∀ x ∈ s.sparing, x.spare ≠ sp) →
        ∃ t : State, exec (.spareSelfTest d false) s = .next t ∧ t.spares = s.spares.set d none ∧
          t.island sp.val = .failed ∧ t.coreMap = s.coreMap ∧ Logged s t 0x2506 sp.val (toLe 1 sp.val)) ∧
      ((∃ x ∈ s.sparing, x.spare = sp ∧ x.startGc.isSome = true ∧ x.copied = false) →
        exec (.spareSelfTest d false) s = .next s)) ∧
    (s.phase = .up → s.canTakeOver = true →
      ∃ t : State, exec .mgmtTakeover s = .next t ∧ t.mgmt.active = .b ∧ t.island 0x78 = .fenced ∧ t.obj 0x5032 1 = 2 ∧
        Logged s t 0x2502 0x79 []) ∧
    (s.phase = .up → s.island 0x78 = .run → s.canTakeOver = true →
      ∃ t : State, exec (.pllLockLost 0x78) s = .next t ∧ t.mgmt.active = .b ∧ t.island 0x78 = .fenced) ∧
    (s.phase = .up → ∀ h : Stack, s.island (0x40 + h.val) = .run →
      ∃ t : State, exec (.pllLockLost (BitVec.ofNat 8 (0x40 + h.val))) s = .next t ∧ t.island (0x40 + h.val) = .failed ∧
        t.moduleLost = true ∧ (s.stepLive = true → t.step.status = .aborted) ∧
        Logged s t 0x2101 (0x40 + h.val) [BitVec.ofNat 8 (0x40 + h.val)]) ∧
    (s.phase = .up → s.mgmt.silent = false → s.moduleLost = false →
      ∃ t : State, exec .mgmtBothSilent s = .next t ∧ t.mgmt.silent = true ∧ t.moduleLost = true ∧
        ∀ p : Port, s.ports[p].st.isUp = true → Sent t p 0x0C 1) ∧
    (s.awake = true → ∀ p : Port, s.island (0x50 + p.val) = .run → s.ports[p].st.isUp = true →
      ∃ t : State, exec (.pllLockLost (BitVec.ofNat 8 (0x50 + p.val))) s = .next t ∧ t.island (0x50 + p.val) = .failed ∧
        t.ports[p].st = .failed ∧ (s.stepLive = true → t.step.status = .aborted) ∧
        FloodedOn s t (some p) 0x0B (s.floodBytes (s.lossBytes p 1))) ∧
    (s.phase = .up → s.obj 0x5032 1 = 1 →
      ∃ t : State, exec .standbyReady s = .next t ∧ t = { s with od := t.od } ∧ t.obj 0x5032 1 = 0)

/-! ### Freezes and the test access port -/

/-- `FREEZE_N` (R510, R511, R513, R527): its assertion sets a freeze 1,000 ticks ahead, at the depth selected; at its
count a CAPTURE freeze stops the module with event 0x6501 and shows its count, and a FULL one stops every clock; a
CAPTURE that has not completed 10 ms after its trigger becomes FULL; and the pin's release ends a CAPTURE that it
triggered, the step in progress aborting with event 0x4B02, and a sparing copy goes on from where it stopped. -/
def Obligations.FreezesStopAndRelease : Prop :=
  ∀ s : State, s.Inv → s.phase = .up →
    (s.bringup = .ready → s.freeze.st = .run →
      ∃ t : State, exec .freezeNAssert s = .next t ∧ t.pins.freezeN = false ∧
        t.freeze = ⟨.pending, s.gc.value + 1000, decide (s.obj 0x3F00 4 = 2), true, 0, s.uptime, 0⟩ ∧
        t.obj 0x3F00 6 = 1) ∧
    (s.freeze.st = .pending → s.freeze.count ≤ s.gc.value → s.freeze.full = false →
      ∃ t : State, exec .freezeCountReached s = .next t ∧
        t.freeze = { s.freeze with st := .capture, stopGc := s.gc.value, draw := s.freeCount } ∧
        t.awake = false ∧ t.obj 0x3F00 5 = s.freeze.count ∧
        (∃ e ∈ t.log.recs, e.code = 0x6501) ∧ t.mem = s.mem ∧ t.step = s.step) ∧
    (s.freeze.st = .pending → s.freeze.count ≤ s.gc.value → s.freeze.full = true →
      ∃ t : State, exec .freezeCountReached s = .next t ∧ t.phase = .fullFreeze ∧ t.freeze.st = .full ∧ t.mem = s.mem) ∧
    (s.freeze.st = .pending → s.freeze.full = false → s.freeze.triggerUptime + 10000000 ≤ s.uptime →
      ∃ t : State, exec .captureTimeout s = .next t ∧ t.phase = .fullFreeze ∧ t.freeze.st = .full ∧ t.freeze.full = true ∧
        t.mem = s.mem) ∧
    (s.freeze.st = .capture → s.freeze.byPin = true →
      ∃ t : State, exec .freezeNDeassert s = .next t ∧ t.pins.freezeN = true ∧ t.freeze.st = .run ∧
        t.sparing = s.sparing.map (fun (x : Sparing) => { x with startGc := x.startGc.map (fun g =>
          if g ≤ s.freeze.stopGc then g + (s.gc.value - s.freeze.stopGc) else s.gc.value) }) ∧
        (s.stepLive = true → t.step.status = .aborted ∧ t.step.causes = s.step.causes ++ [0x4B02])) ∧
    (s.freeze.st = .capture → s.freeze.byPin = false →
      exec .freezeNDeassert s = .next { s with pins := { s.pins with freezeN := true } })

/-- The test access port (R514) works in every powered state: its controller's reset selects IDCODE (the model's
choice, log entry 7), IDCODE shifts out `IDCODE`, every other instruction bypasses with a 0 (log entry 7), and the
network shifts out zeros outside FULL; in FULL the word of a bonded SRAM without error with a zero syndrome. Nothing
but the port's own state and what it shifts out changes. -/
def Obligations.TestAccessPort : Prop :=
  ∀ s : State, s.phase ≠ .dark →
    exec .tapReset s = .next { s with tap := ⟨0x01⟩ } ∧
    exec .tapIdcode s = .next { s with tap := ⟨0x01⟩, out := s.out ++ [.tdo (s.obj 0x3F02 0)] } ∧
    (∀ ir : BitVec 8, ir ≠ 0x01 → ir ≠ 0x24 →
      exec (.tapBypass ir) s = .next { s with tap := ⟨ir⟩, out := s.out ++ [.tdo 0] }) ∧
    (s.phase ≠ .fullFreeze → ∀ x,
      exec (.tapIjtag x) s = .next { s with tap := ⟨0x24⟩, out := s.out ++ [.tdo 0] }) ∧
    (s.phase = .fullFreeze → ∀ (d : CDie) (k : Nat), k < 0x18000000 →
      let a := dieBase d.val + 4 * k
      s.poisoned a 4 = false →
      exec (.tapIjtag (.memory d (BitVec.ofNat 48 a))) s =
        .next { s with tap := ⟨0x24⟩, out := s.out ++ [.tdo (leNat (s.bytes a 4))] })

/-! ### Time -/

/-- The global counter (R434, R435, R437, R438): a module without a sample for 1 ms holds over with event 0x6301, and
beyond 1 s is unlocked with 0x6302; `SYNC_IN` latches the counter, and in mode 2 steers the root to the nearest
multiple of 1,000,000 ticks, but a second pulse within 1 ms is only counted; and the root of a higher domain jumps
once, before the first launch, by its bridge's offset rounded to 1,000,000 ticks. With an empty queue a step is one
tick of 1 ns (the model's choice, log entry 2): the counter, not steered, rises by one modulo 2^64, the time since
reset by one, and nothing else changes, but for a SWAP message under way, which repeats; a module that is dark, in reset
or frozen to FULL stands still. -/
def Obligations.TheCounterKeepsTime : Prop :=
  (∀ s : State, s.Inv →
     (s.awake = true → s.gc.st = .locked → s.isRoot = false → s.gc.lastSample + 1000000 ≤ s.gc.value →
       ∃ t : State, exec .gcHoldover s = .next t ∧ t.gc.st = .holdover ∧ t.gc.holdoverSince = s.gc.value ∧
         t.gc.value = s.gc.value ∧ t.gc.steer = 0 ∧ Logged s t 0x6301 s.mgmtIsland []) ∧
     (s.awake = true → s.gc.st = .holdover → s.gc.holdoverSince + 1000000000 < s.gc.value →
       ∃ t : State, exec .gcUnlocked s = .next t ∧ t.gc = { s.gc with st := .unlocked } ∧ Logged s t 0x6302 s.mgmtIsland []) ∧
     (s.phase = .up → s.bringup = .ready → s.obj 0x2A03 1 ≠ 0 →
       (∀ u, s.syncSeenAt = some u → u + 1000000 ≤ s.uptime) →
       ∃ t : State, exec .syncInPulse s = .next t ∧ t.obj 0x2A03 2 = s.gc.value ∧ t.syncSeenAt = some s.uptime ∧
         t.gc.value = s.gc.value ∧
         (s.obj 0x2A03 1 = 2 → s.isRoot = true → ((s.gc.fine : Int) + t.gc.steer) % 16000000 = 0 ∧
           -8000000 ≤ t.gc.steer ∧ t.gc.steer ≤ 8000000) ∧
         (s.obj 0x2A03 1 = 1 → t.gc = s.gc)) ∧
     (s.phase = .up → s.bringup = .ready → s.obj 0x2A03 1 ≠ 0 →
       (∃ u, s.syncSeenAt = some u ∧ s.uptime < u + 1000000) →
       ∃ t : State, exec .syncInPulse s = .next t ∧ t.gc = s.gc ∧ t.obj 0x2012 2 = min 0xFFFFFFFF (s.obj 0x2012 2 + 1)) ∧
     (∀ (p : Port) (pl : Plan), s.awake = true → s.planNext = some pl → s.step.launched = false →
       s.mustAlign pl = true → s.isRoot = true → s.ports[p].st.isUp = true → s.isBridge p = true →
       nodeDomain s.ports[p].peerNode = pl.lowestDomain →
       ∃ t : State, exec (.gcDomainAlign p) s = .next t ∧ t = { s with gc := t.gc } ∧ t.gc.aligned = true ∧
         (t.gc.fine : Int) = (s.gc.fine + (s.ports[p].offset + 8000000) / 16000000 * 16000000) % 2 ^ 68)) ∧
  (∀ s : State, s.pending = [] →
     ∃ t, step s = .next t ∧ t = { s with uptime := t.uptime, gc := t.gc, out := t.out } ∧
       ((∀ p : Port, s.ports[p].rx.swap = none) → t.out = s.out) ∧
       (s.phase ≠ .up → t = s) ∧
       (s.phase = .up → t.uptime = s.uptime + 1 ∧
         (s.gc.steer = 0 → s.gc.frac < 16 → s.gc.value < 2 ^ 64 →
           t.gc.value = (s.gc.value + 1) % 2 ^ 64 ∧ t.gc.frac = s.gc.frac ∧ t.gc.steer = 0)))

/-! ### Lanes and ports -/

/-- Lanes of a port (R391 to R393): a lane that loses lock, or whose corrected symbols or uncorrectable blocks of the
last hour reach a limit, is swapped for the spare 128 blocks ahead, and the peer is told, again every 64 ns on the spare
lane; from that block on it moves, its old lane under test, and the receiving end counts it with event 0x6103 and its
cause, the port staying up as it was; without a spare the port fails with event 0x2402; and a lane that passes its test
is the spare again with event 0x1502, else it is marked failed with 0x2401. The model's readings: the argument of the
SWAP message (log entry 22), the receiving end as the one that counts (log entry 96), and the number of a block (log
entry 155). -/
def Obligations.LanesSwapAndFail : Prop :=
  ∀ (s : State) (p : Port), s.Inv → s.awake = true → s.ports[p].st.isUp = true →
    let b := (s.ports[p].blockNo s.uptime + 128) % 2 ^ 32
    (∀ (lane : Fin 8) (sp : Nat), s.ports[p].rx.spare = some sp → s.ports[p].rx.swap = none →
      ∃ (t : State) (f : Flit), exec (.laneLockLost p lane) s = .next t ∧
        t.ports[p].rx.swap = some ⟨lane.val, sp, b, false, s.uptime⟩ ∧
        t.out = s.out ++ [.flit p 0x0F f] ∧ f.xinfo = swapArg lane.val sp ∧ f.payload.take 4 = toLe 4 b) ∧
    (∀ (errors : Vector (Vector Nat 8) 4) (lane : Fin 8) (sp : Nat), s.hears p = true → blockGood errors = true →
      s.ports[p].rx.spare = some sp → s.ports[p].rx.swap = none →
      let u := (s.addObj 0x3043 p.val ((indices 8).map (laneErrors errors)).sum).modPort p (fun ps =>
        (indices 8).foldl (fun ps i => ps.noteErrs i s.uptime (laneErrors errors i) 0) ps)
      (∀ i : Fin 8, u.laneWorn p i = decide (i = lane)) →
      ∃ (t : State) (f : Flit), exec (.flitCrcFail p (.block errors)) s = .next t ∧
        t.ports[p].rx.swap = some ⟨lane.val, sp, b, true, s.uptime⟩ ∧ t.out = s.out ++ [.flit p 0x0F f] ∧
        f.xinfo = swapArg lane.val sp) ∧
    (∀ (errors : Vector (Vector Nat 8) 4) (lane : Fin 8) (sp : Nat), s.hears p = true → blockGood errors = false →
      s.ports[p].rx.spare = some sp → s.ports[p].rx.swap = none →
      let u := (s.addObj 0x3044 p.val 1).modPort p (fun ps => ps.noteErrs (worstLane errors) s.uptime 0 1)
      (∀ i : Fin 8, u.laneWorn p i = decide (i = lane)) →
      ∃ (t : State) (f : Flit) (before : List Out), exec (.flitCrcFail p (.block errors)) s = .next t ∧
        t.ports[p].rx.swap = some ⟨lane.val, sp, b, true, s.uptime⟩ ∧ t.ports[p].nakSent = true ∧
        t.out = s.out ++ before ++ [.flit p 0x0F f] ∧ f.xinfo = swapArg lane.val sp) ∧
    (∀ (w : LaneSwap) (sp : Nat), s.pending = [] → s.ports[p].rx.swap = some w → s.ports[p].tx.spare = some sp →
      (s.uptime + 1 - w.since) % 64 = 0 →
      ∃ t : State, step s = .next t ∧ Out.spareLane p (swapArg w.lane w.phys) w.block ∈ t.out) ∧
    (∀ lane : Fin 8, s.ports[p].rx.spare = none →
      ∃ t : State, exec (.laneLockLost p lane) s = .next t ∧ t.ports[p].st = .failed ∧
        (s.stepLive = true → t.step.status = .aborted) ∧ ∃ e ∈ t.log.recs, e.code = 0x2402) ∧
    (∀ (d : Dir) (lane : Fin 8) (sp n u : Nat) (rate : Bool),
      (s.ports[p].lanes d).swap = some ⟨lane.val, sp, n, rate, u⟩ →
      (s.ports[p].blockNo s.uptime + 2 ^ 32 - n) % 2 ^ 32 < 2 ^ 31 →
      ∃ t : State, exec (.laneSwapAtBlock p d) s = .next t ∧ (t.ports[p].lanes d).map = (s.ports[p].lanes d).map.set lane sp ∧
        (t.ports[p].lanes d).spare = none ∧ (t.ports[p].lanes d).swap = none ∧
        (t.ports[p].lanes d).map[lane] = sp ∧ t.ports[p].st = s.ports[p].st ∧
        (t.ports[p].lanes d).testing = (s.ports[p].lanes d).testing ++ [(s.ports[p].lanes d).map[lane]] ∧
        (d = .rx → Logged s t 0x6103 (0x50 + p.val)
          (toLe 1 p.val ++ toLe 1 lane.val ++ [if rate then 2 else 1])) ∧
        (d = .tx → t = { s with ports := t.ports })) ∧
    (∀ (d : Dir) (lane : Fin 9), (s.ports[p].lanes d).testing.contains lane.val = true →
      (∃ t : State, exec (.laneRetestDone p d lane true) s = .next t ∧ (t.ports[p].lanes d).spare = some lane.val ∧
        Logged s t 0x1502 (0x50 + p.val) (toLe 1 p.val ++ toLe 1 lane.val)) ∧
      (∃ t : State, exec (.laneRetestDone p d lane false) s = .next t ∧ lane.val ∈ (t.ports[p].lanes d).failed ∧
        (t.ports[p].lanes d).spare = (s.ports[p].lanes d).spare ∧
        Logged s t 0x2401 (0x50 + p.val) (toLe 1 p.val ++ toLe 1 lane.val)))

/-- Ports come up and fall silent (R409, R411, R419): a trained port is up with fresh counters and its peer's name; a
port that hears nothing for 8,000 ticks is down with event 0x6101 and its step aborts; and a node not heard of within
20,000 ticks of a loss that names it is lost, with event 0x6106, and the agreement ends. What a port sends by itself
(R409, R434): `KEEPALIVE` with the counter, whether the module is held, and its number; `TIME` with the counter in
1/16 tick and the two times kept for the echo. Nothing but the port and what is sent changes. -/
def Obligations.PortsComeUpSpeakAndFallSilent : Prop :=
  (∀ (s : State), s.Inv → s.awake = true →
     (∀ (p : Port) (n : BitVec 16) (q : Port), s.ports[p].st = .down ∨ s.ports[p].st = .training →
       s.island (0x50 + p.val) = .run → s.groupLit (portGroup p) ≠ 0 →
       ∃ t : State, exec (.portUp p n q) s = .next t ∧ t.ports[p].st.isUp = true ∧ t.ports[p].peerNode = n ∧
         t.ports[p].peerPort = q.val ∧ t.ports[p].rxSeq = 0 ∧ t.ports[p].txSeq = 0 ∧
         (∀ v : Fin 4, t.ports[p].txCredits[v] = 256) ∧ t.obj 0x2902 p.val = q.val * 65536 + n.toNat ∧
         (∀ r : Port, r ≠ p → t.ports[r] = s.ports[r].dropOrigin p)) ∧
     (∀ p : Port, s.ports[p].st.isUp = true → s.ports[p].lastLife + 8000 ≤ s.gc.value →
       ∃ t : State, exec (.portSilence p) s = .next t ∧ t.ports[p].st = .down ∧
         (s.stepLive = true → t.step.status = .aborted) ∧ ∃ e ∈ t.log.recs, e.code = 0x6101) ∧
     (∀ (node : BitVec 16) (g : Nat), lookupKey node.toNat s.lossAt = some g → g + 20000 ≤ s.gc.value →
       s.lossOrigins.contains node.toNat = false → s.lostNodes.contains node = false →
       ∃ t : State, exec (.lossWindowExpiry node) s = .next t ∧ t.lostNodes = s.lostNodes ++ [node] ∧
         (s.stepLive = true → t.step.status = .aborted) ∧ t.agree.decided = none ∧ t.stageLock = false ∧
         ∃ e ∈ t.log.recs, e.code = 0x6106)) ∧
  (∀ (s : State) (p : Port), s.awake = true → s.ports[p].st.isUp = true →
     (∃ (t : State) (f : Flit), exec (.keepaliveSend p) s = .next t ∧ t.out = s.out ++ [.flit p 0x05 f] ∧
       t = { s with ports := t.ports, out := t.out } ∧
       f.dst = s.ports[p].peerNode ∧ f.src = s.nodeId ∧
       f.payload.take 10 = toLe 8 s.gc.value ++ [if s.isHeld then 1 else 0] ++ toLe 1 p.val) ∧
     (∃ (t : State) (f : Flit), exec (.timeFlitSend p) s = .next t ∧ t.out = s.out ++ [.flit p 0x06 f] ∧
       t = { s with ports := t.ports, out := t.out } ∧
       f.payload.take 24 = toLe 8 (s.gc.value * 16 + s.gc.frac) ++ toLe 8 ((s.ports[p].timeEcho).getD (0, 0)).1 ++
         toLe 8 ((s.ports[p].timeEcho).getD (0, 0)).2))

/-! ### Flits -/

/-- Link flits act on their own port (R388 to R390, R392, R409, R415): `IDLE` and `KEEPALIVE` are life, acknowledgement
and credits only; `FROZEN` marks the peer frozen with event 0x610A; a SWAP of `LANECTL` schedules the move of a transmit
lane, any other message does nothing; a reserved type is only counted. A flit that waits at the port leaves it as soon
as the credits that came allow, with the next number, and stays otherwise. Where a SWAP says its lane, its new lane and
its block is the model's choice (log entry 22). -/
def Obligations.LinkFlitsActOnTheirPort : Prop :=
  ∀ (s : State) (p : Port) (f : Flit), s.Inv → s.hears p = true →
    let ps : PortState := (s.ports[p].life s.gc.value).takeAck f
    let heard : State := { s with ports := s.ports.set p ps }
    (∃ t : State, exec (.frozen p f) s = .next t ∧ t.ports[p].st = .peerFrozen ∧
      Logged s t 0x610A (0x50 + p.val) (toLe 1 p.val)) ∧
    (f.xinfo.toNat / 2 ^ 24 = 1 → f.xinfo.toNat % 256 < 8 →
      ∃ t : State, exec (.lanectl p f) s = .next t ∧ OnlyPorts s t ∧
        t.ports[p].tx.swap =
          some ⟨f.xinfo.toNat % 256, f.xinfo.toNat / 256 % 256, fieldAt f.payload 0 4, false, s.uptime⟩ ∧
        t.ports[p].tx.map = s.ports[p].tx.map) ∧
    (s.ports[p].waitq = [] →
      (∀ c ∈ [Instr.idle p f, .keepalive p f], exec c s = .next heard) ∧
      (f.xinfo.toNat / 2 ^ 24 ≠ 1 → exec (.lanectl p f) s = .next heard) ∧
      (∀ ft : BitVec 8, 0x10 < ft.toNat →
        ∃ t : State, exec (.flitReservedType p ft f) s = .next t ∧ t = { heard with od := t.od } ∧
          t.obj 0x3046 2 = min (2 ^ 32 - 1) (s.obj 0x3046 2 + 1))) ∧
    (∀ (ft : BitVec 8) (g : Flit) (o : Option Port), s.ports[p].waitq = [(ft, g, o)] →
      ∀ c ∈ [Instr.idle p f, .keepalive p f],
        (ps.canSend g.vc = true →
          ∃ (t : State) (h : Flit), exec c s = .next t ∧ OnlyPorts s t ∧ t.out = s.out ++ [.flit p ft h] ∧
            h.payload = g.payload ∧ h.seq = BitVec.ofNat 16 ps.txSeq ∧ t.ports[p].waitq = []) ∧
        (ps.canSend g.vc = false → exec c s = .next heard))

/-- Retry (R386, R387, R389): 256 bytes whose CRC fails are discarded, and the expected number asked for once; bytes
that pass are no failure. The symbol errors of a block are counted: those corrected on the port; where a codeword
cannot be corrected, the block, and its flits are asked for again. A `NAK` makes the
sender send again every kept flit from the one it names on, in order, with their numbers, and counts it. A sequenced
flit out of its order is discarded whatever its type (R389): nothing but ports and what is sent changes, the port
expects the same number, and asks for it. -/
def Obligations.RetryResendsInOrder : Prop :=
  (∀ (s : State) (p : Port), s.Inv → s.hears p = true →
     (∀ raw : Bytes, (readFlit raw = none ↔ ¬ (raw.length = 256 ∧ fieldAt raw 252 4 = (crc32c (raw.take 252)).toNat)) ∧
       (readFlit raw = none → s.ports[p].nakSent = false →
         ∃ (t : State) (g : Flit), exec (.flitCrcFail p (.flit raw)) s = .next t ∧ t.out = s.out ++ [.flit p 0x0E g] ∧
           g.xinfo = BitVec.ofNat 32 s.ports[p].rxSeq ∧ t.ports[p].nakSent = true ∧
           t.ports[p].rxSeq = s.ports[p].rxSeq ∧ OnlyPorts s t) ∧
       (readFlit raw ≠ none ∨ s.ports[p].nakSent = true → exec (.flitCrcFail p (.flit raw)) s = .next s)) ∧
     (∀ errors : Vector (Vector Nat 8) 4,
       let total := ((indices 8).map (laneErrors errors)).sum
       let good := (s.addObj 0x3043 p.val total).modPort p (fun ps =>
         (indices 8).foldl (fun ps i => ps.noteErrs i s.uptime (laneErrors errors i) 0) ps)
       let bad := (s.addObj 0x3044 p.val 1).modPort p (fun ps => ps.noteErrs (worstLane errors) s.uptime 0 1)
       (blockGood errors = true → (∀ i : Fin 8, good.laneWorn p i = false) →
         exec (.flitCrcFail p (.block errors)) s = .next good ∧
         good.obj 0x3043 p.val = min (2 ^ 64 - 1) (s.obj 0x3043 p.val + total)) ∧
       (blockGood errors = false → (∀ i : Fin 8, bad.laneWorn p i = false) →
         exec (.flitCrcFail p (.block errors)) s = .next (bad.nakOnce p) ∧
         (bad.nakOnce p).ports[p].nakSent = true ∧
         bad.obj 0x3044 p.val = min (2 ^ 64 - 1) (s.obj 0x3044 p.val + 1))) ∧
     (∀ f : Flit, s.ports[p].waitq = [] →
       let kept := (((s.ports[p].life s.gc.value).takeAck f).replay).filter (fun e =>
         decide ((e.2.seq.toNat + 65536 - f.xinfo.toNat % 65536) % 65536 < 1024))
       kept ≠ [] →
       ∃ t sent rest, exec (.nak p f) s = .next t ∧ t.out = s.out ++ sent ++ rest ∧ sent.length = kept.length ∧
         (∀ i, ∀ h : i < kept.length, ∃ g, sent[i]? = some (.flit p kept[i].1 g) ∧ g.seq = kept[i].2.seq ∧
           g.payload = kept[i].2.payload) ∧
         t.obj 0x3042 p.val = min (2 ^ 64 - 1) (s.obj 0x3042 p.val + 1))) ∧
  (∀ (s : State) (p : Port) (f : Flit), s.hears p = true → f.seq.toNat ≠ s.ports[p].rxSeq →
     ∀ c ∈ [Instr.writeHead p f, .data p f, .writeAck p f, .tally p f, .agree p f, .mgmt p f, .hold p f, .freeze p f,
         .loss p f, .abort p f],
       ∃ t : State, exec c s = .next t ∧ OnlyPorts s t ∧ t.ports[p].rxSeq = s.ports[p].rxSeq ∧ t.ports[p].nakSent = true)

/-- `TIME` (R432, R434): its time is kept for the echo with the counter at its arrival; with an echo the peer's
offset and delay follow from the four times; and from its first launch on a module that is not FREE never jumps.
`DYING_GASP` (R411, R416): the sender's link is confirmed down with cause 3, the sender is lost at once, the step
aborts, and the agreement in progress ends. -/
def Obligations.TimeAndGaspFlitsAct : Prop :=
  (∀ (s : State) (p : Port) (f : Flit), s.hears p = true →
     ∃ t : State, exec (.time p f) s = .next t ∧
       t.ports[p].timeEcho = some (fieldAt f.payload 0 8, s.gc.value * 16 + s.gc.frac) ∧
       (fieldAt f.payload 8 8 ≠ 0 →
         let t1 : Int := fieldAt f.payload 8 8
         let t2 : Int := fieldAt f.payload 16 8
         let t3 : Int := fieldAt f.payload 0 8
         let t4 : Int := (s.gc.value * 16 + s.gc.frac : Nat)
         t.ports[p].offset = ((t2 - t1) + (t3 - t4)) / 2 ∧ t.ports[p].delay = ((t4 - t1) - (t3 - t2)) / 2) ∧
       (s.step.launched = true → s.gc.st ≠ .free → t.gc.value = s.gc.value ∧ t.gc.frac = s.gc.frac) ∧
       t.mem = s.mem ∧ t.step = s.step) ∧
  (∀ (s : State) (p : Port) (f : Flit), s.hears p = true → s.ports[p].peerNode ∉ s.lostNodes →
     ∃ t : State, exec (.dyingGasp p f) s = .next t ∧ t.lostNodes = s.lostNodes ++ [s.ports[p].peerNode] ∧
       (∃ l ∈ t.downLinks, 3 ≤ l.cause ∧ (l.a = (s.nodeId, p.val) ∨ l.b = (s.nodeId, p.val))) ∧
       (s.stepLive = true → t.step.status = .aborted) ∧ t.agree.decided = none ∧ t.stageLock = false)

/-- A routed flit for another module is forwarded (R28, R395): nothing but ports, what is sent, counters and the log
changes; where the next port of its route is up, the flit leaves by it or waits there; on a port that is not up, or
after twelve hops, it is discarded, counted, and logged as 0x6105, and the fence of a port that is mapped out counts it.
A routed flit of another configuration (R396): it is not delivered, but counted and logged as 0x6104, and the step
aborts: without one, memory and records stand as before, and with one they are what that abort leaves. An Ivwidin frame
is exempt. -/
def Obligations.RoutedFlitsAreForwarded : Prop :=
  (∀ (s : State) (p : Port) (f : Flit), s.Inv → InOrder s p f → s.obj 0x1104 1 ≠ 0 → f.dst ≠ s.nodeId →
     ∀ x ∈ [((0x01 : BitVec 8), Instr.writeHead p f), (0x02, .data p f), (0x03, .writeAck p f), (0x04, .tally p f),
         (0x07, .agree p f), (0x0D, .mgmt p f)],
       ∃ t : State, exec x.2 s = .next t ∧ OnlySends s t ∧
         (∀ q : Port, q.val = (f.path >>> (5 * f.hopptr)).toNat % 32 →
           (f.hopptr < 12 → (s.taken p f).ports[q].st.isUp = true →
             t = (s.taken p f).sendSeq (some p) q x.1 { f with hopptr := f.hopptr + 1 }) ∧
           (12 ≤ f.hopptr ∨ (s.taken p f).ports[q].st.isUp = false →
             t.ports = (s.delivered p f).ports ∧ t.obj 0x3046 1 = min (2 ^ 32 - 1) (s.obj 0x3046 1 + 1) ∧
             Logged s t 0x6105 (0x50 + p.val) (toLe 1 q.val ++ toLe 2 f.dst.toNat)) ∧
           (f.hopptr < 12 → s.isFenced (0x50 + q.val) = true → (s.taken p f).ports[q].st.isUp = false →
             lookupKey (0x50 + q.val) t.fenceErrors = some ((lookupKey (0x50 + q.val) s.fenceErrors).getD 0 + 1) ∧
             lookupKey (0x50 + p.val) t.errorReplies = some ((lookupKey (0x50 + p.val) s.errorReplies).getD 0 + 1)))) ∧
  (∀ (s : State) (p : Port) (f : Flit), s.Inv → InOrder s p f → s.obj 0x1104 1 ≠ 0 → f.dst = s.nodeId →
     s.epochOk f = false →
     ∀ c ∈ [Instr.writeHead p f, .data p f, .writeAck p f, .tally p f, .agree p f],
       ∃ t : State, exec c s = .next t ∧ OnlyAborts s t ∧
         t.obj 0x3046 0 = min (2 ^ 32 - 1) (s.obj 0x3046 0 + 1) ∧
         Logged s t 0x6104 (0x50 + p.val) (toLe 1 p.val ++ toLe 2 f.src.toNat) ∧
         (s.stepLive = false → t.mem = s.mem ∧ t.poison = s.poison ∧ t.cores = s.cores ∧ t.signals = s.signals ∧
           t.rounds = s.rounds ∧ t.outbound = s.outbound) ∧
         (s.stepLive = true → t.step.status = .aborted ∧ t.step.causes = s.step.causes ++ [0x6104] ∧
           t.mem = ((s.delivered p f).abortStep 0x6104).mem ∧ t.cores = ((s.delivered p f).abortStep 0x6104).cores ∧
           t.signals = [] ∧ t.outbound = []))

/-- A remote write (R28, R398, R499): a head opens its transfer where the range lies within one allocation of the active
plan and off the plan slots, and else discards it and aborts the step; each data flit writes its bytes at its place,
once, unless a sparing copy holds them; data for a stack out of service changes no memory, the fence answers the port
with an error that is counted, and its transfer is dropped unacknowledged (the model's reading, log entry 158); and an
acknowledgement completes the sender's transfer. -/
def Obligations.RemoteWritesLand : Prop :=
  ∀ (s : State) (p : Port) (f : Flit), s.Inv → InOrder s p f → ForHere s f →
    let xid := f.xinfo.toNat / 65536
    let i := f.xinfo.toNat % 65536
    let a := fieldAt f.payload 0 6
    let n := fieldAt f.payload 8 4
    (s.mayWrite a n = true →
      ∃ t : State, exec (.writeHead p f) s = .next t ∧ t.mem = s.mem ∧ t.step = s.step ∧
        t.inbound = s.inbound.filter (fun t => !(t.src = f.src && t.xid = xid)) ++ [⟨f.src, xid, a, n, [], false⟩]) ∧
    (s.mayWrite a n = false →
      ∃ t : State, exec (.writeHead p f) s = .next t ∧ (∃ x ∈ t.inbound, x.src = f.src ∧ x.xid = xid ∧ x.discard = true) ∧
        (s.stepLive = true → t.step.status = .aborted ∧ t.step.causes = s.step.causes ++ [0x4801])) ∧
    (∀ x, s.transfer f.src xid = some x → x.discard = false → i ∉ x.got → 224 * i < x.len →
      let room := min 224 (x.len - 224 * i)
      (s.holdsWrite (x.addr + 224 * i) = false → s.stackOut (x.addr + 224 * i) room = none →
        ∃ t : State, exec (.data p f) s = .next t ∧
          t.mem = (s.writeRun (x.addr + 224 * i) (f.payload.take room)).mem) ∧
      (∀ o, s.stackOut (x.addr + 224 * i) room = some o →
        ∃ t : State, exec (.data p f) s = .next t ∧ t.mem = s.mem ∧ t.out = (s.delivered p f).out ∧
          t.transfer f.src xid = none ∧ lookupKey o t.fenceErrors = some ((lookupKey o s.fenceErrors).getD 0 + 1) ∧
          lookupKey (0x50 + p.val) t.errorReplies = some ((lookupKey (0x50 + p.val) s.errorReplies).getD 0 + 1))) ∧
    (∀ x, s.transfer f.src xid = some x → i ∈ x.got →
      exec (.data p f) s = .next (s.delivered p f)) ∧
    (∃ t : State, exec (.writeAck p f) s = .next t ∧ t.mem = s.mem ∧
      t.outbound = s.outbound.filter (fun o => !(o.dst = f.src && o.xid = xid)))

/-- Messages between sequencers (R28, R47, R50, R399): a `TALLY` of the current step adds to its tally; one of the next
step is held; one of any other step is dropped with event 0x4103; and one for a core that is mapped out is dropped, and
the fence counts it and answers the port with an error. -/
def Obligations.TallyMessagesApply : Prop :=
  ∀ (s : State) (p : Port) (f : Flit) (c : Core) (k : Fin 64), s.Inv → InOrder s p f → ForHere s f →
    bitsOf (fieldAt f.payload 8 8) 40 6 = c.val → bitsOf (fieldAt f.payload 8 8) 34 6 = k.val →
    let inc := bitsOf (fieldAt f.payload 8 8) 0 32
    let step := fieldAt f.payload 0 8
    let fenced := s.isFenced (s.physOf c).val
    (fenced = false → s.step.launched = true → step = s.step.current → s.cores[c].tallies[k] + inc ≤ 0xFFFFFFFF →
      ∃ t : State, exec (.tally p f) s = .next t ∧ t.cores[c].tallies[k] = s.cores[c].tallies[k] + inc ∧
        t.step = s.step ∧ t.mem = s.mem) ∧
    (fenced = false → s.step.launched = true → step = s.step.current + 1 → s.cores[c].held.length < 64 →
      ∃ t : State, exec (.tally p f) s = .next t ∧ t.cores[c].held = s.cores[c].held ++ [(step, k, inc)] ∧
        t.cores[c].tallies = s.cores[c].tallies) ∧
    (fenced = false → s.step.launched = true → step ≠ s.step.current → step ≠ s.step.current + 1 →
      ∃ t : State, exec (.tally p f) s = .next t ∧ t.cores = s.cores ∧ Logged s t 0x4103 (s.physOf c).val []) ∧
    (fenced = true →
      exec (.tally p f) s = .next { s.delivered p f with
        fenceErrors := addKey (s.physOf c).val 1 s.fenceErrors, errorReplies := addKey (0x50 + p.val) 1 s.errorReplies })

/-- Floods (R410, R411, R414, R415, R417): a flit of another origin, newer than the last of that origin, acts here, is
noted, and goes on by every UP port but the one it came by. `HOLD` records the largest shift for its launch and logs
event 0x6109 at the first; `FREEZE` sets a CAPTURE freeze at its count or at once, or moves a pending one forward;
`LOSS` confirms the link down, the first report of a link aborting the step, and a dying gasp's makes the far end lost;
and `ABORT` aborts the step it names, with event 0x610B, and no other. One that is no newer, or this module's own, only
takes its buffer. The cause an abort by `LOSS` carries is the model's reading (log entry 20). Completes: `hold`,
`freeze`, `loss`, `abort`. -/
def Obligations.FloodsActOnce : Prop :=
  ∀ (s : State) (p : Port) (f : Flit), s.Inv → InOrder s p f →
    (NewFlood s f →
      let noted (t : State) : Prop := lookupKey (floodHead f).1.toNat t.floodSeen = some (floodHead f).2
      let n := fieldAt f.payload 8 8
      (∃ t : State, exec (.hold p f) s = .next t ∧ noted t ∧ t.step = s.step ∧ t.mem = s.mem ∧
        lookupKey n t.holds = some (max (fieldAt f.payload 16 8) ((lookupKey n s.holds).getD 0)) ∧
        (n ∉ s.holdsHeard → Logged s t 0x6109 s.mgmtIsland (toLe 2 (floodHead f).1.toNat)) ∧
        (n ∈ s.holdsHeard → t.log = s.log) ∧
        FloodedOn s t (some p) 0x08 f.payload) ∧
      (∃ t : State, exec (.freeze p f) s = .next t ∧ noted t ∧ t.step = s.step ∧ t.mem = s.mem ∧
        (s.freeze.st = .run → t.freeze.st = .pending ∧ t.freeze.count = max s.gc.value n ∧ t.freeze.full = false ∧
          t.freeze.byPin = false) ∧
        (s.freeze.st = .pending →
          t.freeze = { s.freeze with count := min s.freeze.count (max s.gc.value n) }) ∧
        FloodedOn s t (some p) 0x09 f.payload) ∧
      (let a : LinkEnd := (BitVec.ofNat 16 (fieldAt f.payload 8 2), fieldAt f.payload 10 1)
       let b : LinkEnd := (BitVec.ofNat 16 (fieldAt f.payload 11 2), fieldAt f.payload 13 1)
       let cause := fieldAt f.payload 14 1
       let l := DownLink.of a b cause
       let known := s.downLinks.any (fun x => x.a = l.a && x.b = l.b)
       ∃ t : State, exec (.loss p f) s = .next t ∧ noted t ∧ (floodHead f).1.toNat ∈ t.lossOrigins ∧
         (∃ x ∈ t.downLinks, x.a = l.a ∧ x.b = l.b ∧ cause ≤ x.cause) ∧
         (known = false → s.stepLive = true → t.step.status = .aborted ∧
           (s.step.causes ++ [lossCode cause]) <+: t.step.causes) ∧
         (known = true → cause ≠ 3 → t.step = s.step ∧ t.mem = s.mem) ∧
         (cause = 3 → let far := if a.1 = (floodHead f).1 then b.1 else a.1
           far ∈ t.lostNodes ∧ (far ∉ s.lostNodes → s.stepLive = true → t.step.status = .aborted)) ∧
         FloodedOn s t (some p) 0x0B f.payload) ∧
      (∃ t : State, exec (.abort p f) s = .next t ∧ noted t ∧
        (s.stepLive = true → s.step.current = n → t.step.status = .aborted ∧ t.step.causes = s.step.causes ++ [0x610B] ∧
          Logged s t 0x610B s.mgmtIsland (toLe 2 (floodHead f).1.toNat ++ slice f.payload 16 2)) ∧
        (s.stepLive = false ∨ s.step.current ≠ n → t.step = s.step ∧ t.mem = s.mem ∧ t.log = s.log) ∧
        FloodedOn s t (some p) 0x10 f.payload)) ∧
    (OldFlood s f →
      ∀ c ∈ [Instr.hold p f, .freeze p f, .loss p f, .abort p f], exec c s = .next (s.delivered p f))

/-! ### Agreement and launch -/

/-- A round joins words (R407): at the root of its group's tree, where every child but one has contributed, the last
child's words end the round with the minima and maxima of all; a result that comes down from the parent ends it as it
is. `AGREE` (R407, R444): a message that ends a launch round leaves its result with the attempt; one that ends none
leaves the attempt without. -/
def Obligations.RoundsJoinWordsAndEnd : Prop :=
  (∀ (s : State) (src : BitVec 16) (b : Bytes) (g : Group) (name : RoundName) (down : Bool) (mins maxs : List Nat),
     agreeParse b = (name, down, mins, maxs) → s.runPlan.bind (fun p => p.group name.group) = some g →
     (∀ c, down = false → g.myIndex = some 0 →
       (roundChildren 0 g.members.length).find? (fun c => g.members.getD c 0 = src) = some c →
       (s.round name).own = true → (s.round name).sentUp = false → c ∉ (s.round name).children →
       (∀ d ∈ roundChildren 0 g.members.length, d ≠ c → d ∈ (s.round name).children) →
       (s.takeAgree src b).2 =
         some (name, List.zipWith min (s.round name).mins mins, List.zipWith max (s.round name).maxs maxs)) ∧
     (∀ me, down = true → g.myIndex = some me → (s.round name).own = true → (s.round name).sentUp = true →
       (s.takeAgree src b).2 = some (name, mins, maxs))) ∧
  (∀ (s : State) (p : Port) (f : Flit), InOrder s p f → ForHere s f →
     ∀ u res, (s.delivered p f).takeAgree f.src f.payload = (u, res) →
       (∀ name mins maxs, res = some (name, mins, maxs) → name.kind = 0 →
         ∃ t : State, exec (.agree p f) s = .next t ∧ t.agree = { u.agree with resA := some (mins, maxs) } ∧ t.mem = s.mem) ∧
       (∀ name mins maxs, res = some (name, mins, maxs) → name.kind = 1 →
         ∃ t : State, exec (.agree p f) s = .next t ∧ t.agree = { u.agree with resB := some (mins, maxs) } ∧ t.mem = s.mem) ∧
       (res = none → exec (.agree p f) s = .next u))

/-- A module joins an agreement within its lead (R442, R475): it has contributed, at the counter's present count, and
staging is locked; when the wait before a new attempt is over, the module may contribute again. An attempt's end
(R41, R413, R419, R444, R445): its words stand in `AGREE_LAST`; digests that differ lead to a new attempt 10,000 ticks
later, a third time in a row to none; a module not ready to one 1,000,000 ticks later, and so does a swap due without
its image (the model's reading, log entry 143); and with the same digest, all ready and none aborted, the launch is
decided at the planned count and the largest shift asked for, where the image in force from it covers the links that
are down, and else event 0x6108 names the step and no attempt follows. With a step aborted, event 0x4902 carries the
cause: an automatic relaunch of the step is decided where every module allows it, and else event 0x4903 ends the
attempts. -/
def Obligations.AgreementAttemptsRunAndEnd : Prop :=
  (∀ (s : State) (a b : List Nat × List Nat), s.awake = true → s.agree.resA = some a → s.agree.resB = some b →
     s.agree.contributed = true → s.agree.decided = none →
     (a.1 ≠ a.2 → s.agree.differing < 2 →
       ∃ t : State, exec .agreeAttemptEnd s = .next t ∧ t.agree.differing = s.agree.differing + 1 ∧
         t.agree.attempt = s.agree.attempt + 1 ∧ t.agree.retryAt = some (s.gc.value + 10000) ∧
         t.agree.decided = none ∧ t.agree.contributed = false ∧
         lookupKey (objKey 0x2A05 0) t.blobs = some (agreeLast a b)) ∧
     (a.1 ≠ a.2 → 2 ≤ s.agree.differing →
       ∃ t : State, exec .agreeAttemptEnd s = .next t ∧ t.agree.decided = none ∧ t.agree.stopped = true ∧
         t.stageLock = false ∧ (∃ e ∈ t.log.recs, e.code = 0x4901) ∧
         (s.step.status = .ended → t.step.status = .aborted)) ∧
     (a.1 = a.2 → b.2.getD 2 0 ≠ 0 →
       ∃ t : State, exec .agreeAttemptEnd s = .next t ∧ t.agree.retryAt = some (s.gc.value + 1000000) ∧
         t.agree.attempt = s.agree.attempt + 1 ∧ t.agree.differing = 0 ∧ t.agree.decided = none) ∧
     (a.1 = a.2 → b.2.getD 2 0 = 0 → b.2.getD 0 0 = 0 → s.wordsStale = false →
       let shift := max (b.2.getD 3 0) (b.2.getD 4 0)
       (s.swapMissing (s.plannedGc + shift) = false →
         (∀ p, s.imageAt (s.plannedGc + shift) = some p →
           s.covered p (s.swapAt (s.plannedGc + shift)).isSome = true) →
         ∃ t : State, exec .agreeAttemptEnd s = .next t ∧
           t.agree.decided = some ⟨s.launchStep, s.plannedGc + shift, shift, false⟩ ∧ t.step = s.step) ∧
       (s.swapMissing (s.plannedGc + shift) = true →
         ∃ t : State, exec .agreeAttemptEnd s = .next t ∧ t.agree.decided = none ∧
           t.agree.retryAt = some (s.gc.value + 1000000) ∧ t.step = s.step) ∧
       (∀ p, s.swapMissing (s.plannedGc + shift) = false → s.imageAt (s.plannedGc + shift) = some p →
         s.covered p (s.swapAt (s.plannedGc + shift)).isSome = false →
         ∃ t : State, exec .agreeAttemptEnd s = .next t ∧ t.agree.decided = none ∧ t.agree.stopped = true ∧
           Noted t 0x6108 s.mgmtIsland (toLe 8 s.launchStep))) ∧
     (s.Inv → a.1 = a.2 → b.2.getD 2 0 = 0 → b.2.getD 0 0 ≠ 0 → s.agree.hostLaunch = none →
       let shift := max (b.2.getD 3 0) (b.2.getD 4 0)
       let cause := BitVec.ofNat 16 (b.2.getD 5 0)
       (b.2.getD 1 0 = 0 → s.step.status = .aborted → s.swapMissing (s.plannedGc + shift) = false →
         (∀ p, s.imageAt (s.plannedGc + shift) = some p →
           s.covered p (s.swapAt (s.plannedGc + shift)).isSome = true) →
         ∃ t : State, exec .agreeAttemptEnd s = .next t ∧
           t.agree.decided = some ⟨s.step.current, s.plannedGc + shift, shift, true⟩ ∧ t.step = s.step ∧
           Logged s t 0x4902 s.mgmtIsland (toLe 2 cause.toNat)) ∧
       (b.2.getD 1 0 ≠ 0 →
         ∃ t : State, exec .agreeAttemptEnd s = .next t ∧ t.agree.decided = none ∧ t.agree.stopped = true ∧
           t.stageLock = false ∧ Logged s t 0x4902 s.mgmtIsland (toLe 2 cause.toNat) ∧ Noted t 0x4903 s.mgmtIsland [] ∧
           (s.step.status = .ended → t.step.status = .aborted)))) ∧
  (∀ s : State, s.awake = true →
     (∀ p : Plan, s.sparing = [] → s.agree.decided = none → s.imageAt s.plannedGc = some p →
       s.mayContribute p = true →
       ∃ t : State, exec .agreeContribute s = .next t ∧ t.agree.contributed = true ∧ t.agree.contribGc = s.gc.value ∧
         t.stageLock = true ∧ t.step = s.step ∧ t.mem = s.mem) ∧
     (∀ p : Plan, s.imageAt s.plannedGc = some p → s.sparing = [] → s.agree.decided = none →
       s.gc.value + p.launch.lead < s.plannedGc → exec .agreeContribute s = .next s) ∧
     (∀ g, s.agree.retryAt = some g → g ≤ s.gc.value →
       exec .agreeRetryTimer s = .next { s with agree := { s.agree with retryAt := none } }) ∧
     (∀ g, s.agree.retryAt = some g → s.gc.value < g → exec .agreeRetryTimer s = .next s))

/-- A launch (R440, R446): at its agreed count the step runs under the image in force, with every tally zero, no record
in flight, its planned end a period and the rules' extra later, staging unlocked and the agreement over (R47, R475). A
step that has ended commits first, then what is staged, the plan swap and the core map. A step the image does not hold
is not launched: the module idles with event 0x4905 (the model's reading, log entry 32). Before its count, or lost to
its partners, the module launches nothing. What commits: the step's counts, the version of each weight set it wrote and
its masks with their stored entries (R252, R289), its audit records (R429), its checkpoint in both slots with their
shard digests (R506), and each window slot it used, HOST with the step in `FSTEP` or RETIRED where it was poisoned, its
window's notice with them (R460, R465); the staged values, in force with the epoch risen (R474, R441); a plan swap,
its counts from zero, `PLAN_SWAP_GC` back at 0 (the model's choice, log entry 26) and a new window's head and entries
written (R41, R83, R457); and a copied sparing, its core served by the spare (R17, R499). The launch itself stands in
the objects and, in replay mode, in the replay log (R430, R448). -/
def Obligations.StepsLaunchAtTheirCount : Prop :=
  (∀ (s : State) (l : LaunchPlan), s.awake = true → s.agree.decided = some l → s.step.status ≠ .running →
    (s.gc.value < l.gc ∨ s.moduleLost = true → exec .stepLaunch s = .next s) ∧
    (∀ p : Plan, s.moduleLost = false → l.gc ≤ s.gc.value → s.wordsStale = false → s.imageAt l.gc = some p →
      s.step.status ≠ .ended → p.holdsStep l.step = true → s.step.nextAborts = false → (∀ c : Core, s.cores[c].held = []) →
      ∃ t : State, exec .stepLaunch s = .next t ∧ t.step.status = .running ∧ t.step.current = l.step ∧
        t.step.launched = true ∧ t.step.lastLaunched = l.step ∧ t.step.launchGc = l.gc ∧
        t.step.planned = l.gc + p.launch.period + p.launch.extra l.step ∧ t.stageLock = false ∧
        t.agree = AgreeState.initial ∧ t.plan = some p ∧
        ∀ c : Core, t.cores[c].inflight = [] ∧ t.cores[c].next = 0 ∧ t.cores[c].tallies = Vector.replicate 64 0) ∧
    (∀ p : Plan, s.moduleLost = false → l.gc ≤ s.gc.value → s.wordsStale = false → s.imageAt l.gc = some p →
      s.step.status ≠ .ended → p.holdsStep l.step = false →
      ∃ t : State, exec .stepLaunch s = .next t ∧ t.step.status = .idle ∧ t.agree.decided = none ∧ t.plan = s.plan ∧
        ∃ e ∈ t.log.recs, e.code = 0x4905) ∧
    (∀ pl p : Plan, s.moduleLost = false → l.gc ≤ s.gc.value → l.relaunch = false → s.agree.hostLaunch = none →
      s.step.status = .ended → s.plan = some pl →
      let u := s.commitStep pl
      u.imageAt l.gc = some p →
      (p.holdsStep l.step = true →
        exec .stepLaunch s = .next (((((u.commitConfig (u.swapAt l.gc) l.gc).commitMap.repairRows.activateSets
          p).noteLaunch l false).startStep p l)) ∧
        (s.step.nextAborts = false → (∀ c : Core, s.cores[c].held = []) →
          ∃ t : State, exec .stepLaunch s = .next t ∧ t.step.status = .running ∧ t.step.current = l.step ∧
            t.step.launchGc = l.gc ∧ t.plan = some p)) ∧
      (p.holdsStep l.step = false →
        ∃ t : State, exec .stepLaunch s = .next t ∧ t.step.status = .idle ∧ t.mem = u.mem ∧
          ∃ e ∈ t.log.recs, e.code = 0x4905))) ∧
  (∀ (s : State) (p : Plan), s.Inv → CountsFit s p →
    let n := s.step.current
    let u := s.commitStep p
    u.step = s.step ∧ u.plan = s.plan ∧ u.tileStatus = s.step.tiles ∧
    u.obj 0x3001 0 = min (2 ^ 64 - 1) (s.obj 0x3001 0 + 1) ∧
    (∀ (i : Nat) (w : WeightSet), p.weightSets[i]? = some w → (∃ v ∈ s.step.versions, v.1 = w.verdesc) →
      u.obj 0x2601 i = n) ∧
    (∀ m ∈ s.step.masks, u.obj 0x2402 m.1 = m.2 ∧
      (∀ (w : WeightSet) (d : Desc), p.weightSets.find? (fun w => w.masked && w.matrix = m.1) = some w →
        p.descAt (if n % 2 = 0 then w.vdesc.1 else w.vdesc.2) = some d →
        u.obj 0x2403 m.1 = ((List.range (d.size 1)).map (fun i => (TileHdr.parse (s.slot d i)).nnz)).sum)) ∧
    (s.auditing = false → u.auditLog = s.auditLog) ∧
    (s.auditing = true → ∃ recs : List AuditRec,
      u.auditLog = (s.auditLog ++ recs).drop ((s.auditLog ++ recs).length - 65536) ∧
      recs.length = (s.step.results.filter (fun x => (p.descAt x.1).isSome)).length ∧
      ∀ r ∈ recs, r.step = n ∧ r.node = p.nodeId ∧ ∃ d, p.descAt r.desc = some d ∧ r.content = s.contentDigest d) ∧
    (∀ (c : CkptTable) (k : Fin 2), p.ckpt = some c → 0 < p.ckptPeriod → n % p.ckptPeriod = 0 →
      k.val = n / p.ckptPeriod % 2 → s.step.slotsUsed = [] →
      let shard (base : Nat) : Nat :=
        sha3Nat (s.bytes (base + k.val * c.slotBytes + c.slotBytes - 48 * c.entries) (48 * c.entries))
      u.obj 0x5021 k.val = n ∧ u.obj 0x5021 (k.val + 2) = n ∧ u.obj 0x5022 k.val = shard c.localBase ∧
        u.wardDigests[k] = shard c.wardBase) ∧
    (∀ (w : Window) (i : Nat), s.step.slotsUsed = [(w.num, i)] → p.window w.num = some w → s.auditing = false →
      p.ckptPeriod = 0 →
      let a := p.winBase w + 128 + 128 * i
      let fseq := (s.word (a + 4) 4 + 1) % 2 ^ 32
      ((w.num, i) ∉ s.step.slotsPoisoned →
        u.mem = ((s.writeRun a (toLe 8 (fseq * 2 ^ 32 + 1))).writeRun (a + 8)
          (toLe 8 n ++ List.replicate 80 0)).mem) ∧
      ((w.num, i) ∈ s.step.slotsPoisoned →
        u.mem = (s.writeRun a (toLe 8 (fseq * 2 ^ 32 + 3))).mem ∧ Noted u 0x4A02 s.mgmtIsland (toLe 1 w.num ++ toLe 4 i)) ∧
      (∀ j : Fin 4, w.notify = true → s.hostUp = true → allZero (s.blob 0x1102 j 18) = false →
        ∃ q, Out.notice (s.blob 0x1102 j 18) q ([2] ++ toLe 1 w.num ++ toLe 8 n ++ toLe 4 1 ++ toLe 4 i) ∈ u.out))) ∧
  (∀ (s : State) (gc : Nat), s.Inv →
    (s.staged = [] → s.commitConfig none gc = s) ∧
    (s.staged ≠ [] → (s.staged.map Prod.fst).Nodup → (∀ e ∈ s.staged, e.1 / 256 ∉ [0x5104, 0x1201, 0x1004]) →
      let t := s.commitConfig none gc
      t.staged = [] ∧ (∀ e ∈ s.staged, t.obj (e.1 / 256) (e.1 % 256) = leNat e.2) ∧ t.obj 0x1201 0 = gc ∧
        t.obj 0x1201 1 = s.staged.length ∧ t.obj 0x1004 3 = (s.epoch + 1) % 2 ^ 32 ∧ t.epochCommitGc = some gc) ∧
    (∀ p : Plan, s.staged = [] → p.values = [] → p.weightSets.length ≤ 256 → p.preds.length ≤ 256 →
      let t := s.commitConfig (some p) gc
      t.plan = some p ∧ t.activeSlot = some (decide (s.activeSlot = some false)) ∧ t.counts = [] ∧ t.activeSets = [] ∧
        t.obj 0x5003 0 = 0 ∧ t.obj 0x1004 3 = (s.epoch + 1) % 2 ^ 32 ∧ t.epochCommitGc = some gc ∧
        (p.weightSets = [] → (∀ w ∈ p.windows, ∀ o, s.plan = some o → o.keepsWindow p w = true) → s.plan.isSome = true →
          t.mem = s.mem) ∧
        (∀ w : Window, p.weightSets = [] → p.windows = [w] → (∀ o, s.plan = some o → o.keepsWindow p w = false) →
          let gen := (lookupKey w.num s.winGens).getD 0 + 1
          let head := ascii "TG96WIND" ++ toLe 1 w.num ++ [if w.notify then 1 else 0, 0, 0] ++ toLe 4 w.slots ++
            toLe 8 w.slotSize ++ toLe 8 w.headLen ++ toLe 8 gen ++ List.replicate 88 0
          t.mem = ((List.range w.slots).foldl (fun u i => u.writeRun (p.winBase w + 128 + 128 * i)
            (toLe 8 0 ++ List.replicate 8 0xFF ++ List.replicate 112 0)) (s.writeRun (p.winBase w) head)).mem))) ∧
  (∀ (s : State) (x : Sparing), s.Inv → s.sparing = [x] → x.copied = true → s.heldWrites = [] → s.inbound = [] →
    let t := s.commitMap
    t.coreMap = s.coreMap.set x.logical x.spare ∧ t.spares[coreDie x.logical] = none ∧ t.sparing = [] ∧
      t.island x.spare.val = .run ∧ (x.physical ≠ x.spare → t.island x.physical.val = .failed) ∧ t.mem = s.mem) ∧
  (∀ (s : State) (l : LaunchPlan) (again : Bool), s.Inv →
    let t := s.noteLaunch l again
    t.obj 0x2A04 2 = l.gc ∧ t.obj 0x2A04 3 = l.shift ∧
      (l.relaunch = true → t.obj 0x3001 2 = min (2 ^ 64 - 1) (s.obj 0x3001 2 + 1)) ∧
      (s.replaying = true →
        t.replayLog = (s.replayLog ++ [ReplayRec.mk l.step l.gc s.epoch again l.shift (s.obj 0x2A01 0 + s.obj 0x2A01 1 * 2 ^ 64)]).drop
          (s.replayLog.length + 1 - 65536)) ∧
      (s.replaying = false → t.replayLog = s.replayLog))

/-- A step completes once every core has reported (R52): it has ended at the counter's present count, and waits for its
commit; with NaN and `NAN_ABORT` set it aborts at its end with cause 0x3104, and a halt aborts it with 0x3125 (R85,
R275). With a core still to report nothing changes. -/
def Obligations.StepsComplete : Prop :=
  ∀ s : State, s.awake = true → s.step.status = .running →
    ((∃ c : Core, s.cores[c].done = false) → exec .stepComplete s = .next s) ∧
    ((∀ c : Core, s.cores[c].done = true) →
      (s.sparing = [] → s.step.nan = none → s.step.halt = none →
        exec .stepComplete s = .next { s with
          step := { s.step with status := .ended, endGc := s.gc.value, stoppedGc := s.gc.value } }) ∧
      (∀ d, s.sparing = [] → s.step.nan = some d → s.step.halt = none → s.obj 0x2100 1 = 1 →
        ∃ t : State, exec .stepComplete s = .next t ∧ t.step.status = .aborted ∧ t.step.causes = s.step.causes ++ [0x3104]) ∧
      (∀ d, s.sparing = [] → s.step.nan = none → s.step.halt = some d →
        ∃ t : State, exec .stepComplete s = .next t ∧ t.step.status = .aborted ∧ t.step.causes = s.step.causes ++ [0x3125]))

/-- An abort (R55, R321, R367, R380, R417, R445): a step in progress, or ended and not committed, reads ABORTED with its
cause; no record is in flight on any core, its tallies are zero, no message or write of it is under way, and nothing it
gathered is kept, while the first 32 reads of each feed that have not landed still land. The version entry of a slice
the step wrote becomes all ones, and nothing else of memory changes. Every later cause is kept behind the first: that a
cause which comes while ABORTED stands is appended is the model's reading (log entry 109). A module without a step does
nothing. -/
def Obligations.AbortsDropTheStep : Prop :=
  ∀ (s : State) (cause : BitVec 16),
    (s.stepLive = true →
      (s.abortStep cause).step.status = .aborted ∧ (s.abortStep cause).step.causes = s.step.causes ++ [cause] ∧
      (∀ c : Core, (s.abortStep cause).cores[c].inflight = [] ∧ (s.abortStep cause).cores[c].held = [] ∧
        (s.abortStep cause).cores[c].tallies = Vector.replicate 64 0 ∧
        (s.abortStep cause).cores[c].landing = s.cores[c].landing ++
          (s.cores[c].inflight.map (fun q => { q with tagInvalid := true, reads := q.reads.take 32 })).filter
            (fun q => !q.reads.isEmpty)) ∧
      (s.abortStep cause).signals = [] ∧ (s.abortStep cause).outbound = [] ∧
      (s.abortStep cause).step.counts = [] ∧ (s.abortStep cause).step.masks = [] ∧ OnlyAborts s (s.abortStep cause) ∧
      (s.step.versions = [] ∨ s.plan = none → (s.abortStep cause).mem = s.mem) ∧
      (∀ (p : Plan) (d : Desc) (ver slice buf v rec : Nat), s.plan = some p →
        s.step.versions = [(ver, slice, buf, v, rec)] → p.descAt ver = some d →
        (s.abortStep cause).mem = ((s.writeRun (verAddr d slice buf) (toLe 8 (2 ^ 64 - 1))).writeRun
          (verRow d slice + 16) (List.replicate 48 0)).mem)) ∧
    (s.step.status = .aborted →
      s.abortStep cause = { s with step := { s.step with causes := s.step.causes ++ [cause] } }) ∧
    (s.step.status = .idle → s.abortStep cause = s)

/-! ### The core sequencers -/

/-- Records issue in order (R49, R51, R53, R156, R234, R266, R302, R458, R502): the next record of a core whose waits hold
and whose queues have a place is enqueued, a record of the core sequencer behind those of its queue; one that does not
run in this step sends its signals and counts as complete; one that waits on a tally or for a place, or whose core has
ended, does not issue, and neither does any behind a gate that has not decided (the model's reading, log entry 120); a
dense record waits for its arrays to change their partition mode, and sets it; and one that names a slot the host has
retired aborts the step. -/
def Obligations.RecordsIssueInOrder : Prop :=
  ∀ (s : State) (c : Core) (p : Plan) (rc : Rec), s.awake = true → s.step.status = .running → s.plan = some p →
    p.recAt c s.cores[c].next = some rc →
    (s.cores[c].ended = true → exec (.recordIssue c) s = .next s) ∧
    ((∃ w ∈ rc.waits, s.cores[c].tallies[w.tally] < w.thresh) → exec (.recordIssue c) s = .next s) ∧
    (s.gatePending p c = true → exec (.recordIssue c) s = .next s) ∧
    (s.cores[c].ended = false → s.island (s.physOf c).val = .run →
      (rc.engine = 2 → (s.physOf c).val ∉ s.seFenced) → s.gatePending p c = false →
      (∀ w ∈ rc.waits, w.thresh ≤ s.cores[c].tallies[w.tally]) →
      (s.doneAtIssue p c rc = true →
        ∃ t : State, exec (.recordIssue c) s = .next t ∧ t.cores[c].next = s.cores[c].next + 1 ∧
          t.cores[c].inflight = s.cores[c].inflight ∧ t.mem = s.mem ∧
          t.cores[c].done = (s.cores[c].done || ((s.cores[c].ended || rc.endstep) && s.cores[c].inflight.isEmpty)) ∧
          (∀ g ∈ rc.sigs,
            (g.scope.val = 0 → SignalMsg.mk c g.tally g.inc s.step.current (s.physOf c).val ∈ t.signals) ∧
            (g.scope.val = 1 → ∀ d : Core, d.val = g.core.val →
              SignalMsg.mk d g.tally g.inc s.step.current (s.physOf c).val ∈ t.signals)) ∧
          (rc.sigs = [] → t.signals = s.signals ∧ t.out = s.out ∧ t.ports = s.ports) ∧
          (∀ g, rc.sigs = [g] → 1 < g.scope.val →
            let u := s.sendRouted 0x04 false g.node 0 (toLe 8 s.step.current ++ g.bytes)
            t.signals = s.signals ∧ t.out = u.out ∧ t.ports = u.ports)) ∧
      (s.doneAtIssue p c rc = false → (∃ i ∈ rc.queues, s.cores[c].queueFree i = false) →
        exec (.recordIssue c) s = .next s) ∧
      (s.doneAtIssue p c rc = false → (∀ i ∈ rc.queues, s.cores[c].queueFree i = true) →
        (rc.engine = 1 → s.cores[c].modeOk rc = false →
          exec (.recordIssue c) s =
            .next (s.modCore c (fun k => { k with drainSince := some (k.drainSince.getD s.gc.value) }))) ∧
        (rc.engine ≠ 1 → ∀ w, s.retiredSlot p rc = some w →
          ∃ t : State, exec (.recordIssue c) s = .next t ∧ t.step.status = .aborted ∧
            t.step.causes = s.step.causes ++ [0x4A01]) ∧
        (s.retiredSlot p rc = none →
          (rc.engine ≠ 1 → ¬ (rc.engine = 5 ∧ rc.func = 3) →
            exec (.recordIssue c) s = .next (s.enqueue p c rc none)) ∧
          (rc.engine = 0 → s.qrec c rc.recno = none →
            (∃ x ∈ s.cores[c].inflight, QueueId.csq ∈ x.queues ∧ x.phase ≠ .executed) →
            ∃ t : State, exec (.recordIssue c) s = .next t ∧ ∀ q, t.qrec c rc.recno = some q → q.phase ≠ .started) ∧
          (rc.engine = 1 → s.cores[c].modeOk rc = true →
            exec (.recordIssue c) s =
              .next (((s.endDrain c).modCore c (fun k => k.setMode rc)).enqueue p c rc none)) ∧
          (∀ a, rc.engine = 5 → rc.func = 3 → s.stashSpace p c rc = some a →
            exec (.recordIssue c) s = .next (s.enqueue p c rc (some a))))))

/-- Credits (R356, R357, R366): a requester that stands first in every pool it names, each with enough free, takes all of
them at once, and its feed's reads begin; with one short it takes none and nothing changes. -/
def Obligations.CreditsAreGrantedWhole : Prop :=
  ∀ (s : State) (c : Core) (r : Nat) (p : Plan) (q : QRec) (rc : Rec) (n : Need), s.awake = true →
    s.step.status = .running → s.plan = some p → s.qrec c r = some q → p.recAt c r = some rc → rc.recno = r →
    p.needOf c r = some n → s.cores[c].requester q = true → s.sheavesIn p c rc = true →
    let x := s.ctx p c rc q
    let spans := x.takes (s.recReads rc) s
    ((∀ x ∈ n.reqs, x.2 ≤ s.poolFree p x.1 ∧ s.before p x.1 c q = false) →
      ∃ u : State, exec (.creditGrant c r) s = .next (u.settle c) ∧ u.mem = s.mem ∧
        u.qrec c r = some { q with phase := .granted, credits := n.reqs,
                                   reads := if n.reqs.isEmpty then [] else p.feedReads spans,
                                   chainTiles := x.chainTiles (s.recReads rc) s,
                                   feedWrites := !n.reqs.isEmpty && p.feedWrites rc s.step.current }) ∧
    ((∃ x ∈ n.reqs, s.poolFree p x.1 < x.2 ∨ s.before p x.1 c q = true) → exec (.creditGrant c r) s = .next s)

/-- Arriving data is compared with the tags of the record at the head of its queue (R53, R54, R266): for a cancelled work
tag it is discarded without effect and counted; with another micro-batch, bit 15 left out of both where a reference step
wrote or reads it, or another version of the weights read it aborts the step with event 0x4105; with tags that match it
is consumed, and the record may start, a dense one with the first data of its pass. Data of another work tag alone is
not the head's (the model's reading, log entry 145); where bit 15 is left out, and that a record reads weights where it
names a plane of a weight set, are its readings too (log entries 25 and 144). -/
def Obligations.DataIsComparedByTags : Prop :=
  ∀ (s : State) (c : Core) (r : Nat) (g : DataTags) (p : Plan) (q : QRec) (rc : Rec), s.Inv → s.awake = true →
    s.step.status = .running → s.plan = some p → s.qrec c r = some q →
    let h := s.cores[c].headOf q
    p.recAt c h.recno = some rc → h.phase = .granted ∨ h.phase = .started →
    (g.worktag ∈ s.cores[c].cancelled →
      ∃ t : State, exec (.dataArrival c r g) s = .next t ∧ t = { s with od := t.od } ∧
        t.obj 0x303F (coreDie c).val = min (2 ^ 64 - 1) (s.obj 0x303F (coreDie c).val + 1)) ∧
    (g.worktag ∉ s.cores[c].cancelled →
      (tagsAgree g.mbtag rc.mbtag = false ∨
        (rc.readsWeights p = true ∧ g.version.toNat ≠ effVersion p rc s.step.current) →
        ∃ t : State, exec (.dataArrival c r g) s = .next t ∧ t.step.status = .aborted ∧
          t.step.causes = s.step.causes ++ [0x4105] ∧
          ∃ e ∈ t.log.recs, e.code = 0x4105 ∧ e.detail = toLe 4 h.recno) ∧
      (tagsAgree g.mbtag rc.mbtag = true →
        (rc.readsWeights p = true → g.version.toNat = effVersion p rc s.step.current) →
        (g.worktag ≠ rc.worktag ∨ (rc.engine = 1 ∧ g.newPass = false) → exec (.dataArrival c r g) s = .next s) ∧
        (g.worktag = rc.worktag → (rc.engine = 1 → g.newPass = true) →
          ∃ u : State, exec (.dataArrival c r g) s = .next (u.settle c) ∧
            u.cores[c].inflight =
              s.cores[c].inflight.map (fun y => if y.recno = h.recno then { y with arrived := true } else y) ∧
            u.mem = s.mem ∧ u.step = s.step)))

/-- The stream work of a record in flight (R132, R153, R337, R367, R373, R380): the oldest read under way, named by its
address and its descriptor's hint, lands and goes through its die's cache by that hint, and one of a cancelled prefetch is discarded and counted, the last of them ending
it; a read of an aborted step that is still in flight lands first, discarded and counted, the last of them giving back
the record's credits; a chain's head with its tile read and a free slot delivers the tile and holds it for its successor; a later member
takes its predecessor's, and waits without one; and the injector's wait is counted. -/
def Obligations.FeedsAndChainsMove : Prop :=
  ∀ (s : State) (c : Core) (r : Nat) (p : Plan) (q : QRec) (rc : Rec), s.Inv → s.awake = true →
    s.step.status = .running → s.plan = some p → s.qrec c r = some q → p.recAt c r = some rc →
    (∀ (y : QRec) (x : Read) (rest : List Read), s.cores[c].landingOf r x.addr x.hint = some y → y.reads = x :: rest →
      ∃ u : State, exec (.feedReadLanded c r x.addr x.hint) s = .next (u.settle c) ∧ u.caches = s.caches ∧ u.mem = s.mem ∧
        u.cores[c].inflight = s.cores[c].inflight ∧
        u.cores[c].landing = s.cores[c].landing.filter (fun z => decide (z ≠ y)) ++
          (if rest.isEmpty then [] else [{ y with reads := rest }]) ∧
        u.obj 0x303F (coreDie c).val = min (2 ^ 64 - 1) (s.obj 0x303F (coreDie c).val + 1)) ∧
    (∀ (x : Read) (rest : List Read), q.phase ≠ .issued → q.reads = x :: rest →
      s.cores[c].landingOf r x.addr x.hint = none →
      (q.tagInvalid = false →
        ∃ u : State, exec (.feedReadLanded c r x.addr x.hint) s = .next (u.settle c) ∧ u.qrec c r = some { q with reads := rest } ∧
          u.mem = s.mem ∧ u.caches =
            (s.cacheRead (coreDie c) (if x.hint = .last && !x.last then .stream else x.hint) x.addr).caches) ∧
      (q.tagInvalid = true →
        ∃ u : State, exec (.feedReadLanded c r x.addr x.hint) s = .next (u.settle c) ∧ u.caches = s.caches ∧ u.mem = s.mem ∧
          u.qrec c r = some { q with reads := rest, phase := if rest.isEmpty then .executed else q.phase } ∧
          u.obj 0x303F (coreDie c).val = min (2 ^ 64 - 1) (s.obj 0x303F (coreDie c).val + 1))) ∧
    (∀ (a : Nat) (hint : Hint), s.cores[c].landingOf r a hint = none → q.phase = .issued ∨ (∀ x rest, q.reads = x :: rest → x.addr ≠ a ∨ x.hint ≠ hint) →
      exec (.feedReadLanded c r a hint) s = .next s) ∧
    (∀ ch pos, p.chainOf c r = some (ch, pos) → q.phase = .granted ∨ q.phase = .started → q.passed < q.chainTiles →
      let key := passKey p s.step.current rc
      (pos = 0 → q.tileRead = true → ∀ pool, p.forwardPool ch 0 = some pool →
        (q.tiles < q.holds pool →
          ∃ t : State, exec (.chainTileForward c r) s = .next t ∧
            t.qrec c r = some { q with passed := q.passed + 1, tiles := q.tiles + 1 } ∧
            t.obj 0x3041 (coreDie c).val = min (2 ^ 64 - 1) (s.obj 0x3041 (coreDie c).val + 1)) ∧
        (q.holds pool ≤ q.tiles → exec (.chainTileForward c r) s = .next s)) ∧
      (pos = 0 → q.tileRead = false → exec (.chainTileForward c r) s = .next s) ∧
      (pos ≠ 0 → s.tilesAt p ch (pos - 1) key = 0 → exec (.chainTileForward c r) s = .next s) ∧
      (pos ≠ 0 → s.tilesAt p ch (pos - 1) key ≠ 0 → p.forwardPool ch pos = none →
        exec (.chainTileForward c r) s =
          .next ((s.takeTile p ch (pos - 1) key).modQRec c r (fun q => { q with passed := q.passed + 1 })))) ∧
    (∀ held, rc.engine = 1 → q.phase = .started →
      ∃ t : State, exec (.loadInterlockRelease c r held) s = .next t ∧ t = { s with od := t.od } ∧
        t.obj 0x301C (s.physOf c).val = min (2 ^ 64 - 1) (s.obj 0x301C (s.physOf c).val + held))

/-- Completion and signals (R28, R48, R50, R367, R431): a record that has executed, with its writes acknowledged, runs the
taps of what it wrote, sends its signals and leaves its queue; one with a write not acknowledged stays; a tap copies the
tensor into a slot in DEVICE ownership that is large enough, which counts as accessed, and else copies nothing and logs
event 0x4907; and a signal under way adds to its target's tally once, but one for a
core that is mapped out is dropped, and the fence counts it and answers its sender with an error. -/
def Obligations.RecordsCompleteAndSignal : Prop :=
  ∀ s : State, s.awake = true →
    (∀ (c : Core) (r : Nat) (p : Plan) (q : QRec) (rc : Rec), s.step.status = .running → s.plan = some p →
      s.qrec c r = some q → p.recAt c r = some rc → rc.recno = r → q.phase = .executed →
      ((∀ o ∈ s.outbound, o.core = c → o.recno ≠ r) →
        let wrote := if q.tagInvalid then [] else rc.written p s.step.current
        let u := (s.noteResults p wrote).runTaps p wrote
        ∃ t : State, exec (.recordComplete c r) s = .next t ∧ t.qrec c r = none ∧
          t = (((((((u.noteRetry c rc q).noteOverrun c rc q).sendSignals c rc).holdSlots p c rc q).modCore c (fun k =>
            { k with inflight := k.inflight.filter (fun x => x.recno ≠ r) })).checkDone c).settle c)) ∧
      ((∃ o ∈ s.outbound, o.core = c ∧ o.recno = r) → exec (.recordComplete c r) s = .next s)) ∧
    (∀ (p : Plan) (i : Fin 16) (n w slot : Nat) (wrote : List Nat) (d : Desc) (win : Window),
      s.replayTap i.val = some (s.step.current, n, w, slot) → n ∈ wrote → (∀ j : Fin 16, j ≠ i → s.replayTap j.val = none) →
      p.descAt n = some d → p.window w = some win →
      let b := s.tensorBytes d
      (slot < win.slots → b.length ≤ win.slotSize → s.slotFlag p (w, slot) = 2 →
        s.runTaps p wrote = (s.writeRun (p.slotBase win slot) b).accessSlots [(w, slot)]) ∧
      (win.slots ≤ slot ∨ win.slotSize < b.length ∨ s.slotFlag p (w, slot) ≠ 2 →
        Logged s (s.runTaps p wrote) 0x4907 s.mgmtIsland [] ∧ OnlyLogs s (s.runTaps p wrote))) ∧
    (∀ (k : Nat) (m : SignalMsg), s.signals[k]? = some m →
      (s.isFenced (s.physOf m.core).val = false → s.step.launched = true → m.step = s.step.current →
        s.cores[m.core].tallies[m.tally] + m.inc ≤ 0xFFFFFFFF →
        ∃ t : State, exec (.signalArrival k) s = .next t ∧ t.signals = s.signals.eraseIdx k ∧
          t.cores[m.core].tallies[m.tally] = s.cores[m.core].tallies[m.tally] + m.inc ∧ t.step = s.step ∧
          t.mem = s.mem) ∧
      (s.isFenced (s.physOf m.core).val = true →
        exec (.signalArrival k) s =
          .next { s with signals := s.signals.eraseIdx k
                         fenceErrors := addKey (s.physOf m.core).val 1 s.fenceErrors
                         errorReplies := addKey m.sender 1 s.errorReplies }))

/-- The watchdogs (R375, R376, R377, R497): a condition past its limit, without the time a stop explains, is logged once
with its island and record, counted, and changes nothing else; one that does not hold, or that a stop explains, does
nothing; and a minute's end moves every core's bins on. When a module has not completed a step by its planned next
launch and `STEP_OVERTIME_TICKS`, the device aborts the step (R377): event 0x4704 is its cause, its detail the island of
the oldest watchdog condition that still stands, 0xFF without one; before that count, or without a step that runs, nothing
happens. -/
def Obligations.WatchdogsReportAndOvertimeAborts : Prop :=
  (∀ s : State, s.Inv → s.awake = true →
     (∀ (w : WatchCondition) (x : Watched), s.watched w = some x → w ∉ s.standing →
       1000 * s.obj 0x2801 x.kind < s.gc.value - x.since - s.paused x.since →
       ∃ t : State, exec (.watchdogExpiry w) s = .next t ∧ t.standing = s.standing ++ [w] ∧ t.step = s.step ∧
         t.cores = s.cores ∧ t.mem = s.mem ∧ t.obj 0x3040 x.kind = min (2 ^ 32 - 1) (s.obj 0x3040 x.kind + 1) ∧
         Logged s t (BitVec.ofNat 16 (0x4701 + x.kind)) x.island (toLe 1 x.island ++ toLe 4 x.recno)) ∧
     (∀ w : WatchCondition, w ∈ s.standing ∨ s.watched w = none → exec (.watchdogExpiry w) s = .next s) ∧
     (∀ (a b : Island) (r since : Nat), s.island a.toNat ≠ .run ∨ s.island b.toNat ≠ .run ∨ s.step.status ≠ .running →
       exec (.watchdogExpiry (.crossing a b r since)) s = .next s) ∧
     (s.transientBins = [] → exec .transientBinRoll s = .next s) ∧
     (s.obj 0x5030 0 = 0 →
       ∃ t : State, exec .transientBinRoll s = .next t ∧
         t.transientBins = s.transientBins.map (fun b => (b.1, (0 :: b.2).take 60)) ∧ t.sparing = s.sparing)) ∧
  (∀ s : State, s.awake = true →
     (s.step.status = .running → s.step.planned + s.obj 0x2801 3 ≤ s.gc.value →
       ∃ t : State, exec .stepOvertime s = .next t ∧ t.step.status = .aborted ∧
         t.step.causes = s.step.causes ++ [0x4704] ∧
         (∃ e ∈ t.log.recs, e.code = 0x4704 ∧ e.detail = toLe 1 s.oldestStanding) ∧
         ((∀ w ∈ s.standingNow, s.watched w = none) → s.oldestStanding = 0xFF) ∧
         (∀ w ∈ s.standingNow, ∀ x, s.watched w = some x →
           ∃ v ∈ s.standingNow, ∃ y, s.watched v = some y ∧ y.since ≤ x.since ∧ s.oldestStanding = y.island)) ∧
     (s.gc.value < s.step.planned + s.obj 0x2801 3 → exec .stepOvertime s = .next s) ∧
     (s.step.status ≠ .running → exec .stepOvertime s = .next s))

/-! ### Sheaves, faults, sparing copies and restores -/

/-- Sheaves and faults (R338, R339, R358, R360, R495): a sheaf that lands is resident, and an uncorrectable word in a
resident one is counted and logged as 0x1401 and the sheaf fetched again; the first fault of a record's attempt starts
it again on the same unit and logs nothing yet, and a second is lasting: it is logged and aborts the step; an
uncorrectable line of the cache is fetched again, so that the cache holds what it held; and a word corrected on its way
to a record is counted. -/
def Obligations.FirstFaultsAreRetried : Prop :=
  ∀ (s : State) (p : Plan), s.Inv → s.plan = some p →
    (∀ (e : Fin 8) (j : Nat) (w : WordCheck), j < ceilDiv p.descs.length 64 →
      (w ≠ .uncorrectable ∨ j ∉ s.sheaves[e] →
        exec (.sheafFetch e j w) s = .next { s with sheaves := s.sheaves.set e (nameSheaf j s.sheaves[e]) }) ∧
      (w = .uncorrectable → j ∈ s.sheaves[e] →
        ∃ t : State, exec (.sheafFetch e j w) s = .next t ∧ j ∈ t.sheaves[e] ∧ t.mem = s.mem ∧
          t.obj 0x303D (e.val / 2) = min (2 ^ 32 - 1) (s.obj 0x303D (e.val / 2) + 1) ∧
          Logged s t 0x1401 (0x80 + e.val / 2) [])) ∧
    (∀ (c : Core) (r : Nat) (q : QRec) (rc : Rec), s.awake = true → s.step.status = .running →
      s.qrec c r = some q → p.recAt c r = some rc → rc.recno = r → q.phase = .started →
      (∀ i : Fin 4, rc.engine ∈ [(1 : Fin 16), 2, 3, 4, 6] → (rc.engine = 1 → rc.units.toNat.testBit i.val = true) →
        let k := FaultKind.engineState i
        (q.failed = none →
          ∃ t : State, exec (.recordFault c r k) s = .next t ∧ t.mem = s.mem ∧ t.step = s.step ∧ t.log = s.log ∧
            t.qrec c r = some { q with failed := some (transientCode rc k, s.faultDetail c rc k) }) ∧
        (q.failed ≠ none → ∀ code obj, lastingOf rc = some (code, obj) →
          ∃ t : State, exec (.recordFault c r k) s = .next t ∧ t.step.status = .aborted ∧
            (∃ e ∈ t.log.recs, e.code = code ∧ e.island = s.engineIsland c rc))) ∧
      (∀ a : BitVec 48, (rc.engine = 1 → rc.units ≠ 0) →
        (s.lineIn (coreDie c) a.toNat = true →
          ∃ t : State, exec (.recordFault c r (.cacheLine a)) s = .next t ∧ t.mem = s.mem ∧ t.step = s.step ∧
            t.caches = s.caches ∧
            t.obj 0x303A (coreDie c).val = min (2 ^ 32 - 1) (s.obj 0x303A (coreDie c).val + 1)) ∧
        (s.lineIn (coreDie c) a.toNat = false → exec (.recordFault c r (.cacheLine a)) s = .next s) ∧
        (∀ w, s.phys a.toNat = some w → w < 0x6000000000 →
          ∃ t : State, exec (.recordFault c r (.corrected a)) s = .next t ∧ t.mem = s.mem ∧ t.step = s.step ∧
            t.obj 0x3035 (hbmDecode w).1 = min (2 ^ 64 - 1) (s.obj 0x3035 (hbmDecode w).1 + 1))))

/-- The copy of a sparing is done after 49,152 ticks (R17, R499): the spare's store holds, byte for byte, what the
core's store holds, every byte outside it reads as before, and the map changes only at the next launch. -/
def Obligations.SparingCopiesTheStore : Prop :=
  ∀ (s : State) (l : Core) (x : Sparing) (g : Nat), s.Inv → s.awake = true →
    s.sparing.find? (fun x => x.logical = l) = some x → x.startGc = some g → x.copied = false →
    (g + 49152 ≤ s.gc.value →
      ∃ t : State, exec (.spareCopyDone l) s = .next t ∧ t.coreMap = s.coreMap ∧
        (∀ o, o < 0x6000000 → memRead t.mem (coreStore x.spare.val + o) = memRead s.mem (coreStore x.physical.val + o)) ∧
        (∀ a, a < coreStore x.spare.val ∨ coreStore x.spare.val + 0x6000000 ≤ a → memRead t.mem a = memRead s.mem a) ∧
        (∀ y ∈ t.sparing, y.logical = l → y.copied = true)) ∧
    (s.gc.value < g + 49152 → exec (.spareCopyDone l) s = .next s)

/-- A restore ends (R28, R340, R347, R507): with a checkpoint to pull that the buddy does not hold, or with a local slot on
a stack out of service or whose entries' digests do not hold, it fails, shows 3, event 0x4B01 is logged and the step's
state is ABORTED; without a plan it fails so as well (the model's reading, log entry 14). Where they hold it shows 2,
the module is idle, the step before the checkpoint's is current, and memory is what the entries written back leave. A
slot pulled from the buddy becomes the local one first. -/
def Obligations.RestoresEnd : Prop :=
  ∀ (s : State) (x : Restore), s.Inv → s.awake = true → s.restore = some x →
    (s.plan = none ∨ (∃ p c, s.plan = some p ∧ p.ckpt = some c ∧ x.pulling = true) →
      ∃ t : State, exec (.ckptRestoreDone none) s = .next t ∧ t.restore = none ∧ t.step.status = .aborted ∧
        t.mem = s.mem ∧ t.obj 0x5023 1 = 3 ∧ Logged s t 0x4B01 s.mgmtIsland []) ∧
    (∀ p c u, s.plan = some p → p.ckpt = some c → x.pulling = false →
      let slot := c.slot c.localBase (p.ckptSlot x.step)
      (∀ o, s.stackOut slot c.slotBytes = some o →
        ∃ t : State, exec (.ckptRestoreDone none) s = .next t ∧ t.restore = none ∧ t.step.status = .aborted ∧
          t.mem = s.mem ∧ t.obj 0x5023 1 = 3 ∧ Logged s t 0x4B01 s.mgmtIsland []) ∧
      (s.stackOut slot c.slotBytes = none →
        (s.writeBack p c slot x.step p.streams = (u, false) →
          ∃ t : State, exec (.ckptRestoreDone none) s = .next t ∧ t.restore = none ∧ t.step.status = .aborted ∧
            t.obj 0x5023 1 = 3 ∧ ∃ e ∈ t.log.recs, e.code = 0x4B01) ∧
        (s.writeBack p c slot x.step p.streams = (u, true) →
          ∃ t : State, exec (.ckptRestoreDone none) s = .next t ∧ t.restore = none ∧ t.step.status = .idle ∧
            t.step.current = (x.step + 2 ^ 64 - 1) % 2 ^ 64 ∧ t.obj 0x5023 1 = 2 ∧ t.obj 0x2600 4 = 1 ∧
            (p.windows = [] → t.mem = u.mem) ∧ (p.streams = [] → u = s) ∧
            (∀ (r : Rec) (n : Nat) (d : Desc), p.streams = [r] → r.desc0 = some n →
              p.descAt (p.resolveRead r x.step n) = some d → s.compressedAt d.range.1 = none →
              u.mem = (s.writeRun d.range.1 (s.bytes (slot + r.entryOffset) d.regionLen)).mem)))) ∧
    (∀ p c (b : Bytes), s.plan = some p → p.ckpt = some c → x.pulling = true → b.length = c.slotBytes →
      p.streams = [] → p.windows = [] → p.weightSets.length ≤ 256 →
      let slot := c.slot c.localBase (p.ckptSlot x.step)
      s.stackOut slot c.slotBytes = none →
      ∃ t : State, exec (.ckptRestoreDone (some b)) s = .next t ∧ t.restore = none ∧ t.step.status = .idle ∧
        t.step.current = (x.step + 2 ^ 64 - 1) % 2 ^ 64 ∧ t.obj 0x5023 1 = 2 ∧
        t.obj 0x5021 (p.ckptSlot x.step) = x.step ∧ t.mem = (s.writeRun slot b).mem)

/-! ### The host port -/

/-- The host link (R450, R451): its loss is logged as 0x6401 and changes no step; it comes up with event 0x6402 where
its laser group is lit and its port has its clock; over it, unusable frames are counted and discarded, and
neighbour protocols answered for the port's own addresses, the IPv6 one the link-local address of its MAC until it is
written, while a request for another is discarded and counted. That a frame, or a loss, changes nothing while the link
is down is the model's choice (log entry 1), and that the address's bytes stand in network order (log entry 182). -/
def Obligations.HostLinkComesAndGoes : Prop :=
  ∀ s : State, s.Inv → s.phase = .up →
    (s.hostUp = true →
      (∃ t : State, exec .hostLinkDown s = .next t ∧ t.hostUp = false ∧ t.step = s.step ∧ t.mem = s.mem ∧
        Logged s t 0x6401 0x70 []) ∧
      (∃ t : State, exec .hostFrameDiscard s = .next t ∧ t = { s with od := t.od } ∧
        t.obj 0x3049 0 = min (2 ^ 64 - 1) (s.obj 0x3049 0 + 1)) ∧
      (∀ n, (s.answersTo n = true → exec (.neighbourReply n) s = .next { s with out := s.out ++ [.neighbour n] }) ∧
        (s.answersTo n = false → exec (.neighbourReply n) s = .next (s.addObj 0x3049 0 1)))) ∧
    (∀ a : BitVec 32, ∀ n ∈ [Neighbour.arp a, .icmpEcho a],
      s.answersTo n = true ↔ s.obj 0x1100 1 ≠ 0 ∧ a.toNat = s.obj 0x1100 1) ∧
    (∀ a : BitVec 128, ∀ n ∈ [Neighbour.neighbourSolicitation a, .icmpv6Echo a],
      (s.answersTo n = true ↔ a.toNat = if allZero (s.blob 0x1100 2 16) then
        0xFE80 * 2 ^ 112 + ((s.value {} 0x1100 0 / 2 ^ 24 % 2 ^ 24) ^^^ 0x020000) * 2 ^ 40 + 0xFFFE * 2 ^ 24 +
          s.value {} 0x1100 0 % 2 ^ 24
        else leNat (s.blob 0x1100 2 16).reverse)) ∧
    (s.hostUp = false → exec .hostLinkDown s = .next s ∧ exec .hostFrameDiscard s = .next s ∧
      ∀ n, exec (.neighbourReply n) s = .next s) ∧
    (s.hostUp = false → s.hostPllLost = false → s.groupLit 0 ≠ 0 →
      ∃ t : State, exec .hostLinkUp s = .next t ∧ t.hostUp = true ∧ t.step = s.step ∧ Logged s t 0x6402 0x70 [])

/-- RDMA on a window (R336, R452, R454): a READ of a slot in the host's hands returns its bytes and changes no byte; a
WRITE to one stores its bytes there and leaves every other physical byte; other operations are answered as invalid,
which leaves the queue pair as it is (the model's reading, log entry 63); without a window of the key's generation, or
on a slot that is not the host's, an operation is refused, counted, and changes no memory; one on bytes of a stack out
of service is refused, counted at the fence and changes none (the model's reading of R28, log entry 158); and a packet
that ECN marks is answered with a congestion notification first. Compare-and-swap on a slot's flag word (R453, R459): it
answers the word as it was; where that differs from the compared value nothing is stored; where it is the same and the
flip is one the host may make, with the sequence number one higher and nothing else changed, the new word is stored,
and records that waited for the slot may start; any other flip is refused. -/
def Obligations.RdmaServesHostSlots : Prop :=
  (∀ (s : State) (q : Packet), s.Inv → s.qpServes q.qp = true →
     let marked : List Out := s.out ++ (if q.ecn then [.cnp q.qp] else [])
     (∀ op, exec (.rdmaUnsupported q op) s = .next { s with out := marked ++ [.rdma q.qp .nakInvalid] }) ∧
     (∀ (key : BitVec 32) (va : Nat) (p : Plan) (w : Window), s.keyWindow key = some (p, w) →
       (∀ n, s.inHostSlot p w va n = true → (∀ i, i < n → s.poisoned (p.winBase w + va + i) 1 = false) →
         p.winBase w + va + n ≤ 0x6000000000 → s.stackOut (p.winBase w + va) n = none →
         ∃ t : State, exec (.rdmaRead q key va n) s = .next t ∧ t.mem = s.mem ∧ t.step = s.step ∧
           t.out = marked ++ [.rdma q.qp (.data (s.bytes (p.winBase w + va) n))]) ∧
       (∀ n o, s.inHostSlot p w va n = true → s.stackOut (p.winBase w + va) n = some o →
         ∃ t : State, exec (.rdmaRead q key va n) s = .next t ∧ t.mem = s.mem ∧
           t.out = marked ++ [.rdma q.qp .nakAccess] ∧
           lookupKey o t.fenceErrors = some ((lookupKey o s.fenceErrors).getD 0 + 1)) ∧
       (∀ (b : Bytes) o, s.inHostSlot p w va b.length = true → s.stackOut (p.winBase w + va) b.length = some o →
         ∃ t : State, exec (.rdmaWrite q key va b) s = .next t ∧ t.mem = s.mem ∧
           t.out = marked ++ [.rdma q.qp .nakAccess] ∧
           lookupKey o t.fenceErrors = some ((lookupKey o s.fenceErrors).getD 0 + 1)) ∧
       (∀ b : Bytes, s.inHostSlot p w va b.length = true → p.winBase w + va + b.length ≤ 0x6000000000 →
         s.stackOut (p.winBase w + va) b.length = none →
         ∃ t : State, exec (.rdmaWrite q key va b) s = .next t ∧ t.out = marked ++ [.rdma q.qp .ack] ∧
           t.bytes (p.winBase w + va) b.length = b ∧
           (∀ a, a < p.winBase w + va ∨ p.winBase w + va + b.length ≤ a → memRead t.mem a = memRead s.mem a) ∧
           t.step = s.step ∧ t.cores = s.cores) ∧
       (∀ b : Bytes, s.inHostSlot p w va b.length = false →
         ∃ t : State, exec (.rdmaWrite q key va b) s = .next t ∧ t.mem = s.mem ∧
           t.out = marked ++ [.rdma q.qp .nakAccess] ∧ t.obj 0x304A 0 = min (2 ^ 32 - 1) (s.obj 0x304A 0 + 1) ∧
           (∀ e ∈ t.qpEntries, qpReady q.qp e = false))) ∧
     (∀ (key : BitVec 32) (va n : Nat), s.keyWindow key = none →
       ∃ t : State, exec (.rdmaRead q key va n) s = .next t ∧ t.mem = s.mem ∧
         t.out = marked ++ [.rdma q.qp .nakAccess])) ∧
  (∀ (s : State) (q : Packet) (key : BitVec 32) (va : Nat) (p : Plan) (w : Window) (k : Nat) (cmp swp : BitVec 64),
     s.qpServes q.qp = true → s.keyWindow key = some (p, w) → w.flagAt va = some k →
     let marked : List Out := s.out ++ (if q.ecn then [.cnp q.qp] else [])
     let a := p.winBase w + va
     s.stackOut a 8 = none →
     (s.word a 8 ≠ cmp.toNat →
       exec (.rdmaCompareSwap q key va cmp swp) s =
         .next { s with out := marked ++ [.rdma q.qp (.atomic (BitVec.ofNat 64 (s.word a 8)))] }) ∧
     (s.word a 8 = cmp.toNat → flipOk cmp.toNat swp.toNat = true →
       ∃ u : State, exec (.rdmaCompareSwap q key va cmp swp) s = .next u.startAll ∧
         u.mem = (s.writeRun a (toLe 8 swp.toNat)).mem ∧ u.step = s.step ∧ u.cores = s.cores ∧
         u.out = marked ++ [.rdma q.qp (.atomic cmp)] ∧ (s.step.status ≠ .running → u.startAll = u)) ∧
     (s.word a 8 = cmp.toNat → flipOk cmp.toNat swp.toNat = false →
       ∃ t : State, exec (.rdmaCompareSwap q key va cmp swp) s = .next t ∧ t.mem = s.mem ∧
         t.out = marked ++ [.rdma q.qp .nakAccess]))

/-! ### Requests -/

/-- Requests are answered (R461, R462, R471, R483): a READ answers the entry's value and executes nothing else; a
refused request answers the status of the first check that fails, in the order of R471; a repeated request is
answered from the kept response and not executed, counted as replayed and by that response's status; and nothing hears a
host whose link is down, or silent management (the model's choice, log entry 1).
A response to a host changes nothing but the counts of requests, the kept responses and what is sent, and carries the
request's number and status (R461, R462, R483): so a READ, and a request refused for its form, its entry, its access,
its length or its segment, leaves the machine as it was. -/
def Obligations.RequestsAreAnswered : Prop :=
  (∀ (s : State) (q : Req),
     (s.answers q.src = false → s.serve q = .next s) ∧
     (∀ r, s.answers q.src = true → s.keptResponse q = some r →
       let u := s.addObj 0x3003 1 1
       let u := if r.istatus = 0 then u else u.addObj 0x3003 2 1
       s.serve q = .next ((if r.istatus = Status.signature.code then u.addObj 0x3003 3 1 else u).respond q.src r)) ∧
     (∀ st, s.answers q.src = true → s.keptResponse q = none → (s.touch q.src).screen q = st → st ≠ .ok →
       s.serve q = .next (((s.touch q.src).noteRefusal q st).replied q ⟨st, [], false⟩) ∧
       ∃ i, ∃ h : i < ((s.touch q.src).checks q).length, ((s.touch q.src).checks q)[i] = (false, st) ∧
         ∀ j, ∀ h' : j < i, (((s.touch q.src).checks q)[j]'(by omega)).1 = true) ∧
     (Accepted s q → q.op = 1 → s.serve q = .next ((s.touch q.src).replied q ((s.touch q.src).execRead q))) ∧
     (Accepted s q → s.serve q = .next (((s.touch q.src).perform q).1.replied q ((s.touch q.src).perform q).2))) ∧
  (∀ (s : State) (q : Req) (a : Answer) (ip : Nat) (port : BitVec 16), s.Inv → q.src = .host ip port →
     s.replied q a = { s with od := (s.replied q a).od, out := s.out ++ [.response q.src (q.response a)],
                              mgmt := { s.mgmt with kept := (s.replied q a).mgmt.kept } } ∧
       (q.response a).iseq = q.h.iseq ∧ (q.response a).istatus = a.st.code ∧
       (s.replied q a).keptResponse q = some (q.response a) ∧
       (∀ idx sub, idx ≠ 0x3003 → sub < 256 → (s.replied q a).obj idx sub = s.obj idx sub) ∧
       (∀ st ∈ [Status.badFrame, .noObject, .noSubindex, .access, .segment, .busy, .length],
         s.noteRefusal q st = s))

/-- Reading (R461, R463, R512, R540): a READ answers the entry's bytes; a SEG_READ from offset 0 takes a snapshot of the
entry for its source and answers its first bytes; an ATTEST forms the report over its nonce; and a read-out of CAPTURE
answers the bytes of the address map from the address set, or the islands' state. -/
def Obligations.ReadsAnswerValues : Prop :=
  ∀ (s : State) (src : Source) (h : FrameHead) (idx : BitVec 16) (sub : BitVec 8) (b : Bytes),
    let v := s.touch src
    (let q := frameOf src h 1 idx.toNat sub.toNat b
     Accepted s q → exec (.ivwidinRead src h idx sub b) s = .next (v.replied q (v.execRead q))) ∧
    (let q := frameOf src h 3 idx.toNat sub.toNat b
     Accepted s q → q.inPlace = false → h.ioffset = 0 →
      ∃ u : State, exec (.segRead src h idx sub b) s = .next (u.replied q ⟨.ok,
          slice (v.domain (v.selection src) idx.toNat sub.toNat) 0 q.wanted,
          decide ((v.domain (v.selection src) idx.toNat sub.toNat).length ≤ q.wanted)⟩) ∧
        (u.snapshotOf q).map Snapshot.bytes = some (v.domain (v.selection src) idx.toNat sub.toNat) ∧
        u.mem = s.mem ∧ u.step = s.step ∧ u.plan = s.plan) ∧
    (let q := frameOf src h 0x10 0 0 b
     Accepted s q → exec (.attest src h b) s =
      .next ({ v with mgmt := { v.mgmt with attestReport := v.attestReport b } }.replied q ⟨.ok, [], false⟩)) ∧
    (let q := frameOf src h 3 0x3F01 1 b
     Accepted s q → exec (.captureReadout src h false b) s =
      .next (v.replied q ⟨.ok, v.readOut (v.obj 0x3F01 0 + h.ioffset.toNat) q.wanted, false⟩)) ∧
    (let q := frameOf src h 3 0x3F01 2 b
     Accepted s q → h.ioffset = 0 →
      ∃ u : State, exec (.captureReadout src h true b) s = .next (u.replied q ⟨.ok,
          slice (v.domain (v.selection src) 0x3F01 2) 0 q.wanted,
          decide ((v.domain (v.selection src) 0x3F01 2).length ≤ q.wanted)⟩) ∧
        u.mem = s.mem ∧ u.step = s.step)

/-- Writes of entries with a behaviour of their own (R349, R440, R472, R477, R481, R490, R507, R510, R513): each accepted one does what its entry says, at once, and is answered `OK`. The writes that start
something (R349, R440, R490, R510, R539): a launch is armed at its count for the step set, the agreement new and
unlocked; a scan runs on the stacks of its mask; a cleared log holds the one record of its clearing; a revoked key is
fused out for good; and a freeze is set at its count and depth. That a new launch count begins the
agreement anew and unlocks staging is the model's reading (log entry 44), and so is that of two triggers the earlier count
and the deeper depth hold (log entry 21). -/
def Obligations.WritesTakeEffect : Prop :=
  (∀ (s : State) (src : Source) (h : FrameHead) (b : Bytes),
     let n := leNat b
     ∀ x ∈ [
       (Instr.nodeId src h b, frameOf src h 2 0x1104 0 b,
         fun (u : State) => ((u.setObj 0x1104 0 n).setObj 0x1104 1 1).chooseRoot),
       (.selectorWrite src h .numeric b, frameOf src h 2 0x3011 0 b,
         fun u => u.select src { u.selection src with numeric := n }),
       (.selectorWrite src h .pred b, frameOf src h 2 0x302F 0 b,
         fun u => u.select src { u.selection src with pred := n }),
       (.selectorWrite src h .pool b, frameOf src h 2 0x2802 0 b,
         fun u => u.select src { u.selection src with pool := n }),
       (.selectorWrite src h .eventFrom b, frameOf src h 2 0x6000 4 b,
         fun u => u.select src { u.selection src with eventFrom := n }),
       (.stageDiscard src h b, frameOf src h 2 0x1200 2 b, fun u => if n = 1 then { u with staged := [] } else u),
       (.eventLogClear src h b, frameOf src h 2 0x6001 0 b, fun u => if n = 1 then u.clearLog else u),
       (.customerKeyRevoke src h b, frameOf src h 2 0x1006 2 b, fun u => if n = 1 then u.fuse none else u),
       (.marginStart src h b, frameOf src h 2 0x2708 0 b, fun u => u.startMargin n),
       (.launchGc src h b, frameOf src h 2 0x2A04 0 b, fun u => u.armLaunch n),
       (.freezeRequestCapture src h, frameOf src h 2 0x3F00 1 [1],
         fun u => u.freezeAt (s.gc.value + 1000) false false 2 s.uptime),
       (.freezeRequestFull src h, frameOf src h 2 0x3F00 1 [2],
         fun u => u.freezeAt (s.gc.value + 1000) true false 2 s.uptime),
       (.freezeAtGc src h b, frameOf src h 2 0x3F00 2 b, fun u => u.freezeRun n),
       (.freezeRelease src h b, frameOf src h 2 0x3F00 3 b, fun u => if n = 1 then u.releaseFreeze else u),
       (.ckptRestore src h b, frameOf src h 2 0x5023 0 b, fun u => u.startRestore n)],
     Accepted s x.2.1 → exec x.1 s = .next (s.wrote x.2.1 x.2.2)) ∧
  (∀ s : State, s.Inv →
     (∀ n, (s.armLaunch n).agree = { AgreeState.initial with hostLaunch := some ⟨s.obj 0x2A04 1, n, 0, false⟩ } ∧
       (s.armLaunch n).stageLock = false ∧ (s.armLaunch n).obj 0x2A04 0 = n ∧ (s.armLaunch n).step = s.step) ∧
     (∀ n, n % 256 ≠ 0 → (s.startMargin n).obj 0x2708 1 = 1 ∧
       (∀ h : Stack, n.testBit h.val = true → h ∈ (s.startMargin n).marginScan) ∧ (s.startMargin n).mem = s.mem) ∧
     (∃ e, s.clearLog.log.recs = [e] ∧ e.code = 0x7103 ∧ e.seq = s.log.nextSeq ∧ e.detail = toLe 4 s.log.recs.length) ∧
     (∀ k, (s.fuse k).nv.fuses = s.nv.fuses ++ [k] ∧
       Logged s (s.fuse k) 0x7205 s.mgmtIsland [if k.isSome then 1 else 2]) ∧
     (∀ c full pin cause g, s.freeze.st = .run → (s.freezeAt c full pin cause g).freeze = ⟨.pending, c, full, pin, 0, g, 0⟩ ∧
       (s.freezeAt c full pin cause g).obj 0x3F00 6 = cause) ∧
     (∀ c full pin cause g, s.freeze.st = .pending →
       (s.freezeAt c full pin cause g).freeze.count = min s.freeze.count c ∧
       (s.freezeAt c full pin cause g).freeze.full = (s.freeze.full || full)))

/-- Plain and staged writes (R470, R474, R518): an accepted write to a plain RW entry is in force at once; one to an RWS
entry is only staged, and the value in force stands; a pin and a layer's policy are staged, too; and a
requested sparing is scheduled with cause 3. -/
def Obligations.WritesSetOrStage : Prop :=
  ∀ (s : State) (src : Source) (h : FrameHead) (b : Bytes),
    (∀ (idx : BitVec 16) (sub : BitVec 8) (o : Obj), objFind idx.toNat sub.toNat = some o → o.acc = .rw →
      idx.toNat ∉ [0x3011, 0x302F, 0x2802, 0x6000, 0x1104, 0x1200, 0x6001, 0x1006, 0x2708, 0x2A04, 0x3F00, 0x5023, 0x5104] →
      ¬ (idx.toNat = 0x2A03 ∧ sub = 0) → ¬ (idx.toNat = 0x5030 ∧ sub = 1) →
      let q := frameOf src h 2 idx.toNat sub.toNat b
      Accepted s q → exec (.ivwidinWrite src h idx sub b) s =
        .next (s.wrote q (fun u => u.setObj idx.toNat sub.toNat (leNat b)))) ∧
    (∀ (idx : BitVec 16) (sub : BitVec 8) (o : Obj), objFind idx.toNat sub.toNat = some o → o.acc = .rws →
      idx.toNat ≠ 0x5104 →
      let q := frameOf src h 2 idx.toNat sub.toNat b
      Accepted s q → exec (.rwsStageWrite src h idx sub b) s =
        .next (s.wrote q (fun u => { u with staged := setKey (objKey idx.toNat sub.toNat) b u.staged }))) ∧
    (∀ k : Kind, s.bringup = .ready →
      let q := frameOf src h 2 0x5104 (k.val + 1) b
      Accepted s q → exec (.programPin src h k b) s =
        .next (s.wrote q (fun u => { u with staged := setKey (objKey 0x5104 (k.val + 1)) b u.staged }))) ∧
    (∀ l : BitVec 8,
      let q := frameOf src h 2 0x2501 l.toNat b
      Accepted s q → exec (.predPolicy src h l b) s =
        .next (s.wrote q (fun u => { u with staged := setKey (objKey 0x2501 l.toNat) b u.staged }))) ∧
    (∀ c : Core, leNat b = c.val →
      let q := frameOf src h 2 0x5030 1 b
      Accepted s q → exec (.spareRequest src h b) s = .next (s.wrote q (fun u => u.scheduleSpare c 3)))

/-- Segmented writes (R35, R40, R431, R452, R463, R466, R493, R517, R539): the segment at offset 0 opens the entry's
transfer, a later one joins it at its offset, and each is answered `OK` before the entry changes; a transfer that ends
with its first segment, or with its second, gives the entry its value: a tap of 16 bytes, a queue-pair table of whole
entries, the fused hash of a customer key of 1,312 bytes. Once every byte has arrived, a plan image is verified, and
`PLAN_STATUS` says verified, or refused with the first check of R40 that fails and event 0x4101; and an update image is
verified into the idle half, or refused with the first check of R517 that fails and event 0x7201. The active plan
stands. That an image too short for its header is of bad size is the model's choice (log entry 146). -/
def Obligations.SegmentsBuildEntries : Prop :=
  (∀ (s : State) (src : Source) (h : FrameHead) (b : Bytes),
    (∀ x ∈ [(Instr.planStage src h b, frameOf src h 4 0x5000 0 b), (.qpTable src h b, frameOf src h 4 0x1103 0 b),
        (.customerKeyProgram src h b, frameOf src h 4 0x1006 0 b)] ++
        (indices 16).map (fun k => (Instr.replayTap src h k b, frameOf src h 4 0x2A08 k.val b)) ++
        (indices 9).map (fun (k : Kind) => (Instr.updateStage src h k b, frameOf src h 4 0x5100 (k.val + 1) b)) ++
        (indices 4).map (fun k => (Instr.segWrite src h 0x1102 (BitVec.ofNat 8 k.val) b, frameOf src h 4 0x1102 k.val b)),
      Accepted s x.2 → x.2.last = false →
      let opened (y : Transfer) : Prop := ∃ u : State, exec x.1 s = .next (u.replied x.2 ⟨.ok, [], false⟩) ∧
        lookupKey (objKey x.2.idx x.2.sub) u.mgmt.transfers = some y ∧
        u.blobs = s.blobs ∧ u.nv.fuses = s.nv.fuses ∧ u.plan = s.plan ∧ u.step = s.step
      (h.ioffset = 0 → opened ⟨src, [(0, b)], none, s.uptime, x.2.signed⟩) ∧
      (∀ y, h.ioffset ≠ 0 → s.transferOf x.2 = some y → y.len = none → opened { y with
        pieces := setKey h.ioffset.toNat b y.pieces, last := s.uptime, signed := y.signed && x.2.signed })) ∧
    (∀ x ∈ (indices 16).map (fun k => (Instr.replayTap src h k b, frameOf src h 4 0x2A08 k.val b)) ++
        [(Instr.qpTable src h b, frameOf src h 4 0x1103 0 b)],
      Accepted s x.2 → x.2.last = true → h.ioffset = 0 → 0 < b.length →
      (x.2.idx = 0x2A08 → b.length = 16) → (x.2.idx = 0x1103 → b.length % 32 = 0) →
      ∃ u : State, exec x.1 s = .next (u.replied x.2 ⟨.ok, [], false⟩) ∧
        lookupKey (objKey x.2.idx x.2.sub) u.blobs = some b ∧ u.mem = s.mem ∧ u.step = s.step) ∧
    (∀ (b0 : Bytes) (y : Transfer), let q := frameOf src h 4 0x1103 0 b
      Accepted s q → q.last = true → h.ioffset = 4096 → s.transferOf q = some y → y.len = none →
      y.pieces = [(0, b0)] → b0.length = 4096 → b.length % 32 = 0 →
      ∃ u : State, exec (.qpTable src h b) s = .next (u.replied q ⟨.ok, [], false⟩) ∧
        lookupKey (objKey 0x1103 0) u.blobs = some (b0 ++ b) ∧ u.mem = s.mem ∧ u.step = s.step) ∧
    (let q := frameOf src h 4 0x1006 0 b
     Accepted s q → q.last = true → h.ioffset = 0 → b.length = 1312 → s.keyUnusable = false →
      ∃ u : State, exec (.customerKeyProgram src h b) s = .next (u.replied q ⟨.ok, [], false⟩) ∧
        u.nv.fuses = s.nv.fuses ++ [some (BitVec.ofNat 256 (sha3Nat b))] ∧
        u.customerKey = some (BitVec.ofNat 256 (sha3Nat b))) ∧
    (∀ img : Bytes, s.Inv →
      let whole (q : Req) : Prop := (((s.ongoing q).getD ⟨src, [], none, 0, true⟩).add q s.uptime).whole = some img
      (let q := frameOf src h 4 0x5000 0 b
       let t := s.touch src
       let v := (if (s.ongoing q).isNone then t.beginTransfer q else t).storeSegment q
       Accepted s q → whole q →
        (h.ioffset.toNat + b.length ≤ 0x180000000 → v.mem = (s.writeRun (s.stagedBase + h.ioffset.toNat) b).mem) ∧
        (∀ p, v.verify img = .verified p →
          ∃ u : State, exec (.planStage src h b) s = .next (u.replied q ⟨.ok, [], false⟩) ∧
            u.stagedSlot = ⟨some p, leNat (trailerAt img 0 32), s.customerKey.isNone⟩ ∧ u.obj 0x5001 0 = 2 ∧
            u.obj 0x5001 1 = 0 ∧ u.obj 0x5001 2 = 0xFFFFFFFF ∧ u.obj 0x5001 3 = 0 ∧ u.plan = s.plan ∧ u.mem = v.mem) ∧
        (∀ code detail desc dcode, v.verify img = .refused code detail desc dcode →
          ∃ u : State, exec (.planStage src h b) s = .next (u.replied q ⟨.range, [], false⟩) ∧
            u.stagedSlot.plan = none ∧ u.obj 0x5001 0 = 3 ∧ u.obj 0x5001 1 = code ∧ u.obj 0x5001 2 = desc ∧
            u.obj 0x5001 3 = dcode ∧ Noted u 0x4101 s.mgmtIsland detail ∧ u.plan = s.plan)) ∧
      (∀ k : Kind, let q := frameOf src h 4 0x5100 (k.val + 1) b
       let code := s.programCheck (k.val + 1) img
       Accepted s q → whole q →
        (code = 0 → ∃ u : State, exec (.updateStage src h k b) s = .next (u.replied q ⟨.ok, [], false⟩) ∧
          u.nv.a.programs[k].staged = some ⟨fieldAt img 12 4, sha3Nat img⟩ ∧
          u.nv.b.programs[k].staged = some ⟨fieldAt img 12 4, sha3Nat img⟩ ∧
          u.obj 0x5101 (k.val + 1) = 2 ∧ u.obj 0x5102 (k.val + 1) = 0 ∧ u.plan = s.plan ∧ u.mem = s.mem) ∧
        (code ≠ 0 → ∃ u : State, exec (.updateStage src h k b) s = .next (u.replied q ⟨.range, [], false⟩) ∧
          u.nv.a.programs[k].staged = none ∧ u.nv.b.programs[k].staged = none ∧ u.obj 0x5101 (k.val + 1) = 3 ∧
          u.obj 0x5102 (k.val + 1) = code ∧ Noted u 0x7201 s.mgmtIsland (toLe 1 (k.val + 1) ++ toLe 1 code) ∧
          u.plan = s.plan)))) ∧
  (∀ (s : State) (b : Bytes),
    let cs : List Bool := [slice b 0 8 = ascii "TG96PLAN" && fieldAt b 8 4 = 0x00010000,
      fieldAt b 16 8 = b.length && decide (b.length ≤ 6 * 2 ^ 30) && decide (2612 ≤ b.length),
      sha3 (imageBody b) = trailerAt b 0 32,
      s.customerKey.all (fun k => BitVec.ofNat 256 (leNat (trailerAt b 32 32)) = k
        && Config.verify k (BitVec.ofNat 256 (leNat (trailerAt b 0 32))) (trailerAt b 64 2420)),
      s.obj 0x1104 1 ≠ 0 && fieldAt b 24 2 = s.obj 0x1104 0]
    (∀ i < 5, (cs.take i).all id = true → cs[i]? = some false → s.verify b = refuse (i + 1)) ∧
    (cs.all id = true →
      (sections b = none → s.verify b = refuse 6) ∧
      (∀ ss, sections b = some ss →
        (sectionsOk b ss = false ∨ parsePlan b ss = none → s.verify b = refuse 6) ∧
        (∀ p, sectionsOk b ss = true → parsePlan b ss = some p →
          let raws := (List.range 48).map (fun c => chunked 128 ((sectionOf b ss 1 c).getD []))
          let found := p.refusedDesc (chunked 64 ((sectionOf b ss 2 0).getD []))
          let d : List Bool := [p.sectionsAgree, !reservedSet b ss raws, p.recordsOk raws && !s.wrongStream p]
          (∀ i < 3, (d.take i).all id = true → d[i]? = some false → s.verify b = refuse (i + 6)) ∧
          (∀ n k, d.all id = true → found = some (n, k) → s.verify b = .refused 9 [9, BitVec.ofNat 8 k] n k) ∧
          (∀ k e, d.all id = true → found = none → s.microFail p = some (k, e) →
            s.verify b = .refused 0xA [0xA, BitVec.ofNat 8 k, BitVec.ofNat 8 e] 0xFFFFFFFF 0) ∧
          (d.all id = true → found = none → s.microFail p = none → s.verify b = .verified p))))) ∧
  (∀ (vendor : BitVec 256) (hw kind : Nat) (b : Bytes),
    let size := fieldAt b 16 8
    let tr := b.drop (128 + size)
    let cs : List Bool := [
      slice b 0 8 = ascii "TG96PROG" && allZero (slice b 9 3) && allZero (slice b 26 6) && allZero (slice b 64 64),
      b.length = 128 + size + 2452 && decide (1 ≤ size) && decide (size ≤ 64 * 2 ^ 20),
      sha3 (slice b 128 size) = slice b 32 32,
      BitVec.ofNat 256 (leNat (slice tr 0 32)) = vendor
        && Config.verify vendor (BitVec.ofNat 256 (sha3Nat (b.take (128 + size)))) (slice tr 32 2420),
      fieldAt b 8 1 = kind, decide (fieldAt b 24 2 ≤ hw)]
    (cs.all id = true → programCode vendor hw kind b = 0) ∧
    (∀ i < 6, (cs.take i).all id = true → cs[i]? = some false → programCode vendor hw kind b = i + 1))

/-- Ten seconds without a segment end a transfer, and ten without a read a snapshot (R463); before that they stand. -/
def Obligations.TransfersAndSnapshotsExpire : Prop :=
  ∀ (s : State) (idx : BitVec 16) (sub : BitVec 8), s.phase = .up →
    (∀ x, lookupKey (objKey idx.toNat sub.toNat) s.mgmt.transfers = some x →
      (x.last + 10000000000 ≤ s.uptime →
        ∃ t : State, exec (.segTransferTimeout idx sub) s = .next t ∧
          t.mgmt.transfers = dropKey (objKey idx.toNat sub.toNat) s.mgmt.transfers ∧ t.mem = s.mem ∧
          t.plan = s.plan ∧ t.step = s.step) ∧
      (s.uptime < x.last + 10000000000 → exec (.segTransferTimeout idx sub) s = .next s)) ∧
    (∀ src : Source, ∃ t : State, exec (.snapshotExpiry src idx sub) s = .next t ∧
      t = { s with mgmt := { s.mgmt with snapshots := t.mgmt.snapshots } } ∧
      ∀ x, x ∈ t.mgmt.snapshots ↔ x ∈ s.mgmt.snapshots ∧
        ¬ (x.src = src ∧ x.key = objKey idx.toNat sub.toNat ∧ x.last + 10000000000 ≤ s.uptime))

/-- A peer's frame (R464): one for this module asks what its header says, in the peer's name, with at most 200 bytes of
payload and no signature, and is served; its answer goes back in the same form. One that asks for what must be signed,
and passes the checks before, is answered `SIGNATURE`. A response asks for nothing. -/
def Obligations.PeersAreServed : Prop :=
  (∀ (s : State) (p : Port) (f : Flit), InOrder s p f → s.obj 0x1104 1 ≠ 0 → f.dst = s.nodeId →
    let t := s.delivered p f
    ((fieldAt f.payload 2 2).testBit 2 = true → exec (.mgmt p f) s = .next t) ∧
    ((fieldAt f.payload 2 2).testBit 2 = false →
      let q := peerRequest f.src f.payload
      let v := t.touch q.src
      q.src = .peer f.src ∧ q.h.auth = none ∧ q.payload.length ≤ 200 ∧
      (Accepted t q → exec (.mgmt p f) s = .next ((v.perform q).1.replied q (v.perform q).2)) ∧
      (t.answers q.src = true → t.keptResponse q = none → q.reads = false → v.mustSign q.idx q.sub = true →
        (v.checks q).take 4 = [(true, .badFrame), (true, .noObject), (true, .noSubindex), (true, .access)] →
        ∃ u : State, exec (.mgmt p f) s = .next (u.replied q ⟨.signature, [], false⟩) ∧ u.mem = s.mem ∧
          u.step = s.step ∧ u.staged = s.staged ∧ u.nv = s.nv ∧
          Noted u 0x7101 s.mgmtIsland (toLe 2 q.idx ++ toLe 1 q.sub ++ [4])))) ∧
  (∀ (q : Req) (a : Answer), let b := (q.response a).frame
    b.length ≤ 224 ∧ fieldAt b 20 2 = b.length - 24 ∧ fieldAt b 20 2 ≤ 200 ∧ (fieldAt b 2 2).testBit 0 = false ∧
    (fieldAt b 2 2).testBit 2 = true)

/-! ### Records -/

/-- Records that write no tensor (R44, R302, R379, R380): a no-operation has no effect but to finish; a gate lets the
records it governs run, without counts under `SENSE` 0, or skips them, as the directory row's state says; a prefetch
lands its reads in its die's cache and finishes; and a cancel makes the tag invalid for the prefetch in flight. No byte
of memory changes. Completes: `noOperation`, `regenGate`, `prefetch`, `cancel`. -/
def Obligations.QuietRecordsLeaveMemory : Prop :=
  (∀ (s : State) (c : Core) (r : Nat) (p : Plan) (rc : Rec) (q : QRec), RecordReady s c r p rc q →
    let x := s.ctx p c rc q
    (rc.engine = 0 → rc.func = 0 → exec (.noOperation c r) s = .next (s.finish c r)) ∧
    (∀ (n : Nat) (dir : Desc), rc.engine = 0 → rc.func = 1 → x.rd rc.desc4 = some (n, dir) →
      OperandsSound s c p rc q ⟨fun r => [r.desc4].filterMap id, gateSpans⟩ →
      let st := s.stashState dir (stashRow s.step.current rc.stashSlot (rc.param1.toNat.testBit 12))
      let sense := rc.param1.toNat.testBit 13
      let count := rc.param0.toNat % 65536
      ∃ t : State, exec (.regenGate c r) s = .next t ∧ t.mem = s.mem ∧ (∀ d : Core, d ≠ c → t.cores[d] = s.cores[d]) ∧
        t.cores[c].tallies = s.cores[c].tallies ∧ t.qrec c r = some { q with phase := .executed } ∧
        ((sense = true ∧ st = 1) ∨ (sense = false ∧ st = 2) → t.cores[c].skip = 0) ∧
        ((sense = true ∧ st ≠ 1) ∨ (sense = false ∧ st ≠ 2) → t.cores[c].skip = count ∧ t.cores[c].sense0 = 0) ∧
        (sense = false → st = 2 → t.cores[c].sense0 = count)) ∧
    (wantStream 6 rc = true →
      ∃ u : State, exec (.cancel c r) s = .next ((u.finish c r).settle c) ∧ u.mem = s.mem ∧
        (s.cores[c].inflight.any (p.isPrefetch c rc.param0) = false → u = s) ∧
        (s.cores[c].inflight.any (p.isPrefetch c rc.param0) = true →
          rc.param0 ∈ u.cores[c].cancelled ∧
          ∀ y ∈ u.cores[c].inflight, p.isPrefetch c rc.param0 y = true → y.tagInvalid = true ∧ y.reads.length ≤ 32))) ∧
  (∀ (s : State) (c : Core) (r : Nat) (p : Plan) (rc : Rec) (q : QRec) (n : Nat) (d : Desc), s.awake = true →
    s.step.status = .running → s.plan = some p → p.recAt c r = some rc → s.qrec c r = some q → q.phase = .started →
    q.tagInvalid = false → q.passed = q.chainTiles → wantStream 5 rc = true →
    let v := s.landAll c r
    let done : QRec := { q with reads := [] }
    let x := v.ctx p c rc done
    x.rd rc.desc0 = some (n, d) → OperandsSound v c p rc done prefetchReads → (v.prefetchRows x d).isSome = true →
    ∃ t : State, exec (.prefetch c r) s = .next t ∧ t.mem = s.mem ∧ t.step.current = s.step.current ∧
      t.qrec c r = some { done with phase := .executed } ∧ ∀ e : CDie, e ≠ coreDie c → t.caches[e] = s.caches[e])

/-- A dense product (R89, R145, R160, R162, R167) writes each output element of its mode over K and runs to its end:
multiply-add and the two distances sum exact terms in the chunked class; max-plus and min-plus take the extremum of terms
that the float class rounds to `FP32`; compare-and-count counts the true ordered comparisons; and a BLK16 product whose
tiles pass their checks sums the stored entries of its lines. Completes: `matrixProductMultiplyAdd`,
`squaredL2Distance`, `l1Distance`, `maxPlus`, `minPlus`, `compareAndCount`, `blk16Product`. -/
def Obligations.DenseProductsComputeTheirMode : Prop :=
  ∀ (s : State) (c : Core) (r : Nat) (p : Plan) (rc : Rec) (q : QRec) (na nb no : Nat) (a b out : Desc),
    RecordReady s c r p rc q → rc.engine = 1 →
    let x := s.ctx p c rc q
    let sbA := (x.rd rc.desc5).map Prod.snd
    let sbB := (x.rd rc.desc4).map Prod.snd
    let int := a.fmt.isIntClass
    let sum (l : List (Nat × Val)) : OutElem := OutElem.ofAcc (orZero (reduceTerms int (rc.flag 3) rc.segbase l))
    let pairs (o : List Nat) (n : Nat) : List (Val × Val) :=
      (List.range (a.size 0)).map (fun k => (s.val a sbA (k :: o), s.val b sbB (k :: n :: o.drop 1)))
    let termwise (f : Val → Val → Val) (l : List (Val × Val)) : OutElem :=
      sum ((List.range l.length).zip (l.map (fun y => f y.1 y.2)))
    let rows (elem : List Nat → Nat → OutElem) : List (List Nat × List OutElem) :=
      out.outers.map (fun o => (o, (List.range (out.size 0)).map (elem o)))
    x.rd rc.desc0 = some (na, a) → x.rd rc.desc1 = some (nb, b) → x.wr rc.desc2 = some (no, out) →
    (rc.func = 1 → OperandsSound s c p rc q denseReads →
      let t := s.noteReads p (s.spansOf c p rc q denseReads)
      ∀ y ∈ [(Instr.matrixProductMultiplyAdd c r, (0 : Fin 8), termwise Val.mul),
          (.squaredL2Distance c r, 1, termwise (fun u v => (u.sub v).mul (u.sub v))),
          (.l1Distance c r, 2, termwise absDiff),
          (.maxPlus c r, 3, tropical int true), (.minPlus c r, 4, tropical int false),
          (.compareAndCount c r, 5, fun l =>
            ⟨Val.ofInt ((l.filter (fun y => comparePred (rc.param0.toNat % 8) y.1 y.2)).length : Nat), false, false, false⟩)],
        rc.mode = y.2.1 →
        let u := (t.writeDense x (int || rc.mode = 5) (s.mismatches a sbA a.outers, s.mismatches b sbB b.outers)
          (rows (fun o n => y.2.2 (pairs o n))) na nb).finish c r
        exec y.1 s = .next u ∧ Ran s u c r q) ∧
    (rc.func = 2 → OperandsSound s c p rc q blkReads →
      let t := s.noteReads p (s.spansOf c p rc q blkReads)
      let g := blkShape a b
      let ts := (t.readTiles b [.blk] g.kt false none
        ((spGroups g none).map (fun l => (List.range g.chunks).flatMap (groupTiles g l))).flatten).tiles
      t.blkClean x →
        let u := (t.writeDense x int (s.mismatches a sbA a.outers, 0) (rows (fun o n => sum ((spLine g ts n).map (fun e =>
          (e.1, (s.val a sbA (e.1 :: o)).mul (b.fmt.decode e.2)))))) na nb).finish c r
        exec (.blk16Product c r) s = .next u ∧ Ran s u c r q)

/-- The sparse engine's records carry out their effect, and run to their end where no list, offset tensor, map entry or
tile they take is malformed (R199, R213, R215, R217, R222, R226); dispatch places tokens within its limits (R224): no
expert holds more than `CAP`, no token stands twice with an expert, and no slot holds two tokens; and in a plain product
each line of a finished line group sums its stored entries times the dense operand (R198). A sampled product writes, at
each stored position of its structure, the sum over the tokens of the two operands' products; a gather copies the row at
each position, clamped or zero where it lies out of range, within its segment; a scatter-add sums what is placed at each
destination; a combine sums its tokens' slots by their gates, and a malformed map entry aborts the step with event
0x4406 before anything is written (the model's reading, log entries 108 and 187). Completes: `brtKProduct`,
`csrTProduct`, `sampledProduct`, `gather`, `scatterAdd`, `expertDispatch`, `expertCombine`. -/
def Obligations.SparseRecordsRun : Prop :=
  (∀ (s : State) (c : Core) (r : Nat) (p : Plan) (rc : Rec) (q : QRec), RecordReady s c r p rc q → rc.engine = 2 →
    let x := s.ctx p c rc q
    let noted (reads : Reads) : State := s.noteReads p (s.spansOf c p rc q reads)
    ∀ y ∈ [(Instr.brtKProduct c r, (1 : BitVec 12), spReads .brt, spProduct .brt, (noted (spReads .brt)).spClean x .brt),
        (.csrTProduct c r, 2, spReads .csr, spProduct .csr, (noted (spReads .csr)).spClean x .csr),
        (.sampledProduct c r, 3, sampledReads, sampledEffect, (noted sampledReads).sampledClean x),
        (.gather c r, 0x10, gatherRecReads, gatherEffect, (noted gatherRecReads).gatherClean x),
        (.scatterAdd c r, 0x11, scatterReads, scatterEffect, (noted scatterReads).scatterClean x),
        (.expertDispatch c r, 0x20, dispatchReads, dispatchEffect, (noted dispatchReads).scatterClean x),
        (.expertCombine c r, 0x21, combineReads, combineEffect, (noted combineReads).combineClean x)],
      rc.func = y.2.1 → OperandsSound s c p rc q y.2.2.1 →
      let u := (y.2.2.2.1 x q (noted y.2.2.1)).finish c r
      exec y.1 s = .next u ∧ (y.2.2.2.2 → Ran s u c r q)) ∧
  (∀ (r : Rec) (l : List (List (Option Nat))),
    let d := dispatchPlacing r (l.zipIdx.map (fun e => (e.2, e.1)))
    (∀ e, d.fill e ≤ r.cap) ∧
    d.places.Pairwise (fun u v => ¬ (u.1 = v.1 ∧ u.2.2.1 = v.2.2.1)) ∧
    d.places.Pairwise (fun u v => ¬ (u.2.2.1 = v.2.2.1 ∧ u.2.2.2.1 = v.2.2.2.1)) ∧
    d.places.length + d.residual = r.topk * l.length) ∧
  (∀ (s : State) (x : Ctx) (q : QRec) (nx nw no : Nat) (xd w out : Desc),
    x.rd x.r.desc0 = some (nx, xd) → x.rd x.r.desc1 = some (nw, w) → x.wr x.r.desc2 = some (no, out) →
    x.r.param0.toNat / 16 % 4 = 0 → x.rd (paramDesc x.r.param1) = none → x.rd x.r.desc3 = none → x.rd x.r.desc5 = none →
    x.r.flag 7 = false → xd.fmt.isMx = false →
    let g := spShape x xd w out
    let groups := spGroups g none
    let reads := groups.map (fun l => (List.range g.chunks).flatMap (groupTiles g l))
    let m := s.readTiles w [.brt] g.kt g.trans none reads.flatten
    m.bad = none →
    spProduct .brt x q s = (s.writeFinal x no out ((x.wr (paramDesc x.r.param2)).map Prod.snd)
      ((List.range (xd.size 1)).map (fun t => ([t],
        (groups.zip (cutRuns (reads.map List.length) m.tiles)).flatMap (fun y => y.1.map (fun l =>
          OutElem.ofAcc (orZero (reduceTerms w.fmt.isIntClass false x.r.segbase ((spLine g y.2 l).map (fun e =>
            (e.1, (w.fmt.decode e.2).mul (s.val xd none [e.1, t])))))))))))).stampPlane x no) ∧
  (∀ (s : State) (x : Ctx) (q : QRec) (nu nv no nst : Nat) (u v plane st : Desc),
    x.rd x.r.desc0 = some (nu, u) → x.rd x.r.desc1 = some (nv, v) → x.wr x.r.desc2 = some (no, plane) →
    x.rd (paramDesc x.r.param1) = some (nst, st) → x.r.flag 7 = false → s.sampledClean x →
    let kt := max 1 (v.size 1 / 128)
    let m := s.readTiles st [.brt, .csr] (v.size 1 / 128) false none
      ((List.range (st.size 1)).map (fun i => (i, List.range 128)))
    let at' (n k : Nat) : OutElem := OutElem.ofAcc (orZero (reduceTerms u.fmt.isIntClass false x.r.segbase
      ((List.range (u.size 0)).map (fun t => (t, (s.val u none [t, n]).mul (s.val v none [t, k]))))))
    ∃ t : State, OnlyCounts s t ∧ sampledEffect x q s = (t.writeFinal x no plane
      ((x.wr (paramDesc x.r.param2)).map Prod.snd) (m.tiles.map (fun y =>
        ([y.1], (List.range (plane.size 0)).map (fun j => match lookupKey j (sampledPlaces y.2) with
          | some (r, c) => at' (128 * (y.1 / kt) + r) (128 * (y.1 % kt) + c)
          | none => ⟨Val.zero, false, false, false⟩))))).stampPlane x no) ∧
  (∀ t : TileData,
    (t.hdr.tfmt = 1 → ∀ l ∈ t.lines, ∀ (j c e : Nat), l.2[j]? = some (c, e) → (l.1 * t.hdr.tk + j, l.1, c) ∈ sampledPlaces t) ∧
    (t.hdr.tfmt = 2 → (sampledPlaces t).map Prod.snd = t.lines.flatMap (fun l => l.2.map (fun e => (l.1, e.1))) ∧
      (sampledPlaces t).map Prod.fst = List.range (sampledPlaces t).length)) ∧
  (∀ (s : State) (x : Ctx) (q : QRec) (ns no : Nat) (src out : Desc),
    x.rd x.r.desc0 = some (ns, src) → x.wr x.r.desc2 = some (no, out) → x.rd (paramDesc x.r.param2) = none →
    out.sizes.length = 2 → x.r.param0.toNat / 65536 % 256 ≤ 1 →
    let pos (i : Nat) : Int := (match x.rd x.r.desc4 with
      | some y => s.intAt y.2 i
      | none => i) + x.r.param1.toInt
    let row (i : Nat) : List Val := s.row src ((x.rd x.r.desc5).map Prod.snd) [i]
    ∃ t : State, OnlyCounts s t ∧ gatherEffect x q s = (t.writeFinal x no out ((x.wr x.r.desc1).map Prod.snd)
      ((List.range (out.size 1)).map (fun i => ([i], plainElems (
        if 0 ≤ pos i ∧ pos i < src.size 1 then row (pos i).toNat
        else if src.drop = true then List.replicate (out.size 0) Val.zero
        else row (if pos i < 0 then 0 else src.size 1 - 1)))))).stampPlane x no) ∧
  (∀ (drop : Bool) (m : Nat) (o : List Nat) (k lo hi : Nat) (p r : Int), o.Pairwise (· ≤ ·) → o[k]? = some lo →
    o[k + 1]? = some hi → hi ≤ m → (lo : Int) ≤ p → p < hi →
    gatherPos drop m (some o) p r = if (lo : Int) ≤ r ∧ r < hi then .inRange r.toNat
      else if drop then .dropped else .clamped (if r < lo then lo else hi - 1)) ∧
  (∀ (s : State) (x : Ctx) (q : QRec) (ns no : Nat) (w : Int) (src out : Desc),
    x.rd x.r.desc0 = some (ns, src) → x.wr x.r.desc2 = some (no, out) → x.rd (paramDesc x.r.param2) = none →
    x.rd x.r.desc5 = none → x.r.flag 0 = false → 0 < out.size 0 → (out.size 0 : Int) ≤ w →
    (∀ e d : Nat, out.offset [e, d] = e + d * w) →
    let pos (i : Nat) : Int := match x.rd x.r.desc4 with
      | some y => s.intAt y.2 i
      | none => i
    let place (i : Nat) : Option Nat := if 0 ≤ pos i ∧ pos i < out.size 1 then some (pos i).toNat
      else if out.drop = true then none else some (if pos i < 0 then 0 else out.size 1 - 1)
    let at' (d : Nat) : List Nat := (List.range (src.size 1)).filter (fun i => place i = some d)
    ∃ t : State, OnlyCounts s t ∧ scatterEffect x q s = (t.writeFinal x no out ((x.wr x.r.desc1).map Prod.snd)
      (((List.range (out.size 1)).filter (fun d => at' d ≠ [])).map (fun d =>
        ([d], (List.range (out.size 0)).map (fun e => OutElem.ofAcc (orZero (reduceTerms src.fmt.accInt false x.r.segbase
          ((at' d).zipIdx.map (fun y => (y.2, s.val src none [e, y.1])))))))))).stampPlane x no) ∧
  (∀ (s : State) (x : Ctx) (q : QRec) (ny ng no nm : Nat) (y gate out map : Desc),
    x.rd x.r.desc0 = some (ny, y) → x.rd x.r.desc1 = some (ng, gate) → x.wr x.r.desc2 = some (no, out) →
    x.rd x.r.desc4 = some (nm, map) → x.rd (paramDesc x.r.param2) = none → x.rd x.r.desc3 = none → out.acc ≠ 2 →
    let slot (i j : Nat) : Int := s.int map [j, i]
    let place (i j : Nat) : Int := s.int map [8 + j, i]
    let good (i j : Nat) : Prop := (slot i j = -1 ∧ place i j = -1) ∨
      (0 ≤ slot i j ∧ slot i j < (x.r.nexp * x.r.cap : Nat) ∧ 0 ≤ place i j ∧ place i j < (x.r.rlen : Nat))
    let terms (i d : Nat) : List (Nat × Val) := ((List.range x.r.topk).filter (fun j => decide (0 ≤ slot i j))).map (fun j =>
      (j, (s.val gate none [(place i j).toNat, i]).mul
        (s.val y none [d, (slot i j).toNat % max 1 x.r.cap, (slot i j).toNat / max 1 x.r.cap])))
    ((∀ i < out.size 1, ∀ j < x.r.topk, good i j) → combineEffect x q s = (s.writeFinal x no out none
      ((List.range (out.size 1)).map (fun i => ([i], (List.range (out.size 0)).map (fun d =>
        OutElem.ofAcc (orZero (reduceTerms false false x.r.segbase (terms i d)))))))).stampPlane x no) ∧
    (∀ i < out.size 1, ∀ j < x.r.topk, ¬ good i j → (∀ k < i, ∀ l < x.r.topk, good k l) → (∀ l < j, good i l) →
      combineEffect x q s = s.abortWith 0x4406 x.island (toLe 4 x.r.recno ++ toLe 4 (bitsOfInt 32 (slot i j)))))

/-- The vector unit's records (R107, R306 to R309) apply their function to every element, read in `FP32`, and run to
their end: the nine element-wise operations, the tables and the derivatives; a reduction gives one result for each row;
and a dropout mask is 1 where its draw lies below the threshold. Completes: `elementAdd`, `elementSubtract`,
`elementMultiply`, `elementDivide`, `elementMaximum`, `elementMinimum`, `elementSquareRoot`, `elementLogarithm`,
`elementCompare`, `tableFunction`, `derivativeTable`, `derivativeHusk`, `reduceSum`, `reduceMean`, `reduceMaximum`,
`reduceMinimum`, `dropoutMask`. -/
def Obligations.VectorRecordsApplyTheirFunction : Prop :=
  ∀ (s : State) (c : Core) (r : Nat) (p : Plan) (rc : Rec) (q : QRec), RecordReady s c r p rc q → rc.engine = 3 →
    let x := s.ctx p c rc q
    (OperandsSound s c p rc q vuReads →
      let t := s.noteReads p (s.spansOf c p rc q vuReads)
      (∀ a : VuIn, s.vuRead x rc.desc0 rc.desc5 = some a →
        let map1 (f : Val → Val) : State :=
          (t.vuCharge x a).vuWrite x (a.rows.map (fun e => (e.1, plainElems (e.2.map f))))
        (rc.func = 3 → ∀ y ∈ [(Instr.elementSquareRoot c r, 6, sqrtF32), (.elementLogarithm c r, 7, logF32)],
          rc.param0.toNat % 16 = y.2.1 →
          exec y.1 s = .next ((map1 y.2.2).finish c r) ∧ Ran s ((map1 y.2.2).finish c r) c r q) ∧
        (∀ pair, rc.func = 1 → x.pair = some pair →
          exec (.tableFunction c r) s = .next ((map1 pair.1.eval).finish c r) ∧
          Ran s ((map1 pair.1.eval).finish c r) c r q) ∧
        (∀ b : VuIn, s.vuRead x rc.desc1 rc.desc4 = some b →
          let map2 (f : Val → Val → Val) : State := (((t.vuCharge x a).vuCharge x b).vuWrite x
              ((a.rows.zip b.rows).map (fun e => (e.1.1, plainElems (List.zipWith f e.1.2 e.2.2))))).finish c r
          (rc.func = 3 →
            ∀ y ∈ [(Instr.elementAdd c r, 0, addF32), (.elementSubtract c r, 1, subF32), (.elementMultiply c r, 2, mulF32),
                (.elementDivide c r, 3, divF32), (.elementMaximum c r, 4, Val.max), (.elementMinimum c r, 5, Val.min),
                (.elementCompare c r, 8, fun u v =>
                  if vectorPred (rc.param0.toNat / 16 % 8) u v then Val.one else Val.zero)],
              rc.param0.toNat % 16 = y.2.1 → exec y.1 s = .next (map2 y.2.2) ∧ Ran s (map2 y.2.2) c r q) ∧
          (∀ pair, rc.func = 2 → rc.param0.toNat / 256 % 4 = 0 → x.pair = some pair →
            let f (dy v : Val) : Val := mulF32 dy (pair.2.eval v)
            exec (.derivativeTable c r) s = .next (map2 f) ∧ Ran s (map2 f) c r q) ∧
          (rc.func = 2 → rc.param0.toNat / 256 % 4 = 1 →
            let f (dy h : Val) : Val := mulF32 dy (decodeF32 (if h.isZero then rc.param2 else rc.param1))
            exec (.derivativeHusk c r) s = .next (map2 f) ∧ Ran s (map2 f) c r q)) ∧
        (∀ na a' no out, x.rd rc.desc0 = some (na, a') → x.wr rc.desc2 = some (no, out) → rc.func = 4 →
          ∀ y ∈ [(Instr.reduceSum c r, 0), (.reduceMean c r, 1), (.reduceMaximum c r, 2), (.reduceMinimum c r, 3)],
            rc.param0.toNat % 4 = y.2 →
            let u := ((t.vuCharge x a).vuWrite x (reduceRows a'.sizes.length out y.2 rc.segbase a.rows)).finish c r
            exec y.1 s = .next u ∧ Ran s u c r q))) ∧
    (∀ no out, rc.func = 5 → x.wr rc.desc2 = some (no, out) →
      let u := (s.vuWrite x (out.outers.map (fun o => (o, plainElems ((List.range (out.size 0)).map (fun i =>
        if s.draw s.step.current (out.tid rc.mbtag.toNat) (linearIndex out.sizes (i :: o)) < rc.param1.toNat
        then Val.one else Val.zero)))))).finish c r
      exec (.dropoutMask c r) s = .next u ∧ Ran s u c r q)

/-- An element-wise record stores to its output and nowhere else (R123, R124, R307): for an output of plain rows that is
no weight plane, every byte off the rows it stores reads as it did, at every device address, and so does every core's
tally, the plan, the map and every port. Completes: `elementAdd`, `elementSubtract`, `elementMultiply`, `elementDivide`,
`elementMaximum`, `elementMinimum`, `elementSquareRoot`, `elementLogarithm`, `elementCompare`. -/
def Obligations.ElementRecordsStoreOnlyTheirOutput : Prop :=
  ∀ (s : State) (c : Core) (r : Nat) (p : Plan) (rc : Rec) (q : QRec) (na no : Nat) (a out : Desc),
    RecordReady s c r p rc q → OperandsSound s c p rc q vuReads →
    let x := s.ctx p c rc q
    x.rd rc.desc0 = some (na, a) → x.wr rc.desc2 = some (no, out) → rc.engine = 3 → rc.func = 3 → out.sizes = a.sizes →
    out.fmt.isMx = false → p.planeOf no = none →
    (∀ o ∈ out.outers, s.compressedAt (out.bitAddr (0 :: o) / 8) = none) →
    ∀ y ∈ [(Instr.elementAdd c r, 0), (.elementSubtract c r, 1), (.elementMultiply c r, 2), (.elementDivide c r, 3),
        (.elementMaximum c r, 4), (.elementMinimum c r, 5), (.elementSquareRoot c r, 6), (.elementLogarithm c r, 7),
        (.elementCompare c r, 8)],
      rc.param0.toNat % 16 = y.2 →
      ∃ t : State, exec y.1 s = .next t ∧
        (∀ z, (∀ o ∈ out.outers, ∀ u v, s.phys z = some u → s.phys (out.bitAddr (0 :: o) / 8) = some v →
            u < v ∨ v + ceilDiv (out.fmt.bits * out.size 0) 8 ≤ u) → t.byte z = s.byte z) ∧
        (∀ d : Core, t.cores[d].tallies = s.cores[d].tallies) ∧ t.plan = s.plan ∧ t.coreMap = s.coreMap ∧
        t.ports = s.ports ∧ t.step.status = s.step.status ∧ t.gc = s.gc

/-- Copies, the stash, the optimizer and the predictor (R133, R134, R265 to R277, R294, R299, R301, R315) carry out their
effect, and run to their end where the slot read holds an entry, the tiles of the slices pass their checks, and no list,
index or offset tensor is malformed; an update of each algorithm is the sequence of roundings of R315; a predictor names
at most A neurons, in ascending order, each above its threshold; and a stash read of a row that holds nothing aborts the
step with event 0x4602. A copy converts every element, or moves the bits of a load or a tile stream; a transpose copy
exchanges two dimensions; a stash write packs its codes into the two regions and its row, and a stash read unpacks them;
a compose record writes each weight's two halves as one value; a check finds the neurons that were missed and, by policy,
names the first G of them or halts the step; a merge orders lines by its index; and a reference count compares the
neurons left out with the reference. Completes: `copy`, `transposeCopy`, `stashWrite`, `stashRead`, `optimizerMomentumSgd`,
`optimizerAdam`, `optimizerAdamw`, `compose`, `predict`, `check`, `merge`, `referenceCount`. -/
def Obligations.CopiesOptimizersAndPredictorsRun : Prop :=
  (∀ (s : State) (c : Core) (r : Nat) (p : Plan) (rc : Rec) (q : QRec), RecordReady s c r p rc q →
    let x := s.ctx p c rc q
    let noted (reads : Reads) : State := s.noteReads p (s.spansOf c p rc q reads)
    let alg (n : Nat) : Bool := rc.param0.toNat % 16 = n
    let slices := (noted optReads).slicesClean x (rc.param0.toNat / 256 % 256)
    ∀ y ∈ [(Instr.copy c r, (5 : Fin 16), (1 : BitVec 12), true, copyReads, copyEffect, True),
        (.transposeCopy c r, 5, 2, true, copyReads, transposeEffect, True),
        (.stashWrite c r, 5, 3, true, stashWriteReads, stashWriteEffect, True),
        (.stashRead c r, 5, 4, true, stashReadReads, stashReadEffect, (noted stashReadReads).stashClean x),
        (.optimizerMomentumSgd c r, 3, 0x010, alg 0, optReads, optEffect, slices),
        (.optimizerAdam c r, 3, 0x010, alg 1, optReads, optEffect, slices),
        (.optimizerAdamw c r, 3, 0x010, alg 2, optReads, optEffect, slices),
        (.compose c r, 3, 0x011, true, composeReads, composeEffect,
          (noted composeReads).slicesClean x (rc.param0.toNat % 256)),
        (.predict c r, 4, 1, true, predictReads, predictEffect, (noted predictReads).tokensClean x),
        (.check c r, 4, 2, true, checkReads, checkEffect, (noted checkReads).listClean x),
        (.merge c r, 4, 3, true, mergeReads, mergeEffect, (noted mergeReads).mergeClean x),
        (.referenceCount c r, 4, 4, true, refReads, refEffect, (noted refReads).listClean x)],
      rc.engine = y.2.1 → rc.func = y.2.2.1 → y.2.2.2.1 = true → OperandsSound s c p rc q y.2.2.2.2.1 →
      let u := (y.2.2.2.2.2.1 x q (noted y.2.2.2.2.1)).finish c r
      exec y.1 s = .next u ∧ (y.2.2.2.2.2.2 → Ran s u c r q)) ∧
  (∀ (h : Hyper) (w g m v : Val),
    let g' := mulF32 h.gam g
    let decayed := fmaF32 h.lam w g'
    let m' (g : Val) := fmaF32 h.b1 m (mulF32 h.c1 g)
    let v' (g : Val) := fmaF32 h.b2 v (mulF32 h.c2 (mulF32 g g))
    let q (g : Val) := divF32 (m' g) (addF32 (sqrtF32 (v' g)) h.eps)
    optStep 0 h w g m v = (fmaF32 h.eta.neg (fmaF32 h.b1 m decayed) w, fmaF32 h.b1 m decayed, v) ∧
    optStep 1 h w g m v = (fmaF32 h.eta.neg (q decayed) w, m' decayed, v' decayed) ∧
    optStep 2 h w g m v = (fmaF32 h.eta.neg (fmaF32 h.lam w (q g')) w, m' g', v' g')) ∧
  (∀ (theta : Val) (a : Nat) (score : List Val),
    (nameNeurons theta a score).1.length ≤ a ∧ (nameNeurons theta a score).1.Pairwise (· < ·) ∧
    (∀ n ∈ (nameNeurons theta a score).1, theta.lt (score.getD n Val.zero) = true) ∧
    (nameNeurons theta a score).1.length = min a (nameNeurons theta a score).2) ∧
  (∀ (s : State) (x : Ctx) (q : QRec) (a b d e : Nat × Desc), x.rd x.r.desc0 = some a → x.wr x.r.desc2 = some b →
    x.rd x.r.desc3 = some d → x.rd x.r.desc4 = some e →
    s.stashState e.2 (stashRow x.step x.r.stashSlot (x.r.param0.toNat.testBit 0)) ≠ 1 →
    stashReadEffect x q s = s.abortWith 0x4602 x.island (stashDetail x)) ∧
  (∀ (s : State) (x : Ctx) (q : QRec) (ns nt : Nat) (src tgt : Desc),
    x.rd x.r.desc0 = some (ns, src) → x.wr x.r.desc2 = some (nt, tgt) →
    let sbS := (x.rd x.r.desc4).map Prod.snd
    let sbT := (x.wr x.r.desc5).map Prod.snd
    let d := x.r.param0.toNat % 8
    let moved (idx : List Nat) : Val := s.val src sbS ((idx.set 0 (idx.getD d 0)).set d (idx.getD 0 0))
    (x.plan.movesBits x.r = false → ∃ t : State, OnlyCounts s t ∧ copyEffect x q s = (t.writeFinal x nt tgt sbT
      (tgt.outers.map (fun o => (o, plainElems ((List.range (src.size 0)).map (fun i => s.val src sbS (i :: o))))))).stampPlane
        x nt) ∧
    (x.plan.movesBits x.r = true → x.rd x.r.desc4 = none → x.plan.isLoadRec x.r = false ∨ x.plan.planeOf nt = none →
      copyEffect x q s = (s.writeRaw x nt tgt (tgt.outers.map (fun o =>
        (o, (List.range (min (src.size 0) (tgt.size 0))).map (fun i => s.code src (i :: o)))))).stampPlane x nt) ∧
    (∃ t : State, OnlyCounts s t ∧ transposeEffect x q s = (t.writeFinal x nt tgt sbT (tgt.outers.map (fun o =>
      (o, plainElems ((List.range (tgt.size 0)).map (fun i =>
        if src.fmt.isMx then toF32 (moved (i :: o)) else moved (i :: o))))))).stampPlane x nt)) ∧
  (∀ (s : State) (x : Ctx) (q : QRec) (ns np no nd : Nat) (src prim ovf dir : Desc) (a : StashAlloc),
    x.rd x.r.desc0 = some (ns, src) → x.wr x.r.desc2 = some (np, prim) → x.wr x.r.desc3 = some (no, ovf) →
    x.wr x.r.desc4 = some (nd, dir) → q.stash = some a →
    let kind := x.r.param0.toNat % 16
    let bit (i : List Nat) : Nat := if x.r.param0.toNat / 16 % 4 = 1 then s.code src i
      else if Val.zero.lt (s.val src none i) then 1 else 0
    let b := packCodes prim.fmt.bits (src.outers.flatMap (fun o => (List.range (min a.count (src.size 0))).map (fun i =>
      if kind = 1 then bit (i :: o) else (prim.fmt.convert prim.sat (s.val src none (i :: o))).code)))
    let row (u : State) (state : Nat) : State := u.writeCodes dir [0, a.row]
      ([kind * 16 + state, a.primary, a.off, a.spill, a.count] ++ List.replicate 11 0)
    (a.stored = true → ∃ (pad : Bytes) (t : State), pad.length < 64 ∧ (b ++ pad).length % 64 = 0 ∧
      OnlyCounts ((s.putBytes (prim.fmt.bits / 8) prim.range.1 ((b ++ pad).take a.primary)).putBytes 1
        (ovf.base + x.step % 2 * (ovf.size 0 / 2) + a.off) ((b ++ pad).drop a.primary)) t ∧
      stashWriteEffect x q s = (row t 1).stampPlane x np) ∧
    (a.stored = false → OnlyCounts (row s 2) (stashWriteEffect x q s))) ∧
  (∀ (s : State) (x : Ctx) (q : QRec) (np no nv nd : Nat) (prim out ovf dir : Desc),
    x.rd x.r.desc0 = some (np, prim) → x.wr x.r.desc2 = some (no, out) → x.rd x.r.desc3 = some (nv, ovf) →
    x.rd x.r.desc4 = some (nd, dir) →
    let back := if x.r.param0.toNat.testBit 0 then 1 else 0
    let row := 4096 * ((x.step + back) % 2) + x.r.param1.toNat % 4096
    let b := s.getBytes (prim.fmt.bits / 8) prim.range.1 (s.code dir [1, row]) ++
      s.getBytes 1 (ovf.base + (x.step + back) % 2 * (ovf.size 0 / 2) + s.code dir [2, row]) (s.code dir [3, row])
    let a := min (s.code dir [4, row]) (out.size 0)
    s.code dir [0, row] % 16 = 1 → stashReadEffect x q s = (s.writeRaw x no out (out.outers.zipIdx.map (fun o =>
      (o.1, (List.range a).map (fun i => codeAt out.fmt.bits b (o.2 * a + i)))))).stampPlane x no) ∧
  (∀ (s : State) (x : Ctx) (q : QRec) (w : WeightSet) (nv no : Nat) (v out : Desc),
    x.plan.weightSets[x.r.param0.toNat % 256]? = some w → x.rd x.r.desc1 = some (nv, v) → x.wr x.r.desc2 = some (no, out) →
    x.plan.planeOf no = none → s.slicesClean x (x.r.param0.toNat % 256) →
    let low := if w.low then (x.rd (planeNum w.ldesc.1)).map Prod.snd else none
    let spots := ((s.sliceSpots w v x.r.param1.toNat x.r.param2.toNat).1).flatMap SliceSpots.spots
    OnlyCounts (s.updatePlane out (spots.map (fun p => (p.outer, p.idx, (out.fmt.convert out.sat (compose v.fmt
      (v.fmt.decode p.code) ((low.map (fun d => lowOf (s.code d (p.idx :: p.outer)))).getD 0))).code))))
      (composeEffect x q s)) ∧
  (∀ (f : Fmt) (hi : Val) (lo : Int), lo = 0 ∨ (∀ sgn m e, hi ≠ .fin sgn m e) → compose f hi lo = hi) ∧
  (∀ (s : State) (x : Ctx) (q : QRec) (e : PredEntry) (nz nl t' : Nat) (z list : Desc) (listed : List Nat), s.Inv →
    x.entry = some e → x.rd x.r.desc0 = some (nz, z) → x.rd x.r.desc1 = some (nl, list) →
    s.activeList list e.n = some listed → s.predTokens x (z.size 1) = some t' →
    let active (n : Nat) : Nat := ((List.range t').filter (fun t => Val.zero.lt (s.val z none [n, t]))).length
    let miss := s.misses z t' e.n listed
    (∀ y : Nat × Nat, y ∈ miss ↔ y.2 < e.n ∧ y.2 ∉ listed ∧ y.1 = active y.2 ∧ 0 < y.1) ∧
    miss.Pairwise (fun u v => v.1 < u.1 ∨ u.1 = v.1 ∧ u.2 < v.2) ∧
    (∀ n2 n3 n4 d2 d3 d4, s.obj 0x2501 x.r.pred = 1 → x.wr x.r.desc2 = some (n2, d2) → x.wr x.r.desc3 = some (n3, d3) →
      x.wr x.r.desc4 = some (n4, d4) →
      ∃ (t : State) (glean merged : List Nat), OnlyCounts s t ∧ glean.Pairwise (· < ·) ∧
        glean.Perm ((miss.take e.g).map Prod.snd) ∧ merged.Pairwise (· < ·) ∧ merged.Perm (listed ++ glean) ∧
        checkEffect x q s = ((t.writeRaw x n3 d3 [([], glean.length :: glean)]).writeRaw x n2 d2
          [([], merged.length :: merged)]).writeRaw x n4 d4 [([], merged.length :: merged.map (fun n =>
            if n ∈ listed then listed.idxOf n else e.a + glean.idxOf n))]) ∧
    (s.obj 0x2501 x.r.pred = 2 → miss ≠ [] → ∃ t : State, OnlyCounts s t ∧ checkEffect x q s =
      { t.event 0x3125 x.island (toLe 1 x.r.pred ++ toLe 4 x.r.recno ++ toLe 4 miss.length) with
        step := { t.step with halt := some x.r.pred } }) ∧
    (s.obj 0x2501 x.r.pred ≠ 1 → s.obj 0x2501 x.r.pred ≠ 2 ∨ miss = [] → OnlyCounts s (checkEffect x q s))) ∧
  (∀ (s : State) (x : Ctx) (q : QRec) (ns ni no : Nat) (src ix out : Desc) (idx : List Nat),
    x.rd x.r.desc0 = some (ns, src) → x.rd x.r.desc1 = some (ni, ix) → x.wr x.r.desc2 = some (no, out) →
    s.mergeIndex ix (src.size 0) = some idx →
    mergeEffect x q s = (s.writeRaw x no out ((List.range (src.size 1)).map (fun t =>
      ([t], idx.map (fun i => s.code src [i, t]))))).stampPlane x no) ∧
  (∀ (s : State) (x : Ctx) (q : QRec) (e : PredEntry) (nr nl nz t' : Nat) (ref list z : Desc) (listed : List Nat),
    x.entry = some e → x.rd x.r.desc0 = some (nr, ref) → x.rd x.r.desc1 = some (nl, list) →
    x.rd x.r.desc2 = some (nz, z) → s.activeList list e.n = some listed → s.predTokens x (ref.size 1) = some t' →
    x.counts = true →
    let above (d : Desc) (n : Nat) : Bool := (List.range t').any (fun t => Val.zero.lt (s.val d none [n, t]))
    let out := (List.range e.n).filter (fun n => !listed.contains n)
    let was (fam : Nat) (t : State) : Nat := (lookupKey (fam, x.r.pred, 0) t.step.counts).getD 0
    let t := refEffect x q s
    was 0x302C t = was 0x302C s + (out.filter (above ref)).length ∧
    was 0x302D t = was 0x302D s + (out.filter (fun n => above ref n && above z n)).length ∧
    was 0x302E t = was 0x302E s + (out.filter (fun n => !above ref n && above z n)).length ∧
    lookupKey x.r.pred t.step.refRecs = some x.r.recno ∧ t.mem = s.mem)

/-- The mask engine's records (R239 to R251) carry out their effect, and run to their end where every tile they take
passes its checks and no fraction, candidate or change list is refused; a sync with its matrix's flag clear has no
effect; a tile's choice prunes as many entries as its fraction says and grows no more, at places that are distinct; and a
commit whose round agrees marks its matrix and finishes, one whose round differs aborts the step, and one whose round is
not yet over waits. A score record lists, for each row, the free columns with the largest keys, larger first; a rebuild
that applies removes the pruned entries, inserts the grown ones and writes slots, companions and the run's digest with the
matrix's flag set; one that converts writes each tile in its target's format; and a sync copies every slot and clears the
flag. Completes: `scoreGradient`, `scoreRandom`, `select`, `rebuildApply`, `rebuildConvert`, `sync`,
`maskCommitRecord`. -/
def Obligations.MaskRecordsRun : Prop :=
  (∀ (s : State) (c : Core) (r : Nat) (p : Plan) (rc : Rec) (q : QRec), RecordReady s c r p rc q → rc.engine = 6 →
    let x := s.ctx p c rc q
    let noted (reads : Reads) : State := s.noteReads p (s.spansOf c p rc q reads)
    let random := rc.param2.toNat.testBit 8
    (∀ y ∈ [(Instr.scoreGradient c r, (1 : BitVec 12), !random, scoreReads, scoreEffect, (noted scoreReads).scoreClean x),
        (.scoreRandom c r, 1, random, scoreReads, scoreEffect, (noted scoreReads).scoreClean x),
        (.select c r, 2, true, selectReads, selectEffect, (noted selectReads).selectClean x),
        (.rebuildApply c r, 3, !rc.rmode, applyReads, applyEffect, (noted applyReads).applyClean x),
        (.rebuildConvert c r, 3, rc.rmode, convertReads, convertEffect, (noted convertReads).convertClean x),
        (.sync c r, 5, true, s.syncReads, syncEffect, True)],
      rc.func = y.2.1 → y.2.2.1 = true → OperandsSound s c p rc q y.2.2.2.1 →
      let u := (y.2.2.2.2.1 x q (noted y.2.2.2.1)).finish c r
      exec y.1 s = .next u ∧ (y.2.2.2.2.2 → Ran s u c r q)) ∧
    (rc.func = 5 → s.syncFlags.contains rc.matrix = false → exec (.sync c r) s = .next (s.finish c r)) ∧
    (∀ n d, rc.func = 4 → x.rd rc.desc0 = some (n, d) → OperandsSound s c p rc q commitReads →
      let dig := sha3 ((List.range rc.param0.toNat).flatMap (fun j => s.bytes (d.bitAddr [0, j] / 8) 32))
      let words := (List.range 8).map (fun i => fieldAt dig (4 * i) 4)
      let round := (noted commitReads).contribute (maskRound (rc.param2.toNat % 65536) rc.matrix s.step.current) words
      (round.2 = none → exec (.maskCommitRecord c r) s = .next round.1) ∧
      (∀ w, round.2 = some (w, w) → exec (.maskCommitRecord c r) s = .next (({ round.1 with step :=
        { round.1.step with masks := round.1.step.masks ++ [(rc.matrix, leNat (w.flatMap (toLe 4)))] } }).finish c r)) ∧
      (∀ lo hi, round.2 = some (lo, hi) → lo ≠ hi →
        exec (.maskCommitRecord c r) s = .next (round.1.abortWith 0x4503 x.island (maskDetail x))))) ∧
  (∀ (lim f : Nat) (stored cand : List (Nat × Nat)), f ≤ 65536 → (cand.map Prod.snd).Nodup →
    let d := stored.length * f / 65536
    let y := selectTile lim f stored cand
    y.1.length = d ∧ y.2.length ≤ d ∧ y.2.Nodup ∧ (∀ g ∈ y.2, g ∈ cand.map Prod.snd) ∧
    (∀ g ∈ y.1, g ∈ stored.map Prod.snd)) ∧
  (∀ (s : State) (x : Ctx) (q : QRec) (ns no kt : Nat) (st out : Desc) (ts : List (Nat × TileData)),
    x.rd x.r.desc1 = some (ns, st) → x.wr x.r.desc2 = some (no, out) → s.recTiles x st [.brt] = (kt, ⟨ts, none⟩) →
    let grad := if x.r.param2.toNat.testBit 8 then none else (x.rd x.r.desc0).map Prod.snd
    OnlyCounts (s.writeRaw x no out (ts.zipIdx.map (fun y => ([y.2], (List.range 128).flatMap (fun r =>
      (s.scoreRow x grad (st.tid 2) kt y.1.1 y.2 r ((lookupKey r y.1.2.lines).getD [])).1.map (bitsOfInt 32))))))
      (scoreEffect x q s)) ∧
  (∀ (s : State) (x : Ctx) (grad : Option Desc) (tid : Word) (kt slot i r : Nat) (row : List (Nat × Nat)),
    let key (c : Nat) : Option Nat := match grad with
      | some g => if (s.val g none [c, r, i]).isNan then none else some (encodeF32 (s.val g none [c, r, i]).abs).toNat
      | none => some (s.draw x.step tid ((128 * (slot / max 1 kt) + r) * (128 * kt) + (128 * (slot % max 1 kt) + c)))
    let above (u v : Nat × Nat) : Prop := v.1 < u.1 ∨ u.1 = v.1 ∧ u.2 < v.2
    ∃ best : List (Nat × Nat), (s.scoreRow x grad tid kt slot i r row).1 =
        best.flatMap (fun p => [(p.1 : Int), (p.2 : Int)]) ++ (List.replicate (x.r.cands - best.length) [0, -1]).flatten ∧
      best.length ≤ x.r.cands ∧ best.Pairwise above ∧
      (∀ p ∈ best, p.2 < 128 ∧ lookupKey p.2 row = none ∧ key p.2 = some p.1) ∧
      (∀ c k, c < 128 → lookupKey c row = none → key c = some k → (k, c) ∉ best →
        best.length = x.r.cands ∧ ∀ p ∈ best, above p (k, c))) ∧
  (∀ (ps gs : List Int) (mk : Nat → MaskEntry) (rows cut grown : List (List MaskEntry)), rows.length = 128 →
    (∀ row ∈ rows, (∀ e ∈ row, e.1 < 128) ∧ row.Pairwise (fun u v => u.1 < v.1)) → (∀ p, (mk p).1 = p % 128) →
    pruneAll ps rows = some cut → growAll mk gs cut = some grown →
    ∀ r < 128, (∀ e, e ∈ grown.getD r [] ↔ (e ∈ rows.getD r [] ∧ ((128 * r + e.1 : Nat) : Int) ∉ ps) ∨
        ∃ g ∈ gs, g.toNat / 128 = r ∧ e = mk g.toNat) ∧
      (grown.getD r []).Pairwise (fun u v => u.1 < v.1)) ∧
  (∀ (s : State) (x : Ctx) (st ch : Desc) (planes : List Desc) (kt i slot : Nat) (t : TileData) (ps gs : List Int)
    (cut rows : List (List MaskEntry)) (b : Bytes),
    s.changeOf ch i = some (ps, gs) →
    let place (p : Nat) : Nat :=
      (128 * (slot / max 1 kt) + p / 128) * (128 * kt) + 128 * (slot % max 1 kt) + p % 128
    let split (p : Nat) : Split := splitWeight st.fmt st.sat (s.grownValue x (st.tid 1) (place p))
    let mk (p : Nat) : MaskEntry :=
      (p % 128, (split p).hi.code, planes.zipIdx.map (fun d => if d.2 = 0 then bitsOfInt 16 (split p).lo else 0))
    pruneAll ps (s.maskRows planes slot t) = some cut → growAll mk gs cut = some rows →
    buildBrt st.fmt.bits t.hdr.tk t.hdr.tlim t.hdr.trow t.hdr.tcol
      (rows.map (fun row => row.map (fun e => (e.1, e.2.1)))) = some b →
    ∃ y : Rebuilt, s.rebuildTile x st ch planes kt i slot t = some y ∧ y.slot = slot ∧ y.bytes = padTo st.slotBytes b ∧
      y.comps = planes.zipIdx.map (fun d => rows.flatMap (fun row =>
        row.map (fun e => e.2.2.getD d.2 0) ++ List.replicate (t.hdr.tk - row.length) 0))) ∧
  (∀ (s : State) (x : Ctx) (q : QRec) (ns nc nd : Nat) (st ch digests : Desc), s.applyClean x →
    x.wr x.r.desc2 = some (ns, st) → x.rd x.r.desc4 = some (nc, ch) → x.wr x.r.desc5 = some (nd, digests) →
    let planes := [x.r.desc0, x.r.desc1, x.r.desc3].filterMap x.wr
    let m := s.recTiles x st [.brt]
    let u := s.setSync x.r.matrix true
    let bs := (u.rebuildTiles x st ch (planes.map Prod.snd) m.1 m.2.tiles.zipIdx).1
    let v := bs.foldl (fun v b => (planes.zip b.comps).foldl (fun v p => v.writeCodes p.1.2 [0, b.slot] p.2)
      (v.writeRun (st.slotAddr b.slot) b.bytes)) u
    let dig := sha3 (toLe 8 x.step ++ toLe 4 (st.tid 0).toNat ++ bs.flatMap (fun b => v.slot st b.slot))
    ∃ t : State, OnlyCounts (v.writeRun (digests.bitAddr [0, x.r.param2.toNat / 65536] / 8) (dig ++ List.replicate 32 0)) t ∧
      applyEffect x q s = ((ns, st) :: planes).foldl (fun t d =>
        (t.clearStatus x d.1 d.2 (bs.map (fun b => [b.slot]))).stampPlane x d.1) t) ∧
  (∀ (s : State) (x : Ctx) (q : QRec) (ns nt kt : Nat) (st tgt : Desc), s.convertClean x →
    x.rd x.r.desc0 = some (ns, st) → x.wr x.r.desc2 = some (nt, tgt) → s.streamKt tgt = some kt →
    ∃ t : State, OnlyCounts ((s.convertTiles st tgt kt none (s.recTiles x st [.brt, .csr, .blk, .bmp]).2.tiles).1.foldl
        (fun v b => v.writeRun (tgt.slotAddr b.1) b.2) s) t ∧ convertEffect x q s = t.stampPlane x nt) ∧
  (∀ (st tgt : Desc) (h : TileHdr) (t : TileData),
    let rows := if t.hdr.tfmt = 3 ∧ h.tfmt ≠ 3 then
      t.rows.map (fun l => l.filter (fun e => decide (e.2 % 2 ^ st.fmt.bits ≠ 0))) else t.rows
    let w := tgt.fmt.bits
    ∀ y ∈ [(1, buildBrt w h.tk h.tlim h.trow h.tcol rows), (2, some (buildCsr w h.trow h.tcol rows)),
        (3, some (buildBlk w h.trow h.tcol rows)), (4, some (buildBmp w h.trow h.tcol rows))], h.tfmt = y.1 →
      (∀ b, y.2 = some b → b.length ≤ tgt.slotBytes → convertTile st tgt h t = .ok (padTo tgt.slotBytes b)) ∧
      ((y.2 = none ∨ ∃ b, y.2 = some b ∧ tgt.slotBytes < b.length) → convertTile st tgt h t = .error 0x4303)) ∧
  (∀ (s : State) (x : Ctx) (q : QRec) (ns nt : Nat) (st tgt : Desc), s.syncFlags.contains x.r.matrix = true →
    x.rd x.r.desc0 = some (ns, st) → x.wr x.r.desc2 = some (nt, tgt) →
    ∃ t : State, OnlyCounts (((List.range (st.size 1)).foldl (fun v i => v.writeRun (tgt.slotAddr i) (v.slot st i)) s).setSync
      x.r.matrix false) t ∧ syncEffect x q s = t.stampPlane x nt)

/-- Collectives and checkpoints (R403 to R406, R504, R506): with every stage ended, a reduce-scatter writes the trees over
the members' parts, results that meet in one place of a reduce-write merged, an all-gather each member's shard at its
place, one that this member has passed on as it passed it, and an all-to-all each member's section, and the record runs
to its end; a stage ends once no write of the record is unacknowledged, and the writes of the next go out; a shard goes to
this module's slot and its buddy's ward slot, and, once acknowledged, its row follows to both; and a ward slot whose
digests do not hold aborts the step with event 0x1601. That the other members' parts, shards and sections are the
command's operands, and the addresses and the order of the stages' writes, are the model's choices (log entries 23, 152
and 153), and how colliding results merge (log entry 150). Completes:
`reduceScatter`, `allGather`, `allToAllDispatch`, `allToAllReturn`, `collectiveStageEnd`, `shardStream`,
`shardVerify`. -/
def Obligations.CollectivesAndCheckpointsRun : Prop :=
  ∀ (s : State) (c : Core) (r : Nat) (p : Plan) (rc : Rec) (q : QRec), RecordReady s c r p rc q →
    let x := s.ctx p c rc q
    let own := byRows (fun r => [r.desc0].filterMap id)
    let noted (reads : Reads) : State := s.noteReads p (s.spansOf c p rc q reads)
    (∀ (g : Group) (me : Nat) (src tgt : Nat × Desc), rc.engine = 7 → p.collGroup rc = some g → g.myIndex = some me →
      x.rd rc.desc0 = some src → x.wr rc.desc2 = some tgt → collStages rc g.members.length ≤ q.stage →
      let n := g.members.length
      (∀ parts : List PartIn, rc.func = 1 → parts.length = n → (∀ y ∈ parts, y.values.length = tgt.2.elems) →
        let reads := byRows (fun r => [r.desc0, r.desc1].filterMap id)
        OperandsSound s c p rc q reads →
        let rows := tgt.2.outers.map (fun k =>
          (k, s.shardRow src.2 tgt.2 ((x.rd rc.desc1).map Prod.snd) me parts k))
        let rows := if tgt.2.acc = 2 then mergeRows (src.2.fmt = .int32s) tgt.2 rows else rows
        let u := ((if rc.flag 1 then (noted reads).writePartial tgt.1 tgt.2 ((x.wr rc.desc3).map Prod.snd) rows
          else (noted reads).writeFinal x tgt.1 tgt.2 none rows).stampPlane x tgt.1).finish c r
        exec (.reduceScatter c r parts) s = .next u ∧ Ran s u c r q) ∧
      (∀ shards : List Bytes, rc.func = 2 → rc.recno = r → shards.length = n →
        (∀ y ∈ shards, y.length = ceilDiv (src.2.elems * src.2.fmt.bits) 8) → OperandsSound s c p rc q own →
        let t := ((noted own).writeRaw x tgt.1 tgt.2 (shards.zipIdx.flatMap (fun y =>
          blockRows tgt.2 (src.2.outers.map (fun k => (y.2 * src.2.size 1 + k.headD 0) :: k.drop 1))
            (if y.2 = me then s.tensorBytes src.2 else if passesOn n me y.2 then
              ((q.nodes.find? (fun z => z.shard = y.2)).map Piece.bytes).getD y.1 else y.1)))).stampPlane x tgt.1
        (rc.param1.toNat.testBit 8 = false →
          exec (.allGather c r shards) s = .next (t.finish c r) ∧ Ran s (t.finish c r) c r q) ∧
        (∀ w, rc.param1.toNat.testBit 8 = true → p.weightSets[rc.param1.toNat % 256]? = some w →
          let u := (t.stamp x w (List.range w.slices)).finish c r
          exec (.allGather c r shards) s = .next u ∧ Ran s u c r q)) ∧
      (∀ (back : Bool) (sections : List Bytes), rc.func = 3 → rc.param1.toNat.testBit 16 = back → sections.length = n →
        let epm := rc.param1.toNat % 65536
        (∀ y ∈ sections, y.length = ceilDiv (src.2.size 0 * src.2.size 1 * epm * src.2.fmt.bits) 8) →
        OperandsSound s c p rc q own →
        let u := (((noted own).writeRaw x tgt.1 tgt.2 (sections.zipIdx.flatMap (fun y =>
          blockRows tgt.2 (sectionOuters (!back) (src.2.size 1) epm y.2)
            (if y.2 = me then s.sectionFor x src.2 me else y.1)))).stampPlane x tgt.1).finish c r
        ∀ i, i = (if back then Instr.allToAllReturn c r sections else .allToAllDispatch c r sections) →
        exec i s = .next u ∧ Ran s u c r q)) ∧
    (∀ g : Group, rc.engine = 7 → p.collGroup rc = some g →
      q.stage < collStages rc g.members.length →
      let me := g.myIndex.getD 0
      s.outbound.any (fun y => y.core = c && y.recno = r) = false →
      let nodes := s.afterStage x me g.members.length q.stage q.nodes
      let u := (s.modQRec c r (fun q => { q with stage := q.stage + 1, nodes := nodes })).sendStage x (q.stage + 1) nodes
      exec (.collectiveStageEnd c r) s = .next u ∧
        u.qrec c r = some { q with stage := q.stage + 1, nodes := nodes } ∧ u.mem = s.mem ∧ u.step = s.step) ∧
    (∀ (k : CkptTable) (d : Nat × Desc), rc.engine = 8 → rc.func = 1 → rc.recno = r → p.ckpt = some k →
      x.rd rc.desc0 = some d → OperandsSound s c p rc q own →
      let slot := k.slot k.localBase (p.ckptSlot s.step.current)
      let ward := k.slot k.buddyBase (p.ckptSlot s.step.current)
      let both (here there : Nat) (b : Bytes) : State :=
        ((noted own).writeRun here b).sendWrite (Sender.of c rc) s.step.current k.buddy there b
      let row := entryRow rc.entryOffset (s.bytes (slot + rc.entryOffset) d.2.regionLen)
      (q.stage = 0 → ∃ t : State, exec (.shardStream c r) s = .next t ∧ t.qrec c r = some { q with stage := 1 } ∧
        t = (both (slot + rc.entryOffset) (ward + rc.entryOffset) (s.regionBytes d.2)).modQRec c r
          (fun q => { q with stage := 1 }) ∧
        t.mem = (s.writeRun (slot + rc.entryOffset) (s.regionBytes d.2)).mem) ∧
      (q.stage ≠ 0 → s.unacked c r = false →
        ∃ t : State, exec (.shardStream c r) s = .next t ∧ t.qrec c r = some { q with phase := .executed } ∧
          t = (both (k.row slot rc.entry) (k.row ward rc.entry) row).finish c r ∧
          t.mem = (s.writeRun (k.row slot rc.entry) row).mem)) ∧
    (∀ k : CkptTable, rc.engine = 8 → rc.func = 2 → p.ckpt = some k →
      let holds := (List.range k.entries).all (s.entryHolds k (k.slot k.wardBase (p.ckptSlot s.step.current)))
      (holds = true → exec (.shardVerify c r) s = .next (s.finish c r)) ∧
      (holds = false → exec (.shardVerify c r) s = .next ((s.abortWith 0x1601 x.island []).finish c r)))

/-! ### The address map -/

/-- Each 128 MiB slot of the logical window maps its first 96 MiB to the core store of the physical core that the core
map assigns, and the rest of it is unmapped (R20). -/
def Obligations.LogicalWindowsFollowTheMap : Prop :=
  ∀ (s : State) (l : Core) (off : Nat),
    (off < 0x6000000 → s.phys (0x20000000000 + l.val * 0x8000000 + off) = some (coreStore (s.coreMap[l]).val + off)) ∧
    (0x6000000 ≤ off → off < 0x8000000 → s.phys (0x20000000000 + l.val * 0x8000000 + off) = none)

end
end

