-- ==== Sys2Proof/Laws/Canonical.lean ====
section
/-! SUPPORT. The laws of canonical lists, and with them of memory and of the object dictionary: a read after a write
to the same key gives the value written, every other key reads as before, and every operation keeps the form. -/

namespace Sys2Proof.Machine

section Assoc
variable {β : Type} [DecidableEq β] {d : Nat → β}

theorem Assoc.wfFrom_mono {l : List (Nat × β)} {lo lo' : Nat} (h : lo ≤ lo') (w : Assoc.wfFrom d lo' l = true) :
    Assoc.wfFrom d lo l = true := by
  cases l with
  | nil => rfl
  | cons e rest =>
    obtain ⟨k, v⟩ := e
    simp only [Assoc.wfFrom, Bool.and_eq_true, decide_eq_true_eq] at w ⊢
    exact ⟨⟨by omega, w.1.2⟩, w.2⟩

/-- A key below every entry reads as its default. -/
theorem Assoc.read_low {l : List (Nat × β)} {lo k : Nat} (w : Assoc.wfFrom d lo l = true) (h : k < lo) :
    Assoc.read d l k = d k := by
  cases l with
  | nil => rfl
  | cons e rest =>
    obtain ⟨k', v⟩ := e
    simp only [Assoc.wfFrom, Bool.and_eq_true, decide_eq_true_eq] at w
    simp only [Assoc.read]
    rw [if_neg (by omega), if_pos (by omega)]

theorem Assoc.wfFrom_write {l : List (Nat × β)} {lo k : Nat} (v : β) (w : Assoc.wfFrom d lo l = true)
    (h : lo ≤ k) : Assoc.wfFrom d lo (Assoc.write d l k v) = true := by
  induction l generalizing lo with
  | nil =>
    simp only [Assoc.write]
    split
    · rfl
    · simp_all [Assoc.wfFrom]
  | cons e rest ih =>
    obtain ⟨k', v'⟩ := e
    simp only [Assoc.wfFrom, Bool.and_eq_true, decide_eq_true_eq] at w
    obtain ⟨⟨h1, h2⟩, h3⟩ := w
    simp only [Assoc.write]
    split
    · split
      · simp [Assoc.wfFrom, h1, h2, h3]
      · simp only [Assoc.wfFrom, Bool.and_eq_true, decide_eq_true_eq]
        exact ⟨⟨h, ‹_›⟩, ⟨by omega, h2⟩, h3⟩
    · split
      · subst k'
        split
        · exact Assoc.wfFrom_mono (by omega) h3
        · simp [Assoc.wfFrom, *]
      · simp only [Assoc.wfFrom, Bool.and_eq_true, decide_eq_true_eq]
        exact ⟨⟨h1, h2⟩, ih h3 (by omega)⟩

/-- Setting a key keeps the canonical form. -/
theorem Assoc.wf_write {l : List (Nat × β)} (k : Nat) (v : β) (w : Assoc.wf d l = true) :
    Assoc.wf d (Assoc.write d l k v) = true := Assoc.wfFrom_write v w (Nat.zero_le k)

theorem Assoc.read_write_from {l : List (Nat × β)} {lo : Nat} (k : Nat) (v : β) (j : Nat)
    (w : Assoc.wfFrom d lo l = true) :
    Assoc.read d (Assoc.write d l k v) j = if j = k then v else Assoc.read d l j := by
  induction l generalizing lo with
  | nil =>
    simp only [Assoc.write]
    split
    · split
      · simp_all [Assoc.read]
      · rfl
    · simp only [Assoc.read]
      split <;> simp
  | cons e rest ih =>
    obtain ⟨k', v'⟩ := e
    simp only [Assoc.wfFrom, Bool.and_eq_true, decide_eq_true_eq] at w
    obtain ⟨⟨h1, h2⟩, h3⟩ := w
    have low : ∀ i, i ≤ k' → Assoc.read d rest i = d i := fun i hi => Assoc.read_low h3 (by omega)
    simp only [Assoc.write]
    by_cases hk : k < k'
    · simp only [if_pos hk]
      by_cases hv : v = d k
      · simp only [if_pos hv]
        by_cases hj : j = k
        · subst j
          simp only [Assoc.read, if_neg (by omega : ¬k = k'), if_pos hk, if_true, hv]
        · simp only [if_neg hj]
      · simp only [if_neg hv]
        by_cases hj : j = k
        · simp [Assoc.read, hj]
        · simp only [Assoc.read, if_neg hj]
          by_cases hlt : j < k
          · simp [hlt, show ¬ j = k' by omega, show j < k' by omega]
          · simp [hlt]
    · simp only [if_neg hk]
      by_cases he : k = k'
      · subst k'
        simp only [if_true]
        by_cases hv : v = d k
        · simp only [if_pos hv]
          by_cases hj : j = k
          · subst j; simp [low k (Nat.le_refl k), hv]
          · simp only [if_neg hj, Assoc.read]
            by_cases hlt : j < k
            · simp [hlt, low j (by omega)]
            · simp [hlt]
        · simp only [if_neg hv, Assoc.read]
          by_cases hj : j = k <;> simp [hj]
      · simp only [if_neg he, Assoc.read]
        by_cases hj : j = k'
        · subst j
          rw [if_pos rfl, if_pos rfl, if_neg (Ne.symm he)]
        · simp only [if_neg hj]
          by_cases hlt : j < k'
          · simp only [if_pos hlt]
            rw [if_neg (by omega)]
          · simp only [if_neg hlt]
            exact ih h3

/-- A read after a write of a canonical list. -/
theorem Assoc.read_write {l : List (Nat × β)} (k : Nat) (v : β) (j : Nat) (w : Assoc.wf d l = true) :
    Assoc.read d (Assoc.write d l k v) j = if j = k then v else Assoc.read d l j := Assoc.read_write_from k v j w

end Assoc

/-! ### Memory -/

/-- A byte string written to memory keeps the canonical form. -/
theorem memWrite_wf {m : List Host.Cell} (a : Nat) (bs : Bytes) (w : Memory.wf m = true) :
    Memory.wf (memWrite m a bs) = true := by
  induction bs generalizing m a with
  | nil => exact w
  | cons b bs ih => exact ih (a + 1) (Assoc.wf_write a b w)

/-- A read after a byte string was written: its bytes at its addresses, and what stood there elsewhere. -/
theorem memRead_memWrite {m : List Host.Cell} (a : Nat) (bs : Bytes) (x : Nat) (w : Memory.wf m = true) :
    memRead (memWrite m a bs) x = if a ≤ x ∧ x < a + bs.length then bs.getD (x - a) 0 else memRead m x := by
  induction bs generalizing m a with
  | nil =>
    rw [if_neg (by simp)]
    rfl
  | cons b bs ih =>
    simp only [memWrite]
    rw [ih (a + 1) (Assoc.wf_write a b w)]
    simp only [List.length_cons]
    by_cases h1 : a + 1 ≤ x ∧ x < a + 1 + bs.length
    · rw [if_pos h1, if_pos (by omega)]
      obtain ⟨n, rfl⟩ : ∃ n, x = a + 1 + n := ⟨x - (a + 1), by omega⟩
      rw [show a + 1 + n - (a + 1) = n by omega, show a + 1 + n - a = n + 1 by omega, List.getD_cons_succ]
    · rw [if_neg h1]
      unfold memRead
      rw [Assoc.read_write a b x w]
      by_cases hx : x = a
      · subst x
        rw [if_pos rfl, if_pos (by omega)]
        simp
      · rw [if_neg hx, if_neg (by omega)]

/-- Writing leaves every other address alone. -/
theorem memRead_memWrite_other {m : List Host.Cell} (a : Nat) (bs : Bytes) (x : Nat) (w : Memory.wf m = true)
    (h : x < a ∨ a + bs.length ≤ x) : memRead (memWrite m a bs) x = memRead m x := by
  rw [memRead_memWrite a bs x w, if_neg (by omega)]

/-! ### Copying a core store -/

section Copy
variable {β : Type} [DecidableEq β] {v : β}

theorem wfConst_filter {l : List (Nat × β)} {lo : Nat} (f : Nat × β → Bool)
    (w : Assoc.wfFrom (fun _ => v) lo l = true) : Assoc.wfFrom (fun _ => v) lo (l.filter f) = true := by
  induction l generalizing lo with
  | nil => rfl
  | cons e rest ih =>
    obtain ⟨k, x⟩ := e
    simp only [Assoc.wfFrom, Bool.and_eq_true, decide_eq_true_eq] at w
    simp only [List.filter_cons]
    split
    · simp only [Assoc.wfFrom, Bool.and_eq_true, decide_eq_true_eq]
      exact ⟨w.1, ih w.2⟩
    · exact Assoc.wfFrom_mono (by omega) (ih w.2)

/-- Two canonical lists one above the other make a canonical list. -/
theorem wfConst_append {l r : List (Nat × β)} {lo mid : Nat} (h : lo ≤ mid) (wl : Assoc.wfFrom (fun _ => v) lo l = true)
    (top : ∀ e ∈ l, e.1 < mid) (wr : Assoc.wfFrom (fun _ => v) mid r = true) :
    Assoc.wfFrom (fun _ => v) lo (l ++ r) = true := by
  induction l generalizing lo with
  | nil => exact Assoc.wfFrom_mono h wr
  | cons e rest ih =>
    obtain ⟨k, x⟩ := e
    simp only [Assoc.wfFrom, Bool.and_eq_true, decide_eq_true_eq] at wl
    simp only [List.cons_append, Assoc.wfFrom, Bool.and_eq_true, decide_eq_true_eq]
    have := top (k, x) (by simp)
    exact ⟨wl.1, ih (by simpa using this) wl.2 (fun e he => top e (by simp [he]))⟩

theorem wfConst_above {l : List (Nat × β)} {lo mid : Nat} (w : Assoc.wfFrom (fun _ => v) lo l = true)
    (h : ∀ e ∈ l, mid ≤ e.1) : Assoc.wfFrom (fun _ => v) mid l = true := by
  cases l with
  | nil => rfl
  | cons e rest =>
    obtain ⟨k, x⟩ := e
    simp only [Assoc.wfFrom, Bool.and_eq_true, decide_eq_true_eq] at w ⊢
    exact ⟨⟨h (k, x) (by simp), w.1.2⟩, w.2⟩

theorem wfConst_shift {l : List (Nat × β)} {lo src dst : Nat} (w : Assoc.wfFrom (fun _ => v) lo l = true)
    (h : ∀ e ∈ l, src ≤ e.1) :
    Assoc.wfFrom (fun _ => v) (lo - src + dst) (l.map (fun e => (e.1 - src + dst, e.2))) = true := by
  induction l generalizing lo with
  | nil => rfl
  | cons e rest ih =>
    obtain ⟨k, x⟩ := e
    simp only [Assoc.wfFrom, Bool.and_eq_true, decide_eq_true_eq] at w
    simp only [List.map_cons, Assoc.wfFrom, Bool.and_eq_true, decide_eq_true_eq]
    have hk := h (k, x) (by simp)
    simp only at hk
    refine ⟨⟨by omega, w.1.2⟩, ?_⟩
    have := ih w.2 (fun e he => h e (by simp [he]))
    rwa [show k + 1 - src + dst = k - src + dst + 1 by omega] at this

/-- The copy of a core store keeps the canonical form (R499). -/
theorem copyCells_wf (src dst n : Nat) {l : List (Nat × β)} (w : Assoc.wf (fun _ => v) l = true) :
    Assoc.wf (fun _ => v) (copyCells src dst n l) = true := by
  unfold copyCells
  simp only []
  rw [List.append_assoc]
  refine wfConst_append (Nat.zero_le dst) (wfConst_filter _ w) ?_ ?_
  · intro e he
    simp only [List.mem_filter, decide_eq_true_eq] at he
    exact he.2
  · refine wfConst_append (mid := dst + n) (by omega) ?_ ?_ ?_
    · have := wfConst_shift (v := v) (src := src) (dst := dst) (lo := src)
        (l := l.filter (fun e => decide (src ≤ e.1) && decide (e.1 < src + n)))
        (wfConst_above (wfConst_filter _ w) (by
          intro e he
          simp only [List.mem_filter, Bool.and_eq_true, decide_eq_true_eq] at he
          exact he.2.1))
        (by
          intro e he
          simp only [List.mem_filter, Bool.and_eq_true, decide_eq_true_eq] at he
          exact he.2.1)
      simpa using this
    · intro e he
      simp only [List.mem_map, List.mem_filter, Bool.and_eq_true, decide_eq_true_eq] at he
      obtain ⟨a, ⟨_, h1, h2⟩, rfl⟩ := he
      simp only
      omega
    · exact wfConst_above (wfConst_filter _ w) (by
        intro e he
        simp only [List.mem_filter, decide_eq_true_eq] at he
        exact he.2)

end Copy

/-- The memory after a core store's copy is canonical. -/
theorem copyCells_mem_wf (src dst n : Nat) {m : List Host.Cell} (w : Memory.wf m = true) :
    Memory.wf (copyCells src dst n m) = true := by
  have h : memDefault = fun _ => (0 : Byte) := rfl
  unfold Memory.wf at *
  rw [h] at *
  exact copyCells_wf src dst n w

end Sys2Proof.Machine
end

