-- ==== Sys2Proof/Laws/State.lean ====
section
/-! SUPPORT. What the operations every meaning shares leave alone: one lemma for each field and each operation, so that no
proof unfolds a record update. -/

namespace Sys2Proof.Machine

variable (s : State)

/-! ### `setObj` -/

@[simp] theorem State.setObj_phase (i j v : Nat) : (s.setObj i j v).phase = s.phase := rfl
@[simp] theorem State.setObj_stage (i j v : Nat) : (s.setObj i j v).stage = s.stage := rfl
@[simp] theorem State.setObj_latchedCause (i j v : Nat) : (s.setObj i j v).latchedCause = s.latchedCause := rfl
@[simp] theorem State.setObj_tripLatch (i j v : Nat) : (s.setObj i j v).tripLatch = s.tripLatch := rfl
@[simp] theorem State.setObj_pins (i j v : Nat) : (s.setObj i j v).pins = s.pins := rfl
@[simp] theorem State.setObj_bringup (i j v : Nat) : (s.setObj i j v).bringup = s.bringup := rfl
@[simp] theorem State.setObj_moduleLost (i j v : Nat) : (s.setObj i j v).moduleLost = s.moduleLost := rfl
@[simp] theorem State.setObj_planStuck (i j v : Nat) : (s.setObj i j v).planStuck = s.planStuck := rfl
@[simp] theorem State.setObj_hostPllLost (i j v : Nat) : (s.setObj i j v).hostPllLost = s.hostPllLost := rfl
@[simp] theorem State.setObj_standbyOff (i j v : Nat) : (s.setObj i j v).standbyOff = s.standbyOff := rfl
@[simp] theorem State.setObj_nv (i j v : Nat) : (s.setObj i j v).nv = s.nv := rfl
@[simp] theorem State.setObj_running (i j v : Nat) : (s.setObj i j v).running = s.running := rfl
@[simp] theorem State.setObj_pinned (i j v : Nat) : (s.setObj i j v).pinned = s.pinned := rfl
@[simp] theorem State.setObj_keyUnusable (i j v : Nat) : (s.setObj i j v).keyUnusable = s.keyUnusable := rfl
@[simp] theorem State.setObj_bootChecks (i j v : Nat) : (s.setObj i j v).bootChecks = s.bootChecks := rfl
@[simp] theorem State.setObj_mgmt (i j v : Nat) : (s.setObj i j v).mgmt = s.mgmt := rfl
@[simp] theorem State.setObj_blobs (i j v : Nat) : (s.setObj i j v).blobs = s.blobs := rfl
@[simp] theorem State.setObj_staged (i j v : Nat) : (s.setObj i j v).staged = s.staged := rfl
@[simp] theorem State.setObj_stageLock (i j v : Nat) : (s.setObj i j v).stageLock = s.stageLock := rfl
@[simp] theorem State.setObj_log (i j v : Nat) : (s.setObj i j v).log = s.log := rfl
@[simp] theorem State.setObj_auditLog (i j v : Nat) : (s.setObj i j v).auditLog = s.auditLog := rfl
@[simp] theorem State.setObj_replayLog (i j v : Nat) : (s.setObj i j v).replayLog = s.replayLog := rfl
@[simp] theorem State.setObj_uptime (i j v : Nat) : (s.setObj i j v).uptime = s.uptime := rfl
@[simp] theorem State.setObj_gc (i j v : Nat) : (s.setObj i j v).gc = s.gc := rfl
@[simp] theorem State.setObj_syncSeenAt (i j v : Nat) : (s.setObj i j v).syncSeenAt = s.syncSeenAt := rfl
@[simp] theorem State.setObj_coreMap (i j v : Nat) : (s.setObj i j v).coreMap = s.coreMap := rfl
@[simp] theorem State.setObj_spares (i j v : Nat) : (s.setObj i j v).spares = s.spares := rfl
@[simp] theorem State.setObj_islands (i j v : Nat) : (s.setObj i j v).islands = s.islands := rfl
@[simp] theorem State.setObj_lasers (i j v : Nat) : (s.setObj i j v).lasers = s.lasers := rfl
@[simp] theorem State.setObj_mem (i j v : Nat) : (s.setObj i j v).mem = s.mem := rfl
@[simp] theorem State.setObj_poison (i j v : Nat) : (s.setObj i j v).poison = s.poison := rfl
@[simp] theorem State.setObj_caches (i j v : Nat) : (s.setObj i j v).caches = s.caches := rfl
@[simp] theorem State.setObj_sheaves (i j v : Nat) : (s.setObj i j v).sheaves = s.sheaves := rfl
@[simp] theorem State.setObj_rowErrors (i j v : Nat) : (s.setObj i j v).rowErrors = s.rowErrors := rfl
@[simp] theorem State.setObj_faultyRows (i j v : Nat) : (s.setObj i j v).faultyRows = s.faultyRows := rfl
@[simp] theorem State.setObj_badRows (i j v : Nat) : (s.setObj i j v).badRows = s.badRows := rfl
@[simp] theorem State.setObj_thermal (i j v : Nat) : (s.setObj i j v).thermal = s.thermal := rfl
@[simp] theorem State.setObj_temps (i j v : Nat) : (s.setObj i j v).temps = s.temps := rfl
@[simp] theorem State.setObj_strobes (i j v : Nat) : (s.setObj i j v).strobes = s.strobes := rfl
@[simp] theorem State.setObj_marginScan (i j v : Nat) : (s.setObj i j v).marginScan = s.marginScan := rfl
@[simp] theorem State.setObj_laneSets (i j v : Nat) : (s.setObj i j v).laneSets = s.laneSets := rfl
@[simp] theorem State.setObj_marginResult (i j v : Nat) : (s.setObj i j v).marginResult = s.marginResult := rfl
@[simp] theorem State.setObj_slots (i j v : Nat) : (s.setObj i j v).slots = s.slots := rfl
@[simp] theorem State.setObj_activeSlot (i j v : Nat) : (s.setObj i j v).activeSlot = s.activeSlot := rfl
@[simp] theorem State.setObj_plan (i j v : Nat) : (s.setObj i j v).plan = s.plan := rfl
@[simp] theorem State.setObj_step (i j v : Nat) : (s.setObj i j v).step = s.step := rfl
@[simp] theorem State.setObj_counts (i j v : Nat) : (s.setObj i j v).counts = s.counts := rfl
@[simp] theorem State.setObj_tileStatus (i j v : Nat) : (s.setObj i j v).tileStatus = s.tileStatus := rfl
@[simp] theorem State.setObj_poolLow (i j v : Nat) : (s.setObj i j v).poolLow = s.poolLow := rfl
@[simp] theorem State.setObj_poolWaited (i j v : Nat) : (s.setObj i j v).poolWaited = s.poolWaited := rfl
@[simp] theorem State.setObj_cores (i j v : Nat) : (s.setObj i j v).cores = s.cores := rfl
@[simp] theorem State.setObj_signals (i j v : Nat) : (s.setObj i j v).signals = s.signals := rfl
@[simp] theorem State.setObj_lastStarted (i j v : Nat) : (s.setObj i j v).lastStarted = s.lastStarted := rfl
@[simp] theorem State.setObj_chainHeld (i j v : Nat) : (s.setObj i j v).chainHeld = s.chainHeld := rfl
@[simp] theorem State.setObj_standing (i j v : Nat) : (s.setObj i j v).standing = s.standing := rfl
@[simp] theorem State.setObj_pauses (i j v : Nat) : (s.setObj i j v).pauses = s.pauses := rfl
@[simp] theorem State.setObj_rotor (i j v : Nat) : (s.setObj i j v).rotor = s.rotor := rfl
@[simp] theorem State.setObj_syncFlags (i j v : Nat) : (s.setObj i j v).syncFlags = s.syncFlags := rfl
@[simp] theorem State.setObj_winGens (i j v : Nat) : (s.setObj i j v).winGens = s.winGens := rfl
@[simp] theorem State.setObj_setDigests (i j v : Nat) : (s.setObj i j v).setDigests = s.setDigests := rfl
@[simp] theorem State.setObj_rounds (i j v : Nat) : (s.setObj i j v).rounds = s.rounds := rfl
@[simp] theorem State.setObj_agree (i j v : Nat) : (s.setObj i j v).agree = s.agree := rfl
@[simp] theorem State.setObj_holds (i j v : Nat) : (s.setObj i j v).holds = s.holds := rfl
@[simp] theorem State.setObj_holdsHeard (i j v : Nat) : (s.setObj i j v).holdsHeard = s.holdsHeard := rfl
@[simp] theorem State.setObj_holdDue (i j v : Nat) : (s.setObj i j v).holdDue = s.holdDue := rfl
@[simp] theorem State.setObj_sparing (i j v : Nat) : (s.setObj i j v).sparing = s.sparing := rfl
@[simp] theorem State.setObj_sparesFailed (i j v : Nat) : (s.setObj i j v).sparesFailed = s.sparesFailed := rfl
@[simp] theorem State.setObj_restore (i j v : Nat) : (s.setObj i j v).restore = s.restore := rfl
@[simp] theorem State.setObj_wardDigests (i j v : Nat) : (s.setObj i j v).wardDigests = s.wardDigests := rfl
@[simp] theorem State.setObj_ports (i j v : Nat) : (s.setObj i j v).ports = s.ports := rfl
@[simp] theorem State.setObj_floodSeq (i j v : Nat) : (s.setObj i j v).floodSeq = s.floodSeq := rfl
@[simp] theorem State.setObj_floodSeen (i j v : Nat) : (s.setObj i j v).floodSeen = s.floodSeen := rfl
@[simp] theorem State.setObj_downLinks (i j v : Nat) : (s.setObj i j v).downLinks = s.downLinks := rfl
@[simp] theorem State.setObj_lossAt (i j v : Nat) : (s.setObj i j v).lossAt = s.lossAt := rfl
@[simp] theorem State.setObj_lossOrigins (i j v : Nat) : (s.setObj i j v).lossOrigins = s.lossOrigins := rfl
@[simp] theorem State.setObj_lostNodes (i j v : Nat) : (s.setObj i j v).lostNodes = s.lostNodes := rfl
@[simp] theorem State.setObj_activeSets (i j v : Nat) : (s.setObj i j v).activeSets = s.activeSets := rfl
@[simp] theorem State.setObj_inbound (i j v : Nat) : (s.setObj i j v).inbound = s.inbound := rfl
@[simp] theorem State.setObj_heldWrites (i j v : Nat) : (s.setObj i j v).heldWrites = s.heldWrites := rfl
@[simp] theorem State.setObj_outbound (i j v : Nat) : (s.setObj i j v).outbound = s.outbound := rfl
@[simp] theorem State.setObj_nextXid (i j v : Nat) : (s.setObj i j v).nextXid = s.nextXid := rfl
@[simp] theorem State.setObj_epochCommitGc (i j v : Nat) : (s.setObj i j v).epochCommitGc = s.epochCommitGc := rfl
@[simp] theorem State.setObj_coreFaults (i j v : Nat) : (s.setObj i j v).coreFaults = s.coreFaults := rfl
@[simp] theorem State.setObj_collFaults (i j v : Nat) : (s.setObj i j v).collFaults = s.collFaults := rfl
@[simp] theorem State.setObj_seFenced (i j v : Nat) : (s.setObj i j v).seFenced = s.seFenced := rfl
@[simp] theorem State.setObj_fenceErrors (i j v : Nat) : (s.setObj i j v).fenceErrors = s.fenceErrors := rfl
@[simp] theorem State.setObj_errorReplies (i j v : Nat) : (s.setObj i j v).errorReplies = s.errorReplies := rfl
@[simp] theorem State.setObj_transientBins (i j v : Nat) : (s.setObj i j v).transientBins = s.transientBins := rfl
@[simp] theorem State.setObj_freeze (i j v : Nat) : (s.setObj i j v).freeze = s.freeze := rfl
@[simp] theorem State.setObj_tap (i j v : Nat) : (s.setObj i j v).tap = s.tap := rfl
@[simp] theorem State.setObj_telemetry (i j v : Nat) : (s.setObj i j v).telemetry = s.telemetry := rfl
@[simp] theorem State.setObj_out (i j v : Nat) : (s.setObj i j v).out = s.out := rfl
@[simp] theorem State.setObj_freeCount (i j v : Nat) : (s.setObj i j v).freeCount = s.freeCount := rfl
@[simp] theorem State.setObj_pending (i j v : Nat) : (s.setObj i j v).pending = s.pending := rfl

/-! ### `addObj` -/

@[simp] theorem State.addObj_phase (i j n : Nat) : (s.addObj i j n).phase = s.phase := rfl
@[simp] theorem State.addObj_stage (i j n : Nat) : (s.addObj i j n).stage = s.stage := rfl
@[simp] theorem State.addObj_latchedCause (i j n : Nat) : (s.addObj i j n).latchedCause = s.latchedCause := rfl
@[simp] theorem State.addObj_tripLatch (i j n : Nat) : (s.addObj i j n).tripLatch = s.tripLatch := rfl
@[simp] theorem State.addObj_pins (i j n : Nat) : (s.addObj i j n).pins = s.pins := rfl
@[simp] theorem State.addObj_bringup (i j n : Nat) : (s.addObj i j n).bringup = s.bringup := rfl
@[simp] theorem State.addObj_moduleLost (i j n : Nat) : (s.addObj i j n).moduleLost = s.moduleLost := rfl
@[simp] theorem State.addObj_planStuck (i j n : Nat) : (s.addObj i j n).planStuck = s.planStuck := rfl
@[simp] theorem State.addObj_hostPllLost (i j n : Nat) : (s.addObj i j n).hostPllLost = s.hostPllLost := rfl
@[simp] theorem State.addObj_standbyOff (i j n : Nat) : (s.addObj i j n).standbyOff = s.standbyOff := rfl
@[simp] theorem State.addObj_nv (i j n : Nat) : (s.addObj i j n).nv = s.nv := rfl
@[simp] theorem State.addObj_running (i j n : Nat) : (s.addObj i j n).running = s.running := rfl
@[simp] theorem State.addObj_pinned (i j n : Nat) : (s.addObj i j n).pinned = s.pinned := rfl
@[simp] theorem State.addObj_keyUnusable (i j n : Nat) : (s.addObj i j n).keyUnusable = s.keyUnusable := rfl
@[simp] theorem State.addObj_bootChecks (i j n : Nat) : (s.addObj i j n).bootChecks = s.bootChecks := rfl
@[simp] theorem State.addObj_mgmt (i j n : Nat) : (s.addObj i j n).mgmt = s.mgmt := rfl
@[simp] theorem State.addObj_blobs (i j n : Nat) : (s.addObj i j n).blobs = s.blobs := rfl
@[simp] theorem State.addObj_staged (i j n : Nat) : (s.addObj i j n).staged = s.staged := rfl
@[simp] theorem State.addObj_stageLock (i j n : Nat) : (s.addObj i j n).stageLock = s.stageLock := rfl
@[simp] theorem State.addObj_log (i j n : Nat) : (s.addObj i j n).log = s.log := rfl
@[simp] theorem State.addObj_auditLog (i j n : Nat) : (s.addObj i j n).auditLog = s.auditLog := rfl
@[simp] theorem State.addObj_replayLog (i j n : Nat) : (s.addObj i j n).replayLog = s.replayLog := rfl
@[simp] theorem State.addObj_uptime (i j n : Nat) : (s.addObj i j n).uptime = s.uptime := rfl
@[simp] theorem State.addObj_gc (i j n : Nat) : (s.addObj i j n).gc = s.gc := rfl
@[simp] theorem State.addObj_syncSeenAt (i j n : Nat) : (s.addObj i j n).syncSeenAt = s.syncSeenAt := rfl
@[simp] theorem State.addObj_coreMap (i j n : Nat) : (s.addObj i j n).coreMap = s.coreMap := rfl
@[simp] theorem State.addObj_spares (i j n : Nat) : (s.addObj i j n).spares = s.spares := rfl
@[simp] theorem State.addObj_islands (i j n : Nat) : (s.addObj i j n).islands = s.islands := rfl
@[simp] theorem State.addObj_lasers (i j n : Nat) : (s.addObj i j n).lasers = s.lasers := rfl
@[simp] theorem State.addObj_mem (i j n : Nat) : (s.addObj i j n).mem = s.mem := rfl
@[simp] theorem State.addObj_poison (i j n : Nat) : (s.addObj i j n).poison = s.poison := rfl
@[simp] theorem State.addObj_caches (i j n : Nat) : (s.addObj i j n).caches = s.caches := rfl
@[simp] theorem State.addObj_sheaves (i j n : Nat) : (s.addObj i j n).sheaves = s.sheaves := rfl
@[simp] theorem State.addObj_rowErrors (i j n : Nat) : (s.addObj i j n).rowErrors = s.rowErrors := rfl
@[simp] theorem State.addObj_faultyRows (i j n : Nat) : (s.addObj i j n).faultyRows = s.faultyRows := rfl
@[simp] theorem State.addObj_badRows (i j n : Nat) : (s.addObj i j n).badRows = s.badRows := rfl
@[simp] theorem State.addObj_thermal (i j n : Nat) : (s.addObj i j n).thermal = s.thermal := rfl
@[simp] theorem State.addObj_temps (i j n : Nat) : (s.addObj i j n).temps = s.temps := rfl
@[simp] theorem State.addObj_strobes (i j n : Nat) : (s.addObj i j n).strobes = s.strobes := rfl
@[simp] theorem State.addObj_marginScan (i j n : Nat) : (s.addObj i j n).marginScan = s.marginScan := rfl
@[simp] theorem State.addObj_laneSets (i j n : Nat) : (s.addObj i j n).laneSets = s.laneSets := rfl
@[simp] theorem State.addObj_marginResult (i j n : Nat) : (s.addObj i j n).marginResult = s.marginResult := rfl
@[simp] theorem State.addObj_slots (i j n : Nat) : (s.addObj i j n).slots = s.slots := rfl
@[simp] theorem State.addObj_activeSlot (i j n : Nat) : (s.addObj i j n).activeSlot = s.activeSlot := rfl
@[simp] theorem State.addObj_plan (i j n : Nat) : (s.addObj i j n).plan = s.plan := rfl
@[simp] theorem State.addObj_step (i j n : Nat) : (s.addObj i j n).step = s.step := rfl
@[simp] theorem State.addObj_counts (i j n : Nat) : (s.addObj i j n).counts = s.counts := rfl
@[simp] theorem State.addObj_tileStatus (i j n : Nat) : (s.addObj i j n).tileStatus = s.tileStatus := rfl
@[simp] theorem State.addObj_poolLow (i j n : Nat) : (s.addObj i j n).poolLow = s.poolLow := rfl
@[simp] theorem State.addObj_poolWaited (i j n : Nat) : (s.addObj i j n).poolWaited = s.poolWaited := rfl
@[simp] theorem State.addObj_cores (i j n : Nat) : (s.addObj i j n).cores = s.cores := rfl
@[simp] theorem State.addObj_signals (i j n : Nat) : (s.addObj i j n).signals = s.signals := rfl
@[simp] theorem State.addObj_lastStarted (i j n : Nat) : (s.addObj i j n).lastStarted = s.lastStarted := rfl
@[simp] theorem State.addObj_chainHeld (i j n : Nat) : (s.addObj i j n).chainHeld = s.chainHeld := rfl
@[simp] theorem State.addObj_standing (i j n : Nat) : (s.addObj i j n).standing = s.standing := rfl
@[simp] theorem State.addObj_pauses (i j n : Nat) : (s.addObj i j n).pauses = s.pauses := rfl
@[simp] theorem State.addObj_rotor (i j n : Nat) : (s.addObj i j n).rotor = s.rotor := rfl
@[simp] theorem State.addObj_syncFlags (i j n : Nat) : (s.addObj i j n).syncFlags = s.syncFlags := rfl
@[simp] theorem State.addObj_winGens (i j n : Nat) : (s.addObj i j n).winGens = s.winGens := rfl
@[simp] theorem State.addObj_setDigests (i j n : Nat) : (s.addObj i j n).setDigests = s.setDigests := rfl
@[simp] theorem State.addObj_rounds (i j n : Nat) : (s.addObj i j n).rounds = s.rounds := rfl
@[simp] theorem State.addObj_agree (i j n : Nat) : (s.addObj i j n).agree = s.agree := rfl
@[simp] theorem State.addObj_holds (i j n : Nat) : (s.addObj i j n).holds = s.holds := rfl
@[simp] theorem State.addObj_holdsHeard (i j n : Nat) : (s.addObj i j n).holdsHeard = s.holdsHeard := rfl
@[simp] theorem State.addObj_holdDue (i j n : Nat) : (s.addObj i j n).holdDue = s.holdDue := rfl
@[simp] theorem State.addObj_sparing (i j n : Nat) : (s.addObj i j n).sparing = s.sparing := rfl
@[simp] theorem State.addObj_sparesFailed (i j n : Nat) : (s.addObj i j n).sparesFailed = s.sparesFailed := rfl
@[simp] theorem State.addObj_restore (i j n : Nat) : (s.addObj i j n).restore = s.restore := rfl
@[simp] theorem State.addObj_wardDigests (i j n : Nat) : (s.addObj i j n).wardDigests = s.wardDigests := rfl
@[simp] theorem State.addObj_ports (i j n : Nat) : (s.addObj i j n).ports = s.ports := rfl
@[simp] theorem State.addObj_floodSeq (i j n : Nat) : (s.addObj i j n).floodSeq = s.floodSeq := rfl
@[simp] theorem State.addObj_floodSeen (i j n : Nat) : (s.addObj i j n).floodSeen = s.floodSeen := rfl
@[simp] theorem State.addObj_downLinks (i j n : Nat) : (s.addObj i j n).downLinks = s.downLinks := rfl
@[simp] theorem State.addObj_lossAt (i j n : Nat) : (s.addObj i j n).lossAt = s.lossAt := rfl
@[simp] theorem State.addObj_lossOrigins (i j n : Nat) : (s.addObj i j n).lossOrigins = s.lossOrigins := rfl
@[simp] theorem State.addObj_lostNodes (i j n : Nat) : (s.addObj i j n).lostNodes = s.lostNodes := rfl
@[simp] theorem State.addObj_activeSets (i j n : Nat) : (s.addObj i j n).activeSets = s.activeSets := rfl
@[simp] theorem State.addObj_inbound (i j n : Nat) : (s.addObj i j n).inbound = s.inbound := rfl
@[simp] theorem State.addObj_heldWrites (i j n : Nat) : (s.addObj i j n).heldWrites = s.heldWrites := rfl
@[simp] theorem State.addObj_outbound (i j n : Nat) : (s.addObj i j n).outbound = s.outbound := rfl
@[simp] theorem State.addObj_nextXid (i j n : Nat) : (s.addObj i j n).nextXid = s.nextXid := rfl
@[simp] theorem State.addObj_epochCommitGc (i j n : Nat) : (s.addObj i j n).epochCommitGc = s.epochCommitGc := rfl
@[simp] theorem State.addObj_coreFaults (i j n : Nat) : (s.addObj i j n).coreFaults = s.coreFaults := rfl
@[simp] theorem State.addObj_collFaults (i j n : Nat) : (s.addObj i j n).collFaults = s.collFaults := rfl
@[simp] theorem State.addObj_seFenced (i j n : Nat) : (s.addObj i j n).seFenced = s.seFenced := rfl
@[simp] theorem State.addObj_fenceErrors (i j n : Nat) : (s.addObj i j n).fenceErrors = s.fenceErrors := rfl
@[simp] theorem State.addObj_errorReplies (i j n : Nat) : (s.addObj i j n).errorReplies = s.errorReplies := rfl
@[simp] theorem State.addObj_transientBins (i j n : Nat) : (s.addObj i j n).transientBins = s.transientBins := rfl
@[simp] theorem State.addObj_freeze (i j n : Nat) : (s.addObj i j n).freeze = s.freeze := rfl
@[simp] theorem State.addObj_tap (i j n : Nat) : (s.addObj i j n).tap = s.tap := rfl
@[simp] theorem State.addObj_telemetry (i j n : Nat) : (s.addObj i j n).telemetry = s.telemetry := rfl
@[simp] theorem State.addObj_out (i j n : Nat) : (s.addObj i j n).out = s.out := rfl
@[simp] theorem State.addObj_freeCount (i j n : Nat) : (s.addObj i j n).freeCount = s.freeCount := rfl
@[simp] theorem State.addObj_pending (i j n : Nat) : (s.addObj i j n).pending = s.pending := rfl

/-! ### `setIsland` -/

@[simp] theorem State.setIsland_phase (i : Nat) (x : IslandState) : (s.setIsland i x).phase = s.phase := rfl
@[simp] theorem State.setIsland_stage (i : Nat) (x : IslandState) : (s.setIsland i x).stage = s.stage := rfl
@[simp] theorem State.setIsland_latchedCause (i : Nat) (x : IslandState) : (s.setIsland i x).latchedCause = s.latchedCause := rfl
@[simp] theorem State.setIsland_tripLatch (i : Nat) (x : IslandState) : (s.setIsland i x).tripLatch = s.tripLatch := rfl
@[simp] theorem State.setIsland_pins (i : Nat) (x : IslandState) : (s.setIsland i x).pins = s.pins := rfl
@[simp] theorem State.setIsland_bringup (i : Nat) (x : IslandState) : (s.setIsland i x).bringup = s.bringup := rfl
@[simp] theorem State.setIsland_moduleLost (i : Nat) (x : IslandState) : (s.setIsland i x).moduleLost = s.moduleLost := rfl
@[simp] theorem State.setIsland_planStuck (i : Nat) (x : IslandState) : (s.setIsland i x).planStuck = s.planStuck := rfl
@[simp] theorem State.setIsland_hostPllLost (i : Nat) (x : IslandState) : (s.setIsland i x).hostPllLost = s.hostPllLost := rfl
@[simp] theorem State.setIsland_standbyOff (i : Nat) (x : IslandState) : (s.setIsland i x).standbyOff = s.standbyOff := rfl
@[simp] theorem State.setIsland_nv (i : Nat) (x : IslandState) : (s.setIsland i x).nv = s.nv := rfl
@[simp] theorem State.setIsland_running (i : Nat) (x : IslandState) : (s.setIsland i x).running = s.running := rfl
@[simp] theorem State.setIsland_pinned (i : Nat) (x : IslandState) : (s.setIsland i x).pinned = s.pinned := rfl
@[simp] theorem State.setIsland_keyUnusable (i : Nat) (x : IslandState) : (s.setIsland i x).keyUnusable = s.keyUnusable := rfl
@[simp] theorem State.setIsland_bootChecks (i : Nat) (x : IslandState) : (s.setIsland i x).bootChecks = s.bootChecks := rfl
@[simp] theorem State.setIsland_mgmt (i : Nat) (x : IslandState) : (s.setIsland i x).mgmt = s.mgmt := rfl
@[simp] theorem State.setIsland_od (i : Nat) (x : IslandState) : (s.setIsland i x).od = s.od := rfl
@[simp] theorem State.setIsland_blobs (i : Nat) (x : IslandState) : (s.setIsland i x).blobs = s.blobs := rfl
@[simp] theorem State.setIsland_staged (i : Nat) (x : IslandState) : (s.setIsland i x).staged = s.staged := rfl
@[simp] theorem State.setIsland_stageLock (i : Nat) (x : IslandState) : (s.setIsland i x).stageLock = s.stageLock := rfl
@[simp] theorem State.setIsland_log (i : Nat) (x : IslandState) : (s.setIsland i x).log = s.log := rfl
@[simp] theorem State.setIsland_auditLog (i : Nat) (x : IslandState) : (s.setIsland i x).auditLog = s.auditLog := rfl
@[simp] theorem State.setIsland_replayLog (i : Nat) (x : IslandState) : (s.setIsland i x).replayLog = s.replayLog := rfl
@[simp] theorem State.setIsland_uptime (i : Nat) (x : IslandState) : (s.setIsland i x).uptime = s.uptime := rfl
@[simp] theorem State.setIsland_gc (i : Nat) (x : IslandState) : (s.setIsland i x).gc = s.gc := rfl
@[simp] theorem State.setIsland_syncSeenAt (i : Nat) (x : IslandState) : (s.setIsland i x).syncSeenAt = s.syncSeenAt := rfl
@[simp] theorem State.setIsland_coreMap (i : Nat) (x : IslandState) : (s.setIsland i x).coreMap = s.coreMap := rfl
@[simp] theorem State.setIsland_spares (i : Nat) (x : IslandState) : (s.setIsland i x).spares = s.spares := rfl
@[simp] theorem State.setIsland_lasers (i : Nat) (x : IslandState) : (s.setIsland i x).lasers = s.lasers := rfl
@[simp] theorem State.setIsland_mem (i : Nat) (x : IslandState) : (s.setIsland i x).mem = s.mem := rfl
@[simp] theorem State.setIsland_poison (i : Nat) (x : IslandState) : (s.setIsland i x).poison = s.poison := rfl
@[simp] theorem State.setIsland_caches (i : Nat) (x : IslandState) : (s.setIsland i x).caches = s.caches := rfl
@[simp] theorem State.setIsland_sheaves (i : Nat) (x : IslandState) : (s.setIsland i x).sheaves = s.sheaves := rfl
@[simp] theorem State.setIsland_rowErrors (i : Nat) (x : IslandState) : (s.setIsland i x).rowErrors = s.rowErrors := rfl
@[simp] theorem State.setIsland_faultyRows (i : Nat) (x : IslandState) : (s.setIsland i x).faultyRows = s.faultyRows := rfl
@[simp] theorem State.setIsland_badRows (i : Nat) (x : IslandState) : (s.setIsland i x).badRows = s.badRows := rfl
@[simp] theorem State.setIsland_thermal (i : Nat) (x : IslandState) : (s.setIsland i x).thermal = s.thermal := rfl
@[simp] theorem State.setIsland_temps (i : Nat) (x : IslandState) : (s.setIsland i x).temps = s.temps := rfl
@[simp] theorem State.setIsland_strobes (i : Nat) (x : IslandState) : (s.setIsland i x).strobes = s.strobes := rfl
@[simp] theorem State.setIsland_marginScan (i : Nat) (x : IslandState) : (s.setIsland i x).marginScan = s.marginScan := rfl
@[simp] theorem State.setIsland_laneSets (i : Nat) (x : IslandState) : (s.setIsland i x).laneSets = s.laneSets := rfl
@[simp] theorem State.setIsland_marginResult (i : Nat) (x : IslandState) : (s.setIsland i x).marginResult = s.marginResult := rfl
@[simp] theorem State.setIsland_slots (i : Nat) (x : IslandState) : (s.setIsland i x).slots = s.slots := rfl
@[simp] theorem State.setIsland_activeSlot (i : Nat) (x : IslandState) : (s.setIsland i x).activeSlot = s.activeSlot := rfl
@[simp] theorem State.setIsland_plan (i : Nat) (x : IslandState) : (s.setIsland i x).plan = s.plan := rfl
@[simp] theorem State.setIsland_step (i : Nat) (x : IslandState) : (s.setIsland i x).step = s.step := rfl
@[simp] theorem State.setIsland_counts (i : Nat) (x : IslandState) : (s.setIsland i x).counts = s.counts := rfl
@[simp] theorem State.setIsland_tileStatus (i : Nat) (x : IslandState) : (s.setIsland i x).tileStatus = s.tileStatus := rfl
@[simp] theorem State.setIsland_poolLow (i : Nat) (x : IslandState) : (s.setIsland i x).poolLow = s.poolLow := rfl
@[simp] theorem State.setIsland_poolWaited (i : Nat) (x : IslandState) : (s.setIsland i x).poolWaited = s.poolWaited := rfl
@[simp] theorem State.setIsland_cores (i : Nat) (x : IslandState) : (s.setIsland i x).cores = s.cores := rfl
@[simp] theorem State.setIsland_signals (i : Nat) (x : IslandState) : (s.setIsland i x).signals = s.signals := rfl
@[simp] theorem State.setIsland_lastStarted (i : Nat) (x : IslandState) : (s.setIsland i x).lastStarted = s.lastStarted := rfl
@[simp] theorem State.setIsland_chainHeld (i : Nat) (x : IslandState) : (s.setIsland i x).chainHeld = s.chainHeld := rfl
@[simp] theorem State.setIsland_standing (i : Nat) (x : IslandState) : (s.setIsland i x).standing = s.standing := rfl
@[simp] theorem State.setIsland_pauses (i : Nat) (x : IslandState) : (s.setIsland i x).pauses = s.pauses := rfl
@[simp] theorem State.setIsland_rotor (i : Nat) (x : IslandState) : (s.setIsland i x).rotor = s.rotor := rfl
@[simp] theorem State.setIsland_syncFlags (i : Nat) (x : IslandState) : (s.setIsland i x).syncFlags = s.syncFlags := rfl
@[simp] theorem State.setIsland_winGens (i : Nat) (x : IslandState) : (s.setIsland i x).winGens = s.winGens := rfl
@[simp] theorem State.setIsland_setDigests (i : Nat) (x : IslandState) : (s.setIsland i x).setDigests = s.setDigests := rfl
@[simp] theorem State.setIsland_rounds (i : Nat) (x : IslandState) : (s.setIsland i x).rounds = s.rounds := rfl
@[simp] theorem State.setIsland_agree (i : Nat) (x : IslandState) : (s.setIsland i x).agree = s.agree := rfl
@[simp] theorem State.setIsland_holds (i : Nat) (x : IslandState) : (s.setIsland i x).holds = s.holds := rfl
@[simp] theorem State.setIsland_holdsHeard (i : Nat) (x : IslandState) : (s.setIsland i x).holdsHeard = s.holdsHeard := rfl
@[simp] theorem State.setIsland_holdDue (i : Nat) (x : IslandState) : (s.setIsland i x).holdDue = s.holdDue := rfl
@[simp] theorem State.setIsland_sparing (i : Nat) (x : IslandState) : (s.setIsland i x).sparing = s.sparing := rfl
@[simp] theorem State.setIsland_sparesFailed (i : Nat) (x : IslandState) : (s.setIsland i x).sparesFailed = s.sparesFailed := rfl
@[simp] theorem State.setIsland_restore (i : Nat) (x : IslandState) : (s.setIsland i x).restore = s.restore := rfl
@[simp] theorem State.setIsland_wardDigests (i : Nat) (x : IslandState) : (s.setIsland i x).wardDigests = s.wardDigests := rfl
@[simp] theorem State.setIsland_ports (i : Nat) (x : IslandState) : (s.setIsland i x).ports = s.ports := rfl
@[simp] theorem State.setIsland_floodSeq (i : Nat) (x : IslandState) : (s.setIsland i x).floodSeq = s.floodSeq := rfl
@[simp] theorem State.setIsland_floodSeen (i : Nat) (x : IslandState) : (s.setIsland i x).floodSeen = s.floodSeen := rfl
@[simp] theorem State.setIsland_downLinks (i : Nat) (x : IslandState) : (s.setIsland i x).downLinks = s.downLinks := rfl
@[simp] theorem State.setIsland_lossAt (i : Nat) (x : IslandState) : (s.setIsland i x).lossAt = s.lossAt := rfl
@[simp] theorem State.setIsland_lossOrigins (i : Nat) (x : IslandState) : (s.setIsland i x).lossOrigins = s.lossOrigins := rfl
@[simp] theorem State.setIsland_lostNodes (i : Nat) (x : IslandState) : (s.setIsland i x).lostNodes = s.lostNodes := rfl
@[simp] theorem State.setIsland_activeSets (i : Nat) (x : IslandState) : (s.setIsland i x).activeSets = s.activeSets := rfl
@[simp] theorem State.setIsland_inbound (i : Nat) (x : IslandState) : (s.setIsland i x).inbound = s.inbound := rfl
@[simp] theorem State.setIsland_heldWrites (i : Nat) (x : IslandState) : (s.setIsland i x).heldWrites = s.heldWrites := rfl
@[simp] theorem State.setIsland_outbound (i : Nat) (x : IslandState) : (s.setIsland i x).outbound = s.outbound := rfl
@[simp] theorem State.setIsland_nextXid (i : Nat) (x : IslandState) : (s.setIsland i x).nextXid = s.nextXid := rfl
@[simp] theorem State.setIsland_epochCommitGc (i : Nat) (x : IslandState) : (s.setIsland i x).epochCommitGc = s.epochCommitGc := rfl
@[simp] theorem State.setIsland_coreFaults (i : Nat) (x : IslandState) : (s.setIsland i x).coreFaults = s.coreFaults := rfl
@[simp] theorem State.setIsland_collFaults (i : Nat) (x : IslandState) : (s.setIsland i x).collFaults = s.collFaults := rfl
@[simp] theorem State.setIsland_seFenced (i : Nat) (x : IslandState) : (s.setIsland i x).seFenced = s.seFenced := rfl
@[simp] theorem State.setIsland_fenceErrors (i : Nat) (x : IslandState) : (s.setIsland i x).fenceErrors = s.fenceErrors := rfl
@[simp] theorem State.setIsland_errorReplies (i : Nat) (x : IslandState) : (s.setIsland i x).errorReplies = s.errorReplies := rfl
@[simp] theorem State.setIsland_transientBins (i : Nat) (x : IslandState) : (s.setIsland i x).transientBins = s.transientBins := rfl
@[simp] theorem State.setIsland_freeze (i : Nat) (x : IslandState) : (s.setIsland i x).freeze = s.freeze := rfl
@[simp] theorem State.setIsland_tap (i : Nat) (x : IslandState) : (s.setIsland i x).tap = s.tap := rfl
@[simp] theorem State.setIsland_telemetry (i : Nat) (x : IslandState) : (s.setIsland i x).telemetry = s.telemetry := rfl
@[simp] theorem State.setIsland_out (i : Nat) (x : IslandState) : (s.setIsland i x).out = s.out := rfl
@[simp] theorem State.setIsland_freeCount (i : Nat) (x : IslandState) : (s.setIsland i x).freeCount = s.freeCount := rfl
@[simp] theorem State.setIsland_pending (i : Nat) (x : IslandState) : (s.setIsland i x).pending = s.pending := rfl

/-! ### `modCore` -/

@[simp] theorem State.modCore_phase (c : Core) (f : CoreState → CoreState) : (s.modCore c f).phase = s.phase := rfl
@[simp] theorem State.modCore_stage (c : Core) (f : CoreState → CoreState) : (s.modCore c f).stage = s.stage := rfl
@[simp] theorem State.modCore_latchedCause (c : Core) (f : CoreState → CoreState) : (s.modCore c f).latchedCause = s.latchedCause := rfl
@[simp] theorem State.modCore_tripLatch (c : Core) (f : CoreState → CoreState) : (s.modCore c f).tripLatch = s.tripLatch := rfl
@[simp] theorem State.modCore_pins (c : Core) (f : CoreState → CoreState) : (s.modCore c f).pins = s.pins := rfl
@[simp] theorem State.modCore_bringup (c : Core) (f : CoreState → CoreState) : (s.modCore c f).bringup = s.bringup := rfl
@[simp] theorem State.modCore_moduleLost (c : Core) (f : CoreState → CoreState) : (s.modCore c f).moduleLost = s.moduleLost := rfl
@[simp] theorem State.modCore_planStuck (c : Core) (f : CoreState → CoreState) : (s.modCore c f).planStuck = s.planStuck := rfl
@[simp] theorem State.modCore_hostPllLost (c : Core) (f : CoreState → CoreState) : (s.modCore c f).hostPllLost = s.hostPllLost := rfl
@[simp] theorem State.modCore_standbyOff (c : Core) (f : CoreState → CoreState) : (s.modCore c f).standbyOff = s.standbyOff := rfl
@[simp] theorem State.modCore_nv (c : Core) (f : CoreState → CoreState) : (s.modCore c f).nv = s.nv := rfl
@[simp] theorem State.modCore_running (c : Core) (f : CoreState → CoreState) : (s.modCore c f).running = s.running := rfl
@[simp] theorem State.modCore_pinned (c : Core) (f : CoreState → CoreState) : (s.modCore c f).pinned = s.pinned := rfl
@[simp] theorem State.modCore_keyUnusable (c : Core) (f : CoreState → CoreState) : (s.modCore c f).keyUnusable = s.keyUnusable := rfl
@[simp] theorem State.modCore_bootChecks (c : Core) (f : CoreState → CoreState) : (s.modCore c f).bootChecks = s.bootChecks := rfl
@[simp] theorem State.modCore_mgmt (c : Core) (f : CoreState → CoreState) : (s.modCore c f).mgmt = s.mgmt := rfl
@[simp] theorem State.modCore_od (c : Core) (f : CoreState → CoreState) : (s.modCore c f).od = s.od := rfl
@[simp] theorem State.modCore_blobs (c : Core) (f : CoreState → CoreState) : (s.modCore c f).blobs = s.blobs := rfl
@[simp] theorem State.modCore_staged (c : Core) (f : CoreState → CoreState) : (s.modCore c f).staged = s.staged := rfl
@[simp] theorem State.modCore_stageLock (c : Core) (f : CoreState → CoreState) : (s.modCore c f).stageLock = s.stageLock := rfl
@[simp] theorem State.modCore_log (c : Core) (f : CoreState → CoreState) : (s.modCore c f).log = s.log := rfl
@[simp] theorem State.modCore_auditLog (c : Core) (f : CoreState → CoreState) : (s.modCore c f).auditLog = s.auditLog := rfl
@[simp] theorem State.modCore_replayLog (c : Core) (f : CoreState → CoreState) : (s.modCore c f).replayLog = s.replayLog := rfl
@[simp] theorem State.modCore_uptime (c : Core) (f : CoreState → CoreState) : (s.modCore c f).uptime = s.uptime := rfl
@[simp] theorem State.modCore_gc (c : Core) (f : CoreState → CoreState) : (s.modCore c f).gc = s.gc := rfl
@[simp] theorem State.modCore_syncSeenAt (c : Core) (f : CoreState → CoreState) : (s.modCore c f).syncSeenAt = s.syncSeenAt := rfl
@[simp] theorem State.modCore_coreMap (c : Core) (f : CoreState → CoreState) : (s.modCore c f).coreMap = s.coreMap := rfl
@[simp] theorem State.modCore_spares (c : Core) (f : CoreState → CoreState) : (s.modCore c f).spares = s.spares := rfl
@[simp] theorem State.modCore_islands (c : Core) (f : CoreState → CoreState) : (s.modCore c f).islands = s.islands := rfl
@[simp] theorem State.modCore_lasers (c : Core) (f : CoreState → CoreState) : (s.modCore c f).lasers = s.lasers := rfl
@[simp] theorem State.modCore_mem (c : Core) (f : CoreState → CoreState) : (s.modCore c f).mem = s.mem := rfl
@[simp] theorem State.modCore_poison (c : Core) (f : CoreState → CoreState) : (s.modCore c f).poison = s.poison := rfl
@[simp] theorem State.modCore_caches (c : Core) (f : CoreState → CoreState) : (s.modCore c f).caches = s.caches := rfl
@[simp] theorem State.modCore_sheaves (c : Core) (f : CoreState → CoreState) : (s.modCore c f).sheaves = s.sheaves := rfl
@[simp] theorem State.modCore_rowErrors (c : Core) (f : CoreState → CoreState) : (s.modCore c f).rowErrors = s.rowErrors := rfl
@[simp] theorem State.modCore_faultyRows (c : Core) (f : CoreState → CoreState) : (s.modCore c f).faultyRows = s.faultyRows := rfl
@[simp] theorem State.modCore_badRows (c : Core) (f : CoreState → CoreState) : (s.modCore c f).badRows = s.badRows := rfl
@[simp] theorem State.modCore_thermal (c : Core) (f : CoreState → CoreState) : (s.modCore c f).thermal = s.thermal := rfl
@[simp] theorem State.modCore_temps (c : Core) (f : CoreState → CoreState) : (s.modCore c f).temps = s.temps := rfl
@[simp] theorem State.modCore_strobes (c : Core) (f : CoreState → CoreState) : (s.modCore c f).strobes = s.strobes := rfl
@[simp] theorem State.modCore_marginScan (c : Core) (f : CoreState → CoreState) : (s.modCore c f).marginScan = s.marginScan := rfl
@[simp] theorem State.modCore_laneSets (c : Core) (f : CoreState → CoreState) : (s.modCore c f).laneSets = s.laneSets := rfl
@[simp] theorem State.modCore_marginResult (c : Core) (f : CoreState → CoreState) : (s.modCore c f).marginResult = s.marginResult := rfl
@[simp] theorem State.modCore_slots (c : Core) (f : CoreState → CoreState) : (s.modCore c f).slots = s.slots := rfl
@[simp] theorem State.modCore_activeSlot (c : Core) (f : CoreState → CoreState) : (s.modCore c f).activeSlot = s.activeSlot := rfl
@[simp] theorem State.modCore_plan (c : Core) (f : CoreState → CoreState) : (s.modCore c f).plan = s.plan := rfl
@[simp] theorem State.modCore_step (c : Core) (f : CoreState → CoreState) : (s.modCore c f).step = s.step := rfl
@[simp] theorem State.modCore_counts (c : Core) (f : CoreState → CoreState) : (s.modCore c f).counts = s.counts := rfl
@[simp] theorem State.modCore_tileStatus (c : Core) (f : CoreState → CoreState) : (s.modCore c f).tileStatus = s.tileStatus := rfl
@[simp] theorem State.modCore_poolLow (c : Core) (f : CoreState → CoreState) : (s.modCore c f).poolLow = s.poolLow := rfl
@[simp] theorem State.modCore_poolWaited (c : Core) (f : CoreState → CoreState) : (s.modCore c f).poolWaited = s.poolWaited := rfl
@[simp] theorem State.modCore_signals (c : Core) (f : CoreState → CoreState) : (s.modCore c f).signals = s.signals := rfl
@[simp] theorem State.modCore_lastStarted (c : Core) (f : CoreState → CoreState) : (s.modCore c f).lastStarted = s.lastStarted := rfl
@[simp] theorem State.modCore_chainHeld (c : Core) (f : CoreState → CoreState) : (s.modCore c f).chainHeld = s.chainHeld := rfl
@[simp] theorem State.modCore_standing (c : Core) (f : CoreState → CoreState) : (s.modCore c f).standing = s.standing := rfl
@[simp] theorem State.modCore_pauses (c : Core) (f : CoreState → CoreState) : (s.modCore c f).pauses = s.pauses := rfl
@[simp] theorem State.modCore_rotor (c : Core) (f : CoreState → CoreState) : (s.modCore c f).rotor = s.rotor := rfl
@[simp] theorem State.modCore_syncFlags (c : Core) (f : CoreState → CoreState) : (s.modCore c f).syncFlags = s.syncFlags := rfl
@[simp] theorem State.modCore_winGens (c : Core) (f : CoreState → CoreState) : (s.modCore c f).winGens = s.winGens := rfl
@[simp] theorem State.modCore_setDigests (c : Core) (f : CoreState → CoreState) : (s.modCore c f).setDigests = s.setDigests := rfl
@[simp] theorem State.modCore_rounds (c : Core) (f : CoreState → CoreState) : (s.modCore c f).rounds = s.rounds := rfl
@[simp] theorem State.modCore_agree (c : Core) (f : CoreState → CoreState) : (s.modCore c f).agree = s.agree := rfl
@[simp] theorem State.modCore_holds (c : Core) (f : CoreState → CoreState) : (s.modCore c f).holds = s.holds := rfl
@[simp] theorem State.modCore_holdsHeard (c : Core) (f : CoreState → CoreState) : (s.modCore c f).holdsHeard = s.holdsHeard := rfl
@[simp] theorem State.modCore_holdDue (c : Core) (f : CoreState → CoreState) : (s.modCore c f).holdDue = s.holdDue := rfl
@[simp] theorem State.modCore_sparing (c : Core) (f : CoreState → CoreState) : (s.modCore c f).sparing = s.sparing := rfl
@[simp] theorem State.modCore_sparesFailed (c : Core) (f : CoreState → CoreState) : (s.modCore c f).sparesFailed = s.sparesFailed := rfl
@[simp] theorem State.modCore_restore (c : Core) (f : CoreState → CoreState) : (s.modCore c f).restore = s.restore := rfl
@[simp] theorem State.modCore_wardDigests (c : Core) (f : CoreState → CoreState) : (s.modCore c f).wardDigests = s.wardDigests := rfl
@[simp] theorem State.modCore_ports (c : Core) (f : CoreState → CoreState) : (s.modCore c f).ports = s.ports := rfl
@[simp] theorem State.modCore_floodSeq (c : Core) (f : CoreState → CoreState) : (s.modCore c f).floodSeq = s.floodSeq := rfl
@[simp] theorem State.modCore_floodSeen (c : Core) (f : CoreState → CoreState) : (s.modCore c f).floodSeen = s.floodSeen := rfl
@[simp] theorem State.modCore_downLinks (c : Core) (f : CoreState → CoreState) : (s.modCore c f).downLinks = s.downLinks := rfl
@[simp] theorem State.modCore_lossAt (c : Core) (f : CoreState → CoreState) : (s.modCore c f).lossAt = s.lossAt := rfl
@[simp] theorem State.modCore_lossOrigins (c : Core) (f : CoreState → CoreState) : (s.modCore c f).lossOrigins = s.lossOrigins := rfl
@[simp] theorem State.modCore_lostNodes (c : Core) (f : CoreState → CoreState) : (s.modCore c f).lostNodes = s.lostNodes := rfl
@[simp] theorem State.modCore_activeSets (c : Core) (f : CoreState → CoreState) : (s.modCore c f).activeSets = s.activeSets := rfl
@[simp] theorem State.modCore_inbound (c : Core) (f : CoreState → CoreState) : (s.modCore c f).inbound = s.inbound := rfl
@[simp] theorem State.modCore_heldWrites (c : Core) (f : CoreState → CoreState) : (s.modCore c f).heldWrites = s.heldWrites := rfl
@[simp] theorem State.modCore_outbound (c : Core) (f : CoreState → CoreState) : (s.modCore c f).outbound = s.outbound := rfl
@[simp] theorem State.modCore_nextXid (c : Core) (f : CoreState → CoreState) : (s.modCore c f).nextXid = s.nextXid := rfl
@[simp] theorem State.modCore_epochCommitGc (c : Core) (f : CoreState → CoreState) : (s.modCore c f).epochCommitGc = s.epochCommitGc := rfl
@[simp] theorem State.modCore_coreFaults (c : Core) (f : CoreState → CoreState) : (s.modCore c f).coreFaults = s.coreFaults := rfl
@[simp] theorem State.modCore_collFaults (c : Core) (f : CoreState → CoreState) : (s.modCore c f).collFaults = s.collFaults := rfl
@[simp] theorem State.modCore_seFenced (c : Core) (f : CoreState → CoreState) : (s.modCore c f).seFenced = s.seFenced := rfl
@[simp] theorem State.modCore_fenceErrors (c : Core) (f : CoreState → CoreState) : (s.modCore c f).fenceErrors = s.fenceErrors := rfl
@[simp] theorem State.modCore_errorReplies (c : Core) (f : CoreState → CoreState) : (s.modCore c f).errorReplies = s.errorReplies := rfl
@[simp] theorem State.modCore_transientBins (c : Core) (f : CoreState → CoreState) : (s.modCore c f).transientBins = s.transientBins := rfl
@[simp] theorem State.modCore_freeze (c : Core) (f : CoreState → CoreState) : (s.modCore c f).freeze = s.freeze := rfl
@[simp] theorem State.modCore_tap (c : Core) (f : CoreState → CoreState) : (s.modCore c f).tap = s.tap := rfl
@[simp] theorem State.modCore_telemetry (c : Core) (f : CoreState → CoreState) : (s.modCore c f).telemetry = s.telemetry := rfl
@[simp] theorem State.modCore_out (c : Core) (f : CoreState → CoreState) : (s.modCore c f).out = s.out := rfl
@[simp] theorem State.modCore_freeCount (c : Core) (f : CoreState → CoreState) : (s.modCore c f).freeCount = s.freeCount := rfl
@[simp] theorem State.modCore_pending (c : Core) (f : CoreState → CoreState) : (s.modCore c f).pending = s.pending := rfl

/-! ### `modPort` -/

@[simp] theorem State.modPort_phase (p : Port) (f : PortState → PortState) : (s.modPort p f).phase = s.phase := rfl
@[simp] theorem State.modPort_stage (p : Port) (f : PortState → PortState) : (s.modPort p f).stage = s.stage := rfl
@[simp] theorem State.modPort_latchedCause (p : Port) (f : PortState → PortState) : (s.modPort p f).latchedCause = s.latchedCause := rfl
@[simp] theorem State.modPort_tripLatch (p : Port) (f : PortState → PortState) : (s.modPort p f).tripLatch = s.tripLatch := rfl
@[simp] theorem State.modPort_pins (p : Port) (f : PortState → PortState) : (s.modPort p f).pins = s.pins := rfl
@[simp] theorem State.modPort_bringup (p : Port) (f : PortState → PortState) : (s.modPort p f).bringup = s.bringup := rfl
@[simp] theorem State.modPort_moduleLost (p : Port) (f : PortState → PortState) : (s.modPort p f).moduleLost = s.moduleLost := rfl
@[simp] theorem State.modPort_planStuck (p : Port) (f : PortState → PortState) : (s.modPort p f).planStuck = s.planStuck := rfl
@[simp] theorem State.modPort_hostPllLost (p : Port) (f : PortState → PortState) : (s.modPort p f).hostPllLost = s.hostPllLost := rfl
@[simp] theorem State.modPort_standbyOff (p : Port) (f : PortState → PortState) : (s.modPort p f).standbyOff = s.standbyOff := rfl
@[simp] theorem State.modPort_nv (p : Port) (f : PortState → PortState) : (s.modPort p f).nv = s.nv := rfl
@[simp] theorem State.modPort_running (p : Port) (f : PortState → PortState) : (s.modPort p f).running = s.running := rfl
@[simp] theorem State.modPort_pinned (p : Port) (f : PortState → PortState) : (s.modPort p f).pinned = s.pinned := rfl
@[simp] theorem State.modPort_keyUnusable (p : Port) (f : PortState → PortState) : (s.modPort p f).keyUnusable = s.keyUnusable := rfl
@[simp] theorem State.modPort_bootChecks (p : Port) (f : PortState → PortState) : (s.modPort p f).bootChecks = s.bootChecks := rfl
@[simp] theorem State.modPort_mgmt (p : Port) (f : PortState → PortState) : (s.modPort p f).mgmt = s.mgmt := rfl
@[simp] theorem State.modPort_od (p : Port) (f : PortState → PortState) : (s.modPort p f).od = s.od := rfl
@[simp] theorem State.modPort_blobs (p : Port) (f : PortState → PortState) : (s.modPort p f).blobs = s.blobs := rfl
@[simp] theorem State.modPort_staged (p : Port) (f : PortState → PortState) : (s.modPort p f).staged = s.staged := rfl
@[simp] theorem State.modPort_stageLock (p : Port) (f : PortState → PortState) : (s.modPort p f).stageLock = s.stageLock := rfl
@[simp] theorem State.modPort_log (p : Port) (f : PortState → PortState) : (s.modPort p f).log = s.log := rfl
@[simp] theorem State.modPort_auditLog (p : Port) (f : PortState → PortState) : (s.modPort p f).auditLog = s.auditLog := rfl
@[simp] theorem State.modPort_replayLog (p : Port) (f : PortState → PortState) : (s.modPort p f).replayLog = s.replayLog := rfl
@[simp] theorem State.modPort_uptime (p : Port) (f : PortState → PortState) : (s.modPort p f).uptime = s.uptime := rfl
@[simp] theorem State.modPort_gc (p : Port) (f : PortState → PortState) : (s.modPort p f).gc = s.gc := rfl
@[simp] theorem State.modPort_syncSeenAt (p : Port) (f : PortState → PortState) : (s.modPort p f).syncSeenAt = s.syncSeenAt := rfl
@[simp] theorem State.modPort_coreMap (p : Port) (f : PortState → PortState) : (s.modPort p f).coreMap = s.coreMap := rfl
@[simp] theorem State.modPort_spares (p : Port) (f : PortState → PortState) : (s.modPort p f).spares = s.spares := rfl
@[simp] theorem State.modPort_islands (p : Port) (f : PortState → PortState) : (s.modPort p f).islands = s.islands := rfl
@[simp] theorem State.modPort_lasers (p : Port) (f : PortState → PortState) : (s.modPort p f).lasers = s.lasers := rfl
@[simp] theorem State.modPort_mem (p : Port) (f : PortState → PortState) : (s.modPort p f).mem = s.mem := rfl
@[simp] theorem State.modPort_poison (p : Port) (f : PortState → PortState) : (s.modPort p f).poison = s.poison := rfl
@[simp] theorem State.modPort_caches (p : Port) (f : PortState → PortState) : (s.modPort p f).caches = s.caches := rfl
@[simp] theorem State.modPort_sheaves (p : Port) (f : PortState → PortState) : (s.modPort p f).sheaves = s.sheaves := rfl
@[simp] theorem State.modPort_rowErrors (p : Port) (f : PortState → PortState) : (s.modPort p f).rowErrors = s.rowErrors := rfl
@[simp] theorem State.modPort_faultyRows (p : Port) (f : PortState → PortState) : (s.modPort p f).faultyRows = s.faultyRows := rfl
@[simp] theorem State.modPort_badRows (p : Port) (f : PortState → PortState) : (s.modPort p f).badRows = s.badRows := rfl
@[simp] theorem State.modPort_thermal (p : Port) (f : PortState → PortState) : (s.modPort p f).thermal = s.thermal := rfl
@[simp] theorem State.modPort_temps (p : Port) (f : PortState → PortState) : (s.modPort p f).temps = s.temps := rfl
@[simp] theorem State.modPort_strobes (p : Port) (f : PortState → PortState) : (s.modPort p f).strobes = s.strobes := rfl
@[simp] theorem State.modPort_marginScan (p : Port) (f : PortState → PortState) : (s.modPort p f).marginScan = s.marginScan := rfl
@[simp] theorem State.modPort_laneSets (p : Port) (f : PortState → PortState) : (s.modPort p f).laneSets = s.laneSets := rfl
@[simp] theorem State.modPort_marginResult (p : Port) (f : PortState → PortState) : (s.modPort p f).marginResult = s.marginResult := rfl
@[simp] theorem State.modPort_slots (p : Port) (f : PortState → PortState) : (s.modPort p f).slots = s.slots := rfl
@[simp] theorem State.modPort_activeSlot (p : Port) (f : PortState → PortState) : (s.modPort p f).activeSlot = s.activeSlot := rfl
@[simp] theorem State.modPort_plan (p : Port) (f : PortState → PortState) : (s.modPort p f).plan = s.plan := rfl
@[simp] theorem State.modPort_step (p : Port) (f : PortState → PortState) : (s.modPort p f).step = s.step := rfl
@[simp] theorem State.modPort_counts (p : Port) (f : PortState → PortState) : (s.modPort p f).counts = s.counts := rfl
@[simp] theorem State.modPort_tileStatus (p : Port) (f : PortState → PortState) : (s.modPort p f).tileStatus = s.tileStatus := rfl
@[simp] theorem State.modPort_poolLow (p : Port) (f : PortState → PortState) : (s.modPort p f).poolLow = s.poolLow := rfl
@[simp] theorem State.modPort_poolWaited (p : Port) (f : PortState → PortState) : (s.modPort p f).poolWaited = s.poolWaited := rfl
@[simp] theorem State.modPort_cores (p : Port) (f : PortState → PortState) : (s.modPort p f).cores = s.cores := rfl
@[simp] theorem State.modPort_signals (p : Port) (f : PortState → PortState) : (s.modPort p f).signals = s.signals := rfl
@[simp] theorem State.modPort_lastStarted (p : Port) (f : PortState → PortState) : (s.modPort p f).lastStarted = s.lastStarted := rfl
@[simp] theorem State.modPort_chainHeld (p : Port) (f : PortState → PortState) : (s.modPort p f).chainHeld = s.chainHeld := rfl
@[simp] theorem State.modPort_standing (p : Port) (f : PortState → PortState) : (s.modPort p f).standing = s.standing := rfl
@[simp] theorem State.modPort_pauses (p : Port) (f : PortState → PortState) : (s.modPort p f).pauses = s.pauses := rfl
@[simp] theorem State.modPort_rotor (p : Port) (f : PortState → PortState) : (s.modPort p f).rotor = s.rotor := rfl
@[simp] theorem State.modPort_syncFlags (p : Port) (f : PortState → PortState) : (s.modPort p f).syncFlags = s.syncFlags := rfl
@[simp] theorem State.modPort_winGens (p : Port) (f : PortState → PortState) : (s.modPort p f).winGens = s.winGens := rfl
@[simp] theorem State.modPort_setDigests (p : Port) (f : PortState → PortState) : (s.modPort p f).setDigests = s.setDigests := rfl
@[simp] theorem State.modPort_rounds (p : Port) (f : PortState → PortState) : (s.modPort p f).rounds = s.rounds := rfl
@[simp] theorem State.modPort_agree (p : Port) (f : PortState → PortState) : (s.modPort p f).agree = s.agree := rfl
@[simp] theorem State.modPort_holds (p : Port) (f : PortState → PortState) : (s.modPort p f).holds = s.holds := rfl
@[simp] theorem State.modPort_holdsHeard (p : Port) (f : PortState → PortState) : (s.modPort p f).holdsHeard = s.holdsHeard := rfl
@[simp] theorem State.modPort_holdDue (p : Port) (f : PortState → PortState) : (s.modPort p f).holdDue = s.holdDue := rfl
@[simp] theorem State.modPort_sparing (p : Port) (f : PortState → PortState) : (s.modPort p f).sparing = s.sparing := rfl
@[simp] theorem State.modPort_sparesFailed (p : Port) (f : PortState → PortState) : (s.modPort p f).sparesFailed = s.sparesFailed := rfl
@[simp] theorem State.modPort_restore (p : Port) (f : PortState → PortState) : (s.modPort p f).restore = s.restore := rfl
@[simp] theorem State.modPort_wardDigests (p : Port) (f : PortState → PortState) : (s.modPort p f).wardDigests = s.wardDigests := rfl
@[simp] theorem State.modPort_floodSeq (p : Port) (f : PortState → PortState) : (s.modPort p f).floodSeq = s.floodSeq := rfl
@[simp] theorem State.modPort_floodSeen (p : Port) (f : PortState → PortState) : (s.modPort p f).floodSeen = s.floodSeen := rfl
@[simp] theorem State.modPort_downLinks (p : Port) (f : PortState → PortState) : (s.modPort p f).downLinks = s.downLinks := rfl
@[simp] theorem State.modPort_lossAt (p : Port) (f : PortState → PortState) : (s.modPort p f).lossAt = s.lossAt := rfl
@[simp] theorem State.modPort_lossOrigins (p : Port) (f : PortState → PortState) : (s.modPort p f).lossOrigins = s.lossOrigins := rfl
@[simp] theorem State.modPort_lostNodes (p : Port) (f : PortState → PortState) : (s.modPort p f).lostNodes = s.lostNodes := rfl
@[simp] theorem State.modPort_activeSets (p : Port) (f : PortState → PortState) : (s.modPort p f).activeSets = s.activeSets := rfl
@[simp] theorem State.modPort_inbound (p : Port) (f : PortState → PortState) : (s.modPort p f).inbound = s.inbound := rfl
@[simp] theorem State.modPort_heldWrites (p : Port) (f : PortState → PortState) : (s.modPort p f).heldWrites = s.heldWrites := rfl
@[simp] theorem State.modPort_outbound (p : Port) (f : PortState → PortState) : (s.modPort p f).outbound = s.outbound := rfl
@[simp] theorem State.modPort_nextXid (p : Port) (f : PortState → PortState) : (s.modPort p f).nextXid = s.nextXid := rfl
@[simp] theorem State.modPort_epochCommitGc (p : Port) (f : PortState → PortState) : (s.modPort p f).epochCommitGc = s.epochCommitGc := rfl
@[simp] theorem State.modPort_coreFaults (p : Port) (f : PortState → PortState) : (s.modPort p f).coreFaults = s.coreFaults := rfl
@[simp] theorem State.modPort_collFaults (p : Port) (f : PortState → PortState) : (s.modPort p f).collFaults = s.collFaults := rfl
@[simp] theorem State.modPort_seFenced (p : Port) (f : PortState → PortState) : (s.modPort p f).seFenced = s.seFenced := rfl
@[simp] theorem State.modPort_fenceErrors (p : Port) (f : PortState → PortState) : (s.modPort p f).fenceErrors = s.fenceErrors := rfl
@[simp] theorem State.modPort_errorReplies (p : Port) (f : PortState → PortState) : (s.modPort p f).errorReplies = s.errorReplies := rfl
@[simp] theorem State.modPort_transientBins (p : Port) (f : PortState → PortState) : (s.modPort p f).transientBins = s.transientBins := rfl
@[simp] theorem State.modPort_freeze (p : Port) (f : PortState → PortState) : (s.modPort p f).freeze = s.freeze := rfl
@[simp] theorem State.modPort_tap (p : Port) (f : PortState → PortState) : (s.modPort p f).tap = s.tap := rfl
@[simp] theorem State.modPort_telemetry (p : Port) (f : PortState → PortState) : (s.modPort p f).telemetry = s.telemetry := rfl
@[simp] theorem State.modPort_out (p : Port) (f : PortState → PortState) : (s.modPort p f).out = s.out := rfl
@[simp] theorem State.modPort_freeCount (p : Port) (f : PortState → PortState) : (s.modPort p f).freeCount = s.freeCount := rfl
@[simp] theorem State.modPort_pending (p : Port) (f : PortState → PortState) : (s.modPort p f).pending = s.pending := rfl

/-! ### `notice` -/

@[simp] theorem State.notice_phase (b : Bytes) : (s.notice b).phase = s.phase := rfl
@[simp] theorem State.notice_stage (b : Bytes) : (s.notice b).stage = s.stage := rfl
@[simp] theorem State.notice_latchedCause (b : Bytes) : (s.notice b).latchedCause = s.latchedCause := rfl
@[simp] theorem State.notice_tripLatch (b : Bytes) : (s.notice b).tripLatch = s.tripLatch := rfl
@[simp] theorem State.notice_pins (b : Bytes) : (s.notice b).pins = s.pins := rfl
@[simp] theorem State.notice_bringup (b : Bytes) : (s.notice b).bringup = s.bringup := rfl
@[simp] theorem State.notice_moduleLost (b : Bytes) : (s.notice b).moduleLost = s.moduleLost := rfl
@[simp] theorem State.notice_planStuck (b : Bytes) : (s.notice b).planStuck = s.planStuck := rfl
@[simp] theorem State.notice_hostPllLost (b : Bytes) : (s.notice b).hostPllLost = s.hostPllLost := rfl
@[simp] theorem State.notice_standbyOff (b : Bytes) : (s.notice b).standbyOff = s.standbyOff := rfl
@[simp] theorem State.notice_nv (b : Bytes) : (s.notice b).nv = s.nv := rfl
@[simp] theorem State.notice_running (b : Bytes) : (s.notice b).running = s.running := rfl
@[simp] theorem State.notice_pinned (b : Bytes) : (s.notice b).pinned = s.pinned := rfl
@[simp] theorem State.notice_keyUnusable (b : Bytes) : (s.notice b).keyUnusable = s.keyUnusable := rfl
@[simp] theorem State.notice_bootChecks (b : Bytes) : (s.notice b).bootChecks = s.bootChecks := rfl
@[simp] theorem State.notice_od (b : Bytes) : (s.notice b).od = s.od := rfl
@[simp] theorem State.notice_blobs (b : Bytes) : (s.notice b).blobs = s.blobs := rfl
@[simp] theorem State.notice_staged (b : Bytes) : (s.notice b).staged = s.staged := rfl
@[simp] theorem State.notice_stageLock (b : Bytes) : (s.notice b).stageLock = s.stageLock := rfl
@[simp] theorem State.notice_log (b : Bytes) : (s.notice b).log = s.log := rfl
@[simp] theorem State.notice_auditLog (b : Bytes) : (s.notice b).auditLog = s.auditLog := rfl
@[simp] theorem State.notice_replayLog (b : Bytes) : (s.notice b).replayLog = s.replayLog := rfl
@[simp] theorem State.notice_uptime (b : Bytes) : (s.notice b).uptime = s.uptime := rfl
@[simp] theorem State.notice_gc (b : Bytes) : (s.notice b).gc = s.gc := rfl
@[simp] theorem State.notice_syncSeenAt (b : Bytes) : (s.notice b).syncSeenAt = s.syncSeenAt := rfl
@[simp] theorem State.notice_coreMap (b : Bytes) : (s.notice b).coreMap = s.coreMap := rfl
@[simp] theorem State.notice_spares (b : Bytes) : (s.notice b).spares = s.spares := rfl
@[simp] theorem State.notice_islands (b : Bytes) : (s.notice b).islands = s.islands := rfl
@[simp] theorem State.notice_lasers (b : Bytes) : (s.notice b).lasers = s.lasers := rfl
@[simp] theorem State.notice_mem (b : Bytes) : (s.notice b).mem = s.mem := rfl
@[simp] theorem State.notice_poison (b : Bytes) : (s.notice b).poison = s.poison := rfl
@[simp] theorem State.notice_caches (b : Bytes) : (s.notice b).caches = s.caches := rfl
@[simp] theorem State.notice_sheaves (b : Bytes) : (s.notice b).sheaves = s.sheaves := rfl
@[simp] theorem State.notice_rowErrors (b : Bytes) : (s.notice b).rowErrors = s.rowErrors := rfl
@[simp] theorem State.notice_faultyRows (b : Bytes) : (s.notice b).faultyRows = s.faultyRows := rfl
@[simp] theorem State.notice_badRows (b : Bytes) : (s.notice b).badRows = s.badRows := rfl
@[simp] theorem State.notice_thermal (b : Bytes) : (s.notice b).thermal = s.thermal := rfl
@[simp] theorem State.notice_temps (b : Bytes) : (s.notice b).temps = s.temps := rfl
@[simp] theorem State.notice_strobes (b : Bytes) : (s.notice b).strobes = s.strobes := rfl
@[simp] theorem State.notice_marginScan (b : Bytes) : (s.notice b).marginScan = s.marginScan := rfl
@[simp] theorem State.notice_laneSets (b : Bytes) : (s.notice b).laneSets = s.laneSets := rfl
@[simp] theorem State.notice_marginResult (b : Bytes) : (s.notice b).marginResult = s.marginResult := rfl
@[simp] theorem State.notice_slots (b : Bytes) : (s.notice b).slots = s.slots := rfl
@[simp] theorem State.notice_activeSlot (b : Bytes) : (s.notice b).activeSlot = s.activeSlot := rfl
@[simp] theorem State.notice_plan (b : Bytes) : (s.notice b).plan = s.plan := rfl
@[simp] theorem State.notice_step (b : Bytes) : (s.notice b).step = s.step := rfl
@[simp] theorem State.notice_counts (b : Bytes) : (s.notice b).counts = s.counts := rfl
@[simp] theorem State.notice_tileStatus (b : Bytes) : (s.notice b).tileStatus = s.tileStatus := rfl
@[simp] theorem State.notice_poolLow (b : Bytes) : (s.notice b).poolLow = s.poolLow := rfl
@[simp] theorem State.notice_poolWaited (b : Bytes) : (s.notice b).poolWaited = s.poolWaited := rfl
@[simp] theorem State.notice_cores (b : Bytes) : (s.notice b).cores = s.cores := rfl
@[simp] theorem State.notice_signals (b : Bytes) : (s.notice b).signals = s.signals := rfl
@[simp] theorem State.notice_lastStarted (b : Bytes) : (s.notice b).lastStarted = s.lastStarted := rfl
@[simp] theorem State.notice_chainHeld (b : Bytes) : (s.notice b).chainHeld = s.chainHeld := rfl
@[simp] theorem State.notice_standing (b : Bytes) : (s.notice b).standing = s.standing := rfl
@[simp] theorem State.notice_pauses (b : Bytes) : (s.notice b).pauses = s.pauses := rfl
@[simp] theorem State.notice_rotor (b : Bytes) : (s.notice b).rotor = s.rotor := rfl
@[simp] theorem State.notice_syncFlags (b : Bytes) : (s.notice b).syncFlags = s.syncFlags := rfl
@[simp] theorem State.notice_winGens (b : Bytes) : (s.notice b).winGens = s.winGens := rfl
@[simp] theorem State.notice_setDigests (b : Bytes) : (s.notice b).setDigests = s.setDigests := rfl
@[simp] theorem State.notice_rounds (b : Bytes) : (s.notice b).rounds = s.rounds := rfl
@[simp] theorem State.notice_agree (b : Bytes) : (s.notice b).agree = s.agree := rfl
@[simp] theorem State.notice_holds (b : Bytes) : (s.notice b).holds = s.holds := rfl
@[simp] theorem State.notice_holdsHeard (b : Bytes) : (s.notice b).holdsHeard = s.holdsHeard := rfl
@[simp] theorem State.notice_holdDue (b : Bytes) : (s.notice b).holdDue = s.holdDue := rfl
@[simp] theorem State.notice_sparing (b : Bytes) : (s.notice b).sparing = s.sparing := rfl
@[simp] theorem State.notice_sparesFailed (b : Bytes) : (s.notice b).sparesFailed = s.sparesFailed := rfl
@[simp] theorem State.notice_restore (b : Bytes) : (s.notice b).restore = s.restore := rfl
@[simp] theorem State.notice_wardDigests (b : Bytes) : (s.notice b).wardDigests = s.wardDigests := rfl
@[simp] theorem State.notice_ports (b : Bytes) : (s.notice b).ports = s.ports := rfl
@[simp] theorem State.notice_floodSeq (b : Bytes) : (s.notice b).floodSeq = s.floodSeq := rfl
@[simp] theorem State.notice_floodSeen (b : Bytes) : (s.notice b).floodSeen = s.floodSeen := rfl
@[simp] theorem State.notice_downLinks (b : Bytes) : (s.notice b).downLinks = s.downLinks := rfl
@[simp] theorem State.notice_lossAt (b : Bytes) : (s.notice b).lossAt = s.lossAt := rfl
@[simp] theorem State.notice_lossOrigins (b : Bytes) : (s.notice b).lossOrigins = s.lossOrigins := rfl
@[simp] theorem State.notice_lostNodes (b : Bytes) : (s.notice b).lostNodes = s.lostNodes := rfl
@[simp] theorem State.notice_activeSets (b : Bytes) : (s.notice b).activeSets = s.activeSets := rfl
@[simp] theorem State.notice_inbound (b : Bytes) : (s.notice b).inbound = s.inbound := rfl
@[simp] theorem State.notice_heldWrites (b : Bytes) : (s.notice b).heldWrites = s.heldWrites := rfl
@[simp] theorem State.notice_outbound (b : Bytes) : (s.notice b).outbound = s.outbound := rfl
@[simp] theorem State.notice_nextXid (b : Bytes) : (s.notice b).nextXid = s.nextXid := rfl
@[simp] theorem State.notice_epochCommitGc (b : Bytes) : (s.notice b).epochCommitGc = s.epochCommitGc := rfl
@[simp] theorem State.notice_coreFaults (b : Bytes) : (s.notice b).coreFaults = s.coreFaults := rfl
@[simp] theorem State.notice_collFaults (b : Bytes) : (s.notice b).collFaults = s.collFaults := rfl
@[simp] theorem State.notice_seFenced (b : Bytes) : (s.notice b).seFenced = s.seFenced := rfl
@[simp] theorem State.notice_fenceErrors (b : Bytes) : (s.notice b).fenceErrors = s.fenceErrors := rfl
@[simp] theorem State.notice_errorReplies (b : Bytes) : (s.notice b).errorReplies = s.errorReplies := rfl
@[simp] theorem State.notice_transientBins (b : Bytes) : (s.notice b).transientBins = s.transientBins := rfl
@[simp] theorem State.notice_freeze (b : Bytes) : (s.notice b).freeze = s.freeze := rfl
@[simp] theorem State.notice_tap (b : Bytes) : (s.notice b).tap = s.tap := rfl
@[simp] theorem State.notice_telemetry (b : Bytes) : (s.notice b).telemetry = s.telemetry := rfl
@[simp] theorem State.notice_freeCount (b : Bytes) : (s.notice b).freeCount = s.freeCount := rfl
@[simp] theorem State.notice_pending (b : Bytes) : (s.notice b).pending = s.pending := rfl

/-! ### `event` -/

/-- A choice has a frame that both its branches have. -/
theorem ite_frame {α : Type} {g : α → α} {c : Prop} [Decidable c] {a b : α} (ha : a = g a) (hb : b = g b) :
    (if c then a else b) = g (if c then a else b) := by
  split
  · exact ha
  · exact hb

/-- An event changes the log, a counter, and, where its class is notified, what was sent and the notice sequence. -/
theorem State.event_frame (code : BitVec 16) (i : Nat) (d : Bytes) :
    s.event code i d = { s with log := (s.event code i d).log, od := (s.event code i d).od,
                                mgmt := (s.event code i d).mgmt, out := (s.event code i d).out } := by
  exact ite_frame (g := fun (t : State) => { s with log := t.log, od := t.od, mgmt := t.mgmt, out := t.out }) rfl rfl

@[simp] theorem State.event_phase (c : BitVec 16) (i : Nat) (d : Bytes) : (s.event c i d).phase = s.phase := by rw [s.event_frame]
@[simp] theorem State.event_stage (c : BitVec 16) (i : Nat) (d : Bytes) : (s.event c i d).stage = s.stage := by rw [s.event_frame]
@[simp] theorem State.event_latchedCause (c : BitVec 16) (i : Nat) (d : Bytes) : (s.event c i d).latchedCause = s.latchedCause := by rw [s.event_frame]
@[simp] theorem State.event_tripLatch (c : BitVec 16) (i : Nat) (d : Bytes) : (s.event c i d).tripLatch = s.tripLatch := by rw [s.event_frame]
@[simp] theorem State.event_pins (c : BitVec 16) (i : Nat) (d : Bytes) : (s.event c i d).pins = s.pins := by rw [s.event_frame]
@[simp] theorem State.event_bringup (c : BitVec 16) (i : Nat) (d : Bytes) : (s.event c i d).bringup = s.bringup := by rw [s.event_frame]
@[simp] theorem State.event_moduleLost (c : BitVec 16) (i : Nat) (d : Bytes) : (s.event c i d).moduleLost = s.moduleLost := by rw [s.event_frame]
@[simp] theorem State.event_planStuck (c : BitVec 16) (i : Nat) (d : Bytes) : (s.event c i d).planStuck = s.planStuck := by rw [s.event_frame]
@[simp] theorem State.event_hostPllLost (c : BitVec 16) (i : Nat) (d : Bytes) : (s.event c i d).hostPllLost = s.hostPllLost := by rw [s.event_frame]
@[simp] theorem State.event_standbyOff (c : BitVec 16) (i : Nat) (d : Bytes) : (s.event c i d).standbyOff = s.standbyOff := by rw [s.event_frame]
@[simp] theorem State.event_nv (c : BitVec 16) (i : Nat) (d : Bytes) : (s.event c i d).nv = s.nv := by rw [s.event_frame]
@[simp] theorem State.event_running (c : BitVec 16) (i : Nat) (d : Bytes) : (s.event c i d).running = s.running := by rw [s.event_frame]
@[simp] theorem State.event_pinned (c : BitVec 16) (i : Nat) (d : Bytes) : (s.event c i d).pinned = s.pinned := by rw [s.event_frame]
@[simp] theorem State.event_keyUnusable (c : BitVec 16) (i : Nat) (d : Bytes) : (s.event c i d).keyUnusable = s.keyUnusable := by rw [s.event_frame]
@[simp] theorem State.event_bootChecks (c : BitVec 16) (i : Nat) (d : Bytes) : (s.event c i d).bootChecks = s.bootChecks := by rw [s.event_frame]
@[simp] theorem State.event_blobs (c : BitVec 16) (i : Nat) (d : Bytes) : (s.event c i d).blobs = s.blobs := by rw [s.event_frame]
@[simp] theorem State.event_staged (c : BitVec 16) (i : Nat) (d : Bytes) : (s.event c i d).staged = s.staged := by rw [s.event_frame]
@[simp] theorem State.event_stageLock (c : BitVec 16) (i : Nat) (d : Bytes) : (s.event c i d).stageLock = s.stageLock := by rw [s.event_frame]
@[simp] theorem State.event_auditLog (c : BitVec 16) (i : Nat) (d : Bytes) : (s.event c i d).auditLog = s.auditLog := by rw [s.event_frame]
@[simp] theorem State.event_replayLog (c : BitVec 16) (i : Nat) (d : Bytes) : (s.event c i d).replayLog = s.replayLog := by rw [s.event_frame]
@[simp] theorem State.event_uptime (c : BitVec 16) (i : Nat) (d : Bytes) : (s.event c i d).uptime = s.uptime := by rw [s.event_frame]
@[simp] theorem State.event_gc (c : BitVec 16) (i : Nat) (d : Bytes) : (s.event c i d).gc = s.gc := by rw [s.event_frame]
@[simp] theorem State.event_syncSeenAt (c : BitVec 16) (i : Nat) (d : Bytes) : (s.event c i d).syncSeenAt = s.syncSeenAt := by rw [s.event_frame]
@[simp] theorem State.event_coreMap (c : BitVec 16) (i : Nat) (d : Bytes) : (s.event c i d).coreMap = s.coreMap := by rw [s.event_frame]
@[simp] theorem State.event_spares (c : BitVec 16) (i : Nat) (d : Bytes) : (s.event c i d).spares = s.spares := by rw [s.event_frame]
@[simp] theorem State.event_islands (c : BitVec 16) (i : Nat) (d : Bytes) : (s.event c i d).islands = s.islands := by rw [s.event_frame]
@[simp] theorem State.event_lasers (c : BitVec 16) (i : Nat) (d : Bytes) : (s.event c i d).lasers = s.lasers := by rw [s.event_frame]
@[simp] theorem State.event_mem (c : BitVec 16) (i : Nat) (d : Bytes) : (s.event c i d).mem = s.mem := by rw [s.event_frame]
@[simp] theorem State.event_poison (c : BitVec 16) (i : Nat) (d : Bytes) : (s.event c i d).poison = s.poison := by rw [s.event_frame]
@[simp] theorem State.event_caches (c : BitVec 16) (i : Nat) (d : Bytes) : (s.event c i d).caches = s.caches := by rw [s.event_frame]
@[simp] theorem State.event_sheaves (c : BitVec 16) (i : Nat) (d : Bytes) : (s.event c i d).sheaves = s.sheaves := by rw [s.event_frame]
@[simp] theorem State.event_rowErrors (c : BitVec 16) (i : Nat) (d : Bytes) : (s.event c i d).rowErrors = s.rowErrors := by rw [s.event_frame]
@[simp] theorem State.event_faultyRows (c : BitVec 16) (i : Nat) (d : Bytes) : (s.event c i d).faultyRows = s.faultyRows := by rw [s.event_frame]
@[simp] theorem State.event_badRows (c : BitVec 16) (i : Nat) (d : Bytes) : (s.event c i d).badRows = s.badRows := by rw [s.event_frame]
@[simp] theorem State.event_thermal (c : BitVec 16) (i : Nat) (d : Bytes) : (s.event c i d).thermal = s.thermal := by rw [s.event_frame]
@[simp] theorem State.event_temps (c : BitVec 16) (i : Nat) (d : Bytes) : (s.event c i d).temps = s.temps := by rw [s.event_frame]
@[simp] theorem State.event_strobes (c : BitVec 16) (i : Nat) (d : Bytes) : (s.event c i d).strobes = s.strobes := by rw [s.event_frame]
@[simp] theorem State.event_marginScan (c : BitVec 16) (i : Nat) (d : Bytes) : (s.event c i d).marginScan = s.marginScan := by rw [s.event_frame]
@[simp] theorem State.event_laneSets (c : BitVec 16) (i : Nat) (d : Bytes) : (s.event c i d).laneSets = s.laneSets := by rw [s.event_frame]
@[simp] theorem State.event_marginResult (c : BitVec 16) (i : Nat) (d : Bytes) : (s.event c i d).marginResult = s.marginResult := by rw [s.event_frame]
@[simp] theorem State.event_slots (c : BitVec 16) (i : Nat) (d : Bytes) : (s.event c i d).slots = s.slots := by rw [s.event_frame]
@[simp] theorem State.event_activeSlot (c : BitVec 16) (i : Nat) (d : Bytes) : (s.event c i d).activeSlot = s.activeSlot := by rw [s.event_frame]
@[simp] theorem State.event_plan (c : BitVec 16) (i : Nat) (d : Bytes) : (s.event c i d).plan = s.plan := by rw [s.event_frame]
@[simp] theorem State.event_step (c : BitVec 16) (i : Nat) (d : Bytes) : (s.event c i d).step = s.step := by rw [s.event_frame]
@[simp] theorem State.event_counts (c : BitVec 16) (i : Nat) (d : Bytes) : (s.event c i d).counts = s.counts := by rw [s.event_frame]
@[simp] theorem State.event_tileStatus (c : BitVec 16) (i : Nat) (d : Bytes) : (s.event c i d).tileStatus = s.tileStatus := by rw [s.event_frame]
@[simp] theorem State.event_poolLow (c : BitVec 16) (i : Nat) (d : Bytes) : (s.event c i d).poolLow = s.poolLow := by rw [s.event_frame]
@[simp] theorem State.event_poolWaited (c : BitVec 16) (i : Nat) (d : Bytes) : (s.event c i d).poolWaited = s.poolWaited := by rw [s.event_frame]
@[simp] theorem State.event_cores (c : BitVec 16) (i : Nat) (d : Bytes) : (s.event c i d).cores = s.cores := by rw [s.event_frame]
@[simp] theorem State.event_signals (c : BitVec 16) (i : Nat) (d : Bytes) : (s.event c i d).signals = s.signals := by rw [s.event_frame]
@[simp] theorem State.event_lastStarted (c : BitVec 16) (i : Nat) (d : Bytes) : (s.event c i d).lastStarted = s.lastStarted := by rw [s.event_frame]
@[simp] theorem State.event_chainHeld (c : BitVec 16) (i : Nat) (d : Bytes) : (s.event c i d).chainHeld = s.chainHeld := by rw [s.event_frame]
@[simp] theorem State.event_standing (c : BitVec 16) (i : Nat) (d : Bytes) : (s.event c i d).standing = s.standing := by rw [s.event_frame]
@[simp] theorem State.event_pauses (c : BitVec 16) (i : Nat) (d : Bytes) : (s.event c i d).pauses = s.pauses := by rw [s.event_frame]
@[simp] theorem State.event_rotor (c : BitVec 16) (i : Nat) (d : Bytes) : (s.event c i d).rotor = s.rotor := by rw [s.event_frame]
@[simp] theorem State.event_syncFlags (c : BitVec 16) (i : Nat) (d : Bytes) : (s.event c i d).syncFlags = s.syncFlags := by rw [s.event_frame]
@[simp] theorem State.event_winGens (c : BitVec 16) (i : Nat) (d : Bytes) : (s.event c i d).winGens = s.winGens := by rw [s.event_frame]
@[simp] theorem State.event_setDigests (c : BitVec 16) (i : Nat) (d : Bytes) : (s.event c i d).setDigests = s.setDigests := by rw [s.event_frame]
@[simp] theorem State.event_rounds (c : BitVec 16) (i : Nat) (d : Bytes) : (s.event c i d).rounds = s.rounds := by rw [s.event_frame]
@[simp] theorem State.event_agree (c : BitVec 16) (i : Nat) (d : Bytes) : (s.event c i d).agree = s.agree := by rw [s.event_frame]
@[simp] theorem State.event_holds (c : BitVec 16) (i : Nat) (d : Bytes) : (s.event c i d).holds = s.holds := by rw [s.event_frame]
@[simp] theorem State.event_holdsHeard (c : BitVec 16) (i : Nat) (d : Bytes) : (s.event c i d).holdsHeard = s.holdsHeard := by rw [s.event_frame]
@[simp] theorem State.event_holdDue (c : BitVec 16) (i : Nat) (d : Bytes) : (s.event c i d).holdDue = s.holdDue := by rw [s.event_frame]
@[simp] theorem State.event_sparing (c : BitVec 16) (i : Nat) (d : Bytes) : (s.event c i d).sparing = s.sparing := by rw [s.event_frame]
@[simp] theorem State.event_sparesFailed (c : BitVec 16) (i : Nat) (d : Bytes) : (s.event c i d).sparesFailed = s.sparesFailed := by rw [s.event_frame]
@[simp] theorem State.event_restore (c : BitVec 16) (i : Nat) (d : Bytes) : (s.event c i d).restore = s.restore := by rw [s.event_frame]
@[simp] theorem State.event_wardDigests (c : BitVec 16) (i : Nat) (d : Bytes) : (s.event c i d).wardDigests = s.wardDigests := by rw [s.event_frame]
@[simp] theorem State.event_ports (c : BitVec 16) (i : Nat) (d : Bytes) : (s.event c i d).ports = s.ports := by rw [s.event_frame]
@[simp] theorem State.event_floodSeq (c : BitVec 16) (i : Nat) (d : Bytes) : (s.event c i d).floodSeq = s.floodSeq := by rw [s.event_frame]
@[simp] theorem State.event_floodSeen (c : BitVec 16) (i : Nat) (d : Bytes) : (s.event c i d).floodSeen = s.floodSeen := by rw [s.event_frame]
@[simp] theorem State.event_downLinks (c : BitVec 16) (i : Nat) (d : Bytes) : (s.event c i d).downLinks = s.downLinks := by rw [s.event_frame]
@[simp] theorem State.event_lossAt (c : BitVec 16) (i : Nat) (d : Bytes) : (s.event c i d).lossAt = s.lossAt := by rw [s.event_frame]
@[simp] theorem State.event_lossOrigins (c : BitVec 16) (i : Nat) (d : Bytes) : (s.event c i d).lossOrigins = s.lossOrigins := by rw [s.event_frame]
@[simp] theorem State.event_lostNodes (c : BitVec 16) (i : Nat) (d : Bytes) : (s.event c i d).lostNodes = s.lostNodes := by rw [s.event_frame]
@[simp] theorem State.event_activeSets (c : BitVec 16) (i : Nat) (d : Bytes) : (s.event c i d).activeSets = s.activeSets := by rw [s.event_frame]
@[simp] theorem State.event_inbound (c : BitVec 16) (i : Nat) (d : Bytes) : (s.event c i d).inbound = s.inbound := by rw [s.event_frame]
@[simp] theorem State.event_heldWrites (c : BitVec 16) (i : Nat) (d : Bytes) : (s.event c i d).heldWrites = s.heldWrites := by rw [s.event_frame]
@[simp] theorem State.event_outbound (c : BitVec 16) (i : Nat) (d : Bytes) : (s.event c i d).outbound = s.outbound := by rw [s.event_frame]
@[simp] theorem State.event_nextXid (c : BitVec 16) (i : Nat) (d : Bytes) : (s.event c i d).nextXid = s.nextXid := by rw [s.event_frame]
@[simp] theorem State.event_epochCommitGc (c : BitVec 16) (i : Nat) (d : Bytes) : (s.event c i d).epochCommitGc = s.epochCommitGc := by rw [s.event_frame]
@[simp] theorem State.event_coreFaults (c : BitVec 16) (i : Nat) (d : Bytes) : (s.event c i d).coreFaults = s.coreFaults := by rw [s.event_frame]
@[simp] theorem State.event_collFaults (c : BitVec 16) (i : Nat) (d : Bytes) : (s.event c i d).collFaults = s.collFaults := by rw [s.event_frame]
@[simp] theorem State.event_seFenced (c : BitVec 16) (i : Nat) (d : Bytes) : (s.event c i d).seFenced = s.seFenced := by rw [s.event_frame]
@[simp] theorem State.event_fenceErrors (c : BitVec 16) (i : Nat) (d : Bytes) : (s.event c i d).fenceErrors = s.fenceErrors := by rw [s.event_frame]
@[simp] theorem State.event_errorReplies (c : BitVec 16) (i : Nat) (d : Bytes) : (s.event c i d).errorReplies = s.errorReplies := by rw [s.event_frame]
@[simp] theorem State.event_transientBins (c : BitVec 16) (i : Nat) (d : Bytes) : (s.event c i d).transientBins = s.transientBins := by rw [s.event_frame]
@[simp] theorem State.event_freeze (c : BitVec 16) (i : Nat) (d : Bytes) : (s.event c i d).freeze = s.freeze := by rw [s.event_frame]
@[simp] theorem State.event_tap (c : BitVec 16) (i : Nat) (d : Bytes) : (s.event c i d).tap = s.tap := by rw [s.event_frame]
@[simp] theorem State.event_telemetry (c : BitVec 16) (i : Nat) (d : Bytes) : (s.event c i d).telemetry = s.telemetry := by rw [s.event_frame]
@[simp] theorem State.event_freeCount (c : BitVec 16) (i : Nat) (d : Bytes) : (s.event c i d).freeCount = s.freeCount := by rw [s.event_frame]
@[simp] theorem State.event_pending (c : BitVec 16) (i : Nat) (d : Bytes) : (s.event c i d).pending = s.pending := by rw [s.event_frame]

@[simp] theorem State.mgmtEvent_phase (c : BitVec 16) (d : Bytes) : (s.mgmtEvent c d).phase = s.phase := s.event_phase c _ d
@[simp] theorem State.mgmtEvent_stage (c : BitVec 16) (d : Bytes) : (s.mgmtEvent c d).stage = s.stage := s.event_stage c _ d
@[simp] theorem State.mgmtEvent_latchedCause (c : BitVec 16) (d : Bytes) : (s.mgmtEvent c d).latchedCause = s.latchedCause := s.event_latchedCause c _ d
@[simp] theorem State.mgmtEvent_tripLatch (c : BitVec 16) (d : Bytes) : (s.mgmtEvent c d).tripLatch = s.tripLatch := s.event_tripLatch c _ d
@[simp] theorem State.mgmtEvent_pins (c : BitVec 16) (d : Bytes) : (s.mgmtEvent c d).pins = s.pins := s.event_pins c _ d
@[simp] theorem State.mgmtEvent_bringup (c : BitVec 16) (d : Bytes) : (s.mgmtEvent c d).bringup = s.bringup := s.event_bringup c _ d
@[simp] theorem State.mgmtEvent_moduleLost (c : BitVec 16) (d : Bytes) : (s.mgmtEvent c d).moduleLost = s.moduleLost := s.event_moduleLost c _ d
@[simp] theorem State.mgmtEvent_planStuck (c : BitVec 16) (d : Bytes) : (s.mgmtEvent c d).planStuck = s.planStuck := s.event_planStuck c _ d
@[simp] theorem State.mgmtEvent_hostPllLost (c : BitVec 16) (d : Bytes) : (s.mgmtEvent c d).hostPllLost = s.hostPllLost := s.event_hostPllLost c _ d
@[simp] theorem State.mgmtEvent_standbyOff (c : BitVec 16) (d : Bytes) : (s.mgmtEvent c d).standbyOff = s.standbyOff := s.event_standbyOff c _ d
@[simp] theorem State.mgmtEvent_nv (c : BitVec 16) (d : Bytes) : (s.mgmtEvent c d).nv = s.nv := s.event_nv c _ d
@[simp] theorem State.mgmtEvent_running (c : BitVec 16) (d : Bytes) : (s.mgmtEvent c d).running = s.running := s.event_running c _ d
@[simp] theorem State.mgmtEvent_pinned (c : BitVec 16) (d : Bytes) : (s.mgmtEvent c d).pinned = s.pinned := s.event_pinned c _ d
@[simp] theorem State.mgmtEvent_keyUnusable (c : BitVec 16) (d : Bytes) : (s.mgmtEvent c d).keyUnusable = s.keyUnusable := s.event_keyUnusable c _ d
@[simp] theorem State.mgmtEvent_bootChecks (c : BitVec 16) (d : Bytes) : (s.mgmtEvent c d).bootChecks = s.bootChecks := s.event_bootChecks c _ d
@[simp] theorem State.mgmtEvent_blobs (c : BitVec 16) (d : Bytes) : (s.mgmtEvent c d).blobs = s.blobs := s.event_blobs c _ d
@[simp] theorem State.mgmtEvent_staged (c : BitVec 16) (d : Bytes) : (s.mgmtEvent c d).staged = s.staged := s.event_staged c _ d
@[simp] theorem State.mgmtEvent_stageLock (c : BitVec 16) (d : Bytes) : (s.mgmtEvent c d).stageLock = s.stageLock := s.event_stageLock c _ d
@[simp] theorem State.mgmtEvent_auditLog (c : BitVec 16) (d : Bytes) : (s.mgmtEvent c d).auditLog = s.auditLog := s.event_auditLog c _ d
@[simp] theorem State.mgmtEvent_replayLog (c : BitVec 16) (d : Bytes) : (s.mgmtEvent c d).replayLog = s.replayLog := s.event_replayLog c _ d
@[simp] theorem State.mgmtEvent_uptime (c : BitVec 16) (d : Bytes) : (s.mgmtEvent c d).uptime = s.uptime := s.event_uptime c _ d
@[simp] theorem State.mgmtEvent_gc (c : BitVec 16) (d : Bytes) : (s.mgmtEvent c d).gc = s.gc := s.event_gc c _ d
@[simp] theorem State.mgmtEvent_syncSeenAt (c : BitVec 16) (d : Bytes) : (s.mgmtEvent c d).syncSeenAt = s.syncSeenAt := s.event_syncSeenAt c _ d
@[simp] theorem State.mgmtEvent_coreMap (c : BitVec 16) (d : Bytes) : (s.mgmtEvent c d).coreMap = s.coreMap := s.event_coreMap c _ d
@[simp] theorem State.mgmtEvent_spares (c : BitVec 16) (d : Bytes) : (s.mgmtEvent c d).spares = s.spares := s.event_spares c _ d
@[simp] theorem State.mgmtEvent_islands (c : BitVec 16) (d : Bytes) : (s.mgmtEvent c d).islands = s.islands := s.event_islands c _ d
@[simp] theorem State.mgmtEvent_lasers (c : BitVec 16) (d : Bytes) : (s.mgmtEvent c d).lasers = s.lasers := s.event_lasers c _ d
@[simp] theorem State.mgmtEvent_mem (c : BitVec 16) (d : Bytes) : (s.mgmtEvent c d).mem = s.mem := s.event_mem c _ d
@[simp] theorem State.mgmtEvent_poison (c : BitVec 16) (d : Bytes) : (s.mgmtEvent c d).poison = s.poison := s.event_poison c _ d
@[simp] theorem State.mgmtEvent_caches (c : BitVec 16) (d : Bytes) : (s.mgmtEvent c d).caches = s.caches := s.event_caches c _ d
@[simp] theorem State.mgmtEvent_sheaves (c : BitVec 16) (d : Bytes) : (s.mgmtEvent c d).sheaves = s.sheaves := s.event_sheaves c _ d
@[simp] theorem State.mgmtEvent_rowErrors (c : BitVec 16) (d : Bytes) : (s.mgmtEvent c d).rowErrors = s.rowErrors := s.event_rowErrors c _ d
@[simp] theorem State.mgmtEvent_faultyRows (c : BitVec 16) (d : Bytes) : (s.mgmtEvent c d).faultyRows = s.faultyRows := s.event_faultyRows c _ d
@[simp] theorem State.mgmtEvent_badRows (c : BitVec 16) (d : Bytes) : (s.mgmtEvent c d).badRows = s.badRows := s.event_badRows c _ d
@[simp] theorem State.mgmtEvent_thermal (c : BitVec 16) (d : Bytes) : (s.mgmtEvent c d).thermal = s.thermal := s.event_thermal c _ d
@[simp] theorem State.mgmtEvent_temps (c : BitVec 16) (d : Bytes) : (s.mgmtEvent c d).temps = s.temps := s.event_temps c _ d
@[simp] theorem State.mgmtEvent_strobes (c : BitVec 16) (d : Bytes) : (s.mgmtEvent c d).strobes = s.strobes := s.event_strobes c _ d
@[simp] theorem State.mgmtEvent_marginScan (c : BitVec 16) (d : Bytes) : (s.mgmtEvent c d).marginScan = s.marginScan := s.event_marginScan c _ d
@[simp] theorem State.mgmtEvent_laneSets (c : BitVec 16) (d : Bytes) : (s.mgmtEvent c d).laneSets = s.laneSets := s.event_laneSets c _ d
@[simp] theorem State.mgmtEvent_marginResult (c : BitVec 16) (d : Bytes) : (s.mgmtEvent c d).marginResult = s.marginResult := s.event_marginResult c _ d
@[simp] theorem State.mgmtEvent_slots (c : BitVec 16) (d : Bytes) : (s.mgmtEvent c d).slots = s.slots := s.event_slots c _ d
@[simp] theorem State.mgmtEvent_activeSlot (c : BitVec 16) (d : Bytes) : (s.mgmtEvent c d).activeSlot = s.activeSlot := s.event_activeSlot c _ d
@[simp] theorem State.mgmtEvent_plan (c : BitVec 16) (d : Bytes) : (s.mgmtEvent c d).plan = s.plan := s.event_plan c _ d
@[simp] theorem State.mgmtEvent_step (c : BitVec 16) (d : Bytes) : (s.mgmtEvent c d).step = s.step := s.event_step c _ d
@[simp] theorem State.mgmtEvent_counts (c : BitVec 16) (d : Bytes) : (s.mgmtEvent c d).counts = s.counts := s.event_counts c _ d
@[simp] theorem State.mgmtEvent_tileStatus (c : BitVec 16) (d : Bytes) : (s.mgmtEvent c d).tileStatus = s.tileStatus := s.event_tileStatus c _ d
@[simp] theorem State.mgmtEvent_poolLow (c : BitVec 16) (d : Bytes) : (s.mgmtEvent c d).poolLow = s.poolLow := s.event_poolLow c _ d
@[simp] theorem State.mgmtEvent_poolWaited (c : BitVec 16) (d : Bytes) : (s.mgmtEvent c d).poolWaited = s.poolWaited := s.event_poolWaited c _ d
@[simp] theorem State.mgmtEvent_cores (c : BitVec 16) (d : Bytes) : (s.mgmtEvent c d).cores = s.cores := s.event_cores c _ d
@[simp] theorem State.mgmtEvent_signals (c : BitVec 16) (d : Bytes) : (s.mgmtEvent c d).signals = s.signals := s.event_signals c _ d
@[simp] theorem State.mgmtEvent_lastStarted (c : BitVec 16) (d : Bytes) : (s.mgmtEvent c d).lastStarted = s.lastStarted := s.event_lastStarted c _ d
@[simp] theorem State.mgmtEvent_chainHeld (c : BitVec 16) (d : Bytes) : (s.mgmtEvent c d).chainHeld = s.chainHeld := s.event_chainHeld c _ d
@[simp] theorem State.mgmtEvent_standing (c : BitVec 16) (d : Bytes) : (s.mgmtEvent c d).standing = s.standing := s.event_standing c _ d
@[simp] theorem State.mgmtEvent_pauses (c : BitVec 16) (d : Bytes) : (s.mgmtEvent c d).pauses = s.pauses := s.event_pauses c _ d
@[simp] theorem State.mgmtEvent_rotor (c : BitVec 16) (d : Bytes) : (s.mgmtEvent c d).rotor = s.rotor := s.event_rotor c _ d
@[simp] theorem State.mgmtEvent_syncFlags (c : BitVec 16) (d : Bytes) : (s.mgmtEvent c d).syncFlags = s.syncFlags := s.event_syncFlags c _ d
@[simp] theorem State.mgmtEvent_winGens (c : BitVec 16) (d : Bytes) : (s.mgmtEvent c d).winGens = s.winGens := s.event_winGens c _ d
@[simp] theorem State.mgmtEvent_setDigests (c : BitVec 16) (d : Bytes) : (s.mgmtEvent c d).setDigests = s.setDigests := s.event_setDigests c _ d
@[simp] theorem State.mgmtEvent_rounds (c : BitVec 16) (d : Bytes) : (s.mgmtEvent c d).rounds = s.rounds := s.event_rounds c _ d
@[simp] theorem State.mgmtEvent_agree (c : BitVec 16) (d : Bytes) : (s.mgmtEvent c d).agree = s.agree := s.event_agree c _ d
@[simp] theorem State.mgmtEvent_holds (c : BitVec 16) (d : Bytes) : (s.mgmtEvent c d).holds = s.holds := s.event_holds c _ d
@[simp] theorem State.mgmtEvent_holdsHeard (c : BitVec 16) (d : Bytes) : (s.mgmtEvent c d).holdsHeard = s.holdsHeard := s.event_holdsHeard c _ d
@[simp] theorem State.mgmtEvent_holdDue (c : BitVec 16) (d : Bytes) : (s.mgmtEvent c d).holdDue = s.holdDue := s.event_holdDue c _ d
@[simp] theorem State.mgmtEvent_sparing (c : BitVec 16) (d : Bytes) : (s.mgmtEvent c d).sparing = s.sparing := s.event_sparing c _ d
@[simp] theorem State.mgmtEvent_sparesFailed (c : BitVec 16) (d : Bytes) : (s.mgmtEvent c d).sparesFailed = s.sparesFailed := s.event_sparesFailed c _ d
@[simp] theorem State.mgmtEvent_restore (c : BitVec 16) (d : Bytes) : (s.mgmtEvent c d).restore = s.restore := s.event_restore c _ d
@[simp] theorem State.mgmtEvent_wardDigests (c : BitVec 16) (d : Bytes) : (s.mgmtEvent c d).wardDigests = s.wardDigests := s.event_wardDigests c _ d
@[simp] theorem State.mgmtEvent_ports (c : BitVec 16) (d : Bytes) : (s.mgmtEvent c d).ports = s.ports := s.event_ports c _ d
@[simp] theorem State.mgmtEvent_floodSeq (c : BitVec 16) (d : Bytes) : (s.mgmtEvent c d).floodSeq = s.floodSeq := s.event_floodSeq c _ d
@[simp] theorem State.mgmtEvent_floodSeen (c : BitVec 16) (d : Bytes) : (s.mgmtEvent c d).floodSeen = s.floodSeen := s.event_floodSeen c _ d
@[simp] theorem State.mgmtEvent_downLinks (c : BitVec 16) (d : Bytes) : (s.mgmtEvent c d).downLinks = s.downLinks := s.event_downLinks c _ d
@[simp] theorem State.mgmtEvent_lossAt (c : BitVec 16) (d : Bytes) : (s.mgmtEvent c d).lossAt = s.lossAt := s.event_lossAt c _ d
@[simp] theorem State.mgmtEvent_lossOrigins (c : BitVec 16) (d : Bytes) : (s.mgmtEvent c d).lossOrigins = s.lossOrigins := s.event_lossOrigins c _ d
@[simp] theorem State.mgmtEvent_lostNodes (c : BitVec 16) (d : Bytes) : (s.mgmtEvent c d).lostNodes = s.lostNodes := s.event_lostNodes c _ d
@[simp] theorem State.mgmtEvent_activeSets (c : BitVec 16) (d : Bytes) : (s.mgmtEvent c d).activeSets = s.activeSets := s.event_activeSets c _ d
@[simp] theorem State.mgmtEvent_inbound (c : BitVec 16) (d : Bytes) : (s.mgmtEvent c d).inbound = s.inbound := s.event_inbound c _ d
@[simp] theorem State.mgmtEvent_heldWrites (c : BitVec 16) (d : Bytes) : (s.mgmtEvent c d).heldWrites = s.heldWrites := s.event_heldWrites c _ d
@[simp] theorem State.mgmtEvent_outbound (c : BitVec 16) (d : Bytes) : (s.mgmtEvent c d).outbound = s.outbound := s.event_outbound c _ d
@[simp] theorem State.mgmtEvent_nextXid (c : BitVec 16) (d : Bytes) : (s.mgmtEvent c d).nextXid = s.nextXid := s.event_nextXid c _ d
@[simp] theorem State.mgmtEvent_epochCommitGc (c : BitVec 16) (d : Bytes) : (s.mgmtEvent c d).epochCommitGc = s.epochCommitGc := s.event_epochCommitGc c _ d
@[simp] theorem State.mgmtEvent_coreFaults (c : BitVec 16) (d : Bytes) : (s.mgmtEvent c d).coreFaults = s.coreFaults := s.event_coreFaults c _ d
@[simp] theorem State.mgmtEvent_collFaults (c : BitVec 16) (d : Bytes) : (s.mgmtEvent c d).collFaults = s.collFaults := s.event_collFaults c _ d
@[simp] theorem State.mgmtEvent_seFenced (c : BitVec 16) (d : Bytes) : (s.mgmtEvent c d).seFenced = s.seFenced := s.event_seFenced c _ d
@[simp] theorem State.mgmtEvent_fenceErrors (c : BitVec 16) (d : Bytes) : (s.mgmtEvent c d).fenceErrors = s.fenceErrors := s.event_fenceErrors c _ d
@[simp] theorem State.mgmtEvent_errorReplies (c : BitVec 16) (d : Bytes) : (s.mgmtEvent c d).errorReplies = s.errorReplies := s.event_errorReplies c _ d
@[simp] theorem State.mgmtEvent_transientBins (c : BitVec 16) (d : Bytes) : (s.mgmtEvent c d).transientBins = s.transientBins := s.event_transientBins c _ d
@[simp] theorem State.mgmtEvent_freeze (c : BitVec 16) (d : Bytes) : (s.mgmtEvent c d).freeze = s.freeze := s.event_freeze c _ d
@[simp] theorem State.mgmtEvent_tap (c : BitVec 16) (d : Bytes) : (s.mgmtEvent c d).tap = s.tap := s.event_tap c _ d
@[simp] theorem State.mgmtEvent_telemetry (c : BitVec 16) (d : Bytes) : (s.mgmtEvent c d).telemetry = s.telemetry := s.event_telemetry c _ d
@[simp] theorem State.mgmtEvent_freeCount (c : BitVec 16) (d : Bytes) : (s.mgmtEvent c d).freeCount = s.freeCount := s.event_freeCount c _ d
@[simp] theorem State.mgmtEvent_pending (c : BitVec 16) (d : Bytes) : (s.mgmtEvent c d).pending = s.pending := s.event_pending c _ d

end Sys2Proof.Machine
end

