-- ==== Sys2Proof/Laws/Log.lean ====
section
/-! SUPPORT. What a write of a dictionary scalar reads back as, and what an event leaves in the log. -/

namespace Sys2Proof.Machine

variable {s : State}

/-- A scalar set reads as set, and every other as before. -/
theorem State.obj_setObj (w : Assoc.wf objDefault s.od = true) (i j v i' j' : Nat) :
    (s.setObj i j v).obj i' j' = if objKey i' j' = objKey i j then v else s.obj i' j' := by
  unfold State.obj State.setObj
  rw [Assoc.read_write _ _ _ w]

theorem State.setObj_wf (w : Assoc.wf objDefault s.od = true) (i j v : Nat) :
    Assoc.wf objDefault (s.setObj i j v).od = true := Assoc.wf_write _ _ w

/-- Keys of entries with subindexes below 256 differ where the entries do. -/
theorem objKey_inj {i j i' j' : Nat} (h : j < 256) (h' : j' < 256) : objKey i j = objKey i' j' ↔ i = i' ∧ j = j' := by
  unfold objKey
  omega

/-- A counter adds up to its type's largest value. -/
theorem State.obj_addObj (w : Assoc.wf objDefault s.od = true) (i j n : Nat) :
    (s.addObj i j n).obj i j = min (((objFind i j).map (fun o => o.ty.maxValue)).getD 0) (s.obj i j + n) := by
  unfold State.addObj
  rw [State.obj_setObj w]
  cases objFind i j <;> simp

theorem State.obj_addObj_other (w : Assoc.wf objDefault s.od = true) {i j i' j' n : Nat}
    (h : objKey i' j' ≠ objKey i j) : (s.addObj i j n).obj i' j' = s.obj i' j' := by
  unfold State.addObj
  rw [State.obj_setObj w]
  simp [h]

theorem State.addObj_wf (w : Assoc.wf objDefault s.od = true) (i j n : Nat) :
    Assoc.wf objDefault (s.addObj i j n).od = true := State.setObj_wf w _ _ _

/-- The newest record stands in the log. -/
theorem EventLog.mem_push (l : EventLog) (e : EventRec) : e ∈ (l.push e).recs := by
  unfold EventLog.push
  dsimp only []
  split
  · rename_i h
    rw [List.length_append, List.length_singleton] at h
    rw [List.drop_append_of_le_length (by omega)]
    simp
  · simp

/-- A record that is not the oldest of a full log stands after the next. -/
theorem EventLog.mem_push_of {l : EventLog} {e x : EventRec} (h : x ∈ l.recs.drop 1) : x ∈ (l.push e).recs := by
  unfold EventLog.push
  dsimp only []
  split
  · rw [List.drop_append]
    exact List.mem_append_left _ h
  · exact List.mem_append_left _ (List.mem_of_mem_drop h)

/-- A record stays in the log while fewer than 65,536 follow it (R489). -/
theorem EventLog.mem_foldl_push (l : EventLog) (e : EventRec) (es : List EventRec) (h : es.length < 65536) :
    e ∈ (es.foldl EventLog.push (l.push e)).recs := by
  have k : ∀ (es done : List EventRec) (m : EventLog), (∃ pre, m.recs = pre ++ e :: done) →
      done.length + es.length < 65536 → e ∈ (es.foldl EventLog.push m).recs := by
    intro es
    induction es with
    | nil =>
      rintro done m ⟨pre, hm⟩ _
      simp [hm]
    | cons x es ih =>
      rintro done m ⟨pre, hm⟩ hl
      refine ih (done ++ [x]) (m.push x) ?_ (by simp at hl ⊢; omega)
      unfold EventLog.push
      dsimp only []
      split
      · rename_i hg
        cases pre with
        | nil => simp [hm] at hg hl; omega
        | cons y pre => exact ⟨pre, by simp [hm]⟩
      · exact ⟨pre, by simp [hm]⟩
  refine k es [] (l.push e) ?_ (by simpa using h)
  unfold EventLog.push
  dsimp only []
  split
  · rename_i hg
    cases hl : l.recs with
    | nil => simp [hl] at hg
    | cons y t => exact ⟨t, by simp⟩
  · exact ⟨l.recs, rfl⟩

theorem EventLog.push_nextSeq (l : EventLog) (e : EventRec) : (l.push e).nextSeq = (l.nextSeq + 1) % 2 ^ 32 := rfl

@[simp] theorem State.notice_log' (b : Bytes) : (s.notice b).log = s.log := rfl
@[simp] theorem State.notice_od' (b : Bytes) : (s.notice b).od = s.od := rfl

/-- An event pushes its record. -/
theorem State.event_log (c : BitVec 16) (i : Nat) (d : Bytes) :
    (s.event c i d).log = s.log.push
      { gc := s.gc.value, code := c, island := i, byB := decide (s.mgmt.active = .b), seq := s.log.nextSeq,
        step := if s.step.launched then some (s.step.lastLaunched % 2 ^ 48) else none, detail := d.take 10 } := by
  unfold State.event
  dsimp only []
  split <;> split <;> rfl

theorem State.event_od (c : BitVec 16) (i : Nat) (d : Bytes) :
    (s.event c i d).od = (s.addObj 0x3000 (c.toNat / 4096 - 1) 1).od := by
  unfold State.event
  dsimp only []
  split <;> split <;> rfl

/-- An event is logged with its code, island and detail (R487). -/
theorem State.event_logged (c : BitVec 16) (i : Nat) {d : Bytes} (h : d.length ≤ 10) :
    Logged s (s.event c i d) c i d := by
  rw [Logged, State.event_log]
  exact ⟨_, EventLog.mem_push _ _, rfl, rfl, List.take_of_length_le h, rfl, rfl⟩

/-- An event changes nothing but what logging it needs. -/
theorem State.event_onlyLogs (w : Assoc.wf objDefault s.od = true) (c : BitVec 16) (i : Nat) (d : Bytes) :
    OnlyLogs s (s.event c i d) where
  frame := by
    unfold State.event
    dsimp only []
    split <;> split <;> rfl
  objects := by
    intro idx sub hi hs
    have : (s.event c i d).obj idx sub = (s.addObj 0x3000 (c.toNat / 4096 - 1) 1).obj idx sub := by
      unfold State.obj
      rw [State.event_od]
    rw [this]
    refine State.obj_addObj_other w ?_
    have := c.isLt
    rw [Ne, objKey_inj hs (by omega)]
    simp [hi]

/-- A due event of a limited rate is logged. -/
theorem State.eventLimited_due {c : BitVec 16} {k p i : Nat} {d : Bytes} (h : s.limitPast c k p) :
    s.eventLimited c k p i d = State.event { s with mgmt := { s.mgmt with
      lastLogged := setKey (c.toNat * 256 + k) s.uptime s.mgmt.lastLogged } } c i d := by
  unfold State.eventLimited
  dsimp only []
  split
  · rename_i t ht
    have := h t ht
    rw [if_neg (by omega)]
  · rfl

end Sys2Proof.Machine
end

