-- ==== Sys2Proof/Laws/Frames.lean ====
section
/-! SUPPORT. Frames of the shared operations: what sending a flit, logging an event, writing memory and aborting a step
leave as it was. -/

namespace Sys2Proof.Machine

variable {s t u : State}

theorem OnlySends.refl (s : State) : OnlySends s s := rfl

theorem OnlySends.trans (h : OnlySends s t) (g : OnlySends t u) : OnlySends s u := by
  unfold OnlySends at *
  rw [g, h]

theorem OnlyAborts.refl (s : State) : OnlyAborts s s := rfl

theorem OnlyAborts.trans (h : OnlyAborts s t) (g : OnlyAborts t u) : OnlyAborts s u := by
  unfold OnlyAborts at *
  rw [g, h]

theorem OnlySends.aborts (h : OnlySends s t) : OnlyAborts s t := by
  unfold OnlySends OnlyAborts at *
  rw [h]

theorem OnlyLogs.sends (h : OnlyLogs s t) : OnlySends s t := by
  unfold OnlySends
  rw [h.frame]

theorem OnlySends.ite {c : Prop} [Decidable c] (h : OnlySends s t) (g : OnlySends s u) :
    OnlySends s (if c then t else u) := by
  split
  · exact h
  · exact g

theorem OnlySends.foldl {α : Type} {f : State → α → State} (g : ∀ b x, OnlySends b (f b x)) (l : List α) :
    OnlySends s (l.foldl f s) := by
  induction l generalizing s with
  | nil => exact rfl
  | cons x l ih => exact (g s x).trans ih

theorem OnlyAborts.foldl {α : Type} {f : State → α → State} (g : ∀ b x, OnlyAborts b (f b x)) (l : List α) :
    OnlyAborts s (l.foldl f s) := by
  induction l generalizing s with
  | nil => exact rfl
  | cons x l ih => exact (g s x).trans ih

theorem OnlySends.setObj {i j v : Nat} : OnlySends s (s.setObj i j v) := rfl
theorem OnlySends.addObj {i j n : Nat} : OnlySends s (s.addObj i j n) := rfl
theorem OnlySends.modPort {p : Port} {f : PortState → PortState} : OnlySends s (s.modPort p f) := rfl
theorem OnlySends.notice {b : Bytes} : OnlySends s (s.notice b) := rfl

theorem OnlySends.event {c : BitVec 16} {i : Nat} {d : Bytes} : OnlySends s (s.event c i d) := by
  unfold State.event
  exact OnlySends.ite rfl rfl

theorem OnlySends.mgmtEvent {c : BitVec 16} {d : Bytes} : OnlySends s (s.mgmtEvent c d) := OnlySends.event

theorem OnlySends.eventLimited {c : BitVec 16} {k p i : Nat} {d : Bytes} : OnlySends s (s.eventLimited c k p i d) := by
  have e (m : MgmtState) : OnlySends s (State.event { s with mgmt := m } c i d) :=
    OnlySends.trans (t := { s with mgmt := m }) rfl OnlySends.event
  unfold State.eventLimited
  dsimp only []
  split
  · exact OnlySends.ite rfl (e _)
  · exact e _

theorem OnlySends.sendLink {p : Port} {ft : BitVec 8} {x : BitVec 32} {b : Bytes} : OnlySends s (s.sendLink p ft x b) := rfl
theorem OnlySends.emit {p : Port} {ft : BitVec 8} {f : Flit} : OnlySends s (s.emit p ft f) := rfl

theorem OnlySends.freeBuffer {o : Option Port} {v : Fin 4} : OnlySends s (s.freeBuffer o v) := by
  cases o <;> exact rfl

theorem OnlySends.sendSeq {o : Option Port} {p : Port} {ft : BitVec 8} {f : Flit} : OnlySends s (s.sendSeq o p ft f) := by
  unfold State.sendSeq
  exact OnlySends.ite OnlySends.freeBuffer (OnlySends.ite (OnlySends.emit.trans OnlySends.freeBuffer) rfl)

theorem OnlySends.drainWait {p : Port} : OnlySends s (s.drainWait p) :=
  OnlySends.trans OnlySends.modPort (OnlySends.foldl (fun _ _ => OnlySends.sendSeq) _)

theorem OnlySends.forward {o : Option Port} {i : Nat} {ft : BitVec 8} {f : Flit} :
    OnlySends s (s.forward o i ft f) := by
  unfold State.forward
  dsimp only []
  split
  · refine OnlySends.trans ?_ ((OnlySends.addObj.trans OnlySends.event).trans OnlySends.freeBuffer)
    split <;> exact rfl
  · exact OnlySends.sendSeq

theorem OnlySends.sendRouted {ft : BitVec 8} {vc : Bool} {dst : BitVec 16} {x : BitVec 32} {b : Bytes} :
    OnlySends s (s.sendRouted ft vc dst x b) := by
  unfold State.sendRouted
  refine OnlySends.ite rfl ?_
  split
  · exact rfl
  · exact OnlySends.forward

theorem OnlySends.floodOut {ft : BitVec 8} {p : Option Port} {f : Flit} : OnlySends s (s.floodOut ft p f) :=
  OnlySends.foldl (fun b _ => OnlySends.ite (OnlySends.refl b) OnlySends.sendSeq) _

theorem OnlySends.flood {ft : BitVec 8} {b : Bytes} : OnlySends s (s.flood ft b) := by
  unfold State.flood
  exact OnlySends.ite rfl
    (OnlySends.trans (t := { s with floodSeq := (s.floodSeq + 1) % 2 ^ 32 }) rfl OnlySends.floodOut)

theorem OnlySends.gasp {c : Nat} : OnlySends s (s.gasp c) :=
  OnlySends.foldl (fun b _ => OnlySends.ite OnlySends.sendLink (OnlySends.refl b)) _

theorem OnlySends.sendFrozen : OnlySends s s.sendFrozen :=
  OnlySends.foldl (fun b _ => OnlySends.ite OnlySends.sendLink (OnlySends.refl b)) _

theorem OnlyPorts.trans (h : OnlyPorts s t) (g : OnlyPorts t u) : OnlyPorts s u := by
  unfold OnlyPorts at *
  rw [g, h]

theorem OnlyPorts.sends (h : OnlyPorts s t) : OnlySends s t := by
  unfold OnlyPorts OnlySends at *
  rw [h]

theorem OnlyPorts.freeBuffer {o : Option Port} {v : Fin 4} : OnlyPorts s (s.freeBuffer o v) := by
  cases o <;> exact rfl

theorem OnlyPorts.sendSeq {o : Option Port} {p : Port} {ft : BitVec 8} {f : Flit} : OnlyPorts s (s.sendSeq o p ft f) := by
  unfold State.sendSeq
  dsimp only []
  split
  · exact OnlyPorts.freeBuffer
  · split
    · exact OnlyPorts.trans (t := s.emit p ft f) rfl OnlyPorts.freeBuffer
    · exact rfl

/-- Receiving a flit changes only ports and what is sent. -/
theorem OnlyPorts.hear {p : Port} {f : Flit} : OnlyPorts s (s.hear p f) := by
  have k (l : List (BitVec 8 × Flit × Option Port)) (a : State) :
      OnlyPorts a (l.foldl (fun s w => s.sendSeq w.2.2 p w.1 w.2.1) a) := by
    induction l generalizing a with
    | nil => exact rfl
    | cons x l ih => exact OnlyPorts.trans OnlyPorts.sendSeq (ih _)
  exact OnlyPorts.trans (t := s.modPort p (fun ps => (ps.life s.gc.value).takeAck f)) rfl
    (OnlyPorts.trans (t := (s.modPort p (fun ps => (ps.life s.gc.value).takeAck f)).modPort p
      (fun ps => { ps with waitq := [] })) rfl (k _ _))

/-- Taking a sequenced flit changes only ports and what is sent. -/
theorem OnlyPorts.taken {p : Port} {f : Flit} : OnlyPorts s (s.taken p f) := OnlyPorts.trans OnlyPorts.hear rfl

/-- Taking a sequenced flit for the module itself changes only ports and what is sent. -/
theorem OnlyPorts.delivered {p : Port} {f : Flit} : OnlyPorts s (s.delivered p f) :=
  OnlyPorts.trans OnlyPorts.taken OnlyPorts.freeBuffer

/-- A port without flits that wait only hears. -/
theorem State.hear_quiet {p : Port} {f : Flit} (h : s.ports[p].waitq = []) :
    s.hear p f = s.modPort p (fun ps => (ps.life s.gc.value).takeAck f) := by
  have e : ∀ (ps : PortState) (g : Nat), ((ps.life g).takeAck f).waitq = ps.waitq := by
    intro ps g
    unfold PortState.takeAck PortState.life
    dsimp only []
    split <;> split <;> rfl
  have w : ∀ ps : PortState, ps.waitq = [] → { ps with waitq := [] } = ps := by
    rintro ⟨⟩ h
    simp at h
    simp [h]
  have m : ∀ (v : State) (g : PortState → PortState), g v.ports[p] = v.ports[p] → v.modPort p g = v := by
    intro v g h
    show { v with ports := v.ports.set p (g v.ports[p]) } = v
    rw [h]
    simp
  have q : (s.modPort p (fun ps => (ps.life s.gc.value).takeAck f)).ports[p].waitq = [] := by
    simpa [State.modPort, vmodify, e] using h
  unfold State.hear State.drainWait
  dsimp only [] at q ⊢
  rw [q, List.foldl_nil]
  exact m _ _ (w _ q)

theorem State.modPort_rxSeq {p : Port} (q : Port) (x : PortState → PortState) (hx : ∀ ps, (x ps).rxSeq = ps.rxSeq) :
    (s.modPort p x).ports[q].rxSeq = s.ports[q].rxSeq := by
  unfold State.modPort vmodify
  by_cases h : (p : Nat) = q
  · simp [h, hx]
  · simp [h]

theorem State.freeBuffer_rxSeq {o : Option Port} {v : Fin 4} (q : Port) :
    (s.freeBuffer o v).ports[q].rxSeq = s.ports[q].rxSeq := by
  cases o
  · rfl
  · exact State.modPort_rxSeq q _ (fun _ => rfl)

theorem State.sendSeq_rxSeq {o : Option Port} {p : Port} {ft : BitVec 8} {f : Flit} (q : Port) :
    (s.sendSeq o p ft f).ports[q].rxSeq = s.ports[q].rxSeq := by
  have c (ps : PortState) (x : Option (Fin 4 × Nat)) : (ps.takeCredits x).rxSeq = ps.rxSeq := by
    unfold PortState.takeCredits
    split <;> rfl
  unfold State.sendSeq
  dsimp only []
  split
  · exact State.freeBuffer_rxSeq q
  · split
    · exact (State.freeBuffer_rxSeq q).trans (State.modPort_rxSeq (p := p) q _ (fun ps => c ps _))
    · exact State.modPort_rxSeq q _ (fun _ => rfl)

/-- Hearing a flit leaves what its port expects next. -/
theorem State.hear_rxSeq {p : Port} {f : Flit} : (s.hear p f).ports[p].rxSeq = s.ports[p].rxSeq := by
  have k (l : List (BitVec 8 × Flit × Option Port)) (a : State) :
      (l.foldl (fun s w => s.sendSeq w.2.2 p w.1 w.2.1) a).ports[p].rxSeq = a.ports[p].rxSeq := by
    induction l generalizing a with
    | nil => rfl
    | cons x l ih => exact (ih _).trans (State.sendSeq_rxSeq p)
  refine (k _ _).trans ?_
  simp only [State.modPort, vmodify, Fin.getElem_fin, Vector.getElem_set_self]
  unfold PortState.takeAck PortState.life
  dsimp only []
  split <;> split <;> rfl

/-- A sequenced flit in order is taken, and acts. -/
theorem State.seqFlit_inOrder {p : Port} {f : Flit} {act : State → State} (h : InOrder s p f) :
    s.seqFlit p f act = .next (act (s.taken p f)) := by
  unfold State.seqFlit State.taken
  simp only [h.hears, Bool.not_true, Bool.false_eq_true, ↓reduceIte]
  rw [if_neg]
  rw [State.hear_rxSeq]
  exact fun n => n h.next

theorem OnlySends.hear {p : Port} {f : Flit} : OnlySends s (s.hear p f) := OnlySends.modPort.trans OnlySends.drainWait

theorem OnlySends.nakOnce {p : Port} : OnlySends s (s.nakOnce p) := by
  unfold State.nakOnce
  exact OnlySends.ite rfl (OnlySends.sendLink.trans OnlySends.modPort)

/-- Only memory, its caches and counts, and what logging needs have changed. -/
def OnlyStores (s t : State) : Prop :=
  t = { s with mem := t.mem, poison := t.poison, caches := t.caches, od := t.od, log := t.log, mgmt := t.mgmt,
               out := t.out }

theorem OnlyStores.refl (s : State) : OnlyStores s s := rfl

theorem OnlyStores.trans (h : OnlyStores s t) (g : OnlyStores t u) : OnlyStores s u := by
  unfold OnlyStores at *
  rw [g, h]

theorem OnlyStores.aborts (h : OnlyStores s t) : OnlyAborts s t := by
  unfold OnlyStores OnlyAborts at *
  rw [h]

theorem OnlyStores.step (h : OnlyStores s t) : t.step = s.step := by
  unfold OnlyStores at h
  rw [h]

theorem OnlyStores.foldl {α : Type} {f : State → α → State} (g : ∀ b x, OnlyStores b (f b x)) (l : List α) :
    OnlyStores s (l.foldl f s) := by
  induction l generalizing s with
  | nil => exact rfl
  | cons x l ih => exact (g s x).trans ih

theorem OnlyStores.addObj {i j n : Nat} : OnlyStores s (s.addObj i j n) := rfl
theorem OnlyStores.setObj {i j v : Nat} : OnlyStores s (s.setObj i j v) := rfl

theorem OnlyStores.event {c : BitVec 16} {i : Nat} {d : Bytes} : OnlyStores s (s.event c i d) := by
  unfold OnlyStores
  rw [s.event_frame]

theorem OnlyStores.mgmtEvent {c : BitVec 16} {d : Bytes} : OnlyStores s (s.mgmtEvent c d) := OnlyStores.event

/-- Writing bytes changes only memory and what stands for it. -/
theorem OnlyStores.writeRun {a : Nat} {b : Bytes} : OnlyStores s (s.writeRun a b) := by
  unfold State.writeRun
  dsimp only []
  split
  · exact rfl
  · split
    · rename_i p _ _
      exact OnlyStores.trans (t := { s with mem := memWrite s.mem p b, poison := healPoison s.poison p b.length,
                                            caches := vmap (dropLines p b.length) s.caches }) rfl
        (OnlyStores.foldl (fun _ _ => OnlyStores.addObj) _)
    · exact rfl

theorem OnlyStores.setVersion {v sl b n : Nat} : OnlyStores s (s.setVersion v sl b n) := by
  unfold State.setVersion
  split
  · exact rfl
  · exact OnlyStores.writeRun.trans OnlyStores.writeRun

theorem OnlyStores.abortVersions : OnlyStores s s.abortVersions := by
  have k : OnlyStores s (s.step.versions.foldl
      (fun s v => s.setVersion v.1 v.2.1 v.2.2.1 (2 ^ 64 - 1)) s) := OnlyStores.foldl (fun _ _ => OnlyStores.setVersion) _
  unfold State.abortVersions
  dsimp only []
  split
  · exact k
  · split
    · exact k.trans (OnlyStores.setObj.trans OnlyStores.mgmtEvent)
    · exact k

theorem OnlyStores.endWaits : OnlyStores s s.endWaits := by
  unfold State.endWaits
  refine OnlyStores.foldl (fun b c => ?_) _
  dsimp only []
  split <;> split
  · exact rfl
  · exact OnlyStores.addObj
  · exact OnlyStores.addObj
  · exact OnlyStores.trans OnlyStores.addObj OnlyStores.addObj

theorem OnlyAborts.setSync {m : Nat} {b : Bool} : OnlyAborts s (s.setSync m b) := rfl

/-- Marking rebuilt matrices as out of step changes only their flags. -/
theorem OnlyAborts.abortRebuilds : OnlyAborts s s.abortRebuilds := by
  unfold State.abortRebuilds
  split
  · exact rfl
  · exact OnlyAborts.foldl (fun _ _ => OnlyAborts.setSync) _

theorem State.abortRebuilds_step : s.abortRebuilds.step = s.step := by
  have k (l : List Nat) (v : State) : (l.foldl (fun s m => s.setSync m true) v).step = v.step := by
    induction l generalizing v with
    | nil => rfl
    | cons m l ih => exact ih (v.setSync m true)
  unfold State.abortRebuilds
  split
  · rfl
  · exact k _ s

/-- What an abort settles and logs before it clears the step: sync flags and waits, then its event and the versions
(R55, R253, R321). -/
def State.abortSettled (s : State) (cause : BitVec 16) : State :=
  (s.abortRebuilds.endWaits.mgmtEvent 0x4106 (toLe 2 cause.toNat)).abortVersions

theorem OnlyStores.settled {c : BitVec 16} : OnlyStores s ((s.endWaits.mgmtEvent 0x4106 (toLe 2 c.toNat)).abortVersions) :=
  OnlyStores.endWaits.trans (OnlyStores.mgmtEvent.trans OnlyStores.abortVersions)

theorem OnlyAborts.abortSettled {c : BitVec 16} : OnlyAborts s (s.abortSettled c) :=
  OnlyAborts.abortRebuilds.trans OnlyStores.settled.aborts

@[simp] theorem State.abortSettled_step {c : BitVec 16} : (s.abortSettled c).step = s.step :=
  OnlyStores.settled.step.trans State.abortRebuilds_step

/-- What an abort makes of the step and its records, before it is told to others. -/
def State.stepDropped (s : State) (cause : BitVec 16) : State :=
  { s.abortSettled cause with
      cores := vmap CoreState.aborted s.cores
      signals := []
      chainHeld := []
      rounds := s.rounds.filter (fun r => r.name.kind ≠ 2)
      outbound := []
      step := { s.step.dropGathered with
        status := .aborted, causes := s.step.causes ++ [cause]
        stoppedGc := if s.step.status = StepStatus.ended then s.step.stoppedGc else s.gc.value } }

/-- What settling an abort leaves of the step's records and rounds. -/
theorem State.settling_keeps : let v := s.abortRebuilds.endWaits
    v.cores = s.cores ∧ v.rounds = s.rounds ∧ v.step = s.step ∧ v.gc = s.gc := by
  have a : OnlyStores s.abortRebuilds s.abortRebuilds.endWaits := OnlyStores.endWaits
  have k (l : List Nat) (v : State) : let u := l.foldl (fun s m => s.setSync m true) v
      u.cores = v.cores ∧ u.rounds = v.rounds ∧ u.step = v.step ∧ u.gc = v.gc := by
    induction l generalizing v with
    | nil => exact ⟨rfl, rfl, rfl, rfl⟩
    | cons m l ih => exact ih (v.setSync m true)
  have b : s.abortRebuilds.cores = s.cores ∧ s.abortRebuilds.rounds = s.rounds ∧ s.abortRebuilds.step = s.step ∧
      s.abortRebuilds.gc = s.gc := by
    unfold State.abortRebuilds
    split
    · exact ⟨rfl, rfl, rfl, rfl⟩
    · exact k _ s
  unfold OnlyStores at a
  dsimp only []
  rw [a]
  exact b

/-- A step in progress, or completed, is dropped, and its abort logged, counted and flooded (R55, R417). -/
theorem State.abortStep_live {c : BitVec 16} (h : s.stepLive = true) :
    s.abortStep c = (((s.stepDropped c).addObj 0x3001 1 1).flood 0x10
      (toLe 8 s.step.current ++ toLe 2 c.toNat)) := by
  obtain ⟨h1, h2, h3, h4⟩ := State.settling_keeps (s := s)
  unfold State.stepLive at h
  unfold State.abortStep
  split
  · simp_all
  · simp_all
  all_goals
    dsimp only []
    rw [h1, h2, h3, h4]
    rfl

/-- Telling an abort changes only what sends and logs. -/
theorem State.abortStep_sends {c : BitVec 16} (h : s.stepLive = true) : OnlySends (s.stepDropped c) (s.abortStep c) := by
  rw [State.abortStep_live h]
  exact OnlySends.addObj.trans OnlySends.flood

/-- An abort changes only what it must (R55). -/
theorem OnlyAborts.abortStep {c : BitVec 16} : OnlyAborts s (s.abortStep c) := by
  by_cases h : s.stepLive = true
  · refine OnlyAborts.trans ?_ (State.abortStep_sends h).aborts
    have k : OnlyAborts s (s.abortSettled c) := OnlyAborts.abortSettled
    unfold State.stepDropped
    unfold OnlyAborts at k ⊢
    rw [k]
  · unfold State.stepLive at h
    unfold State.abortStep
    split
    · exact rfl
    · exact rfl
    · simp_all
    · simp_all

theorem OnlyAborts.abortWith {c : BitVec 16} {i : Nat} {d : Bytes} : OnlyAborts s (s.abortWith c i d) :=
  OnlySends.event.aborts.trans OnlyAborts.abortStep

/-- What an abort makes of a step in progress, or completed (R55). -/
theorem State.abortStep_status {c : BitVec 16} (h : s.stepLive = true) :
    (s.abortStep c).step.status = .aborted ∧ (s.abortStep c).step.causes = s.step.causes ++ [c] := by
  rw [State.abortStep_sends h]
  simp [State.stepDropped]

/-- No record is in flight after an abort, and no tally or message is left (R55). -/
theorem State.abortStep_idle {c : BitVec 16} (h : s.stepLive = true) (l : Core) :
    (s.abortStep c).cores[l].inflight = [] ∧ (s.abortStep c).cores[l].held = [] ∧ (s.abortStep c).signals = [] ∧
      (s.abortStep c).outbound = [] := by
  rw [State.abortStep_sends h]
  simp [State.stepDropped, vmap, CoreState.aborted]

end Sys2Proof.Machine
end

