-- ==== Sys2Proof/Laws/Kept.lean ====
section
/-! SUPPORT. What one operation keeps of the invariant: a relation of the state before to the state after, closed under
composition, so that each operation has one lemma and no proof unfolds another's body. -/

namespace Sys2Proof.Machine

/-- The parts of a state after an operation, related to the state before: the queue stands, canonical lists stay
canonical, bounds stay, fused entries stay, and the core map stays sound. With `live`, the operation is none that
resets the module, and an active image stays one. -/
structure KeptParts (live : Bool) (s : State) (pending : List Instr) (mem : List Host.Cell) (od : List (Nat × Nat)) (gc : Nat)
    (recs : List EventRec) (al : List AuditRec) (rl : List ReplayRec)
    (selections : List (Source × Selection)) (fs : List (Option (BitVec 256))) (coreMap : Vector Phys 48)
    (spares : Vector (Option Phys) 4) (sparing : List Sparing) (status : StepStatus) (plan : Option Plan) : Prop where
  queue : pending = s.pending
  memory : Memory.wf s.mem = true → Memory.wf mem = true
  objects : Assoc.wf objDefault s.od = true → Assoc.wf objDefault od = true
  counter : s.gc.value < 2 ^ 64 → gc < 2 ^ 64
  events : s.log.recs.length ≤ 65536 → recs.length ≤ 65536
  audits : s.auditLog.length ≤ 65536 → al.length ≤ 65536
  replays : s.replayLog.length ≤ 65536 → rl.length ≤ 65536
  sources : s.mgmt.selections.length ≤ maxSources → selections.length ≤ maxSources
  fuses : s.nv.fuses <+: fs
  fuseCount : fs.length ≤ max 4 s.nv.fuses.length
  cores : CoresOk s.coreMap s.spares s.sparing → CoresOk coreMap spares sparing
  image : (s.step.status = .running ∨ s.step.status = .ended → s.plan.isSome = true) →
    status = .running ∨ status = .ended → plan.isSome = true
  active : live = true → s.plan.isSome = true → plan.isSome = true

/-- A state after an operation keeps what the state before had. -/
def Kept (live : Bool) (s t : State) : Prop :=
  KeptParts live s t.pending t.mem t.od t.gc.value t.log.recs t.auditLog t.replayLog t.mgmt.selections t.nv.fuses
    t.coreMap t.spares t.sparing t.step.status t.plan

variable {live : Bool}

theorem Kept.refl (s : State) : Kept live s s where
  queue := rfl
  memory := id
  objects := id
  counter := id
  events := id
  audits := id
  replays := id
  sources := id
  fuses := List.prefix_rfl
  fuseCount := by omega
  cores := id
  image := id
  active := fun _ => id

theorem Kept.trans {s t u : State} (h : Kept live s t) (g : Kept live t u) : Kept live s u where
  queue := g.queue.trans h.queue
  memory := g.memory ∘ h.memory
  objects := g.objects ∘ h.objects
  counter := g.counter ∘ h.counter
  events := g.events ∘ h.events
  audits := g.audits ∘ h.audits
  replays := g.replays ∘ h.replays
  sources := g.sources ∘ h.sources
  fuses := h.fuses.trans g.fuses
  fuseCount := by
    have a := h.fuseCount
    have b := g.fuseCount
    omega
  cores := g.cores ∘ h.cores
  image := g.image ∘ h.image
  active := fun l => g.active l ∘ h.active l

/-- An operation that resets nothing is one that may. -/
theorem Kept.weaken {s t : State} (h : Kept true s t) : Kept live s t := { h with active := fun _ => h.active rfl }

/-- The invariant passes over an operation. -/
theorem Kept.inv {s t : State} (h : Kept live s t) (i : s.Inv) : t.Inv where
  memory := h.memory i.memory
  objects := h.objects i.objects
  counter := h.counter i.counter
  events := h.events i.events
  audits := h.audits i.audits
  replays := h.replays i.replays
  sources := h.sources i.sources
  fuses := by
    have a := h.fuseCount
    have b := i.fuses
    omega
  cores := h.cores i.cores
  image := by
    have a := h.image (by
      have := i.image
      simpa [State.stepLive] using this)
    simpa [State.stepLive] using a

/-- A state written out keeps what its parts keep. -/
theorem Kept.ofParts {s : State}
    {x_phase : PowerPhase} {x_stage : Stage} {x_latchedCause : Nat} {x_tripLatch : Bool} {x_pins : Pins}
    {x_bringup : Bringup} {x_moduleLost : Bool} {x_planStuck : Bool} {x_hostPllLost : Bool} {x_standbyOff : Bool} {x_nv : NonVolatile}
    {x_running : Vector Program 9} {x_pinned : Vector Nat 9} {x_keyUnusable : Bool} {x_bootChecks : BootChecks} {x_mgmt : MgmtState}
    {x_od : List (Nat × Nat)} {x_blobs : List (Nat × Bytes)} {x_staged : List (Nat × Bytes)} {x_stageLock : Bool}
    {x_log : EventLog} {x_auditLog : List AuditRec} {x_replayLog : List ReplayRec} {x_uptime : Nat}
    {x_gc : GcState} {x_syncSeenAt : Option Nat} {x_coreMap : Vector Phys 48} {x_spares : Vector (Option Phys) 4}
    {x_islands : List (Nat × IslandState)} {x_lasers : Vector Laser 8} {x_mem : List Host.Cell}
    {x_poison : List Nat} {x_caches : Vector (List CacheLine) 4} {x_sheaves : Vector (List Nat) 8}
    {x_rowErrors : List (Nat × Nat)} {x_faultyRows : List Nat} {x_badRows : List Nat}
    {x_thermal : Vector Thermal 8} {x_temps : Vector F32 8} {x_strobes : List (Nat × Int)}
    {x_marginScan : List Stack} {x_laneSets : List (Nat × List Nat)} {x_marginResult : Bytes}
    {x_slots : PlanSlot × PlanSlot} {x_activeSlot : Option Bool} {x_plan : Option Plan} {x_step : StepState}
    {x_counts : List (CountKey × Nat)} {x_tileStatus : List (Nat × List Nat)} {x_poolLow : List (Nat × Nat)}
    {x_poolWaited : List (Nat × Nat)} {x_cores : Vector CoreState 48} {x_signals : List SignalMsg}
    {x_lastStarted : List (Nat × Nat)} {x_chainHeld : List ChainHold} {x_standing : List WatchCondition}
    {x_pauses : List (Nat × Nat)} {x_rotor : List (Nat × Nat)} {x_syncFlags : List Nat}
    {x_winGens : List (Nat × Nat)} {x_setDigests : List (Nat × Nat × Nat)} {x_rounds : List Round}
    {x_agree : AgreeState} {x_holds : List (Nat × Nat)} {x_holdsHeard : List Nat} {x_holdDue : List HoldWait}
    {x_sparing : List Sparing} {x_sparesFailed : List CDie} {x_restore : Option Restore} {x_wardDigests : Vector Nat 2}
    {x_ports : Vector PortState 32} {x_floodSeq : Nat} {x_floodSeen : List (Nat × Nat)}
    {x_downLinks : List DownLink} {x_lossAt : List (Nat × Nat)} {x_lossOrigins : List Nat}
    {x_lostNodes : List (BitVec 16)} {x_activeSets : List (BitVec 16 × Nat)} {x_inbound : List Inbound}
    {x_heldWrites : List (Nat × Bytes)} {x_outbound : List Outbound} {x_nextXid : Nat}
    {x_epochCommitGc : Option Nat} {x_coreFaults : List (Nat × Nat × Nat × Nat)} {x_collFaults : List (Nat × Nat)}
    {x_seFenced : List Nat} {x_fenceErrors : List (Nat × Nat)} {x_errorReplies : List (Nat × Nat)} {x_transientBins : List (Nat × List Nat)}
    {x_freeze : FreezeState} {x_tap : TapState} {x_telemetry : List (Nat × Nat)} {x_out : List Out}
    {x_freeCount : Nat} {x_pending : List Instr}
    (h : KeptParts live s x_pending x_mem x_od x_gc.value x_log.recs x_auditLog x_replayLog x_mgmt.selections x_nv.fuses x_coreMap x_spares x_sparing x_step.status x_plan) :
    Kept live s (State.mk
      x_phase x_stage x_latchedCause x_tripLatch x_pins x_bringup x_moduleLost x_planStuck x_hostPllLost x_standbyOff x_nv
      x_running x_pinned x_keyUnusable x_bootChecks x_mgmt x_od x_blobs x_staged x_stageLock x_log x_auditLog x_replayLog
      x_uptime x_gc x_syncSeenAt x_coreMap x_spares x_islands x_lasers x_mem x_poison x_caches x_sheaves
      x_rowErrors x_faultyRows x_badRows x_thermal x_temps x_strobes x_marginScan x_laneSets x_marginResult x_slots
      x_activeSlot x_plan x_step x_counts x_tileStatus x_poolLow x_poolWaited x_cores x_signals x_lastStarted
      x_chainHeld x_standing x_pauses x_rotor x_syncFlags x_winGens x_setDigests x_rounds x_agree x_holds
      x_holdsHeard x_holdDue x_sparing x_sparesFailed x_restore x_wardDigests x_ports x_floodSeq x_floodSeen x_downLinks x_lossAt
      x_lossOrigins x_lostNodes x_activeSets x_inbound x_heldWrites x_outbound x_nextXid x_epochCommitGc
      x_coreFaults x_collFaults x_seFenced x_fenceErrors x_errorReplies x_transientBins x_freeze x_tap x_telemetry x_out
      x_freeCount x_pending) := h

/-- The parts of a state are kept when the state is. -/
theorem Kept.parts {s A : State} (h : Kept live s A) :
    KeptParts live s A.pending A.mem A.od A.gc.value A.log.recs A.auditLog A.replayLog A.mgmt.selections A.nv.fuses A.coreMap A.spares A.sparing A.step.status A.plan := h

/-- A choice keeps what both its branches keep. -/
theorem Kept.ite {s a b : State} {c : Prop} [Decidable c] (h : Kept live s a) (g : Kept live s b) :
    Kept live s (if c then a else b) := by
  split
  · exact h
  · exact g

/-- A choice whose branches use the condition keeps what both keep. -/
theorem Kept.dite {s : State} {c : Prop} [Decidable c] {a : c → State} {b : ¬c → State} (h : ∀ x, Kept live s (a x))
    (g : ∀ x, Kept live s (b x)) : Kept live s (if x : c then a x else b x) := by
  split
  · exact h _
  · exact g _

/-- A loop keeps what each of its rounds keeps. -/
theorem Kept.foldl {α : Type} {s a : State} {f : State → α → State} (h : Kept live s a)
    (g : ∀ b x, Kept live s b → Kept live s (f b x)) (l : List α) : Kept live s (l.foldl f a) := by
  induction l generalizing a with
  | nil => exact h
  | cons x l ih => exact ih (g a x h)

end Sys2Proof.Machine
end

