-- ==== Sys2Proof/Laws/KeptEngines.lean ====
section
/-! SUPPORT. What the shared operations keep of the invariant, one lemma each (`Kept.f` for the operation `f`): links and
log, memory writes, the version rules, and the effects of the engines. -/

namespace Sys2Proof.Machine

theorem Kept.modPort {live : Bool} {s₀ s : State} {p : Port} {f : PortState → PortState} (h : Kept live s₀ s) :
    Kept live s₀ (State.modPort s p f) := by
  unfold State.modPort
  repeat' with_reducible first | assumption | (fail_if_no_progress (refine Kept.ofParts ?_; refine Kept.parts ?_))

theorem Kept.emit {live : Bool} {s₀ s : State} {p : Port} {ftype : BitVec 8} {f : Flit} (h : Kept live s₀ s) :
    Kept live s₀ (State.emit s p ftype f) := by
  unfold State.emit
  repeat' first
    | with_reducible assumption
    | with_reducible refine Kept.modPort ?_
    | (fail_if_no_progress (with_reducible refine Kept.ofParts ?_; (try dsimp only []); with_reducible refine Kept.parts ?_))

theorem Kept.freeBuffer {live : Bool} {s₀ s : State} {src : Option Port} {v : Fin 4} (h : Kept live s₀ s) :
    Kept live s₀ (State.freeBuffer s src v) := by
  unfold State.freeBuffer
  repeat' with_reducible first | assumption | refine Kept.modPort ?_ | split

theorem Kept.sendSeq {live : Bool} {s₀ s : State} {src : Option Port} {p : Port} {ftype : BitVec 8} {f : Flit} (h : Kept live s₀ s) :
    Kept live s₀ (State.sendSeq s src p ftype f) := by
  unfold State.sendSeq
  repeat' first
    | with_reducible assumption
    | with_reducible refine Kept.modPort ?_
    | with_reducible refine Kept.emit ?_
    | with_reducible refine Kept.freeBuffer ?_
    | with_reducible refine Kept.ite ?_ ?_

theorem Kept.setObj {live : Bool} {s₀ s : State} {idx sub v : Nat} (h : Kept live s₀ s) : Kept live s₀ (s.setObj idx sub v) := by
  unfold State.setObj
  refine Kept.ofParts { h with objects := fun w => Assoc.wf_write _ _ (h.objects w) }

theorem Kept.addObj {live : Bool} {s₀ s : State} {idx : Nat} {sub : Nat} {n : Nat} (h : Kept live s₀ s) :
    Kept live s₀ (State.addObj s idx sub n) := by
  unfold State.addObj
  repeat' with_reducible first | assumption | refine Kept.setObj ?_

theorem Kept.notice {live : Bool} {s₀ s : State} {payload : Bytes} (h : Kept live s₀ s) :
    Kept live s₀ (State.notice s payload) := by
  unfold State.notice
  repeat' with_reducible first | assumption | (fail_if_no_progress (refine Kept.ofParts ?_; refine Kept.parts ?_))

theorem EventLog.push_length (l : EventLog) (e : EventRec) (h : l.recs.length ≤ 65536) :
    (l.push e).recs.length ≤ 65536 := by
  unfold EventLog.push
  simp only [List.length_append, List.length_singleton]
  split
  · simp only [List.length_drop, List.length_append, List.length_singleton]
    omega
  · simp only [List.length_append, List.length_singleton]
    omega

theorem Kept.event {live : Bool} {s₀ s : State} {code : BitVec 16} {island : Nat} {detail : Bytes} (h : Kept live s₀ s) :
    Kept live s₀ (s.event code island detail) := by
  have k (e : EventRec) : Kept live s₀ { s with log := s.log.push e } :=
    Kept.ofParts { h with events := fun w => EventLog.push_length _ _ (h.events w) }
  unfold State.event
  dsimp only []
  exact Kept.ite (Kept.notice (Kept.addObj (k _))) (Kept.addObj (k _))

theorem Kept.fenceHit {live : Bool} {s₀ s : State} {sender i : Nat} (h : Kept live s₀ s) :
    Kept live s₀ (State.fenceHit s sender i) := by
  unfold State.fenceHit
  repeat' with_reducible first | assumption | (fail_if_no_progress (refine Kept.ofParts ?_; refine Kept.parts ?_))

theorem Kept.forward {live : Bool} {s₀ s : State} {src : Option Port} {island : Nat} {ftype : BitVec 8} {f : Flit} (h : Kept live s₀ s) :
    Kept live s₀ (State.forward s src island ftype f) := by
  unfold State.forward
  try dsimp only []
  repeat' first
    | with_reducible assumption
    | with_reducible refine Kept.sendSeq ?_
    | with_reducible refine Kept.addObj ?_
    | with_reducible refine Kept.event ?_
    | with_reducible refine Kept.freeBuffer ?_
    | with_reducible refine Kept.fenceHit ?_
    | with_reducible refine Kept.foldl ?_ (fun _ _ _ => ?_) _
    | with_reducible refine Kept.ite ?_ ?_
    | with_reducible refine Kept.dite (fun _ => ?_) (fun _ => ?_)
    | (fail_if_no_progress (with_reducible refine Kept.ofParts ?_; (try dsimp only []); with_reducible refine Kept.parts ?_))
    | split

theorem Kept.sendRouted {live : Bool} {s₀ s : State} {ftype : BitVec 8} {routeVc : Bool} {dst : BitVec 16} {xinfo : BitVec 32} {payload : Bytes} (h : Kept live s₀ s) :
    Kept live s₀ (State.sendRouted s ftype routeVc dst xinfo payload) := by
  unfold State.sendRouted
  repeat' with_reducible first | assumption | refine Kept.forward ?_ | split

theorem Kept.modCore {live : Bool} {s₀ s : State} {c : Core} {f : CoreState → CoreState} (h : Kept live s₀ s) :
    Kept live s₀ (State.modCore s c f) := by
  unfold State.modCore
  repeat' with_reducible first | assumption | (fail_if_no_progress (refine Kept.ofParts ?_; refine Kept.parts ?_))

theorem Kept.eventLimited {live : Bool} {s₀ s : State} {code : BitVec 16} {item : Nat} {period : Nat} {island : Nat} {detail : Bytes} (h : Kept live s₀ s) :
    Kept live s₀ (State.eventLimited s code item period island detail) := by
  unfold State.eventLimited
  try dsimp only []
  repeat' first
    | with_reducible assumption
    | with_reducible refine Kept.event ?_
    | (fail_if_no_progress (with_reducible refine Kept.ofParts ?_; (try dsimp only []); with_reducible refine Kept.parts ?_))
    | split

theorem Kept.floodOut {live : Bool} {s₀ s : State} {ftype : BitVec 8} {except : Option Port} {f : Flit} (h : Kept live s₀ s) :
    Kept live s₀ (State.floodOut s ftype except f) := by
  unfold State.floodOut
  repeat' first
    | with_reducible assumption
    | with_reducible refine Kept.sendSeq ?_
    | with_reducible refine Kept.foldl ?_ (fun _ _ _ => ?_) _
    | with_reducible refine Kept.ite ?_ ?_

theorem Kept.flood {live : Bool} {s₀ s : State} {ftype : BitVec 8} {payload : Bytes} (h : Kept live s₀ s) :
    Kept live s₀ (State.flood s ftype payload) := by
  unfold State.flood
  try dsimp only []
  repeat' first
    | with_reducible assumption
    | with_reducible refine Kept.floodOut ?_
    | with_reducible refine Kept.foldl ?_ (fun _ _ _ => ?_) _
    | with_reducible refine Kept.ite ?_ ?_
    | with_reducible refine Kept.dite (fun _ => ?_) (fun _ => ?_)
    | (fail_if_no_progress (with_reducible refine Kept.ofParts ?_; (try dsimp only []); with_reducible refine Kept.parts ?_))
    | split

theorem Kept.sendLink {live : Bool} {s₀ s : State} {p : Port} {ftype : BitVec 8} {xinfo : BitVec 32} {payload : Bytes} (h : Kept live s₀ s) :
    Kept live s₀ (State.sendLink s p ftype xinfo payload) := by
  unfold State.sendLink
  repeat' first
    | with_reducible assumption
    | with_reducible refine Kept.modPort ?_
    | (fail_if_no_progress (with_reducible refine Kept.ofParts ?_; (try dsimp only []); with_reducible refine Kept.parts ?_))

theorem Kept.drainWait {live : Bool} {s₀ s : State} {p : Port} (h : Kept live s₀ s) :
    Kept live s₀ (State.drainWait s p) := by
  unfold State.drainWait
  repeat' first
    | with_reducible assumption
    | with_reducible refine Kept.sendSeq ?_
    | with_reducible refine Kept.modPort ?_
    | with_reducible refine Kept.foldl ?_ (fun _ _ _ => ?_) _

theorem Kept.setIsland {live : Bool} {s₀ s : State} {i : Nat} {st : IslandState} (h : Kept live s₀ s) :
    Kept live s₀ (State.setIsland s i st) := by
  unfold State.setIsland
  repeat' with_reducible first | assumption | (fail_if_no_progress (refine Kept.ofParts ?_; refine Kept.parts ?_))

theorem Kept.mgmtEvent {live : Bool} {s₀ s : State} {code : BitVec 16} {detail : Bytes} (h : Kept live s₀ s) :
    Kept live s₀ (State.mgmtEvent s code detail) := by
  unfold State.mgmtEvent
  repeat' with_reducible first | assumption | refine Kept.event ?_

theorem Kept.writeRun {live : Bool} {s₀ s : State} {a : Nat} {bs : Bytes} (h : Kept live s₀ s) : Kept live s₀ (s.writeRun a bs) := by
  have k (m : List Nat) (c : Vector (List CacheLine) 4) (p : Nat) :
      Kept live s₀ { s with mem := memWrite s.mem p bs, poison := m, caches := c } :=
    Kept.ofParts { h with memory := fun w => memWrite_wf _ _ (h.memory w) }
  unfold State.writeRun
  split
  · exact h
  · exact Kept.ite (Kept.foldl (k _ _ _) (fun _ _ => Kept.addObj) _) (k _ _ _)

theorem Kept.cacheRead {live : Bool} {s₀ s : State} {die : Fin 4} {hint : Hint} {addr : Nat} (h : Kept live s₀ s) :
    Kept live s₀ (State.cacheRead s die hint addr) := by
  unfold State.cacheRead
  repeat' first
    | with_reducible assumption
    | with_reducible refine Kept.ite ?_ ?_
    | (fail_if_no_progress (with_reducible refine Kept.ofParts ?_; (try dsimp only []); with_reducible refine Kept.parts ?_))

theorem Kept.setSync {live : Bool} {s₀ s : State} {matrix : Nat} {on : Bool} (h : Kept live s₀ s) :
    Kept live s₀ (State.setSync s matrix on) := by
  unfold State.setSync
  repeat' first
    | with_reducible assumption
    | with_reducible refine Kept.setObj ?_
    | (fail_if_no_progress (with_reducible refine Kept.ofParts ?_; (try dsimp only []); with_reducible refine Kept.parts ?_))

theorem Kept.setVersion {live : Bool} {s₀ s : State} {verdesc : Nat} {slice : Nat} {buf : Nat} {version : Nat} (h : Kept live s₀ s) :
    Kept live s₀ (State.setVersion s verdesc slice buf version) := by
  unfold State.setVersion
  repeat' with_reducible first | assumption | refine Kept.writeRun ?_ | split

theorem Kept.abortVersions {live : Bool} {s₀ s : State}  (h : Kept live s₀ s) :
    Kept live s₀ (State.abortVersions s) := by
  unfold State.abortVersions
  try dsimp only []
  repeat' first
    | with_reducible assumption
    | with_reducible refine Kept.setObj ?_
    | with_reducible refine Kept.mgmtEvent ?_
    | with_reducible refine Kept.setVersion ?_
    | with_reducible refine Kept.foldl ?_ (fun _ _ _ => ?_) _
    | split

theorem Kept.abortRebuilds {live : Bool} {s₀ s : State}  (h : Kept live s₀ s) :
    Kept live s₀ (State.abortRebuilds s) := by
  unfold State.abortRebuilds
  repeat' first
    | with_reducible assumption
    | with_reducible refine Kept.setSync ?_
    | with_reducible refine Kept.foldl ?_ (fun _ _ _ => ?_) _
    | split

theorem Kept.endWaits {live : Bool} {s₀ s : State}  (h : Kept live s₀ s) :
    Kept live s₀ (State.endWaits s) := by
  unfold State.endWaits
  repeat' first
    | with_reducible assumption
    | with_reducible refine Kept.addObj ?_
    | with_reducible refine Kept.foldl ?_ (fun _ _ _ => ?_) _
    | with_reducible refine Kept.ite ?_ ?_

theorem Kept.abortStep {live : Bool} {s₀ s : State} {cause : BitVec 16} (h : Kept live s₀ s) :
    Kept live s₀ (s.abortStep cause) := by
  have k := Kept.abortVersions (Kept.mgmtEvent (code := 0x4106) (detail := toLe 2 cause.toNat)
    (Kept.endWaits (Kept.abortRebuilds h)))
  have f (A : State) (a : Kept live s₀ A) (cs : Vector CoreState 48) (ro : List Round) (st : StepState)
      (e : st.status = .aborted) : Kept live s₀
      { A with cores := cs, signals := [], chainHeld := [], rounds := ro, outbound := [], step := st } :=
    Kept.ofParts { a with image := fun _ x => by simp [e] at x }
  unfold State.abortStep
  split
  · exact h
  · exact Kept.ofParts { h with image := fun _ x => by simp_all }
  all_goals
    dsimp only []
    exact Kept.flood (Kept.addObj (f _ k _ _ _ rfl))

theorem Kept.abortWith {live : Bool} {s₀ s : State} {code : BitVec 16} {island : Nat} {detail : Bytes} (h : Kept live s₀ s) :
    Kept live s₀ (State.abortWith s code island detail) := by
  unfold State.abortWith
  repeat' with_reducible first | assumption | refine Kept.event ?_ | refine Kept.abortStep ?_

theorem Kept.countQuiet {live : Bool} {s₀ s : State} {fam : Nat} {who : Nat} {i : Nat} {n : Nat} (h : Kept live s₀ s) :
    Kept live s₀ (State.countQuiet s fam who i n) := by
  unfold State.countQuiet
  repeat' first
    | with_reducible assumption
    | with_reducible refine Kept.ite ?_ ?_
    | (fail_if_no_progress (with_reducible refine Kept.ofParts ?_; (try dsimp only []); with_reducible refine Kept.parts ?_))

theorem Kept.writeTile {live : Bool} {s₀ s : State} {al : Alloc} {w : Nat} {i : Nat} {tile : Bytes} (h : Kept live s₀ s) :
    Kept live s₀ (State.writeTile s al w i tile) := by
  unfold State.writeTile
  repeat' with_reducible first | assumption | refine Kept.countQuiet ?_ | refine Kept.writeRun ?_

theorem Kept.writeTiles {live : Bool} {s₀ s : State} {al : Alloc} {w : Nat} {a : Nat} {bs : Bytes} (h : Kept live s₀ s) :
    Kept live s₀ (State.writeTiles s al w a bs) := by
  unfold State.writeTiles
  repeat' with_reducible first | assumption | refine Kept.writeTile ?_ | refine Kept.foldl ?_ (fun _ _ _ => ?_) _

theorem Kept.writeCodes {live : Bool} {s₀ s : State} {d : Desc} {idx : List Nat} {cs : List Nat} (h : Kept live s₀ s) :
    Kept live s₀ (State.writeCodes s d idx cs) := by
  unfold State.writeCodes
  dsimp only []
  repeat' with_reducible first | assumption | refine Kept.writeTiles ?_ | refine Kept.writeRun ?_ | split

theorem Kept.padSideBand {live : Bool} {s₀ s : State} {d : Desc} {sb : Option Desc} {outer : List Nat} (h : Kept live s₀ s) :
    Kept live s₀ (State.padSideBand s d sb outer) := by
  unfold State.padSideBand
  dsimp only []
  repeat' with_reducible first | assumption | refine Kept.writeCodes ?_ | split

theorem Kept.noteNan {live : Bool} {s₀ s : State} {n : Nat} {k : Nat} (h : Kept live s₀ s) :
    Kept live s₀ (State.noteNan s n k) := by
  unfold State.noteNan
  repeat' first
    | with_reducible assumption
    | with_reducible refine Kept.ite ?_ ?_
    | (fail_if_no_progress (with_reducible refine Kept.ofParts ?_; (try dsimp only []); with_reducible refine Kept.parts ?_))

theorem Kept.count {live : Bool} {s₀ s : State} {x : Ctx} {fam : Nat} {who : Nat} {i : Nat} {n : Nat} {mask : Nat} {code : BitVec 16} {detail : Bytes} (h : Kept live s₀ s) :
    Kept live s₀ (State.count s x fam who i n mask code detail) := by
  unfold State.count
  repeat' first
    | with_reducible assumption
    | with_reducible refine Kept.event ?_
    | with_reducible refine Kept.ite ?_ ?_
    | (fail_if_no_progress (with_reducible refine Kept.ofParts ?_; (try dsimp only []); with_reducible refine Kept.parts ?_))

theorem Kept.chargeCounts {live : Bool} {s₀ s : State} {x : Ctx} {n : Nat} {c : Counts} (h : Kept live s₀ s) :
    Kept live s₀ (State.chargeCounts s x n c) := by
  unfold State.chargeCounts
  repeat' with_reducible first | assumption | refine Kept.count ?_ | refine Kept.ite ?_ ?_

theorem Kept.charge {live : Bool} {s₀ s : State} {x : Ctx} {n : Nat} {c : Counts} (h : Kept live s₀ s) :
    Kept live s₀ (State.charge s x n c) := by
  unfold State.charge
  repeat' with_reducible first | assumption | refine Kept.chargeCounts ?_ | refine Kept.noteNan ?_

theorem Kept.putBytes {live : Bool} {s₀ s : State} {w : Nat} {a : Nat} {bs : Bytes} (h : Kept live s₀ s) :
    Kept live s₀ (State.putBytes s w a bs) := by
  unfold State.putBytes
  repeat' with_reducible first | assumption | refine Kept.writeTiles ?_ | refine Kept.writeRun ?_ | split

theorem Kept.writeRow {live : Bool} {s₀ s : State} {d : Desc} {sb : Option Desc} {i0 : Nat} {outer : List Nat} {vs : List Val} (h : Kept live s₀ s) :
    Kept live s₀ (State.writeRow s d sb i0 outer vs).1 := by
  unfold State.writeRow
  repeat' with_reducible first | assumption | refine Kept.writeCodes ?_ | split

theorem Kept.writeRow_eq {s₀ s t : State} {d : Desc} {sb : Option Desc} {i0 : Nat} {outer : List Nat} {vs : List Val} {res} (h : Kept live s₀ s) (e : (State.writeRow s d sb i0 outer vs) = (t, res)) : Kept live s₀ t := by
  have k : Kept live s₀ (State.writeRow s d sb i0 outer vs).1 := Kept.writeRow h 
  rw [e] at k
  exact k

theorem Kept.writeRows {live : Bool} {s₀ s : State} {d : Desc} {sb : Option Desc}
    {rows : List (List Nat × List Val)} (h : Kept live s₀ s) :
    Kept live s₀ (State.writeRows s d sb rows).1 := by
  induction rows generalizing s with
  | nil => exact h
  | cons r rows ih =>
    unfold State.writeRows
    exact ih (Kept.padSideBand (Kept.writeRow h))

theorem Kept.writeRows_eq {live : Bool} {s₀ s t : State} {d : Desc} {sb : Option Desc}
    {rows : List (List Nat × List Val)} {res} (h : Kept live s₀ s) (e : State.writeRows s d sb rows = (t, res)) :
    Kept live s₀ t := by
  have k := Kept.writeRows (d := d) (sb := sb) (rows := rows) h
  rw [e] at k
  exact k

theorem Kept.stamp {live : Bool} {s₀ s : State} {x : Ctx} {w : WeightSet} {slices : List Nat} (h : Kept live s₀ s) :
    Kept live s₀ (State.stamp s x w slices) := by
  unfold State.stamp
  repeat' first
    | with_reducible assumption
    | with_reducible refine Kept.setVersion ?_
    | with_reducible refine Kept.foldl ?_ (fun _ _ _ => ?_) _
    | with_reducible refine Kept.ite ?_ ?_
    | (fail_if_no_progress (with_reducible refine Kept.ofParts ?_; (try dsimp only []); with_reducible refine Kept.parts ?_))

theorem Kept.stampPlane {live : Bool} {s₀ s : State} {x : Ctx} {n : Nat} (h : Kept live s₀ s) :
    Kept live s₀ (State.stampPlane s x n) := by
  unfold State.stampPlane
  repeat' with_reducible first | assumption | refine Kept.stamp ?_ | split

theorem Kept.accessSlots {live : Bool} {s₀ s : State} {ks : List (Nat × Nat)} (h : Kept live s₀ s) :
    Kept live s₀ (State.accessSlots s ks) := by
  unfold State.accessSlots
  repeat' with_reducible first | assumption | (fail_if_no_progress (refine Kept.ofParts ?_; refine Kept.parts ?_))

theorem Kept.runTap {live : Bool} {s₀ s : State} {p : Plan} {n : Nat} {w : Nat} {slot : Nat} (h : Kept live s₀ s) :
    Kept live s₀ (State.runTap s p n w slot) := by
  unfold State.runTap
  try dsimp only []
  repeat' first
    | with_reducible assumption
    | with_reducible refine Kept.mgmtEvent ?_
    | with_reducible refine Kept.writeRun ?_
    | with_reducible refine Kept.accessSlots ?_
    | split

theorem Kept.runTaps {live : Bool} {s₀ s : State} {p : Plan} {written : List Nat} (h : Kept live s₀ s) :
    Kept live s₀ (State.runTaps s p written) := by
  unfold State.runTaps
  repeat' first
    | with_reducible assumption
    | with_reducible refine Kept.runTap ?_
    | with_reducible refine Kept.foldl ?_ (fun _ _ _ => ?_) _
    | split

theorem Kept.noteResults {live : Bool} {s₀ s : State} {p : Plan} {written : List Nat} (h : Kept live s₀ s) :
    Kept live s₀ (State.noteResults s p written) := by
  unfold State.noteResults
  repeat' first
    | with_reducible assumption
    | with_reducible refine Kept.ite ?_ ?_
    | (fail_if_no_progress (with_reducible refine Kept.ofParts ?_; (try dsimp only []); with_reducible refine Kept.parts ?_))

theorem Kept.noteReads {live : Bool} {s₀ s : State} {p : Plan} {l : List Span} (h : Kept live s₀ s) :
    Kept live s₀ (State.noteReads s p l) := by
  unfold State.noteReads
  repeat' first
    | with_reducible assumption
    | with_reducible refine Kept.ite ?_ ?_
    | (fail_if_no_progress (with_reducible refine Kept.ofParts ?_; (try dsimp only []); with_reducible refine Kept.parts ?_))

theorem Kept.writeStatus {live : Bool} {s₀ s : State} {x : Ctx} {n : Nat} {d : Desc} {rows : List (List Nat × List OutElem)} (h : Kept live s₀ s) :
    Kept live s₀ (State.writeStatus s x n d rows) := by
  unfold State.writeStatus
  repeat' first
    | with_reducible assumption
    | with_reducible refine Kept.count ?_
    | (fail_if_no_progress (with_reducible refine Kept.ofParts ?_; (try dsimp only []); with_reducible refine Kept.parts ?_))

theorem Kept.writeFinal {live : Bool} {s₀ s : State} {x : Ctx} {n : Nat} {d : Desc} {sb : Option Desc} {rows : List (List Nat × List OutElem)} (h : Kept live s₀ s) :
    Kept live s₀ (State.writeFinal s x n d sb rows) := by
  unfold State.writeFinal
  repeat' first
    | with_reducible assumption
    | with_reducible refine Kept.writeStatus ?_
    | with_reducible refine Kept.charge ?_
    | with_reducible refine Kept.writeRows ?_

theorem Kept.writeRaw {live : Bool} {s₀ s : State} {x : Ctx} {n : Nat} {d : Desc} {rows : List (List Nat × List Nat)} (h : Kept live s₀ s) :
    Kept live s₀ (State.writeRaw s x n d rows) := by
  unfold State.writeRaw
  repeat' first
    | with_reducible assumption
    | with_reducible refine Kept.writeStatus ?_
    | with_reducible refine Kept.charge ?_
    | with_reducible refine Kept.writeCodes ?_
    | with_reducible refine Kept.foldl ?_ (fun _ _ _ => ?_) _

theorem Kept.modQRec {live : Bool} {s₀ s : State} {c : Core} {r : Nat} {f : QRec → QRec} (h : Kept live s₀ s) :
    Kept live s₀ (State.modQRec s c r f) := by
  unfold State.modQRec
  repeat' with_reducible first | assumption | refine Kept.modCore ?_

theorem Kept.finish {live : Bool} {s₀ s : State} {c : Core} {r : Nat} (h : Kept live s₀ s) :
    Kept live s₀ (State.finish s c r) := by
  unfold State.finish
  repeat' with_reducible first | assumption | refine Kept.modQRec ?_

theorem Kept.clearStatus {live : Bool} {s₀ s : State} {x : Ctx} {n : Nat} {d : Desc} {outers : List (List Nat)} (h : Kept live s₀ s) :
    Kept live s₀ (State.clearStatus s x n d outers) := by
  unfold State.clearStatus
  repeat' with_reducible first | assumption | refine Kept.writeStatus ?_

theorem Kept.writePartial {live : Bool} {s₀ s : State} {n : Nat} {d : Desc} {plane : Option Desc} {rows : List (List Nat × List OutElem)} (h : Kept live s₀ s) :
    Kept live s₀ (State.writePartial s n d plane rows) := by
  unfold State.writePartial
  try dsimp only []
  repeat' first
    | with_reducible assumption
    | with_reducible refine Kept.writeCodes ?_
    | with_reducible refine Kept.noteNan ?_
    | with_reducible refine Kept.writeRows ?_
    | with_reducible refine Kept.foldl ?_ (fun _ _ _ => ?_) _
    | split

theorem Kept.tileFault {live : Bool} {s₀ s : State} {x : Ctx} {n : Nat} {slot : Nat} {e : TileErr} (h : Kept live s₀ s) :
    Kept live s₀ (State.tileFault s x n slot e) := by
  unfold State.tileFault
  repeat' with_reducible first | assumption | refine Kept.addObj ?_ | refine Kept.abortWith ?_ | split

theorem Kept.writeStochastic {live : Bool} {s₀ s : State} {x : Ctx} {n : Nat} {d : Desc} {rows : List (List Nat × List OutElem)} (h : Kept live s₀ s) :
    Kept live s₀ (State.writeStochastic s x n d rows) := by
  unfold State.writeStochastic
  repeat' first
    | with_reducible assumption
    | with_reducible refine Kept.charge ?_
    | with_reducible refine Kept.writeStatus ?_
    | with_reducible refine Kept.writeCodes ?_
    | with_reducible refine Kept.foldl ?_ (fun _ _ _ => ?_) _

theorem Kept.writeDense {live : Bool} {s₀ s : State} {x : Ctx} {int : Bool} {sbRead : Nat × Nat} {rows : List (List Nat × List OutElem)} {a : Nat} {b : Nat} (h : Kept live s₀ s) :
    Kept live s₀ (State.writeDense s x int sbRead rows a b) := by
  unfold State.writeDense
  repeat' first
    | with_reducible assumption
    | with_reducible refine Kept.stampPlane ?_
    | with_reducible refine Kept.writeFinal ?_
    | with_reducible refine Kept.writeStochastic ?_
    | with_reducible refine Kept.writePartial ?_
    | with_reducible refine Kept.charge ?_
    | split

theorem Kept.denseEffect {live : Bool} {s₀ s : State} {x : Ctx} {y1 : QRec} (h : Kept live s₀ s) :
    Kept live s₀ (Sys2Proof.Machine.denseEffect x y1 s) := by
  unfold Sys2Proof.Machine.denseEffect
  repeat' with_reducible first | assumption | refine Kept.writeDense ?_ | split

theorem Kept.badOffsets {live : Bool} {s₀ s : State} {x : Ctx} (h : Kept live s₀ s) :
    Kept live s₀ (State.badOffsets s x) := by
  unfold State.badOffsets
  repeat' with_reducible first | assumption | refine Kept.abortWith ?_

theorem Kept.blkEffect {live : Bool} {s₀ s : State} {x : Ctx} {y1 : QRec} (h : Kept live s₀ s) :
    Kept live s₀ (Sys2Proof.Machine.blkEffect x y1 s) := by
  unfold Sys2Proof.Machine.blkEffect
  dsimp only []
  repeat' with_reducible first | assumption | refine Kept.writeDense ?_ | refine Kept.tileFault ?_ | split

theorem Kept.spHealth {live : Bool} {s₀ s : State} {x : Ctx} {g : SpShape} {w : Desc} {csr : Bool} {red : Option (List Nat)} {ts : List (Nat × TileData)} {groups : Nat} (h : Kept live s₀ s) :
    Kept live s₀ (State.spHealth s x g w csr red ts groups) := by
  unfold State.spHealth
  repeat' with_reducible first | assumption | refine Kept.addObj ?_ | refine Kept.ite ?_ ?_

theorem Kept.spWrite {live : Bool} {s₀ s : State} {x : Ctx} {u : SpRun} {groups : List (List Nat × List (Nat × TileData))} {tokens : Nat} (h : Kept live s₀ s) :
    Kept live s₀ (State.spWrite s x u groups tokens) := by
  unfold State.spWrite
  repeat' first
    | with_reducible assumption
    | with_reducible refine Kept.stampPlane ?_
    | with_reducible refine Kept.writeFinal ?_
    | with_reducible refine Kept.charge ?_
    | with_reducible refine Kept.writePartial ?_
    | with_reducible refine Kept.ite ?_ ?_

theorem Kept.badList {live : Bool} {s₀ s : State} {x : Ctx} (h : Kept live s₀ s) :
    Kept live s₀ (State.badList s x) := by
  unfold State.badList
  repeat' with_reducible first | assumption | refine Kept.abortWith ?_

theorem Kept.listFault {live : Bool} {s₀ s : State} {x : Ctx} {y2 : ListErr} (h : Kept live s₀ s) :
    Kept live s₀ (State.listFault s x y2) := by
  unfold State.listFault
  repeat' with_reducible first | assumption | refine Kept.badOffsets ?_ | refine Kept.badList ?_ | split

theorem Kept.spProduct {live : Bool} {s₀ s : State} {fmt : TFmt} {x : Ctx} {y2 : QRec} (h : Kept live s₀ s) :
    Kept live s₀ (Sys2Proof.Machine.spProduct fmt x y2 s) := by
  unfold Sys2Proof.Machine.spProduct
  try dsimp only []
  repeat' first
    | with_reducible assumption
    | with_reducible refine Kept.spHealth ?_
    | with_reducible refine Kept.spWrite ?_
    | with_reducible refine Kept.tileFault ?_
    | with_reducible refine Kept.listFault ?_
    | split

theorem Kept.chargeIndex {live : Bool} {s₀ s : State} {x : Ctx} {n : Nat} {clamped : Nat} {dropped : Nat} (h : Kept live s₀ s) :
    Kept live s₀ (State.chargeIndex s x n clamped dropped) := by
  unfold State.chargeIndex
  repeat' with_reducible first | assumption | refine Kept.count ?_

theorem Kept.scatterEffect {live : Bool} {s₀ s : State} {x : Ctx} {y1 : QRec} (h : Kept live s₀ s) :
    Kept live s₀ (Sys2Proof.Machine.scatterEffect x y1 s) := by
  unfold Sys2Proof.Machine.scatterEffect
  repeat' first
    | with_reducible assumption
    | with_reducible refine Kept.stampPlane ?_
    | with_reducible refine Kept.writeFinal ?_
    | with_reducible refine Kept.chargeIndex ?_
    | with_reducible refine Kept.charge ?_
    | with_reducible refine Kept.badOffsets ?_
    | split

theorem Kept.chargeRoute {live : Bool} {s₀ s : State} {x : Ctx} {n : Nat} {moved : Nat} {residual : Nat} {invalid : Nat} (h : Kept live s₀ s) :
    Kept live s₀ (State.chargeRoute s x n moved residual invalid) := by
  unfold State.chargeRoute
  repeat' with_reducible first | assumption | refine Kept.count ?_

theorem Kept.dispatchEffect {live : Bool} {s₀ s : State} {x : Ctx} {y1 : QRec} (h : Kept live s₀ s) :
    Kept live s₀ (Sys2Proof.Machine.dispatchEffect x y1 s) := by
  unfold Sys2Proof.Machine.dispatchEffect
  try dsimp only []
  repeat' first
    | with_reducible assumption
    | with_reducible refine Kept.writeFinal ?_
    | with_reducible refine Kept.stampPlane ?_
    | with_reducible refine Kept.chargeRoute ?_
    | with_reducible refine Kept.badOffsets ?_
    | split

theorem Kept.sampledEffect {live : Bool} {s₀ s : State} {x : Ctx} {y1 : QRec} (h : Kept live s₀ s) :
    Kept live s₀ (Sys2Proof.Machine.sampledEffect x y1 s) := by
  unfold Sys2Proof.Machine.sampledEffect
  try dsimp only []
  repeat' first
    | with_reducible assumption
    | with_reducible refine Kept.tileFault ?_
    | with_reducible refine Kept.writeFinal ?_
    | with_reducible refine Kept.writePartial ?_
    | with_reducible refine Kept.stampPlane ?_
    | with_reducible refine Kept.addObj ?_
    | split

theorem Kept.gatherEffect {live : Bool} {s₀ s : State} {x : Ctx} {y1 : QRec} (h : Kept live s₀ s) :
    Kept live s₀ (Sys2Proof.Machine.gatherEffect x y1 s) := by
  unfold Sys2Proof.Machine.gatherEffect
  repeat' first
    | with_reducible assumption
    | with_reducible refine Kept.stampPlane ?_
    | with_reducible refine Kept.writeFinal ?_
    | with_reducible refine Kept.chargeIndex ?_
    | with_reducible refine Kept.addObj ?_
    | with_reducible refine Kept.charge ?_
    | with_reducible refine Kept.badOffsets ?_
    | split

theorem Kept.combineEffect {live : Bool} {s₀ s : State} {x : Ctx} {y1 : QRec} (h : Kept live s₀ s) :
    Kept live s₀ (Sys2Proof.Machine.combineEffect x y1 s) := by
  unfold Sys2Proof.Machine.combineEffect
  repeat' first
    | with_reducible assumption
    | with_reducible refine Kept.stampPlane ?_
    | with_reducible refine Kept.writeFinal ?_
    | with_reducible refine Kept.abortWith ?_
    | with_reducible refine Kept.badOffsets ?_
    | split

theorem Kept.mergeEffect {live : Bool} {s₀ s : State} {x : Ctx} {y1 : QRec} (h : Kept live s₀ s) :
    Kept live s₀ (Sys2Proof.Machine.mergeEffect x y1 s) := by
  unfold Sys2Proof.Machine.mergeEffect
  repeat' first
    | with_reducible assumption
    | with_reducible refine Kept.writeRaw ?_
    | with_reducible refine Kept.stampPlane ?_
    | with_reducible refine Kept.badList ?_
    | split

theorem Kept.writeList {live : Bool} {s₀ s : State} {x : Ctx} {n : Nat} {d : Desc} {l : List Nat} (h : Kept live s₀ s) :
    Kept live s₀ (State.writeList s x n d l) := by
  unfold State.writeList
  repeat' with_reducible first | assumption | refine Kept.writeRaw ?_

theorem Kept.writeGlean {live : Bool} {s₀ s : State} {x : Ctx} {e : PredEntry} {listed : List Nat} {glean : List Nat} (h : Kept live s₀ s) :
    Kept live s₀ (State.writeGlean s x e listed glean) := by
  unfold State.writeGlean
  dsimp only []
  repeat' with_reducible first | assumption | refine Kept.writeList ?_ | split

theorem Kept.countPred {live : Bool} {s₀ s : State} {x : Ctx} {i : Nat} {n : Nat} (h : Kept live s₀ s) :
    Kept live s₀ (State.countPred s x i n) := by
  unfold State.countPred
  repeat' with_reducible first | assumption | refine Kept.count ?_ | refine Kept.ite ?_ ?_

theorem Kept.checkEffect {live : Bool} {s₀ s : State} {x : Ctx} {y1 : QRec} (h : Kept live s₀ s) :
    Kept live s₀ (Sys2Proof.Machine.checkEffect x y1 s) := by
  unfold Sys2Proof.Machine.checkEffect
  try dsimp only []
  repeat' first
    | with_reducible assumption
    | with_reducible refine Kept.event ?_
    | with_reducible refine Kept.writeGlean ?_
    | with_reducible refine Kept.countPred ?_
    | with_reducible refine Kept.badOffsets ?_
    | with_reducible refine Kept.badList ?_
    | (fail_if_no_progress (with_reducible refine Kept.ofParts ?_; (try dsimp only []); with_reducible refine Kept.parts ?_))
    | split

theorem Kept.countPredQuiet {live : Bool} {s₀ s : State} {x : Ctx} {fam : Nat} {n : Nat} (h : Kept live s₀ s) :
    Kept live s₀ (State.countPredQuiet s x fam n) := by
  unfold State.countPredQuiet
  repeat' with_reducible first | assumption | refine Kept.countQuiet ?_ | refine Kept.ite ?_ ?_

theorem Kept.predictEffect {live : Bool} {s₀ s : State} {x : Ctx} {y1 : QRec} (h : Kept live s₀ s) :
    Kept live s₀ (Sys2Proof.Machine.predictEffect x y1 s) := by
  unfold Sys2Proof.Machine.predictEffect
  repeat' first
    | with_reducible assumption
    | with_reducible refine Kept.countPredQuiet ?_
    | with_reducible refine Kept.countPred ?_
    | with_reducible refine Kept.writeFinal ?_
    | with_reducible refine Kept.writeList ?_
    | with_reducible refine Kept.badOffsets ?_
    | split

theorem Kept.refEffect {live : Bool} {s₀ s : State} {x : Ctx} {y1 : QRec} (h : Kept live s₀ s) :
    Kept live s₀ (Sys2Proof.Machine.refEffect x y1 s) := by
  unfold Sys2Proof.Machine.refEffect
  repeat' first
    | with_reducible assumption
    | with_reducible refine Kept.countPredQuiet ?_
    | with_reducible refine Kept.badOffsets ?_
    | with_reducible refine Kept.badList ?_
    | (fail_if_no_progress (with_reducible refine Kept.ofParts ?_; (try dsimp only []); with_reducible refine Kept.parts ?_))
    | split

theorem Kept.sendAgree {live : Bool} {s₀ s : State} {g : Group} {name : RoundName} {down : Bool} {mins : List Nat} {maxs : List Nat} {member : Nat} (h : Kept live s₀ s) :
    Kept live s₀ (State.sendAgree s g name down mins maxs member) := by
  unfold State.sendAgree
  repeat' with_reducible first | assumption | refine Kept.sendRouted ?_

theorem Kept.dropRound {live : Bool} {s₀ s : State} {name : RoundName} (h : Kept live s₀ s) :
    Kept live s₀ (State.dropRound s name) := by
  unfold State.dropRound
  repeat' with_reducible first | assumption | (fail_if_no_progress (refine Kept.ofParts ?_; refine Kept.parts ?_))

theorem Kept.sendDown {live : Bool} {s₀ s : State} {g : Group} {me : Nat} {name : RoundName} {mins : List Nat} {maxs : List Nat} (h : Kept live s₀ s) :
    Kept live s₀ (State.sendDown s g me name mins maxs) := by
  unfold State.sendDown
  repeat' with_reducible first | assumption | refine Kept.sendAgree ?_ | refine Kept.foldl ?_ (fun _ _ _ => ?_) _

theorem Kept.setRound {live : Bool} {s₀ s : State} {r : Round} (h : Kept live s₀ s) :
    Kept live s₀ (State.setRound s r) := by
  unfold State.setRound
  repeat' with_reducible first | assumption | (fail_if_no_progress (refine Kept.ofParts ?_; refine Kept.parts ?_))

theorem Kept.advanceRound {live : Bool} {s₀ s : State} {g : Group} {me : Nat} {r : Round} (h : Kept live s₀ s) :
    Kept live s₀ (State.advanceRound s g me r).1 := by
  unfold State.advanceRound
  try dsimp only []
  repeat' first
    | with_reducible assumption
    | with_reducible refine Kept.sendAgree ?_
    | with_reducible refine Kept.dropRound ?_
    | with_reducible refine Kept.sendDown ?_
    | with_reducible refine Kept.setRound ?_
    | split

theorem Kept.advanceRound_eq {s₀ s t : State} {g : Group} {me : Nat} {r : Round} {res} (h : Kept live s₀ s) (e : (State.advanceRound s g me r) = (t, res)) : Kept live s₀ t := by
  have k : Kept live s₀ (State.advanceRound s g me r).1 := Kept.advanceRound h 
  rw [e] at k
  exact k

theorem Kept.takeAgree {live : Bool} {s₀ s : State} {src : BitVec 16} {payload : Bytes} (h : Kept live s₀ s) :
    Kept live s₀ (State.takeAgree s src payload).1 := by
  unfold State.takeAgree
  try dsimp only []
  repeat' first
    | with_reducible assumption
    | with_reducible refine Kept.advanceRound ?_
    | with_reducible refine Kept.dropRound ?_
    | with_reducible refine Kept.sendDown ?_
    | split

theorem Kept.takeAgree_eq {s₀ s t : State} {src : BitVec 16} {payload : Bytes} {res} (h : Kept live s₀ s) (e : (State.takeAgree s src payload) = (t, res)) : Kept live s₀ t := by
  have k : Kept live s₀ (State.takeAgree s src payload).1 := Kept.takeAgree h 
  rw [e] at k
  exact k

theorem Kept.contribute {live : Bool} {s₀ s : State} {name : RoundName} {words : List Nat} (h : Kept live s₀ s) :
    Kept live s₀ (State.contribute s name words).1 := by
  unfold State.contribute
  dsimp only []
  repeat' with_reducible first | assumption | refine Kept.advanceRound ?_ | split

theorem Kept.contribute_eq {s₀ s t : State} {name : RoundName} {words : List Nat} {res} (h : Kept live s₀ s) (e : (State.contribute s name words) = (t, res)) : Kept live s₀ t := by
  have k : Kept live s₀ (State.contribute s name words).1 := Kept.contribute h 
  rw [e] at k
  exact k

theorem Kept.scoreEffect {live : Bool} {s₀ s : State} {x : Ctx} {y1 : QRec} (h : Kept live s₀ s) :
    Kept live s₀ (Sys2Proof.Machine.scoreEffect x y1 s) := by
  unfold Sys2Proof.Machine.scoreEffect
  repeat' first
    | with_reducible assumption
    | with_reducible refine Kept.count ?_
    | with_reducible refine Kept.writeRaw ?_
    | with_reducible refine Kept.tileFault ?_
    | split

theorem Kept.syncEffect {live : Bool} {s₀ s : State} {x : Ctx} {y1 : QRec} (h : Kept live s₀ s) :
    Kept live s₀ (Sys2Proof.Machine.syncEffect x y1 s) := by
  unfold Sys2Proof.Machine.syncEffect
  repeat' first
    | with_reducible assumption
    | with_reducible refine Kept.setSync ?_
    | with_reducible refine Kept.clearStatus ?_
    | with_reducible refine Kept.stampPlane ?_
    | with_reducible refine Kept.writeRun ?_
    | with_reducible refine Kept.foldl ?_ (fun _ _ _ => ?_) _
    | split

theorem Kept.convertEffect {live : Bool} {s₀ s : State} {x : Ctx} {y1 : QRec} (h : Kept live s₀ s) :
    Kept live s₀ (Sys2Proof.Machine.convertEffect x y1 s) := by
  unfold Sys2Proof.Machine.convertEffect
  try dsimp only []
  repeat' first
    | with_reducible assumption
    | with_reducible refine Kept.charge ?_
    | with_reducible refine Kept.clearStatus ?_
    | with_reducible refine Kept.abortWith ?_
    | with_reducible refine Kept.stampPlane ?_
    | with_reducible refine Kept.writeRun ?_
    | with_reducible refine Kept.tileFault ?_
    | with_reducible refine Kept.foldl ?_ (fun _ _ _ => ?_) _
    | with_reducible refine Kept.ite ?_ ?_
    | with_reducible refine Kept.dite (fun _ => ?_) (fun _ => ?_)
    | (fail_if_no_progress (with_reducible refine Kept.ofParts ?_; (try dsimp only []); with_reducible refine Kept.parts ?_))
    | split

theorem Kept.countInexact {live : Bool} {s₀ s : State} {x : Ctx} {n : Nat} {k : Nat} (h : Kept live s₀ s) :
    Kept live s₀ (State.countInexact s x n k) := by
  unfold State.countInexact
  repeat' with_reducible first | assumption | refine Kept.count ?_ | split

theorem Kept.badChange {live : Bool} {s₀ s : State} {x : Ctx} (h : Kept live s₀ s) :
    Kept live s₀ (State.badChange s x) := by
  unfold State.badChange
  repeat' with_reducible first | assumption | refine Kept.abortWith ?_

theorem Kept.selectEffect {live : Bool} {s₀ s : State} {x : Ctx} {y1 : QRec} (h : Kept live s₀ s) :
    Kept live s₀ (Sys2Proof.Machine.selectEffect x y1 s) := by
  unfold Sys2Proof.Machine.selectEffect
  repeat' first
    | with_reducible assumption
    | with_reducible refine Kept.count ?_
    | with_reducible refine Kept.writeRaw ?_
    | with_reducible refine Kept.tileFault ?_
    | with_reducible refine Kept.badChange ?_
    | split

theorem Kept.putRebuilt {live : Bool} {s₀ s : State} {st : Desc} {planes : List (Nat × Desc)} {b : Rebuilt} (h : Kept live s₀ s) :
    Kept live s₀ (State.putRebuilt s st planes b) := by
  unfold State.putRebuilt
  repeat' first
    | with_reducible assumption
    | with_reducible refine Kept.writeRun ?_
    | with_reducible refine Kept.writeCodes ?_
    | with_reducible refine Kept.foldl ?_ (fun _ _ _ => ?_) _

theorem Kept.maskAgreed {live : Bool} {s₀ s : State} {c : Core} {r : Nat} {x : Ctx} {mins : List Nat} {maxs : List Nat} (h : Kept live s₀ s) :
    Kept live s₀ (State.maskAgreed s c r x mins maxs) := by
  unfold State.maskAgreed
  repeat' first
    | with_reducible assumption
    | with_reducible refine Kept.abortWith ?_
    | with_reducible refine Kept.finish ?_
    | with_reducible refine Kept.ite ?_ ?_
    | (fail_if_no_progress (with_reducible refine Kept.ofParts ?_; (try dsimp only []); with_reducible refine Kept.parts ?_))

theorem Kept.applyEffect {live : Bool} {s₀ s : State} {x : Ctx} {y1 : QRec} (h : Kept live s₀ s) :
    Kept live s₀ (Sys2Proof.Machine.applyEffect x y1 s) := by
  unfold Sys2Proof.Machine.applyEffect
  try dsimp only []
  repeat' first
    | with_reducible assumption
    | with_reducible refine Kept.stampPlane ?_
    | with_reducible refine Kept.countInexact ?_
    | with_reducible refine Kept.charge ?_
    | with_reducible refine Kept.writeRun ?_
    | with_reducible refine Kept.clearStatus ?_
    | with_reducible refine Kept.tileFault ?_
    | with_reducible refine Kept.abortWith ?_
    | with_reducible refine Kept.putRebuilt ?_
    | with_reducible refine Kept.badChange ?_
    | with_reducible refine Kept.setSync ?_
    | with_reducible refine Kept.foldl ?_ (fun _ _ _ => ?_) _
    | split

theorem Kept.maskCommitEffect {live : Bool} {s₀ s : State} {c : Core} {r : Nat} {x : Ctx} {y3 : QRec} (h : Kept live s₀ s) :
    Kept live s₀ (Sys2Proof.Machine.maskCommitEffect c r x y3 s) := by
  unfold Sys2Proof.Machine.maskCommitEffect
  try dsimp only []
  repeat' first
    | with_reducible assumption
    | with_reducible refine Kept.maskAgreed ?_
    | (with_reducible apply Kept.contribute_eq; case e => assumption)
    | split

theorem Kept.stashReadEffect {live : Bool} {s₀ s : State} {x : Ctx} {y1 : QRec} (h : Kept live s₀ s) :
    Kept live s₀ (Sys2Proof.Machine.stashReadEffect x y1 s) := by
  unfold Sys2Proof.Machine.stashReadEffect
  try dsimp only []
  repeat' first
    | with_reducible assumption
    | with_reducible refine Kept.writeRaw ?_
    | with_reducible refine Kept.stampPlane ?_
    | with_reducible refine Kept.abortWith ?_
    | split

theorem Kept.moveBits {live : Bool} {s₀ s : State} {x : Ctx} {src : Desc} {tgt : Desc} {nt : Nat} (h : Kept live s₀ s) :
    Kept live s₀ (State.moveBits s x src tgt nt) := by
  unfold State.moveBits
  repeat' first
    | with_reducible assumption
    | with_reducible refine Kept.writeCodes ?_
    | with_reducible refine Kept.padSideBand ?_
    | with_reducible refine Kept.writeRaw ?_
    | with_reducible refine Kept.foldl ?_ (fun _ _ _ => ?_) _
    | split

theorem Kept.writeDirRow {live : Bool} {s₀ s : State} {x : Ctx} {dir : Desc} {a : StashAlloc} (h : Kept live s₀ s) :
    Kept live s₀ (State.writeDirRow s x dir a) := by
  unfold State.writeDirRow
  repeat' with_reducible first | assumption | refine Kept.writeCodes ?_

theorem Kept.stashWriteEffect {live : Bool} {s₀ s : State} {x : Ctx} {q : QRec} (h : Kept live s₀ s) :
    Kept live s₀ (Sys2Proof.Machine.stashWriteEffect x q s) := by
  unfold Sys2Proof.Machine.stashWriteEffect
  try dsimp only []
  repeat' first
    | with_reducible assumption
    | with_reducible refine Kept.count ?_
    | with_reducible refine Kept.charge ?_
    | with_reducible refine Kept.writeDirRow ?_
    | with_reducible refine Kept.stampPlane ?_
    | with_reducible refine Kept.putBytes ?_
    | with_reducible refine Kept.foldl ?_ (fun _ _ _ => ?_) _
    | with_reducible refine Kept.ite ?_ ?_
    | with_reducible refine Kept.dite (fun _ => ?_) (fun _ => ?_)
    | (fail_if_no_progress (with_reducible refine Kept.ofParts ?_; (try dsimp only []); with_reducible refine Kept.parts ?_))
    | split

theorem Kept.transposeEffect {live : Bool} {s₀ s : State} {x : Ctx} {y1 : QRec} (h : Kept live s₀ s) :
    Kept live s₀ (Sys2Proof.Machine.transposeEffect x y1 s) := by
  unfold Sys2Proof.Machine.transposeEffect
  repeat' first
    | with_reducible assumption
    | with_reducible refine Kept.writeFinal ?_
    | with_reducible refine Kept.stampPlane ?_
    | with_reducible refine Kept.charge ?_
    | split

theorem Kept.loadSync {live : Bool} {s₀ s : State} {p : Plan} {n : Nat} (h : Kept live s₀ s) :
    Kept live s₀ (State.loadSync s p n) := by
  unfold State.loadSync
  repeat' with_reducible first | assumption | refine Kept.setSync ?_ | split

theorem Kept.copyEffect {live : Bool} {s₀ s : State} {x : Ctx} {y1 : QRec} (h : Kept live s₀ s) :
    Kept live s₀ (Sys2Proof.Machine.copyEffect x y1 s) := by
  unfold Sys2Proof.Machine.copyEffect
  repeat' first
    | with_reducible assumption
    | with_reducible refine Kept.writeFinal ?_
    | with_reducible refine Kept.charge ?_
    | with_reducible refine Kept.loadSync ?_
    | with_reducible refine Kept.stampPlane ?_
    | with_reducible refine Kept.moveBits ?_
    | split

theorem Kept.sendPiece {live : Bool} {s₀ s : State} {o : Sender} {version : Nat} {dst : BitVec 16} {a : Nat} {bs : Bytes} (h : Kept live s₀ s) :
    Kept live s₀ (State.sendPiece s o version dst a bs) := by
  unfold State.sendPiece
  repeat' first
    | with_reducible assumption
    | with_reducible refine Kept.sendRouted ?_
    | with_reducible refine Kept.foldl ?_ (fun _ _ _ => ?_) _
    | (fail_if_no_progress (with_reducible refine Kept.ofParts ?_; (try dsimp only []); with_reducible refine Kept.parts ?_))

theorem Kept.sendWrite {live : Bool} {s₀ s : State} {o : Sender} {version : Nat} {dst : BitVec 16} {a : Nat} {bs : Bytes} (h : Kept live s₀ s) :
    Kept live s₀ (State.sendWrite s o version dst a bs) := by
  unfold State.sendWrite
  repeat' with_reducible first | assumption | refine Kept.sendPiece ?_ | refine Kept.foldl ?_ (fun _ _ _ => ?_) _

theorem Kept.sendStage {live : Bool} {s₀ s : State} {x : Ctx} {k : Nat} {nodes : List Piece} (h : Kept live s₀ s) :
    Kept live s₀ (State.sendStage s x k nodes) := by
  unfold State.sendStage
  try dsimp only []
  repeat' first
    | with_reducible assumption
    | with_reducible refine Kept.sendWrite ?_
    | with_reducible refine Kept.foldl ?_ (fun _ _ _ => ?_) _
    | split

theorem Kept.vuCharge {live : Bool} {s₀ s : State} {x : Ctx} {i : VuIn} (h : Kept live s₀ s) :
    Kept live s₀ (State.vuCharge s x i) := by
  unfold State.vuCharge
  repeat' with_reducible first | assumption | refine Kept.charge ?_

theorem Kept.vuWrite {live : Bool} {s₀ s : State} {x : Ctx} {rows : List (List Nat × List OutElem)} (h : Kept live s₀ s) :
    Kept live s₀ (State.vuWrite s x rows) := by
  unfold State.vuWrite
  repeat' with_reducible first | assumption | refine Kept.writeFinal ?_ | refine Kept.stampPlane ?_ | split

theorem Kept.vuMap2 {live : Bool} {s₀ s : State} {f : Ctx → Val → Val → Val} {x : Ctx} {y2 : QRec} (h : Kept live s₀ s) :
    Kept live s₀ (Sys2Proof.Machine.vuMap2 f x y2 s) := by
  unfold Sys2Proof.Machine.vuMap2
  repeat' with_reducible first | assumption | refine Kept.vuCharge ?_ | refine Kept.vuWrite ?_ | split

theorem Kept.derivHuskEffect {live : Bool} {s₀ s : State} {y0 : Ctx} {y1 : QRec} (h : Kept live s₀ s) :
    Kept live s₀ (Sys2Proof.Machine.derivHuskEffect y0 y1 s) := by
  unfold Sys2Proof.Machine.derivHuskEffect
  repeat' with_reducible first | assumption | refine Kept.vuMap2 ?_

theorem Kept.vuMap1 {live : Bool} {s₀ s : State} {f : Rec → Val → Val} {x : Ctx} {y2 : QRec} (h : Kept live s₀ s) :
    Kept live s₀ (Sys2Proof.Machine.vuMap1 f x y2 s) := by
  unfold Sys2Proof.Machine.vuMap1
  repeat' with_reducible first | assumption | refine Kept.vuCharge ?_ | refine Kept.vuWrite ?_ | split

theorem Kept.reduceEffect {live : Bool} {s₀ s : State} {x : Ctx} {y1 : QRec} (h : Kept live s₀ s) :
    Kept live s₀ (Sys2Proof.Machine.reduceEffect x y1 s) := by
  unfold Sys2Proof.Machine.reduceEffect
  repeat' with_reducible first | assumption | refine Kept.vuCharge ?_ | refine Kept.vuWrite ?_ | split

theorem Kept.dropoutEffect {live : Bool} {s₀ s : State} {x : Ctx} {y1 : QRec} (h : Kept live s₀ s) :
    Kept live s₀ (Sys2Proof.Machine.dropoutEffect x y1 s) := by
  unfold Sys2Proof.Machine.dropoutEffect
  repeat' with_reducible first | assumption | refine Kept.vuWrite ?_ | split

theorem Kept.tableEffect {live : Bool} {s₀ s : State} {x : Ctx} {q : QRec} (h : Kept live s₀ s) :
    Kept live s₀ (Sys2Proof.Machine.tableEffect x q s) := by
  unfold Sys2Proof.Machine.tableEffect
  repeat' with_reducible first | assumption | refine Kept.vuMap1 ?_ | split

theorem Kept.derivTableEffect {live : Bool} {s₀ s : State} {x : Ctx} {q : QRec} (h : Kept live s₀ s) :
    Kept live s₀ (Sys2Proof.Machine.derivTableEffect x q s) := by
  unfold Sys2Proof.Machine.derivTableEffect
  repeat' with_reducible first | assumption | refine Kept.vuMap2 ?_ | split

theorem Kept.valueFault {live : Bool} {s₀ s : State} {x : Ctx} {e : TileErr × Nat} (h : Kept live s₀ s) :
    Kept live s₀ (State.valueFault s x e) := by
  unfold State.valueFault
  repeat' with_reducible first | assumption | refine Kept.tileFault ?_

theorem Kept.updateRow {live : Bool} {s₀ s : State} {d : Desc} {outer : List Nat} {ch : List (Nat × Nat)} (h : Kept live s₀ s) :
    Kept live s₀ (State.updateRow s d outer ch) := by
  unfold State.updateRow
  repeat' with_reducible first | assumption | refine Kept.writeCodes ?_

theorem Kept.updatePlane {live : Bool} {s₀ s : State} {d : Desc} {ch : List (List Nat × Nat × Nat)} (h : Kept live s₀ s) :
    Kept live s₀ (State.updatePlane s d ch) := by
  unfold State.updatePlane
  repeat' with_reducible first | assumption | refine Kept.updateRow ?_ | refine Kept.foldl ?_ (fun _ _ _ => ?_) _

theorem Kept.updateSlot {live : Bool} {s₀ s : State} {d : Desc} {slot : Nat} {t : TileData} {ch : List (Spot × Nat)} (h : Kept live s₀ s) :
    Kept live s₀ (State.updateSlot s d slot t ch) := by
  unfold State.updateSlot
  repeat' with_reducible first | assumption | refine Kept.writeRun ?_

theorem Kept.writeValues {live : Bool} {s₀ s : State} {v : Desc} {tv : Option Desc} {nt : Nat} {sl : SliceSpots} {ch : List (Spot × Nat)} (h : Kept live s₀ s) :
    Kept live s₀ (State.writeValues s v tv nt sl ch) := by
  unfold State.writeValues
  repeat' with_reducible first | assumption | refine Kept.updateSlot ?_ | refine Kept.updatePlane ?_ | split

theorem Kept.writeOpt {live : Bool} {s₀ s : State} {pl : OptPlanes} {tv : Option Desc} {nt : Nat} {sl : SliceSpots} {os : List OptOut} (h : Kept live s₀ s) :
    Kept live s₀ (State.writeOpt s pl tv nt sl os) := by
  unfold State.writeOpt
  repeat' with_reducible first | assumption | refine Kept.updatePlane ?_ | refine Kept.writeValues ?_ | split

theorem Kept.optEffect {live : Bool} {s₀ s : State} {x : Ctx} {y1 : QRec} (h : Kept live s₀ s) :
    Kept live s₀ (Sys2Proof.Machine.optEffect x y1 s) := by
  unfold Sys2Proof.Machine.optEffect
  try dsimp only []
  repeat' first
    | with_reducible assumption
    | with_reducible refine Kept.valueFault ?_
    | with_reducible refine Kept.stamp ?_
    | with_reducible refine Kept.clearStatus ?_
    | with_reducible refine Kept.countInexact ?_
    | with_reducible refine Kept.charge ?_
    | with_reducible refine Kept.writeOpt ?_
    | with_reducible refine Kept.foldl ?_ (fun _ _ _ => ?_) _
    | split

theorem Kept.composeEffect {live : Bool} {s₀ s : State} {x : Ctx} {y1 : QRec} (h : Kept live s₀ s) :
    Kept live s₀ (Sys2Proof.Machine.composeEffect x y1 s) := by
  unfold Sys2Proof.Machine.composeEffect
  repeat' first
    | with_reducible assumption
    | with_reducible refine Kept.valueFault ?_
    | with_reducible refine Kept.stamp ?_
    | with_reducible refine Kept.clearStatus ?_
    | with_reducible refine Kept.charge ?_
    | with_reducible refine Kept.updatePlane ?_
    | split

theorem Kept.prefetchEffect {live : Bool} {s₀ s : State} {x : Ctx} {y1 : QRec} (h : Kept live s₀ s) :
    Kept live s₀ (Sys2Proof.Machine.prefetchEffect x y1 s) := by
  unfold Sys2Proof.Machine.prefetchEffect
  repeat' with_reducible first | assumption | refine Kept.badList ?_ | split

theorem Kept.discardRead {live : Bool} {s₀ s : State} {c : Core} {r : Nat} (h : Kept live s₀ s) :
    Kept live s₀ (State.discardRead s c r) := by
  unfold State.discardRead
  repeat' with_reducible first | assumption | refine Kept.modQRec ?_ | refine Kept.addObj ?_

theorem Kept.landRead {live : Bool} {s₀ s : State} {c : Core} {r : Read} (h : Kept live s₀ s) :
    Kept live s₀ (State.landRead s c r) := by
  unfold State.landRead
  repeat' with_reducible first | assumption | refine Kept.cacheRead ?_

theorem Kept.landAll {live : Bool} {s₀ s : State} {c : Core} {r : Nat} (h : Kept live s₀ s) :
    Kept live s₀ (State.landAll s c r) := by
  unfold State.landAll
  repeat' first
    | with_reducible assumption
    | with_reducible refine Kept.landRead ?_
    | with_reducible refine Kept.modQRec ?_
    | with_reducible refine Kept.foldl ?_ (fun _ _ _ => ?_) _
    | split

theorem Kept.openFeed {live : Bool} {s₀ s : State} {p : Plan} {c : Core} {rc : Rec} {reqs : List (Nat × Nat)} (h : Kept live s₀ s) :
    Kept live s₀ (State.openFeed s p c rc reqs) := by
  unfold State.openFeed
  repeat' with_reducible first | assumption | refine Kept.modQRec ?_ | split


end Sys2Proof.Machine
end

