-- ==== Sys2Proof/Laws/KeptControl.lean ====
section
/-! SUPPORT. What the shared operations keep of the invariant, continued: freezes, losses, sparing, the sequencer, the
links, the memory transfers, and the thermal and memory faults. -/

namespace Sys2Proof.Machine

theorem Kept.freezeAt {live : Bool} {s₀ s : State} {c : Nat} {full : Bool} {byPin : Bool} {cause : Nat} {trigger : Nat} (h : Kept live s₀ s) :
    Kept live s₀ (State.freezeAt s c full byPin cause trigger) := by
  unfold State.freezeAt
  repeat' first
    | with_reducible assumption
    | with_reducible refine Kept.setObj ?_
    | (fail_if_no_progress (with_reducible refine Kept.ofParts ?_; (try dsimp only []); with_reducible refine Kept.parts ?_))
    | split

theorem Kept.driveFault {live : Bool} {s₀ s : State}  (h : Kept live s₀ s) :
    Kept live s₀ (State.driveFault s) := by
  unfold State.driveFault
  repeat' with_reducible first | assumption | (fail_if_no_progress (refine Kept.ofParts ?_; refine Kept.parts ?_))

/-- A change of sparings that keeps their cores keeps the core map sound. -/
theorem CoresOk.mapCopies {m : Vector Phys 48} {sp : Vector (Option Phys) 4} {l : List Sparing} (h : CoresOk m sp l)
    (f : Sparing → Sparing) (hl : ∀ x, (f x).logical = x.logical) (hs : ∀ x, (f x).spare = x.spare) :
    CoresOk m sp (l.map f) where
  ownDie := h.ownDie
  distinct := h.distinct
  spareDie := h.spareDie
  spareFree := h.spareFree
  copyDie := by
    intro x hx
    obtain ⟨y, hy, rfl⟩ := List.mem_map.1 hx
    rw [hl, hs]
    exact h.copyDie y hy
  copyFree := by
    intro x hx
    obtain ⟨y, hy, rfl⟩ := List.mem_map.1 hx
    rw [hs]
    exact h.copyFree y hy
  onePerDie := by
    rw [List.pairwise_map]
    simp only [hl]
    exact h.onePerDie

theorem Kept.releaseFreeze {live : Bool} {s₀ s : State} (h : Kept live s₀ s) : Kept live s₀ (State.releaseFreeze s) := by
  have k (n m : Nat) (fr : FreezeState) (pa : List (Nat × Nat)) (ps : Vector PortState 32) :
      Kept live s₀ { s with sparing := s.sparing.map (fun x => x.resumed n m), freeze := fr, pauses := pa, ports := ps } :=
    Kept.ofParts { h with cores := fun w => CoresOk.mapCopies (h.cores w) _ (fun _ => rfl) (fun _ => rfl) }
  unfold State.releaseFreeze
  exact Kept.ite (Kept.abortWith (k _ _ _ _ _)) (k _ _ _ _ _)

theorem Kept.gasp {live : Bool} {s₀ s : State} {cause : Nat} (h : Kept live s₀ s) :
    Kept live s₀ (State.gasp s cause) := by
  unfold State.gasp
  repeat' first
    | with_reducible assumption
    | with_reducible refine Kept.sendLink ?_
    | with_reducible refine Kept.foldl ?_ (fun _ _ _ => ?_) _
    | with_reducible refine Kept.ite ?_ ?_

theorem Kept.declareLost {live : Bool} {s₀ s : State}  (h : Kept live s₀ s) :
    Kept live s₀ (State.declareLost s) := by
  unfold State.declareLost
  repeat' first
    | with_reducible assumption
    | with_reducible refine Kept.gasp ?_
    | with_reducible refine Kept.driveFault ?_
    | with_reducible refine Kept.ite ?_ ?_
    | (fail_if_no_progress (with_reducible refine Kept.ofParts ?_; (try dsimp only []); with_reducible refine Kept.parts ?_))

theorem Kept.stopIslands {live : Bool} {s₀ s : State}  (h : Kept live s₀ s) :
    Kept live s₀ (State.stopIslands s) := by
  unfold State.stopIslands
  repeat' with_reducible first | assumption | (fail_if_no_progress (refine Kept.ofParts ?_; refine Kept.parts ?_))

theorem Kept.enterFull {live : Bool} {s₀ s : State}  (h : Kept live s₀ s) :
    Kept live s₀ (State.enterFull s) := by
  unfold State.enterFull
  repeat' first
    | with_reducible assumption
    | with_reducible refine Kept.stopIslands ?_
    | with_reducible refine Kept.ite ?_ ?_
    | (fail_if_no_progress (with_reducible refine Kept.ofParts ?_; (try dsimp only []); with_reducible refine Kept.parts ?_))

theorem Kept.sendFrozen {live : Bool} {s₀ s : State}  (h : Kept live s₀ s) :
    Kept live s₀ (State.sendFrozen s) := by
  unfold State.sendFrozen
  repeat' first
    | with_reducible assumption
    | with_reducible refine Kept.sendLink ?_
    | with_reducible refine Kept.foldl ?_ (fun _ _ _ => ?_) _
    | with_reducible refine Kept.ite ?_ ?_

theorem Kept.sendLoss {live : Bool} {s₀ s : State} {p : Port} {cause : Nat} (h : Kept live s₀ s) :
    Kept live s₀ (State.sendLoss s p cause) := by
  unfold State.sendLoss
  repeat' with_reducible first | assumption | refine Kept.flood ?_

theorem Kept.endAttempts {live : Bool} {s₀ s : State}  (h : Kept live s₀ s) :
    Kept live s₀ (State.endAttempts s) := by
  unfold State.endAttempts
  repeat' with_reducible first | assumption | (fail_if_no_progress (refine Kept.ofParts ?_; refine Kept.parts ?_))

theorem Kept.loseNode {live : Bool} {s₀ s : State} {node : BitVec 16} (h : Kept live s₀ s) :
    Kept live s₀ (State.loseNode s node) := by
  unfold State.loseNode
  repeat' first
    | with_reducible assumption
    | with_reducible refine Kept.abortWith ?_
    | with_reducible refine Kept.endAttempts ?_
    | with_reducible refine Kept.ite ?_ ?_
    | (fail_if_no_progress (with_reducible refine Kept.ofParts ?_; (try dsimp only []); with_reducible refine Kept.parts ?_))

theorem Kept.noteLoss {live : Bool} {s₀ s : State} {origin : BitVec 16} {a : LinkEnd} {b : LinkEnd} {cause : Nat} (h : Kept live s₀ s) :
    Kept live s₀ (State.noteLoss s origin a b cause) := by
  unfold State.noteLoss
  repeat' first
    | with_reducible assumption
    | with_reducible refine Kept.loseNode ?_
    | with_reducible refine Kept.abortStep ?_
    | with_reducible refine Kept.ite ?_ ?_
    | (fail_if_no_progress (with_reducible refine Kept.ofParts ?_; (try dsimp only []); with_reducible refine Kept.parts ?_))

theorem Kept.ownLoss {live : Bool} {s₀ s : State} {p : Port} {cause : Nat} (h : Kept live s₀ s) :
    Kept live s₀ (State.ownLoss s p cause) := by
  unfold State.ownLoss
  repeat' with_reducible first | assumption | refine Kept.noteLoss ?_

theorem Kept.floodLoss {live : Bool} {s₀ s : State} {p : Port} {cause : Nat} (h : Kept live s₀ s) :
    Kept live s₀ (State.floodLoss s p cause) := by
  unfold State.floodLoss
  repeat' with_reducible first | assumption | refine Kept.sendLoss ?_ | refine Kept.ownLoss ?_

theorem Kept.startSpare {live : Bool} {s₀ s : State} {x : Sparing} (h : Kept live s₀ s) :
    Kept live s₀ (s.startSpare x) := by
  have k := Kept.setIsland (i := x.physical.val) (st := .fenced) h
  unfold State.startSpare
  exact Kept.ofParts { k with cores := fun w => CoresOk.mapCopies (h.cores w) _ (fun y => by split <;> rfl)
                                        (fun y => by split <;> rfl) }

theorem Kept.cannotSpare {live : Bool} {s₀ s : State} {c : Core} (h : Kept live s₀ s) :
    Kept live s₀ (State.cannotSpare s c) := by
  unfold State.cannotSpare
  repeat' first
    | with_reducible assumption
    | with_reducible refine Kept.driveFault ?_
    | with_reducible refine Kept.event ?_
    | with_reducible refine Kept.setObj ?_
    | (fail_if_no_progress (with_reducible refine Kept.ofParts ?_; (try dsimp only []); with_reducible refine Kept.parts ?_))

/-- A sparing of a core whose die has a free spare keeps the core map sound. -/
theorem CoresOk.addCopy {s : State} (h : CoresOk s.coreMap s.spares s.sparing) {c : Core} {x : Sparing}
    (hx : s.spareFree c = some x.spare) (hl : x.logical = c) :
    CoresOk s.coreMap s.spares (s.sparing ++ [x]) := by
  unfold State.spareFree at hx
  split at hx
  · cases hx
  · rename_i hn
    simp only [List.any_eq_true, decide_eq_true_eq, not_exists, not_and] at hn
    subst hl
    refine ⟨h.ownDie, h.distinct, h.spareDie, h.spareFree, ?_, ?_, ?_⟩
    · intro y hy
      rcases List.mem_append.1 hy with hy | hy
      · exact h.copyDie y hy
      · obtain rfl := List.mem_singleton.1 hy
        exact h.spareDie _ _ hx
    · intro y hy
      rcases List.mem_append.1 hy with hy | hy
      · exact h.copyFree y hy
      · obtain rfl := List.mem_singleton.1 hy
        exact h.spareFree _ _ hx
    · rw [List.pairwise_append]
      refine ⟨h.onePerDie, List.pairwise_singleton _ _, ?_⟩
      intro y hy z hz
      obtain rfl := List.mem_singleton.1 hz
      exact hn y hy

theorem Kept.addCopy {live : Bool} {s₀ s : State} {c : Core} {x : Sparing} (h : Kept live s₀ s)
    (hx : s.spareFree c = some x.spare) (hl : x.logical = c) :
    Kept live s₀ { s with sparing := s.sparing ++ [x] } :=
  Kept.ofParts { h with cores := fun w => CoresOk.addCopy (h.cores w) hx hl }

theorem Kept.spareLasting {live : Bool} {s₀ s : State} {c : Core} (h : Kept live s₀ s) :
    Kept live s₀ (s.spareLasting c) := by
  unfold State.spareLasting
  split
  · exact Kept.ite (Kept.startSpare h) h
  · split
    · exact Kept.cannotSpare h
    · rename_i sp hsp
      exact Kept.startSpare (Kept.addCopy (x := ⟨c, s.physOf c, sp, none, false, 1⟩) h hsp rfl)

theorem Kept.lostData {live : Bool} {s₀ s : State} {a : Nat} (h : Kept live s₀ s) :
    Kept live s₀ (State.lostData s a) := by
  unfold State.lostData
  repeat' with_reducible first | assumption | refine Kept.setObj ?_ | split

theorem Kept.startScheduled {live : Bool} {s₀ s : State}  (h : Kept live s₀ s) :
    Kept live s₀ (State.startScheduled s) := by
  unfold State.startScheduled
  repeat' first
    | with_reducible assumption
    | with_reducible refine Kept.startSpare ?_
    | with_reducible refine Kept.foldl ?_ (fun _ _ _ => ?_) _
    | with_reducible refine Kept.ite ?_ ?_

theorem Kept.scheduleSpare {live : Bool} {s₀ s : State} {c : Core} {cause : Nat} (h : Kept live s₀ s) :
    Kept live s₀ (s.scheduleSpare c cause) := by
  unfold State.scheduleSpare
  refine Kept.ite h ?_
  split
  · exact h
  · rename_i sp hsp
    exact Kept.startScheduled (Kept.addCopy (x := ⟨c, s.physOf c, sp, none, false, cause⟩) h hsp rfl)

theorem Kept.checkTransients {live : Bool} {s₀ s : State} {p : Nat} (h : Kept live s₀ s) :
    Kept live s₀ (State.checkTransients s p) := by
  unfold State.checkTransients
  dsimp only []
  repeat' with_reducible first | assumption | refine Kept.scheduleSpare ?_ | refine Kept.setObj ?_ | split

theorem Kept.noteTransient {live : Bool} {s₀ s : State} {p : Nat} (h : Kept live s₀ s) :
    Kept live s₀ (State.noteTransient s p) := by
  unfold State.noteTransient
  repeat' first
    | with_reducible assumption
    | with_reducible refine Kept.checkTransients ?_
    | (fail_if_no_progress (with_reducible refine Kept.ofParts ?_; (try dsimp only []); with_reducible refine Kept.parts ?_))

/-- A commit of one sparing keeps the core map sound for those that are left (R17, R499). -/
theorem CoresOk.commit {m : Vector Phys 48} {sp : Vector (Option Phys) 4} {x : Sparing} {l : List Sparing}
    (h : CoresOk m sp (x :: l)) : CoresOk (m.set x.logical x.spare) (sp.set (coreDie x.logical) none) l := by
  have hd : x.spare.val / 13 = x.logical.val / 12 := h.copyDie x (by simp)
  have hf := h.copyFree x (by simp)
  have hp := (List.pairwise_cons.1 h.onePerDie)
  refine ⟨?_, ?_, ?_, ?_, ?_, ?_, hp.2⟩
  · intro c
    by_cases hc : c = x.logical
    · subst hc
      simpa using hd
    · have : (x.logical : Nat) ≠ c := fun e => hc (Fin.ext e.symm)
      simpa [this] using h.ownDie c
  · intro c d hcd
    by_cases hc : c = x.logical
    · by_cases hd' : d = x.logical
      · exact hc.trans hd'.symm
      · have e : (x.logical : Nat) ≠ d := fun e => hd' (Fin.ext e.symm)
        subst hc
        simp [e] at hcd
        exact absurd hcd.symm (hf d)
    · have e : (x.logical : Nat) ≠ c := fun e => hc (Fin.ext e.symm)
      by_cases hd' : d = x.logical
      · subst hd'
        simp [e] at hcd
        exact absurd hcd (hf c)
      · have e' : (x.logical : Nat) ≠ d := fun e => hd' (Fin.ext e.symm)
        simp [e, e'] at hcd
        exact h.distinct c d hcd
  · intro d p hp'
    by_cases e : ((coreDie x.logical) : Nat) = d
    · simp [e] at hp'
    · simp [e] at hp'
      exact h.spareDie d p hp'
  · intro d p hp' c
    by_cases e : ((coreDie x.logical) : Nat) = d
    · simp [e] at hp'
    · simp [e] at hp'
      by_cases hc : c = x.logical
      · subst hc
        have h1 := h.spareDie d p hp'
        simp only [Fin.getElem_fin, Vector.getElem_set_self, ne_eq]
        intro hs
        rw [← hs] at h1
        apply e
        simp only [coreDie]
        omega
      · have e : (x.logical : Nat) ≠ c := fun e => hc (Fin.ext e.symm)
        simpa [e] using h.spareFree d p hp' c
  · exact fun y hy => h.copyDie y (by simp [hy])
  · intro y hy c
    by_cases hc : c = x.logical
    · subst hc
      have h1 := h.copyDie y (by simp [hy])
      have h2 := hp.1 y hy
      simp only [Fin.getElem_fin, Vector.getElem_set_self, ne_eq]
      intro hs
      rw [← hs] at h1
      apply h2
      simp only [coreDie, Fin.mk.injEq]
      omega
    · have e : (x.logical : Nat) ≠ c := fun e => hc (Fin.ext e.symm)
      simpa [e] using h.copyFree y (by simp [hy]) c

/-- The parts of a state after a commit of one sparing, with the sparings that are left. -/
theorem KeptParts.commitSpare {live : Bool} {s₀ A : State} {x : Sparing} {l : List Sparing}
    (k : KeptParts live s₀ A.pending A.mem A.od A.gc.value A.log.recs A.auditLog A.replayLog A.mgmt.selections
      A.nv.fuses A.coreMap A.spares (x :: l) A.step.status A.plan) :
    KeptParts live s₀ (A.commitSpare x).pending (A.commitSpare x).mem (A.commitSpare x).od
      (A.commitSpare x).gc.value (A.commitSpare x).log.recs (A.commitSpare x).auditLog (A.commitSpare x).replayLog
      (A.commitSpare x).mgmt.selections (A.commitSpare x).nv.fuses (A.commitSpare x).coreMap
      (A.commitSpare x).spares l (A.commitSpare x).step.status (A.commitSpare x).plan := by
  have g : Kept live
      { A with coreMap := A.coreMap.set x.logical x.spare, spares := A.spares.set (coreDie x.logical) none }
      (A.commitSpare x) := Kept.mgmtEvent (Kept.setIsland (Kept.setIsland (Kept.refl _)))
  exact
    { queue := g.queue.trans k.queue
      memory := g.memory ∘ k.memory
      objects := g.objects ∘ k.objects
      counter := g.counter ∘ k.counter
      events := g.events ∘ k.events
      audits := g.audits ∘ k.audits
      replays := g.replays ∘ k.replays
      sources := g.sources ∘ k.sources
      fuses := k.fuses.trans g.fuses
      fuseCount := by
        have a := k.fuseCount
        have b := g.fuseCount
        simp only at b
        omega
      cores := fun w => by
        have e := CoresOk.commit (k.cores w)
        simpa [State.commitSpare] using e
      image := g.image ∘ k.image
      active := fun a => g.active a ∘ k.active a }

theorem Kept.commitEach {live : Bool} {s₀ : State} (due rest : List Sparing) (A : State) (hr : A.sparing = rest)
    (k : KeptParts live s₀ A.pending A.mem A.od A.gc.value A.log.recs A.auditLog A.replayLog A.mgmt.selections
      A.nv.fuses A.coreMap A.spares (due ++ rest) A.step.status A.plan) :
    Kept live s₀ (due.foldl State.commitSpare A) := by
  induction due generalizing A with
  | nil =>
    unfold Kept
    simp only [List.foldl_nil, hr]
    exact k
  | cons x due ih =>
    refine ih (A.commitSpare x) ?_ (KeptParts.commitSpare k)
    simpa [State.commitSpare] using hr

theorem Kept.commitSpares {live : Bool} {s₀ s : State} (h : Kept live s₀ s) : Kept live s₀ s.commitSpares := by
  unfold State.commitSpares
  dsimp only []
  refine Kept.ite h ?_
  refine Kept.foldl ?_ (fun _ _ => Kept.writeRun) _
  have k : Kept live s₀ ((s.sparing.filter Sparing.copied).foldl State.commitSpare
      { s with sparing := s.sparing.filter (fun x => !x.copied) }) := by
    refine Kept.commitEach _ _ _ rfl { h with cores := fun w => ?_ }
    have c := h.cores w
    have hp : (s.sparing.filter Sparing.copied ++ s.sparing.filter (fun x => !x.copied)).Perm s.sparing :=
      List.filter_append_perm _ _
    refine ⟨c.ownDie, c.distinct, c.spareDie, c.spareFree, fun x hx => c.copyDie x (hp.subset hx),
      fun x hx => c.copyFree x (hp.subset hx), ?_⟩
    exact (hp.pairwise_iff (fun e => Ne.symm e)).2 c.onePerDie
  exact Kept.ofParts (Kept.parts k)

theorem Kept.noteStart {live : Bool} {s₀ s : State} {c : Core} {r : Rec} (h : Kept live s₀ s) :
    Kept live s₀ (State.noteStart s c r) := by
  unfold State.noteStart
  repeat' with_reducible first | assumption | (fail_if_no_progress (refine Kept.ofParts ?_; refine Kept.parts ?_))

theorem Kept.addTally {live : Bool} {s₀ s : State} {c : Core} {t : Fin 64} {inc : Nat} (h : Kept live s₀ s) :
    Kept live s₀ (State.addTally s c t inc) := by
  unfold State.addTally
  repeat' first
    | with_reducible assumption
    | with_reducible refine Kept.modCore ?_
    | with_reducible refine Kept.abortWith ?_
    | with_reducible refine Kept.ite ?_ ?_

theorem Kept.gateEffect {live : Bool} {s₀ s : State} {x : Ctx} {y1 : QRec} (h : Kept live s₀ s) :
    Kept live s₀ (Sys2Proof.Machine.gateEffect x y1 s) := by
  unfold Sys2Proof.Machine.gateEffect
  repeat' with_reducible first | assumption | refine Kept.modCore ?_ | split

theorem Kept.started {live : Bool} {s₀ s : State} {p : Plan} {c : Core} {r : Rec} {q : QRec} (h : Kept live s₀ s) :
    Kept live s₀ (s.started p c r q) := by
  have k (A : State) (a : Kept live s₀ A) (l : List (Nat × Nat)) : Kept live s₀ { A with rotor := l } :=
    Kept.ofParts (Kept.parts a)
  unfold State.started
  split
  · exact Kept.ite (Kept.sendStage (k _ (Kept.noteStart h) _)) (k _ (Kept.noteStart h) _)
  · exact Kept.ite (Kept.sendStage (Kept.noteStart h)) (Kept.noteStart h)

theorem Kept.tryStart {live : Bool} {s₀ s : State} {p : Plan} {c : Core} {recno : Nat} (h : Kept live s₀ s) :
    Kept live s₀ (State.tryStart s p c recno) := by
  unfold State.tryStart
  try dsimp only []
  repeat' first
    | with_reducible assumption
    | with_reducible refine Kept.addObj ?_
    | with_reducible refine Kept.modQRec ?_
    | with_reducible refine Kept.started ?_
    | with_reducible refine Kept.abortWith ?_
    | split

theorem Kept.startCore {live : Bool} {s₀ s : State} {p : Plan} {c : Core} {pick : Rec → Bool} (h : Kept live s₀ s) :
    Kept live s₀ (State.startCore s p c pick) := by
  unfold State.startCore
  repeat' first
    | with_reducible assumption
    | with_reducible refine Kept.tryStart ?_
    | with_reducible refine Kept.foldl ?_ (fun _ _ _ => ?_) _
    | with_reducible refine Kept.ite ?_ ?_

theorem Kept.startAll {live : Bool} {s₀ s : State}  (h : Kept live s₀ s) :
    Kept live s₀ (State.startAll s) := by
  unfold State.startAll
  repeat' first
    | with_reducible assumption
    | with_reducible refine Kept.startCore ?_
    | with_reducible refine Kept.foldl ?_ (fun _ _ _ => ?_) _
    | split

theorem Kept.checkDone {live : Bool} {s₀ s : State} {c : Core} (h : Kept live s₀ s) :
    Kept live s₀ (State.checkDone s c) := by
  unfold State.checkDone
  repeat' with_reducible first | assumption | refine Kept.modCore ?_

theorem Kept.markWaits {live : Bool} {s₀ s : State} {c : Core} (h : Kept live s₀ s) :
    Kept live s₀ (State.markWaits s c) := by
  unfold State.markWaits
  repeat' with_reducible first | assumption | refine Kept.modCore ?_

theorem Kept.settle {live : Bool} {s₀ s : State} {c : Core} (h : Kept live s₀ s) :
    Kept live s₀ (State.settle s c) := by
  unfold State.settle
  repeat' with_reducible first | assumption | refine Kept.markWaits ?_ | refine Kept.startAll ?_

theorem Kept.sendSignal {live : Bool} {s₀ s : State} {c : Core} {g : Signal} (h : Kept live s₀ s) :
    Kept live s₀ (State.sendSignal s c g) := by
  unfold State.sendSignal
  repeat' first
    | with_reducible assumption
    | with_reducible refine Kept.sendRouted ?_
    | with_reducible refine Kept.ite ?_ ?_
    | with_reducible refine Kept.dite (fun _ => ?_) (fun _ => ?_)
    | (fail_if_no_progress (with_reducible refine Kept.ofParts ?_; (try dsimp only []); with_reducible refine Kept.parts ?_))

theorem Kept.sendSignals {live : Bool} {s₀ s : State} {c : Core} {r : Rec} (h : Kept live s₀ s) :
    Kept live s₀ (State.sendSignals s c r) := by
  unfold State.sendSignals
  repeat' with_reducible first | assumption | refine Kept.sendSignal ?_ | refine Kept.foldl ?_ (fun _ _ _ => ?_) _

theorem Kept.freeChain {live : Bool} {s₀ s : State} {p : Plan} {c : Core} {r : Rec} (h : Kept live s₀ s) :
    Kept live s₀ (State.freeChain s p c r) := by
  unfold State.freeChain
  repeat' first
    | with_reducible assumption
    | (fail_if_no_progress (with_reducible refine Kept.ofParts ?_; (try dsimp only []); with_reducible refine Kept.parts ?_))
    | split

theorem Kept.holdSlots {live : Bool} {s₀ s : State} {p : Plan} {c : Core} {rc : Rec} {q : QRec} (h : Kept live s₀ s) :
    Kept live s₀ (State.holdSlots s p c rc q) := by
  unfold State.holdSlots
  try dsimp only []
  repeat' first
    | with_reducible assumption
    | with_reducible refine Kept.freeChain ?_
    | (fail_if_no_progress (with_reducible refine Kept.ofParts ?_; (try dsimp only []); with_reducible refine Kept.parts ?_))
    | split

theorem Kept.transientOf {live : Bool} {s₀ s : State} {c : Core} {r : Rec} (h : Kept live s₀ s) :
    Kept live s₀ (State.transientOf s c r) := by
  unfold State.transientOf
  repeat' with_reducible first | assumption | refine Kept.noteTransient ?_ | refine Kept.ite ?_ ?_

theorem Kept.noteRetry {live : Bool} {s₀ s : State} {c : Core} {r : Rec} {q : QRec} (h : Kept live s₀ s) :
    Kept live s₀ (State.noteRetry s c r q) := by
  unfold State.noteRetry
  repeat' first
    | with_reducible assumption
    | with_reducible refine Kept.addObj ?_
    | with_reducible refine Kept.event ?_
    | with_reducible refine Kept.transientOf ?_
    | split

theorem Kept.noteOverrun {live : Bool} {s₀ s : State} {c : Core} {r : Rec} {q : QRec} (h : Kept live s₀ s) :
    Kept live s₀ (State.noteOverrun s c r q) := by
  unfold State.noteOverrun
  repeat' with_reducible first | assumption | refine Kept.addObj ?_ | refine Kept.ite ?_ ?_

theorem Kept.complete {live : Bool} {s₀ s : State} {p : Plan} {c : Core} {rc : Rec} {q : QRec} (h : Kept live s₀ s) :
    Kept live s₀ (State.complete s p c rc q) := by
  unfold State.complete
  repeat' first
    | with_reducible assumption
    | with_reducible refine Kept.checkDone ?_
    | with_reducible refine Kept.settle ?_
    | with_reducible refine Kept.modCore ?_
    | with_reducible refine Kept.sendSignals ?_
    | with_reducible refine Kept.holdSlots ?_
    | with_reducible refine Kept.noteRetry ?_
    | with_reducible refine Kept.noteOverrun ?_
    | with_reducible refine Kept.noteResults ?_
    | with_reducible refine Kept.runTaps ?_

theorem Kept.applySignal {live : Bool} {s₀ s : State} {sender : Nat} {c : Core} {t : Fin 64} {inc : Nat} {step : Nat} (h : Kept live s₀ s) :
    Kept live s₀ (State.applySignal s sender c t inc step) := by
  unfold State.applySignal
  try dsimp only []
  repeat' first
    | with_reducible assumption
    | with_reducible refine Kept.event ?_
    | with_reducible refine Kept.modCore ?_
    | with_reducible refine Kept.addTally ?_
    | with_reducible refine Kept.fenceHit ?_
    | with_reducible refine Kept.foldl ?_ (fun _ _ _ => ?_) _
    | with_reducible refine Kept.ite ?_ ?_
    | with_reducible refine Kept.dite (fun _ => ?_) (fun _ => ?_)
    | (fail_if_no_progress (with_reducible refine Kept.ofParts ?_; (try dsimp only []); with_reducible refine Kept.parts ?_))
    | split

theorem Kept.enqueue {live : Bool} {s₀ s : State} {p : Plan} {c : Core} {r : Rec} {stash : Option StashAlloc} (h : Kept live s₀ s) :
    Kept live s₀ (State.enqueue s p c r stash) := by
  unfold State.enqueue
  repeat' first
    | with_reducible assumption
    | with_reducible refine Kept.modCore ?_
    | with_reducible refine Kept.settle ?_
    | with_reducible refine Kept.noteStart ?_
    | with_reducible refine Kept.accessSlots ?_
    | with_reducible refine Kept.foldl ?_ (fun _ _ _ => ?_) _
    | with_reducible refine Kept.ite ?_ ?_
    | (fail_if_no_progress (with_reducible refine Kept.ofParts ?_; (try dsimp only []); with_reducible refine Kept.parts ?_))

theorem Kept.endDrain {live : Bool} {s₀ s : State} {c : Core} (h : Kept live s₀ s) :
    Kept live s₀ (State.endDrain s c) := by
  unfold State.endDrain
  repeat' with_reducible first | assumption | refine Kept.addObj ?_ | refine Kept.ite ?_ ?_

theorem Kept.issue {live : Bool} {s₀ s : State} {p : Plan} {c : Core} {r : Rec} (h : Kept live s₀ s) :
    Kept live s₀ (State.issue s p c r) := by
  unfold State.issue
  try dsimp only []
  repeat' first
    | with_reducible assumption
    | with_reducible refine Kept.enqueue ?_
    | with_reducible refine Kept.abortWith ?_
    | with_reducible refine Kept.endDrain ?_
    | with_reducible refine Kept.modCore ?_
    | split

theorem Kept.takeTile {live : Bool} {s₀ s : State} {p : Plan} {ch : Nat} {pos : Nat} {key : BitVec 16 × Nat} (h : Kept live s₀ s) :
    Kept live s₀ (State.takeTile s p ch pos key) := by
  unfold State.takeTile
  repeat' first
    | with_reducible assumption
    | with_reducible refine Kept.modQRec ?_
    | (fail_if_no_progress (with_reducible refine Kept.ofParts ?_; (try dsimp only []); with_reducible refine Kept.parts ?_))
    | split

theorem Kept.notePool {live : Bool} {s₀ s : State} {p : Plan} {pool : Nat} {waited : Bool} (h : Kept live s₀ s) :
    Kept live s₀ (State.notePool s p pool waited) := by
  unfold State.notePool
  repeat' with_reducible first | assumption | (fail_if_no_progress (refine Kept.ofParts ?_; refine Kept.parts ?_))

theorem Kept.chooseRoot {live : Bool} {s₀ s : State}  (h : Kept live s₀ s) :
    Kept live s₀ (State.chooseRoot s) := by
  unfold State.chooseRoot
  try dsimp only []
  repeat' first
    | with_reducible assumption
    | with_reducible refine Kept.mgmtEvent ?_
    | (fail_if_no_progress (with_reducible refine Kept.ofParts ?_; (try dsimp only []); with_reducible refine Kept.parts ?_))
    | split

theorem Kept.portLost {live : Bool} {s₀ s : State} {p : Port} {st : PortStatus} {cause : Nat} {code : BitVec 16} (h : Kept live s₀ s) :
    Kept live s₀ (State.portLost s p st cause code) := by
  unfold State.portLost
  try dsimp only []
  repeat' first
    | with_reducible assumption
    | with_reducible refine Kept.addObj ?_
    | with_reducible refine Kept.sendLoss ?_
    | with_reducible refine Kept.abortStep ?_
    | with_reducible refine Kept.ownLoss ?_
    | with_reducible refine Kept.chooseRoot ?_
    | with_reducible refine Kept.freeBuffer ?_
    | with_reducible refine Kept.setIsland ?_
    | with_reducible refine Kept.modPort ?_
    | with_reducible refine Kept.foldl ?_ (fun _ _ _ => ?_) _
    | with_reducible refine Kept.ite ?_ ?_
    | with_reducible refine Kept.dite (fun _ => ?_) (fun _ => ?_)
    | (fail_if_no_progress (with_reducible refine Kept.ofParts ?_; (try dsimp only []); with_reducible refine Kept.parts ?_))
    | split

theorem Kept.laneFails {live : Bool} {s₀ s : State} {p : Port} {lane : Fin 8} {rate : Bool} (h : Kept live s₀ s) :
    Kept live s₀ (State.laneFails s p lane rate) := by
  unfold State.laneFails
  try dsimp only []
  repeat' first
    | with_reducible assumption
    | with_reducible refine Kept.sendLink ?_
    | with_reducible refine Kept.modPort ?_
    | with_reducible refine Kept.event ?_
    | with_reducible refine Kept.portLost ?_
    | split

theorem Kept.judgeLanes {live : Bool} {s₀ s : State} {p : Port} (h : Kept live s₀ s) :
    Kept live s₀ (State.judgeLanes s p) := by
  unfold State.judgeLanes
  repeat' first
    | with_reducible assumption
    | with_reducible refine Kept.laneFails ?_
    | with_reducible refine Kept.foldl ?_ (fun _ _ _ => ?_) _
    | with_reducible refine Kept.ite ?_ ?_

theorem Kept.hear {live : Bool} {s₀ s : State} {p : Port} {f : Flit} (h : Kept live s₀ s) :
    Kept live s₀ (State.hear s p f) := by
  unfold State.hear
  repeat' with_reducible first | assumption | refine Kept.modPort ?_ | refine Kept.drainWait ?_

theorem Kept.flooded {live : Bool} {s₀ s : State} {p : Port} {ftype : BitVec 8} {f : Flit} {act : State → State} (h : Kept live s₀ s) (hact : ∀ a, Kept live s₀ a → Kept live s₀ (act a)) :
    Kept live s₀ (State.flooded s p ftype f act) := by
  unfold State.flooded
  repeat' first
    | with_reducible assumption
    | with_reducible apply hact
    | with_reducible refine Kept.floodOut ?_
    | with_reducible refine Kept.freeBuffer ?_
    | with_reducible refine Kept.ite ?_ ?_
    | (fail_if_no_progress (with_reducible refine Kept.ofParts ?_; (try dsimp only []); with_reducible refine Kept.parts ?_))

theorem Kept.nakOnce {live : Bool} {s₀ s : State} {p : Port} (h : Kept live s₀ s) :
    Kept live s₀ (State.nakOnce s p) := by
  unfold State.nakOnce
  repeat' first
    | with_reducible assumption
    | with_reducible refine Kept.sendLink ?_
    | with_reducible refine Kept.modPort ?_
    | with_reducible refine Kept.ite ?_ ?_

theorem Kept.noteHold {live : Bool} {s₀ s : State} {step : Nat} {shift : Nat} (h : Kept live s₀ s) :
    Kept live s₀ (State.noteHold s step shift) := by
  unfold State.noteHold
  repeat' with_reducible first | assumption | (fail_if_no_progress (refine Kept.ofParts ?_; refine Kept.parts ?_))

theorem Kept.hostLinkLost {live : Bool} {s₀ s : State}  (h : Kept live s₀ s) :
    Kept live s₀ (State.hostLinkLost s) := by
  unfold State.hostLinkLost
  repeat' with_reducible first | assumption | refine Kept.setObj ?_ | refine Kept.event ?_ | refine Kept.ite ?_ ?_

theorem Kept.groupDown {live : Bool} {s₀ s : State} {g : Fin 4} (h : Kept live s₀ s) :
    Kept live s₀ (State.groupDown s g) :=
  Kept.foldl h (fun _ _ k => Kept.ite (Kept.portLost k) k) _

theorem Kept.resend {live : Bool} {s₀ s : State} {p : Port} {e : BitVec 8 × Flit} (h : Kept live s₀ s) :
    Kept live s₀ (State.resend s p e) := by
  unfold State.resend
  repeat' first
    | with_reducible assumption
    | with_reducible refine Kept.modPort ?_
    | (fail_if_no_progress (with_reducible refine Kept.ofParts ?_; (try dsimp only []); with_reducible refine Kept.parts ?_))

theorem Kept.blockErrors {live : Bool} {s₀ s : State} {p : Port} {errors : Vector (Vector Nat 8) 4} (h : Kept live s₀ s) :
    Kept live s₀ (State.blockErrors s p errors) := by
  unfold State.blockErrors
  repeat' first
    | with_reducible assumption
    | with_reducible refine Kept.nakOnce ?_
    | with_reducible refine Kept.addObj ?_
    | with_reducible refine Kept.modPort ?_
    | with_reducible refine Kept.judgeLanes ?_
    | with_reducible refine Kept.ite ?_ ?_

theorem Kept.routed {live : Bool} {s₀ s : State} {p : Port} {ftype : BitVec 8} {f : Flit} {deliver : State → State} (h : Kept live s₀ s) (hdeliver : ∀ a, Kept live s₀ a → Kept live s₀ (deliver a)) :
    Kept live s₀ (State.routed s p ftype f deliver) := by
  unfold State.routed
  repeat' first
    | with_reducible assumption
    | with_reducible apply hdeliver
    | with_reducible refine Kept.addObj ?_
    | with_reducible refine Kept.abortWith ?_
    | with_reducible refine Kept.freeBuffer ?_
    | with_reducible refine Kept.forward ?_
    | with_reducible refine Kept.ite ?_ ?_

theorem Kept.land {live : Bool} {s₀ s : State} {a : Nat} {bs : Bytes} (h : Kept live s₀ s) :
    Kept live s₀ (State.land s a bs) := by
  unfold State.land
  repeat' first
    | with_reducible assumption
    | with_reducible refine Kept.writeRun ?_
    | with_reducible refine Kept.ite ?_ ?_
    | (fail_if_no_progress (with_reducible refine Kept.ofParts ?_; (try dsimp only []); with_reducible refine Kept.parts ?_))

theorem Kept.dropTransfer {live : Bool} {s₀ s : State} {src : BitVec 16} {xid : Nat} (h : Kept live s₀ s) :
    Kept live s₀ (State.dropTransfer s src xid) := by
  unfold State.dropTransfer
  repeat' with_reducible first | assumption | (fail_if_no_progress (refine Kept.ofParts ?_; refine Kept.parts ?_))

theorem Kept.roundDone {live : Bool} {s₀ s : State} {name : RoundName} {mins : List Nat} {maxs : List Nat} (h : Kept live s₀ s) :
    Kept live s₀ (State.roundDone s name mins maxs) := by
  unfold State.roundDone
  repeat' first
    | with_reducible assumption
    | with_reducible refine Kept.maskAgreed ?_
    | (fail_if_no_progress (with_reducible refine Kept.ofParts ?_; (try dsimp only []); with_reducible refine Kept.parts ?_))
    | split

theorem Kept.endTransfer {live : Bool} {s₀ s : State} {t : Inbound} (h : Kept live s₀ s) :
    Kept live s₀ (State.endTransfer s t) := by
  unfold State.endTransfer
  repeat' first
    | with_reducible assumption
    | with_reducible refine Kept.sendRouted ?_
    | with_reducible refine Kept.dropTransfer ?_
    | with_reducible refine Kept.ite ?_ ?_

theorem GcState.jump_range (g : GcState) (d : Int) : (g.jump d).value < 2 ^ 64 := by
  unfold GcState.jump
  simp only
  omega

theorem Kept.takeSample {live : Bool} {s₀ s : State} {off : Int} (h : Kept live s₀ s) :
    Kept live s₀ (s.takeSample off) := by
  have k (g : GcState) (e : g.value = s.gc.value) : Kept live s₀ { s with gc := g } :=
    Kept.ofParts { h with counter := fun w => by rw [e]; exact h.counter w }
  unfold State.takeSample
  dsimp only []
  refine Kept.ite ?_ (Kept.ite (Kept.ite (k _ rfl) (Kept.mgmtEvent (k _ rfl))) (k _ rfl))
  exact Kept.ofParts { h with counter := fun _ => GcState.jump_range _ _ }

theorem Kept.ignoredPulse {live : Bool} {s₀ s : State} {i : Fin 3} (h : Kept live s₀ s) :
    Kept live s₀ (State.ignoredPulse s i) := by
  unfold State.ignoredPulse
  repeat' with_reducible first | assumption | refine Kept.addObj ?_ | refine Kept.eventLimited ?_

theorem Kept.noStandby {live : Bool} {s₀ s : State} (h : Kept live s₀ s) : Kept live s₀ (State.noStandby s) :=
  Kept.ofParts (Kept.parts (Kept.setObj (idx := 0x5032) (sub := 1) (v := 2) h))

theorem Kept.takeover {live : Bool} {s₀ s : State} (h : Kept live s₀ s) : Kept live s₀ (State.takeover s) := by
  have k : Kept live s₀ (s.setIsland 0x78 .fenced).noStandby := Kept.noStandby (Kept.setIsland h)
  unfold State.takeover
  exact Kept.mgmtEvent (Kept.ofParts (Kept.parts k))

theorem Kept.markRow {live : Bool} {s₀ s : State} {r : Nat} (h : Kept live s₀ s) :
    Kept live s₀ (State.markRow s r) := by
  unfold State.markRow
  repeat' first
    | with_reducible assumption
    | with_reducible refine Kept.ite ?_ ?_
    | (fail_if_no_progress (with_reducible refine Kept.ofParts ?_; (try dsimp only []); with_reducible refine Kept.parts ?_))

theorem Kept.poisonWord {live : Bool} {s₀ s : State} {a : Nat} (h : Kept live s₀ s) :
    Kept live s₀ (State.poisonWord s a) := by
  unfold State.poisonWord
  repeat' first
    | with_reducible assumption
    | with_reducible refine Kept.event ?_
    | with_reducible refine Kept.markRow ?_
    | with_reducible refine Kept.ite ?_ ?_
    | (fail_if_no_progress (with_reducible refine Kept.ofParts ?_; (try dsimp only []); with_reducible refine Kept.parts ?_))

theorem Kept.repairRow {live : Bool} {s₀ s : State} {r : Nat} (h : Kept live s₀ s) :
    Kept live s₀ (State.repairRow s r) := by
  have k : Kept live s₀ { s with rowErrors := dropKey r s.rowErrors } := Kept.ofParts (Kept.parts h)
  have n (nv : NonVolatile) (e : nv.fuses = s.nv.fuses) :
      Kept live s₀ { s with rowErrors := dropKey r s.rowErrors, nv := nv } :=
    Kept.ofParts { h with fuses := by rw [e]; exact h.fuses, fuseCount := by rw [e]; exact h.fuseCount }
  unfold State.repairRow
  exact Kept.ite (Kept.event (Kept.ofParts (Kept.parts k))) (Kept.event (Kept.setObj (n _ rfl)))

theorem Kept.warmStep {live : Bool} {s₀ s : State} {h' : Stack} {t : Val} (h : Kept live s₀ s) :
    Kept live s₀ (State.warmStep s h' t) := by
  unfold State.warmStep
  repeat' first
    | with_reducible assumption
    | with_reducible refine Kept.event ?_
    | with_reducible refine Kept.ite ?_ ?_
    | (fail_if_no_progress (with_reducible refine Kept.ofParts ?_; (try dsimp only []); with_reducible refine Kept.parts ?_))

/-- Fewer sparings keep the core map sound. -/
theorem CoresOk.filterCopies {m : Vector Phys 48} {sp : Vector (Option Phys) 4} {l : List Sparing} (h : CoresOk m sp l)
    (f : Sparing → Bool) : CoresOk m sp (l.filter f) where
  ownDie := h.ownDie
  distinct := h.distinct
  spareDie := h.spareDie
  spareFree := h.spareFree
  copyDie := fun x hx => h.copyDie x (List.mem_of_mem_filter hx)
  copyFree := fun x hx => h.copyFree x (List.mem_of_mem_filter hx)
  onePerDie := h.onePerDie.filter f

theorem Kept.dropSparing {live : Bool} {s₀ s : State} {x : Sparing} (h : Kept live s₀ s) :
    Kept live s₀ (s.dropSparing x) := by
  have k (w : List (Nat × Bytes)) : Kept live s₀
      { s with sparing := s.sparing.filter (fun y => y.logical ≠ x.logical), heldWrites := w } :=
    Kept.ofParts { h with cores := fun w => CoresOk.filterCopies (h.cores w) _ }
  unfold State.dropSparing
  exact Kept.ite (Kept.cannotSpare (k _)) (k _)

/-- Fewer spares keep the core map sound. -/
theorem CoresOk.fewerSpares {m : Vector Phys 48} {sp sp' : Vector (Option Phys) 4} {l : List Sparing} (h : CoresOk m sp l)
    (sub : ∀ (d : Fin 4) (q : Phys), sp'[d] = some q → sp[d] = some q) : CoresOk m sp' l :=
  ⟨h.ownDie, h.distinct, fun d q hq => h.spareDie d q (sub d q hq), fun d q hq => h.spareFree d q (sub d q hq),
    h.copyDie, h.copyFree, h.onePerDie⟩

theorem Kept.spareLost {live : Bool} {s₀ s : State} {p : Nat} (h : Kept live s₀ s) : Kept live s₀ (s.spareLost p) := by
  have k (A : State) (a : Kept live s₀ A) : Kept live s₀
      { A with spares := vmap (fun (x : Option Phys) => if x.map Fin.val = some p then none else x) A.spares } := by
    refine Kept.ofParts { a with cores := fun w => CoresOk.fewerSpares (a.cores w) ?_ }
    intro d q hq
    simp only [vmap, Fin.getElem_fin, Vector.getElem_mk, List.getElem_toArray, List.getElem_map,
      Vector.getElem_toList] at hq
    split at hq
    · cases hq
    · exact hq
  unfold State.spareLost
  exact Kept.foldl (k _ (Kept.setIsland h)) (fun _ _ => Kept.dropSparing) _

theorem Kept.landAborted {live : Bool} {s₀ s : State} {c : Core} {q : QRec} (h : Kept live s₀ s) :
    Kept live s₀ (State.landAborted s c q) := by
  unfold State.landAborted
  try dsimp only []
  repeat' first
    | with_reducible assumption
    | with_reducible refine Kept.addObj ?_
    | with_reducible refine Kept.modCore ?_
    | with_reducible refine Kept.foldl ?_ (fun _ _ _ => ?_) _
    | with_reducible refine Kept.ite ?_ ?_
    | with_reducible refine Kept.dite (fun _ => ?_) (fun _ => ?_)
    | (fail_if_no_progress (with_reducible refine Kept.ofParts ?_; (try dsimp only []); with_reducible refine Kept.parts ?_))
    | split

theorem Kept.coreStopped {live : Bool} {s₀ s : State} {p : Nat} (h : Kept live s₀ s) :
    Kept live s₀ (s.coreStopped p) := by
  unfold State.coreStopped
  split
  · exact Kept.spareLasting (Kept.abortStep (Kept.setIsland h))
  · exact Kept.spareLost h

theorem Kept.hotStep {live : Bool} {s₀ s : State} {h' : Stack} {t : Val} (h : Kept live s₀ s) :
    Kept live s₀ (State.hotStep s h' t) := by
  unfold State.hotStep
  repeat' first
    | with_reducible assumption
    | with_reducible refine Kept.ite ?_ ?_
    | (fail_if_no_progress (with_reducible refine Kept.ofParts ?_; (try dsimp only []); with_reducible refine Kept.parts ?_))

theorem Kept.coolStep {live : Bool} {s₀ s : State} {h' : Stack} {t : Val} (h : Kept live s₀ s) :
    Kept live s₀ (State.coolStep s h' t) := by
  unfold State.coolStep
  repeat' first
    | with_reducible assumption
    | with_reducible refine Kept.event ?_
    | with_reducible refine Kept.ite ?_ ?_
    | (fail_if_no_progress (with_reducible refine Kept.ofParts ?_; (try dsimp only []); with_reducible refine Kept.parts ?_))

theorem Kept.keepScan {live : Bool} {s₀ s : State} {hs : List Stack} {es : Vector StackScan 8} (h : Kept live s₀ s) :
    Kept live s₀ (s.keepScan hs es) :=
  Kept.ofParts (Kept.parts h)

theorem Kept.moduleFails {live : Bool} {s₀ s : State} {code : BitVec 16} (h : Kept live s₀ s) :
    Kept live s₀ (State.moduleFails s code) := by
  unfold State.moduleFails
  repeat' with_reducible first | assumption | refine Kept.abortStep ?_ | refine Kept.declareLost ?_

theorem Kept.latch {live : Bool} {s₀ s : State} {cause : Nat} (h : Kept live s₀ s) :
    Kept live s₀ (State.latch s cause) := by
  unfold State.latch
  repeat' first
    | with_reducible assumption
    | with_reducible refine Kept.ite ?_ ?_
    | (fail_if_no_progress (with_reducible refine Kept.ofParts ?_; (try dsimp only []); with_reducible refine Kept.parts ?_))

theorem Kept.repairRows {live : Bool} {s₀ s : State}  (h : Kept live s₀ s) :
    Kept live s₀ (State.repairRows s) := by
  unfold State.repairRows
  repeat' first
    | with_reducible assumption
    | with_reducible refine Kept.repairRow ?_
    | with_reducible refine Kept.markRow ?_
    | with_reducible refine Kept.foldl ?_ (fun _ _ _ => ?_) _
    | (fail_if_no_progress (with_reducible refine Kept.ofParts ?_; (try dsimp only []); with_reducible refine Kept.parts ?_))

theorem Kept.refetchLine {live : Bool} {s₀ s : State} {die : Nat} {a : Nat} (h : Kept live s₀ s) :
    Kept live s₀ (State.refetchLine s die a) := by
  unfold State.refetchLine
  repeat' with_reducible first | assumption | refine Kept.addObj ?_ | refine Kept.event ?_

theorem Kept.noteCorrected {live : Bool} {s₀ s : State} {a : Nat} (h : Kept live s₀ s) :
    Kept live s₀ (State.noteCorrected s a) := by
  unfold State.noteCorrected
  repeat' first
    | with_reducible assumption
    | with_reducible refine Kept.markRow ?_
    | with_reducible refine Kept.addObj ?_
    | with_reducible refine Kept.ite ?_ ?_
    | (fail_if_no_progress (with_reducible refine Kept.ofParts ?_; (try dsimp only []); with_reducible refine Kept.parts ?_))

theorem Kept.noteUncorrectable {live : Bool} {s₀ s : State} {a : Nat} (h : Kept live s₀ s) :
    Kept live s₀ (State.noteUncorrectable s a) := by
  unfold State.noteUncorrectable
  repeat' with_reducible first | assumption | refine Kept.addObj ?_ | refine Kept.ite ?_ ?_

theorem Kept.commitCounts {live : Bool} {s₀ s : State}  (h : Kept live s₀ s) :
    Kept live s₀ (State.commitCounts s) := by
  unfold State.commitCounts
  repeat' first
    | with_reducible assumption
    | with_reducible refine Kept.addObj ?_
    | with_reducible refine Kept.foldl ?_ (fun _ _ _ => ?_) _
    | with_reducible refine Kept.ite ?_ ?_
    | (fail_if_no_progress (with_reducible refine Kept.ofParts ?_; (try dsimp only []); with_reducible refine Kept.parts ?_))



end Sys2Proof.Machine
end

