-- ==== Sys2Proof/Laws/KeptSteps.lean ====
section
/-! SUPPORT. What the shared operations keep of the invariant, continued: the commit of a step, the launch of the
next, restores, faults, and power and reset. -/

namespace Sys2Proof.Machine

theorem Kept.swapMgmt {live : Bool} {s₀ s : State}  (h : Kept live s₀ s) :
    Kept live s₀ (State.swapMgmt s) := by
  unfold State.swapMgmt
  repeat' first
    | with_reducible assumption
    | with_reducible refine Kept.setObj ?_
    | with_reducible refine Kept.mgmtEvent ?_
    | (fail_if_no_progress (with_reducible refine Kept.ofParts ?_; (try dsimp only []); with_reducible refine Kept.parts ?_))
    | split

theorem Kept.withStores {live : Bool} {s₀ s : State} (h : Kept live s₀ s) (nv : NonVolatile)
    (e : nv.fuses = s.nv.fuses) (r : Vector Program 9) : Kept live s₀ { s with nv := nv, running := r } :=
  Kept.ofParts { h with fuses := by rw [e]; exact h.fuses, fuseCount := by rw [e]; exact h.fuseCount }

theorem Kept.runProgram {live : Bool} {s₀ s : State} {k : Kind} {new : Program} (h : Kept live s₀ s) :
    Kept live s₀ (State.runProgram s k new) := by
  have g (A : State) (a : Kept live s₀ A) : Kept live s₀
      ((if k = 0 then (A.setObj 0x5101 (k.val + 1) 0).swapMgmt else A.setObj 0x5101 (k.val + 1) 0).mgmtEvent 0x7202
        (toLe 1 (k.val + 1))) :=
    Kept.mgmtEvent (Kept.ite (Kept.swapMgmt (Kept.setObj a)) (Kept.setObj a))
  exact g _ (Kept.withStores h _ rfl _)

theorem Kept.setPin {live : Bool} {s₀ s : State} {k : Kind} {digest : Nat} (h : Kept live s₀ s) :
    Kept live s₀ (State.setPin s k digest) := by
  unfold State.setPin
  try dsimp only []
  repeat' first
    | with_reducible assumption
    | with_reducible refine Kept.runProgram ?_
    | (fail_if_no_progress (with_reducible refine Kept.ofParts ?_; (try dsimp only []); with_reducible refine Kept.parts ?_))
    | split

theorem Kept.putValue {live : Bool} {s₀ s : State} {key : Nat} {v : Bytes} (h : Kept live s₀ s) :
    Kept live s₀ (State.putValue s key v) := by
  unfold State.putValue
  repeat' first
    | with_reducible assumption
    | with_reducible refine Kept.setObj ?_
    | with_reducible refine Kept.setPin ?_
    | with_reducible refine Kept.ite ?_ ?_
    | with_reducible refine Kept.dite (fun _ => ?_) (fun _ => ?_)

theorem Kept.commitReference {live : Bool} {s₀ s : State} {p : Plan} (h : Kept live s₀ s) :
    Kept live s₀ (State.commitReference s p) := by
  unfold State.commitReference
  repeat' first
    | with_reducible assumption
    | with_reducible refine Kept.setObj ?_
    | with_reducible refine Kept.mgmtEvent ?_
    | with_reducible refine Kept.foldl ?_ (fun _ _ _ => ?_) _
    | with_reducible refine Kept.ite ?_ ?_

theorem Kept.commitMap {live : Bool} {s₀ s : State}  (h : Kept live s₀ s) :
    Kept live s₀ (State.commitMap s) := by
  unfold State.commitMap
  repeat' first
    | with_reducible assumption
    | with_reducible refine Kept.endTransfer ?_
    | with_reducible refine Kept.commitSpares ?_
    | with_reducible refine Kept.foldl ?_ (fun _ _ _ => ?_) _

theorem Kept.commitSets {live : Bool} {s₀ s : State} {p : Plan} (h : Kept live s₀ s) :
    Kept live s₀ (State.commitSets s p) := by
  unfold State.commitSets
  repeat' first
    | with_reducible assumption
    | with_reducible refine Kept.setObj ?_
    | with_reducible refine Kept.foldl ?_ (fun _ _ _ => ?_) _
    | with_reducible refine Kept.ite ?_ ?_

theorem Kept.setFlag {live : Bool} {s₀ s : State} {a : Nat} {flag : Nat} (h : Kept live s₀ s) :
    Kept live s₀ (State.setFlag s a flag) := by
  unfold State.setFlag
  repeat' with_reducible first | assumption | refine Kept.writeRun ?_

theorem Kept.flipSlot {live : Bool} {s₀ s : State} {p : Plan} {recs : List AuditRec} {k : Nat × Nat} (h : Kept live s₀ s) :
    Kept live s₀ (State.flipSlot s p recs k) := by
  unfold State.flipSlot
  repeat' first
    | with_reducible assumption
    | with_reducible refine Kept.writeRun ?_
    | with_reducible refine Kept.setFlag ?_
    | with_reducible refine Kept.mgmtEvent ?_
    | split

theorem Kept.flipSlots {live : Bool} {s₀ s : State} {p : Plan} {recs : List AuditRec} (h : Kept live s₀ s) :
    Kept live s₀ (State.flipSlots s p recs) := by
  unfold State.flipSlots
  repeat' first
    | with_reducible assumption
    | with_reducible refine Kept.notice ?_
    | with_reducible refine Kept.flipSlot ?_
    | with_reducible refine Kept.foldl ?_ (fun _ _ _ => ?_) _
    | split

theorem Kept.commitCkpt {live : Bool} {s₀ s : State} {p : Plan} (h : Kept live s₀ s) :
    Kept live s₀ (State.commitCkpt s p) := by
  unfold State.commitCkpt
  try dsimp only []
  repeat' first
    | with_reducible assumption
    | with_reducible refine Kept.setObj ?_
    | with_reducible refine Kept.foldl ?_ (fun _ _ _ => ?_) _
    | with_reducible refine Kept.ite ?_ ?_
    | with_reducible refine Kept.dite (fun _ => ?_) (fun _ => ?_)
    | (fail_if_no_progress (with_reducible refine Kept.ofParts ?_; (try dsimp only []); with_reducible refine Kept.parts ?_))
    | split

theorem Kept.keepSetDigests {live : Bool} {s₀ s : State} {p : Plan} (h : Kept live s₀ s) :
    Kept live s₀ (State.keepSetDigests s p) := by
  unfold State.keepSetDigests
  repeat' with_reducible first | assumption | (fail_if_no_progress (refine Kept.ofParts ?_; refine Kept.parts ?_))

theorem Kept.commitMasks {live : Bool} {s₀ s : State} {p : Plan} (h : Kept live s₀ s) :
    Kept live s₀ (State.commitMasks s p) := by
  unfold State.commitMasks
  repeat' first
    | with_reducible assumption
    | with_reducible refine Kept.setObj ?_
    | with_reducible refine Kept.addObj ?_
    | with_reducible refine Kept.foldl ?_ (fun _ _ _ => ?_) _
    | with_reducible refine Kept.ite ?_ ?_

theorem keepLog_length {α : Type} (l : List α) : (keepLog l).length ≤ 65536 := by
  unfold keepLog
  simp only [List.length_drop]
  omega

theorem Kept.commitStep {live : Bool} {s₀ s : State} {p : Plan} (h : Kept live s₀ s) :
    Kept live s₀ (s.commitStep p) := by
  have log (A : State) (l : List AuditRec) (k : Kept live s₀ A) :
      Kept live s₀ { A with auditLog := keepLog l } := by
    have e := keepLog_length l
    generalize keepLog l = m at *
    exact Kept.ofParts { k with audits := fun _ => e }
  have shown (A : State) (t : List (Nat × List Nat)) (a b : List (Nat × Nat)) (k : Kept live s₀ A) :
      Kept live s₀ { A with tileStatus := t, poolLow := a, poolWaited := b } := Kept.ofParts (Kept.parts k)
  unfold State.commitStep
  extract_lets s1 s2 s3 s4 recs s5 s6
  have h4 : Kept live s₀ s4 := Kept.keepSetDigests (Kept.commitReference (Kept.commitMasks (Kept.commitSets
    (shown _ _ _ _ (Kept.commitCounts h)))))
  have h6 : Kept live s₀ s6 := Kept.commitCkpt (Kept.flipSlots (log s4 _ h4))
  exact Kept.setObj (Kept.addObj h6)

theorem Kept.commitStaged {live : Bool} {s₀ s : State} {gc : Nat} (h : Kept live s₀ s) :
    Kept live s₀ (State.commitStaged s gc) := by
  unfold State.commitStaged
  repeat' first
    | with_reducible assumption
    | with_reducible refine Kept.putValue ?_
    | with_reducible refine Kept.setObj ?_
    | with_reducible refine Kept.foldl ?_ (fun _ _ _ => ?_) _
    | with_reducible refine Kept.ite ?_ ?_
    | (fail_if_no_progress (with_reducible refine Kept.ofParts ?_; (try dsimp only []); with_reducible refine Kept.parts ?_))

theorem Kept.unstuck {live : Bool} {s₀ s : State} {p : Plan} (h : Kept live s₀ s) :
    Kept live s₀ (State.unstuck s p) := by
  unfold State.unstuck
  repeat' first
    | with_reducible assumption
    | with_reducible refine Kept.driveFault ?_
    | with_reducible refine Kept.ite ?_ ?_
    | (fail_if_no_progress (with_reducible refine Kept.ofParts ?_; (try dsimp only []); with_reducible refine Kept.parts ?_))

theorem Kept.initWindow {live : Bool} {s₀ s : State} {p : Plan} {w : Window} (h : Kept live s₀ s) :
    Kept live s₀ (State.initWindow s p w) := by
  unfold State.initWindow
  repeat' first
    | with_reducible assumption
    | with_reducible refine Kept.writeRun ?_
    | with_reducible refine Kept.foldl ?_ (fun _ _ _ => ?_) _
    | (fail_if_no_progress (with_reducible refine Kept.ofParts ?_; (try dsimp only []); with_reducible refine Kept.parts ?_))

theorem Kept.freshSet {live : Bool} {s₀ s : State} {i : Nat} {w : WeightSet} (h : Kept live s₀ s) :
    Kept live s₀ (State.freshSet s i w) := by
  unfold State.freshSet
  repeat' first
    | with_reducible assumption
    | with_reducible refine Kept.setVersion ?_
    | with_reducible refine Kept.setObj ?_
    | with_reducible refine Kept.foldl ?_ (fun _ _ _ => ?_) _
    | (fail_if_no_progress (with_reducible refine Kept.ofParts ?_; (try dsimp only []); with_reducible refine Kept.parts ?_))

theorem Kept.clearCounts {live : Bool} {s₀ s : State}  (h : Kept live s₀ s) :
    Kept live s₀ (State.clearCounts s) := by
  unfold State.clearCounts
  repeat' first
    | with_reducible assumption
    | with_reducible refine Kept.setObj ?_
    | with_reducible refine Kept.foldl ?_ (fun _ _ _ => ?_) _
    | with_reducible refine Kept.ite ?_ ?_
    | (fail_if_no_progress (with_reducible refine Kept.ofParts ?_; (try dsimp only []); with_reducible refine Kept.parts ?_))

/-- What an activation does after the image is in force. -/
theorem Kept.activateFrom {live : Bool} {s₀ A : State} {p : Plan} {old : Option Plan} (k : Kept live s₀ A) :
    Kept live s₀ ((p.windows.foldl (fun s w =>
      match old with
      | some o => if o.keepsWindow p w then s else s.initWindow p w
      | none => s.initWindow p w) ((p.weightSets.zipIdx).foldl (fun s (w, i) =>
        match old with
        | some o => if o.carries p i w then s else s.freshSet i w
        | none => s.freshSet i w) (p.values.foldl (fun s v =>
          match (objFind v.1 v.2.1).bind (fun o => o.ty.size) with
          | some _ => s.putValue (objKey v.1 v.2.1) v.2.2
          | none => s) ((p.preds.zipIdx).foldl (fun s (l, i) =>
            (s.setObj 0x2501 i l.policy.code).setObj 0x2504 i l.floor)
            ((((A.setObj 0x5001 0 0).setObj 0x5001 1 0).setObj 0x5003 0 0).clearCounts))))).unstuck p) := by
  refine Kept.unstuck (Kept.foldl (Kept.foldl (Kept.foldl (Kept.foldl (Kept.clearCounts
    (Kept.setObj (Kept.setObj (Kept.setObj k)))) (fun _ _ b => Kept.setObj (Kept.setObj b)) _) ?_ _)
    ?_ _) ?_ _)
  · intro b x hb
    split
    · exact Kept.putValue hb
    · exact hb
  · intro b x hb
    dsimp only []
    split
    · with_reducible refine Kept.ite hb (Kept.freshSet hb)
    · exact Kept.freshSet hb
  · intro b x hb
    split
    · with_reducible refine Kept.ite hb (Kept.initWindow hb)
    · exact Kept.initWindow hb

theorem Kept.activate {live : Bool} {s₀ s : State} {p : Plan} (h : Kept live s₀ s) :
    Kept live s₀ (s.activate p) := by
  have k (a : Option Bool) (c : Vector (List CacheLine) 4) (e : Vector (List Nat) 8) : Kept live s₀
      { s with plan := some p, activeSlot := a, caches := c, sheaves := e, activeSets := [] } :=
    Kept.ofParts { h with image := fun _ _ => rfl, active := fun _ _ => rfl }
  unfold State.activate
  exact Kept.activateFrom (k _ _ _)

/-- After an activation there is an active image (R41). -/
theorem State.activate_plan (s : State) (p : Plan) : (s.activate p).plan.isSome = true := by
  unfold State.activate
  exact (Kept.activateFrom (live := true) (Kept.refl _)).active rfl rfl

theorem Kept.commitConfig {live : Bool} {s₀ s : State} {swap : Option Plan} {gc : Nat} (h : Kept live s₀ s) :
    Kept live s₀ (State.commitConfig s swap gc) := by
  unfold State.commitConfig
  try dsimp only []
  repeat' first
    | with_reducible assumption
    | with_reducible refine Kept.setObj ?_
    | with_reducible refine Kept.activate ?_
    | with_reducible refine Kept.commitStaged ?_
    | (fail_if_no_progress (with_reducible refine Kept.ofParts ?_; (try dsimp only []); with_reducible refine Kept.parts ?_))
    | split

theorem Kept.activateSets {live : Bool} {s₀ s : State} {p : Plan} (h : Kept live s₀ s) :
    Kept live s₀ (State.activateSets s p) := by
  unfold State.activateSets
  repeat' first
    | with_reducible assumption
    | with_reducible refine Kept.mgmtEvent ?_
    | with_reducible refine Kept.foldl ?_ (fun _ _ _ => ?_) _
    | with_reducible refine Kept.ite ?_ ?_
    | (fail_if_no_progress (with_reducible refine Kept.ofParts ?_; (try dsimp only []); with_reducible refine Kept.parts ?_))

theorem Kept.dropCkpt {live : Bool} {s₀ s : State} {p : Plan} (h : Kept live s₀ s) :
    Kept live s₀ (State.dropCkpt s p) := by
  unfold State.dropCkpt
  repeat' with_reducible first | assumption | refine Kept.setObj ?_ | refine Kept.ite ?_ ?_

theorem Kept.applyHeld {live : Bool} {s₀ s : State} {n : Nat} {held : List (Core × List (Nat × Fin 64 × Nat))} (h : Kept live s₀ s) :
    Kept live s₀ (State.applyHeld s n held) := by
  unfold State.applyHeld
  repeat' first
    | with_reducible assumption
    | with_reducible refine Kept.addTally ?_
    | with_reducible refine Kept.foldl ?_ (fun _ _ _ => ?_) _
    | with_reducible refine Kept.ite ?_ ?_

theorem Kept.emptyBank {live : Bool} {s₀ s : State} {d : Desc} {bank : Nat} (h : Kept live s₀ s) :
    Kept live s₀ (State.emptyBank s d bank) := by
  unfold State.emptyBank
  repeat' with_reducible first | assumption | refine Kept.writeCodes ?_ | refine Kept.foldl ?_ (fun _ _ _ => ?_) _

theorem Kept.armStep {live : Bool} {s₀ s : State} {p : Plan} {l : LaunchPlan} (h : Kept live s₀ s)
    (hp : s.plan.isSome = true) : Kept live s₀ (s.armStep p l) :=
  Kept.ofParts { h with image := fun _ _ => hp }

theorem Kept.startStep {live : Bool} {s₀ s : State} {p : Plan} {l : LaunchPlan} (h : Kept live s₀ s)
    (hp : s.plan.isSome = true) : Kept live s₀ (s.startStep p l) := by
  have g (A : State) (a : Kept live s₀ A) (n : Nat) : Kept live s₀ (p.stashDirs.foldl (fun s d => match p.descAt d with
      | some d => s.emptyBank d n
      | none => s) A) := by
    refine Kept.foldl a (fun b x hb => ?_) _
    split
    · exact Kept.emptyBank hb
    · exact hb
  have m (n : List (Core × List (Nat × Fin 64 × Nat))) := Kept.applyHeld (n := l.step) (held := n)
    (Kept.dropCkpt (p := p) (g _ (Kept.setObj (idx := 0x2600) (sub := 4) (v := 1) (Kept.armStep (p := p) (l := l) h hp))
      (l.step % 2)))
  unfold State.startStep
  exact Kept.ite (Kept.abortStep (m _)) (m _)

theorem Kept.newAttempt {live : Bool} {s₀ s : State} {at' : Option Nat} (h : Kept live s₀ s) :
    Kept live s₀ (State.newAttempt s at') := by
  unfold State.newAttempt
  repeat' with_reducible first | assumption | (fail_if_no_progress (refine Kept.ofParts ?_; refine Kept.parts ?_))

theorem Kept.notReady {live : Bool} {s₀ s : State}  (h : Kept live s₀ s) :
    Kept live s₀ (State.notReady s) := by
  unfold State.notReady
  repeat' first
    | with_reducible assumption
    | with_reducible refine Kept.newAttempt ?_
    | with_reducible refine Kept.mgmtEvent ?_
    | with_reducible refine Kept.ite ?_ ?_
    | (fail_if_no_progress (with_reducible refine Kept.ofParts ?_; (try dsimp only []); with_reducible refine Kept.parts ?_))

theorem Kept.joinAttempt {live : Bool} {s₀ s : State} {p : Plan} (h : Kept live s₀ s) :
    Kept live s₀ (State.joinAttempt s p) := by
  unfold State.joinAttempt
  try dsimp only []
  repeat' first
    | with_reducible assumption
    | with_reducible refine Kept.roundDone ?_
    | (with_reducible apply Kept.contribute_eq; case e => assumption)
    | with_reducible refine Kept.mgmtEvent ?_
    | (fail_if_no_progress (with_reducible refine Kept.ofParts ?_; (try dsimp only []); with_reducible refine Kept.parts ?_))
    | split

theorem Kept.stopAttempts {live : Bool} {s₀ s : State} {cause : BitVec 16} (h : Kept live s₀ s) :
    Kept live s₀ (State.stopAttempts s cause) := by
  unfold State.stopAttempts
  repeat' first
    | with_reducible assumption
    | with_reducible refine Kept.abortStep ?_
    | with_reducible refine Kept.endAttempts ?_
    | with_reducible refine Kept.ite ?_ ?_

theorem Kept.decideLaunch {live : Bool} {s₀ s : State} {step : Nat} {shift : Nat} {relaunch : Bool} (h : Kept live s₀ s) :
    Kept live s₀ (State.decideLaunch s step shift relaunch) := by
  unfold State.decideLaunch
  repeat' first
    | with_reducible assumption
    | with_reducible refine Kept.mgmtEvent ?_
    | with_reducible refine Kept.stopAttempts ?_
    | with_reducible refine Kept.notReady ?_
    | with_reducible refine Kept.ite ?_ ?_
    | (fail_if_no_progress (with_reducible refine Kept.ofParts ?_; (try dsimp only []); with_reducible refine Kept.parts ?_))

theorem Kept.outcome {live : Bool} {s₀ s : State} {a : List Nat × List Nat} {b : List Nat × List Nat} (h : Kept live s₀ s) :
    Kept live s₀ (State.outcome s a b) := by
  unfold State.outcome
  repeat' first
    | with_reducible assumption
    | with_reducible refine Kept.abortStep ?_
    | with_reducible refine Kept.decideLaunch ?_
    | with_reducible refine Kept.notReady ?_
    | with_reducible refine Kept.newAttempt ?_
    | with_reducible refine Kept.mgmtEvent ?_
    | with_reducible refine Kept.stopAttempts ?_
    | with_reducible refine Kept.ite ?_ ?_
    | (fail_if_no_progress (with_reducible refine Kept.ofParts ?_; (try dsimp only []); with_reducible refine Kept.parts ?_))

theorem Kept.noteLaunch {live : Bool} {s₀ s : State} {l : LaunchPlan} {again : Bool} (h : Kept live s₀ s) :
    Kept live s₀ (s.noteLaunch l again) := by
  have log (A : State) (l : List ReplayRec) (k : Kept live s₀ A) :
      Kept live s₀ { A with replayLog := keepLog l } := by
    have e := keepLog_length l
    generalize keepLog l = m at *
    exact Kept.ofParts { k with replays := fun _ => e }
  unfold State.noteLaunch
  extract_lets s1 s2
  have h1 : Kept live s₀ s1 := Kept.setObj (Kept.setObj h)
  have h2 : Kept live s₀ s2 := Kept.ite (Kept.addObj h1) h1
  exact Kept.ite (log s2 _ h2) h2

theorem State.commitConfig_plan (s : State) (p : Plan) (g : Nat) :
    (s.commitConfig (some p) g).plan.isSome = true := by
  unfold State.commitConfig
  dsimp only [Option.isSome_some, Bool.or_true]
  simp only [Bool.or_true, if_true, State.setObj_plan]
  have e := State.activate_plan (s.commitStaged g) p
  split
  · simpa using e
  · exact e

theorem Kept.launch {live : Bool} {s₀ s : State} {l : LaunchPlan} (h : Kept live s₀ s) :
    Kept live s₀ (s.launch l) := by
  unfold State.launch
  extract_lets commits again s1 swap
  have h1 : Kept live s₀ s1 := by
    simp only [s1]
    split
    · exact Kept.ite (Kept.commitStep h) h
    · exact h
  split
  · exact Kept.endAttempts h1
  · rename_i p hp
    refine Kept.ite ?_ ?_
    · have k := Kept.endAttempts (Kept.mgmtEvent (code := 0x4905) (detail := []) h1)
      exact Kept.ofParts { k with image := fun _ x => by simp at x }
    · have hc : (s1.commitConfig swap l.gc).plan.isSome = true := by
        unfold State.imageAt at hp
        split at hp
        · rename_i q hq
          simp only [swap, hq]
          exact State.commitConfig_plan s1 q l.gc
        · exact (Kept.commitConfig (live := true) (Kept.refl s1)).active rfl (by rw [hp]; rfl)
      have kc := Kept.commitConfig (swap := swap) (gc := l.gc) h1
      have tail : ∀ A : State, Kept true A ((A.commitMap.repairRows.activateSets p).noteLaunch l again) :=
        fun A => Kept.noteLaunch (Kept.activateSets (Kept.repairRows (Kept.commitMap (Kept.refl A))))
      exact Kept.startStep (Kept.trans kc (Kept.weaken (tail _))) ((tail _).active rfl hc)

theorem Kept.writeBack {live : Bool} {s₀ s : State} {p : Plan} {c : CkptTable} {slot t : Nat} {rs : List Rec}
    (h : Kept live s₀ s) : Kept live s₀ (s.writeBack p c slot t rs).1 := by
  induction rs generalizing s with
  | nil => exact h
  | cons r rs ih =>
    unfold State.writeBack
    split
    · exact h
    · dsimp only []
      split
      · exact h
      · split
        · exact ih (Kept.putBytes h)
        · exact h

theorem Kept.writeBack_eq {live : Bool} {s₀ s u : State} {p : Plan} {c : CkptTable} {slot t : Nat} {rs : List Rec}
    {res} (h : Kept live s₀ s) (e : s.writeBack p c slot t rs = (u, res)) : Kept live s₀ u := by
  have k := Kept.writeBack (p := p) (c := c) (slot := slot) (t := t) (rs := rs) h
  rw [e] at k
  exact k

theorem Kept.failRestore {live : Bool} {s₀ s : State} (h : Kept live s₀ s) : Kept live s₀ s.failRestore := by
  have k : Kept live s₀ { s with restore := none, step := { s.step with status := .aborted } } :=
    Kept.ofParts { h with image := fun _ x => by simp at x }
  exact Kept.setObj (Kept.mgmtEvent k)

theorem Kept.adoptSlot {live : Bool} {s₀ s : State} {p : Plan} {c : CkptTable} {t : Nat} {b : Bytes} (h : Kept live s₀ s) :
    Kept live s₀ (State.adoptSlot s p c t b) := by
  unfold State.adoptSlot
  repeat' with_reducible first | assumption | refine Kept.setObj ?_ | refine Kept.writeRun ?_

theorem Kept.returnSlots {live : Bool} {s₀ s : State} {p : Plan} (h : Kept live s₀ s) :
    Kept live s₀ (State.returnSlots s p) := by
  unfold State.returnSlots
  repeat' first
    | with_reducible assumption
    | with_reducible refine Kept.setFlag ?_
    | with_reducible refine Kept.writeRun ?_
    | with_reducible refine Kept.foldl ?_ (fun _ _ _ => ?_) _
    | with_reducible refine Kept.ite ?_ ?_

theorem Kept.finishRestore {live : Bool} {s₀ s : State} {p : Plan} {t : Nat} (h : Kept live s₀ s) :
    Kept live s₀ (s.finishRestore p t) := by
  have k (f : List Nat) (n : Nat) : Kept live s₀ { s with restore := none, syncFlags := f, step :=
      { s.step with current := n, status := .idle, causes := [], relaunches := 0 } } :=
    Kept.ofParts { h with image := fun _ x => by simp at x }
  exact Kept.setObj (Kept.setObj (Kept.returnSlots (Kept.foldl (k _ _) (fun _ _ => Kept.setObj) _)))

theorem Kept.remirror {live : Bool} {s₀ s : State} {p : Plan} {c : CkptTable} {t : Nat} (h : Kept live s₀ s) :
    Kept live s₀ (State.remirror s p c t) := by
  unfold State.remirror
  repeat' with_reducible first | assumption | refine Kept.sendWrite ?_

theorem Kept.runRestore {live : Bool} {s₀ s : State} {x : Restore} {pulled : Option Bytes}
    (h : Kept live s₀ s) :
    Kept live s₀ (s.runRestore x pulled) := by
  unfold State.runRestore
  split
  · exact Kept.failRestore h
  · rename_i p hp
    split
    · exact Kept.failRestore h
    · rename_i c hc
      extract_lets slot ready
      have hr : ∀ t, ready = some t → Kept live s₀ t := by
        intro t ht
        simp only [ready] at ht
        split at ht
        · cases ht
          exact h
        · obtain ⟨b, _, hb⟩ := Option.bind_eq_some_iff.1 ht
          split at hb
          · cases hb
            exact Kept.adoptSlot h
          · cases hb
      clear_value ready
      split
      · exact Kept.failRestore h
      · rename_i t
        have k := hr t rfl
        split
        · exact Kept.failRestore k
        · split
          · have w := Kept.writeBack_eq k (by assumption)
            exact Kept.finishRestore (Kept.ite w (Kept.remirror w))
          · exact Kept.failRestore (Kept.writeBack_eq k (by assumption))

theorem Kept.askBuddy {live : Bool} {s₀ s : State} {t : Nat} (h : Kept live s₀ s) :
    Kept live s₀ (State.askBuddy s t) := by
  unfold State.askBuddy
  repeat' with_reducible first | assumption | refine Kept.sendRouted ?_ | split

theorem Kept.startRestore {live : Bool} {s₀ s : State} {t : Nat} (h : Kept live s₀ s) :
    Kept live s₀ (State.startRestore s t) := by
  have a (A : State) (x : Kept live s₀ A) (swap : Option Plan) : Kept live s₀ (match swap with
      | some p => { A.activate p with downLinks := [], lossAt := [], lossOrigins := [], lostNodes := [] }
      | none => A) := by
    split
    · exact Kept.ofParts (Kept.parts (Kept.activate x))
    · exact x
  have b (A : State) (x : Kept live s₀ A) (c : Bool) : Kept live s₀ (if c then
      ({ A with epochCommitGc := some A.gc.value }).setObj 0x1004 3 ((A.epoch + 1) % 2 ^ 32) else A) :=
    Kept.ite (Kept.setObj (Kept.ofParts (Kept.parts x))) x
  have d (A : State) (x : Kept live s₀ A) (r : Option Restore) : Kept live s₀
      (({ A with restore := r }).setObj 0x5023 1 1) := Kept.setObj (Kept.ofParts (Kept.parts x))
  have e (A : State) (x : Kept live s₀ A) (c : Bool) : Kept live s₀ (if c then A.askBuddy t else A) :=
    Kept.ite (Kept.askBuddy x) x
  exact d _ (e _ (Kept.repairRows (b _ (a _ (Kept.commitStaged h) _) _)) _) _

theorem Kept.shardStreamEffect {live : Bool} {s₀ s : State} {x : Ctx} {q : QRec} (h : Kept live s₀ s) :
    Kept live s₀ (Sys2Proof.Machine.shardStreamEffect x q s) := by
  unfold Sys2Proof.Machine.shardStreamEffect
  repeat' first
    | with_reducible assumption
    | with_reducible refine Kept.finish ?_
    | with_reducible refine Kept.modQRec ?_
    | with_reducible refine Kept.sendWrite ?_
    | with_reducible refine Kept.writeRun ?_
    | split

theorem Kept.shardVerifyEffect {live : Bool} {s₀ s : State} {x : Ctx} {y1 : QRec} (h : Kept live s₀ s) :
    Kept live s₀ (Sys2Proof.Machine.shardVerifyEffect x y1 s) := by
  unfold Sys2Proof.Machine.shardVerifyEffect
  dsimp only []
  repeat' with_reducible first | assumption | refine Kept.abortWith ?_ | split

theorem Kept.lastingFault {live : Bool} {s₀ s : State} {c : Core} {r : Rec} (h : Kept live s₀ s) :
    Kept live s₀ (State.lastingFault s c r) := by
  unfold State.lastingFault
  repeat' first
    | with_reducible assumption
    | with_reducible refine Kept.spareLasting ?_
    | with_reducible refine Kept.driveFault ?_
    | with_reducible refine Kept.setObj ?_
    | with_reducible refine Kept.event ?_
    | with_reducible refine Kept.declareLost ?_
    | with_reducible refine Kept.ite ?_ ?_
    | (fail_if_no_progress (with_reducible refine Kept.ofParts ?_; (try dsimp only []); with_reducible refine Kept.parts ?_))

theorem Kept.failRecord {live : Bool} {s₀ s : State} {c : Core} {r : Rec} {k : FaultKind} (h : Kept live s₀ s) :
    Kept live s₀ (State.failRecord s c r k) := by
  unfold State.failRecord
  repeat' first
    | with_reducible assumption
    | with_reducible refine Kept.abortStep ?_
    | with_reducible refine Kept.addObj ?_
    | with_reducible refine Kept.abortWith ?_
    | with_reducible refine Kept.lastingFault ?_
    | split

theorem Kept.writtenFault {live : Bool} {s₀ s : State} {c : Core} {r : Rec} {k : FaultKind} {code : BitVec 16} (h : Kept live s₀ s) :
    Kept live s₀ (State.writtenFault s c r k code) := by
  unfold State.writtenFault
  try dsimp only []
  repeat' first
    | with_reducible assumption
    | with_reducible refine Kept.abortWith ?_
    | with_reducible refine Kept.transientOf ?_
    | with_reducible refine Kept.addObj ?_
    | with_reducible refine Kept.failRecord ?_
    | (fail_if_no_progress (with_reducible refine Kept.ofParts ?_; (try dsimp only []); with_reducible refine Kept.parts ?_))
    | split

theorem Kept.collectiveFault {live : Bool} {s₀ s : State} {r : Rec} (h : Kept live s₀ s) :
    Kept live s₀ (State.collectiveFault s r) := by
  unfold State.collectiveFault
  repeat' first
    | with_reducible assumption
    | with_reducible refine Kept.event ?_
    | with_reducible refine Kept.declareLost ?_
    | with_reducible refine Kept.addObj ?_
    | with_reducible refine Kept.abortWith ?_
    | with_reducible refine Kept.ite ?_ ?_
    | (fail_if_no_progress (with_reducible refine Kept.ofParts ?_; (try dsimp only []); with_reducible refine Kept.parts ?_))

theorem Kept.attemptFault {live : Bool} {s₀ s : State} {p : Plan} {c : Core} {r : Rec} {q : QRec} {k : FaultKind} (h : Kept live s₀ s) :
    Kept live s₀ (State.attemptFault s p c r q k) := by
  unfold State.attemptFault
  repeat' first
    | with_reducible assumption
    | with_reducible refine Kept.modQRec ?_
    | with_reducible refine Kept.failRecord ?_
    | with_reducible refine Kept.writtenFault ?_
    | with_reducible refine Kept.collectiveFault ?_
    | split

theorem Kept.operandFault {live : Bool} {s₀ s : State} {p : Plan} {c : Core} {r : Rec} {q : QRec} {k : FaultKind} {a : Nat} {lost : Bool} (h : Kept live s₀ s) :
    Kept live s₀ (State.operandFault s p c r q k a lost) := by
  unfold State.operandFault
  repeat' first
    | with_reducible assumption
    | with_reducible refine Kept.failRecord ?_
    | with_reducible refine Kept.writtenFault ?_
    | with_reducible refine Kept.collectiveFault ?_
    | with_reducible refine Kept.lostData ?_
    | with_reducible refine Kept.poisonWord ?_
    | with_reducible refine Kept.abortStep ?_
    | with_reducible refine Kept.attemptFault ?_
    | with_reducible refine Kept.noteUncorrectable ?_
    | split

theorem Kept.qpFails {live : Bool} {s₀ s : State} {qp : Nat} (h : Kept live s₀ s) :
    Kept live s₀ (State.qpFails s qp) := by
  unfold State.qpFails
  repeat' with_reducible first | assumption | (fail_if_no_progress (refine Kept.ofParts ?_; refine Kept.parts ?_))

theorem Kept.notePoisonRead {live : Bool} {s₀ s : State} {a : Nat} {n : Nat} (h : Kept live s₀ s) :
    Kept live s₀ (State.notePoisonRead s a n) := by
  unfold State.notePoisonRead
  repeat' first
    | with_reducible assumption
    | with_reducible refine Kept.noteUncorrectable ?_
    | with_reducible refine Kept.foldl ?_ (fun _ _ _ => ?_) _

theorem Kept.rdmaReply {live : Bool} {s₀ s : State} {qp : Nat} {r : RdmaReply} (h : Kept live s₀ s) :
    Kept live s₀ (State.rdmaReply s qp r) := by
  unfold State.rdmaReply
  repeat' with_reducible first | assumption | (fail_if_no_progress (refine Kept.ofParts ?_; refine Kept.parts ?_))

theorem Kept.rdmaRefuse {live : Bool} {s₀ s : State} {qp : Nat} (h : Kept live s₀ s) :
    Kept live s₀ (State.rdmaRefuse s qp) := by
  unfold State.rdmaRefuse
  repeat' first
    | with_reducible assumption
    | with_reducible refine Kept.addObj ?_
    | with_reducible refine Kept.qpFails ?_
    | with_reducible refine Kept.rdmaReply ?_

theorem Kept.loadKey {live : Bool} {s₀ s : State} {b : StoreChecks} (h : Kept live s₀ s) :
    Kept live s₀ (State.loadKey s b) := by
  unfold State.loadKey
  try dsimp only []
  repeat' first
    | with_reducible assumption
    | with_reducible refine Kept.mgmtEvent ?_
    | with_reducible refine Kept.foldl ?_ (fun _ _ _ => ?_) _
    | with_reducible refine Kept.ite ?_ ?_
    | with_reducible refine Kept.dite (fun _ => ?_) (fun _ => ?_)
    | (fail_if_no_progress (with_reducible refine Kept.ofParts ?_; (try dsimp only []); with_reducible refine Kept.parts ?_))
    | split

theorem Kept.countSpareRows {live : Bool} {s₀ s : State}  (h : Kept live s₀ s) :
    Kept live s₀ (State.countSpareRows s) := by
  unfold State.countSpareRows
  repeat' with_reducible first | assumption | refine Kept.setObj ?_ | refine Kept.foldl ?_ (fun _ _ _ => ?_) _

theorem Kept.getReady {live : Bool} {s₀ s : State} {ms : Nat} (h : Kept live s₀ s) :
    Kept live s₀ (State.getReady s ms) := by
  unfold State.getReady
  repeat' first
    | with_reducible assumption
    | with_reducible refine Kept.freezeAt ?_
    | with_reducible refine Kept.setObj ?_
    | with_reducible refine Kept.ite ?_ ?_
    | (fail_if_no_progress (with_reducible refine Kept.ofParts ?_; (try dsimp only []); with_reducible refine Kept.parts ?_))

theorem Kept.bringupFails {live : Bool} {s₀ s : State} {cause : Nat} (h : Kept live s₀ s) :
    Kept live s₀ (State.bringupFails s cause) := by
  unfold State.bringupFails
  repeat' first
    | with_reducible assumption
    | with_reducible refine Kept.setObj ?_
    | with_reducible refine Kept.driveFault ?_
    | (fail_if_no_progress (with_reducible refine Kept.ofParts ?_; (try dsimp only []); with_reducible refine Kept.parts ?_))

theorem NonVolatile.settled_fuses (n : NonVolatile) : n.settled.fuses = n.fuses := rfl

/-- The core map as shipped is sound (R15). -/
theorem CoresOk.shipped : CoresOk shippedMap shippedSpares [] where
  ownDie := by decide
  distinct := by decide
  spareDie := by decide
  spareFree := by decide
  copyDie := by simp
  copyFree := by simp
  onePerDie := List.Pairwise.nil

theorem Kept.restarted {s₀ s : State} (h : Kept false s₀ s) : Kept false s₀ s.restarted := by
  unfold State.restarted State.atRelease
  refine Kept.ofParts ?_
  exact { h with
          memory := fun _ => rfl
          objects := fun _ => by cases s.standbyOff <;> decide
          counter := fun _ => by simp [GcState.initial]
          events := fun _ => by simp
          audits := fun _ => by simp
          replays := fun _ => by simp
          sources := fun _ => by simp [MgmtState.initial]
          fuses := h.fuses
          fuseCount := h.fuseCount
          cores := fun _ => CoresOk.shipped
          image := fun _ x => by simp [StepState.initial] at x
          active := fun x => by cases x }

theorem Kept.heldInReset {s₀ s : State}  (h : Kept false s₀ s) :
    Kept false s₀ (State.heldInReset s) := by
  unfold State.heldInReset
  repeat' first
    | with_reducible assumption
    | with_reducible refine Kept.restarted ?_
    | (fail_if_no_progress (with_reducible refine Kept.ofParts ?_; (try dsimp only []); with_reducible refine Kept.parts ?_))

theorem Kept.railsUp {s₀ s : State}  (h : Kept false s₀ s) :
    Kept false s₀ (State.railsUp s) := by
  unfold State.railsUp
  repeat' first
    | with_reducible assumption
    | with_reducible refine Kept.heldInReset ?_
    | (fail_if_no_progress (with_reducible refine Kept.ofParts ?_; (try dsimp only []); with_reducible refine Kept.parts ?_))

theorem Kept.restartStage {s₀ s : State}  (h : Kept false s₀ s) :
    Kept false s₀ (State.restartStage s) := by
  unfold State.restartStage
  repeat' first
    | with_reducible assumption
    | with_reducible refine Kept.railsUp ?_
    | with_reducible refine Kept.ite ?_ ?_
    | (fail_if_no_progress (with_reducible refine Kept.ofParts ?_; (try dsimp only []); with_reducible refine Kept.parts ?_))

theorem Kept.noteStop {live : Bool} {s₀ s : State} {cause : Nat} (h : Kept live s₀ s) :
    Kept live s₀ (State.noteStop s cause) := by
  unfold State.noteStop
  repeat' first
    | with_reducible assumption
    | with_reducible refine Kept.ite ?_ ?_
    | (fail_if_no_progress (with_reducible refine Kept.ofParts ?_; (try dsimp only []); with_reducible refine Kept.parts ?_))

theorem Kept.powerOff {s₀ s : State}  (h : Kept false s₀ s) :
    Kept false s₀ (State.powerOff s) := by
  unfold State.powerOff
  repeat' first
    | with_reducible assumption
    | with_reducible refine Kept.restarted ?_
    | (fail_if_no_progress (with_reducible refine Kept.ofParts ?_; (try dsimp only []); with_reducible refine Kept.parts ?_))

theorem Kept.bootKind {live : Bool} {s₀ s : State} {b : StoreChecks} {k : Kind} (h : Kept live s₀ s) :
    Kept live s₀ (State.bootKind s b k) := by
  have g (r : Vector Program 9) (p : Vector Nat 9) : Kept live s₀ { s with running := r, pinned := p } :=
    Kept.ofParts (Kept.parts h)
  unfold State.bootKind
  dsimp only []
  split
  · exact g _ _
  · exact Kept.mgmtEvent (g _ _)
  · exact g _ _

theorem Kept.reportStop {live : Bool} {s₀ s : State}  (h : Kept live s₀ s) :
    Kept live s₀ (State.reportStop s) := by
  unfold State.reportStop
  repeat' first
    | with_reducible assumption
    | with_reducible refine Kept.setObj ?_
    | with_reducible refine Kept.mgmtEvent ?_
    | with_reducible refine Kept.ite ?_ ?_
    | (fail_if_no_progress (with_reducible refine Kept.ofParts ?_; (try dsimp only []); with_reducible refine Kept.parts ?_))

theorem Kept.bootStandby {live : Bool} {s₀ s : State} {b : StoreChecks} (h : Kept live s₀ s) :
    Kept live s₀ (State.bootStandby s b) :=
  Kept.ite h (Kept.ite (Kept.setObj h) (Kept.ite (Kept.event h) h))

theorem Kept.boot {live : Bool} {s₀ s : State} {x : BootChecks} (h : Kept live s₀ s) :
    Kept live s₀ (State.boot s x) := by
  have m (A : State) (a : Kept live s₀ A) : Kept live s₀ A.unmeasured := Kept.ofParts (Kept.parts a)
  have r (A : State) (a : Kept live s₀ A) : Kept live s₀ { A with bringup := .recovery } := Kept.ofParts (Kept.parts a)
  have c : Kept live s₀ { s with bootChecks := x } := Kept.ofParts (Kept.parts h)
  have k := m _ (Kept.loadKey (b := x.a) (Kept.reportStop c))
  have g := Kept.bootStandby (b := x.b) (Kept.foldl k (fun _ i a => Kept.bootKind (b := x.a) (k := i) a) (indices 9))
  unfold State.boot
  exact Kept.ite (Kept.driveFault (Kept.mgmtEvent (r _ k))) (Kept.ite (Kept.bringupFails g) g)


end Sys2Proof.Machine
end

