-- ==== Sys2Proof/Laws/KeptRequests.lean ====
section
/-! SUPPORT. What the shared operations keep of the invariant, continued: the dictionary, its writes, segments and
signed entries, and the clock. -/

namespace Sys2Proof.Machine

theorem Kept.respond {live : Bool} {s₀ s : State} {src : Source} {r : Response} (h : Kept live s₀ s) :
    Kept live s₀ (State.respond s src r) := by
  unfold State.respond
  repeat' first
    | with_reducible assumption
    | with_reducible refine Kept.sendRouted ?_
    | (fail_if_no_progress (with_reducible refine Kept.ofParts ?_; (try dsimp only []); with_reducible refine Kept.parts ?_))
    | split

theorem Kept.select {live : Bool} {s₀ s : State} {src : Source} {sel : Selection} (h : Kept live s₀ s) :
    Kept live s₀ (s.select src sel) := by
  unfold State.select
  refine Kept.ofParts { h with sources := fun _ => ?_ }
  simp only [List.length_take]
  omega

theorem Kept.touch {live : Bool} {s₀ s : State} {src : Source} (h : Kept live s₀ s) :
    Kept live s₀ (State.touch s src) := by
  unfold State.touch
  repeat' with_reducible first | assumption | refine Kept.select ?_

theorem Kept.keep {live : Bool} {s₀ s : State} {q : Req} {r : Response} (h : Kept live s₀ s) :
    Kept live s₀ (State.keep s q r) := by
  unfold State.keep
  repeat' with_reducible first | assumption | (fail_if_no_progress (refine Kept.ofParts ?_; refine Kept.parts ?_))

theorem Kept.useSnapshot {live : Bool} {s₀ s : State} {q : Req} (h : Kept live s₀ s) :
    Kept live s₀ (State.useSnapshot s q).1 := by
  unfold State.useSnapshot
  repeat' with_reducible first | assumption | (fail_if_no_progress (refine Kept.ofParts ?_; refine Kept.parts ?_))

theorem Kept.useSnapshot_eq {s₀ s t : State} {q : Req} {res} (h : Kept live s₀ s) (e : (State.useSnapshot s q) = (t, res)) : Kept live s₀ t := by
  have k : Kept live s₀ (State.useSnapshot s q).1 := Kept.useSnapshot h 
  rw [e] at k
  exact k

theorem Kept.markRead {live : Bool} {s₀ s : State} {sel : Selection} (h : Kept live s₀ s) :
    Kept live s₀ (s.markRead sel) := by
  unfold State.markRead
  refine Kept.ofParts { h with events := fun w => ?_ }
  simp only [List.length_map]
  exact h.events w

theorem Kept.afterSnapshot {live : Bool} {s₀ s : State} {q : Req} (h : Kept live s₀ s) :
    Kept live s₀ (State.afterSnapshot s q) := by
  unfold State.afterSnapshot
  repeat' with_reducible first | assumption | refine Kept.markRead ?_ | refine Kept.ite ?_ ?_

theorem Kept.takeSnapshot {live : Bool} {s₀ s : State} {q : Req} (h : Kept live s₀ s) :
    Kept live s₀ (State.takeSnapshot s q).1 := by
  unfold State.takeSnapshot
  repeat' first
    | with_reducible assumption
    | with_reducible refine Kept.afterSnapshot ?_
    | (fail_if_no_progress (with_reducible refine Kept.ofParts ?_; (try dsimp only []); with_reducible refine Kept.parts ?_))

theorem Kept.takeSnapshot_eq {s₀ s t : State} {q : Req} {res} (h : Kept live s₀ s) (e : (State.takeSnapshot s q) = (t, res)) : Kept live s₀ t := by
  have k : Kept live s₀ (State.takeSnapshot s q).1 := Kept.takeSnapshot h 
  rw [e] at k
  exact k

theorem Kept.execSegRead {live : Bool} {s₀ s : State} {q : Req} (h : Kept live s₀ s) :
    Kept live s₀ (State.execSegRead s q).1 := by
  unfold State.execSegRead
  dsimp only []
  repeat' with_reducible first | assumption | refine Kept.useSnapshot ?_ | refine Kept.takeSnapshot ?_ | split

theorem Kept.execSegRead_eq {s₀ s t : State} {q : Req} {res} (h : Kept live s₀ s) (e : (State.execSegRead s q) = (t, res)) : Kept live s₀ t := by
  have k : Kept live s₀ (State.execSegRead s q).1 := Kept.execSegRead h 
  rw [e] at k
  exact k

theorem Kept.redraw {live : Bool} {s₀ s : State}  (h : Kept live s₀ s) :
    Kept live s₀ (State.redraw s) := by
  unfold State.redraw
  repeat' with_reducible first | assumption | (fail_if_no_progress (refine Kept.ofParts ?_; refine Kept.parts ?_))

theorem Kept.noteUnchecked {live : Bool} {s₀ s : State} {q : Req} (h : Kept live s₀ s) :
    Kept live s₀ (State.noteUnchecked s q) := by
  unfold State.noteUnchecked
  repeat' first
    | with_reducible assumption
    | with_reducible refine Kept.mgmtEvent ?_
    | with_reducible refine Kept.ite ?_ ?_
    | (fail_if_no_progress (with_reducible refine Kept.ofParts ?_; (try dsimp only []); with_reducible refine Kept.parts ?_))

theorem Kept.stageValue {live : Bool} {s₀ s : State} {q : Req} (h : Kept live s₀ s) :
    Kept live s₀ (State.stageValue s q) := by
  unfold State.stageValue
  repeat' with_reducible first | assumption | (fail_if_no_progress (refine Kept.ofParts ?_; refine Kept.parts ?_))

theorem Kept.writePlain {live : Bool} {s₀ s : State} {q : Req} (h : Kept live s₀ s) :
    Kept live s₀ (State.writePlain s q) := by
  unfold State.writePlain
  repeat' with_reducible first | assumption | refine Kept.setObj ?_ | refine Kept.stageValue ?_ | split

theorem Kept.pinInRecovery {s₀ s : State} {k : Kind} {digest : Nat} (h : Kept false s₀ s) :
    Kept false s₀ (State.pinInRecovery s k digest) := by
  unfold State.pinInRecovery
  dsimp only []
  split
  · exact Kept.boot (Kept.countSpareRows (Kept.restarted (Kept.withStores h _ rfl s.running)))
  · exact Kept.boot (Kept.countSpareRows (Kept.restarted h))

theorem Kept.writePin {s₀ s : State} {q : Req} (h : Kept false s₀ s) :
    Kept false s₀ (State.writePin s q) := by
  unfold State.writePin
  repeat' with_reducible first | assumption | refine Kept.stageValue ?_ | refine Kept.pinInRecovery ?_ | split

theorem Kept.freezeRun {live : Bool} {s₀ s : State} {c : Nat} (h : Kept live s₀ s) :
    Kept live s₀ (State.freezeRun s c) := by
  unfold State.freezeRun
  repeat' with_reducible first | assumption | refine Kept.freezeAt ?_ | refine Kept.flood ?_ | refine Kept.ite ?_ ?_

theorem Kept.setLaunchStep {live : Bool} {s₀ s : State} {n : Nat} (h : Kept live s₀ s) :
    Kept live s₀ (State.setLaunchStep s n) := by
  unfold State.setLaunchStep
  try dsimp only []
  repeat' first
    | with_reducible assumption
    | with_reducible refine Kept.setObj ?_
    | (fail_if_no_progress (with_reducible refine Kept.ofParts ?_; (try dsimp only []); with_reducible refine Kept.parts ?_))
    | split

theorem Kept.armLaunch {live : Bool} {s₀ s : State} {gc : Nat} (h : Kept live s₀ s) :
    Kept live s₀ (State.armLaunch s gc) := by
  unfold State.armLaunch
  repeat' first
    | with_reducible assumption
    | with_reducible refine Kept.setObj ?_
    | (fail_if_no_progress (with_reducible refine Kept.ofParts ?_; (try dsimp only []); with_reducible refine Kept.parts ?_))

theorem Kept.startMargin {live : Bool} {s₀ s : State} {mask : Nat} (h : Kept live s₀ s) :
    Kept live s₀ (State.startMargin s mask) := by
  unfold State.startMargin
  repeat' first
    | with_reducible assumption
    | with_reducible refine Kept.setObj ?_
    | with_reducible refine Kept.ite ?_ ?_
    | (fail_if_no_progress (with_reducible refine Kept.ofParts ?_; (try dsimp only []); with_reducible refine Kept.parts ?_))

theorem Kept.fuse {live : Bool} {s₀ s : State} {k : Option (BitVec 256)} (h : Kept live s₀ s)
    (room : s.nv.fuses.length < 4) : Kept live s₀ (s.fuse k) := by
  unfold State.fuse
  refine Kept.mgmtEvent (Kept.ofParts { h with fuses := ?_, fuseCount := ?_ })
  · exact h.fuses.trans (List.prefix_append _ _)
  · simp only [List.length_append, List.length_singleton]
    omega

theorem Kept.clearLog {live : Bool} {s₀ s : State} (h : Kept live s₀ s) : Kept live s₀ s.clearLog := by
  unfold State.clearLog
  exact Kept.mgmtEvent (Kept.ofParts { h with events := fun _ => by simp })

theorem Kept.choose {live : Bool} {s₀ s : State} {q : Req} {f : Selection → Selection} (h : Kept live s₀ s) :
    Kept live s₀ (State.choose s q f) := by
  unfold State.choose
  repeat' with_reducible first | assumption | refine Kept.select ?_

theorem Kept.applyWrite {s₀ s : State} {q : Req} (h : Kept false s₀ s) (room : q.idx = 0x1006 → s.nv.fuses.length < 4) :
    Kept false s₀ (State.applyWrite s q) := by
  unfold State.applyWrite
  try dsimp only []
  repeat' first
    | with_reducible assumption
    | with_reducible refine Kept.fuse ?_ (room (by assumption))
    | with_reducible refine Kept.writePlain ?_
    | with_reducible refine Kept.writePin ?_
    | with_reducible refine Kept.scheduleSpare ?_
    | with_reducible refine Kept.startRestore ?_
    | with_reducible refine Kept.releaseFreeze ?_
    | with_reducible refine Kept.freezeRun ?_
    | with_reducible refine Kept.freezeAt ?_
    | with_reducible refine Kept.setLaunchStep ?_
    | with_reducible refine Kept.armLaunch ?_
    | with_reducible refine Kept.startMargin ?_
    | with_reducible refine Kept.clearLog ?_
    | with_reducible refine Kept.setObj ?_
    | with_reducible refine Kept.chooseRoot ?_
    | with_reducible refine Kept.choose ?_
    | (fail_if_no_progress (with_reducible refine Kept.ofParts ?_; (try dsimp only []); with_reducible refine Kept.parts ?_))
    | split

theorem State.noteUnchecked_fuses (s : State) (q : Req) : (s.noteUnchecked q).nv.fuses = s.nv.fuses := by
  unfold State.noteUnchecked
  split
  · simp
  · rfl

theorem Kept.execWrite {s₀ s : State} {q : Req} (h : Kept false s₀ s)
    (room : q.idx = 0x1006 → s.nv.fuses.length < 4) : Kept false s₀ (s.execWrite q).1 := by
  have k := Kept.applyWrite (q := q) (Kept.noteUnchecked (q := q) h)
    (fun e => by rw [State.noteUnchecked_fuses]; exact room e)
  unfold State.execWrite
  exact Kept.ite (Kept.redraw k) k

theorem Kept.noteRefusal {live : Bool} {s₀ s : State} {q : Req} {st : Status} (h : Kept live s₀ s) :
    Kept live s₀ (State.noteRefusal s q st) := by
  unfold State.noteRefusal
  repeat' first
    | with_reducible assumption
    | with_reducible refine Kept.setObj ?_
    | with_reducible refine Kept.fenceHit ?_
    | with_reducible refine Kept.addObj ?_
    | with_reducible refine Kept.mgmtEvent ?_
    | split

theorem Kept.setStagedProgram {live : Bool} {s₀ s : State} {k : Kind} {p : Option Program} (h : Kept live s₀ s) :
    Kept live s₀ (State.setStagedProgram s k p) :=
  Kept.withStores h _ rfl s.running

theorem Kept.stageProgram {live : Bool} {s₀ s : State} {k : Kind} {b : Bytes} (h : Kept live s₀ s) :
    Kept live s₀ (State.stageProgram s k b).1 := by
  unfold State.stageProgram
  try dsimp only []
  repeat' first
    | with_reducible assumption
    | with_reducible refine Kept.mgmtEvent ?_
    | with_reducible refine Kept.setStagedProgram ?_
    | with_reducible refine Kept.setObj ?_
    | split

theorem Kept.stageProgram_eq {s₀ s t : State} {k : Kind} {b : Bytes} {res} (h : Kept live s₀ s) (e : (State.stageProgram s k b) = (t, res)) : Kept live s₀ t := by
  have k : Kept live s₀ (State.stageProgram s k b).1 := Kept.stageProgram h 
  rw [e] at k
  exact k

theorem Kept.programKey {live : Bool} {s₀ s : State} {b : Bytes} (h : Kept live s₀ s)
    (room : s.nv.fuses.length < 4) : Kept live s₀ (s.programKey b).1 := by
  unfold State.programKey
  split
  · exact h
  · exact Kept.fuse (Kept.ofParts (Kept.parts h)) room

theorem Kept.programKey_eq {live : Bool} {s₀ s t : State} {b : Bytes} {res} (h : Kept live s₀ s)
    (room : s.nv.fuses.length < 4) (e : s.programKey b = (t, res)) : Kept live s₀ t := by
  have k := Kept.programKey (b := b) h room
  rw [e] at k
  exact k

theorem Kept.storeSegment {live : Bool} {s₀ s : State} {q : Req} (h : Kept live s₀ s) :
    Kept live s₀ (State.storeSegment s q) := by
  unfold State.storeSegment
  repeat' with_reducible first | assumption | refine Kept.writeRun ?_ | refine Kept.ite ?_ ?_

theorem Kept.setBlob {live : Bool} {s₀ s : State} {idx : Nat} {sub : Nat} {b : Bytes} (h : Kept live s₀ s) :
    Kept live s₀ (State.setBlob s idx sub b).1 := by
  unfold State.setBlob
  try dsimp only []
  repeat' first
    | with_reducible assumption
    | (fail_if_no_progress (with_reducible refine Kept.ofParts ?_; (try dsimp only []); with_reducible refine Kept.parts ?_))
    | split

theorem Kept.setBlob_eq {s₀ s t : State} {idx : Nat} {sub : Nat} {b : Bytes} {res} (h : Kept live s₀ s) (e : (State.setBlob s idx sub b) = (t, res)) : Kept live s₀ t := by
  have k : Kept live s₀ (State.setBlob s idx sub b).1 := Kept.setBlob h 
  rw [e] at k
  exact k

theorem Kept.setStagedSlot {live : Bool} {s₀ s : State} {x : PlanSlot} (h : Kept live s₀ s) :
    Kept live s₀ (State.setStagedSlot s x) := by
  unfold State.setStagedSlot
  repeat' with_reducible first | assumption | (fail_if_no_progress (refine Kept.ofParts ?_; refine Kept.parts ?_))

theorem Kept.setPlanStatus {live : Bool} {s₀ s : State} {st : Nat} {code : Nat} {desc : Nat} {dcode : Nat} (h : Kept live s₀ s) :
    Kept live s₀ (State.setPlanStatus s st code desc dcode) := by
  unfold State.setPlanStatus
  repeat' with_reducible first | assumption | refine Kept.setObj ?_

theorem Kept.stagePlan {live : Bool} {s₀ s : State} {b : Bytes} (h : Kept live s₀ s) :
    Kept live s₀ (State.stagePlan s b).1 := by
  unfold State.stagePlan
  repeat' first
    | with_reducible assumption
    | with_reducible refine Kept.mgmtEvent ?_
    | with_reducible refine Kept.setStagedSlot ?_
    | with_reducible refine Kept.setPlanStatus ?_
    | split

theorem Kept.stagePlan_eq {s₀ s t : State} {b : Bytes} {res} (h : Kept live s₀ s) (e : (State.stagePlan s b) = (t, res)) : Kept live s₀ t := by
  have k : Kept live s₀ (State.stagePlan s b).1 := Kept.stagePlan h 
  rw [e] at k
  exact k

theorem Kept.execReport {live : Bool} {s₀ s : State} {q : Req} (h : Kept live s₀ s) :
    Kept live s₀ (State.execReport s q).1 := by
  unfold State.execReport
  repeat' with_reducible first | assumption | (fail_if_no_progress (refine Kept.ofParts ?_; refine Kept.parts ?_))

theorem Kept.execReport_eq {s₀ s t : State} {q : Req} {res} (h : Kept live s₀ s) (e : (State.execReport s q) = (t, res)) : Kept live s₀ t := by
  have k : Kept live s₀ (State.execReport s q).1 := Kept.execReport h 
  rw [e] at k
  exact k

theorem Kept.finishTransfer {live : Bool} {s₀ s : State} {idx sub : Nat} {b : Bytes} (h : Kept live s₀ s)
    (room : idx = 0x1006 → s.nv.fuses.length < 4) : Kept live s₀ (s.finishTransfer idx sub b).1 := by
  unfold State.finishTransfer
  split
  · exact Kept.stagePlan h
  · split
    · exact Kept.stageProgram h
    · exact h
  · exact Kept.programKey h (room rfl)
  · exact Kept.setBlob h

theorem Kept.finishTransfer_eq {live : Bool} {s₀ s t : State} {idx sub : Nat} {b : Bytes} {res} (h : Kept live s₀ s)
    (room : idx = 0x1006 → s.nv.fuses.length < 4) (e : s.finishTransfer idx sub b = (t, res)) :
    Kept live s₀ t := by
  have k := Kept.finishTransfer (sub := sub) (b := b) h room
  rw [e] at k
  exact k

theorem Kept.beginTransfer {live : Bool} {s₀ s : State} {q : Req} (h : Kept live s₀ s) :
    Kept live s₀ (State.beginTransfer s q) := by
  unfold State.beginTransfer
  repeat' first
    | with_reducible assumption
    | with_reducible refine Kept.setStagedProgram ?_
    | with_reducible refine Kept.setObj ?_
    | with_reducible refine Kept.setStagedSlot ?_
    | with_reducible refine Kept.setPlanStatus ?_
    | split

theorem State.beginTransfer_fuses (s : State) (q : Req) : (s.beginTransfer q).nv.fuses = s.nv.fuses := by
  unfold State.beginTransfer
  split
  · simp [State.setPlanStatus, State.setStagedSlot]
  · split
    · simp [State.setStagedProgram, NonVolatile.modStores]
    · rfl
  · rfl

theorem State.foldl_nv {α : Type} (f : State → α → State) (g : ∀ s x, (f s x).nv = s.nv) (l : List α) (s : State) :
    (l.foldl f s).nv = s.nv := by
  induction l generalizing s with
  | nil => rfl
  | cons x l ih => rw [List.foldl_cons, ih, g]

@[simp] theorem State.writeRun_nv (s : State) (a : Nat) (bs : Bytes) : (s.writeRun a bs).nv = s.nv := by
  unfold State.writeRun
  split
  · rfl
  · dsimp only []
    split
    · rw [State.foldl_nv _ (fun s x => State.addObj_nv s _ _ _)]
    · rfl

theorem State.storeSegment_fuses (s : State) (q : Req) : (s.storeSegment q).nv.fuses = s.nv.fuses := by
  unfold State.storeSegment
  dsimp only []
  split
  · simp
  · rfl

theorem Kept.execSegment {live : Bool} {s₀ s : State} {q : Req} (h : Kept live s₀ s)
    (room : q.idx = 0x1006 → s.nv.fuses.length < 4) : Kept live s₀ (s.execSegment q).1 := by
  unfold State.execSegment
  extract_lets key fresh t s1 s2 s3
  have h1 : Kept live s₀ s1 := Kept.noteUnchecked h
  have h2 : Kept live s₀ s2 := Kept.ite (Kept.beginTransfer h1) h1
  have h3 : Kept live s₀ s3 := Kept.storeSegment h2
  have r3 : s3.nv.fuses = s.nv.fuses := by
    simp only [s3, State.storeSegment_fuses, s2]
    split
    · rw [State.beginTransfer_fuses, State.noteUnchecked_fuses]
    · rw [State.noteUnchecked_fuses]
  split
  · exact Kept.ofParts (Kept.parts h3)
  · dsimp only []
    have k : Kept live s₀ { s3 with mgmt := { s3.mgmt with transfers := dropKey key s3.mgmt.transfers } } :=
      Kept.ofParts (Kept.parts h3)
    have f := Kept.finishTransfer (idx := q.idx) (sub := q.sub) (b := by assumption) k
      (fun e => by simpa [r3] using room e)
    exact Kept.ite (Kept.redraw f) f

theorem Kept.perform {s₀ s : State} {q : Req} (h : Kept false s₀ s)
    (room : q.op = 2 ∨ q.op = 4 → q.idx = 0x1006 → s.nv.fuses.length < 4) : Kept false s₀ (s.perform q).1 := by
  unfold State.perform
  split
  · exact h
  · exact Kept.execWrite h (room (Or.inl (by assumption)))
  · exact Kept.execSegRead h
  · exact Kept.execSegment h (room (Or.inr (by assumption)))
  · exact Kept.execReport h

/-- Every check that stands in a list that passes holds. -/
theorem firstFail_ok {l : List (Bool × Status)} (h : firstFail l = .ok) (hn : ∀ x ∈ l, x.2 ≠ .ok) :
    ∀ x ∈ l, x.1 = true := by
  induction l with
  | nil => simp
  | cons y l ih =>
    obtain ⟨b, st⟩ := y
    cases b
    · exact absurd h (hn (false, st) (by simp))
    · intro x hx
      rcases List.mem_cons.1 hx with rfl | hx
      · rfl
      · exact ih h (fun z hz => hn z (by simp [hz])) x hx

/-- A request whose checks pass meets the entry's own condition on the state (R471 check 9). -/
theorem State.screen_state {s : State} {q : Req} (h : s.screen q = .ok) : s.stateOk q = true := by
  unfold State.screen State.checks at h
  exact firstFail_ok h (by simp) (s.stateOk q, .state) (by simp)

/-- The customer key has room for a write of it (R539). -/
theorem State.screen_fuses {s : State} {q : Req} (h : s.screen q = .ok) (ho : q.op = 2 ∨ q.op = 4)
    (hi : q.idx = 0x1006) : s.nv.fuses.length < 4 := by
  have k := State.screen_state h
  have hr : q.reads = false := by
    unfold Req.reads
    rcases ho with e | e <;> simp [e]
  have ha : q.attests = false := by
    unfold Req.attests
    rcases ho with e | e <;> simp [e, hi]
  unfold State.stateOk at k
  simp only [hr, ha, Bool.false_or, Bool.and_eq_true] at k
  have w := k.2
  unfold State.writeStateOk at w
  simp only [hi, Bool.and_eq_true] at w
  simpa using w.2

theorem Kept.execute {s₀ s : State} {q : Req} (h : Kept false s₀ s) : Kept false s₀ (s.execute q).1 := by
  unfold State.execute
  dsimp only []
  split
  · rename_i e
    exact Kept.perform (Kept.touch h) (State.screen_fuses e)
  · exact Kept.noteRefusal (Kept.touch h)

theorem Kept.dropStaged {live : Bool} {s₀ s : State} {idx : Nat} {sub : Nat} (h : Kept live s₀ s) :
    Kept live s₀ (State.dropStaged s idx sub) := by
  unfold State.dropStaged
  repeat' with_reducible first | assumption | refine Kept.setObj ?_ | refine Kept.ite ?_ ?_

theorem Kept.shift {live : Bool} {s₀ s : State} {ir : BitVec 8} {v : Nat} (h : Kept live s₀ s) :
    Kept live s₀ (State.shift s ir v) := by
  unfold State.shift
  repeat' with_reducible first | assumption | (fail_if_no_progress (refine Kept.ofParts ?_; refine Kept.parts ?_))

theorem Kept.repeatSwaps {live : Bool} {s₀ s : State}  (h : Kept live s₀ s) :
    Kept live s₀ (State.repeatSwaps s) := by
  unfold State.repeatSwaps
  repeat' with_reducible first | assumption | (fail_if_no_progress (refine Kept.ofParts ?_; refine Kept.parts ?_))

theorem GcState.tick_range (g : GcState) (n : Nat) : (g.tick n).value < 2 ^ 64 := by
  unfold GcState.tick
  simp only
  omega

theorem Kept.tick {live : Bool} {s₀ s : State} (h : Kept live s₀ s) : Kept live s₀ s.tick := by
  unfold State.tick
  refine Kept.ite (Kept.ofParts { h with counter := fun _ => GcState.tick_range _ _ }) h




end Sys2Proof.Machine
end

