-- ==== Sys2Proof/Laws/KeptCommands.lean ====
section
/-! SUPPORT. What the shared operations keep of the invariant, continued: bring-up's core tests, the collectives, and
the frames that every record's, flit's and request's command shares, which always answer a next state. -/

namespace Sys2Proof.Machine

/-! ### Bring-up's core tests -/

/-- A core that moves to a free spare of its die keeps the core map sound (R536). -/
theorem CoresOk.move {m : Vector Phys 48} {sp : Vector (Option Phys) 4} {l : List Sparing} (h : CoresOk m sp l)
    {c : Core} {d : Fin 4} {p : Phys} (hd : d.val = c.val / 12) (hp : sp[d] = some p)
    (hl : ∀ x ∈ l, x.spare ≠ p) : CoresOk (m.set c p) (sp.set d none) l := by
  have free := h.spareFree d p hp
  have die := h.spareDie d p hp
  refine ⟨?_, ?_, ?_, ?_, h.copyDie, ?_, h.onePerDie⟩
  · intro e
    by_cases he : e = c
    · subst he
      simp
      omega
    · have k : (c : Nat) ≠ e := fun x => he (Fin.ext x.symm)
      simpa [k] using h.ownDie e
  · intro e f hef
    by_cases he : e = c
    · by_cases hf : f = c
      · exact he.trans hf.symm
      · have k : (c : Nat) ≠ f := fun x => hf (Fin.ext x.symm)
        subst he
        simp [k] at hef
        exact absurd hef.symm (free f)
    · have k : (c : Nat) ≠ e := fun x => he (Fin.ext x.symm)
      by_cases hf : f = c
      · subst hf
        simp [k] at hef
        exact absurd hef (free e)
      · have k' : (c : Nat) ≠ f := fun x => hf (Fin.ext x.symm)
        simp [k, k'] at hef
        exact h.distinct e f hef
  · intro e q hq
    by_cases he : (d : Nat) = e
    · simp [he] at hq
    · simp [he] at hq
      exact h.spareDie e q hq
  · intro e q hq f
    by_cases he : (d : Nat) = e
    · simp [he] at hq
    · simp [he] at hq
      have dq := h.spareDie e q hq
      by_cases hf : f = c
      · subst hf
        simp only [Fin.getElem_fin, Vector.getElem_set_self, ne_eq]
        intro k
        rw [← k] at dq
        omega
      · have k : (c : Nat) ≠ f := fun x => hf (Fin.ext x.symm)
        simpa [k] using h.spareFree e q hq f
  · intro x hx f
    by_cases hf : f = c
    · subst hf
      simpa using (hl x hx).symm
    · have k : (c : Nat) ≠ f := fun x => hf (Fin.ext x.symm)
      simpa [k] using h.copyFree x hx f

/-- A die without a spare keeps the core map sound. -/
theorem CoresOk.dropSpare {m : Vector Phys 48} {sp : Vector (Option Phys) 4} {l : List Sparing} (h : CoresOk m sp l)
    (d : Fin 4) : CoresOk m (sp.set d none) l := by
  refine ⟨h.ownDie, h.distinct, ?_, ?_, h.copyDie, h.copyFree, h.onePerDie⟩
  · intro e q hq
    by_cases he : (d : Nat) = e
    · simp [he] at hq
    · simp [he] at hq
      exact h.spareDie e q hq
  · intro e q hq f
    by_cases he : (d : Nat) = e
    · simp [he] at hq
    · simp [he] at hq
      exact h.spareFree e q hq f

theorem State.logicalOf_some {s : State} {p : Nat} {c : Core} (h : s.logicalOf p = some c) :
    (s.coreMap[c]).val = p := by
  unfold State.logicalOf at h
  have := List.find?_some h
  simpa [State.physOf] using of_decide_eq_true this

theorem Kept.coreTestFails {live : Bool} {s₀ s : State} {bad : List Phys} {p : Phys} (h : Kept live s₀ s) :
    Kept live s₀ (s.coreTestFails bad p) := by
  unfold State.coreTestFails
  dsimp only []
  split
  · exact Kept.event (Kept.setIsland (Kept.ofParts { h with cores := fun w => CoresOk.dropSpare (h.cores w) ⟨p.val / 13, by omega⟩ }))
  · rename_i c hc
    split
    · exact Kept.setIsland h
    · rename_i sp hsp
      refine Kept.event (Kept.setIsland (Kept.setIsland (Kept.ofParts { h with cores := fun w => ?_ })))
      have w' := h.cores w
      obtain ⟨hs, hb⟩ := Option.filter_eq_some_iff.1 hsp
      refine CoresOk.move w' ?_ hs ?_
      · have a := State.logicalOf_some hc
        have b := w'.ownDie c
        simp only
        omega
      · simp only [Bool.and_eq_true, Bool.not_eq_true', List.any_eq_false, decide_eq_true_eq] at hb
        exact hb.2

theorem Kept.coreTests {live : Bool} {s₀ s : State} {bad : List Phys} (h : Kept live s₀ s) :
    Kept live s₀ (s.coreTests bad) :=
  Kept.foldl h (fun _ _ => Kept.coreTestFails) _

/-! ### Collectives -/

theorem Kept.reduceScatterEffect {live : Bool} {s₀ s t : State} {parts : List PartIn} {x : Ctx} {me n : Nat}
    (h : Kept live s₀ s) (e : Sys2Proof.Machine.reduceScatterEffect parts x me n s = some t) : Kept live s₀ t := by
  unfold Sys2Proof.Machine.reduceScatterEffect at e
  split at e
  · split at e
    · cases e
    · cases e
      exact Kept.stampPlane (Kept.ite (Kept.writePartial h) (Kept.writeFinal h))
  · cases e
    exact h

theorem Kept.allGatherEffect {live : Bool} {s₀ s t : State} {shards : List Bytes} {x : Ctx} {me n : Nat}
    (h : Kept live s₀ s) (e : Sys2Proof.Machine.allGatherEffect shards x me n s = some t) : Kept live s₀ t := by
  unfold Sys2Proof.Machine.allGatherEffect at e
  split at e
  · dsimp only [] at e
    split at e
    · cases e
    · split at e
      · split at e
        · cases e
          exact Kept.stamp (Kept.stampPlane (Kept.writeRaw h))
        · cases e
          exact Kept.stampPlane (Kept.writeRaw h)
      · cases e
        exact Kept.stampPlane (Kept.writeRaw h)
  · cases e
    exact h

theorem Kept.allToAllEffect {live : Bool} {s₀ s t : State} {sections : List Bytes} {x : Ctx} {me n : Nat}
    (h : Kept live s₀ s) (e : Sys2Proof.Machine.allToAllEffect sections x me n s = some t) : Kept live s₀ t := by
  unfold Sys2Proof.Machine.allToAllEffect at e
  split at e
  · dsimp only [] at e
    split at e
    · cases e
    · cases e
      exact Kept.stampPlane (Kept.writeRaw h)
  · cases e
    exact h

/-! ### Records and flits -/

/-- A record's command keeps what its effect keeps. -/
theorem Kept.beginRecord {live : Bool} {s₀ s : State} {c : Core} {r : Nat} {want : Rec → Bool}
    {reads : Reads} {effect : Ctx → QRec → State → State} (h : Kept live s₀ s)
    (he : ∀ x q a, Kept live s₀ a → Kept live s₀ (effect x q a)) :
    ∃ t, s.beginRecord c r want reads effect = .next t ∧ Kept live s₀ t := by
  unfold State.beginRecord
  split
  · split
    · exact ⟨_, rfl, h⟩
    · dsimp only []
      split
      · exact ⟨_, rfl, h⟩
      · split
        · exact ⟨_, rfl, Kept.noteReads h⟩
        · split
          · exact ⟨_, rfl, Kept.abortWith h⟩
          · split
            · exact ⟨_, rfl, Kept.abortWith h⟩
            · exact ⟨_, rfl, he _ _ _ (Kept.noteReads h)⟩
  · exact ⟨_, rfl, h⟩

theorem Kept.runRecord {live : Bool} {s₀ s : State} {c : Core} {r : Nat} {want : Rec → Bool}
    {reads : Reads} {effect : Ctx → QRec → State → State} (h : Kept live s₀ s)
    (he : ∀ x q a, Kept live s₀ a → Kept live s₀ (effect x q a)) :
    ∃ t, s.runRecord c r want reads effect = .next t ∧ Kept live s₀ t :=
  Kept.beginRecord h (fun x q a k => Kept.finish (he x q a k))

theorem Kept.runCollective {live : Bool} {s₀ s : State} {c : Core} {r : Nat} {want : Rec → Bool}
    {reads : Reads} {effect : Ctx → (me n : Nat) → State → Option State} (h : Kept live s₀ s)
    (he : ∀ x me n a t, Kept live s₀ a → effect x me n a = some t → Kept live s₀ t) :
    ∃ t, s.runCollective c r want reads effect = .next t ∧ Kept live s₀ t := by
  refine Kept.beginRecord h (fun x q a k => ?_)
  dsimp only []
  split
  · exact k
  · split
    · exact k
    · refine Kept.ite k ?_
      split
      · rename_i t ht
        exact Kept.finish (he _ _ _ _ _ k ht)
      · exact k

theorem Kept.linkFlit {live : Bool} {s₀ s : State} {p : Port} {f : Flit} {act : State → State} (h : Kept live s₀ s)
    (ha : ∀ a, Kept live s₀ a → Kept live s₀ (act a)) :
    ∃ t, s.linkFlit p f act = .next t ∧ Kept live s₀ t := by
  unfold State.linkFlit
  split
  · exact ⟨_, rfl, ha _ (Kept.hear h)⟩
  · exact ⟨_, rfl, h⟩

theorem Kept.seqFlit {live : Bool} {s₀ s : State} {p : Port} {f : Flit} {act : State → State} (h : Kept live s₀ s)
    (ha : ∀ a, Kept live s₀ a → Kept live s₀ (act a)) :
    ∃ t, s.seqFlit p f act = .next t ∧ Kept live s₀ t := by
  unfold State.seqFlit
  split
  · exact ⟨_, rfl, h⟩
  · dsimp only []
    split
    · exact ⟨_, rfl, Kept.nakOnce (Kept.hear h)⟩
    · exact ⟨_, rfl, ha _ (Kept.modPort (Kept.hear h))⟩

theorem Kept.countStatus {live : Bool} {s₀ s : State} {code : Nat} (h : Kept live s₀ s) :
    Kept live s₀ (State.countStatus s code) := by
  unfold State.countStatus
  try dsimp only []
  repeat' first
    | with_reducible assumption
    | with_reducible refine Kept.addObj ?_
    | with_reducible refine Kept.foldl ?_ (fun _ _ _ => ?_) _
    | with_reducible refine Kept.ite ?_ ?_
    | with_reducible refine Kept.dite (fun _ => ?_) (fun _ => ?_)
    | (fail_if_no_progress (with_reducible refine Kept.ofParts ?_; (try dsimp only []); with_reducible refine Kept.parts ?_))
    | split

theorem Kept.replay {live : Bool} {s₀ s : State} {src : Source} {r : Response} (h : Kept live s₀ s) :
    Kept live s₀ (State.replay s src r) := by
  unfold State.replay
  try dsimp only []
  repeat' first
    | with_reducible assumption
    | with_reducible refine Kept.respond ?_
    | with_reducible refine Kept.addObj ?_
    | with_reducible refine Kept.countStatus ?_
    | with_reducible refine Kept.foldl ?_ (fun _ _ _ => ?_) _
    | with_reducible refine Kept.ite ?_ ?_
    | with_reducible refine Kept.dite (fun _ => ?_) (fun _ => ?_)
    | (fail_if_no_progress (with_reducible refine Kept.ofParts ?_; (try dsimp only []); with_reducible refine Kept.parts ?_))
    | split

theorem Kept.noteMark {live : Bool} {s₀ s : State} {q : Packet} (h : Kept live s₀ s) :
    Kept live s₀ (State.noteMark s q) := by
  unfold State.noteMark
  try dsimp only []
  repeat' first
    | with_reducible assumption
    | with_reducible refine Kept.foldl ?_ (fun _ _ _ => ?_) _
    | with_reducible refine Kept.ite ?_ ?_
    | with_reducible refine Kept.dite (fun _ => ?_) (fun _ => ?_)
    | (fail_if_no_progress (with_reducible refine Kept.ofParts ?_; (try dsimp only []); with_reducible refine Kept.parts ?_))
    | split

-- SKIP Sys2Proof.Machine.State.rdmaFenced: 2 state args

theorem Kept.serve {s₀ s : State} {q : Req} (h : Kept false s₀ s) :
    ∃ t, s.serve q = .next t ∧ Kept false s₀ t := by
  unfold State.serve
  split
  · exact ⟨_, rfl, h⟩
  · split
    · exact ⟨_, rfl, Kept.replay h⟩
    · exact ⟨_, rfl, Kept.respond (Kept.keep (Kept.countStatus (Kept.addObj (Kept.execute (q := q) h))))⟩

end Sys2Proof.Machine
end

