-- ==== Sys2Proof/Laws/Records.lean ====
section
/-! SUPPORT. What records change: the operations that write a record's output keep the frame `OnlyRecord`, one lemma each,
and so does every effect that does not end in an abort. -/

namespace Sys2Proof.Machine

variable {s t u : State}

theorem OnlyRecord.refl (s : State) : OnlyRecord s s := rfl

theorem OnlyRecord.trans (h : OnlyRecord s t) (g : OnlyRecord t u) : OnlyRecord s u := by
  unfold OnlyRecord at *
  rw [g, h]

theorem OnlyRecord.ite {c : Prop} [Decidable c] (h : OnlyRecord s t) (g : OnlyRecord s u) :
    OnlyRecord s (if c then t else u) := by
  split
  · exact h
  · exact g

theorem OnlyRecord.foldl {α : Type} {f : State → α → State} (g : ∀ b x, OnlyRecord b (f b x)) (l : List α) :
    OnlyRecord s (l.foldl f s) := by
  induction l generalizing s with
  | nil => exact rfl
  | cons x l ih => exact (g s x).trans ih

/-- The core's records stand through a record's work. -/
theorem OnlyRecord.cores (h : OnlyRecord s t) : t.cores = s.cores := by
  unfold OnlyRecord at h
  rw [h]

theorem OnlyRecord.status (h : OnlyRecord s t) : t.step.status = s.step.status := by
  unfold OnlyRecord at h
  rw [h]

/-- A record whose work keeps the frame has run once it is marked executed. -/
theorem OnlyRecord.ran {c : Core} {r : Nat} {q : QRec} (h : OnlyRecord s u) (g : s.qrec c r = some q) :
    Ran s (u.finish c r) c r q := by
  refine ⟨?_, u, h, rfl⟩
  have e : (u.finish c r).qrec c r = (u.cores[c].inflight.map (fun q =>
      if q.recno = r then { q with phase := Phase.executed } else q)).find? (fun q => q.recno = r) := by
    simp [State.finish, State.modQRec, State.modCore, State.qrec, vmodify]
  unfold State.qrec at g
  rw [e, h.cores, List.find?_map]
  have k : ((fun q : QRec => decide (q.recno = r)) ∘ fun q : QRec =>
      if q.recno = r then { q with phase := Phase.executed } else q) = fun q => decide (q.recno = r) := by
    funext q
    dsimp only [Function.comp]
    split <;> rfl
  rw [k, g]
  have n := List.find?_some g
  simp at n
  simp [n]

theorem OnlyRecord.addObj {i j n : Nat} : OnlyRecord s (s.addObj i j n) := rfl
theorem OnlyRecord.setObj {i j v : Nat} : OnlyRecord s (s.setObj i j v) := rfl
theorem OnlyRecord.notice {b : Bytes} : OnlyRecord s (s.notice b) := rfl

theorem OnlyRecord.event {c : BitVec 16} {i : Nat} {d : Bytes} : OnlyRecord s (s.event c i d) := by
  unfold State.event
  exact OnlyRecord.ite rfl rfl

theorem OnlyRecord.noteReads {p : Plan} {l : List Span} : OnlyRecord s (s.noteReads p l) := by
  unfold State.noteReads
  exact OnlyRecord.ite rfl rfl

/-- A record that stands ready with sound operands begins: its effect acts on the state in which its reads are noted. -/
theorem State.beginRecord_ready {c : Core} {r : Nat} {p : Plan} {rc : Rec} {q : QRec} {reads : Reads} {want : Rec → Bool}
    {effect : Ctx → QRec → State → State} (h : RecordReady s c r p rc q) (g : OperandsSound s c p rc q reads)
    (w : want rc = true) : s.beginRecord c r want reads effect =
      .next (effect (s.ctx p c rc q) q (s.noteReads p (s.spansOf c p rc q reads))) := by
  have a := h.awake
  have b := h.running
  have e : q.ready = true := by
    simp [QRec.ready, h.started, h.tag, h.landed, h.tiles]
  have k := g.poison
  have l := g.versions
  have m := g.tiles
  have n := g.weights
  unfold State.spansOf at k m ⊢
  unfold State.beginRecord
  simp only [h.plan, h.inFlight, h.record]
  simp [a, b, e, w, k, l, m, n]

/-- A record that stands ready with sound operands runs to its end. -/
theorem State.runRecord_ready {c : Core} {r : Nat} {p : Plan} {rc : Rec} {q : QRec} {reads : Reads} {want : Rec → Bool}
    {effect : Ctx → QRec → State → State} (h : RecordReady s c r p rc q) (g : OperandsSound s c p rc q reads)
    (w : want rc = true) : s.runRecord c r want reads effect =
      .next ((effect (s.ctx p c rc q) q (s.noteReads p (s.spansOf c p rc q reads))).finish c r) :=
  State.beginRecord_ready h g w

/-! ### Reading -/

/-- Two states read alike: every byte, under one plan and one map. -/
structure SameReads (s t : State) : Prop where
  byte : ∀ a, t.byte a = s.byte a
  plan : t.plan = s.plan

theorem SameReads.image (h : SameReads s t) (a : Nat) : t.compressedAt a = s.compressedAt a := by
  simp only [State.compressedAt, h.plan]

theorem SameReads.step (st : StepState) : SameReads s { s with step := st } := ⟨fun _ => rfl, rfl⟩

/-- Noting a record's reads changes nothing that is read. -/
theorem SameReads.noteReads {p : Plan} {l : List Span} : SameReads s (s.noteReads p l) := by
  unfold State.noteReads
  split
  · exact SameReads.step s.step
  · exact SameReads.step _

theorem SameReads.bytes (h : SameReads s t) (a n : Nat) : t.bytes a n = s.bytes a n := by
  induction n generalizing a with
  | zero => rfl
  | succ n ih => simp only [State.bytes, h.byte, ih]

theorem SameReads.tileAt (h : SameReads s t) (al : Alloc) (w a : Nat) : t.tileAt al w a = s.tileAt al w a := by
  simp only [State.tileAt, h.byte, h.bytes]

theorem SameReads.getBytes (h : SameReads s t) (w a n : Nat) : t.getBytes w a n = s.getBytes w a n := by
  simp only [State.getBytes, h.image, h.tileAt, h.bytes]

theorem SameReads.code (h : SameReads s t) (d : Desc) (i : List Nat) : t.code d i = s.code d i := by
  simp only [State.code, State.word, h.image, h.tileAt, h.bytes]

theorem SameReads.val (h : SameReads s t) (d : Desc) (sb : Option Desc) (i : List Nat) : t.val d sb i = s.val d sb i := by
  simp only [State.val, h.code]

theorem SameReads.int (h : SameReads s t) (d : Desc) (i : List Nat) : t.int d i = s.int d i := by
  simp only [State.int, h.val]

theorem SameReads.row (h : SameReads s t) (d : Desc) (sb : Option Desc) (o : List Nat) : t.row d sb o = s.row d sb o := by
  simp only [State.row, h.val]

theorem SameReads.mismatches (h : SameReads s t) (d : Desc) (sb : Option Desc) (o : List (List Nat)) :
    t.mismatches d sb o = s.mismatches d sb o := by
  simp only [State.mismatches, h.code]

theorem SameReads.vuRead (h : SameReads s t) (x : Ctx) (n sb : Option Nat) : t.vuRead x n sb = s.vuRead x n sb := by
  simp only [State.vuRead, h.row, h.mismatches]

theorem SameReads.readTiles (h : SameReads s t) (d : Desc) (a : List TFmt) (kt : Nat) (b : Bool) (f : Option TileFix)
    (l : List (Nat × List Nat)) : t.readTiles d a kt b f l = s.readTiles d a kt b f l := by
  induction l generalizing f with
  | nil => rfl
  | cons x l ih => simp only [State.readTiles, State.slot, h.bytes, ih]

/-! ### Counts -/

theorem OnlyRecord.count {x : Ctx} {f w i n m : Nat} {c : BitVec 16} {d : Bytes} :
    OnlyRecord s (s.count x f w i n m c d) := by
  unfold State.count
  refine OnlyRecord.ite rfl (OnlyRecord.ite ?_ rfl)
  exact OnlyRecord.trans (t := { s with step := { s.step with
    counts := addKey (f, w, i) n s.step.counts, seen := s.step.seen ++ [(f, w, i)] } }) rfl OnlyRecord.event

theorem OnlyRecord.countQuiet {f w i n : Nat} : OnlyRecord s (s.countQuiet f w i n) := by
  unfold State.countQuiet
  exact OnlyRecord.ite rfl rfl

theorem OnlyRecord.noteNan {n k : Nat} : OnlyRecord s (s.noteNan n k) := by
  unfold State.noteNan
  exact OnlyRecord.ite rfl rfl

theorem OnlyRecord.chargeCounts {x : Ctx} {n : Nat} {c : Counts} : OnlyRecord s (s.chargeCounts x n c) := by
  unfold State.chargeCounts
  exact OnlyRecord.ite rfl (((((OnlyRecord.count.trans OnlyRecord.count).trans OnlyRecord.count).trans
    OnlyRecord.count).trans OnlyRecord.count).trans OnlyRecord.count)

theorem OnlyRecord.charge {x : Ctx} {n : Nat} {c : Counts} : OnlyRecord s (s.charge x n c) :=
  OnlyRecord.chargeCounts.trans OnlyRecord.noteNan

theorem OnlyRecord.chargeIndex {x : Ctx} {n c d : Nat} : OnlyRecord s (s.chargeIndex x n c d) :=
  OnlyRecord.count.trans OnlyRecord.count

theorem OnlyRecord.chargeRoute {x : Ctx} {n a b c : Nat} : OnlyRecord s (s.chargeRoute x n a b c) :=
  (OnlyRecord.count.trans OnlyRecord.count).trans OnlyRecord.count

theorem OnlyRecord.countInexact {x : Ctx} {n k : Nat} : OnlyRecord s (s.countInexact x n k) := by
  unfold State.countInexact
  split
  · exact rfl
  · exact OnlyRecord.count

theorem OnlyRecord.countPred {x : Ctx} {i n : Nat} : OnlyRecord s (s.countPred x i n) := by
  unfold State.countPred
  exact OnlyRecord.ite rfl OnlyRecord.count

theorem OnlyRecord.countPredQuiet {x : Ctx} {f n : Nat} : OnlyRecord s (s.countPredQuiet x f n) := by
  unfold State.countPredQuiet
  exact OnlyRecord.ite OnlyRecord.countQuiet rfl

/-! ### Memory -/

theorem OnlyRecord.writeRun {a : Nat} {b : Bytes} : OnlyRecord s (s.writeRun a b) := by
  unfold State.writeRun
  dsimp only []
  split
  · exact rfl
  · split
    · rename_i p _ _
      exact OnlyRecord.trans (t := { s with mem := memWrite s.mem p b, poison := healPoison s.poison p b.length,
                                            caches := vmap (dropLines p b.length) s.caches }) rfl
        (OnlyRecord.foldl (fun _ _ => OnlyRecord.addObj) _)
    · exact rfl

theorem OnlyRecord.writeTiles {al : Alloc} {w a : Nat} {b : Bytes} : OnlyRecord s (s.writeTiles al w a b) :=
  OnlyRecord.foldl (fun _ _ => (OnlyRecord.writeRun.trans OnlyRecord.writeRun).trans OnlyRecord.countQuiet) _

theorem OnlyRecord.putBytes {w a : Nat} {b : Bytes} : OnlyRecord s (s.putBytes w a b) := by
  unfold State.putBytes
  split
  · exact OnlyRecord.writeRun
  · exact OnlyRecord.writeTiles

theorem OnlyRecord.writeCodes {d : Desc} {i c : List Nat} : OnlyRecord s (s.writeCodes d i c) := by
  unfold State.writeCodes
  dsimp only []
  split
  · exact OnlyRecord.writeRun
  · exact OnlyRecord.writeTiles

theorem OnlyRecord.writeRow {d : Desc} {sb : Option Desc} {i : Nat} {o : List Nat} {v : List Val} :
    OnlyRecord s (s.writeRow d sb i o v).1 := by
  unfold State.writeRow
  dsimp only []
  split
  · split
    · exact OnlyRecord.writeCodes
    · exact OnlyRecord.writeCodes.trans OnlyRecord.writeCodes
  · exact OnlyRecord.writeCodes

theorem OnlyRecord.padSideBand {d : Desc} {sb : Option Desc} {o : List Nat} : OnlyRecord s (s.padSideBand d sb o) := by
  unfold State.padSideBand
  split
  · exact rfl
  · exact OnlyRecord.ite OnlyRecord.writeCodes rfl

theorem OnlyRecord.writeRows {d : Desc} {sb : Option Desc} {l : List (List Nat × List Val)} :
    OnlyRecord s (s.writeRows d sb l).1 := by
  induction l generalizing s with
  | nil => exact rfl
  | cons r l ih => exact (OnlyRecord.writeRow.trans OnlyRecord.padSideBand).trans ih

theorem OnlyRecord.stamp {x : Ctx} {w : WeightSet} {l : List Nat} : OnlyRecord s (s.stamp x w l) := by
  refine OnlyRecord.foldl (fun b j => ?_) _
  have e {v n m : Nat} {a : State} : OnlyRecord a (a.setVersion w.verdesc v n m) := by
    unfold State.setVersion
    split
    · exact rfl
    · exact OnlyRecord.writeRun.trans OnlyRecord.writeRun
  exact OnlyRecord.trans (t := b.setVersion w.verdesc j (s.step.current % 2) s.step.current) e (OnlyRecord.ite rfl rfl)

theorem OnlyRecord.stampPlane {x : Ctx} {n : Nat} : OnlyRecord s (s.stampPlane x n) := by
  unfold State.stampPlane
  split
  · exact rfl
  · exact OnlyRecord.stamp

theorem OnlyRecord.setSync {m : Nat} {b : Bool} : OnlyRecord s (s.setSync m b) := rfl

/-! ### Output with status -/

theorem OnlyRecord.writeStatus {x : Ctx} {n : Nat} {d : Desc} {l : List (List Nat × List OutElem)} :
    OnlyRecord s (s.writeStatus x n d l) :=
  OnlyRecord.trans (t := { s with step := { s.step with
      tiles := setKey n (tileBytes d ((lookupKey n s.step.tiles).getD []) l) s.step.tiles } }) rfl
    ((OnlyRecord.count.trans OnlyRecord.count).trans OnlyRecord.count)

theorem OnlyRecord.writeFinal {x : Ctx} {n : Nat} {d : Desc} {sb : Option Desc} {l : List (List Nat × List OutElem)} :
    OnlyRecord s (s.writeFinal x n d sb l) :=
  (OnlyRecord.writeRows.trans OnlyRecord.charge).trans OnlyRecord.writeStatus

theorem OnlyRecord.clearStatus {x : Ctx} {n : Nat} {d : Desc} {l : List (List Nat)} :
    OnlyRecord s (s.clearStatus x n d l) := OnlyRecord.writeStatus

theorem OnlyRecord.writeRaw {x : Ctx} {n : Nat} {d : Desc} {l : List (List Nat × List Nat)} :
    OnlyRecord s (s.writeRaw x n d l) :=
  ((OnlyRecord.foldl (fun _ _ => OnlyRecord.writeCodes) _).trans OnlyRecord.charge).trans OnlyRecord.writeStatus

theorem OnlyRecord.writePartial {n : Nat} {d : Desc} {pl : Option Desc} {l : List (List Nat × List OutElem)} :
    OnlyRecord s (s.writePartial n d pl l) := by
  unfold State.writePartial
  dsimp only []
  split
  · exact OnlyRecord.writeRows.trans OnlyRecord.noteNan
  · exact (OnlyRecord.writeRows.trans OnlyRecord.noteNan).trans (OnlyRecord.foldl (fun _ _ => OnlyRecord.writeCodes) _)

theorem OnlyRecord.writeStochastic {x : Ctx} {n : Nat} {d : Desc} {l : List (List Nat × List OutElem)} :
    OnlyRecord s (s.writeStochastic x n d l) :=
  ((OnlyRecord.foldl (fun _ _ => OnlyRecord.writeCodes) _).trans OnlyRecord.charge).trans OnlyRecord.writeStatus

theorem OnlyRecord.writeDense {x : Ctx} {int : Bool} {m : Nat × Nat} {l : List (List Nat × List OutElem)} {a b : Nat} :
    OnlyRecord s (s.writeDense x int m l a b) := by
  have k : OnlyRecord s (if x.r.flag 3 then s
      else (s.charge x a { mismatch := m.1 }).charge x b { mismatch := m.2 }) :=
    OnlyRecord.ite rfl (OnlyRecord.charge.trans OnlyRecord.charge)
  unfold State.writeDense
  dsimp only []
  split
  · exact k
  · exact (k.trans (OnlyRecord.ite OnlyRecord.writePartial
      (OnlyRecord.ite OnlyRecord.writeStochastic OnlyRecord.writeFinal))).trans OnlyRecord.stampPlane

/-! ### Effects of records -/

variable {x : Ctx} {q : QRec}

theorem OnlyRecord.denseEffect : OnlyRecord s (denseEffect x q s) := by
  unfold Machine.denseEffect
  split
  · exact OnlyRecord.writeDense
  · exact rfl

theorem OnlyRecord.blkEffect (h : s.blkClean x) : OnlyRecord s (blkEffect x q s) := by
  unfold Machine.blkEffect
  split
  · rename_i na a nb b no out ha hb ho
    have k := h (na, a) (nb, b) ha hb
    dsimp only [] at k ⊢
    rw [k]
    exact OnlyRecord.writeDense
  · exact rfl

theorem OnlyRecord.vuCharge {i : VuIn} : OnlyRecord s (s.vuCharge x i) := OnlyRecord.charge

theorem OnlyRecord.vuWrite {l : List (List Nat × List OutElem)} : OnlyRecord s (s.vuWrite x l) := by
  unfold State.vuWrite
  split
  · exact rfl
  · exact OnlyRecord.writeFinal.trans OnlyRecord.stampPlane

theorem OnlyRecord.vuMap1 {f : Rec → Val → Val} : OnlyRecord s (vuMap1 f x q s) := by
  unfold Machine.vuMap1
  split
  · exact rfl
  · exact OnlyRecord.vuCharge.trans OnlyRecord.vuWrite

theorem OnlyRecord.vuMap2 {f : Ctx → Val → Val → Val} : OnlyRecord s (vuMap2 f x q s) := by
  unfold Machine.vuMap2
  split
  · exact (OnlyRecord.vuCharge.trans OnlyRecord.vuCharge).trans OnlyRecord.vuWrite
  · exact rfl

theorem OnlyRecord.tableEffect : OnlyRecord s (tableEffect x q s) := by
  unfold Machine.tableEffect
  split
  · exact rfl
  · exact OnlyRecord.vuMap1

theorem OnlyRecord.derivTableEffect : OnlyRecord s (derivTableEffect x q s) := by
  unfold Machine.derivTableEffect
  split
  · exact rfl
  · exact OnlyRecord.vuMap2

theorem OnlyRecord.reduceEffect : OnlyRecord s (reduceEffect x q s) := by
  unfold Machine.reduceEffect
  split
  · exact OnlyRecord.vuCharge.trans OnlyRecord.vuWrite
  · exact rfl

theorem OnlyRecord.dropoutEffect : OnlyRecord s (dropoutEffect x q s) := by
  unfold Machine.dropoutEffect
  split
  · exact rfl
  · exact OnlyRecord.vuWrite

/-! ### Sparse engine -/

theorem OnlyRecord.spHealth {g : SpShape} {w : Desc} {b : Bool} {l : Option (List Nat)} {ts : List (Nat × TileData)}
    {n : Nat} : OnlyRecord s (s.spHealth x g w b l ts n) := by
  unfold State.spHealth
  dsimp only []
  exact OnlyRecord.ite rfl (OnlyRecord.ite rfl rfl)

theorem OnlyRecord.spWrite {u : SpRun} {g : List (List Nat × List (Nat × TileData))} {n : Nat} :
    OnlyRecord s (s.spWrite x u g n) := by
  unfold State.spWrite
  exact OnlyRecord.trans (OnlyRecord.ite OnlyRecord.writePartial (OnlyRecord.charge.trans OnlyRecord.writeFinal))
    OnlyRecord.stampPlane

theorem OnlyRecord.spProduct {f : TFmt} (h : s.spClean x f) : OnlyRecord s (spProduct f x q s) := by
  obtain ⟨u, h, k⟩ := h
  unfold Machine.spProduct
  rw [h]
  dsimp only []
  rw [k]
  exact OnlyRecord.spHealth.trans OnlyRecord.spWrite

theorem takeWhile_all {α : Type} {f : α → Bool} {l : List α} (h : ∀ a ∈ l, f a = true) : l.takeWhile f = l := by
  induction l with
  | nil => rfl
  | cons a l ih => simp_all

theorem OnlyRecord.sampledEffect (h : s.sampledClean x) : OnlyRecord s (sampledEffect x q s) := by
  unfold Machine.sampledEffect
  split
  · rename_i _ u nv v no plane ns st hu hv ho hs
    obtain ⟨k, l⟩ := h (nv, v) (no, plane) (ns, st) hv ho hs
    dsimp only [] at k l ⊢
    rw [takeWhile_all l, k]
    simp only [List.getElem?_length]
    exact OnlyRecord.trans OnlyRecord.addObj
      ((OnlyRecord.ite OnlyRecord.writePartial OnlyRecord.writeFinal).trans OnlyRecord.stampPlane)
  · exact rfl

theorem OnlyRecord.gatherEffect (h : s.gatherClean x) : OnlyRecord s (gatherEffect x q s) := by
  unfold Machine.gatherEffect
  split
  · rename_i ns src no out hs ho
    have k := h (ns, src) (no, out) hs ho
    dsimp only [] at k ⊢
    split
    · simp_all
    · exact (((OnlyRecord.charge.trans OnlyRecord.addObj).trans OnlyRecord.chargeIndex).trans
        OnlyRecord.writeFinal).trans OnlyRecord.stampPlane
  · exact rfl

theorem OnlyRecord.scatterEffect (h : s.scatterClean x) : OnlyRecord s (scatterEffect x q s) := by
  unfold Machine.scatterEffect
  split
  · rename_i ns src no out hs ho
    have k := h (ns, src) hs
    dsimp only [] at k ⊢
    split
    · simp_all
    · exact (((OnlyRecord.charge.trans OnlyRecord.charge).trans OnlyRecord.chargeIndex).trans
        OnlyRecord.writeFinal).trans OnlyRecord.stampPlane
  · exact rfl

theorem OnlyRecord.dispatchEffect (h : s.scatterClean x) : OnlyRecord s (dispatchEffect x q s) := by
  unfold Machine.dispatchEffect
  split
  · rename_i ns src _ _ _ _ _ _ hs _ _ _
    have k := h (ns, src) hs
    dsimp only [] at k ⊢
    split
    · simp_all
    · exact (((OnlyRecord.chargeRoute.trans OnlyRecord.writeFinal).trans OnlyRecord.stampPlane).trans
        OnlyRecord.writeFinal).trans OnlyRecord.stampPlane
  · exact rfl

theorem OnlyRecord.combineEffect (h : s.combineClean x) : OnlyRecord s (combineEffect x q s) := by
  unfold Machine.combineEffect
  split
  · rename_i _ _ _ _ no out nm map _ _ ho hm
    obtain ⟨offs, maps, k, l⟩ := h (no, out) (nm, map) ho hm
    dsimp only [] at k l ⊢
    rw [k]
    dsimp only []
    rw [l]
    exact OnlyRecord.writeFinal.trans OnlyRecord.stampPlane
  · exact rfl

/-! ### Streams, optimizer and predictor -/

theorem OnlyRecord.moveBits {a b : Desc} {n : Nat} : OnlyRecord s (s.moveBits x a b n) := by
  unfold State.moveBits
  dsimp only []
  split
  · exact OnlyRecord.writeRaw.trans (OnlyRecord.foldl (fun _ _ => OnlyRecord.writeCodes.trans OnlyRecord.padSideBand) _)
  · exact OnlyRecord.writeRaw

theorem OnlyRecord.loadSync {p : Plan} {n : Nat} : OnlyRecord s (s.loadSync p n) := by
  unfold State.loadSync
  split
  · exact OnlyRecord.ite rfl rfl
  · exact rfl

theorem OnlyRecord.copyEffect : OnlyRecord s (copyEffect x q s) := by
  unfold Machine.copyEffect
  split
  · exact OnlyRecord.ite
      ((OnlyRecord.ite (OnlyRecord.moveBits.trans OnlyRecord.loadSync) OnlyRecord.moveBits).trans OnlyRecord.stampPlane)
      ((OnlyRecord.charge.trans OnlyRecord.writeFinal).trans OnlyRecord.stampPlane)
  · exact rfl

theorem OnlyRecord.transposeEffect : OnlyRecord s (transposeEffect x q s) := by
  unfold Machine.transposeEffect
  split
  · exact (OnlyRecord.charge.trans OnlyRecord.writeFinal).trans OnlyRecord.stampPlane
  · exact rfl

theorem OnlyRecord.writeDirRow {d : Desc} {a : StashAlloc} : OnlyRecord s (s.writeDirRow x d a) := OnlyRecord.writeCodes

theorem OnlyRecord.stashWriteEffect : OnlyRecord s (stashWriteEffect x q s) := by
  unfold Machine.stashWriteEffect
  split
  · exact OnlyRecord.ite
      ((((OnlyRecord.putBytes.trans OnlyRecord.putBytes).trans OnlyRecord.charge).trans OnlyRecord.writeDirRow).trans
        OnlyRecord.stampPlane)
      (OnlyRecord.writeDirRow.trans OnlyRecord.count)
  · exact rfl

theorem OnlyRecord.stashReadEffect (h : s.stashClean x) : OnlyRecord s (stashReadEffect x q s) := by
  unfold Machine.stashReadEffect
  split
  · rename_i _ _ _ _ _ _ nd dir _ _ _ hd
    have k := h (nd, dir) hd
    dsimp only [] at k ⊢
    rw [if_neg (fun n => n k)]
    exact OnlyRecord.writeRaw.trans OnlyRecord.stampPlane
  · exact rfl

theorem OnlyRecord.updatePlane {d : Desc} {l : List (List Nat × Nat × Nat)} : OnlyRecord s (s.updatePlane d l) :=
  OnlyRecord.foldl (fun _ _ => OnlyRecord.writeCodes) _

theorem OnlyRecord.updateSlot {d : Desc} {n : Nat} {t : TileData} {l : List (Spot × Nat)} :
    OnlyRecord s (s.updateSlot d n t l) := OnlyRecord.writeRun

theorem OnlyRecord.writeValues {v : Desc} {tv : Option Desc} {n : Nat} {sl : SliceSpots} {l : List (Spot × Nat)} :
    OnlyRecord s (s.writeValues v tv n sl l) := by
  unfold State.writeValues
  split
  · cases tv
    · exact OnlyRecord.updatePlane
    · exact OnlyRecord.updatePlane.trans OnlyRecord.updatePlane
  · cases tv
    · exact OnlyRecord.updateSlot
    · exact OnlyRecord.updateSlot.trans OnlyRecord.updateSlot

theorem OnlyRecord.writeOpt {pl : OptPlanes} {tv : Option Desc} {n : Nat} {sl : SliceSpots} {os : List OptOut} :
    OnlyRecord s (s.writeOpt pl tv n sl os) := by
  have k : OnlyRecord s (s.writeOpt { pl with m2w := none } tv n sl os) :=
    (OnlyRecord.writeValues.trans OnlyRecord.updatePlane).trans OnlyRecord.updatePlane
  unfold State.writeOpt at k ⊢
  dsimp only [] at k ⊢
  split
  · exact k.trans OnlyRecord.updatePlane
  · exact k

theorem OnlyRecord.optEffect (h : s.slicesClean x (x.r.param0.toNat / 256 % 256)) : OnlyRecord s (optEffect x q s) := by
  unfold Machine.optEffect
  dsimp only []
  split
  · rename_i w _ g _ hd nv _ hw h0 h3 h2
    split
    · exact rfl
    · rename_i pl hp
      have e : ∃ v, x.rd x.r.desc1 = some v ∧ pl.vr = v.2 := by
        unfold optPlanes at hp
        dsimp only [] at hp
        split at hp
        · rename_i n v _ _ _ _ _ _ h1 _ _ _ _ _
          simp only [Option.some.injEq] at hp
          exact ⟨(n, v), h1, by rw [← hp]⟩
        · exact absurd hp (by simp)
      obtain ⟨v, h1, ev⟩ := e
      have k := h w v hw h1
      rw [← ev] at k
      rw [k]
      have c (a : State) (tv : Option (Nat × Desc)) (n : Nat) : OnlyRecord a (match tv with
          | some (m, _) => a.charge x m { nanOut := n }
          | none => a) := by
        cases tv
        · exact rfl
        · exact OnlyRecord.charge
      exact (((((((OnlyRecord.foldl (fun _ _ => OnlyRecord.writeOpt) _).trans OnlyRecord.charge).trans (c _ _ _)).trans
        OnlyRecord.charge).trans OnlyRecord.charge).trans OnlyRecord.countInexact).trans
        (OnlyRecord.foldl (fun _ _ => OnlyRecord.clearStatus) _)).trans OnlyRecord.stamp
  · exact rfl

theorem OnlyRecord.composeEffect (h : s.slicesClean x (x.r.param0.toNat % 256)) : OnlyRecord s (composeEffect x q s) := by
  unfold Machine.composeEffect
  split
  · rename_i w n v _ _ hw h1 _
    have k := h w (n, v) hw h1
    dsimp only [] at k ⊢
    rw [k]
    dsimp only []
    split
    · exact ((OnlyRecord.updatePlane.trans OnlyRecord.charge).trans OnlyRecord.clearStatus).trans OnlyRecord.stamp
    · exact (OnlyRecord.updatePlane.trans OnlyRecord.charge).trans OnlyRecord.clearStatus
  · exact rfl

theorem OnlyRecord.writeList {n : Nat} {d : Desc} {l : List Nat} : OnlyRecord s (s.writeList x n d l) :=
  OnlyRecord.writeRaw

theorem OnlyRecord.predictEffect (h : s.tokensClean x) : OnlyRecord s (predictEffect x q s) := by
  unfold Machine.predictEffect
  split
  · rename_i _ n d _ _ _ h0 _
    have k := h (n, d) h0
    dsimp only [] at k
    split
    · simp_all
    · dsimp only []
      split
      · exact (((OnlyRecord.writeList.trans (OnlyRecord.ite (OnlyRecord.refl _) OnlyRecord.writeFinal)).trans
          OnlyRecord.countPred).trans OnlyRecord.countPred).trans OnlyRecord.countPredQuiet
      · exact ((OnlyRecord.writeList.trans OnlyRecord.countPred).trans OnlyRecord.countPred).trans
          OnlyRecord.countPredQuiet
  · exact rfl

theorem OnlyRecord.writeGlean {e : PredEntry} {l g : List Nat} : OnlyRecord s (s.writeGlean x e l g) := by
  have k {a : State} {d : Option Nat} {l : List Nat} : OnlyRecord a (match x.wr d with
      | some (n, t) => a.writeList x n t l
      | none => a) := by
    split
    · exact OnlyRecord.writeList
    · exact rfl
  exact (k.trans k).trans k

theorem OnlyRecord.checkEffect (h : s.listClean x) : OnlyRecord s (checkEffect x q s) := by
  unfold Machine.checkEffect
  split
  · rename_i e n z m list he h0 h1
    have k := h.1 (n, z) h0
    have l := h.2 e (m, list) he h1
    dsimp only [] at k l
    split
    · simp_all
    · simp_all
    · refine OnlyRecord.trans OnlyRecord.countPred (OnlyRecord.ite ?_ (OnlyRecord.ite ?_ rfl))
      · exact (OnlyRecord.countPred.trans OnlyRecord.countPred).trans OnlyRecord.writeGlean
      · exact OnlyRecord.event.trans rfl
  · exact rfl

theorem OnlyRecord.mergeEffect (h : s.mergeClean x) : OnlyRecord s (mergeEffect x q s) := by
  unfold Machine.mergeEffect
  split
  · rename_i n src m ix _ _ h0 h1 _
    have k := h (n, src) (m, ix) h0 h1
    dsimp only [] at k
    split
    · simp_all
    · exact OnlyRecord.writeRaw.trans OnlyRecord.stampPlane
  · exact rfl

theorem OnlyRecord.refEffect (h : s.listClean x) : OnlyRecord s (refEffect x q s) := by
  unfold Machine.refEffect
  split
  · rename_i e n z m list _ _ he h0 h1 _
    have k := h.1 (n, z) h0
    have l := h.2 e (m, list) he h1
    dsimp only [] at k l
    split
    · simp_all
    · simp_all
    · exact ((OnlyRecord.countPredQuiet.trans OnlyRecord.countPredQuiet).trans OnlyRecord.countPredQuiet).trans rfl
  · exact rfl

/-! ### Collectives -/

theorem OnlyRecord.reduceScatterEffect {l : List PartIn} {m n : Nat} (h : reduceScatterEffect l x m n s = some t) :
    OnlyRecord s t := by
  unfold Machine.reduceScatterEffect at h
  split at h
  · split at h
    · exact absurd h (by simp)
    · cases h
      exact (OnlyRecord.ite OnlyRecord.writePartial OnlyRecord.writeFinal).trans OnlyRecord.stampPlane
  · cases h
    exact rfl

theorem OnlyRecord.allGatherEffect {l : List Bytes} {m n : Nat} (h : allGatherEffect l x m n s = some t) :
    OnlyRecord s t := by
  unfold Machine.allGatherEffect at h
  split at h
  · dsimp only [] at h
    split at h
    · exact absurd h (by simp)
    · split at h
      · split at h
        · cases h
          exact (OnlyRecord.writeRaw.trans OnlyRecord.stampPlane).trans OnlyRecord.stamp
        · cases h
          exact OnlyRecord.writeRaw.trans OnlyRecord.stampPlane
      · cases h
        exact OnlyRecord.writeRaw.trans OnlyRecord.stampPlane
  · cases h
    exact rfl

theorem OnlyRecord.allToAllEffect {l : List Bytes} {m n : Nat} (h : allToAllEffect l x m n s = some t) :
    OnlyRecord s t := by
  unfold Machine.allToAllEffect at h
  split at h
  · dsimp only [] at h
    split at h
    · exact absurd h (by simp)
    · cases h
      exact OnlyRecord.writeRaw.trans OnlyRecord.stampPlane
  · cases h
    exact rfl

/-! ### Mask engines -/

theorem OnlyRecord.scoreEffect (h : s.scoreClean x) : OnlyRecord s (scoreEffect x q s) := by
  unfold Machine.scoreEffect
  split
  · rename_i n st _ _ h1 _
    have k := h (n, st) h1
    dsimp only [] at k
    split
    · rename_i e
      rw [e] at k
      simp at k
    · exact OnlyRecord.writeRaw.trans OnlyRecord.count
  · exact rfl

theorem OnlyRecord.selectEffect (h : s.selectClean x) : OnlyRecord s (selectEffect x q s) := by
  unfold Machine.selectEffect
  split
  · rename_i n st no out nc cd ns sched h0 h2 h4 h5
    obtain ⟨f, k, l, m, o⟩ := h (n, st) (no, out) (nc, cd) (ns, sched) h0 h2 h4 h5
    dsimp only [] at k l m o
    rw [k]
    dsimp only []
    split
    · rename_i e
      rw [e] at l
      simp at l
    · rename_i e
      rw [e] at m o
      dsimp only [] at m o
      rw [m]
      simp only [Bool.not_true, Bool.false_eq_true, ↓reduceIte]
      split
      · simp_all
      · exact ((OnlyRecord.writeRaw.trans OnlyRecord.count).trans OnlyRecord.count).trans OnlyRecord.count
  · exact rfl

theorem OnlyRecord.putRebuilt {d : Desc} {pl : List (Nat × Desc)} {b : Rebuilt} : OnlyRecord s (s.putRebuilt d pl b) :=
  OnlyRecord.writeRun.trans (OnlyRecord.foldl (fun _ _ => OnlyRecord.writeCodes) _)

theorem OnlyRecord.applyEffect (h : s.applyClean x) : OnlyRecord s (applyEffect x q s) := by
  unfold Machine.applyEffect
  split
  · rename_i n st m ch _ _ h2 h4 _
    obtain ⟨a, b, c, d⟩ := h (n, st) (m, ch) h2 h4
    dsimp only [] at a b c d ⊢
    rw [b, c, d, a]
    simp only [Bool.not_true, Bool.false_eq_true, ↓reduceIte]
    exact (((((OnlyRecord.setSync.trans (OnlyRecord.foldl (fun _ _ => OnlyRecord.putRebuilt) _)).trans
      OnlyRecord.writeRun).trans OnlyRecord.clearStatus).trans OnlyRecord.charge).trans OnlyRecord.countInexact).trans
      (OnlyRecord.foldl (fun _ _ => OnlyRecord.clearStatus.trans OnlyRecord.stampPlane) _)
  · exact rfl

theorem OnlyRecord.convertEffect (h : s.convertClean x) : OnlyRecord s (convertEffect x q s) := by
  unfold Machine.convertEffect
  split
  · rename_i n st m tgt h0 h2
    obtain ⟨a, kt, b, c⟩ := h (n, st) (m, tgt) h0 h2
    dsimp only [] at a b c ⊢
    rw [b]
    dsimp only []
    rw [c, a]
    exact (((OnlyRecord.foldl (fun _ _ => OnlyRecord.writeRun) _).trans OnlyRecord.charge).trans
      OnlyRecord.clearStatus).trans OnlyRecord.stampPlane
  · exact rfl

theorem OnlyRecord.syncEffect : OnlyRecord s (syncEffect x q s) := by
  unfold Machine.syncEffect
  refine OnlyRecord.ite rfl ?_
  split
  · exact (((OnlyRecord.foldl (fun _ _ => OnlyRecord.writeRun) _).trans OnlyRecord.setSync).trans
      OnlyRecord.clearStatus).trans OnlyRecord.stampPlane
  · exact rfl



end Sys2Proof.Machine
end

