-- ==== Sys2Proof/WellFormed.lean ====
section
/-! DEFINITION. Which commands are well formed: what the types of Sys2Proof/Syntax.lean do not say of the operands, the
widths and lengths of the fields they stand for. `exec` is total and asks for none of it. -/

namespace Sys2Proof

/-- A flit's fields fit their places: `HOPPTR` four bits, `CRED` ten, 224 bytes of payload (R387). -/
def Flit.wf (f : Flit) : Bool :=
  decide (f.hopptr < 16) && decide (f.payload.length ≤ 224) &&
    (match f.cred with
     | none => true
     | some (_, n) => decide (n < 1024))

/-- A source is an IPv4 or IPv6 address and a port, or a peer (R450, R462). -/
def Source.wf : Source → Bool
  | .host a _ => decide (a < 2 ^ 128)
  | .peer _ => true

/-- A signed frame carries an ML-DSA-44 signature of 2,420 bytes (R461). -/
def FrameHead.wf (h : FrameHead) : Bool :=
  match h.auth with
  | none => true
  | some a => a.signature.length == 2420

/-- A request: its source, its header, and at most 4,096 bytes of payload (R461). -/
def requestWf (src : Source) (h : FrameHead) (payload : Bytes) : Bool :=
  src.wf && h.wf && decide (payload.length ≤ 4096)

/-- A refresh carries one reading for each die, rail, engine kind and port (R485). -/
def Telemetry.wf (t : Telemetry) : Bool :=
  decide (t.energyMj < 2 ^ 64) && t.dieTemp.length == 6 && t.railW.length == 7 && t.engineBusy.length == 7 &&
    t.portTx.length == 32

/-- A contribution has one bit of each plane for each element (R97). -/
def PartIn.wf (p : PartIn) : Bool :=
  p.sat.length == p.values.length && p.ovf.length == p.values.length

/-- A record's number has 32 bits (R42). -/
def recnoWf (r : Nat) : Bool := decide (r < 2 ^ 32)

/-- An address has 48 bits (R18, R398). -/
def addressWf (a : Nat) : Bool := decide (a < 2 ^ 48)

/-- The condition a watchdog stands on names a record and a GC of 64 bits (R375). -/
def WatchCondition.wf : WatchCondition → Bool
  | .crossing _ _ r t => recnoWf r && decide (t < 2 ^ 64)
  | .credit _ r => recnoWf r
  | .engine _ r t => recnoWf r && decide (t < 2 ^ 64)

/-- The bytes of every member of a collective are as many (R404, R405). -/
def equalLengths (l : List Bytes) : Bool :=
  match l with
  | [] => true
  | b :: l => l.all (fun x => x.length == b.length)

/-- A flit is 256 bytes long, and a lane carries 68 of the 544 symbols of each codeword of a block (R386, R387). -/
def BadFlit.wf : BadFlit → Bool
  | .flit raw => raw.length == 256
  | .block errors => errors.toList.all (fun l => l.toList.all (fun n => decide (n ≤ 68)))

/-- No lane is reported twice by a scan (R349). -/
def scansWf (v : Vector StackScan 8) : Bool := v.toList.all (fun x => decide (x.others.map Prod.fst).Nodup)

/-- A command's operands fit the fields they stand for. -/
def Instr.wf : Instr → Bool
  | .pwrEnAssert _ => true
  | .pwrEnDeassert => true
  | .resetNAssert => true
  | .resetNRelease _ => true
  | .bringupComplete b => scansWf b.scans && decide b.unrepairable.Nodup && decide b.coreFail.Nodup
  | .bringupTimeout => true
  | .undervoltageStop => true
  | .overvoltageLockout => true
  | .overCurrentTrip => true
  | .inputVoltageOutOfRange => true
  | .inputPowerHigh => true
  | .coolantInletHigh => true
  | .dieTempWarning _ => true
  | .dieTrip _ => true
  | .stackTrip _ => true
  | .pllLockLost _ => true
  | .freezeNAssert => true
  | .freezeNDeassert => true
  | .syncInPulse => true
  | .tapReset => true
  | .tapBypass _ => true
  | .tapIdcode => true
  | .tapIjtag _ => true
  | .hbmTempReading _ _ => true
  | .holdSend => true
  | .sramScrub a _ => addressWf a
  | .hbmScrub a _ => addressWf a
  | .spareSelfTest _ _ => true
  | .marginDriftProbe _ _ _ _ => true
  | .laserInputMeasure _ _ => true
  | .keepaliveSend _ => true
  | .portSilence _ => true
  | .portUp _ _ _ => true
  | .timeFlitSend _ => true
  | .gcHoldover => true
  | .gcUnlocked => true
  | .gcDomainAlign _ => true
  | .lossWindowExpiry _ => true
  | .watchdogExpiry w => w.wf
  | .stepOvertime => true
  | .mgmtTakeover => true
  | .mgmtBothSilent => true
  | .segTransferTimeout _ _ => true
  | .snapshotExpiry src _ _ => src.wf
  | .laneLockLost _ _ => true
  | .laneSwapAtBlock _ _ => true
  | .laneRetestDone _ _ _ _ => true
  | .transientBinRoll => true
  | .telemetryRefresh t => t.wf
  | .freezeCountReached => true
  | .captureTimeout => true
  | .flitCrcFail _ bad => bad.wf
  | .idle _ f => f.wf
  | .writeHead _ f => f.wf
  | .data _ f => f.wf
  | .writeAck _ f => f.wf
  | .tally _ f => f.wf
  | .keepalive _ f => f.wf
  | .time _ f => f.wf
  | .agree _ f => f.wf
  | .hold _ f => f.wf
  | .freeze _ f => f.wf
  | .frozen _ f => f.wf
  | .loss _ f => f.wf
  | .dyingGasp _ f => f.wf
  | .mgmt _ f => f.wf
  | .nak _ f => f.wf
  | .lanectl _ f => f.wf
  | .abort _ f => f.wf
  | .flitReservedType _ t f => decide (0x10 < t.toNat) && f.wf
  | .hostLinkDown => true
  | .hostLinkUp => true
  | .hostFrameDiscard => true
  | .neighbourReply _ => true
  | .rdmaRead _ _ va n => decide (va < 2 ^ 64) && decide (n < 2 ^ 32)
  | .rdmaWrite _ _ va b => decide (va < 2 ^ 64) && decide (b.length < 2 ^ 32)
  | .rdmaCompareSwap _ _ va _ _ => decide (va < 2 ^ 64)
  | .rdmaUnsupported _ _ => true
  | .ivwidinRead src h _ _ b => requestWf src h b
  | .ivwidinWrite src h _ _ b => requestWf src h b
  | .segRead src h _ _ b => requestWf src h b
  | .segWrite src h _ _ b => requestWf src h b
  | .attest src h b => requestWf src h b && b.length == 32
  | .rwsStageWrite src h _ _ b => requestWf src h b
  | .selectorWrite src h _ b => requestWf src h b
  | .planStage src h b => requestWf src h b
  | .launchGc src h b => requestWf src h b
  | .nodeId src h b => requestWf src h b
  | .marginStart src h b => requestWf src h b
  | .marginScanDone v => scansWf v
  | .freezeRequestCapture src h => requestWf src h []
  | .freezeRequestFull src h => requestWf src h []
  | .freezeAtGc src h b => requestWf src h b
  | .freezeRelease src h b => requestWf src h b
  | .captureReadout src h _ b => requestWf src h b
  | .ckptRestore src h b => requestWf src h b
  | .spareRequest src h b => requestWf src h b
  | .updateStage src h _ b => requestWf src h b
  | .programPin src h _ b => requestWf src h b
  | .stageDiscard src h b => requestWf src h b
  | .eventLogClear src h b => requestWf src h b
  | .customerKeyProgram src h b => requestWf src h b
  | .customerKeyRevoke src h b => requestWf src h b
  | .predPolicy src h _ b => requestWf src h b
  | .replayTap src h _ b => requestWf src h b
  | .qpTable src h b => requestWf src h b
  | .agreeContribute => true
  | .agreeAttemptEnd => true
  | .agreeRetryTimer => true
  | .stepLaunch => true
  | .recordIssue _ => true
  | .sheafFetch _ j _ => decide (64 * j < 2 ^ 32)
  | .creditGrant _ r => recnoWf r
  | .dataArrival _ r _ => recnoWf r
  | .feedReadLanded _ r a _ => recnoWf r && addressWf a
  | .chainTileForward _ r => recnoWf r
  | .loadInterlockRelease _ r _ => recnoWf r
  | .recordComplete _ r => recnoWf r
  | .signalArrival _ => true
  | .stepComplete => true
  | .recordFault _ r _ => recnoWf r
  | .spareCopyDone _ => true
  | .noOperation _ r => recnoWf r
  | .regenGate _ r => recnoWf r
  | .matrixProductMultiplyAdd _ r => recnoWf r
  | .squaredL2Distance _ r => recnoWf r
  | .l1Distance _ r => recnoWf r
  | .maxPlus _ r => recnoWf r
  | .minPlus _ r => recnoWf r
  | .compareAndCount _ r => recnoWf r
  | .blk16Product _ r => recnoWf r
  | .brtKProduct _ r => recnoWf r
  | .csrTProduct _ r => recnoWf r
  | .sampledProduct _ r => recnoWf r
  | .gather _ r => recnoWf r
  | .scatterAdd _ r => recnoWf r
  | .expertDispatch _ r => recnoWf r
  | .expertCombine _ r => recnoWf r
  | .tableFunction _ r => recnoWf r
  | .derivativeTable _ r => recnoWf r
  | .derivativeHusk _ r => recnoWf r
  | .elementAdd _ r => recnoWf r
  | .elementSubtract _ r => recnoWf r
  | .elementMultiply _ r => recnoWf r
  | .elementDivide _ r => recnoWf r
  | .elementMaximum _ r => recnoWf r
  | .elementMinimum _ r => recnoWf r
  | .elementSquareRoot _ r => recnoWf r
  | .elementLogarithm _ r => recnoWf r
  | .elementCompare _ r => recnoWf r
  | .reduceSum _ r => recnoWf r
  | .reduceMean _ r => recnoWf r
  | .reduceMaximum _ r => recnoWf r
  | .reduceMinimum _ r => recnoWf r
  | .dropoutMask _ r => recnoWf r
  | .optimizerMomentumSgd _ r => recnoWf r
  | .optimizerAdam _ r => recnoWf r
  | .optimizerAdamw _ r => recnoWf r
  | .compose _ r => recnoWf r
  | .predict _ r => recnoWf r
  | .check _ r => recnoWf r
  | .merge _ r => recnoWf r
  | .referenceCount _ r => recnoWf r
  | .copy _ r => recnoWf r
  | .transposeCopy _ r => recnoWf r
  | .stashWrite _ r => recnoWf r
  | .stashRead _ r => recnoWf r
  | .prefetch _ r => recnoWf r
  | .cancel _ r => recnoWf r
  | .scoreGradient _ r => recnoWf r
  | .scoreRandom _ r => recnoWf r
  | .select _ r => recnoWf r
  | .rebuildApply _ r => recnoWf r
  | .rebuildConvert _ r => recnoWf r
  | .maskCommitRecord _ r => recnoWf r
  | .sync _ r => recnoWf r
  | .reduceScatter _ r l => recnoWf r && l.all PartIn.wf
  | .allGather _ r l => recnoWf r && equalLengths l
  | .allToAllDispatch _ r l => recnoWf r && equalLengths l
  | .allToAllReturn _ r l => recnoWf r && equalLengths l
  | .collectiveStageEnd _ r => recnoWf r
  | .shardStream _ r => recnoWf r
  | .shardVerify _ r => recnoWf r
  | .undervoltageLockoutExit => true
  | .overvoltageLockoutExit => true
  | .discreteInputIgnored _ => true
  | .ckptRestoreDone _ => true
  | .standbyReady => true

end Sys2Proof
end

