-- ==== Sys2Proof/Tests/Slice0.lean ====
section
/-! SUPPORT. Tests: the refusals of the well-formedness checks, the spec's worked examples, and for every statement
with hypotheses a state and operands that meet them. -/

namespace Sys2Proof.Tests

open Sys2Proof.Machine

set_option Elab.async false

/-! ### Helpers -/

/-- `exec` answers a next state of which something holds. -/
def after (c : Instr) (s : State) (f : State → Bool) : Bool :=
  match exec c s with
  | .next t => f t
  | _ => false

/-- Two states agree, but for what each part has of its own. -/
def same (t s : State) : Bool :=
  decide (t.phase = s.phase) && decide (t.stage = s.stage) && decide (t.latchedCause = s.latchedCause) &&
  decide (t.pins = s.pins) && decide (t.bringup = s.bringup) && decide (t.od = s.od) && decide (t.log = s.log) &&
  decide (t.mem = s.mem) && decide (t.poison = s.poison) && decide (t.gc = s.gc) && decide (t.step = s.step) &&
  decide (t.cores = s.cores) && decide (t.ports = s.ports) && decide (t.temps = s.temps) && decide (t.freeze = s.freeze) &&
  decide (t.out = s.out) && decide (t.strobes = s.strobes) && decide (t.agree = s.agree) && decide (t.tap = s.tap)

/-- A command leaves a state as it is. -/
def idleOn (c : Instr) (s : State) : Bool := after c s (fun t => same t s)

/-- An event of a code stands in the log. -/
def has (t : State) (c : BitVec 16) : Bool := t.log.recs.any (fun e => decide (e.code = c))

/-- The record of an event that comes next stands in a log. -/
def logged (s t : State) (c : BitVec 16) (i : Nat) (d : Bytes) : Bool :=
  t.log.recs.any (fun e => decide (e.code = c) && decide (e.island = i) && decide (e.detail = d)
    && decide (e.seq = s.log.nextSeq) && decide (e.gc = s.gc.value))

/-- The invariant, as a check. -/
def invOk (s : State) : Bool :=
  Memory.wf s.mem && Assoc.wf objDefault s.od && decide (s.gc.value < 2 ^ 64) &&
  decide (s.log.recs.length ≤ 65536) && decide (s.auditLog.length ≤ 65536) && decide (s.replayLog.length ≤ 65536) &&
  decide (s.mgmt.selections.length ≤ maxSources) && decide (s.nv.fuses.length ≤ 4) &&
  decide (∀ c : Core, (s.coreMap[c]).val / 13 = c.val / 12) &&
  decide (∀ c d : Core, s.coreMap[c] = s.coreMap[d] → c = d) &&
  decide (∀ d : Fin 4, ∀ p, s.spares[d] = some p → p.val / 13 = d.val) &&
  decide (∀ d : Fin 4, ∀ p, s.spares[d] = some p → ∀ c : Core, s.coreMap[c] ≠ p) &&
  decide (∀ x ∈ s.sparing, x.spare.val / 13 = x.logical.val / 12) &&
  decide (∀ x ∈ s.sparing, ∀ c : Core, s.coreMap[c] ≠ x.spare) &&
  decide (s.sparing.Pairwise (fun x y => coreDie x.logical ≠ coreDie y.logical)) &&
  (!s.stepLive || s.plan.isSome)

theorem invOk_inv {s : State} (h : invOk s = true) : s.Inv := by
  unfold invOk at h
  simp only [Bool.and_eq_true, decide_eq_true_eq, Bool.or_eq_true, Bool.not_eq_true'] at h
  obtain ⟨⟨⟨⟨⟨⟨⟨⟨⟨⟨⟨⟨⟨⟨⟨a, b⟩, c⟩, d⟩, e⟩, f⟩, g⟩, i⟩, j⟩, k⟩, l⟩, m⟩, n⟩, o⟩, p⟩, q⟩ := h
  exact ⟨a, b, c, d, e, f, g, i, ⟨j, k, l, m, n, o, p⟩, fun x => by cases q <;> simp_all⟩

/-- A module that has come up. -/
def up : State := { State.reset with bringup := .ready }

/-- A module without power. -/
def dark : State := { up with phase := .dark, stage := .off, pins := ⟨false, true, true, .z, .z, .z, .z⟩ }

/-- A port that is up to a peer. -/
def linked (n : BitVec 16) (q : Nat) : PortState := { PortState.initial with st := .up, peerNode := n, peerPort := q }

/-- A module with a valid node ID 1 and port 0 up to node 2. -/
def wired : State := { (up.setObj 0x1104 0 1).setObj 0x1104 1 1 with ports := up.ports.set 0 (linked 2 3) }

/-- A flit with a payload, its sequence number 0. -/
def flit (b : Bytes) : Flit := ⟨0, none, none, 0, 1, 2, 0, 0, 0, 0, b⟩

/-- A program store that passes every check. -/
def goodStore : StoreChecks := ⟨[], [], true, true⟩

/-- A boot that finds everything in order. -/
def goodBoot : BootChecks := ⟨true, goodStore, goodStore⟩

/-- An eye that passes. -/
def goodEye : LaneEye := ⟨24, 16, 24, 16, 3, 4, 5, 6⟩

/-- Bring-up that finds every lane of every stack open. -/
def goodScans : BringupResult := ⟨Vector.replicate 8 ⟨goodEye, []⟩, [], none, [], 1000⟩

/-- A plan without records. -/
def plan0 : Plan where
  masked := false
  compat := false
  nodeId := 1
  numModules := 1
  stepFirst := 0
  stepLast := 100
  maskPeriod := 0
  ckptPeriod := 0
  setDigest := 0
  configDigest := 0
  imageDigest := 0
  records := List.replicate 48 []
  descs := []
  allocs := []
  pools := []
  needs := []
  chains := []
  routes := []
  backups := []
  groups := []
  refPeriod := 0
  preds := []
  tables := []
  launch := ⟨1000, 100, 50, []⟩
  micro := []
  values := []
  weightSets := []
  windows := []
  ckpt := none

/-- A record of an engine and function, without operands. -/
def rec0 (e : Fin 16) (f : BitVec 12) : Rec where
  engine := e
  func := f
  stat := 0
  part := 0
  pidx := 0
  mode := 0
  fuse := 0
  endstep := false
  recno := 0
  units := 1
  mbtag := 0
  worktag := 0
  segbase := 0
  wver := 0
  desc0 := none
  desc1 := none
  desc2 := none
  desc3 := none
  desc4 := none
  desc5 := none
  param0 := 0
  param1 := 0
  param2 := 0
  plancyc := 1000
  waits := []
  sigs := []

/-- A tensor in HBM, its rows one behind the other. -/
def tensor (base : Nat) (f : Fmt) (sizes : List Nat) : Desc where
  base := base
  hint := .normal
  drop := false
  sat := false
  acc := 1
  fmt := f
  tidHi := 0
  sizes := sizes
  strides := (List.range (sizes.length - 1)).map (fun i => (((sizes.take (i + 1)).foldl (· * ·) 1 : Nat) : Int))

/-- A plan whose logical core 0 has one record. -/
def planOf (r : Rec) (ds : List Desc) : Plan :=
  { plan0 with records := [r] :: List.replicate 47 [], descs := ds }

/-- A running step 4 of a plan, its record 0 on core 0 in flight as given. -/
def running (p : Plan) (q : List QRec) (mem : List Host.Cell) : State :=
  { wired with
    plan := some p
    mem := mem
    step := { up.step with status := .running, launched := true, current := 4 }
    cores := up.cores.set 0 { up.cores[0] with inflight := q, next := q.length } }

/-- A record that has started. -/
def started : QRec := { recno := 0, queues := [.csq], phase := .started }

/-- Record 0 started on core 0, over a memory. -/
def runs (r : Rec) (ds : List Desc) (mem : List Host.Cell) : State := running (planOf r ds) [started] mem

/-- The memory that holds bytes at an address. -/
def bytesAt (a : Nat) (b : Bytes) : List Host.Cell := memWrite [] a b

/-- A request's header: operation, flags and offset, with a payload length. -/
def head (op : Nat) (flags : BitVec 16) (off n : Nat) : FrameHead :=
  ⟨1, BitVec.ofNat 8 op, flags, 7, 0, BitVec.ofNat 64 off, BitVec.ofNat 16 n, 0, none⟩

/-- A host. -/
def host : Source := .host 9 4791

/-- A module whose host link is up. -/
def served : State := wired.setObj 0x1100 5 1

/-- A request is accepted, as a check. -/
def accepts (s : State) (q : Req) : Bool :=
  s.answers q.src && (s.keptResponse q).isNone && decide ((s.touch q.src).screen q = .ok)

theorem accepts_accepted {s : State} {q : Req} (h : accepts s q = true) : Accepted s q := by
  simp only [accepts, Bool.and_eq_true, decide_eq_true_eq, Option.isNone_iff_eq_none] at h
  exact ⟨h.1.1, h.1.2, h.2⟩

/-- A plan with a shared window of two slots of 4 KiB at 1 MiB. -/
def shared : Plan := { plan0 with allocs := [⟨0x100000, 0x10000, .shared, none⟩], windows := [⟨3, false, 0, 2, 4096⟩] }

/-- A module with that window, slot 1 in the host's hands, and queue pair 5 ready. -/
def sharing : State :=
  { served with plan := some shared
                mem := memWrite (memWrite [] (0x100000 + 256) [1, 0, 0, 0, 9]) (0x100000 + 8192) [4, 5, 6]
                blobs := setKey (objKey 0x1103 0) ([5, 0, 1] ++ List.replicate 22 0 ++ [16] ++ List.replicate 6 0) [] }

/-- A record that runs is ready. -/
theorem runs_ready (r : Rec) (ds : List Desc) (mem : List Host.Cell) :
    RecordReady (runs r ds mem) 0 0 (planOf r ds) r started := by
  exact ⟨rfl, rfl, rfl, rfl, rfl, rfl, rfl, rfl, rfl⟩

/-- Operands are sound, as a check. -/
def sound (s : State) (p : Plan) (rc : Rec) (q : QRec) (reads : Reads) : Bool :=
  !s.readsPoison (s.spansOf 0 p rc q reads) && !s.weightsPoison (s.ctx p 0 rc q) && s.versionsHold p rc (reads.named rc) &&
    !(s.spansOf 0 p rc q reads).any (s.badSpan p)

theorem sound_sound {s : State} {p : Plan} {rc : Rec} {q : QRec} {reads : Reads} (h : sound s p rc q reads = true) :
    OperandsSound s 0 p rc q reads := by
  simp only [sound, Bool.and_eq_true, Bool.not_eq_true'] at h
  exact ⟨h.1.1.1, h.1.1.2, h.1.2, h.2⟩

/-- Words of memory, 32 bits each. -/
def words (l : List Nat) : Bytes := l.flatMap (toLe 4)

/-- Record 0 of core 0 runs over tensors and memory, and its command leaves words at an address. -/
def leaves (c : Core → Nat → Instr) (r : Rec) (ds : List Desc) (mem : List Host.Cell) (a : Nat) (l : List Nat) : Bool :=
  after (c 0 0) (runs r ds mem) (fun t => decide (t.bytes a (4 * l.length) = words l)
    && decide (t.cores[0].inflight.map (fun q => q.phase) = [.executed]))

/-- `PWR_EN` brings the rails up (R528); a failing rail leaves the module dark. -/
theorem test_rails_up :
  (decide (dark.pins.pwrEn = false) && decide (dark.stage = .off) &&
    after (.pwrEnAssert false) dark (fun t => decide (t.phase = .inReset) && decide (t.stage = .running)
      && t.pins.pwrEn && decide (t.mem = []) && decide (t.od = []) && decide (t.pins.thermTripN = .z)
      && decide (t.nv.fuses = dark.nv.fuses)) &&
    after (.pwrEnAssert true) dark (fun t => same t { dark with pins := { dark.pins with pwrEn := true }, latchedCause := 5 })
    && idleOn (.pwrEnAssert false) up) = true := by decide +kernel

/-- Leaving a lockout (R522). -/
theorem test_lockouts :
  ([(Stage.underLockout, Instr.undervoltageLockoutExit), (.overLockout, .overvoltageLockoutExit)].all (fun x =>
    let s := { dark with stage := x.1, pins := { dark.pins with pwrEn := true } }
    after x.2 s (fun t => decide (t.phase = .inReset) && decide (t.stage = .running)) &&
    after x.2 { s with tripLatch := true } (fun t => same t { s with tripLatch := true, stage := .running }) &&
    after x.2 { dark with stage := x.1 } (fun t => same t { dark with stage := .off }) &&
    idleOn x.2 dark)) = true := by decide +kernel

/-- The rails go down with what each way keeps (R522, R524, R532). -/
theorem test_rails_down :
  (after .pwrEnDeassert wired (fun t => decide (t.phase = .dark) && !t.pins.pwrEn && decide (t.stage = .off)
      && decide (t.latchedCause = 0) && decide (t.od = []) && decide (t.pins.pwrGood = .z) && decide (t.out.length = 1)) &&
    after .undervoltageStop wired (fun t => decide (t.phase = .dark) && decide (t.stage = .underLockout) && decide (t.latchedCause = 4)) &&
    after .overvoltageLockout up (fun t => decide (t.phase = .dark) && decide (t.stage = .overLockout) && decide (t.latchedCause = 0)) &&
    after .overCurrentTrip up (fun t => decide (t.phase = .dark) && decide (t.stage = .tripped) && decide (t.latchedCause = 3)) &&
    after (.dieTrip 5) up (fun t => decide (t.phase = .dark) && t.tripLatch && decide (t.pins.thermTripN = .low)
      && decide (t.latchedCause = 1) && decide (t.stage = .running)) &&
    after .overCurrentTrip { up with tripLatch := true, latchedCause := 2 } (fun t => decide (t.latchedCause = 2)
      && decide (t.pins.thermTripN = .low))) = true := by decide +kernel

/-- Power loss and reset gasp on every port that is up (R416). -/
theorem test_gasp :
  ([(Instr.pwrEnDeassert, (3 : Byte)), (.undervoltageStop, 3), (.resetNAssert, 2), (.dieTrip 0, 1)].all (fun x =>
    after x.1 wired (fun t => t.out.any (fun o => match o with
      | .flit p ft f => decide (p = 0) && decide (ft = 0x0C) && decide (f.payload.head? = some x.2)
      | _ => false)))) = true := by decide +kernel

/-- Reset, and its release with a good store, without a firmware, and without `REFCLK` (R528, R532, R535). -/
theorem test_reset_release :
  (after .resetNAssert up (fun t => decide (t.phase = .inReset) && !t.pins.resetN && decide (t.freeze.st = .run)) &&
    (let s := { up with phase := .inReset, pins := { up.pins with resetN := false } }
     after (.resetNRelease goodBoot) s (fun t => decide (t.phase = .up) && decide (t.bringup = .running) && t.pins.resetN
       && decide (t.pins.pwrGood = .high) && decide (t.pins.presentN = .low) && decide (t.uptime = 0) && decide (t.plan = none)) &&
     after (.resetNRelease { goodBoot with a := { goodStore with badCurrent := [0], badPrevious := [0] }, b := { goodStore with badCurrent := [0], badPrevious := [0] } }) s (fun t => decide (t.phase = .up)
       && decide (t.bringup = .recovery) && decide (t.pins.faultN = .low) && has t 0x7204) &&
     after (.resetNRelease { goodBoot with refclk := false }) s (fun t =>
       same t { s with pins := { s.pins with resetN := true } }))) = true := by decide +kernel

/-- Bring-up ends READY or FAILED with its cause (R530). -/
theorem test_bringup :
  (after (.bringupComplete goodScans) { State.reset with mem := [(5, 1)], poison := [0] } (fun t =>
      decide (t.bringup = .ready) && decide (t.obj 0x2010 2 = 1000) && decide (t.mem = []) && decide (t.poison = [])
      && decide (t.coreMap = shippedMap) && decide (t.freeze = State.reset.freeze)) &&
    after (.bringupComplete { goodScans with ms := 0 }) { State.reset with pins := { State.reset.pins with freezeN := false } } (fun t =>
      decide (t.freeze.st = .pending) && t.freeze.byPin) &&
    after (.bringupComplete { goodScans with unrepairable := [7] }) State.reset (fun t => decide (t.bringup = .failed)
      && decide (t.obj 0x2010 1 = 1) && decide (t.pins.faultN = .low) && logged State.reset t 0x2602 0x47 [7]) &&
    after (.bringupComplete { goodScans with clearFail := some 0x123456 }) State.reset (fun t => decide (t.bringup = .failed)
      && decide (t.obj 0x2010 1 = 4) && decide (t.pins.faultN = .low) && logged State.reset t 0x2603 0x78 [0x56, 0x34, 0x12, 0, 0, 0]) &&
    after .bringupTimeout { State.reset with uptime := 1000000000 } (fun t => decide (t.bringup = .failed)
      && decide (t.obj 0x2010 1 = 5) && decide (t.pins.faultN = .low))) = true := by decide +kernel

/-- Warnings are logged, and a limited one only once in its period (R522 to R526). -/
theorem test_warnings :
  (invOk up && after .inputVoltageOutOfRange up (fun t => logged up t 0x5201 0x78 []) &&
    after .inputPowerHigh up (fun t => logged up t 0x5202 0x78 []) &&
    after .coolantInletHigh up (fun t => logged up t 0x5203 0x78 []) &&
    after (.dieTempWarning 5) up (fun t => logged up t 0x5204 0x78 [5] && idleOn (.dieTempWarning 5) t
      && after (.dieTempWarning 4) t (fun u => logged t u 0x5204 0x78 [4])) &&
    after (.discreteInputIgnored 2) up (fun t => decide (t.obj 0x2012 2 = 1) && logged up t 0x6601 0x78 [2]
      && decide (t.gc = up.gc) && decide (t.mem = up.mem))) = true := by decide +kernel

/-- A stack warms, becomes hot and cools (R344): 85, 95 and 5 degrees by default. -/
theorem test_temperature :
  (let at' (x : Thermal) : State := { up with thermal := up.thermal.set 3 x }
   after (.hbmTempReading 3 0x42AA0000) (at' .normal) (fun t => decide (t.thermal[3] = .doubled) && logged up t 0x5101 0x43 [3]) &&
   after (.hbmTempReading 3 0x42A80000) (at' .normal) (fun t => same t { up with temps := up.temps.set 3 0x42A80000 }) &&
   after (.hbmTempReading 3 0x42BE0000) (at' .doubled) (fun t => decide (t.thermal[3] = .hold) && decide (t.holdDue.length = 1)
     && after .holdSend t (fun u => decide (u.holdDue = []) && logged t u 0x5103 0x43 [3]
       && decide (lookupKey t.holdStep u.holds = some (t.obj 0x2704 0)))) &&
   after (.hbmTempReading 3 0x42B20000) (at' .hold) (fun t => decide (t.thermal[3] = .doubled) && logged (at' .hold) t 0x5104 0x43 [3]) &&
   after (.hbmTempReading 3 0x42900000) (at' .doubled) (fun t => decide (t.thermal[3] = .normal) && logged (at' .doubled) t 0x5102 0x43 [3])) = true := by decide +kernel

/-- The trip of a stack (R347). -/
theorem test_stack_trip :
  (after (.stackTrip 1) wired (fun t => decide (t.thermal[1] = .trip) && decide (t.island 0x41 = .fenced) && t.moduleLost
    && decide (t.pins.faultN = .low) && t.tripLatch && decide (t.latchedCause = 2) && decide (t.pins.thermTripN = .low)
    && has t 0x5105 && t.out.any (fun o => match o with
      | .flit p ft f => decide (p = 0) && decide (ft = 0x0C) && decide (f.payload.head? = some 1)
      | _ => false))) = true := by decide +kernel

/-- Scrubs of HBM and of a core store (R338, R341). -/
theorem test_scrubs :
  (invOk up && idleOn (.hbmScrub 0x1000 .clean) up &&
    after (.hbmScrub 0x1005 .correctable) (up.setObj 0x2706 0 1) (fun t => decide (t.obj 0x3035 (hbmDecode 0x1005).1 = 1)
      && decide (t.faultyRows = [hbmRow 0x1005])) &&
    after (.hbmScrub 0x1025 .uncorrectable) up (fun t => decide (t.poison = [0x1020]) && decide (t.faultyRows = [hbmRow 0x1025])
      && logged up t 0x2302 (memIsland 0x1025) (memDetail 0x1020)) &&
    idleOn (.sramScrub 0x10000000007 .clean) up &&
    after (.sramScrub 0x10000000007 .correctable) up (fun t => decide (t.obj 0x3038 (sramDie 0x10000000007) = 1)) &&
    after (.sramScrub 0x10000000007 .uncorrectable) up (fun t => decide (t.poison = [0x10000000004])
      && logged up t 0x2302 (memIsland 0x10000000007) (memDetail 0x10000000004))) = true := by decide +kernel

/-- An uncorrectable word of a cache segment is fetched again, not poisoned (R338). -/
theorem test_scrub_cache :
  (let a := ((List.range 0x60).map (fun i => 0x10000000000 + i * 0x1000000)).find? (fun a => up.inCacheSegment a)
   match a with
   | some a => after (.sramScrub a .uncorrectable) up (fun t => decide (t.poison = [])
       && logged up t 0x1301 (0x74 + sramDie a) (toLe 1 (sramDie a) ++ toLe 6 a))
   | none => false) = true := by decide +kernel

/-- Drift probes move the strobe one step away from errors on one side (R350). -/
theorem test_probes :
  (after (.marginDriftProbe 2 5 true false) up (fun t => decide (lookupKey (2 * 64 + 5) t.strobes = some 1)
      && decide (t.obj 0x303C 2 = 1)) &&
    after (.marginDriftProbe 2 5 false true) up (fun t => decide (lookupKey (2 * 64 + 5) t.strobes = some (-1))) &&
    idleOn (.marginDriftProbe 2 5 true true) up && idleOn (.marginDriftProbe 2 5 false false) up) = true := by decide +kernel

/-- A scan ends with 2 or 3 (R348, R349). -/
theorem test_scan :
  (let s := { up with marginScan := [1] }
   after (.marginScanDone goodScans.scans) s (fun t => decide (t.marginScan = []) && decide (t.obj 0x2708 1 = 2)) &&
   after (.marginScanDone (goodScans.scans.set 1 ⟨{ goodEye with readHeight := 15 }, []⟩)) s (fun t => decide (t.obj 0x2708 1 = 3))) = true := by decide +kernel

/-- A laser's class changes at the second reading of the new one (R385). -/
theorem test_laser :
  (after (.laserInputMeasure 0 0x41A00000) up (fun t => decide (t.lasers[0].cls = .dark) && decide (t.lasers[0].cand = .lit)
    && after (.laserInputMeasure 0 0x41A00000) t (fun u => decide (u.lasers[0].cls = .lit)))) = true := by decide +kernel

/-- Islands that fail or take over (R25, R501, R538). -/
theorem test_islands :
  (invOk up && idleOn (.spareSelfTest 1 true) up &&
    after (.spareSelfTest 1 false) up (fun t => decide (t.spares[1] = none) && decide (t.island 25 = .failed)
      && decide (t.coreMap = up.coreMap) && logged up t 0x2506 25 [25]) &&
    (up.canTakeOver && after .mgmtTakeover up (fun t => decide (t.mgmt.active = .b) && decide (t.island 0x78 = .fenced)
      && decide (t.obj 0x5032 1 = 2) && logged up t 0x2502 0x79 [])) &&
    after (.pllLockLost 0x78) up (fun t => decide (t.mgmt.active = .b) && decide (t.island 0x78 = .fenced)) &&
    after (.pllLockLost 0x42) up (fun t => decide (t.island 0x42 = .failed) && t.moduleLost && logged up t 0x2101 0x42 [0x42]) &&
    after .mgmtBothSilent wired (fun t => t.mgmt.silent && t.moduleLost && decide (t.out.length = 1)) &&
    after (.pllLockLost 0x50) wired (fun t => decide (t.island 0x50 = .failed) && decide (t.ports[0].st = .failed)) &&
    after .standbyReady (up.setObj 0x5032 1 1) (fun t => decide (t.obj 0x5032 1 = 0))) = true := by decide +kernel

/-- `FREEZE_N`, the count of a freeze, its time limit and its release (R510, R511, R513). -/
theorem test_freezes :
  (let pend : State := { up with freeze := ⟨.pending, 5, false, true, 0, 0, 0⟩, gc := { up.gc with value := 5 } }
   let cap : State := { up with freeze := ⟨.capture, 5, false, true, 5, 0, 0⟩, pins := { up.pins with freezeN := false } }
   after .freezeNAssert up (fun t => !t.pins.freezeN && decide (t.freeze = ⟨.pending, 1000, false, true, 0, 0, 0⟩)
     && decide (t.obj 0x3F00 6 = 1)) &&
   after .freezeNAssert (up.setObj 0x3F00 4 2) (fun t => t.freeze.full) &&
   after .freezeCountReached pend (fun t => decide (t.freeze = ⟨.capture, 5, false, true, 5, 0, 1⟩) && !t.awake
     && decide (t.obj 0x3F00 5 = 5) && has t 0x6501) &&
   after .freezeCountReached { pend with freeze := ⟨.pending, 5, true, true, 0, 0, 0⟩ } (fun t => decide (t.phase = .fullFreeze)
     && decide (t.freeze.st = .full)) &&
   after .captureTimeout { pend with uptime := 10000000 } (fun t => decide (t.phase = .fullFreeze)
     && decide (t.freeze.st = .full) && t.freeze.full) &&
   after .freezeNDeassert cap (fun t => t.pins.freezeN && decide (t.freeze.st = .run)) &&
   after .freezeNDeassert { cap with step := { cap.step with status := .running }, plan := some plan0 } (fun t =>
     decide (t.step.status = .aborted) && decide (t.step.causes = [0x4B02])) &&
   after .freezeNDeassert { cap with freeze := { cap.freeze with byPin := false } } (fun t =>
     same t { cap with pins := up.pins, freeze := { cap.freeze with byPin := false } })) = true := by decide +kernel

/-- The test access port (R514): IDCODE, BYPASS, and a core-store word in FULL. -/
theorem test_tap :
  (let full : State := { up with phase := .fullFreeze, mem := [(dieBase 1 + 8, 0xAB), (dieBase 1 + 11, 0x12)] }
   after .tapReset up (fun t => decide (t.tap = ⟨1⟩)) &&
   after .tapIdcode full (fun t => decide (t.out.length = 1) && decide (t.tap = ⟨1⟩)) &&
   after (.tapBypass 0x55) full (fun t => decide (t.out = [.tdo 0]) && decide (t.tap = ⟨0x55⟩)) &&
   after (.tapIjtag (.memory 1 (BitVec.ofNat 48 (dieBase 1 + 8)))) full (fun t => decide (t.out = [.tdo 0x120000AB])) &&
   after (.tapIjtag (.island 3)) up (fun t => decide (t.out = [.tdo 0]))) = true := by decide +kernel

/-- Holdover, unlocking, `SYNC_IN` and the jump of a higher domain's root (R434 to R438). -/
theorem test_time :
  (let lk : State := { up with gc := { up.gc with st := .locked, value := 1000000, root := some 7 } }
   (!lk.isRoot && after .gcHoldover lk (fun t => decide (t.gc.st = .holdover) && decide (t.gc.holdoverSince = 1000000)
     && logged lk t 0x6301 0x78 [])) &&
   (let h : State := { lk with gc := { lk.gc with st := .holdover, value := 1000000001 } }
    after .gcUnlocked h (fun t => decide (t.gc.st = .unlocked) && logged h t 0x6302 0x78 [])) &&
   (let y : State := { (wired.setObj 0x2A03 1 2) with gc := { up.gc with value := 1400000, root := some 1, st := .locked } }
    y.isRoot && after .syncInPulse y (fun t => decide (t.obj 0x2A03 2 = 1400000) && decide (t.syncSeenAt = some 0)
      && decide (t.gc.steer = -6400000) && after .syncInPulse t (fun u => decide (u.obj 0x2012 2 = 1) && decide (u.gc = t.gc))))) = true := by decide +kernel

/-- The root of a higher domain jumps by its bridge's offset, rounded to 1 ms (R438). -/
theorem test_align :
  (let pl : Plan := { plan0 with nodeId := 0x4001, routes := [⟨2, 0, 1, 0⟩] }
   let g : GcState := { up.gc with root := some 0x4001 }
   let s : State := { (wired.setObj 0x1104 0 0x4001) with
     plan := some pl, gc := g, ports := wired.ports.set 0 { linked 2 3 with offset := 40000000 } }
   after (.gcDomainAlign 0) s (fun t => t.gc.aligned && decide (t.gc.fine = 48000000)) &&
   after (.gcDomainAlign 0) { s with ports := wired.ports.set 0 { linked 2 3 with offset := -40000000 } } (fun t =>
     decide (t.gc.fine = 2 ^ 68 - 32000000))) = true := by decide +kernel

/-- What a port sends by itself (R409, R434). -/
theorem test_port_sends :
  (after (.keepaliveSend 0) { wired with gc := { up.gc with value := 0x1234 } } (fun t => match t.out with
      | [.flit p ft f] => decide (p = 0) && decide (ft = 5) && decide (f.dst = 2) && decide (f.src = 1)
          && decide (f.payload.take 10 = [0x34, 0x12, 0, 0, 0, 0, 0, 0, 0, 0])
      | _ => false) &&
    after (.timeFlitSend 0) { wired with gc := { up.gc with value := 2, frac := 3 } } (fun t => match t.out with
      | [.flit p ft f] => decide (p = 0) && decide (ft = 6) && decide (f.payload.take 24 = toLe 8 35 ++ toLe 8 0 ++ toLe 8 0)
      | _ => false)) = true := by decide +kernel

/-- A lane's swap, its failure without a spare, the move at its block and the test that follows (R391 to R393). -/
theorem test_lanes :
  (after (.laneLockLost 0 4) wired (fun t => decide (t.ports[0].rx.swap = some ⟨4, 8, 128, false, 0⟩) && match t.out with
      | [.flit p ft f] => decide (p = 0) && decide (ft = 0x0F) && decide (f.xinfo = swapArg 4 8)
          && decide (f.payload.take 4 = toLe 4 128)
      | _ => false) &&
    (let n : State := { wired with ports := wired.ports.set 0 { linked 2 3 with rx := { Lanes.initial with spare := none } } }
     after (.laneLockLost 0 4) n (fun t => decide (t.ports[0].st = .failed) && has t 0x2402)) &&
    (let w : State := { wired with ports := wired.ports.set 0 { linked 2 3 with
        rx := { Lanes.initial with swap := some ⟨4, 8, 128, false, 0⟩ }, tx := { Lanes.initial with swap := some ⟨5, 8, 0, false, 0⟩ } } }
     idleOn (.laneSwapAtBlock 0 .rx) w &&
     after (.laneSwapAtBlock 0 .rx) { w with uptime := 1639 } (fun t => decide (t.ports[0].rx.map[4] = 8)
       && decide (t.ports[0].rx.spare = none) && decide (t.ports[0].rx.testing = [4]) && decide (t.obj 0x3045 0 = 1)
       && decide (t.ports[0].rx.swap = none) && decide (t.ports[0].st = .up) && logged w t 0x6103 0x50 [0, 4, 1]) &&
     after (.laneSwapAtBlock 0 .tx) w (fun t => decide (t.ports[0].tx.map[5] = 8) && decide (t.log = w.log))) &&
    (let w : State := { wired with ports := wired.ports.set 0 { linked 2 3 with
        rx := { Lanes.initial with testing := [4], spare := none } } }
     after (.laneRetestDone 0 .rx 4 true) w (fun t => decide (t.ports[0].rx.spare = some 4) && logged w t 0x1502 0x50 [0, 4]) &&
     after (.laneRetestDone 0 .rx 4 false) w (fun t => t.ports[0].rx.failed.contains 4 && decide (t.ports[0].rx.spare = none)
       && decide (t.ports[0].st = .upNoSpare) && logged w t 0x2401 0x50 [0, 4]))) = true := by decide +kernel

/-- A port comes up, falls silent, and a node not heard of again is lost (R409, R411, R419). -/
theorem test_ports :
  (let lit : State := { up with lasers := up.lasers.set 0 ⟨.lit, .lit, 0⟩, ports := up.ports.set 0 { PortState.initial with rxSeq := 9 } }
   let pp := (indices 32).find? (fun p => portGroup p = (0 : Fin 4))
   (match pp with
   | some p => decide (lit.groupLit (portGroup p) ≠ 0) && after (.portUp p 7 3) lit (fun t => t.ports[p].st.isUp && decide (t.ports[p].peerNode = 7)
     && decide (t.ports[p].rxSeq = 0) && decide (t.obj 0x2902 p.val = 3 * 65536 + 7))
   | none => false) &&
   after (.portSilence 0) { wired with gc := { up.gc with value := 8000 } } (fun t => decide (t.ports[0].st = .down) && has t 0x6101) &&
   after (.lossWindowExpiry 2) { wired with gc := { up.gc with value := 20000 }, lossAt := [(2, 0)] } (fun t =>
     decide (t.lostNodes = [2]) && decide (t.agree.decided = none) && has t 0x6106)) = true := by decide +kernel

/-- Link flits act on their own port (R388, R392, R409, R415). -/
theorem test_link_flits :
  (wired.hears 0 && after (.idle 0 (flit [])) wired (fun t => decide (t.ports[0].lastLife = 0) && decide (t.log = wired.log)) &&
    after (.keepalive 0 (flit [])) wired (fun t => decide (t.out = [])) &&
    after (.frozen 0 (flit [])) wired (fun t => decide (t.ports[0].st = .peerFrozen) && logged wired t 0x610A 0x50 [0]) &&
    after (.lanectl 0 { flit (toLe 4 77) with xinfo := 0x01000805 }) wired (fun t => decide (t.ports[0].tx.swap = some ⟨5, 8, 77, false, 0⟩)) &&
    after (.lanectl 0 { flit [] with xinfo := 0x02000805 }) wired (fun t => decide (t.ports[0].tx.swap = none)) &&
    after (.flitReservedType 0 0x11 (flit [])) wired (fun t => decide (t.obj 0x3046 2 = 1))) = true := by decide +kernel

/-- A bad flit is asked for once, and an uncorrectable block is counted; a `NAK` has the kept flits sent again (R386, R389). -/
theorem test_retry :
  (let two : Vector Nat 8 := #v[0, 0, 9, 0, 0, 7, 0, 0]
   let few : Vector Nat 8 := #v[0, 0, 9, 0, 0, 6, 0, 0]
   let no : Vector Nat 8 := #v[0, 0, 0, 0, 0, 0, 0, 0]
   after (.flitCrcFail 0 (.flit [])) wired (fun t => t.ports[0].nakSent && decide (t.obj 0x3044 0 = 0) && (match t.out with
      | [.flit _ ft g] => decide (ft = 0x0E) && decide (g.xinfo = 0)
      | _ => false) && idleOn (.flitCrcFail 0 (.flit [])) t) &&
    after (.flitCrcFail 0 (.block #v[few, no, no, no])) wired (fun t => decide (t.obj 0x3043 0 = 15) && !t.ports[0].nakSent) &&
    after (.flitCrcFail 0 (.block #v[no, two, no, no])) wired (fun t => decide (t.obj 0x3044 0 = 1) && t.ports[0].nakSent &&
      decide (t.ports[0].rx.errs.map (fun e => (e.phys, e.ue)) = [(2, 1)])) &&
    (let k : State := { wired with ports := wired.ports.set 0 { linked 2 3 with
        txSeq := 2, replay := [(2, { flit [1] with seq := 0 }), (2, { flit [2] with seq := 1 })] } }
     after (.nak 0 { flit [] with xinfo := 1 }) k (fun t => decide (t.obj 0x3042 0 = 1) && (match t.out with
      | .flit _ ft g :: _ => decide (ft = 2) && decide (g.payload = [2]) && decide (g.seq = 1)
      | _ => false)) &&
     after (.nak 0 { flit [] with xinfo := 0 }) k (fun t => decide (t.out.length = 2))) &&
    [Instr.writeHead, .data, .writeAck, .tally, .agree, .mgmt, .hold, .freeze, .loss, .abort].all (fun c =>
      after (c 0 { flit [] with seq := 1 }) wired (fun t => decide (t.ports[0].rxSeq = 0) && t.ports[0].nakSent && decide (t.mem = [])))) = true := by decide +kernel

/-- A `TIME` flit gives offset and delay (R434): 100, 140, 150 and 190 give 0 and 40. -/
theorem test_time_flit :
  (let s : State := { wired with gc := { up.gc with value := 12, st := .locked, frac := 2 } }
   after (.time 0 (flit (toLe 8 0 ++ toLe 8 0 ++ toLe 8 0))) s (fun t => decide (t.ports[0].timeEcho = some (0, 194))) &&
   after (.time 0 (flit (toLe 8 160 ++ toLe 8 100 ++ toLe 8 140))) s (fun t => decide (t.ports[0].offset = ((140 - 100) + (160 - 194)) / 2)
     && decide (t.ports[0].delay = ((194 - 100) - (160 - 140)) / 2) && decide (t.ports[0].timeEcho = some (160, 194)))) = true := by decide +kernel

/-- A gasp loses its sender at once (R411, R416). -/
theorem test_gasp_flit :
  (after (.dyingGasp 0 (flit [3])) wired (fun t => decide (t.lostNodes = [2]) && decide (t.agree.decided = none)
    && t.downLinks.any (fun l => decide (3 ≤ l.cause) && (decide (l.a = (1, 0)) || decide (l.b = (1, 0)))))) = true := by decide +kernel

/-- A routed flit for another module leaves by its next port, or is discarded (R395, R396). -/
theorem test_routed :
  (let s : State := { wired with ports := wired.ports.set 1 (linked 9 0) }
   let f : Flit := { flit [] with dst := 9, path := 1, hopptr := 0 }
   after (.data 0 f) s (fun t => (match t.out with
      | [.flit p ft g] => decide (p = 1) && decide (ft = 2) && decide (g.hopptr = 1) && decide (g.dst = 9)
      | _ => false)) &&
   after (.data 0 { f with path := 5 }) s (fun t => decide (t.out = []) && decide (t.obj 0x3046 1 = 1) && logged s t 0x6105 0x50 [5, 9, 0]) &&
   after (.data 0 { f with hopptr := 12 }) s (fun t => decide (t.obj 0x3046 1 = 1)) &&
   (!s.epochOk { flit [] with epoch := 5 } && after (.data 0 { flit [] with epoch := 5 }) s (fun t => decide (t.obj 0x3046 0 = 1)))) = true := by decide +kernel

/-- A first notice of another origin acts; a later one of the same number does not (R410 to R417). -/
theorem test_floods :
  (let s : State := { wired with plan := some plan0, step := { up.step with status := .running, launched := true, current := 4 } }
   let h (b : Bytes) : Flit := flit (toLe 2 9 ++ toLe 2 0 ++ toLe 4 1 ++ b)
   after (.hold 0 (h (toLe 8 7 ++ toLe 8 300))) s (fun t => decide (lookupKey 7 t.holds = some 300)) &&
   after (.hold 0 (h (toLe 8 7 ++ toLe 8 900))) { s with floodSeen := [(9, 1)] } (fun t => decide (t.holds = [])
     && decide (t.ports[0].rxSeq = 1)) &&
   after (.freeze 0 (h (toLe 8 50))) s (fun t => decide (t.freeze.st = .pending) && decide (t.freeze.count = 50) && !t.freeze.full) &&
   after (.loss 0 (h (toLe 2 3 ++ [1] ++ toLe 2 4 ++ [2] ++ [1]))) s (fun t => decide (t.lossOrigins.contains 9)
     && t.downLinks.any (fun l => decide (l.a = (3, 1))) && decide (t.step.status = .aborted)) &&
   after (.abort 0 (h (toLe 8 4 ++ toLe 2 0x3104))) s (fun t => decide (t.step.status = .aborted) && decide (t.step.causes = [0x610B])) &&
   after (.abort 0 (h (toLe 8 5 ++ toLe 2 0x3104))) s (fun t => decide (t.step = s.step))) = true := by decide +kernel

/-- A remote write opens, lands once and is acknowledged; off every allocation it aborts (R398). -/
theorem test_remote_write :
  (let s : State := { wired with plan := some { plan0 with allocs := [⟨0x1000, 0x1000, .hbm, none⟩] }, step := { up.step with status := .running, current := 4, launched := true } }
   let head (a n : Nat) : Flit := { flit (toLe 8 a ++ toLe 4 n ++ List.replicate 16 0) with xinfo := 0x00050000 }
   let x : Inbound := ⟨2, 5, 0x1000, 300, [], false⟩
   invOk s && s.epochOk (flit []) &&
   after (.writeHead 0 (head 0x1000 300)) s (fun t => decide (t.inbound = [x]) && decide (t.step = s.step)) &&
   after (.writeHead 0 (head 0x1F00 0x101)) s (fun t => decide (t.inbound = [⟨2, 5, 0x1F00, 0x101, [], true⟩])
     && decide (t.step.status = .aborted) && decide (t.step.causes = [0x4801])) &&
   after (.data 0 { flit (List.replicate 224 7) with xinfo := 0x00050001 }) { s with inbound := [x] } (fun t =>
     decide (t.mem = (s.writeRun 0x10E0 (List.replicate 76 7)).mem) && decide (t.inbound = [{ x with got := [1] }])) &&
   after (.data 0 { flit [1] with xinfo := 0x00050001 }) { s with inbound := [{ x with got := [1] }] } (fun t => decide (t.mem = [])) &&
   after (.writeAck 0 { flit [] with xinfo := 0x00050000 }) { s with outbound := [⟨2, 5, 0, 0⟩, ⟨2, 6, 0, 0⟩] } (fun t =>
     decide (t.outbound = [⟨2, 6, 0, 0⟩]))) = true := by decide +kernel

/-- A tally of this step adds, of the next is held, of another is dropped (R50, R399). -/
theorem test_tally_flit :
  (let s := runs (rec0 0 0) [] []
   let m (st : Nat) : Flit := flit (toLe 8 st ++ toLe 8 (3 + 2 ^ 34 * 5))
   after (.tally 0 (m 4)) s (fun t => decide (t.cores[0].tallies[5] = 3)) &&
   after (.tally 0 (m 5)) s (fun t => decide (t.cores[0].held = [(5, 5, 3)]) && decide (t.cores[0].tallies[5] = 0)) &&
   after (.tally 0 (m 6)) s (fun t => decide (t.cores = s.cores) && logged s t 0x4103 0 [])) = true := by decide +kernel

/-- The last child's words end a round at its root (R407). -/
theorem test_round_root :
  (let s : State := { wired with plan := some { plan0 with groups := [⟨[1, 2], some 0⟩] } }
   let n : RoundName := ⟨1, 0, 0, 9⟩
   let s : State := { s with rounds := [{ Round.new n with own := true, mins := List.replicate 8 5, maxs := List.replicate 8 5 }] }
   let b := agreePayload n false (List.replicate 8 3) (List.replicate 8 4)
   decide ((s.takeAgree 2 b).2 = some (n, List.replicate 8 3, List.replicate 8 5)) &&
   after (.agree 0 (flit b)) s (fun t => decide (t.agree.resA = some (List.replicate 8 3, List.replicate 8 5)))) = true := by decide +kernel

/-- A result from the parent ends the round as it is (R407). -/
theorem test_round_child :
  (let s : State := { wired with plan := some { plan0 with groups := [⟨[2, 1], some 1⟩] } }
   let n : RoundName := ⟨1, 1, 0, 9⟩
   let s : State := { s with rounds := [{ Round.new n with own := true, sentUp := true }] }
   let b := agreePayload n true (List.replicate 8 3) (List.replicate 8 4)
   decide ((s.takeAgree 2 b).2 = some (n, List.replicate 8 3, List.replicate 8 4)) &&
   after (.agree 0 (flit b)) s (fun t => decide (t.agree.resB = some (List.replicate 8 3, List.replicate 8 4))) &&
   decide ((s.takeAgree 7 (agreePayload n false [] [])).2 = none)) = true := by decide +kernel

/-- A module contributes within its lead, and waits before (R442). -/
theorem test_contribute :
  (let s : State := { wired with plan := some plan0, agree := { AgreeState.initial with hostLaunch := some ⟨3, 1000, 0, false⟩ } }
   let s1 : State := { s with gc := { s.gc with value := 900 } }
   s1.mayContribute plan0 && after .agreeContribute s1 (fun t => t.agree.contributed && decide (t.agree.contribGc = 900) && t.stageLock
     && decide (t.step = s1.step)) &&
   idleOn .agreeContribute { s with gc := { s.gc with value := 899 } } &&
   (let r : State := { s with agree := { s.agree with retryAt := some 5 }, gc := { s.gc with value := 5 } }
    after .agreeRetryTimer r (fun t => decide (t.agree.retryAt = none)) && idleOn .agreeRetryTimer { r with gc := s.gc })) = true := by decide +kernel

/-- The ends of an attempt (R444). -/
theorem test_attempts :
  (let w (l : List Nat) := l ++ List.replicate (8 - l.length) 0
   let s : State := { wired with agree := { AgreeState.initial with contributed := true, hostLaunch := some ⟨3, 1000, 0, false⟩ } }
   let e (a b : List Nat × List Nat) (n : Nat) : State := { s with agree := { s.agree with resA := some a, resB := some b, differing := n } }
   after .agreeAttemptEnd (e (w [1], w [2]) (w [], w []) 1) (fun t => decide (t.agree.differing = 2) && decide (t.agree.attempt = 1)
     && decide (t.agree.retryAt = some 10000) && !t.agree.contributed && decide (t.agree.decided = none)
     && decide (lookupKey (objKey 0x2A05 0) t.blobs = some (agreeLast (w [1], w [2]) (w [], w [])))) &&
   after .agreeAttemptEnd (e (w [1], w [2]) (w [], w []) 2) (fun t => t.agree.stopped && !t.stageLock && has t 0x4901
     && decide (t.agree.decided = none)) &&
   after .agreeAttemptEnd (e (w [1], w [1]) (w [], w [0, 0, 1]) 2) (fun t => decide (t.agree.retryAt = some 1000000)
     && decide (t.agree.differing = 0) && decide (t.agree.decided = none)) &&
   after .agreeAttemptEnd (e (w [1], w [1]) (w [], w [0, 0, 0, 40, 60]) 2) (fun t =>
     decide (t.agree.decided = some ⟨3, 1060, 60, false⟩) && decide (t.step = s.step))) = true := by decide +kernel

/-- A launch at its count, before it, and of a step the image does not hold (R440, R446). -/
theorem test_launch :
  (let s : State := { wired with
     plan := some { plan0 with launch := ⟨1000, 100, 50, [(2, 1, 7)]⟩ }
     agree := { AgreeState.initial with decided := some ⟨3, 50, 0, false⟩ }
     gc := { up.gc with value := 50 } }
   idleOn .stepLaunch { s with gc := { s.gc with value := 49 } } &&
   after .stepLaunch s (fun t => decide (t.step.status = .running) && decide (t.step.current = 3) && decide (t.step.launchGc = 50)
     && decide (t.step.planned = 1057) && decide (t.agree = AgreeState.initial) && decide (t.plan = s.plan) && t.step.launched
     && decide (t.cores[47].tallies = Vector.replicate 64 0)) &&
   after .stepLaunch { s with agree := { s.agree with decided := some ⟨101, 50, 0, false⟩ } } (fun t =>
     decide (t.step.status = .idle) && decide (t.agree.decided = none) && has t 0x4905)) = true := by decide +kernel

/-- A step completes once every core has reported, and aborts at its end for a NaN or a halt (R52, R85). -/
theorem test_step_complete :
  (let s := running plan0 [] []
   let d : State := { s with cores := vmap (fun c => { c with done := true }) s.cores, gc := { s.gc with value := 77 } }
   idleOn .stepComplete s &&
   after .stepComplete d (fun t => decide (t.step.status = .ended) && decide (t.step.endGc = 77)) &&
   after .stepComplete (({ d with step := { d.step with nan := some 2 } }).setObj 0x2100 1 1) (fun t =>
     decide (t.step.status = .aborted) && decide (t.step.causes = [0x3104])) &&
   after .stepComplete { d with step := { d.step with halt := some 2 } } (fun t =>
     decide (t.step.status = .aborted) && decide (t.step.causes = [0x3125]))) = true := by decide +kernel

/-- An abort drops the step, and a later cause is kept behind the first (R55). -/
theorem test_abort :
  (let t := (runs (rec0 0 0) [] []).abortStep 0x4105
   decide (t.step.status = .aborted) && decide (t.step.causes = [0x4105]) && decide (t.cores[0].inflight = []) && has t 0x4106 &&
   decide ((t.abortStep 0x4704).step.causes = [0x4105, 0x4704]) && decide ((up.abortStep 0x4704).log = up.log)) = true := by decide +kernel

/-- Records issue in order, wait on tallies, and end (R51). -/
theorem test_issue :
  (let w (r : Rec) : State := running (planOf r []) [] []
   let out (t : State) (st : Option StashAlloc) : Bool := decide (t.cores[0].next = 1) &&
     decide (t.cores[0].inflight.map (fun q => (q.recno, q.stash)) = [(0, st)])
   let gone : Rec := { rec0 2 1 with waits := [⟨3, 1⟩] }
   after (.recordIssue 0) (w (rec0 2 1)) (out · none) &&
   after (.recordIssue 0) (w { rec0 1 0 with units := 3, part := 2 }) (fun t => out t none && decide (t.cores[0].daModes = #v[2, 2, 0, 0])) &&
   idleOn (.recordIssue 0) (w gone) && decide ((w gone).cores[0].tallies[3] < 1) &&
   (let e : State := w (rec0 2 1)
    idleOn (.recordIssue 0) { e with cores := e.cores.set 0 { e.cores[0] with ended := true } }) &&
   after (.recordIssue 0) (let e := w (rec0 2 1)
       { e with cores := e.cores.set 0 { e.cores[0] with skip := 2 } }) (fun t =>
     decide (t.cores[0].next = 1) && decide (t.cores[0].inflight = [])) &&
   (let r : Rec := { rec0 5 3 with desc0 := some 0, desc2 := some 0, desc3 := some 0 }
    let s : State := running (planOf r [tensor 0x1000 .fp32 [16, 1]]) [] []
    decide (s.stashSpace (planOf r [tensor 0x1000 .fp32 [16, 1]]) 0 r = some ⟨0, true, 64, 0, 0, 16⟩) &&
    after (.recordIssue 0) s (out · (some ⟨0, true, 64, 0, 0, 16⟩)))) = true := by decide +kernel

/-- Credits are granted whole or not at all (R366). -/
theorem test_credits :
  (let p : Plan := { plan0 with records := [rec0 2 1] :: List.replicate 47 [], needs := [⟨0, 0, none, [(64, 2)]⟩], pools := [⟨2, 0, 3, 0, 0⟩] }
   let q : QRec := { recno := 0, queues := [.se], phase := .issued }
   let s : State := { running p [q] [] with sheaves := up.sheaves.set 0 [0] }
   let held : State := { s with cores := s.cores.set 1 { s.cores[1] with inflight := [{ recno := 0, queues := [.se], phase := .started, credits := [(64, 2)] }] } }
   s.cores[0].requester q && s.sheavesIn p 0 (rec0 2 1) && decide (s.poolFree p 64 = 3) && !s.before p 64 0 q &&
   after (.creditGrant 0 0) s (fun t => decide (t.cores[0].inflight.map (fun q => q.credits) = [[(64, 2)]])) &&
   decide (held.poolFree p 64 = 1) && idleOn (.creditGrant 0 0) held) = true := by decide +kernel

/-- Arriving data with the tags of the record, with another micro-batch, and with a cancelled work tag (R54). -/
theorem test_data :
  (let r : Rec := { rec0 2 1 with mbtag := 7, worktag := 9 }
   let s : State := runs r [] []
   invOk s &&
   after (.dataArrival 0 0 ⟨7, 9, 0, false⟩) s (fun t => decide (t.cores[0].inflight.map (fun q => q.arrived) = [true])) &&
   after (.dataArrival 0 0 ⟨8, 9, 0, false⟩) s (fun t => decide (t.step.causes = [0x4105]) && t.log.recs.any (fun e => decide (e.code = 0x4105)
     && decide (e.detail = [0, 0, 0, 0]))) &&
   after (.dataArrival 0 0 ⟨7, 9, 0, false⟩) { s with cores := s.cores.set 0 { s.cores[0] with cancelled := [9] } } (fun t =>
     decide (t.obj 0x303F 0 = 1) && decide (t.cores[0].inflight = [started])) &&
   after (.dataArrival 0 0 ⟨7, 5, 0, false⟩) s (fun t => same t s)) = true := by decide +kernel

/-- Reads land or are discarded, a chain's first member forwards, and the injector's wait is counted (R153, R373, R380). -/
theorem test_feeds :
  (let p : Plan := { plan0 with records := [rec0 1 0] :: List.replicate 47 [], needs := [⟨0, 0, some (0, 0), [(256, 2)]⟩], chains := [⟨[0, 1], 256⟩] }
   let q : QRec := { started with chainTiles := 3, reads := [⟨0x1000, .normal, false, none⟩, ⟨0x1800, .normal, true, none⟩], credits := [(256, 2)] }
   let s : State := running p [q] []
   invOk s &&
   after (.feedReadLanded 0 0 0x1000 .normal) s (fun t => decide (t.cores[0].inflight = [{ q with reads := q.reads.drop 1 }]) &&
     decide (t.caches[0].map (fun l => l.addr) = [0x1000])) &&
   idleOn (.feedReadLanded 0 0 0x1800 .normal) s && idleOn (.feedReadLanded 0 0 0x1000 .keep) s &&
   after (.feedReadLanded 0 0 0x1000 .normal) (running p [{ q with tagInvalid := true }] []) (fun t => decide (t.obj 0x303F 0 = 1) &&
     decide (t.caches[0] = [])) &&
   decide (p.chainOf 0 0 = some (0, 0)) && decide (p.forwardPool 0 0 = some 256) && decide (q.holds 256 = 2) &&
   q.tileRead &&
   after (.chainTileForward 0 0) s (fun t => decide (t.cores[0].inflight = [{ q with tiles := 1, passed := 1 }]) &&
     decide (t.obj 0x3041 0 = 1)) &&
   idleOn (.chainTileForward 0 0) (running p [{ q with tiles := 2 }] []) &&
   idleOn (.chainTileForward 0 0) (running p [{ q with passed := 3 }] []) &&
   after (.loadInterlockRelease 0 0 17) s (fun t => decide (t.obj 0x301C 0 = 17))) = true := by decide +kernel

/-- A record that has executed leaves its queue; one with a write not acknowledged stays; a signal arrives (R48, R50). -/
theorem test_complete :
  (let r : Rec := { rec0 2 1 with sigs := [⟨1, 0, 1, 5, 3⟩] }
   let p : Plan := planOf r []
   let q : QRec := { started with phase := .executed }
   let s : State := running p [q] []
   after (.recordComplete 0 0) s (fun t => decide (t.cores[0].inflight = []) && decide (t.signals = [⟨1, 5, 3, 4, 0⟩]) &&
     after (.signalArrival 0) t (fun u => decide (u.cores[1].tallies[5] = 3) && decide (u.signals = []))) &&
   idleOn (.recordComplete 0 0) { s with outbound := [⟨2, 1, 0, 0⟩] }) = true := by decide +kernel

/-- A watchdog condition is logged once; a minute passes; a step's overtime aborts it (R375, R377, R497). -/
theorem test_watchdogs :
  (let s0 : State := runs (rec0 2 1) [] []
   let s : State := { s0 with gc := { s0.gc with value := 1000 * s0.obj 0x2801 2 + 1 } }
   let w : WatchCondition := .engine 0 0 0
   let m : State := { s.setObj 0x5030 0 0 with transientBins := [(0, List.replicate 60 2)] }
   let o : State := { s0 with gc := { s0.gc with value := s0.step.planned + s0.obj 0x2801 3 } }
   invOk s && decide ((s.watched w).isSome) &&
   after (.watchdogExpiry w) s (fun t => decide (t.standing = [w]) && decide (t.obj 0x3040 2 = 1)
     && logged s t 0x4703 0 [0, 0, 0, 0, 0] && idleOn (.watchdogExpiry w) t) &&
   idleOn (.watchdogExpiry w) s0 && idleOn .transientBinRoll s0 && decide (m.obj 0x5030 0 = 0) &&
   after .transientBinRoll m (fun t => decide (t.transientBins = [(0, 0 :: List.replicate 59 2)])) &&
   after .stepOvertime o (fun t => decide (t.step.causes = [0x4704]) && t.log.recs.any (fun e => decide (e.detail = [0xFF]))) &&
   idleOn .stepOvertime { o with gc := { o.gc with value := o.gc.value - 1 } } && idleOn .stepOvertime up) = true := by decide +kernel

/-- A sheaf lands, and an uncorrectable one is counted, logged and fetched again (R358, R360). -/
theorem test_sheaves :
  (let p : Plan := { plan0 with descs := [tensor 0x1000 .fp32 [16]] }
   let s : State := running p [] []
   let h : State := { s with sheaves := s.sheaves.set 3 [0] }
   invOk s && invOk h && after (.sheafFetch 3 0 .clean) s (fun t => decide (t.sheaves[3] = [0])) &&
   idleOn (.sheafFetch 3 1 .clean) s &&
   after (.sheafFetch 3 0 .uncorrectable) h (fun t => decide (t.sheaves[3] = [0]) && decide (t.obj 0x303D 1 = 1) &&
     logged h t 0x1401 0x81 [])) = true := by decide +kernel

/-- A first fault starts the record again and logs nothing yet; the second is lasting (R495). -/
theorem test_faults :
  (let s : State := runs (rec0 2 1) [] []
   let c : State := { s with caches := s.caches.set 0 [⟨0x1000, false⟩, ⟨0x2000, false⟩] }
   invOk s && invOk c &&
   after (.recordFault 0 0 (.engineState 0)) s (fun t => decide (t.cores[0].inflight.map (fun q => q.failed)
     = [some (0x1203, [0, 0, 0, 0, 0])]) && decide (t.log = s.log) && after (.recordFault 0 0 (.engineState 0)) t (fun u =>
       decide (u.step.status = .aborted))) &&
   after (.recordFault 0 0 (.cacheLine 0x1008)) c (fun t => decide (t.caches = c.caches) && has t 0x1301
     && decide (t.obj 0x303A 0 = 1))) = true := by decide +kernel

/-- The copy of a sparing takes 49,152 ticks (R499). -/
theorem test_sparing :
  (let x : Sparing := ⟨0, 0, 12, some 0, false, 1⟩
   let s : State := { up with sparing := [x], mem := bytesAt (coreStore 0 + 5) [7, 8], gc := { up.gc with value := 49152 } }
   invOk s && after (.spareCopyDone 0) s (fun t => decide (t.coreMap = s.coreMap) && decide (memRead t.mem (coreStore 12 + 6) = 8)
     && decide (memRead t.mem (coreStore 0 + 6) = 8) && decide (t.sparing = [{ x with copied := true }])) &&
   idleOn (.spareCopyDone 0) { s with gc := up.gc }) = true := by decide +kernel

/-- A restore without a plan fails; one of a plan without checkpointed state ends at the step before (R507). -/
theorem test_restores :
  (let s : State := { wired with restore := some ⟨7, true⟩ }
   let p : Plan := { plan0 with ckpt := some ⟨2, 2, 1, 0x10000, 0x20000, 0x30000, 4096⟩ }
   invOk s && after (.ckptRestoreDone none) s (fun t => decide (t.restore = none) && decide (t.step.status = .aborted)
     && decide (t.obj 0x5023 1 = 3) && has t 0x4B01) &&
   invOk { s with plan := some p } && after (.ckptRestoreDone none) { s with plan := some p } (fun t => decide (t.obj 0x5023 1 = 3)) &&
   (let d : State := { s with plan := some p, restore := some ⟨7, false⟩ }
    decide (d.stackOut 0x10000 4096 = none) && (d.writeBack p ⟨2, 2, 1, 0x10000, 0x20000, 0x30000, 4096⟩ 0x10000 7 p.streams).2) &&
   after (.ckptRestoreDone (some (List.replicate 64 0))) { s with plan := some { p with ckpt := some ⟨2, 2, 1, 0x10000, 0x20000, 0x30000, 64⟩ } } (fun t => decide (t.restore = none)
     && decide (t.step.current = 6) && decide (t.step.status = .idle) && decide (t.obj 0x5023 1 = 2) && decide (t.obj 0x2600 4 = 1))) = true := by decide +kernel

/-- The host link goes and comes (R450, R451). -/
theorem test_host_link :
  (let dn : State := { up with lasers := up.lasers.set 0 { up.lasers[0] with cls := .lit } }
   invOk served && after .hostLinkDown served (fun t => !t.hostUp && logged served t 0x6401 0x70 []) &&
   after .hostFrameDiscard served (fun t => decide (t.obj 0x3049 0 = 1)) &&
   invOk dn && !dn.hostUp && !dn.hostPllLost && decide (dn.groupLit 0 ≠ 0) &&
   after .hostLinkUp dn (fun t => t.hostUp && logged dn t 0x6402 0x70 []) &&
   idleOn .hostLinkDown dn && idleOn .hostFrameDiscard dn && idleOn .hostLinkUp up) = true := by decide +kernel

/-- RDMA reads and writes a slot of the host's, and is refused elsewhere (R452, R454). -/
theorem test_rdma :
  (let key : BitVec 32 := 3
   invOk sharing && sharing.qpServes 5 && decide (sharing.keyWindow key = some (shared, ⟨3, false, 0, 2, 4096⟩)) &&
   sharing.inHostSlot shared ⟨3, false, 0, 2, 4096⟩ 8192 3 && !sharing.inHostSlot shared ⟨3, false, 0, 2, 4096⟩ 4096 3 &&
   !sharing.inHostSlot shared ⟨3, false, 0, 2, 4096⟩ 12286 3 &&
   after (.rdmaRead ⟨5, false⟩ key 8192 3) sharing (fun t => decide (t.out = [.rdma 5 (.data [4, 5, 6])])) &&
   after (.rdmaWrite ⟨5, false⟩ key 12286 [7, 8]) sharing (fun t => decide (t.out = [.rdma 5 .ack]) && decide (t.bytes (0x100000 + 12286) 2 = [7, 8])) &&
   after (.rdmaWrite ⟨5, false⟩ key 12286 [7, 8, 9]) sharing (fun t => decide (t.out = [.rdma 5 .nakAccess]) && decide (t.mem = sharing.mem)
     && decide (t.obj 0x304A 0 = 1) && !t.qpServes 5) &&
   decide (sharing.keyWindow 0x104 = none) &&
   after (.rdmaRead ⟨5, false⟩ 0x104 8192 3) sharing (fun t => decide (t.out = [.rdma 5 .nakAccess])) &&
   after (.rdmaUnsupported ⟨5, false⟩ 4) sharing (fun t => decide (t.out = [.rdma 5 .nakInvalid]))) = true := by decide +kernel

/-- A swap flips a slot's flag, its sequence number one higher (R453, R459). -/
theorem test_rdma_swap :
  (let w : Window := ⟨3, false, 0, 2, 4096⟩
   decide (w.flagAt 256 = some 1) && decide (sharing.word (0x100000 + 256) 8 = 0x900000001) &&
   after (.rdmaCompareSwap ⟨5, false⟩ 3 256 0x900000001 0xA00000002) sharing (fun t => decide (t.out = [.rdma 5 (.atomic 0x900000001)])
     && decide (t.word (0x100000 + 256) 8 = 0xA00000002)) &&
   after (.rdmaCompareSwap ⟨5, false⟩ 3 256 0x800000001 0xA00000002) sharing (fun t => decide (t.out = [.rdma 5 (.atomic 0x900000001)])
     && decide (t.mem = sharing.mem)) &&
   !flipOk 0x900000001 0x900000002 &&
   after (.rdmaCompareSwap ⟨5, false⟩ 3 256 0x900000001 0x900000002) sharing (fun t => decide (t.out = [.rdma 5 .nakAccess])
     && decide (t.mem = sharing.mem))) = true := by decide +kernel

/-- A READ is answered, a refused one with the first check that fails, a repeated one from the kept response (R461, R462, R471). -/
theorem test_answers :
  (let rd := frameOf host (head 1 0 0 0) 1 0x2A04 1 []
   let bad := frameOf host (head 1 0 0 0) 1 0x1FFF 1 []
   invOk served && accepts served rd && decide ((served.touch host).screen bad = .noObject) &&
   (match served.serve rd with
    | .next t => decide (t.out = [.response host ⟨1, 4, 7, 0x2A04, 1, 0, 0, [0, 0, 0, 0, 0, 0, 0, 0]⟩]) && (t.keptResponse rd).isSome &&
        (match t.serve rd with
         | .next u => decide (u.out.length = 2) && decide (u.obj 0x3003 1 = 1)
         | _ => false)
    | _ => false) &&
   (match served.serve bad with
    | .next t => decide ((t.out.map (fun x => match x with
        | .response _ r => r.istatus
        | _ => 99)) = [1])
    | _ => false) &&
   idleOn (.ivwidinRead host (head 1 0 0 0) 0x2A04 1 []) wired) = true := by decide +kernel

/-- Reads of the machine and of a capture are accepted, and the capture's answers its memory (R463, R512, R540). -/
theorem test_reads :
  (let cap : State := { served with freeze := ⟨.capture, 5, false, true, 5, 0, 0⟩, mem := [(2, 0x55)] }
   accepts served (frameOf host (head 1 0 0 0) 1 0x1104 0 []) &&
   after (.ivwidinRead host (head 1 0 0 0) 0x1104 0 []) served (fun t =>
     decide (t.out = [.response host ⟨1, 4, 7, 0x1104, 0, 0, 0, [1, 0]⟩])) &&
   accepts served (frameOf host (head 3 0 0 2) 3 0x1102 0 [4, 0]) &&
   after (.segRead host (head 3 0 0 2) 0x1102 0 [4, 0]) served (fun t => decide (t.out.length = 1)) &&
   accepts served (frameOf host (head 0x10 0 0 32) 0x10 0 0 (List.replicate 32 1)) &&
   accepts cap (frameOf host (head 3 0 0 2) 3 0x3F01 1 [3, 0]) &&
   after (.captureReadout host (head 3 0 0 2) false [3, 0]) cap (fun t => decide (t.out.map (fun x => match x with
     | .response _ r => r.payload
     | _ => []) = [[0, 0, 0x55]])) &&
   accepts cap (frameOf host (head 3 0 0 2) 3 0x3F01 2 [3, 0])) = true := by decide +kernel

/-- Every write with a behaviour of its own is accepted in a state that has what it needs (R470). -/
theorem test_writes :
  (let w (n : Nat) := head 2 0 0 n
   let pl : State := { served with plan := some { plan0 with descs := [tensor 0 .fp32 [16]], preds :=
     [⟨.log, .fp32, 16, 16, 16, 1, 0, 0, 0, [], [], [], [], []⟩] } }
   let cap : State := { served with freeze := ⟨.capture, 5, false, true, 5, 0, 0⟩ }
   let ck : State := { served with plan := some { plan0 with ckpt := some ⟨2, 2, 1, 0x10000, 0x20000, 0x30000, 4096⟩ } }
   accepts served (frameOf host (w 2) 2 0x1104 0 [5, 0]) && accepts pl (frameOf host (w 4) 2 0x3011 0 [0, 0, 0, 0]) &&
   accepts pl (frameOf host (w 1) 2 0x302F 0 [0]) && accepts pl (frameOf host (w 2) 2 0x2802 0 [51, 0]) &&
   accepts served (frameOf host (w 4) 2 0x6000 4 (toLe 4 3)) && accepts served (frameOf host (w 1) 2 0x1200 2 [1]) &&
   accepts served (frameOf host (w 1) 2 0x6001 0 [1]) && accepts served (frameOf host (w 1) 2 0x1006 2 [1]) &&
   accepts served (frameOf host (w 1) 2 0x2708 0 [0x81]) && accepts served (frameOf host (w 8) 2 0x2A04 0 (toLe 8 5000)) &&
   accepts served (frameOf host (w 1) 2 0x3F00 1 [1]) && accepts served (frameOf host (w 1) 2 0x3F00 1 [2]) &&
   accepts served (frameOf host (w 8) 2 0x3F00 2 (toLe 8 10000)) && accepts cap (frameOf host (w 1) 2 0x3F00 3 [1]) &&
   accepts ck (frameOf host (w 8) 2 0x5023 0 (toLe 8 7))) = true := by decide +kernel

/-- A node ID, a launch, a freeze and a margin scan take effect at once (R349, R440, R481, R510). -/
theorem test_write_effects :
  (after (.nodeId host (head 2 0 0 2) [5, 0]) served (fun t => decide (t.nodeId = 5)) &&
   after (.launchGc host (head 2 0 0 8) (toLe 8 5000)) served (fun t =>
     decide (t.agree.hostLaunch = some ⟨0, 5000, 0, false⟩)) &&
   after (.freezeRequestFull host (head 2 0 0 1)) served (fun t => decide (t.freeze = ⟨.pending, 1000, true, false, 0, 0, 0⟩)) &&
   after (.marginStart host (head 2 0 0 1) [0x81]) served (fun t => decide (t.marginScan = [0, 7]) && decide (t.obj 0x2708 1 = 1))) = true := by decide +kernel

/-- Plain writes are in force, staged ones are not; a sparing is scheduled (R470, R474, R499). -/
theorem test_writes_stage :
  (accepts served (frameOf host (head 2 0 0 4) 2 0x2801 0 (toLe 4 7)) &&
   accepts served (frameOf host (head 2 0 0 2) 2 0x1100 3 [5, 0]) &&
   after (.ivwidinWrite host (head 2 0 0 2) 0x1100 3 [5, 0]) served (fun t => decide (t.obj 0x1100 3 = 5)) &&
   after (.rwsStageWrite host (head 2 0 0 4) 0x2801 0 (toLe 4 7)) served (fun t => decide (t.obj 0x2801 0 = 100) &&
     decide (lookupKey (objKey 0x2801 0) t.staged = some [7, 0, 0, 0])) &&
   accepts served (frameOf host (head 2 0 0 1) 2 0x5030 1 [9]) &&
   after (.spareRequest host (head 2 0 0 1) [9]) served (fun t => decide (t.sparing.map (fun x => (x.logical, x.spare, x.cause)) = [(9, 12, 3)])) &&
   (let g : State := { served with plan := some { plan0 with preds := [⟨.log, .fp32, 16, 16, 16, 1, 0, 0, 0, [], [], [], [], []⟩] } }
    accepts g (frameOf host (head 2 0 0 1) 2 0x2501 0 [2]))) = true := by decide +kernel

set_option maxRecDepth 100000 in
/-- The first segment of several opens a transfer, a single one sets the entry (R463). -/
theorem test_segments :
  (let b : Bytes := List.replicate 4096 7
   let h4 := head 4 0 0 4096
   accepts served (frameOf host h4 4 0x5000 0 b) && accepts served (frameOf host h4 4 0x1103 0 b) &&
   accepts served (frameOf host h4 4 0x1006 0 b) && accepts served (frameOf host h4 4 0x2A08 15 b) &&
   accepts served (frameOf host h4 4 0x5100 2 b) && accepts served (frameOf host h4 4 0x1102 3 b) &&
   accepts served (frameOf host (head 4 2 0 16) 4 0x2A08 0 (List.replicate 16 0)) &&
   after (.replayTap host (head 4 2 0 16) 0 (List.replicate 16 0)) served (fun t =>
     decide (lookupKey (objKey 0x2A08 0) t.blobs = some (List.replicate 16 0))) &&
   accepts served (frameOf host (head 4 2 0 32) 4 0x1103 0 (List.replicate 32 1)) &&
   after (.qpTable host h4 b) served (fun t =>
     decide (lookupKey (objKey 0x1103 0) t.mgmt.transfers = some ⟨host, [(0, b)], none, 0, false⟩))) = true := by decide +kernel

/-- A customer key of 1,312 bytes is fused by its hash (R539). -/
theorem test_key :
  (accepts served (frameOf host (head 4 2 0 1312) 4 0x1006 0 (List.replicate 1312 0))) = true := by decide +kernel

/-- Ten seconds end a transfer and a snapshot (R463). -/
theorem test_expiry :
  (let s : State := { served with uptime := 10000000005, mgmt := { served.mgmt with
     transfers := [(objKey 0x1103 0, ⟨host, [], none, 5, true⟩)], snapshots := [⟨host, objKey 0x1102 0, [1], 5⟩] } }
   after (.segTransferTimeout 0x1103 0) s (fun t => decide (t.mgmt.transfers = [])) &&
   idleOn (.segTransferTimeout 0x1103 0) { s with uptime := 10000000004 } &&
   after (.snapshotExpiry host 0x1102 0) s (fun t => decide (t.mgmt.snapshots = [])) &&
   after (.snapshotExpiry host 0x1102 0) { s with uptime := 10000000004 } (fun t => decide (t.mgmt.snapshots = s.mgmt.snapshots))) = true := by decide +kernel

/-- A peer's READ is accepted; a response asks for nothing (R464). -/
theorem test_peer :
  (let req : Bytes := [1, 1] ++ [0, 0] ++ toLe 4 7 ++ toLe 2 0x1104 ++ [0, 0] ++ List.replicate 12 0
   let rsp : Bytes := [1, 1] ++ [4, 0] ++ toLe 4 7 ++ toLe 2 0x1104 ++ [0, 0] ++ List.replicate 12 0
   let w : State := { served with ports := served.ports.set 0 (linked 2 3) }
   let f : Flit := { flit req with src := 2, dst := 1 }
   decide (f.dst = w.nodeId) && decide (w.obj 0x1104 1 ≠ 0) && accepts (w.delivered 0 f) (peerRequest 2 req) &&
   !(fieldAt req 2 2).testBit 2 && (fieldAt rsp 2 2).testBit 2 &&
   after (.mgmt 0 f) w (fun t => (t.keptResponse (peerRequest 2 req)).isSome) &&
   after (.mgmt 0 { f with payload := rsp }) w (fun t => (t.keptResponse (peerRequest 2 rsp)).isNone)) = true := by decide +kernel

/-- The modes of a dense product on A = [1, 2] and B = [3, 1], [-1, 2] (R145, R160, R162). -/
theorem test_dense :
  (let a := 0x3F800000; let b := 0x40000000; let c := 0x40400000; let d := 0x40800000; let e := 0x40A00000
   let ds := [tensor 0x1000 .fp32 [2, 1], tensor 0x2000 .fp32 [2, 2], tensor 0x3000 .fp32 [2, 1]]
   let m := memWrite (bytesAt 0x1000 (words [a, b])) 0x2000 (words [c, a, 0xBF800000, b])
   let r (k : Fin 8) : Rec := { rec0 1 1 with mode := k, desc0 := some 0, desc1 := some 1, desc2 := some 2, units := 1 }
   sound (runs (r 0) ds m) (planOf (r 0) ds) (r 0) started denseReads &&
   leaves .matrixProductMultiplyAdd (r 0) ds m 0x3000 [e, c] && leaves .squaredL2Distance (r 1) ds m 0x3000 [e, d] &&
   leaves .l1Distance (r 2) ds m 0x3000 [c, b] && leaves .maxPlus (r 3) ds m 0x3000 [d, d] &&
   leaves .minPlus (r 4) ds m 0x3000 [c, 0] && leaves .compareAndCount (r 5) ds m 0x3000 [a, 0]) = true := by decide +kernel

/-- Element-wise records on [1, 4] and [2, 2] (R307). -/
theorem test_vector_elements :
  (let a : Nat := 0x3F800000; let b : Nat := 0x40000000; let c : Nat := 0x40400000; let d : Nat := 0x40800000
   let ds := [tensor 0x1000 .fp32 [2, 1], tensor 0x2000 .fp32 [2, 1], tensor 0x3000 .fp32 [2, 1]]
   let m := memWrite (bytesAt 0x1000 (words [a, d])) 0x2000 (words [b, b])
   let r (k : BitVec 32) : Rec := { rec0 3 3 with param0 := k, desc0 := some 0, desc1 := some 1, desc2 := some 2 }
   sound (runs (r 0) ds m) (planOf (r 0) ds) (r 0) started vuReads &&
   leaves .elementAdd (r 0) ds m 0x3000 [c, 0x40C00000] && leaves .elementSubtract (r 1) ds m 0x3000 [0xBF800000, b] &&
   leaves .elementMultiply (r 2) ds m 0x3000 [b, 0x41000000] && leaves .elementDivide (r 3) ds m 0x3000 [0x3F000000, b] &&
   leaves .elementMaximum (r 4) ds m 0x3000 [b, d] && leaves .elementMinimum (r 5) ds m 0x3000 [a, b] &&
   leaves .elementSquareRoot (r 6) ds m 0x3000 [a, b] && leaves .elementCompare (r 8) ds m 0x3000 [a, 0] &&
   after (.elementAdd 0 0) (runs (r 0) ds m) (fun t => decide (t.bytes 0x1000 8 = words [a, d]))) = true := by decide +kernel

/-- The natural logarithm is correctly rounded: ln 4 (R307). -/
theorem test_vector_log :
  (let ds := [tensor 0x1000 .fp32 [1, 1], tensor 0x3000 .fp32 [1, 1]]
   leaves .elementLogarithm { rec0 3 3 with param0 := 7, desc0 := some 0, desc2 := some 1 } ds (bytesAt 0x1000 (words [0x40800000]))
     0x3000 [0x3FB17218]) = true := by decide +kernel

/-- Reductions, the derivative of a husk and of a table, a table, and a dropout mask (R107, R306, R308, R309). -/
theorem test_vector_others :
  (let a : Nat := 0x3F800000; let b : Nat := 0x40000000; let c : Nat := 0x40400000; let d : Nat := 0x40800000
   let ds := [tensor 0x1000 .fp32 [2, 1], tensor 0x2000 .fp32 [2, 1], tensor 0x3000 .fp32 [2, 1], tensor 0x4000 .fp32 [1]]
   let m := memWrite (bytesAt 0x1000 (words [a, c])) 0x2000 (words [b, 0])
   let t : FnTable := ⟨0, 0x43800000, 0, 0x40800000, false, false, List.replicate 768 0x40400000⟩
   let red (k : BitVec 32) : Rec := { rec0 3 4 with param0 := k, desc0 := some 0, desc2 := some 3 }
   let tab (f : BitVec 12) (p0 : BitVec 32) : Rec := { rec0 3 f with param0 := p0, desc0 := some 0, desc1 := some 1, desc2 := some 2 }
   let ext (r : Rec) : State := { runs r ds m with plan := some { planOf r ds with tables := [(t, t)] } }
   leaves .reduceSum (red 0) ds m 0x4000 [d] && leaves .reduceMean (red 1) ds m 0x4000 [b] &&
   leaves .reduceMaximum (red 2) ds m 0x4000 [c] && leaves .reduceMinimum (red 3) ds m 0x4000 [a] &&
   leaves .derivativeHusk { tab 2 0x100 with param1 := 0x3F800000, param2 := 0x40000000 } ds m 0x3000 [a, 0x40C00000] &&
   after (.tableFunction 0 0) (ext (tab 1 0)) (fun u => decide (u.bytes 0x3000 8 = words [d, d])) &&
   after (.derivativeTable 0 0) (ext (tab 2 0)) (fun u => decide (u.bytes 0x3000 8 = words [d, 0x41100000])) &&
   leaves .dropoutMask { rec0 3 5 with desc2 := some 2, param1 := 0 } ds m 0x3000 [0, 0]) = true := by decide +kernel

/-- Indices 2, 9 and -1 into three slices: the last two are clamped and counted (R130, R216). -/
theorem test_gather :
  (let ds := [tensor 0x1000 .fp32 [1, 3], tensor 0x2000 .int32s [3], { tensor 0x3000 .fp32 [1, 3] with drop := true }]
   let m := memWrite (bytesAt 0x1000 (words [0x3F800000, 0x40000000, 0x40400000])) 0x2000 (words [2, 9, 0xFFFFFFFF])
   let r : Rec := { rec0 2 0x10 with desc0 := some 0, desc4 := some 1, desc2 := some 2, param2 := 0xFFFFFFFF }
   sound (runs r ds m) (planOf r ds) r started gatherRecReads &&
   leaves .gather r ds m 0x3000 [0x40400000, 0x40400000, 0x3F800000] &&
   after (.gather 0 0) (runs r ds m) (fun t => decide (t.step.counts.map Prod.snd = [2]))) = true := by decide +kernel

/-- Two slices that name one place are summed there (R220). -/
theorem test_scatter :
  (let ds := [tensor 0x1000 .fp32 [1, 2], tensor 0x2000 .int32s [2], tensor 0x3000 .fp32 [1, 4]]
   let m := memWrite (bytesAt 0x1000 (words [0x3F800000, 0x40000000])) 0x2000 (words [3, 3])
   leaves .scatterAdd { rec0 2 0x11 with desc0 := some 0, desc4 := some 1, desc2 := some 2, param2 := 0xFFFFFFFF } ds m 0x3000 [0, 0, 0, 0x40400000]) = true := by decide +kernel

/-- Two tokens with one first choice: the second moves to its next (R224). -/
theorem test_dispatch :
  (let ds := [tensor 0x1000 .fp32 [1, 2], tensor 0x2000 .int32s [2, 2], tensor 0x3000 .fp32 [1, 1, 2], tensor 0x4000 .int32s [16, 2]]
   let m := memWrite (bytesAt 0x1000 (words [0x3F800000, 0x40000000])) 0x2000 (words [0, 1, 0, 1])
   let r : Rec := { rec0 2 0x20 with desc0 := some 0, desc1 := some 1, desc2 := some 2, desc4 := some 3, param0 := 0x21, param1 := 0x20001, param2 := 0xFFFFFFFF }
   leaves .expertDispatch r ds m 0x3000 [0x3F800000, 0x40000000] &&
   leaves .expertDispatch r ds m 0x4020 [0, 0xFFFFFFFF] && leaves .expertDispatch r ds m 0x4040 [1, 0xFFFFFFFF] &&
   leaves .expertDispatch r ds m 0x4060 [1] &&
   decide ((dispatchPlacing r [(0, [some 0, some 1]), (1, [some 0, some 1])]).places = [(0, 0, 0, 0, 0), (1, 0, 1, 0, 1)])) = true := by decide +kernel

/-- Each token's slots are weighted by their gates and summed (R226). -/
theorem test_combine :
  (let ds := [tensor 0x1000 .fp32 [1, 1, 2], tensor 0x2000 .bf16 [2, 1], tensor 0x3000 .fp32 [1, 1], tensor 0x4000 .int32s [16, 1]]
   let m := memWrite (memWrite (bytesAt 0x1000 (words [0x3F800000, 0x40000000])) 0x2000 (words [0x40003F80]))
     0x4000 (words ([0, 1] ++ List.replicate 6 0xFFFFFFFF ++ [0, 1] ++ List.replicate 6 0xFFFFFFFF))
   leaves .expertCombine { rec0 2 0x21 with desc0 := some 0, desc1 := some 1, desc2 := some 2, desc4 := some 3, param0 := 0x22, param1 := 0x20001, param2 := 0xFFFFFFFF } ds m 0x3000 [0x40A00000]) = true := by decide +kernel

/-- A copy that changes the format, and a transpose (R133, R134). -/
theorem test_copies :
  (let ds := [tensor 0x1000 .fp32 [2, 2], tensor 0x2000 .bf16 [2, 2], tensor 0x3000 .fp32 [2, 2]]
   let m := bytesAt 0x1000 (words [0x3F800000, 0x3F808000, 0x40400000, 0x3F818000])
   leaves .copy { rec0 5 1 with desc0 := some 0, desc2 := some 1 } ds m 0x2000 [0x3F803F80, 0x3F824040] &&
   leaves .transposeCopy { rec0 5 2 with desc0 := some 0, desc2 := some 2, param0 := 1 } ds m 0x3000
     [0x3F800000, 0x40400000, 0x3F808000, 0x3F818000]) = true := by decide +kernel

/-- An entry goes to the stash and comes back; a row that holds nothing aborts (R299, R301). -/
theorem test_stash :
  (let ds := [tensor 0x1000 .fp32 [16, 1], tensor 0x3000 .fp32 [16, 1], tensor 0x5000 .int8u [256], tensor 0x6000 .int32s [16, 4]]
   let m := bytesAt 0x1000 (words [0x3F800000, 0x40000000])
   let w : Rec := { rec0 5 3 with desc0 := some 0, desc2 := some 1, desc3 := some 2, desc4 := some 3 }
   let q : QRec := { started with stash := some ⟨0, true, 64, 0, 0, 16⟩ }
   after (.stashWrite 0 0) (running (planOf w ds) [q] m) (fun t => decide (t.bytes 0x3000 8 = words [0x3F800000, 0x40000000]) &&
     decide (t.bytes 0x6000 20 = words [1, 64, 0, 0, 16])) &&
   (let r : Rec := { rec0 5 4 with desc0 := some 1, desc2 := some 0, desc3 := some 2, desc4 := some 3 }
    let m := memWrite (bytesAt 0x3000 (words [0x40400000, 5])) 0x6000 (words [1, 64, 0, 0, 16])
    leaves .stashRead r ds m 0x1000 [0x40400000, 5] &&
    after (.stashRead 0 0) (runs r ds []) (fun t => decide (t.step.causes = [0x4602])))) = true := by decide +kernel

/-- A no-operation, gates of both senses, a prefetch and a cancel write no memory (R302, R379, R380). -/
theorem test_quiet :
  (let ds := [tensor 0x1000 .fp32 [16, 2], tensor 0x6000 .int32s [16, 2]]
   let g (p1 : BitVec 32) : Rec := { rec0 0 1 with desc4 := some 1, param0 := 3, param1 := p1 }
   let m := bytesAt 0x6000 (words [1])
   let k (p1 : BitVec 32) (m : List Host.Cell) (skip sense : Nat) : Bool := after (.regenGate 0 0) (runs (g p1) ds m) (fun t =>
     decide (t.cores[0].skip = skip) && decide (t.cores[0].sense0 = sense) && decide (t.mem = m))
   let pf : Rec := { rec0 5 5 with desc0 := some 0 }
   let cn : Rec := { rec0 5 6 with param0 := 9 }
   after (.noOperation 0 0) (runs (rec0 0 0) [] []) (fun t => decide (t.cores[0].inflight.map (fun q => q.phase) = [.executed])) &&
   k 0 m 3 0 && k 0x2000 m 0 0 && k 0x2000 [] 3 0 && k 0 (bytesAt 0x6000 (words [2])) 0 3 &&
   after (.prefetch 0 0) (running (planOf pf ds) [{ started with reads := [⟨0x1000, .normal, false, none⟩] }] m) (fun t =>
     decide (t.caches[0].map (fun l => l.addr) = [0x1000]) && decide (t.mem = m)) &&
   after (.cancel 0 0) (runs cn ds m) (fun t => decide (t.mem = m))) = true := by decide +kernel

/-- One element under momentum SGD: w = 2, g = 1, m = 4, eta = 1/2, b1 = 1/2 (R315). -/
theorem test_optimizer :
  (let w : WeightSet := ⟨1, false, true, true, false, 0, 3, 128, (1, 1), (4, 4), (5, 5), (0xFFFFFFFF, 0xFFFFFFFF), (0xFFFFFFFF, 0xFFFFFFFF), 6, 1⟩
   let ds := [tensor 0x1000 .fp32 [1, 1], tensor 0x2000 .bf16 [1, 1], tensor 0x2000 .bf16 [1, 1], tensor 0x3000 .fp32 [16, 1],
     tensor 0x4000 .int32s [1, 1], tensor 0x5000 .fp32 [1, 1], tensor 0x6000 .int32s [1]]
   let m := memWrite (memWrite (memWrite (memWrite (bytesAt 0x6000 [4]) 0x1000 (words [0x3F800000])) 0x2000 [0, 0x40]) 0x3000
     (words [0x3F000000, 0x3F000000, 0, 0, 0, 0, 0, 0x3F800000])) 0x5000 (words [0x40800000])
   let r : Rec := { rec0 3 0x010 with desc0 := some 0, desc1 := some 1, desc2 := some 2, desc3 := some 3, param1 := 0, param2 := 1 }
   after (.optimizerMomentumSgd 0 0) { runs r ds m with plan := some { planOf r ds with weightSets := [w] } } (fun t =>
     decide (t.bytes 0x2000 2 = [0, 0x3F]) && decide (t.bytes 0x5000 4 = words [0x40400000]))) = true := by decide +kernel

/-- A predictor of one hidden unit names the neuron above its threshold (R268), and a check finds the other (R271). -/
theorem test_predictor :
  (let e : PredEntry := ⟨.log, .bf16, 1, 1, 2, 2, 1, 0x3F800000, 0, [0x80, 0x3F], [0, 0x40, 0x80, 0x3F], [0], [0, 0], []⟩
   let ds := [tensor 0x1000 .bf16 [1, 1], tensor 0x2000 .int32s [16], tensor 0x3000 .fp32 [2, 1]]
   let m := memWrite (bytesAt 0x1000 [0x80, 0x3F]) 0x3000 (words [0, 0x3F800000])
   let ext (r : Rec) (m : List Host.Cell) : State := { runs r ds m with plan := some { planOf r ds with preds := [e] } }
   let p : Rec := { rec0 4 1 with desc0 := some 0, desc1 := some 1, param2 := 0xFFFFFFFF }
   let c : Rec := { rec0 4 2 with desc0 := some 2, desc1 := some 1, param2 := 0xFFFFFFFF }
   after (.predict 0 0) (ext p m) (fun t => decide (t.bytes 0x2000 8 = words [1, 0])) &&
   after (.check 0 0) (ext c (memWrite m 0x2000 (words [1, 0]))) (fun t => decide (t.step.counts.map Prod.snd = [1])) &&
   decide (nameNeurons Val.zero 1 [Val.one, Val.ofInt 2, Val.ofInt 0] = ([1], 2))) = true := by decide +kernel

/-- A merge takes the lines its index names, and a reference count needs none (R274, R277). -/
theorem test_merge :
  (let ds := [tensor 0x1000 .fp32 [2, 1], tensor 0x2000 .int32s [3], tensor 0x3000 .fp32 [2, 1]]
   let m := memWrite (bytesAt 0x1000 (words [0x3F800000, 0x40000000])) 0x2000 (words [2, 1, 0])
   leaves .merge { rec0 4 3 with desc0 := some 0, desc1 := some 1, desc2 := some 2 } ds m 0x3000 [0x40000000, 0x3F800000]) = true := by decide +kernel

/-- A tile's choice (R243), a sync with a clear flag (R249), and a commit's round at a root of a run of one (R251). -/
theorem test_mask :
  (let s : State := runs { rec0 6 5 with desc0 := some 0, desc2 := some 0 } [tensor 0x1000 .fp32 [16, 1]] []
   let c : Rec := { rec0 6 4 with desc0 := some 0, param0 := 0 }
   let sc : State := runs c [tensor 0x1000 .int8u [32, 1]] []
   decide (selectTile 4 32768 [(5, 0), (3, 1), (3, 130), (9, 2)] [(7, 3), (8, 131), (8, 260)] = ([1, 130], [131, 260])) &&
   !s.syncFlags.contains 0 && after (.sync 0 0) s (fun t => decide (t.mem = []) && decide (t.cores[0].inflight.map (fun q => q.phase) = [.executed])) &&
   sound sc (planOf c [tensor 0x1000 .int8u [32, 1]]) c started commitReads &&
   decide ((sc.contribute (maskRound 0 0 4) (List.replicate 8 3)).2 = some (List.replicate 8 3, List.replicate 8 3)) &&
   after (.maskCommitRecord 0 0) sc (fun t => decide (t.step.masks.map Prod.fst = [0]))) = true := by decide +kernel

/-- A collective of one member ends at once; of two, its stage ends once all is acknowledged (R403 to R406). -/
theorem test_collectives :
  (let ds := [tensor 0x1000 .fp32 [2, 1], tensor 0x2000 .fp32 [2, 1]]
   let m := bytesAt 0x1000 (words [0x3F800000, 0x40000000])
   let r (f : BitVec 12) (g : BitVec 32) : Rec := { rec0 7 f with desc0 := some 0, desc2 := some 1, param0 := g }
   let part (l : List Nat) : PartIn := ⟨0, l.map (fun n => some (BitVec.ofNat 32 n)), [], []⟩
   let two (f : BitVec 12) (st : Nat) : State := { running { planOf (r f 0x10000) ds with groups := [⟨[1, 2], some 0⟩] } [{ started with stage := st }] m with outbound := [] }
   after (.reduceScatter 0 0 [part [0, 0], part [0x40000000, 0x3F800000]]) (two 1 1) (fun t =>
     decide (t.bytes 0x2000 8 = words [0x40400000, 0x40400000])) &&
   idleOn (.collectiveStageEnd 0 0) { two 1 0 with outbound := [⟨2, 5, 0, 0⟩] } &&
   after (.collectiveStageEnd 0 0) (two 1 0) (fun t => decide (t.cores[0].inflight.map (fun q => q.stage) = [1])) &&
   decide (stagePieces (r 1 0x10000) 0 2 0 = [(0, 1)]) && decide (stagePieces (r 2 0x10000) 0 2 0 = [(1, 0)]) &&
   leaves (fun c n => .allGather c n [words [0, 0]]) (r 2 0) ds m 0x2000 [0x3F800000, 0x40000000]) = true := by decide +kernel

/-- Sections of an all-to-all between two members land at their places (R405). -/
theorem test_all_to_all :
  (let ds := [tensor 0x1000 .fp32 [1, 1, 2], tensor 0x2000 .fp32 [1, 1, 2, 1]]
   let m := bytesAt 0x1000 (words [0x3F800000, 0x40000000])
   let r : Rec := { rec0 7 3 with desc0 := some 0, desc2 := some 1, param0 := 0x10000, param1 := 1 }
   let s : State := running { planOf r ds with groups := [⟨[1, 2], some 0⟩] } [{ started with stage := 1 }] m
   after (.allToAllDispatch 0 0 [words [0], words [0x40400000]]) s (fun t =>
     decide (t.bytes 0x2000 8 = words [0x3F800000, 0x40400000]))) = true := by decide +kernel

/-- A shard goes to this module's slot; its row follows; a ward slot is verified (R504, R506). -/
theorem test_shards :
  (let ck : CkptTable := ⟨2, 2, 1, 0x100000, 0x200000, 0x300000, 4096⟩
   let ds := [tensor 0x1000 .int8u [64, 1]]
   let r (f : BitVec 12) : Rec := { rec0 8 f with desc0 := some 0 }
   let s (f : BitVec 12) : State := { runs (r f) ds (bytesAt 0x1000 [7, 8]) with plan := some { planOf (r f) ds with ckpt := some ck } }
   after (.shardStream 0 0) (s 1) (fun t => decide (t.cores[0].inflight.map (fun q => q.stage) = [1])) &&
   after (.shardVerify 0 0) (s 2) (fun t => decide (t.step.status = .running) || decide (t.step.causes = [0x1601]))) = true := by decide +kernel

/-- A tile's line 0 with 2 at k = 0 and 3 at k = 5 (R176, R178), and a product over no tiles (R198). -/
theorem test_brt_tile :
  (let w : Desc := tensor 0x10000 .fp32 [1296, 1]
   let b : Bytes := [1, 4, 2, 0, 2, 1, 0, 4] ++ List.replicate 24 0 ++ [81] ++ List.replicate 31 0 ++ words [0x40000000, 0x40400000] ++
     List.replicate 2040 0 ++ [128, 133, 0, 0]
   let ds := [tensor 0x1000 .fp32 [128, 1], { w with sizes := [1296, 0] }, tensor 0x3000 .fp32 [2, 1]]
   let r : Rec := { rec0 2 1 with desc0 := some 0, desc1 := some 1, desc2 := some 2, param1 := 0xFFFFFFFF, param2 := 0xFFFFFFFF }
   (match readTile w b [.brt] none 1 0 false [0] with
    | .ok t => decide (t.lines = [(0, [(0, 0x40000000), (5, 0x40400000)])])
    | .error _ => false) &&
   (match readTile w b [.csr] none 1 0 false [0] with
    | .ok _ => false
    | .error e => decide (e = .hdr)) &&
   leaves .brtKProduct r ds [] 0x3000 [0, 0]) = true := by decide +kernel

/-- Each field of a flit that does not fit is refused (R387), and a reserved type below 0x11 (R388). -/
theorem test_wf_flit :
  (let f := flit []
   Instr.wf (.idle 0 f) && !Instr.wf (.idle 0 { f with hopptr := 16 }) && !Instr.wf (.idle 0 { f with payload := List.replicate 225 0 }) &&
   !Instr.wf (.idle 0 { f with cred := some (0, 1024) }) && !Instr.wf (.flitReservedType 0 0x10 f) && Instr.wf (.flitReservedType 0 0x11 f)) = true := by decide +kernel

/-- A source, a signature and a payload that do not fit are refused (R450, R461), and a nonce of another length (R540). -/
theorem test_wf_request :
  (let h := head 1 0 0 0
   Instr.wf (.ivwidinRead host h 0 0 []) && !Instr.wf (.ivwidinRead (.host (2 ^ 128) 0) h 0 0 []) &&
   !Instr.wf (.ivwidinRead host { h with auth := some ⟨0, [1]⟩ } 0 0 []) && !Instr.wf (.ivwidinRead host h 0 0 (List.replicate 4097 0)) &&
   !Instr.wf (.attest host h [1]) && !Instr.wf (.snapshotExpiry (.host (2 ^ 128) 0) 0 0)) = true := by decide +kernel

/-- Numbers wider than their fields are refused (R18, R42, R375, R454). -/
theorem test_wf_fields :
  (!Instr.wf (.noOperation 0 (2 ^ 32)) && !Instr.wf (.sramScrub (2 ^ 48) .clean) && !Instr.wf (.feedReadLanded 0 (2 ^ 32) 0 .normal) && !Instr.wf (.feedReadLanded 0 0 (2 ^ 48) .normal) &&
   !Instr.wf (.watchdogExpiry (.crossing 0 1 0 (2 ^ 64))) && !Instr.wf (.watchdogExpiry (.credit 0 (2 ^ 32))) &&
   !Instr.wf (.watchdogExpiry (.engine 0 0 (2 ^ 64))) && !Instr.wf (.sheafFetch 0 (2 ^ 26) .clean) &&
   !Instr.wf (.rdmaRead ⟨0, false⟩ 0 (2 ^ 64) 1) && !Instr.wf (.rdmaRead ⟨0, false⟩ 0 0 (2 ^ 32)) && !Instr.wf (.rdmaCompareSwap ⟨0, false⟩ 0 (2 ^ 64) 0 0)) = true := by decide +kernel

/-- Lists of another length, and repeats, are refused (R97, R404, R485, R530, R348). -/
theorem test_wf_lists :
  (let t : Telemetry := ⟨0, 0, 0, 5, 0, List.replicate 6 0, 0, 0, List.replicate 7 0, List.replicate 7 0, 0, 0, List.replicate 32 0⟩
   Instr.wf (.telemetryRefresh t) && !Instr.wf (.telemetryRefresh { t with dieTemp := [] }) && !Instr.wf (.telemetryRefresh { t with energyMj := 2 ^ 64 }) &&
   !Instr.wf (.allGather 0 0 [[1], []]) && !Instr.wf (.reduceScatter 0 0 [⟨0, [none], [], []⟩]) &&
   !Instr.wf (.bringupComplete { goodScans with coreFail := [3, 3] })) = true := by decide +kernel

/-- A step takes the command at the front of the queue and leaves the rest. -/
theorem test_step_front :
  (match step { up with pending := [.freezeNAssert, .tapReset] } with
   | .next t => !t.pins.freezeN && decide (t.pending = [.tapReset])
   | _ => false) = true := by decide +kernel

/-- The table gives its rows no bits: no word spells a command. -/
theorem test_decode_none :
  (decide (decodeTableWord 32 0x1234 = none) && decide (decodeTableWord 0 0 = none)) = true := by decide +kernel

/-- A flit in its order, for the module it reaches, and a first flood of another module: the hypotheses of the
statements about flits. -/
theorem witness_flit : InOrder wired 0 { flit [0, 5] with dst := 1 } ∧ ForHere wired { flit [0, 5] with dst := 1 } ∧
    NewFlood wired (flit (toLe 2 9 ++ toLe 4 1)) := by
  refine ⟨⟨?_, ?_⟩, ⟨?_, ?_, ?_⟩, ⟨?_, fun _ h => nomatch (show none = some _ from h)⟩⟩ <;> decide +kernel

/-- A record with sound operands: the hypotheses of the statements about records. -/
theorem witness_record :
    let ds := [tensor 0x1000 .fp32 [2, 1], tensor 0x2000 .fp32 [2, 1], tensor 0x3000 .fp32 [2, 1]]
    let r : Rec := { rec0 3 3 with desc0 := some 0, desc1 := some 1, desc2 := some 2 }
    RecordReady (runs r ds []) 0 0 (planOf r ds) r started ∧ OperandsSound (runs r ds []) 0 (planOf r ds) r started vuReads :=
  ⟨runs_ready _ _ _, sound_sound (by decide +kernel)⟩

/-- An accepted request: the hypothesis of the statements about requests. -/
theorem witness_request : Accepted served (frameOf host (head 2 0 0 2) 2 0x1104 0 [5, 0]) :=
  accepts_accepted (by decide +kernel)

/-- The invariant holds in the states these tests use. -/
theorem witness_inv : wired.Inv ∧ served.Inv ∧ sharing.Inv ∧ (running plan0 [started] []).Inv :=
  ⟨invOk_inv (by decide +kernel), invOk_inv (by decide +kernel), invOk_inv (by decide +kernel),
    invOk_inv (by decide +kernel)⟩

/-- What holds of the value of an option, if it has one. -/
theorem of_some {α : Type} {o : Option α} {P : α → Prop} [DecidablePred P] (h : o.all (fun a => decide (P a)) = true) :
    ∀ a, o = some a → P a := by
  rintro a rfl
  simpa using h

/-- The same of two options. -/
theorem of_two {α β : Type} {o : Option α} {u : Option β} {P : α → β → Prop} [∀ a b, Decidable (P a b)]
    (h : o.all (fun a => u.all (fun b => decide (P a b))) = true) : ∀ a b, o = some a → u = some b → P a b := by
  rintro a b rfl rfl
  simpa using h

/-- The operands of record 0 on core 0. -/
def ctx0 (s : State) (r : Rec) : Ctx := s.ctx (s.plan.getD plan0) 0 r started

/-- Tensors: streams without tiles (1 `BRT`-4, 3 BLK16, 6 `CSR` or BMP), and plain ones. -/
def streams : List Desc :=
  [tensor 0x1000 .fp32 [0, 1], tensor 0x10000 .fp32 [1296, 0], tensor 0x3000 .fp32 [2, 1], tensor 0x40000 .fp32 [16448, 0],
   tensor 0x60000 .int32s [1040, 1], tensor 0x70000 .int32s [1], tensor 0x20000 .fp32 [1296, 0], tensor 0x80000 .int32s [2, 1]]

/-- A record over those tensors. -/
def streamRun (r : Rec) : State := runs r streams []

/-- Products over no tiles: the BLK16 and `BRT`-k products' outputs are zero, and nothing cuts them short (R167, R198). -/
theorem witness_products :
    let blk : Rec := { rec0 1 2 with desc0 := some 0, desc1 := some 3, desc2 := some 2, units := 1 }
    let brt : Rec := { rec0 2 1 with desc0 := some 0, desc1 := some 1, desc2 := some 2, param1 := 0xFFFFFFFF, param2 := 0xFFFFFFFF }
    (streamRun blk).blkClean (ctx0 (streamRun blk) blk) ∧ (streamRun brt).spClean (ctx0 (streamRun brt) brt) .brt ∧
      sound (streamRun blk) (planOf blk streams) blk started blkReads = true ∧
      sound (streamRun brt) (planOf brt streams) brt started (spReads .brt) = true ∧
      leaves .blk16Product blk streams [] 0x3000 [0, 0] = true ∧ leaves .brtKProduct brt streams [] 0x3000 [0, 0] = true := by
  refine ⟨?_, ?_, ?_⟩
  · unfold State.blkClean
    exact of_two (by decide +kernel)
  · unfold State.spClean
    exact ⟨_, rfl, by decide +kernel⟩
  · decide +kernel

/-- A sampled product over no tiles, and list and map records whose lists are well formed (R213, R217, R226). -/
theorem witness_lists :
    let sam : Rec := { rec0 2 3 with desc0 := some 0, desc1 := some 1, desc2 := some 2, param1 := 1, param2 := 0xFFFFFFFF }
    let gat : Rec := { rec0 2 0x10 with desc0 := some 2, desc4 := some 5, desc2 := some 2, param2 := 0xFFFFFFFF }
    let com : Rec := { rec0 2 0x21 with desc0 := some 0, desc1 := some 0, desc2 := some 2, desc4 := some 4, param0 := 0x22,
                                        param1 := 0x20001, param2 := 0xFFFFFFFF }
    (streamRun sam).sampledClean (ctx0 (streamRun sam) sam) ∧ (streamRun gat).gatherClean (ctx0 (streamRun gat) gat) ∧
      (streamRun gat).scatterClean (ctx0 (streamRun gat) gat) ∧ (streamRun com).combineClean (ctx0 (streamRun com) com) := by
  refine ⟨?_, ?_, ?_, ?_⟩
  · unfold State.sampledClean
    intro v pl st hv hp hs
    obtain rfl := Option.some.inj hv
    obtain rfl := Option.some.inj hp
    obtain rfl := Option.some.inj hs
    decide +kernel
  · unfold State.gatherClean
    exact of_two (by decide +kernel)
  · unfold State.scatterClean
    exact of_some (by decide +kernel)
  · unfold State.combineClean
    intro out mp ho hm
    obtain rfl := Option.some.inj ho
    obtain rfl := Option.some.inj hm
    exact ⟨_, _, rfl, rfl⟩

/-- Predictor records whose lists and indices are well formed (R205, R217, R265, R274). -/
theorem witness_predictors :
    let e : PredEntry := ⟨.log, .bf16, 1, 1, 2, 2, 1, 0x3F800000, 0, [0x80, 0x3F], [0, 0x40, 0x80, 0x3F], [0], [0, 0], []⟩
    let r : Rec := { rec0 4 2 with desc0 := some 2, desc1 := some 5, desc2 := some 2, param2 := 0xFFFFFFFF }
    let s : State := { streamRun r with plan := some { planOf r streams with preds := [e] } }
    s.tokensClean (ctx0 s r) ∧ s.listClean (ctx0 s r) ∧ s.mergeClean (ctx0 s r) := by
  refine ⟨?_, ⟨?_, ?_⟩, ?_⟩
  · unfold State.tokensClean
    exact of_some (by decide +kernel)
  · unfold State.tokensClean
    exact of_some (by decide +kernel)
  · exact of_two (by decide +kernel)
  · unfold State.mergeClean
    exact of_two (by decide +kernel)

/-- Mask records over a stream of one slot whose tiles pass, with nothing refused (R237, R239, R243, R244, R248). -/
theorem witness_masks :
    let ds := [tensor 0x1000 .fp32 [1296, 1], tensor 0x20000 .fp32 [1296, 1], tensor 0x60000 .int32s [1040, 0],
      tensor 0x70000 .int32s [1]]
    let r : Rec := { rec0 6 2 with desc0 := some 0, desc1 := some 0, desc2 := some 1, desc4 := some 2, desc5 := some 3 }
    let s : State := runs r ds []
    s.scoreClean (ctx0 s r) ∧ s.selectClean (ctx0 s r) ∧ s.applyClean (ctx0 s r) ∧ s.convertClean (ctx0 s r) := by
  refine ⟨?_, ?_, ?_, ?_⟩
  · unfold State.scoreClean
    exact of_some (by decide +kernel)
  · intro st out cd sched h1 h2 h3 h4
    obtain rfl := Option.some.inj h1
    obtain rfl := Option.some.inj h2
    obtain rfl := Option.some.inj h3
    obtain rfl := Option.some.inj h4
    exact ⟨0, by decide +kernel⟩
  · unfold State.applyClean
    exact of_two (by decide +kernel)
  · intro st tgt h1 h2
    obtain rfl := Option.some.inj h1
    obtain rfl := Option.some.inj h2
    exact ⟨by decide +kernel, 1, by decide +kernel⟩

/-- A stash read whose slot holds an entry, and the slices of a dense weight set (R301, R316). -/
theorem witness_entries :
    let ds := [tensor 0x1000 .fp32 [16, 1], tensor 0x3000 .fp32 [16, 1], tensor 0x6000 .int32s [16, 4]]
    let w : WeightSet := ⟨1, false, true, true, false, 0, 3, 128, (1, 1), (4, 4), (5, 5), (0xFFFFFFFF, 0xFFFFFFFF), (0xFFFFFFFF, 0xFFFFFFFF), 6, 1⟩
    let r : Rec := { rec0 5 4 with desc0 := some 1, desc1 := some 1, desc2 := some 0, desc4 := some 2, param2 := 1 }
    let s : State := { runs r ds (bytesAt 0x6000 (words [1, 64, 0, 0, 16])) with plan := some { planOf r ds with weightSets := [w] } }
    s.stashClean (ctx0 s r) ∧ s.slicesClean (ctx0 s r) 0 := by
  refine ⟨?_, ?_⟩
  · unfold State.stashClean
    exact of_some (by decide +kernel)
  · unfold State.slicesClean
    exact of_two (by decide +kernel)

/-- The gasp and a stack's trip in FULL freeze, which logs nothing (R347, R416, R515). -/
theorem test_full_freeze :
  (let s : State := { wired with phase := .fullFreeze, freeze := ⟨.full, 5, true, false, 5, 0, 0⟩ }
   let gasped (t : State) (c : Byte) : Bool := t.out.any (fun o => match o with
      | .flit p ft f => decide (p = 0) && decide (ft = 0x0C) && decide (f.payload.head? = some c)
      | _ => false)
   [(Instr.pwrEnDeassert, (3 : Byte)), (.undervoltageStop, 3), (.resetNAssert, 2), (.dieTrip 0, 1)].all (fun x =>
     after x.1 s (gasped · x.2)) &&
   after (.stackTrip 1) s (fun t => gasped t 1 && decide (t.thermal[1] = .trip) && t.moduleLost && t.tripLatch &&
     decide (t.latchedCause = 2) && decide (t.phase = .fullFreeze) && decide (t.log = s.log) && decide (t.step = s.step))) = true := by decide +kernel

/-- A row beyond repair is counted again, but not listed again (R342, R343). -/
theorem test_rows_beyond_repair :
  (let s : State := { up.setObj 0x2706 0 1 with badRows := [hbmRow 0x1005] }
   invOk s && after (.hbmScrub 0x1005 .correctable) s (fun t => decide (t.faultyRows = [])) &&
   after (.hbmScrub 0x1005 .uncorrectable) s (fun t => decide (t.faultyRows = []) && decide (t.poison = [0x1000]))) = true := by decide +kernel

/-- A lit input that falls to LOW logs both events while its group is carried, and shows the class (R385). -/
theorem test_laser_low :
  (let s : State := { up with lasers := up.lasers.set 0 ⟨.lit, .low, 0⟩ |>.set 1 ⟨.lit, .lit, 0⟩ }
   let w : F32 := 0x41100000
   decide (laserClass w = .low) && after (.laserInputMeasure 0 w) s (fun t => decide (t.lasers[0] = ⟨.low, .low, w⟩) &&
     logged s t 0x6201 0x78 [0] && has t 0x6203) &&
   after (.laserInputMeasure 0 0) { s with lasers := s.lasers.set 0 ⟨.lit, .dark, 0⟩ } (fun t =>
     decide (t.lasers[0].cls = .dark) && logged s t 0x6201 0x78 [0])) = true := by decide +kernel

/-- The check value of CRC-32C: 0xE3069283 for the nine digits in ASCII (R387). -/
theorem test_crc :
  (decide (crc32c [0x31, 0x32, 0x33, 0x34, 0x35, 0x36, 0x37, 0x38, 0x39] = 0xE3069283)) = true := by decide +kernel

set_option maxRecDepth 100000 in
/-- A flit's 256 bytes: type, flags, sequence, acknowledgement, credits and route stand at their offsets, and read back (R387). -/
theorem test_wire :
  (let f : Flit := ⟨2, some 0x0A0B, some (1, 0x155), 0x0102, 0x0304, 0x0506, 0x0708090A, 3, 0x123456789ABCDEF, 0x0B0C0D0E, [0xAA, 0xBB]⟩
   let b := flitWire 4 f
   decide (b.length = 256) && decide (b.take 8 = [0x04, 0xB0, 0x02, 0x01, 0x0B, 0x0A, 0x55, 0x41]) &&
   decide (slice b 8 20 = [4, 3, 6, 5, 0x0A, 9, 8, 7, 0xEF, 0xCD, 0xAB, 0x89, 0x67, 0x45, 0x23, 0x31, 0x0E, 0x0D, 0x0C, 0x0B]) &&
   (match readFlit b with
    | some (t, g) => decide (t = 4) && decide ({ g with payload := [] } = { f with payload := [] }) && decide (g.payload.take 3 = [0xAA, 0xBB, 0])
    | none => false) &&
   decide ((readFlit (b.set 30 1)).isNone) && idleOn (.flitCrcFail 0 (.flit b)) wired) = true := by decide +kernel

/-- A lane whose corrected symbols reach the limit is swapped, and the spare lane repeats the SWAP (R391, R392). -/
theorem test_lane_errors :
  (let no : Vector Nat 8 := #v[0, 0, 0, 0, 0, 0, 0, 0]
   let s : State := wired.setObj 0x2904 0 9
   invOk s && after (.flitCrcFail 0 (.block #v[#v[0, 0, 9, 0, 0, 6, 0, 0], no, no, no])) s (fun t =>
     decide (t.ports[0].rx.swap = some ⟨2, 8, 128, true, 0⟩) && (match t.out with
       | [.flit _ ft f] => decide (ft = 0x0F) && decide (f.xinfo = swapArg 2 8)
       | _ => false) &&
     match step { t with uptime := 63 } with
     | .next u => u.out.any (fun o => decide (o = .spareLane 0 (swapArg 2 8) 128))
     | _ => false)) = true := by decide +kernel

/-- Data for a stack out of service, and messages for a core that is mapped out, are dropped and counted (R28). -/
theorem test_fences :
  (let s : State := { wired with
     thermal := up.thermal.set 0 .trip
     islands := setKey 0x40 IslandState.fenced up.islands
     inbound := [⟨2, 5, 0, 300, [], false⟩] }
   decide (s.stackOut 0 224 = some 0x40) &&
   after (.data 0 { flit (List.replicate 224 7) with xinfo := 0x00050000 }) s (fun t => decide (t.mem = []) && decide (t.out = s.out)
     && decide (t.inbound = []) && decide (lookupKey 0x40 t.fenceErrors = some 1)) &&
   (let f : State := { runs (rec0 0 0) [] [] with islands := setKey 0 IslandState.fenced up.islands, signals := [⟨0, 5, 1, 4, 7⟩] }
    after (.tally 0 (flit (toLe 8 4 ++ toLe 8 (3 + 2 ^ 34 * 5)))) f (fun t => decide (t.cores[0].tallies[5] = 0)
      && decide (lookupKey 0 t.fenceErrors = some 1)) &&
    after (.signalArrival 0) f (fun t => decide (t.cores[0].tallies[5] = 0) && decide (t.signals = [])
      && decide (lookupKey 0 t.fenceErrors = some 1)))) = true := by decide +kernel

/-- A swap due without its image fails the agreement, and a down link that no set covers ends it (R41, R413). -/
theorem test_swap_due :
  (let w (l : List Nat) := l ++ List.replicate (8 - l.length) 0
   let s : State := { wired with agree := { AgreeState.initial with
     contributed := true
     hostLaunch := some ⟨3, 1000, 0, false⟩
     resA := some (w [1], w [1])
     resB := some (w [], w []) } }
   let m : State := s.setObj 0x5003 0 500
   m.swapMissing 1000 && after .agreeAttemptEnd m (fun t => decide (t.agree.decided = none) && decide (t.agree.retryAt = some 1000000)) &&
   (let l : DownLink := DownLink.of (1, 0) (2, 3) 1
    let r : Route := ⟨2, 0, 1, 0⟩
    let p : Plan := { plan0 with routes := [r] }
    let c : State := { s with plan := some p, downLinks := [l] }
    decide (c.imageAt 1000 = some p) && !c.covered p false && after .agreeAttemptEnd c (fun t => decide (t.agree.decided = none)
      && t.agree.stopped && has t 0x6108))) = true := by decide +kernel

/-- A stop explains part of a wait, and a crossing concerns both its islands (R27, R376). -/
theorem test_pauses :
  (let s0 : State := { runs (rec0 2 1) [] [] with pauses := [(10, 500)] }
   let n := 1000 * s0.obj 0x2801 0
   let w : WatchCondition := .crossing 0 1 7 0
   let s : State := { s0 with gc := { s0.gc with value := n + 1 } }
   let l : State := { s0 with gc := { s0.gc with value := n + 491 } }
   let f : State := { l with islands := setKey 1 IslandState.fenced up.islands }
   idleOn (.watchdogExpiry w) s && idleOn (.watchdogExpiry w) f &&
   after (.watchdogExpiry w) l (fun t => decide (t.standing = [w]) && logged l t 0x4701 1 [1, 7, 0, 0, 0] &&
     decide ({ t with standing := [] }.oldestStanding = 0xFF)) &&
   (let q : QRec := { recno := 0, queues := [.se], phase := .issued, waitSince := some 600 }
    let c : State := { running (planOf (rec0 2 1) []) [q] [] with standing := [.credit 0 0] }
    decide (c.standingNow = [.credit 0 0]) && decide (c.oldestStanding = (c.recIsland 0 0).elim 0xFF Prod.snd)
      && decide (c.oldestStanding ≠ 0xFF))) = true := by decide +kernel

/-- A cancel invalidates the prefetch in flight, which ends with its last read (R380). -/
theorem test_cancel_in_flight :
  (let pf : Rec := { rec0 5 5 with desc0 := some 0, worktag := 9 }
   let cn : Rec := { rec0 5 6 with param0 := 9, recno := 1 }
   let p : Plan := { plan0 with records := [pf, cn] :: List.replicate 47 [], descs := [tensor 0x1000 .fp32 [16, 2]] }
   let r : Read := ⟨0x1000, .normal, false, none⟩
   let s : State := running p [{ started with reads := [r] }, { started with recno := 1 }] []
   s.cores[0].inflight.any (p.isPrefetch 0 9) && after (.cancel 0 1) s (fun t => decide (t.cores[0].cancelled = [9]) &&
     decide (t.cores[0].inflight.map (fun q => (q.tagInvalid, q.reads.length, q.phase)) = [(true, 1, .started), (false, 0, .executed)]) &&
     after (.feedReadLanded 0 0 0x1000 .normal) t (fun u => decide (u.obj 0x303F 0 = 1) &&
       decide (u.cores[0].inflight.map (fun q => q.phase) = [.executed, .executed])))) = true := by decide +kernel

/-- A dense record waits while its arrays change their partition mode, and the wait is counted (R156, R170). -/
theorem test_arrays_drain :
  (let r : Rec := { rec0 1 1 with units := 3, part := 2 }
   let s0 : State := running (planOf r []) [] []
   let b : QRec := { started with recno := 5, queues := [.da 0 0] }
   let s : State := { s0 with cores := s0.cores.set 0 { s0.cores[0] with inflight := [b] } }
   decide (s.cores[0].modeOk r = false) && after (.recordIssue 0) s (fun t => decide (t.cores[0].drainSince = some 0)
     && decide (t.cores[0].inflight = [b]) && decide (t.cores[0].next = 0))) = true := by decide +kernel

/-- RDMA on bytes of a stack out of service is refused and counted, and changes nothing (R28, R454). -/
theorem test_rdma_out_of_service :
  (let s : State := { sharing with thermal := vmap (fun _ => Thermal.trip) up.thermal, islands := (List.range 8).foldl (fun m i => setKey (0x40 + i) IslandState.fenced m) up.islands }
   let hit (t : State) : Bool := decide (t.mem = s.mem) && decide (t.out = s.out ++ [.rdma 5 .nakAccess]) && decide (t.fenceErrors.length = 1)
   after (.rdmaRead ⟨5, false⟩ 3 8192 4) s hit && after (.rdmaWrite ⟨5, false⟩ 3 8192 [1, 2]) s hit) = true := by decide +kernel

/-- A notice leaves by every other UP port; a known link aborts nothing; a gasp's loss makes the far end lost; an older notice, or the module's own, does nothing (R410, R411, R414, R417). -/
theorem test_floods_go_on :
  (let s : State := { wired with
     ports := wired.ports.set 1 (linked 9 0)
     plan := some plan0
     step := { up.step with status := .running, launched := true, current := 4 }
     floodSeen := [(9, 0)] }
   let h (b : Bytes) : Flit := flit (toLe 2 9 ++ toLe 2 0 ++ toLe 4 1 ++ b)
   let on (t : State) (ft : BitVec 8) (b : Bytes) : Bool := t.out.any (fun o => match o with
      | .flit p k g => decide (p = 1) && decide (k = ft) && decide (g.payload = b)
      | _ => false) && !t.out.any (fun o => match o with
      | .flit p k _ => decide (p = 0) && decide (k = ft)
      | _ => false)
   let hb := (h (toLe 8 7 ++ toLe 8 300)).payload
   let loss (c : Byte) : Flit := h (toLe 2 9 ++ [1] ++ toLe 2 4 ++ [2] ++ [c])
   decide (0 < ((floodHead (h [])).2 + 2 ^ 32 - 0) % 2 ^ 32) && decide ((floodHead (h [])).1 = 9) &&
   after (.hold 0 (flit hb)) s (fun t => on t 8 hb && logged s t 0x6109 0x78 [9, 0] && decide (lookupKey 9 t.floodSeen = some 1)) &&
   after (.hold 0 (flit hb)) { s with holdsHeard := [7], holds := [(7, 900)] } (fun t => on t 8 hb && decide (t.log = s.log)
     && decide (lookupKey 7 t.holds = some 900)) &&
   after (.freeze 0 (h (toLe 8 50))) { s with freeze := ⟨.pending, 90, true, true, 0, 0, 0⟩ } (fun t =>
     on t 9 (h (toLe 8 50)).payload && decide (t.freeze = ⟨.pending, 50, true, true, 0, 0, 0⟩)) &&
   after (.loss 0 (loss 1)) s (fun t => on t 0x0B (loss 1).payload && decide (t.step.causes = [lossCode 1])) &&
   after (.loss 0 (loss 1)) { s with downLinks := [DownLink.of (9, 1) (4, 2) 1] } (fun t => decide (t.step = s.step) && decide (t.mem = s.mem)) &&
   after (.loss 0 (loss 3)) { s with downLinks := [DownLink.of (9, 1) (4, 2) 1] } (fun t => decide (t.lostNodes = [4])
     && decide (t.step.status = .aborted) && t.downLinks.any (fun x => decide (x.cause = 3))) &&
   after (.abort 0 (h (toLe 8 4 ++ [4, 0x31]))) s (fun t => t.out.any (fun o => match o with
      | .flit p k g => decide (p = 1) && decide (k = 0x10) && decide (g.payload = (h (toLe 8 4 ++ [4, 0x31])).payload)
      | _ => false) && has t 0x610B) &&
   [Instr.hold 0 (flit hb), .freeze 0 (flit hb), .loss 0 (flit hb), .abort 0 (flit hb)].all (fun c =>
     [(1, 0), (9, 5)].all (fun e =>
       let o : State := { s with floodSeen := [(9, if e.1 = 9 then e.2 else 0)], ports := s.ports }
       let o : State := if e.1 = 1 then { o with od := ((o.setObj 0x1104 0 9)).od } else o
       after c o (fun t => decide (t.holds = o.holds) && decide (t.freeze = o.freeze) && decide (t.step = o.step)
         && decide (t.floodSeen = o.floodSeen) && decide (t.ports = (o.delivered 0 (flit hb)).ports) && decide (t.out = o.out))))) = true := by decide +kernel

/-- A flit of another configuration is counted, logged and not delivered; with a step in progress it aborts it (R396). -/
theorem test_foreign_epoch :
  (let f : Flit := { flit (List.replicate 224 7) with epoch := 5, xinfo := 0x00050000 }
   let x : Inbound := ⟨2, 5, 0x1000, 300, [], false⟩
   let r : State := { runs (rec0 0 0) [] [] with inbound := [x] }
   !wired.epochOk f && decide (f.dst = wired.nodeId) &&
   [Instr.writeHead 0 f, .data 0 f, .writeAck 0 f, .tally 0 f, .agree 0 f].all (fun c =>
     after c { wired with inbound := [x] } (fun t => decide (t.mem = []) && decide (t.cores = up.cores) && decide (t.rounds = [])
       && decide (t.obj 0x3046 0 = 1) && logged wired t 0x6104 0x50 [0, 2, 0]) &&
     after c r (fun t => decide (t.step.causes = [0x6104]) && decide (t.mem = ((r.delivered 0 f).abortStep 0x6104).mem)
       && decide (t.cores = ((r.delivered 0 f).abortStep 0x6104).cores) && logged r t 0x6104 0x50 [0, 2, 0]))) = true := by decide +kernel

/-- With a step aborted, its relaunch is decided where every module allows it, and else the attempts end (R445). -/
theorem test_attempts_aborted :
  (let w (l : List Nat) := l ++ List.replicate (8 - l.length) 0
   let s (no : Nat) : State := { wired with
     plan := some plan0
     step := { up.step with status := .aborted, launched := true, current := 4, planned := 1000 }
     stageLock := true
     agree := { AgreeState.initial with
       contributed := true, saidAborted := true, resA := some (w [1], w [1]), resB := some (w [], w [1, no, 0, 40, 60, 0x4105]) } }
   invOk (s 0) && !(s 0).wordsStale && after .agreeAttemptEnd (s 0) (fun t => decide (t.agree.decided = some ⟨4, 1060, 60, true⟩) &&
     decide (t.step = (s 0).step) && logged (s 0) t 0x4902 0x78 [5, 0x41]) &&
   after .agreeAttemptEnd (s 1) (fun t => decide (t.agree.decided = none) && t.agree.stopped && !t.stageLock && has t 0x4903 &&
     logged (s 1) t 0x4902 0x78 [5, 0x41]) &&
   after .agreeAttemptEnd { s 1 with step := { (s 1).step with status := .ended } } (fun t => decide (t.step.status = .aborted))) = true := by decide +kernel

/-- A launch commits the ended step, staged values and the epoch; of a step the image does not hold it commits and idles (R446, R474). -/
theorem test_launch_commits :
  (let s : State := { wired with
     plan := some plan0
     staged := [(objKey 0x2801 0, [7, 0, 0, 0])]
     step := { up.step with status := .ended, launched := true, current := 4, masks := [(3, 77)], counts := [] }
     agree := { AgreeState.initial with decided := some ⟨5, 50, 3, false⟩ }
     gc := { up.gc with value := 50 } }
   invOk s && decide ((s.commitStep plan0).imageAt 50 = some plan0) &&
   after .stepLaunch s (fun t => decide (t.step.status = .running) && decide (t.step.current = 5) && decide (t.step.launchGc = 50) &&
     decide (t.plan = some plan0) && decide (t.obj 0x2402 3 = 77) && decide (t.obj 0x2801 0 = 7) && decide (t.obj 0x1004 3 = 1) &&
     decide (t.obj 0x3001 0 = 1) && decide (t.obj 0x1201 0 = 50) && decide (t.obj 0x1201 1 = 1) && decide (t.obj 0x2A04 3 = 3)) &&
   after .stepLaunch { s with agree := { s.agree with decided := some ⟨101, 50, 0, false⟩ } } (fun t =>
     decide (t.step.status = .idle) && has t 0x4905 && decide (t.obj 0x2402 3 = 77))) = true := by decide +kernel

/-- A commit shows a weight set's version and a mask's stored entries, and keeps the audit record of a result (R252, R289, R429). -/
theorem test_commit_weights :
  (let w : WeightSet := ⟨0, true, false, false, false, 3, 0, 8, (0, 0), (0xFFFFFFFF, 0), (0xFFFFFFFF, 0), (0xFFFFFFFF, 0), (0xFFFFFFFF, 0), 1, 16⟩
   let p : Plan := { plan0 with weightSets := [w], descs := [tensor 0x1000 .fp32 [320, 1], tensor 0x8000 .bf16 [64, 1]] }
   let s : State := { wired with
     plan := some p
     mem := memWrite [] 0x1000 (toLe 1 2 ++ [0] ++ toLe 2 9)
     step := { up.step with status := .ended, launched := true, current := 4, masks := [(3, 77)], versions := [(1, 0, 0, 4, 0)] } }
   let a : State := ({ s with step := { s.step with versions := [], masks := [], results := [(1, none)] } }).setObj 0x2A00 0 1
   invOk s && decide ((TileHdr.parse (s.slot (tensor 0x1000 .fp32 [320, 1]) 0)).nnz = 9) &&
   (let t := s.commitStep p
    decide (t.obj 0x2601 0 = 4) && decide (t.obj 0x2402 3 = 77) && decide (t.obj 0x2403 3 = 9) && decide (t.auditLog = [])) &&
   (let t := a.commitStep p
    a.auditing && decide (t.auditLog.map (fun r => (r.step, r.desc, r.node)) = [(4, 1, 1)]))) = true := by decide +kernel

/-- A window slot used goes to HOST with the step, a poisoned one to RETIRED, and the host is told (R460, R465). -/
theorem test_commit_slots :
  (let s : State := { (sharing.setObj 0x2A00 0 2) with
     plan := some { shared with windows := [⟨3, true, 0, 2, 4096⟩] }
     blobs := setKey (objKey 0x1102 2) (List.replicate 18 1) []
     step := { up.step with status := .ended, launched := true, current := 6, slotsUsed := [(3, 1)] } }
   let p : Plan := { shared with windows := [⟨3, true, 0, 2, 4096⟩] }
   invOk s && decide (s.bytes 0x100100 8 = [1, 0, 0, 0, 9, 0, 0, 0]) &&
   (let t := s.commitStep p
    decide (t.bytes 0x100100 16 = [1, 0, 0, 0, 10, 0, 0, 0, 6, 0, 0, 0, 0, 0, 0, 0]) && t.out.any (fun o => match o with
      | .notice b _ m => decide (b = List.replicate 18 1) && decide (m = [2, 3] ++ toLe 8 6 ++ toLe 4 1 ++ toLe 4 1)
      | _ => false)) &&
   (let t := ({ s with step := { s.step with slotsPoisoned := [(3, 1)] } }).commitStep p
    decide (t.bytes 0x100100 8 = [3, 0, 0, 0, 10, 0, 0, 0]) && has t 0x4A02)) = true := by decide +kernel

/-- A checkpoint commits in its slot and the ward's with the digests of both (R506). -/
theorem test_commit_ckpt :
  (let c : CkptTable := ⟨2, 2, 1, 0x10000, 0x20000, 0x30000, 4096⟩
   let p : Plan := { plan0 with ckpt := some c, ckptPeriod := 2 }
   let s : State := { wired with
     plan := some p
     mem := memWrite (memWrite [] (0x31000 + 4096 - 48) [1]) (0x21000 + 4096 - 48) [2]
     step := { up.step with status := .ended, launched := true, current := 6 } }
   let row (b : Byte) : Nat := sha3Nat (b :: List.replicate 47 0)
   invOk s && (let t := s.commitStep p
    decide (t.obj 0x5021 1 = 6) && decide (t.obj 0x5021 3 = 6) && decide (t.obj 0x5022 1 = row 1) && decide (t.wardDigests[1] = row 2))) = true := by decide +kernel

/-- A plan swap has its counts and its swap count from zero and writes a new window (R41, R83, R457); a copied spare serves its core (R499); a replay record stands (R430). -/
theorem test_commit_swap :
  (let s : State := { wired.setObj 0x5003 0 40 with plan := some plan0, counts := [((0, 0, 0), 1)], activeSlot := some false }
   let t := s.commitConfig (some shared) 50
   invOk s && decide (t.plan = some shared) && decide (t.activeSlot = some true) && decide (t.counts = []) && decide (t.obj 0x5003 0 = 0) &&
   decide (t.obj 0x1004 3 = 1) && decide (t.epochCommitGc = some 50) && decide ((s.commitConfig none 50).obj 0x1004 3 = 0) && decide ((s.commitConfig none 50).epochCommitGc = none) &&
   decide (t.bytes 0x100000 16 = ascii "TG96WIND" ++ [3, 0, 0, 0, 2, 0, 0, 0]) &&
   decide (t.bytes 0x100100 17 = toLe 8 0 ++ List.replicate 8 0xFF ++ [0]) &&
   (let x : Sparing := ⟨9, 9, 12, some 0, true, 3⟩
    let u := ({ up with sparing := [x] }).commitMap
    decide (u.coreMap[9] = 12) && decide (u.spares[0] = none) && decide (u.sparing = []) && decide (u.island 12 = .run) && decide (u.island 9 = .failed)) &&
   (let u := (wired.setObj 0x2A00 0 2).noteLaunch ⟨7, 50, 3, true⟩ true
    decide (u.obj 0x2A04 2 = 50) && decide (u.obj 0x2A04 3 = 3) && decide (u.obj 0x3001 2 = 1)
      && decide (u.replayLog.map (fun r => (r.step, r.gc)) = [(7, 50)]))) = true := by decide +kernel

/-- An input out of range locks out a stage that is off or tripped as well, and a trip stands when a lockout ends (R522). -/
theorem test_lockouts_beside :
  ([(Instr.undervoltageStop, Instr.undervoltageLockoutExit, Stage.underLockout, Stage.trippedUnder),
     (.overvoltageLockout, .overvoltageLockoutExit, .overLockout, .trippedOver)].all (fun x =>
    let at' (g : Stage) : State := { dark with stage := g }
    after x.1 dark (fun t => same t (at' x.2.2.1)) && after x.1 (at' .tripped) (fun t => same t (at' x.2.2.2)) &&
    after x.2.1 (at' x.2.2.2) (fun t => same t (at' .tripped)) &&
    (let p : State := { at' x.2.2.2 with pins := { dark.pins with pwrEn := true } }
     after .pwrEnDeassert p (fun t => decide (t.stage = x.2.2.1))) &&
    after (.pwrEnAssert false) (at' x.2.2.1) (fun t => decide (t.stage = x.2.2.1) && t.pins.pwrEn && decide (t.phase = .dark)))) = true := by decide +kernel

/-- A core that fails its self-test moves to its die's spare; a failed spare is lost; without a spare bring-up fails (R536), as it does for every stack that fails (R537). -/
theorem test_core_tests :
  (let b (l : List Phys) : Instr := .bringupComplete { goodScans with coreFail := l }
   let n : State := { State.reset with spares := State.reset.spares.set 0 none }
   after (b [3]) State.reset (fun t => decide (t.bringup = .ready) && decide (t.coreMap[3] = 12) && decide (t.island 3 = .failed)
     && decide (t.island 12 = .run) && logged State.reset t 0x2601 3 [3, 3, 12]) &&
   after (b [25]) State.reset (fun t => decide (t.bringup = .ready) && decide (t.spares[1] = none) && decide (t.island 25 = .failed)
     && logged State.reset t 0x2506 25 [25]) &&
   after (b [3]) n (fun t => decide (t.bringup = .failed) && decide (t.obj 0x2010 1 = 2) && decide (t.island 3 = .failed)) &&
   after (.bringupComplete { goodScans with unrepairable := [1, 6] })
       { State.reset with nv := { State.reset.nv with a := { Store.fresh with repairs := [(hbmRow 0, false)] } } } (fun t =>
     decide (t.bringup = .failed) && t.log.recs.any (fun e => decide (e.code = 0x2602) && decide (e.island = 0x46)) &&
     t.log.recs.any (fun e => decide (e.code = 0x2602) && decide (e.island = 0x41)) && decide (t.nv.repairs = [(hbmRow 0, true)])) &&
   idleOn (b []) { State.reset with uptime := 1000000001 }) = true := by decide +kernel

/-- In reset a high pulse of `RESET_N` is counted (R526), and a stack's trip shuts it off (R347). -/
theorem test_in_reset :
  (let s : State := { up with phase := .inReset }
   after (.discreteInputIgnored 1) s (fun t => decide (t.obj 0x2012 1 = 1)) &&
   after (.stackTrip 1) s (fun t => decide (t.thermal[1] = .trip) && t.tripLatch && decide (t.latchedCause = 2)
     && decide (t.pins.thermTripN = .low) && decide (t.log = s.log) && decide (t.islands = s.islands))) = true := by decide +kernel

/-- A `HOLD` leaves every UP port and is counted; with a collective stage still in progress it waits (R345). -/
theorem test_hold_floods :
  (let s : State := { wired with holdDue := [⟨3, [], []⟩], ports := wired.ports.set 1 (linked 9 0) }
   let b := s.floodBytes (toLe 8 s.holdStep ++ toLe 8 (s.obj 0x2704 0))
   after .holdSend s (fun t => decide (t.obj 0x303B 0 = 1) && [0, 1].all (fun p => t.out.any (fun o => match o with
      | .flit q k g => decide (q.val = p) && decide (k = 8) && decide (g.payload = b)
      | _ => false))) &&
   (let r : State := { runs (rec0 7 1) [] [] with holdDue := [⟨3, [(0, 0, 0)], []⟩] }
    !r.stageOver (0, 0, 0) && idleOn .holdSend r)) = true := by decide +kernel

/-- A port that fails floods `LOSS` on every other and aborts the step (R25, R409); a spare being filled is not lost (R538). -/
theorem test_port_fails :
  (let s : State := { runs (rec0 0 0) [] [] with ports := wired.ports.set 1 (linked 9 0) }
   let b := s.floodBytes (s.lossBytes 0 1)
   after (.pllLockLost 0x50) s (fun t => decide (t.step.status = .aborted) && decide (t.ports[0].st = .failed) && t.out.any (fun o => match o with
      | .flit q k g => decide (q = 1) && decide (k = 0x0B) && decide (g.payload = b)
      | _ => false)) &&
   (let x : State := { up with sparing := [⟨9, 9, 12, some 0, false, 3⟩] }
    idleOn (.spareSelfTest 0 false) x && after (.spareSelfTest 0 false) { x with sparing := [⟨9, 9, 25, none, false, 3⟩] } (fun t =>
      decide (t.spares[0] = none)))) = true := by decide +kernel

/-- A sparing copy goes on from where a CAPTURE stopped it (R511). -/
theorem test_copy_resumes :
  (let s : State := { up with
     freeze := ⟨.capture, 100, false, true, 100, 0, 0⟩
     gc := { up.gc with value := 700 }
     sparing := [⟨9, 9, 12, some 40, false, 3⟩] }
   after .freezeNDeassert s (fun t => decide (t.sparing = [⟨9, 9, 12, some 640, false, 3⟩]) && decide (t.freeze.st = .run))) = true := by decide +kernel

/-- A lane whose uncorrectable blocks reach the limit is swapped (R391); a flit that waits leaves with the credits that come (R390). -/
theorem test_worn_lane :
  (let no : Vector Nat 8 := #v[0, 0, 0, 0, 0, 0, 0, 0]
   let s : State := wired.setObj 0x2904 1 1
   after (.flitCrcFail 0 (.block #v[#v[0, 0, 9, 0, 0, 7, 0, 0], no, no, no])) s (fun t => t.ports[0].nakSent &&
     decide (t.ports[0].rx.swap = some ⟨2, 8, 128, true, 0⟩) && t.out.any (fun o => match o with
       | .flit _ ft f => decide (ft = 0x0F) && decide (f.xinfo = swapArg 2 8)
       | _ => false)) &&
   (let w (n : Nat) : State := { wired with ports := wired.ports.set 0 { linked 2 3 with
      txCredits := #v[n, n, n, n], txSeq := 5, waitq := [(2, flit [1, 2], none)] } }
    after (.idle 0 (flit [])) (w 1) (fun t => decide (t.ports[0].waitq = []) && (match t.out with
      | [.flit _ ft g] => decide (ft = 2) && decide (g.seq = 5) && decide (g.payload = [1, 2])
      | _ => false)) &&
    after (.keepalive 0 (flit [])) (w 0) (fun t => decide (t.ports[0].waitq.length = 1) && decide (t.out = [])))) = true := by decide +kernel

/-- A flit for a port that is mapped out is discarded, and the fence counts it and answers (R28, R395). -/
theorem test_fenced_port :
  (let s : State := { wired with islands := setKey 0x51 IslandState.failed up.islands }
   s.isFenced 0x51 && after (.data 0 { flit [] with dst := 9, path := 1 }) s (fun t => decide (t.obj 0x3046 1 = 1) &&
     decide (lookupKey 0x51 t.fenceErrors = some 1) && decide (lookupKey 0x50 t.errorReplies = some 1))) = true := by decide +kernel

/-- An abort makes the version entry a step wrote all ones (R321), and the reads in flight still land (R380). -/
theorem test_abort_versions :
  (let d := tensor 0x8000 .bf16 [64, 4]
   let x : Read := ⟨0x4000, .normal, false, none⟩
   let s0 : State := runs { rec0 2 1 with desc0 := some 0 } [d] []
   let s : State := { s0 with
     step := { s0.step with versions := [(0, 1, 0, 4, 0)] }
     cores := s0.cores.set 0 { s0.cores[0] with inflight := [{ started with reads := [x] }] } }
   let t := s.abortStep 0x4105
   decide (t.mem = ((s.writeRun (verAddr d 1 0) (toLe 8 (2 ^ 64 - 1))).writeRun (verRow d 1 + 16) (List.replicate 48 0)).mem) &&
   decide (t.bytes (verAddr d 1 0) 8 = List.replicate 8 0xFF) && decide (t.cores[0].inflight = []) &&
   decide (t.cores[0].landing = [{ started with tagInvalid := true, reads := [x] }]) &&
   after (.feedReadLanded 0 0 0x4000 .normal) t (fun u => decide (u.cores[0].landing = []) && decide (u.obj 0x303F 0 = 1))) = true := by decide +kernel

/-- A record that does not run sends its signals; one of the sequencer waits behind the head of its queue; one on a retired slot aborts the step (R51, R53, R302, R458). -/
theorem test_issue_more :
  (let r : Rec := { rec0 2 1 with sigs := [⟨0, 0, 0, 5, 3⟩, ⟨1, 0, 7, 6, 2⟩] }
   let e : State := running (planOf r []) [] []
   let g : State := running { plan0 with records := [{ rec0 0 0 with recno := 9 }, { rec0 0 0 with recno := 1 }] :: List.replicate 47 [] }
     [{ started with recno := 9 }] []
   let rs : Rec := { rec0 2 0x10 with desc0 := some 0, desc2 := some 1 }
   let p : Plan := { planOf rs [tensor (0x100000 + 8192) .fp32 [16, 1], tensor 0x8000 .fp32 [16, 1]] with
     allocs := shared.allocs, windows := shared.windows }
   let v : State := running p [] (bytesAt (0x100000 + 256) [3, 0, 0, 0, 9])
   after (.recordIssue 0) { e with cores := e.cores.set 0 { e.cores[0] with skip := 2 } } (fun t =>
     decide (t.signals = [⟨0, 5, 3, 4, 0⟩, ⟨7, 6, 2, 4, 0⟩])) &&
   after (.recordIssue 0) g (fun t => decide (t.cores[0].inflight.map (fun q => (q.recno, decide (q.phase = .started))) = [(9, true), (1, false)])) &&
   decide (v.retiredSlot p rs = some (3, 1)) && after (.recordIssue 0) v (fun t => decide (t.step.causes = [0x4A01]))) = true := by decide +kernel

/-- A tap copies what a record wrote into a slot in DEVICE ownership, and into no other, which logs 0x4907 (R431). -/
theorem test_taps :
  (let p : Plan := { shared with descs := [tensor 0x9000 .fp32 [16, 1]] }
   let s (f : Byte) : State := { sharing with
     plan := some p
     step := { up.step with status := .running, launched := true, current := 6 }
     mem := memWrite (bytesAt (0x100000 + 256) [f, 0, 0, 0, 9]) 0x9000 (words [0x3F800000])
     blobs := setKey (objKey 0x2A08 2) (toLe 8 6 ++ toLe 4 0 ++ [3] ++ toLe 3 1) [] }
   decide ((s 2).replayTap 2 = some (6, 0, 3, 1)) && (indices 16).all (fun j => j = 2 || decide ((s 2).replayTap j.val = none)) &&
   (let t := (s 2).runTaps p [0]
    decide (t.bytes (0x100000 + 8192) 8 = words [0x3F800000, 0]) && decide (t.mem = ((s 2).writeRun (p.slotBase ⟨3, false, 0, 2, 4096⟩ 1) ((s 2).tensorBytes (tensor 0x9000 .fp32 [16, 1]))).mem)) &&
   (let t := (s 1).runTaps p [0]
    decide (t.mem = (s 1).mem) && logged (s 1) t 0x4907 0x78 [])) = true := by decide +kernel

/-- A slot pulled from the buddy becomes the local one (R507); on a stack out of service it fails (R28). -/
theorem test_restore_pull :
  (let c : CkptTable := ⟨2, 2, 1, 0x10000, 0x20000, 0x30000, 64⟩
   let s : State := { wired with plan := some { plan0 with ckpt := some c }, restore := some ⟨7, true⟩ }
   let b : Bytes := List.replicate 64 7
   let o : State := { s with restore := some ⟨7, false⟩, islands := (List.range 8).foldl (fun m i => setKey (0x40 + i) IslandState.fenced m) up.islands }
   after (.ckptRestoreDone (some b)) s (fun t => decide (t.mem = (s.writeRun (c.slot c.localBase 1) b).mem) && decide (t.obj 0x5021 1 = 7)
     && decide (t.step.current = 6) && decide (t.obj 0x5023 1 = 2)) &&
   decide ((o.stackOut (c.slot c.localBase 1) 64).isSome) && after (.ckptRestoreDone none) o (fun t => decide (t.obj 0x5023 1 = 3)
     && decide (t.step.status = .aborted) && has t 0x4B01)) = true := by decide +kernel

set_option maxRecDepth 100000 in
/-- A neighbour protocol is answered for the port's own addresses only (R450), and a marked packet with a congestion notification (R452). -/
theorem test_neighbours :
  (let s : State := served.setObj 0x1100 1 0x0A000001
   let b : State := { s with blobs := setKey (objKey 0x1100 2) (List.replicate 15 0 ++ [9]) [] }
   decide (eui64Address 0x001122334455 = 0xFE80 * 2 ^ 112 + 0x021122FFFE334455) &&
   after (.neighbourReply (.arp 0x0A000001)) s (fun t => decide (t.out = [.neighbour (.arp 0x0A000001)])) &&
   after (.neighbourReply (.icmpEcho 0x0A000002)) s (fun t => decide (t.out = []) && decide (t.obj 0x3049 0 = 1)) &&
   after (.neighbourReply (.icmpv6Echo 9)) b (fun t => decide (t.out = [.neighbour (.icmpv6Echo 9)])) &&
   after (.rdmaUnsupported ⟨5, true⟩ 4) sharing (fun t => decide (t.out = [.cnp 5, .rdma 5 .nakInvalid]))) = true := by decide +kernel

/-- A repeated request counts by its kept response's status (R462, R483). -/
theorem test_replays :
  (let rs (st : Nat) : Response := ⟨1, 4, 7, 0x2A04, 1, st, 0, []⟩
   let rd := frameOf host (head 1 0 0 0) 1 0x2A04 1 []
   let k (st : Nat) : State := served.keep rd (rs st)
   let n (st : Nat) (t : State) : Bool := decide (t.out = [.response host (rs st)]) && decide (t.obj 0x3003 1 = 1)
   (match (k 0).serve rd, (k Status.signature.code).serve rd with
    | .next t, .next u => n 0 t && decide (t.obj 0x3003 2 = 0) && n Status.signature.code u && decide (u.obj 0x3003 2 = 1) && decide (u.obj 0x3003 3 = 1)
    | _, _ => false)) = true := by decide +kernel

set_option maxRecDepth 100000 in
/-- A second segment joins its transfer and ends it; an image or a program that fails a check is refused with its code (R40, R463, R517). -/
theorem test_segments_more :
  (let b0 : Bytes := List.replicate 4096 7
   let s : State := { served with mgmt := { served.mgmt with transfers := [(objKey 0x1103 0, ⟨host, [(0, b0)], none, 0, false⟩)] } }
   let b : Bytes := List.replicate 32 1
   let q := frameOf host (head 4 2 4096 32) 4 0x1103 0 b
   accepts s q && after (.qpTable host (head 4 2 4096 32) b) s (fun t => decide (lookupKey (objKey 0x1103 0) t.blobs = some (b0 ++ b))) &&
   after (.qpTable host (head 4 0 4096 4096) b0) s (fun t =>
     decide (lookupKey (objKey 0x1103 0) t.mgmt.transfers = some ⟨host, [(0, b0), (4096, b0)], none, 0, false⟩)) &&
   accepts served (frameOf host (head 4 2 0 64) 4 0x5000 0 (List.replicate 64 1)) &&
   after (.planStage host (head 4 2 0 64) (List.replicate 64 1)) served (fun t => decide (t.obj 0x5001 0 = 3) && decide (t.obj 0x5001 1 = 1)
     && has t 0x4101 && decide (t.plan = none)) &&
   accepts served (frameOf host (head 4 2 0 64) 4 0x5100 2 (List.replicate 64 1)) &&
   after (.updateStage host (head 4 2 0 64) 1 (List.replicate 64 1)) served (fun t => decide (t.obj 0x5101 2 = 3) && decide (t.obj 0x5102 2 = 1)
     && has t 0x7201 && decide (t.nv.a.programs[(1 : Kind)].staged = none))) = true := by decide +kernel

/-- A peer that writes what must be signed is answered `SIGNATURE` (R464, R491). -/
theorem test_peer_unsigned :
  (let req : Bytes := [1, 2] ++ [0, 0] ++ toLe 4 7 ++ toLe 2 0x6001 ++ [0, 0] ++ List.replicate 8 0 ++ toLe 2 1 ++ [0, 0] ++ [1]
   let w : State := served
   let f : Flit := { flit req with src := 2, dst := 1 }
   let q := peerRequest 2 req
   let v := (w.delivered 0 f).touch q.src
   v.mustSign q.idx q.sub && !q.reads && decide ((v.checks q).take 4 = [(true, .badFrame), (true, .noObject), (true, .noSubindex), (true, .access)]) &&
   after (.mgmt 0 f) w (fun t => has t 0x7101 && !has t 0x7103 && decide ((t.keptResponse q).map (fun r => r.istatus) = some Status.signature.code))) = true := by decide +kernel

/-- A malformed map entry ends a combine before anything is written (R226). -/
theorem test_combine_bad :
  (let ds := [tensor 0x1000 .fp32 [1, 1, 2], tensor 0x2000 .bf16 [2, 1], tensor 0x3000 .fp32 [1, 2], tensor 0x4000 .int32s [16, 2]]
   let m := bytesAt 0x4000 (words ([0, 1] ++ List.replicate 6 0xFFFFFFFF ++ [0, 1] ++ List.replicate 6 0xFFFFFFFF ++ [7, 9]))
   let r : Rec := { rec0 2 0x21 with desc0 := some 0, desc1 := some 1, desc2 := some 2, desc4 := some 3, param0 := 0x22, param1 := 0x20001, param2 := 0xFFFFFFFF }
   after (.expertCombine 0 0) (runs r ds m) (fun t => decide (t.step.causes = [0x4406]) && decide (t.mem = m) &&
     t.log.recs.any (fun e => decide (e.code = 0x4406) && decide (e.detail = [0, 0, 0, 0, 7, 0, 0, 0])))) = true := by decide +kernel

/-- Results of a reduce-write that meet in one place merge (R127), a shard passed on is the one written (R404), and a shard goes to the buddy as well (R504). -/
theorem test_collectives_more :
  (let out : Desc := { tensor 0x2000 .fp32 [2, 2] with acc := 2, strides := [0] }
   let ds := [tensor 0x1000 .fp32 [2, 2], out]
   let m := bytesAt 0x1000 (words [0x3F800000, 0x40000000, 0x3F800000, 0x40000000])
   let r (f : BitVec 12) : Rec := { rec0 7 f with desc0 := some 0, desc2 := some 1 }
   let part : PartIn := ⟨0, (List.replicate 4 (some 0)), [], []⟩
   after (.reduceScatter 0 0 [part]) (runs (r 1) ds m) (fun t => decide (t.bytes 0x2000 8 = words [0x40000000, 0x40800000])) &&
   (let dg := [tensor 0x1000 .fp32 [1, 1], tensor 0x2000 .fp32 [1, 3]]
    let g : Rec := { rec0 7 2 with desc0 := some 0, desc2 := some 1, param0 := 0x10000 }
    let q : QRec := { started with stage := 2, nodes := [⟨0, 0, ⟨0, [], [], []⟩, words [5]⟩] }
    let s : State := running { planOf g dg with groups := [⟨[2, 3, 1], some 2⟩] } [q] m
    (passesOn 3 2 0 || decide (shardBits [] q.nodes 3 2 0 (words [6]) = words [6])) && passesOn 4 2 0 &&
      decide (shardBits [] q.nodes 4 2 0 (words [6]) = words [5]) &&
    after (.allGather 0 0 [words [6], words [7], words [8]]) s (fun t => decide (t.bytes 0x2004 8 = words [7, 0x3F800000]))) &&
   (let ck : CkptTable := ⟨2, 2, 1, 0x100000, 0x200000, 0x300000, 4096⟩
    let s : State := runs { rec0 8 1 with desc0 := some 0 } [tensor 0x1000 .int8u [64, 1]] (bytesAt 0x1000 [7])
    let s : State := { s with plan := s.plan.map (fun p => { p with ckpt := some ck, routes := [⟨2, 0, 0, 0⟩] }) }
    after (.shardStream 0 0) s (fun t => t.out.any (fun o => match o with
      | .flit q k f => decide (q = 0) && decide (k = 2) && decide (f.payload.take 2 = [7, 0])
      | _ => false) && decide (t.outbound.length = 1)))) = true := by decide +kernel


end Sys2Proof.Tests
end

section
/-! SUPPORT. Every command keeps the invariant (O3): a command answers a next state that keeps what the state before
had, one lemma for each meaning that is more than a shared frame, then all commands together. -/

namespace Sys2Proof.Machine

/-- A meaning answers a next state that keeps what the state before had. -/
abbrev Keeps (s : State) (r : Result) : Prop := ∃ t, r = .next t ∧ Kept false s t

variable {s t : State} {r r' : Result}

theorem Keeps.next (h : Kept false s t) : Keeps s (.next t) := ⟨t, rfl, h⟩

theorem Keeps.same : Keeps s (.next s) := .next (Kept.refl s)

theorem Keeps.ite {c : Prop} [Decidable c] (h : Keeps s r) (g : Keeps s r') : Keeps s (if c then r else r') := by
  split
  · exact h
  · exact g

/-! ### Power, reset and bring-up -/

theorem Keeps.pwrEnAssert {b : Bool} : Keeps s (execPwrEnAssert b s) :=
  have k : Kept false s { s with pins := { s.pins with pwrEn := true } } := .ofParts (Kept.refl s)
  .ite .same (.ite (.next k) (.ite (.next (.ofParts k)) (.next (Kept.railsUp k))))

theorem Keeps.pwrEnDeassert : Keeps s (execPwrEnDeassert s) :=
  .ite .same (.next (Kept.powerOff (.ofParts (Kept.ite (Kept.gasp (Kept.refl s)) (Kept.refl s)))))

theorem Keeps.resetNAssert : Keeps s (execResetNAssert s) := by
  have k : Kept false s { s with pins := { s.pins with resetN := false } } := .ofParts (Kept.refl s)
  unfold execResetNAssert
  dsimp only []
  split
  · exact .next k
  · exact .next k
  · exact .next (Kept.heldInReset (Kept.gasp k))
  · exact .next (Kept.heldInReset (Kept.gasp k))

theorem Keeps.resetNRelease {b : BootChecks} : Keeps s (execResetNRelease b s) :=
  have k : Kept false s { s with pins := { s.pins with resetN := true } } := .ofParts (Kept.refl s)
  .ite (.next k) (.next (Kept.boot (Kept.countSpareRows (Kept.setObj (Kept.restarted k)))))

/-- Hardening repairs changes neither fuses nor anything else of the invariant. -/
theorem Kept.hardenRepairs {s₀ : State} {bad : List Stack} (h : Kept false s₀ s) :
    Kept false s₀ (s.hardenRepairs bad) := .ofParts h

theorem Keeps.bringupComplete {b : BringupResult} : Keeps s (execBringupComplete b s) := by
  have k : Kept false s ((s.hardenRepairs b.unrepairable).keepScan (indices 8) b.scans) :=
    Kept.keepScan (Kept.hardenRepairs (Kept.refl s))
  have clear (u : State) (h : Kept false s u) : Kept false s { u with mem := [], poison := [] } :=
    .ofParts { h with memory := fun _ => rfl }
  unfold execBringupComplete
  refine .ite .same ?_
  dsimp only []
  split
  · exact .next (Kept.bringupFails (Kept.foldl k (fun _ _ => Kept.event) _))
  · split
    · exact .next (Kept.bringupFails (Kept.mgmtEvent (clear _ k)))
    · exact .next (Kept.ite (Kept.getReady (Kept.coreTests (clear _ k))) (Kept.bringupFails (Kept.coreTests (clear _ k))))

theorem Keeps.bringupTimeout : Keeps s (execBringupTimeout s) := .ite (.next (Kept.bringupFails (Kept.refl s))) .same

theorem Keeps.undervoltageStop : Keeps s (execUndervoltageStop s) := by
  unfold execUndervoltageStop
  split
  · exact .next (.ofParts (Kept.powerOff (Kept.noteStop (Kept.ite (Kept.gasp (Kept.refl s)) (Kept.refl s)))))
  · exact .next (.ofParts (Kept.refl s))
  · exact .next (.ofParts (Kept.refl s))
  · exact .same

theorem Keeps.overvoltageLockout : Keeps s (execOvervoltageLockout s) := by
  unfold execOvervoltageLockout
  split
  · exact .next (.ofParts (Kept.powerOff (Kept.refl s)))
  · exact .next (.ofParts (Kept.refl s))
  · exact .next (.ofParts (Kept.refl s))
  · exact .same

theorem Keeps.overCurrentTrip : Keeps s (execOverCurrentTrip s) :=
  .ite .same (.next (.ofParts (Kept.powerOff (Kept.noteStop (Kept.refl s)))))

theorem Keeps.undervoltageLockoutExit : Keeps s (execUndervoltageLockoutExit s) := by
  unfold execUndervoltageLockoutExit
  split
  · exact .next (Kept.restartStage (Kept.refl s))
  · exact .next (.ofParts (Kept.refl s))
  · exact .same

theorem Keeps.overvoltageLockoutExit : Keeps s (execOvervoltageLockoutExit s) := by
  unfold execOvervoltageLockoutExit
  split
  · exact .next (Kept.restartStage (Kept.refl s))
  · exact .next (.ofParts (Kept.refl s))
  · exact .same

/-! ### Readings and trips -/

theorem Keeps.inputVoltageOutOfRange : Keeps s (execInputVoltageOutOfRange s) :=
  .ite (.next (Kept.eventLimited (Kept.refl s))) .same

theorem Keeps.inputPowerHigh : Keeps s (execInputPowerHigh s) := .ite (.next (Kept.eventLimited (Kept.refl s))) .same

theorem Keeps.coolantInletHigh : Keeps s (execCoolantInletHigh s) := .ite (.next (Kept.mgmtEvent (Kept.refl s))) .same

theorem Keeps.dieTempWarning {d : Die} : Keeps s (execDieTempWarning d s) :=
  .ite (.next (Kept.eventLimited (Kept.refl s))) .same

theorem Keeps.dieTrip (d : Die) : Keeps s (execDieTrip d s) :=
  .ite .same (.next (Kept.powerOff (Kept.latch (Kept.ite (Kept.gasp (Kept.refl s)) (Kept.refl s)))))

theorem Keeps.stackTrip {h : Stack} : Keeps s (execStackTrip h s) :=
  have k : Kept false s { s with thermal := s.thermal.set h .trip } := .ofParts (Kept.refl s)
  have g := Kept.latch (cause := 2) (Kept.setIsland (i := 0x40 + h.val) (st := .fenced) k)
  .ite .same (.ite (.next (Kept.latch k)) (.ite (.next (Kept.driveFault (.ofParts (Kept.ite (Kept.gasp g) g))))
    (.next (Kept.moduleFails (Kept.event g)))))

theorem Keeps.hbmTempReading {h : Stack} {t : F32} : Keeps s (execHbmTempReading h t s) :=
  have k : Kept false s { s with temps := s.temps.set h t } := .ofParts (Kept.refl s)
  .ite .same (.ite (.next k) (.next (Kept.coolStep (Kept.hotStep (Kept.warmStep k)))))

theorem Keeps.telemetryRefresh {t : Telemetry} : Keeps s (execTelemetryRefresh t s) :=
  .ite .same (.next (.ofParts (Kept.refl s)))

/-! ### Freezes and the test access port -/

theorem Keeps.freezeNAssert : Keeps s (execFreezeNAssert s) :=
  have k : Kept false s { s with pins := { s.pins with freezeN := false } } := .ofParts (Kept.refl s)
  .ite (.next k) (.next (Kept.freezeAt k))

theorem Keeps.freezeNDeassert : Keeps s (execFreezeNDeassert s) :=
  have k : Kept false s { s with pins := { s.pins with freezeN := true } } := .ofParts (Kept.refl s)
  .ite (.next (Kept.releaseFreeze k)) (.next k)

theorem Keeps.freezeCountReached : Keeps s (execFreezeCountReached s) := by
  have k (b : Bytes) (n : Nat) : Kept false s ((s.sendFrozen.setObj 0x3F00 5 n).mgmtEvent 0x6501 b) :=
    Kept.mgmtEvent (Kept.setObj (Kept.sendFrozen (Kept.refl s)))
  unfold execFreezeCountReached
  refine .ite .same ?_
  split
  · exact .ite (.next (Kept.enterFull (k _ _))) (.next (.ofParts (Kept.stopIslands (k _ _))))
  · exact .ite (.next (Kept.enterFull (Kept.refl s))) .same
  · exact .same

theorem Keeps.captureTimeout : Keeps s (execCaptureTimeout s) := .ite (.next (Kept.enterFull (Kept.refl s))) .same

theorem Keeps.tapReset : Keeps s (execTapReset s) := .ite .same (.next (.ofParts (Kept.refl s)))

theorem Keeps.tapBypass {ir : BitVec 8} : Keeps s (execTapBypass ir s) := .ite .same (.next (Kept.shift (Kept.refl s)))

theorem Keeps.tapIdcode : Keeps s (execTapIdcode s) := .ite .same (.next (Kept.shift (Kept.refl s)))

theorem Keeps.tapIjtag {x : IjtagAccess} : Keeps s (execTapIjtag x s) :=
  .ite .same (.ite (.next (Kept.shift (Kept.refl s))) (.next (Kept.shift (Kept.refl s))))

/-! ### Islands, memory and margins -/

theorem Keeps.pllLockLost {i : Island} : Keeps s (execPllLockLost i s) := by
  have k : Kept false s (s.event 0x2101 i.toNat [BitVec.ofNat 8 i.toNat]) := Kept.event (Kept.refl s)
  have g := Kept.setIsland (i := i.toNat) (st := .failed) k
  unfold execPllLockLost
  refine .ite .same (.ite (.next (Kept.coreStopped k)) ?_)
  split
  · exact .next (Kept.portLost g)
  · exact .ite (.next (Kept.driveFault (.ofParts (Kept.hostLinkLost g))))
      (.ite (.next (Kept.ite (Kept.takeover k) (Kept.ite (Kept.noStandby g) g)))
        (.ite (.next (.ofParts (Kept.noStandby g))) (.next (Kept.moduleFails g))))

theorem Keeps.spareSelfTest {d : CDie} {pass : Bool} : Keeps s (execSpareSelfTest d pass s) := by
  have k : Kept false s { s with sparesFailed := addNew s.sparesFailed [d] } := .ofParts (Kept.refl s)
  unfold execSpareSelfTest
  split
  · exact .same
  · exact .ite .same (.next (Kept.event (Kept.spareLost k)))

theorem Keeps.mgmtTakeover : Keeps s (execMgmtTakeover s) := .ite (.next (Kept.takeover (Kept.refl s))) .same

theorem Keeps.mgmtBothSilent : Keeps s (execMgmtBothSilent s) :=
  .ite .same (.next (Kept.declareLost (.ofParts (Kept.refl s))))

theorem Keeps.standbyReady : Keeps s (execStandbyReady s) := .ite (.next (Kept.setObj (Kept.refl s))) .same

theorem Keeps.hbmScrub {a : Nat} {w : WordCheck} : Keeps s (execHbmScrub a w s) := by
  unfold execHbmScrub
  refine .ite .same ?_
  cases w
  · exact .same
  · exact .next (Kept.noteCorrected (Kept.refl s))
  · exact .next (Kept.poisonWord (Kept.refl s))

theorem Keeps.sramScrub {a : Nat} {w : WordCheck} : Keeps s (execSramScrub a w s) := by
  unfold execSramScrub
  refine .ite .same ?_
  cases w
  · exact .same
  · exact .next (Kept.noteCorrected (Kept.refl s))
  · exact .ite (.next (Kept.refetchLine (Kept.refl s))) (.next (Kept.poisonWord (Kept.refl s)))

theorem Keeps.marginDriftProbe {h : Stack} {pc : Fin 64} {lo hi : Bool} : Keeps s (execMarginDriftProbe h pc lo hi s) :=
  .ite .same (.next (Kept.addObj (.ofParts (Kept.refl s))))

theorem Keeps.marginScanDone {v : Vector StackScan 8} : Keeps s (execMarginScanDone v s) :=
  .ite .same (.next (Kept.setObj (.ofParts (Kept.keepScan (Kept.refl s)))))

theorem Keeps.sheafFetch {e : Fin 8} {j : Nat} {w : WordCheck} : Keeps s (execSheafFetch e j w s) :=
  .ite .same (.next (.ofParts (Kept.ite (Kept.event (Kept.addObj (Kept.refl s))) (Kept.refl s))))

theorem Keeps.transientBinRoll : Keeps s (execTransientBinRoll s) :=
  .ite .same (.next (Kept.foldl (.ofParts (Kept.refl s)) (fun _ _ => Kept.checkTransients) _))

theorem Keeps.holdSend : Keeps s (execHoldSend s) := by
  unfold execHoldSend
  split
  · exact .same
  · exact .ite .same (.next (Kept.flood (Kept.addObj (Kept.event (Kept.noteHold (.ofParts (Kept.refl s)))))))

/-! ### Links -/

theorem Keeps.laserInputMeasure {i : Fin 8} {dbm : F32} : Keeps s (execLaserInputMeasure i dbm s) :=
  have k (l : Vector Laser 8) : Kept false s { s with lasers := l } := .ofParts (Kept.refl s)
  have g (c : Prop) [Decidable c] (u : State) (h : Kept false s u) (e : BitVec 16) (d : Bytes) :
      Kept false s (if c then u.mgmtEvent e d else u) := Kept.ite (Kept.mgmtEvent h) h
  have j := g _ _ (g _ _ (g _ _ (Kept.ite (Kept.hostLinkLost (k _)) (k _)) _ _) _ _) _ _
  .ite .same (.ite (.next (k _)) (.next (Kept.ite (Kept.groupDown j) j)))

theorem Keeps.keepaliveSend {p : Port} : Keeps s (execKeepaliveSend p s) := .ite (.next (Kept.sendLink (Kept.refl s))) .same

theorem Keeps.portSilence {p : Port} : Keeps s (execPortSilence p s) :=
  .ite (.next (Kept.portLost (Kept.event (Kept.refl s)))) .same

theorem Keeps.portUp {p : Port} {n : BitVec 16} {q : Port} : Keeps s (execPortUp p n q s) :=
  .ite .same (.next (Kept.event (Kept.setObj (Kept.modPort (.ofParts (Kept.refl s))))))

theorem Keeps.laneLockLost {p : Port} {l : Fin 8} : Keeps s (execLaneLockLost p l s) :=
  .ite (.next (Kept.laneFails (Kept.refl s))) .same

theorem Keeps.laneSwapAtBlock {p : Port} {d : Dir} : Keeps s (execLaneSwapAtBlock p d s) := by
  unfold execLaneSwapAtBlock
  dsimp only []
  split
  · exact .same
  · exact .ite .same (.ite (.next (Kept.modPort (Kept.refl s))) (.next (Kept.event (Kept.addObj (Kept.modPort (Kept.refl s))))))

theorem Keeps.laneRetestDone {p : Port} {d : Dir} {l : Fin 9} {b : Bool} : Keeps s (execLaneRetestDone p d l b s) :=
  .ite .same (.next (Kept.event (Kept.modPort (Kept.refl s))))

theorem Keeps.flitCrcFail {p : Port} {b : BadFlit} : Keeps s (execFlitCrcFail p b s) := by
  unfold execFlitCrcFail
  refine .ite .same ?_
  cases b
  · exact .ite .same (.next (Kept.nakOnce (Kept.refl s)))
  · exact .next (Kept.blockErrors (Kept.refl s))

theorem Keeps.timeFlitSend {p : Port} : Keeps s (execTimeFlitSend p s) := .ite .same (.next (Kept.sendLink (Kept.refl s)))

/-! ### Flits that act on their port -/

theorem Keeps.nak {p : Port} {f : Flit} : Keeps s (execNak p f s) :=
  Kept.linkFlit (Kept.refl s) (fun _ h => Kept.ite h
    (Kept.eventLimited (Kept.addObj (Kept.foldl h (fun _ _ => Kept.resend) _))))

theorem Keeps.lanectl {p : Port} {f : Flit} : Keeps s (execLanectl p f s) :=
  Kept.linkFlit (Kept.refl s) (fun _ h => Kept.ite h (Kept.modPort h))

theorem Keeps.time {p : Port} {f : Flit} : Keeps s (execTime p f s) :=
  Kept.linkFlit (Kept.refl s) (fun _ h =>
    have k := Kept.chooseRoot (Kept.modPort h)
    have g := Kept.setObj (Kept.modPort k)
    Kept.ite k (Kept.ite (Kept.takeSample g) g))

/-! ### Floods and routed flits -/

theorem Keeps.hold {p : Port} {f : Flit} : Keeps s (execHold p f s) :=
  Kept.seqFlit (Kept.refl s) (fun _ h => Kept.flooded h (fun _ g =>
    Kept.ite (Kept.noteHold g) (Kept.mgmtEvent (.ofParts (Kept.noteHold g)))))

theorem Keeps.abort {p : Port} {f : Flit} : Keeps s (execAbort p f s) :=
  Kept.seqFlit (Kept.refl s) (fun _ h => Kept.flooded h (fun _ g => Kept.ite (Kept.abortWith g) g))

theorem Keeps.writeHead {p : Port} {f : Flit} : Keeps s (execWriteHead p f s) :=
  Kept.seqFlit (Kept.refl s) (fun _ h => Kept.routed h (fun _ g =>
    Kept.ite (.ofParts (Kept.dropTransfer g)) (Kept.abortWith (.ofParts (Kept.dropTransfer g)))))

theorem Keeps.data {p : Port} {f : Flit} : Keeps s (execData p f s) := by
  refine Kept.seqFlit (Kept.refl s) (fun _ h => Kept.routed h (fun a g => ?_))
  have k (l : List Inbound) : Kept false s { a with inbound := l } := .ofParts g
  dsimp only []
  split
  · exact g
  · refine Kept.ite g (Kept.ite (Kept.endTransfer (k _)) ?_)
    split
    · exact Kept.dropTransfer (Kept.fenceHit (k _))
    · exact Kept.endTransfer (Kept.land (k _))

theorem Keeps.writeAck {p : Port} {f : Flit} : Keeps s (execWriteAck p f s) :=
  Kept.seqFlit (Kept.refl s) (fun _ h => Kept.routed h (fun _ g => .ofParts g))

theorem Keeps.tally {p : Port} {f : Flit} : Keeps s (execTally p f s) :=
  Kept.seqFlit (Kept.refl s) (fun _ h => Kept.routed h (fun _ g => Kept.dite (fun _ => Kept.applySignal g) (fun _ => g)))

theorem Keeps.agree {p : Port} {f : Flit} : Keeps s (execAgree p f s) := by
  refine Kept.seqFlit (Kept.refl s) (fun _ h => Kept.routed h (fun a g => ?_))
  split
  · exact Kept.roundDone (Kept.takeAgree_eq g (by assumption))
  · exact Kept.takeAgree_eq g (by assumption)

theorem Keeps.mgmt {p : Port} {f : Flit} : Keeps s (execMgmt p f s) := by
  refine Kept.seqFlit (Kept.refl s) (fun _ h => Kept.routed h (fun a g => Kept.ite g ?_))
  obtain ⟨t, e, k⟩ := Kept.serve (q := peerRequest f.src f.payload) g
  rw [e]
  exact k

theorem Keeps.lossWindowExpiry {n : BitVec 16} : Keeps s (execLossWindowExpiry n s) := by
  unfold execLossWindowExpiry
  split
  · exact .same
  · exact .ite .same (.next (Kept.loseNode (Kept.refl s)))

/-! ### Time -/

theorem Keeps.gcHoldover : Keeps s (execGcHoldover s) := .ite (.next (Kept.mgmtEvent (.ofParts (Kept.refl s)))) .same

theorem Keeps.gcUnlocked : Keeps s (execGcUnlocked s) := .ite (.next (Kept.mgmtEvent (.ofParts (Kept.refl s)))) .same

theorem Keeps.gcDomainAlign {p : Port} : Keeps s (execGcDomainAlign p s) := by
  unfold execGcDomainAlign
  split
  · exact .same
  · exact .ite .same (.next (.ofParts { Kept.refl s with counter := fun _ => GcState.jump_range _ _ }))

theorem Keeps.discreteInputIgnored {i : Fin 3} : Keeps s (execDiscreteInputIgnored i s) :=
  .ite (.next (Kept.addObj (Kept.refl s))) (.ite .same (.next (Kept.ignoredPulse (Kept.refl s))))

theorem Keeps.syncInPulse : Keeps s (execSyncInPulse s) := by
  have k : Kept false s (({ s with syncSeenAt := some s.uptime }).setObj 0x2A03 2 s.gc.value) :=
    Kept.setObj (.ofParts (Kept.refl s))
  unfold execSyncInPulse
  exact .ite .same (.ite (.next (Kept.ignoredPulse (Kept.refl s))) (.ite (.next (.ofParts k)) (.next k)))

/-! ### The agreement and the launch -/

theorem Keeps.agreeContribute : Keeps s (execAgreeContribute s) := by
  unfold execAgreeContribute
  refine .ite .same ?_
  have k (c : Bool) : Kept false s (if c then s.startScheduled.newAttempt none else s.startScheduled) :=
    Kept.ite (Kept.newAttempt (Kept.startScheduled (Kept.refl s))) (Kept.startScheduled (Kept.refl s))
  dsimp only []
  split
  · exact .next (k _)
  · exact .ite (.next (Kept.joinAttempt (k _))) (.next (k _))

theorem Keeps.agreeAttemptEnd : Keeps s (execAgreeAttemptEnd s) := by
  unfold execAgreeAttemptEnd
  split
  · exact .ite .same (.next (Kept.outcome (.ofParts (Kept.refl s))))
  · exact .same

theorem Keeps.agreeRetryTimer : Keeps s (execAgreeRetryTimer s) := by
  unfold execAgreeRetryTimer
  split
  · exact .same
  · exact .ite .same (.next (.ofParts (Kept.refl s)))

theorem Keeps.stepLaunch : Keeps s (execStepLaunch s) := by
  unfold execStepLaunch
  split
  · exact .same
  · exact .ite .same (.ite (.next (Kept.newAttempt (Kept.refl s))) (.next (Kept.launch (Kept.refl s))))

/-- A step that ends runs no more, so its image need not stay for it. -/
theorem Kept.ended {s₀ : State} {n m : Nat} (h : Kept false s₀ s) (l : s.step.status = .running) :
    Kept false s₀ { s with step := { s.step with status := .ended, endGc := n, stoppedGc := m } } :=
  .ofParts { h with image := fun i _ => h.image i (.inl l) }

theorem Keeps.stepComplete : Keeps s (execStepComplete s) := by
  unfold execStepComplete
  split
  · exact .same
  · rename_i c
    have l : s.step.status = .running := by
      by_contra n
      simp [n] at c
    have k := Kept.ended (n := s.gc.value) (m := s.gc.value) (Kept.refl s) l
    refine .next (Kept.startScheduled ?_)
    dsimp only []
    split <;> split
    · exact Kept.abortStep (Kept.ite (Kept.abortWith k) k)
    · exact Kept.abortStep k
    · exact Kept.ite (Kept.abortWith k) k
    · exact k

/-! ### Records in flight -/

theorem Keeps.recordIssue {c : Core} : Keeps s (execRecordIssue c s) := by
  unfold execRecordIssue
  split
  · exact .same
  · dsimp only []
    split
    · exact .same
    · exact .ite .same (.ite (.next (Kept.checkDone (Kept.modCore (Kept.freeChain (Kept.sendSignals (Kept.refl s))))))
        (.ite .same (.next (Kept.issue (Kept.refl s)))))

theorem Keeps.creditGrant {c : Core} {n : Nat} : Keeps s (execCreditGrant c n s) := by
  unfold execCreditGrant
  split
  · split
    · exact .same
    · exact .ite .same (.next (Kept.settle (Kept.foldl (Kept.addObj (Kept.openFeed (Kept.refl s))) (fun _ _ => Kept.notePool) _)))
  · exact .same

theorem Keeps.dataArrival {c : Core} {n : Nat} {d : DataTags} : Keeps s (execDataArrival c n d s) := by
  unfold execDataArrival
  split
  · dsimp only []
    split
    · exact .same
    · exact .ite .same (.ite (.next (Kept.addObj (Kept.refl s))) (.ite (.next (Kept.abortWith (Kept.refl s)))
        (.ite .same (.next (Kept.settle (Kept.modQRec (Kept.refl s)))))))
  · exact .same

theorem Keeps.feedReadLanded {c : Core} {n a : Nat} {h : Hint} : Keeps s (execFeedReadLanded c n a h s) := by
  unfold execFeedReadLanded
  split
  · exact .ite (.next (Kept.settle (Kept.landAborted (Kept.refl s)))) .same
  · exact .same
  · split
    · exact .same
    · exact .ite .same (.ite (.next (Kept.settle (Kept.discardRead (Kept.refl s))))
        (.next (Kept.settle (Kept.landRead (Kept.modQRec (Kept.refl s))))))

theorem Keeps.prefetch {c : Core} {n : Nat} : Keeps s (execPrefetch c n s) := by
  unfold execPrefetch
  split
  · split
    · exact .ite (Kept.runRecord (Kept.landAll (Kept.refl s)) (fun _ _ _ => Kept.prefetchEffect)) .same
    · exact .same
  · exact .same

theorem Keeps.cancel {c : Core} {n : Nat} : Keeps s (execCancel c n s) := by
  unfold execCancel
  split
  · split
    · exact .same
    · exact .ite .same (.next (Kept.settle (Kept.finish (Kept.ite (Kept.refl s) (Kept.modCore (Kept.refl s))))))
  · exact .same

theorem Keeps.chainTileForward {c : Core} {n : Nat} : Keeps s (execChainTileForward c n s) := by
  unfold execChainTileForward
  split
  · split
    · refine .ite .same ?_
      have k (d : Prop) [Decidable d] (u v : State) (f : QRec → QRec) (h : Kept false s u) (g : Kept false s v) :
          Kept false s ((if d then u else v).modQRec c n f) := Kept.modQRec (Kept.ite h g)
      dsimp only []
      split
      · exact .next (k _ _ _ _ (Kept.refl s) (Kept.takeTile (Kept.refl s)))
      · exact .next (Kept.addObj (Kept.modQRec (k _ _ _ _ (Kept.refl s) (Kept.takeTile (Kept.refl s)))))
    · exact .same
  · exact .same

theorem Keeps.loadInterlockRelease {c : Core} {n m : Nat} : Keeps s (execLoadInterlockRelease c n m s) := by
  unfold execLoadInterlockRelease
  split
  · exact .ite (.next (Kept.addObj (Kept.refl s))) .same
  · exact .same

theorem Keeps.recordComplete {c : Core} {n : Nat} : Keeps s (execRecordComplete c n s) := by
  unfold execRecordComplete
  split
  · split
    · exact .same
    · exact .ite .same (.next (Kept.complete (Kept.refl s)))
  · exact .same

theorem Keeps.signalArrival {n : Nat} : Keeps s (execSignalArrival n s) := by
  unfold execSignalArrival
  split
  · exact .next (Kept.applySignal (.ofParts (Kept.refl s)))
  · exact .same

theorem Keeps.collectiveStageEnd {c : Core} {n : Nat} : Keeps s (execCollectiveStageEnd c n s) := by
  unfold execCollectiveStageEnd
  split
  · split
    · exact .same
    · split
      · exact .same
      · exact .ite (.next (Kept.sendStage (Kept.modQRec (Kept.refl s)))) .same
  · exact .same

theorem Keeps.recordFault {c : Core} {n : Nat} {k : FaultKind} : Keeps s (execRecordFault c n k s) := by
  unfold execRecordFault
  split
  · split
    · exact .same
    · refine .ite .same ?_
      split
      · exact .ite (.next (Kept.refetchLine (Kept.refl s))) .same
      · split
        · exact .same
        · exact .next (Kept.noteCorrected (Kept.refl s))
      · split
        · exact .same
        · exact .next (Kept.operandFault (Kept.refl s))
      · exact .next (Kept.attemptFault (Kept.refl s))
  · exact .same

theorem Keeps.watchdogExpiry {w : WatchCondition} : Keeps s (execWatchdogExpiry w s) := by
  unfold execWatchdogExpiry
  split
  · exact .same
  · exact .ite .same (.next (Kept.event (Kept.addObj (.ofParts (Kept.refl s)))))

theorem Keeps.stepOvertime : Keeps s (execStepOvertime s) := .ite (.next (Kept.abortWith (Kept.refl s))) .same

/-! ### Sparing and restore -/

/-- The copy of a store keeps memory canonical, and the core map sound: no sparing's core changes. -/
theorem Kept.copied {s₀ : State} {a b n : Nat} {po : List Nat} {l : Core} (h : Kept false s₀ s) :
    Kept false s₀ { s with
      mem := copyCells a b n s.mem, poison := po
      sparing := s.sparing.map (fun y => if y.logical = l then { y with copied := true } else y) } :=
  .ofParts { h with
    memory := fun w => copyCells_mem_wf _ _ _ (h.memory w)
    cores := fun w => CoresOk.mapCopies (h.cores w) _ (fun _ => by split <;> rfl) (fun _ => by split <;> rfl) }

theorem Keeps.spareCopyDone {l : Core} : Keeps s (execSpareCopyDone l s) := by
  unfold execSpareCopyDone
  split
  · exact .same
  · split
    · exact .same
    · exact .ite .same (.next (Kept.copied (Kept.foldl (Kept.refl s) (fun _ _ => Kept.lostData) _)))

theorem Keeps.ckptRestoreDone {b : Option Bytes} : Keeps s (execCkptRestoreDone b s) := by
  unfold execCkptRestoreDone
  split
  · exact .same
  · exact .ite (.next (Kept.runRestore (Kept.refl s))) .same

/-! ### The host port and the dictionary's timers -/

theorem Keeps.hostLinkDown : Keeps s (execHostLinkDown s) := .ite (.next (Kept.hostLinkLost (Kept.refl s))) .same

theorem Keeps.hostLinkUp : Keeps s (execHostLinkUp s) := .ite .same (.next (Kept.event (Kept.setObj (Kept.refl s))))

theorem Keeps.hostFrameDiscard : Keeps s (execHostFrameDiscard s) := .ite (.next (Kept.addObj (Kept.refl s))) .same

theorem Keeps.neighbourReply {n : Neighbour} : Keeps s (execNeighbourReply n s) :=
  .ite .same (.ite (.next (.ofParts (Kept.refl s))) (.next (Kept.addObj (Kept.refl s))))

/-- What the fence of a stack answers in place of an operation keeps what the operation keeps. -/
theorem Kept.rdmaFenced {s₀ u : State} {q a n : Nat} (h : Kept false s₀ s) (g : Kept false s₀ u) :
    Kept false s₀ (s.rdmaFenced q a n u) := by
  unfold State.rdmaFenced
  split
  · exact Kept.rdmaRefuse (Kept.fenceHit h)
  · exact g

theorem Keeps.rdmaRead {q : Packet} {k : BitVec 32} {va n : Nat} : Keeps s (execRdmaRead q k va n s) := by
  have m : Kept false s (s.noteMark q) := Kept.noteMark (Kept.refl s)
  unfold execRdmaRead
  refine .ite .same ?_
  dsimp only []
  split
  · exact .next (Kept.rdmaRefuse m)
  · exact .ite (.next (Kept.rdmaFenced m (Kept.rdmaReply (.ofParts (Kept.notePoisonRead m))))) (.next (Kept.rdmaRefuse m))

theorem Keeps.rdmaWrite {q : Packet} {k : BitVec 32} {va : Nat} {b : Bytes} : Keeps s (execRdmaWrite q k va b s) := by
  have m : Kept false s (s.noteMark q) := Kept.noteMark (Kept.refl s)
  unfold execRdmaWrite
  refine .ite .same ?_
  dsimp only []
  split
  · exact .next (Kept.rdmaRefuse m)
  · exact .ite (.next (Kept.rdmaFenced m (Kept.rdmaReply (Kept.writeRun m)))) (.next (Kept.rdmaRefuse m))

theorem Keeps.rdmaCompareSwap {q : Packet} {k : BitVec 32} {va : Nat} {a b : BitVec 64} :
    Keeps s (execRdmaCompareSwap q k va a b s) := by
  have m : Kept false s (s.noteMark q) := Kept.noteMark (Kept.refl s)
  unfold execRdmaCompareSwap
  refine .ite .same ?_
  dsimp only []
  split
  · exact .next (Kept.rdmaRefuse m)
  · split
    · exact .next (Kept.rdmaRefuse m)
    · exact .ite (.next (Kept.rdmaFenced m m)) (.ite (.next (Kept.rdmaReply m))
        (.ite (.next (Kept.startAll (Kept.rdmaReply (Kept.writeRun m)))) (.next (Kept.rdmaRefuse m))))

theorem Keeps.rdmaUnsupported (q : Packet) (o : BitVec 8) : Keeps s (execRdmaUnsupported q o s) :=
  .ite (.next (Kept.rdmaReply (Kept.noteMark (Kept.refl s)))) .same

theorem Keeps.segTransferTimeout {i : BitVec 16} {j : BitVec 8} : Keeps s (execSegTransferTimeout i j s) := by
  unfold execSegTransferTimeout
  dsimp only []
  split
  · exact .same
  · exact .ite (.next (Kept.dropStaged (.ofParts (Kept.refl s)))) .same

theorem Keeps.snapshotExpiry {src : Source} {i : BitVec 16} {j : BitVec 8} : Keeps s (execSnapshotExpiry src i j s) :=
  .ite .same (.next (.ofParts (Kept.refl s)))

/-! ### All commands -/

/-- Every command answers a next state that keeps what the state before had. -/
theorem exec_keeps (c : Instr) (s : State) : Keeps s (exec c s) :=
  have h := Kept.refl s
  match c with
  | .pwrEnAssert _ => Keeps.pwrEnAssert
  | .pwrEnDeassert => Keeps.pwrEnDeassert
  | .resetNAssert => Keeps.resetNAssert
  | .resetNRelease _ => Keeps.resetNRelease
  | .bringupComplete _ => Keeps.bringupComplete
  | .bringupTimeout => Keeps.bringupTimeout
  | .undervoltageStop => Keeps.undervoltageStop
  | .overvoltageLockout => Keeps.overvoltageLockout
  | .overCurrentTrip => Keeps.overCurrentTrip
  | .inputVoltageOutOfRange => Keeps.inputVoltageOutOfRange
  | .inputPowerHigh => Keeps.inputPowerHigh
  | .coolantInletHigh => Keeps.coolantInletHigh
  | .dieTempWarning _ => Keeps.dieTempWarning
  | .dieTrip d => Keeps.dieTrip d
  | .stackTrip _ => Keeps.stackTrip
  | .pllLockLost _ => Keeps.pllLockLost
  | .freezeNAssert => Keeps.freezeNAssert
  | .freezeNDeassert => Keeps.freezeNDeassert
  | .syncInPulse => Keeps.syncInPulse
  | .tapReset => Keeps.tapReset
  | .tapBypass _ => Keeps.tapBypass
  | .tapIdcode => Keeps.tapIdcode
  | .tapIjtag _ => Keeps.tapIjtag
  | .hbmTempReading _ _ => Keeps.hbmTempReading
  | .holdSend => Keeps.holdSend
  | .sramScrub _ _ => Keeps.sramScrub
  | .hbmScrub _ _ => Keeps.hbmScrub
  | .spareSelfTest _ _ => Keeps.spareSelfTest
  | .marginDriftProbe _ _ _ _ => Keeps.marginDriftProbe
  | .laserInputMeasure _ _ => Keeps.laserInputMeasure
  | .keepaliveSend _ => Keeps.keepaliveSend
  | .portSilence _ => Keeps.portSilence
  | .portUp _ _ _ => Keeps.portUp
  | .timeFlitSend _ => Keeps.timeFlitSend
  | .gcHoldover => Keeps.gcHoldover
  | .gcUnlocked => Keeps.gcUnlocked
  | .gcDomainAlign _ => Keeps.gcDomainAlign
  | .lossWindowExpiry _ => Keeps.lossWindowExpiry
  | .watchdogExpiry _ => Keeps.watchdogExpiry
  | .stepOvertime => Keeps.stepOvertime
  | .mgmtTakeover => Keeps.mgmtTakeover
  | .mgmtBothSilent => Keeps.mgmtBothSilent
  | .segTransferTimeout _ _ => Keeps.segTransferTimeout
  | .snapshotExpiry _ _ _ => Keeps.snapshotExpiry
  | .laneLockLost _ _ => Keeps.laneLockLost
  | .laneSwapAtBlock _ _ => Keeps.laneSwapAtBlock
  | .laneRetestDone _ _ _ _ => Keeps.laneRetestDone
  | .transientBinRoll => Keeps.transientBinRoll
  | .telemetryRefresh _ => Keeps.telemetryRefresh
  | .freezeCountReached => Keeps.freezeCountReached
  | .captureTimeout => Keeps.captureTimeout
  | .flitCrcFail _ _ => Keeps.flitCrcFail
  | .idle _ _ => Kept.linkFlit h (fun _ k => k)
  | .writeHead _ _ => Keeps.writeHead
  | .data _ _ => Keeps.data
  | .writeAck _ _ => Keeps.writeAck
  | .tally _ _ => Keeps.tally
  | .keepalive _ _ => Kept.linkFlit h (fun _ k => k)
  | .time _ _ => Keeps.time
  | .agree _ _ => Keeps.agree
  | .hold _ _ => Keeps.hold
  | .freeze _ _ => Kept.seqFlit h (fun _ k => Kept.flooded k (fun _ g => Kept.freezeAt g))
  | .frozen _ _ => Kept.linkFlit h (fun _ k => Kept.event (Kept.modPort k))
  | .loss _ _ => Kept.seqFlit h (fun _ k => Kept.flooded k (fun _ g => Kept.noteLoss g))
  | .dyingGasp _ _ => Kept.linkFlit h (fun _ k => Kept.floodLoss k)
  | .mgmt _ _ => Keeps.mgmt
  | .nak _ _ => Keeps.nak
  | .lanectl _ _ => Keeps.lanectl
  | .abort _ _ => Keeps.abort
  | .flitReservedType _ _ _ => .ite .same (Kept.linkFlit h (fun _ k => Kept.addObj k))
  | .hostLinkDown => Keeps.hostLinkDown
  | .hostLinkUp => Keeps.hostLinkUp
  | .hostFrameDiscard => Keeps.hostFrameDiscard
  | .neighbourReply _ => Keeps.neighbourReply
  | .rdmaRead _ _ _ _ => Keeps.rdmaRead
  | .rdmaWrite _ _ _ _ => Keeps.rdmaWrite
  | .rdmaCompareSwap _ _ _ _ _ => Keeps.rdmaCompareSwap
  | .rdmaUnsupported q o => Keeps.rdmaUnsupported q o
  | .ivwidinRead _ _ _ _ _ => Kept.serve h
  | .ivwidinWrite _ _ _ _ _ => Kept.serve h
  | .segRead _ _ _ _ _ => Kept.serve h
  | .segWrite _ _ _ _ _ => Kept.serve h
  | .attest _ _ _ => Kept.serve h
  | .rwsStageWrite _ _ _ _ _ => Kept.serve h
  | .selectorWrite _ _ _ _ => Kept.serve h
  | .planStage _ _ _ => Kept.serve h
  | .launchGc _ _ _ => Kept.serve h
  | .nodeId _ _ _ => Kept.serve h
  | .marginStart _ _ _ => Kept.serve h
  | .marginScanDone _ => Keeps.marginScanDone
  | .freezeRequestCapture _ _ => Kept.serve h
  | .freezeRequestFull _ _ => Kept.serve h
  | .freezeAtGc _ _ _ => Kept.serve h
  | .freezeRelease _ _ _ => Kept.serve h
  | .captureReadout _ _ _ _ => Kept.serve h
  | .ckptRestore _ _ _ => Kept.serve h
  | .spareRequest _ _ _ => Kept.serve h
  | .updateStage _ _ _ _ => Kept.serve h
  | .programPin _ _ _ _ => Kept.serve h
  | .stageDiscard _ _ _ => Kept.serve h
  | .eventLogClear _ _ _ => Kept.serve h
  | .customerKeyProgram _ _ _ => Kept.serve h
  | .customerKeyRevoke _ _ _ => Kept.serve h
  | .predPolicy _ _ _ _ => Kept.serve h
  | .replayTap _ _ _ _ => Kept.serve h
  | .qpTable _ _ _ => Kept.serve h
  | .agreeContribute => Keeps.agreeContribute
  | .agreeAttemptEnd => Keeps.agreeAttemptEnd
  | .agreeRetryTimer => Keeps.agreeRetryTimer
  | .stepLaunch => Keeps.stepLaunch
  | .recordIssue _ => Keeps.recordIssue
  | .sheafFetch _ _ _ => Keeps.sheafFetch
  | .creditGrant _ _ => Keeps.creditGrant
  | .dataArrival _ _ _ => Keeps.dataArrival
  | .feedReadLanded _ _ _ _ => Keeps.feedReadLanded
  | .chainTileForward _ _ => Keeps.chainTileForward
  | .loadInterlockRelease _ _ _ => Keeps.loadInterlockRelease
  | .recordComplete _ _ => Keeps.recordComplete
  | .signalArrival _ => Keeps.signalArrival
  | .stepComplete => Keeps.stepComplete
  | .recordFault _ _ _ => Keeps.recordFault
  | .spareCopyDone _ => Keeps.spareCopyDone
  | .noOperation _ _ => Kept.runRecord h (fun _ _ _ k => k)
  | .regenGate _ _ => Kept.runRecord h (fun _ _ _ => Kept.gateEffect)
  | .matrixProductMultiplyAdd _ _ => Kept.runRecord h (fun _ _ _ => Kept.denseEffect)
  | .squaredL2Distance _ _ => Kept.runRecord h (fun _ _ _ => Kept.denseEffect)
  | .l1Distance _ _ => Kept.runRecord h (fun _ _ _ => Kept.denseEffect)
  | .maxPlus _ _ => Kept.runRecord h (fun _ _ _ => Kept.denseEffect)
  | .minPlus _ _ => Kept.runRecord h (fun _ _ _ => Kept.denseEffect)
  | .compareAndCount _ _ => Kept.runRecord h (fun _ _ _ => Kept.denseEffect)
  | .blk16Product _ _ => Kept.runRecord h (fun _ _ _ => Kept.blkEffect)
  | .brtKProduct _ _ => Kept.runRecord h (fun _ _ _ => Kept.spProduct)
  | .csrTProduct _ _ => Kept.runRecord h (fun _ _ _ => Kept.spProduct)
  | .sampledProduct _ _ => Kept.runRecord h (fun _ _ _ => Kept.sampledEffect)
  | .gather _ _ => Kept.runRecord h (fun _ _ _ => Kept.gatherEffect)
  | .scatterAdd _ _ => Kept.runRecord h (fun _ _ _ => Kept.scatterEffect)
  | .expertDispatch _ _ => Kept.runRecord h (fun _ _ _ => Kept.dispatchEffect)
  | .expertCombine _ _ => Kept.runRecord h (fun _ _ _ => Kept.combineEffect)
  | .tableFunction _ _ => Kept.runRecord h (fun _ _ _ => Kept.tableEffect)
  | .derivativeTable _ _ => Kept.runRecord h (fun _ _ _ => Kept.derivTableEffect)
  | .derivativeHusk _ _ => Kept.runRecord h (fun _ _ _ => Kept.derivHuskEffect)
  | .elementAdd _ _ => Kept.runRecord h (fun _ _ _ => Kept.vuMap2)
  | .elementSubtract _ _ => Kept.runRecord h (fun _ _ _ => Kept.vuMap2)
  | .elementMultiply _ _ => Kept.runRecord h (fun _ _ _ => Kept.vuMap2)
  | .elementDivide _ _ => Kept.runRecord h (fun _ _ _ => Kept.vuMap2)
  | .elementMaximum _ _ => Kept.runRecord h (fun _ _ _ => Kept.vuMap2)
  | .elementMinimum _ _ => Kept.runRecord h (fun _ _ _ => Kept.vuMap2)
  | .elementSquareRoot _ _ => Kept.runRecord h (fun _ _ _ => Kept.vuMap1)
  | .elementLogarithm _ _ => Kept.runRecord h (fun _ _ _ => Kept.vuMap1)
  | .elementCompare _ _ => Kept.runRecord h (fun _ _ _ => Kept.vuMap2)
  | .reduceSum _ _ => Kept.runRecord h (fun _ _ _ => Kept.reduceEffect)
  | .reduceMean _ _ => Kept.runRecord h (fun _ _ _ => Kept.reduceEffect)
  | .reduceMaximum _ _ => Kept.runRecord h (fun _ _ _ => Kept.reduceEffect)
  | .reduceMinimum _ _ => Kept.runRecord h (fun _ _ _ => Kept.reduceEffect)
  | .dropoutMask _ _ => Kept.runRecord h (fun _ _ _ => Kept.dropoutEffect)
  | .optimizerMomentumSgd _ _ => Kept.runRecord h (fun _ _ _ => Kept.optEffect)
  | .optimizerAdam _ _ => Kept.runRecord h (fun _ _ _ => Kept.optEffect)
  | .optimizerAdamw _ _ => Kept.runRecord h (fun _ _ _ => Kept.optEffect)
  | .compose _ _ => Kept.runRecord h (fun _ _ _ => Kept.composeEffect)
  | .predict _ _ => Kept.runRecord h (fun _ _ _ => Kept.predictEffect)
  | .check _ _ => Kept.runRecord h (fun _ _ _ => Kept.checkEffect)
  | .merge _ _ => Kept.runRecord h (fun _ _ _ => Kept.mergeEffect)
  | .referenceCount _ _ => Kept.runRecord h (fun _ _ _ => Kept.refEffect)
  | .copy _ _ => Kept.runRecord h (fun _ _ _ => Kept.copyEffect)
  | .transposeCopy _ _ => Kept.runRecord h (fun _ _ _ => Kept.transposeEffect)
  | .stashWrite _ _ => Kept.runRecord h (fun _ _ _ => Kept.stashWriteEffect)
  | .stashRead _ _ => Kept.runRecord h (fun _ _ _ => Kept.stashReadEffect)
  | .prefetch _ _ => Keeps.prefetch
  | .cancel _ _ => Keeps.cancel
  | .scoreGradient _ _ => Kept.runRecord h (fun _ _ _ => Kept.scoreEffect)
  | .scoreRandom _ _ => Kept.runRecord h (fun _ _ _ => Kept.scoreEffect)
  | .select _ _ => Kept.runRecord h (fun _ _ _ => Kept.selectEffect)
  | .rebuildApply _ _ => Kept.runRecord h (fun _ _ _ => Kept.applyEffect)
  | .rebuildConvert _ _ => Kept.runRecord h (fun _ _ _ => Kept.convertEffect)
  | .maskCommitRecord _ _ => Kept.beginRecord h (fun _ _ _ => Kept.maskCommitEffect)
  | .sync _ _ => Kept.runRecord h (fun _ _ _ => Kept.syncEffect)
  | .reduceScatter _ _ _ => Kept.runCollective h (fun _ _ _ _ _ => Kept.reduceScatterEffect)
  | .allGather _ _ _ => Kept.runCollective h (fun _ _ _ _ _ => Kept.allGatherEffect)
  | .allToAllDispatch _ _ _ => Kept.runCollective h (fun _ _ _ _ _ => Kept.allToAllEffect)
  | .allToAllReturn _ _ _ => Kept.runCollective h (fun _ _ _ _ _ => Kept.allToAllEffect)
  | .collectiveStageEnd _ _ => Keeps.collectiveStageEnd
  | .shardStream _ _ => Kept.beginRecord h (fun _ _ _ => Kept.shardStreamEffect)
  | .shardVerify _ _ => Kept.runRecord h (fun _ _ _ => Kept.shardVerifyEffect)
  | .undervoltageLockoutExit => Keeps.undervoltageLockoutExit
  | .overvoltageLockoutExit => Keeps.overvoltageLockoutExit
  | .discreteInputIgnored _ => Keeps.discreteInputIgnored
  | .ckptRestoreDone _ => Keeps.ckptRestoreDone
  | .standbyReady => Keeps.standbyReady

/-- Every step, a command with the queue's rest or a tick, answers a next state with the invariant. -/
theorem step_keeps_inv {s : State} (h : s.Inv) : ∃ t, step s = .next t ∧ t.Inv := by
  unfold step
  split
  · rename_i c rest _
    obtain ⟨t, e, k⟩ := exec_keeps c { s with pending := rest }
    exact ⟨t, e, k.inv { h with }⟩
  · exact ⟨_, rfl, (Kept.tick (live := false) (Kept.refl s)).inv h⟩

end Sys2Proof.Machine

open Sys2Proof Sys2Proof.Machine

/-- Settles O3: each command keeps the parts of the invariant, by the lemma of its meaning, and so does a tick. -/
theorem stepKeepsTheInvariant : Obligations.StepKeepsTheInvariant := fun _ h => step_keeps_inv h
end

section
/-! SUPPORT. The address map and the state at reset: the logical window follows the core map (O60), and reset leaves the
spec's values (O5). -/

namespace Sys2Proof.Machine

/-- An address of the logical window, by its slot and its offset in the slot (R20). -/
theorem State.phys_logical (s : State) (l : Core) {off : Nat} (h : off < 0x8000000) :
    s.phys (0x20000000000 + l.val * 0x8000000 + off) =
      if off < 0x6000000 then some (coreStore (s.coreMap[l]).val + off) else none := by
  have slot : (0x20000000000 + l.val * 0x8000000 + off - 0x20000000000) / 0x8000000 = l.val := by omega
  have place : (0x20000000000 + l.val * 0x8000000 + off - 0x20000000000) % 0x8000000 = off := by omega
  have core : s.coreMap.toList.getD l.val 0 = s.coreMap[l] := by simp
  unfold State.phys
  rw [if_neg (by omega), if_neg (by omega), if_pos (by omega)]
  simp only [slot, place, core]
  rfl

/-- The module at reset has the invariant. -/
theorem State.reset_inv : State.reset.Inv where
  memory := rfl
  objects := rfl
  counter := by decide
  events := by decide
  audits := by decide
  replays := by decide
  sources := by decide
  fuses := by decide
  cores := CoresOk.shipped
  image := by decide

/-- Memory that nothing has written reads as +0 (R351). -/
theorem State.byte_of_mem_nil {s : State} (h : s.mem = []) (a : Nat) : s.byte a = 0 := by
  unfold State.byte
  split
  · rw [h]
    rfl
  · rfl

end Sys2Proof.Machine

open Sys2Proof Sys2Proof.Machine

/-- Settles O60: an offset below 96 MiB goes to the mapped core's store, and the rest of the slot to nothing. -/
theorem logicalWindowsFollowTheMap : Obligations.LogicalWindowsFollowTheMap := by
  intro s l off
  constructor
  · intro h
    rw [s.phys_logical l (by omega), if_pos h]
  · intro h g
    rw [s.phys_logical l g, if_neg (by omega)]

/-- Settles O5: reset is a closed state, so its fields are read off; only memory and the dictionary need a word, each an
empty list that reads as its default. -/
theorem resetLeavesTheSpecsValues : Obligations.ResetLeavesTheSpecsValues :=
  ⟨⟨by decide, by decide, rfl, rfl, rfl, rfl, rfl, rfl, rfl, rfl, by decide, fun _ _ => rfl,
    State.byte_of_mem_nil rfl⟩, State.reset_inv⟩
end

section
/-! SUPPORT. Flits that reach this module: what taking one leaves, what a routed flit for this module does, and what a
signal does to its target (O27). -/

namespace Sys2Proof.Machine

variable {s t u : State} {p : Port} {f : Flit}

/-! ### What taking a flit leaves -/

/-- An operation that changes ports and what is sent alone leaves every other field. -/
theorem OnlyPorts.logged {code : BitVec 16} {i : Nat} {d : Bytes} (h : OnlyPorts s u) (g : Logged u t code i d) :
    Logged s t code i d := by
  rw [h] at g
  exact g

theorem OnlyPorts.inv (h : OnlyPorts s u) (i : s.Inv) : u.Inv := by
  rw [h]
  exact { i with }

theorem OnlyPorts.obj (h : OnlyPorts s u) (i j : Nat) : u.obj i j = s.obj i j := by rw [h]; rfl

theorem OnlyPorts.nodeId (h : OnlyPorts s u) : u.nodeId = s.nodeId := by rw [h]; rfl

theorem OnlyPorts.epochOk (h : OnlyPorts s u) (f : Flit) : u.epochOk f = s.epochOk f := by rw [h]; rfl

theorem OnlyPorts.stepLive (h : OnlyPorts s u) : u.stepLive = s.stepLive := by rw [h]; rfl

@[simp] theorem State.delivered_cores : (s.delivered p f).cores = s.cores := by rw [OnlyPorts.delivered]
@[simp] theorem State.delivered_step : (s.delivered p f).step = s.step := by rw [OnlyPorts.delivered]
@[simp] theorem State.delivered_mem : (s.delivered p f).mem = s.mem := by rw [OnlyPorts.delivered]
@[simp] theorem State.delivered_inbound : (s.delivered p f).inbound = s.inbound := by rw [OnlyPorts.delivered]
@[simp] theorem State.delivered_outbound : (s.delivered p f).outbound = s.outbound := by rw [OnlyPorts.delivered]
@[simp] theorem State.delivered_fenceErrors : (s.delivered p f).fenceErrors = s.fenceErrors := by rw [OnlyPorts.delivered]
@[simp] theorem State.delivered_errorReplies : (s.delivered p f).errorReplies = s.errorReplies := by
  rw [OnlyPorts.delivered]
@[simp] theorem State.delivered_isFenced (i : Nat) : (s.delivered p f).isFenced i = s.isFenced i := by
  rw [OnlyPorts.delivered]; rfl
@[simp] theorem State.delivered_physOf (c : Core) : (s.delivered p f).physOf c = s.physOf c := by
  rw [OnlyPorts.delivered]; rfl

/-- A routed flit for this module is delivered (R395, R396). -/
theorem State.routed_forHere (h : ForHere s f) (ft : BitVec 8) (act : State → State) :
    (s.taken p f).routed p ft f act = act (s.delivered p f) := by
  obtain ⟨valid, dst, epoch⟩ := h
  have k : OnlyPorts s (s.taken p f) := OnlyPorts.taken
  have g : OnlyPorts s (s.delivered p f) := OnlyPorts.delivered
  unfold State.routed
  rw [k.obj, k.nodeId, if_neg (by simp [dst])]
  change (if (s.delivered p f).obj 0x1104 1 = 0 then _ else if _ && !(s.delivered p f).epochOk f then _ else _) = _
  rw [g.obj, if_neg valid, g.epochOk, epoch]
  simp
  rfl

/-- A sequenced and routed flit in order and for this module acts on the module that has taken it. -/
theorem State.seqFlit_forHere (o : InOrder s p f) (h : ForHere s f) (ft : BitVec 8) (act : State → State) :
    s.seqFlit p f (fun s => s.routed p ft f act) = .next (act (s.delivered p f)) := by
  rw [State.seqFlit_inOrder o, State.routed_forHere h]

/-! ### Signals at their target -/

section Signals
variable {sender : Nat} {c : Core} {k : Fin 64} {inc step : Nat}

@[simp] theorem vmodify_self {α : Type} {n : Nat} (v : Vector α n) (i : Fin n) (g : α → α) :
    (vmodify v i g)[i.val] = g v[i.val] := by
  simp [vmodify]

theorem State.applySignal_fenced (h : s.isFenced (s.physOf c).val = true) :
    s.applySignal sender c k inc step = s.fenceHit sender (s.physOf c).val := by
  unfold State.applySignal
  rw [if_pos h]

theorem State.applySignal_current (h : s.isFenced (s.physOf c).val = false) (l : s.step.launched = true)
    (e : step = s.step.current) (room : s.cores[c].tallies[k] + inc ≤ 0xFFFFFFFF) :
    s.applySignal sender c k inc step = s.modCore c (fun x => { x with tallies := vmodify x.tallies k (· + inc) }) := by
  unfold State.applySignal State.addTally
  rw [if_neg (by simp [h]), if_pos (by simp [l, e]), if_neg (by omega)]

theorem State.applySignal_next (h : s.isFenced (s.physOf c).val = false) (l : s.step.launched = true)
    (e : step = s.step.current + 1) (room : s.cores[c].held.length < 64) :
    s.applySignal sender c k inc step = s.modCore c (fun x => { x with held := x.held ++ [(step, k, inc)] }) := by
  unfold State.applySignal
  rw [if_neg (by simp [h]), if_neg (by simp [e]), if_pos (by simp [State.nextStep, l, e]), if_pos room]

theorem State.applySignal_stale (h : s.isFenced (s.physOf c).val = false) (l : s.step.launched = true)
    (e : step ≠ s.step.current) (n : step ≠ s.step.current + 1) :
    s.applySignal sender c k inc step = s.event 0x4103 (s.physOf c).val [] := by
  unfold State.applySignal
  rw [if_neg (by simp [h]), if_neg (by simp [e]), if_neg (by simpa [State.nextStep, l] using n)]

/-- A `TALLY` for this module is a signal from its port (R399). -/
theorem execTally_forHere (o : InOrder s p f) (h : ForHere s f) (hc : bitsOf (fieldAt f.payload 8 8) 40 6 = c.val)
    (hk : bitsOf (fieldAt f.payload 8 8) 34 6 = k.val) :
    execTally p f s = .next ((s.delivered p f).applySignal (0x50 + p.val) c k (bitsOf (fieldAt f.payload 8 8) 0 32)
      (fieldAt f.payload 0 8)) := by
  have same (x : Core) (y : Fin 64) (hx : x = c) (hy : y = k) (i n : Nat) : (s.delivered p f).applySignal (0x50 + p.val) x y i n =
      (s.delivered p f).applySignal (0x50 + p.val) c k i n := by rw [hx, hy]
  unfold execTally
  rw [State.seqFlit_forHere o h]
  refine congrArg Host.Outcome.next ?_
  dsimp only []
  rw [dif_pos (hc ▸ c.isLt)]
  exact same _ _ (Fin.ext hc) (Fin.ext hk) _ _

end Signals

end Sys2Proof.Machine

open Sys2Proof Sys2Proof.Machine

/-- Settles O27: a `TALLY` for this module is delivered as a signal, and a signal's four cases are the clauses. -/
theorem tallyMessagesApply : Obligations.TallyMessagesApply := by
  intro s p f c k _ o h hc hk inc step fenced
  have e := execTally_forHere o h hc hk
  have hf : (s.delivered p f).isFenced ((s.delivered p f).physOf c).val = fenced := by simp [fenced]
  refine ⟨fun n l cur room => ?_, fun n l nxt room => ?_, fun n l ne ne' => ?_, fun y => ?_⟩
  · rw [State.applySignal_current (hf.trans n) (by simpa) (by simpa) (by simpa)] at e
    exact ⟨_, e, by simp [State.modCore, inc], by simp, by simp⟩
  · rw [State.applySignal_next (hf.trans n) (by simpa) (by simpa) (by simpa)] at e
    exact ⟨_, e, by simp [State.modCore, inc, step], by simp [State.modCore]⟩
  · rw [State.applySignal_stale (hf.trans n) (by simpa) (by simpa) (by simpa)] at e
    refine ⟨_, e, by simp, OnlyPorts.delivered.logged (u := s.delivered p f) ?_⟩
    simpa using State.event_logged (s := s.delivered p f) 0x4103 (s.physOf c).val (d := []) (by simp)
  · rw [State.applySignal_fenced (hf.trans y)] at e
    exact e.trans (by simp [State.fenceHit])
end

section
/-! SUPPORT. Records that complete, taps and signals that arrive (O38). -/

namespace Sys2Proof.Machine

variable {s t u : State}

/-! ### No new records

What follows a change of the queues starts records and may abort the step, but puts no record into a queue. -/

/-- Every record in flight after was in flight on its core before, under its number. -/
def NoNewRecords (s t : State) : Prop :=
  ∀ (c : Core), ∀ q ∈ t.cores[c].inflight, ∃ q' ∈ s.cores[c].inflight, q'.recno = q.recno

theorem NoNewRecords.of_cores (h : t.cores = s.cores) : NoNewRecords s t := by
  intro c q hq
  rw [h] at hq
  exact ⟨q, hq, rfl⟩

theorem NoNewRecords.refl (s : State) : NoNewRecords s s := .of_cores rfl

theorem NoNewRecords.trans (h : NoNewRecords s t) (g : NoNewRecords t u) : NoNewRecords s u := by
  intro c q hq
  obtain ⟨q', hq', e'⟩ := g c q hq
  obtain ⟨q'', hq'', e''⟩ := h c q' hq'
  exact ⟨q'', hq'', e''.trans e'⟩

theorem NoNewRecords.after (g : NoNewRecords t u) (h : NoNewRecords s t) : NoNewRecords s u := h.trans g

theorem NoNewRecords.foldl {α : Type} {f : State → α → State} (g : ∀ b x, NoNewRecords b (f b x)) (l : List α) :
    NoNewRecords s (l.foldl f s) := by
  induction l generalizing s with
  | nil => exact .refl s
  | cons x l ih => exact (g s x).trans ih

theorem OnlySends.noNewRecords (h : OnlySends s t) : NoNewRecords s t := .of_cores (by rw [h])

/-- A record that is not in flight is none that appears later. -/
theorem NoNewRecords.qrec_none {c : Core} {r : Nat} (h : NoNewRecords s t) (n : s.qrec c r = none) : t.qrec c r = none := by
  unfold State.qrec at n ⊢
  rw [List.find?_eq_none] at n ⊢
  intro q hq
  obtain ⟨q', hq', e⟩ := h c q hq
  have := n q' hq'
  simpa [e] using this

theorem vmodify_other {α : Type} {n : Nat} (v : Vector α n) {i j : Fin n} (g : α → α) (h : i ≠ j) :
    (vmodify v i g)[j] = v[j] := by
  have : (i : Nat) ≠ j := fun e => h (Fin.ext e)
  simp [vmodify, this]

/-- A change of a core's records that keeps their numbers adds none. -/
theorem NoNewRecords.modCore_map {c : Core} {g : CoreState → CoreState} {f : QRec → QRec} (hf : ∀ q, (f q).recno = q.recno)
    (hg : ∀ k, (g k).inflight = k.inflight.map f) : NoNewRecords s (s.modCore c g) := by
  intro d q hq
  by_cases e : c = d
  · subst e
    simp only [State.modCore, Fin.getElem_fin, vmodify_self, hg, List.mem_map] at hq
    obtain ⟨q', hq', rfl⟩ := hq
    exact ⟨q', hq', (hf q').symm⟩
  · rw [State.modCore, vmodify_other _ _ e] at hq
    exact ⟨q, hq, rfl⟩

theorem NoNewRecords.modQRec {c : Core} {r : Nat} {f : QRec → QRec} (hf : ∀ q, (f q).recno = q.recno) :
    NoNewRecords s (s.modQRec c r f) :=
  .modCore_map (f := fun q => if q.recno = r then f q else q) (fun q => by split <;> simp [hf]) (fun _ => rfl)

theorem NoNewRecords.markWaits {c : Core} : NoNewRecords s (s.markWaits c) :=
  .modCore_map (f := fun q => if s.cores[c].requester q && q.waitSince.isNone && s.asksCredits c q.recno
    then { q with waitSince := some s.gc.value } else q) (fun q => by split <;> rfl) (fun _ => rfl)

theorem NoNewRecords.abortStep {code : BitVec 16} : NoNewRecords s (s.abortStep code) := by
  by_cases l : s.stepLive = true
  · intro c q hq
    rw [(State.abortStep_idle l c).1] at hq
    cases hq
  · refine .of_cores ?_
    unfold State.stepLive at l
    unfold State.abortStep
    split
    · rfl
    · rfl
    · simp_all
    · simp_all

theorem NoNewRecords.abortWith {code : BitVec 16} {i : Nat} {d : Bytes} : NoNewRecords s (s.abortWith code i d) :=
  OnlySends.event.noNewRecords.trans .abortStep

theorem NoNewRecords.sendPiece {o : Sender} {v : Nat} {dst : BitVec 16} {a : Nat} {b : Bytes} :
    NoNewRecords s (s.sendPiece o v dst a b) := by
  unfold State.sendPiece
  refine .after (.foldl (fun _ _ => OnlySends.sendRouted.noNewRecords) _) ?_
  exact .after OnlySends.sendRouted.noNewRecords (.of_cores rfl)

theorem NoNewRecords.sendStage {x : Ctx} {k : Nat} {l : List Piece} : NoNewRecords s (s.sendStage x k l) := by
  unfold State.sendStage
  split
  · exact .refl s
  · split
    · exact .refl s
    · dsimp only []
      split
      · exact .foldl (fun _ _ => .foldl (fun _ _ => .sendPiece) _) _
      · exact .refl s

theorem NoNewRecords.started {p : Plan} {c : Core} {rc : Rec} {q : QRec} : NoNewRecords s (s.started p c rc q) := by
  unfold State.started
  dsimp only []
  split <;> split
  · exact .after .sendStage (.of_cores rfl)
  · exact .after .sendStage (.of_cores rfl)
  · exact .of_cores rfl
  · exact .of_cores rfl

theorem NoNewRecords.tryStart {p : Plan} {c : Core} {r : Nat} : NoNewRecords s (s.tryStart p c r) := by
  unfold State.tryStart
  split
  · dsimp only []
    split
    · exact .abortWith
    · split
      · split
        · exact .after .started (.modQRec (fun _ => rfl))
        · split
          · exact .refl s
          · exact .after OnlySends.addObj.noNewRecords (.modQRec (fun _ => rfl))
      · exact .refl s
  · exact .refl s

theorem NoNewRecords.startCore {p : Plan} {c : Core} {pick : Rec → Bool} : NoNewRecords s (s.startCore p c pick) := by
  refine .foldl (fun b r => ?_) _
  split
  · exact .tryStart
  · exact .refl b

theorem NoNewRecords.startAll : NoNewRecords s s.startAll := by
  unfold State.startAll
  split
  · exact .refl s
  · split
    · exact .refl s
    · exact .after (.foldl (fun _ _ => .foldl (fun _ _ => .startCore) _) _) (.foldl (fun _ _ => .startCore) _)

theorem NoNewRecords.settle {c : Core} : NoNewRecords s (s.settle c) := .trans .markWaits .startAll

theorem NoNewRecords.checkDone {c : Core} : NoNewRecords s (s.checkDone c) :=
  .modCore_map (f := id) (fun _ => rfl) (fun _ => (List.map_id _).symm)

/-- A record that completes leaves its queue. -/
theorem State.complete_qrec {p : Plan} {c : Core} {rc : Rec} {q : QRec} :
    (s.complete p c rc q).qrec c rc.recno = none := by
  refine NoNewRecords.qrec_none (.trans .checkDone .settle) ?_
  unfold State.qrec
  rw [List.find?_eq_none]
  simp [State.modCore]

/-! ### Taps -/

/-- A loop of which one round alone changes the state. -/
theorem List.foldl_one {α β : Type} {f : β → α → β} {l : List α} {i : α} {b : β} (hl : l.Nodup) (hi : i ∈ l)
    (before : ∀ j ∈ l, j ≠ i → f b j = b) (after : ∀ j ∈ l, j ≠ i → f (f b i) j = f b i) : l.foldl f b = f b i := by
  have still (l : List α) (b : β) (h : ∀ j ∈ l, f b j = b) : l.foldl f b = b := by
    induction l with
    | nil => rfl
    | cons x l ih =>
      rw [List.foldl_cons, h x (by simp)]
      exact ih (fun j hj => h j (by simp [hj]))
  obtain ⟨l₁, l₂, rfl⟩ := List.append_of_mem hi
  have n := List.nodup_append.1 hl
  have n₁ (j) (hj : j ∈ l₁) : j ≠ i := n.2.2 j hj i (by simp)
  have n₂ (j) (hj : j ∈ l₂) : j ≠ i := fun e => (List.nodup_cons.1 n.2.1).1 (e ▸ hj)
  rw [List.foldl_append, still l₁ b (fun j hj => before j (by simp [hj]) (n₁ j hj)), List.foldl_cons]
  exact still l₂ _ (fun j hj => after j (by simp [hj]) (n₂ j hj))

theorem State.accessSlots_blobs {l : List (Nat × Nat)} : (s.accessSlots l).blobs = s.blobs := rfl

theorem OnlyStores.blobs (h : OnlyStores s t) : t.blobs = s.blobs := by rw [h]

/-- A tap changes no tap. -/
theorem State.runTap_blobs {p : Plan} {n w slot : Nat} : (s.runTap p n w slot).blobs = s.blobs := by
  unfold State.runTap
  split
  · dsimp only []
    split
    · exact State.accessSlots_blobs.trans OnlyStores.writeRun.blobs
    · simp
  · simp

/-- One round of the taps: tap `i`, where it is set for this step and a descriptor written (R431). -/
def State.tapRound (p : Plan) (wrote : List Nat) (s : State) (i : Nat) : State :=
  match s.replayTap i with
  | some (st, n, w, slot) => if st = s.step.current && wrote.contains n then s.runTap p n w slot else s
  | none => s

theorem State.runTaps_rounds {p : Plan} {wrote : List Nat} :
    s.runTaps p wrote = (List.range 16).foldl (State.tapRound p wrote) s := rfl

theorem State.tapRound_unset {p : Plan} {wrote : List Nat} {i : Nat} (h : s.replayTap i = none) :
    State.tapRound p wrote s i = s := by
  unfold State.tapRound
  rw [h]

theorem State.tapRound_set {p : Plan} {wrote : List Nat} {i n w slot : Nat}
    (h : s.replayTap i = some (s.step.current, n, w, slot)) (hn : n ∈ wrote) :
    State.tapRound p wrote s i = s.runTap p n w slot := by
  unfold State.tapRound
  rw [h]
  simp [hn]

theorem State.replayTap_of_blobs {i : Nat} (h : t.blobs = s.blobs) : t.replayTap i = s.replayTap i := by
  unfold State.replayTap State.blob
  rw [h]

/-- Where one tap alone is set, for this step and a descriptor written, the taps run it alone (R431). -/
theorem State.runTaps_one {p : Plan} {i : Fin 16} {n w slot : Nat} {wrote : List Nat}
    (h : s.replayTap i.val = some (s.step.current, n, w, slot)) (hn : n ∈ wrote)
    (others : ∀ j : Fin 16, j ≠ i → s.replayTap j.val = none) : s.runTaps p wrote = s.runTap p n w slot := by
  have quiet (j : Nat) (hj : j ∈ List.range 16) (ne : j ≠ i) : s.replayTap j = none :=
    others ⟨j, List.mem_range.1 hj⟩ (fun x => ne (congrArg Fin.val x))
  have run := State.tapRound_set (p := p) h hn
  rw [State.runTaps_rounds, List.foldl_one (i := i.val) List.nodup_range (by simp), run]
  · exact fun j hj ne => State.tapRound_unset (quiet j hj ne)
  · intro j hj ne
    rw [run]
    exact State.tapRound_unset ((State.replayTap_of_blobs State.runTap_blobs).trans (quiet j hj ne))

/-! ### What an event leaves of the dictionary, canonical or not -/

/-- Writing a value that is no default leaves what every other key reads as, in any list. -/
theorem Assoc.read_write_ne {β : Type} [DecidableEq β] {d : Nat → β} {l : List (Nat × β)} {k j : Nat} {v : β}
    (hv : v ≠ d k) (h : j ≠ k) : Assoc.read d (Assoc.write d l k v) j = Assoc.read d l j := by
  induction l with
  | nil =>
    simp [Assoc.write, hv, Assoc.read, h]
  | cons e l ih =>
    obtain ⟨k', v'⟩ := e
    simp only [Assoc.write, if_neg hv]
    split
    · have : j < k → ¬ j = k' ∧ j < k' := by omega
      by_cases lt : j < k
      · simp [Assoc.read, h, lt, this lt]
      · simp [Assoc.read, h, lt]
    · split
      · subst k'
        simp [Assoc.read, h]
      · simp [Assoc.read, ih]

/-- Where the counter of its class is an entry that starts at 0, an event of management changes only what logging it
needs, whatever the dictionary's form. -/
theorem State.mgmtEvent_onlyLogs (c : BitVec 16) (d : Bytes) {o : Obj}
    (hc : objFind 0x3000 (c.toNat / 4096 - 1) = some o) (pos : 0 < o.ty.maxValue)
    (zero : objDefault (objKey 0x3000 (c.toNat / 4096 - 1)) = 0) : OnlyLogs s (s.mgmtEvent c d) where
  frame := by
    unfold State.mgmtEvent State.event
    dsimp only []
    split <;> split <;> rfl
  objects := by
    intro idx sub hi hs
    have l := c.isLt
    have k : objKey idx sub ≠ objKey 0x3000 (c.toNat / 4096 - 1) := by
      rw [Ne, objKey_inj hs (by omega)]
      simp [hi]
    unfold State.obj State.mgmtEvent
    rw [State.event_od]
    unfold State.addObj State.setObj
    rw [hc]
    exact Assoc.read_write_ne (by dsimp only []; omega) k

end Sys2Proof.Machine

open Sys2Proof Sys2Proof.Machine

/-- Settles O38: completion is `State.complete`, after which no record of that number is in flight; the one tap set runs
alone; and a signal's cases are those of `State.applySignal`. -/
theorem recordsCompleteAndSignal : Obligations.RecordsCompleteAndSignal := by
  intro s aw
  refine ⟨?_, ?_, ?_⟩
  · intro c r p q rc run hp hq hrc hr hx
    have go : execRecordComplete c r s = if s.outbound.any (fun o => o.core = c && o.recno = r) then .next s
        else .next (s.complete p c rc q) := by
      unfold execRecordComplete
      rw [hp, hq]
      simp [hrc, aw, run, hx]
    refine ⟨fun acked => ?_, fun ⟨o, ho, hc, hn⟩ => ?_⟩
    · rw [if_neg (by simpa using acked)] at go
      subst hr
      exact ⟨_, go, State.complete_qrec, rfl⟩
    · rw [if_pos (by simpa using ⟨o, ho, hc, hn⟩)] at go
      exact go
  · intro p i n w slot wrote d win ht hn others hd hw
    have one : s.runTaps p wrote = s.runTap p n w slot := State.runTaps_one ht hn others
    refine ⟨fun h₁ h₂ h₃ => ?_, fun bad => ?_⟩
    · rw [one, State.runTap, hd, hw]
      simp [h₁, h₂, h₃]
    · have none : s.runTap p n w slot = s.mgmtEvent 0x4907 [] := by
        rw [State.runTap, hd, hw]
        refine if_neg ?_
        simp only [Bool.and_eq_true, decide_eq_true_eq]
        omega
      rw [one, none]
      exact ⟨State.event_logged _ _ (by simp), State.mgmtEvent_onlyLogs 0x4907 [] rfl (by decide) (by decide)⟩
  · intro k m hm
    have go : execSignalArrival k s = .next (({ s with signals := s.signals.eraseIdx k }).applySignal m.sender m.core
        m.tally m.inc m.step) := by
      unfold execSignalArrival
      rw [aw, hm]
    refine ⟨fun n l cur room => ?_, fun y => ?_⟩
    · rw [State.applySignal_current (s := { s with signals := s.signals.eraseIdx k }) n l cur room] at go
      exact ⟨_, go, rfl, by simp [State.modCore], rfl, rfl⟩
    · rw [State.applySignal_fenced (s := { s with signals := s.signals.eraseIdx k }) y] at go
      exact go
end

section
/-! SUPPORT. The copy of a sparing (O41): what a copied list of cells reads as, and what the copy leaves. -/

namespace Sys2Proof.Machine

/-! ### Reading canonical lists by their entries -/

section Assoc
variable {β : Type} [DecidableEq β] {d : Nat → β} {l : List (Nat × β)}

theorem Assoc.wfFrom_le {lo : Nat} (w : Assoc.wfFrom d lo l = true) : ∀ e ∈ l, lo ≤ e.1 := by
  induction l generalizing lo with
  | nil => simp
  | cons x l ih =>
    simp only [Assoc.wfFrom, Bool.and_eq_true, decide_eq_true_eq] at w
    intro e he
    rcases List.mem_cons.1 he with rfl | he
    · exact w.1.1
    · have := ih w.2 e he
      omega

/-- An entry of a canonical list is what its key reads as. -/
theorem Assoc.read_of_mem {k lo : Nat} {v : β} (w : Assoc.wfFrom d lo l = true) (h : (k, v) ∈ l) :
    Assoc.read d l k = v := by
  induction l generalizing lo with
  | nil => cases h
  | cons x l ih =>
    obtain ⟨k', v'⟩ := x
    simp only [Assoc.wfFrom, Bool.and_eq_true, decide_eq_true_eq] at w
    rcases List.mem_cons.1 h with e | h
    · cases e
      simp [Assoc.read]
    · have := Assoc.wfFrom_le w.2 _ h
      simp only at this
      rw [Assoc.read, if_neg (by omega), if_neg (by omega)]
      exact ih w.2 h

omit [DecidableEq β] in
/-- A key without an entry reads as its default. -/
theorem Assoc.read_of_not_mem {k : Nat} (h : ∀ e ∈ l, e.1 ≠ k) : Assoc.read d l k = d k := by
  induction l with
  | nil => rfl
  | cons x l ih =>
    obtain ⟨k', v'⟩ := x
    have := h (k', v') (by simp)
    rw [Assoc.read, if_neg (fun e => this e.symm)]
    split
    · rfl
    · exact ih (fun e he => h e (by simp [he]))

/-- Two keys read alike in two lists with constant defaults where they have the same entries. -/
theorem Assoc.read_congr {m : List (Nat × β)} {c : β} {j k lo lo' : Nat} (w : Assoc.wfFrom (fun _ => c) lo l = true)
    (w' : Assoc.wfFrom (fun _ => c) lo' m = true) (h : ∀ v, (j, v) ∈ l ↔ (k, v) ∈ m) :
    Assoc.read (fun _ => c) l j = Assoc.read (fun _ => c) m k := by
  by_cases e : ∃ v, (j, v) ∈ l
  · obtain ⟨v, hv⟩ := e
    rw [Assoc.read_of_mem w hv, Assoc.read_of_mem w' ((h v).1 hv)]
  · rw [Assoc.read_of_not_mem, Assoc.read_of_not_mem]
    · rintro ⟨k', v⟩ hv rfl
      exact e ⟨v, (h v).2 hv⟩
    · rintro ⟨j', v⟩ hv rfl
      exact e ⟨v, hv⟩

end Assoc

theorem mem_copyCells {β : Type} {src dst n k : Nat} {v : β} {l : List (Nat × β)} :
    (k, v) ∈ copyCells src dst n l ↔
      ((k < dst ∨ dst + n ≤ k) ∧ (k, v) ∈ l) ∨ (dst ≤ k ∧ k < dst + n ∧ (k - dst + src, v) ∈ l) := by
  simp only [copyCells, List.mem_append, List.mem_filter, List.mem_map, Bool.and_eq_true, decide_eq_true_eq, Prod.mk.injEq]
  constructor
  · rintro ((⟨h, lt⟩ | ⟨⟨k', v'⟩, ⟨h, ge, lt⟩, rfl, rfl⟩) | ⟨h, le⟩)
    · exact .inl ⟨.inl lt, h⟩
    · refine .inr ⟨by omega, by simp only at *; omega, ?_⟩
      simp only at *
      rwa [show k' - src + dst - dst + src = k' by omega]
    · exact .inl ⟨.inr le, h⟩
  · rintro (⟨lt | le, h⟩ | ⟨ge, lt, h⟩)
    · exact .inl (.inl ⟨h, lt⟩)
    · exact .inr ⟨h, le⟩
    · exact .inl (.inr ⟨_, ⟨h, by simp only; omega⟩, by simp only; omega, rfl⟩)

section Memory
variable {src dst n : Nat} {m : List Host.Cell} (w : Memory.wf m = true)
include w

/-- The copy reads as its source. -/
theorem memRead_copyCells_inside {o : Nat} (h : o < n) : memRead (copyCells src dst n m) (dst + o) = memRead m (src + o) := by
  refine Assoc.read_congr (copyCells_mem_wf src dst n w) w (fun v => ?_)
  rw [mem_copyCells]
  constructor
  · rintro (⟨h', -⟩ | ⟨-, -, h'⟩)
    · omega
    · rwa [show dst + o - dst + src = src + o by omega] at h'
  · intro h'
    exact .inr ⟨by omega, by omega, by rwa [show dst + o - dst + src = src + o by omega]⟩

/-- Outside its target a copy changes nothing. -/
theorem memRead_copyCells_outside {a : Nat} (h : a < dst ∨ dst + n ≤ a) : memRead (copyCells src dst n m) a = memRead m a := by
  refine Assoc.read_congr (copyCells_mem_wf src dst n w) w (fun v => ?_)
  rw [mem_copyCells]
  constructor
  · rintro (⟨-, h'⟩ | ⟨ge, lt, -⟩)
    · exact h'
    · omega
  · exact fun h' => .inl ⟨h, h'⟩

end Memory

/-! ### What changes the dictionary alone -/

/-- Only scalars of the dictionary have changed. -/
def OnlyScalars (s t : State) : Prop := t = { s with od := t.od }

variable {s t u : State}

theorem OnlyScalars.trans (h : OnlyScalars s t) (g : OnlyScalars t u) : OnlyScalars s u := by
  unfold OnlyScalars at *
  rw [g, h]

theorem OnlyScalars.foldl {α : Type} {f : State → α → State} (g : ∀ b x, OnlyScalars b (f b x)) (l : List α) :
    OnlyScalars s (l.foldl f s) := by
  induction l generalizing s with
  | nil => exact rfl
  | cons x l ih => exact (g s x).trans ih

/-- Lost data shows in the dictionary alone (R340). -/
theorem OnlyScalars.lostData {a : Nat} : OnlyScalars s (s.lostData a) := by
  unfold State.lostData
  split
  · exact rfl
  · split
    · exact rfl
    · exact rfl

/-- The poisoned words of the store that a sparing copies are reported as lost (R340, R499). -/
def State.copyLost (s : State) (x : Sparing) : State :=
  (s.poison.filter (fun w => decide (coreStore x.physical.val ≤ w) &&
    decide (w < coreStore x.physical.val + coreStoreSize))).foldl State.lostData s

theorem State.copyLost_onlyScalars (s : State) (x : Sparing) : OnlyScalars s (s.copyLost x) := .foldl (fun _ _ => .lostData) _

/-- A module whose sparing of a core has its copy (R499). -/
def State.storeCopied (s : State) (l : Core) (x : Sparing) : State :=
  { s.copyLost x with
    mem := copyCells (coreStore x.physical.val) (coreStore x.spare.val) coreStoreSize (s.copyLost x).mem
    poison := (copyCells (coreStore x.physical.val) (coreStore x.spare.val) coreStoreSize
      ((s.copyLost x).poison.map (fun w => (w, ())))).map Prod.fst
    sparing := (s.copyLost x).sparing.map (fun y => if y.logical = l then { y with copied := true } else y) }

theorem State.storeCopied_mem (s : State) (l : Core) (x : Sparing) :
    (s.storeCopied l x).mem = copyCells (coreStore x.physical.val) (coreStore x.spare.val) coreStoreSize s.mem := by
  unfold State.storeCopied
  rw [s.copyLost_onlyScalars x]

theorem State.storeCopied_coreMap (s : State) (l : Core) (x : Sparing) : (s.storeCopied l x).coreMap = s.coreMap := by
  unfold State.storeCopied
  rw [s.copyLost_onlyScalars x]

/-- The copy of a started sparing is done at its count, and not before. -/
theorem execSpareCopyDone_started {l : Core} {x : Sparing} {g : Nat} (aw : s.awake = true)
    (hx : s.sparing.find? (fun x => x.logical = l) = some x) (hg : x.startGc = some g) (hc : x.copied = false) :
    execSpareCopyDone l s = if s.gc.value < g + 49152 then .next s else .next (s.storeCopied l x) := by
  unfold execSpareCopyDone
  rw [hx]
  simp only [hg, aw, hc]
  by_cases early : s.gc.value < g + 49152
  · rw [if_pos (by simp [early]), if_pos early]
  · rw [if_neg (by simpa using early), if_neg early]
    rfl

end Sys2Proof.Machine

open Sys2Proof Sys2Proof.Machine

/-- Settles O41: before the count nothing happens; at it the spare's store becomes the source's, cell by cell. -/
theorem sparingCopiesTheStore : Obligations.SparingCopiesTheStore := by
  intro s l x g inv aw hx hg hc
  have go := execSpareCopyDone_started aw hx hg hc
  refine ⟨fun due => ?_, fun early => ?_⟩
  · rw [if_neg (by omega)] at go
    refine ⟨_, go, s.storeCopied_coreMap l x, fun o ho => ?_, fun a ha => ?_, fun y hy hl => ?_⟩
    · rw [s.storeCopied_mem]
      exact memRead_copyCells_inside inv.memory ho
    · rw [s.storeCopied_mem]
      exact memRead_copyCells_outside inv.memory ha
    · obtain ⟨z, -, rfl⟩ := List.mem_map.1 hy
      by_cases e : z.logical = l
      · simp [e]
      · simp [e] at hl
  · rw [if_pos early] at go
    exact go
end

section
/-! SUPPORT. What an abort leaves of the log, of the dictionary and of memory (R55). -/

namespace Sys2Proof.Machine

variable {s t u : State}

/-! ### Logs that grow -/

/-- At most `n` records have been pushed onto the log. -/
def LogGrows (n : Nat) (s t : State) : Prop := ∃ es : List EventRec, es.length ≤ n ∧ t.log = es.foldl EventLog.push s.log

theorem LogGrows.of_log {n : Nat} (h : t.log = s.log) : LogGrows n s t := ⟨[], by simp, h⟩

theorem LogGrows.trans {m n : Nat} (h : LogGrows m s t) (g : LogGrows n t u) : LogGrows (m + n) s u := by
  obtain ⟨es, he, hl⟩ := h
  obtain ⟨fs, hf, gl⟩ := g
  exact ⟨es ++ fs, by simp; omega, by rw [gl, hl, List.foldl_append]⟩

theorem LogGrows.event {c : BitVec 16} {i : Nat} {d : Bytes} : LogGrows 1 s (s.event c i d) :=
  ⟨[_], by simp, by rw [State.event_log]; rfl⟩

/-- An event stays in a log to which few records are added after it. -/
theorem LogGrows.logged {n : Nat} {c : BitVec 16} {i : Nat} {d : Bytes} (h : LogGrows n (s.event c i d) t)
    (hn : n < 65536) (hd : d.length ≤ 10) : Logged s t c i d := by
  obtain ⟨es, he, hl⟩ := h
  rw [State.event_log] at hl
  rw [Logged, hl]
  exact ⟨_, EventLog.mem_foldl_push _ _ _ (by omega), rfl, rfl, List.take_of_length_le hd, rfl, rfl⟩

theorem State.foldl_log {α : Type} {f : State → α → State} (h : ∀ b x, (f b x).log = b.log) (l : List α) :
    (l.foldl f s).log = s.log := by
  induction l generalizing s with
  | nil => rfl
  | cons x l ih => exact ih.trans (h s x)

theorem State.writeRun_log {a : Nat} {b : Bytes} : (s.writeRun a b).log = s.log := by
  unfold State.writeRun
  dsimp only []
  split
  · rfl
  · split
    · exact State.foldl_log (f := fun s w => s.addObj 0x3037 (hbmDecode w).1 1) (fun _ _ => rfl) _
    · rfl

theorem State.setVersion_log {v sl b n : Nat} : (s.setVersion v sl b n).log = s.log := by
  unfold State.setVersion
  split
  · rfl
  · exact State.writeRun_log.trans State.writeRun_log

theorem State.endWaits_log : s.endWaits.log = s.log := by
  refine State.foldl_log (fun b c => ?_) _
  dsimp only []
  split <;> split <;> rfl

theorem State.abortRebuilds_log : s.abortRebuilds.log = s.log := by
  unfold State.abortRebuilds
  split
  · rfl
  · exact State.foldl_log (f := fun s m => s.setSync m true) (fun _ _ => rfl) _

theorem LogGrows.abortVersions : LogGrows 1 s s.abortVersions := by
  have k : LogGrows 0 s (s.step.versions.foldl (fun s v => s.setVersion v.1 v.2.1 v.2.2.1 (2 ^ 64 - 1)) s) :=
    .of_log (State.foldl_log (fun _ _ => State.setVersion_log) _)
  unfold State.abortVersions
  dsimp only []
  split
  · exact LogGrows.trans (m := 0) (n := 1) k (.of_log rfl)
  · split
    · exact LogGrows.trans (m := 0) (n := 1) k (.event (s := State.setObj _ 0x2600 4 0))
    · exact LogGrows.trans (m := 0) (n := 1) k (.of_log rfl)

/-- A flood changes ports, what is sent, and its own sequence number. -/
theorem State.flood_frame {ft : BitVec 8} {b : Bytes} :
    s.flood ft b = { s with ports := (s.flood ft b).ports, out := (s.flood ft b).out, floodSeq := (s.flood ft b).floodSeq } := by
  have k (u : State) (f : Flit) : OnlyPorts u (u.floodOut ft none f) := by
    have g (l : List Port) (u : State) :
        OnlyPorts u (l.foldl (fun s p => if none = some p then s else s.sendSeq none p ft f) u) := by
      induction l generalizing u with
      | nil => exact rfl
      | cons p l ih => exact OnlyPorts.trans (by simpa using OnlyPorts.sendSeq) (ih _)
    exact g allPorts u
  unfold State.flood
  dsimp only []
  split
  · rfl
  · rw [k]

theorem State.flood_od {ft : BitVec 8} {b : Bytes} : (s.flood ft b).od = s.od := by
  rw [State.flood_frame]

theorem LogGrows.abortStep {c : BitVec 16} : LogGrows 2 s (s.abortStep c) := by
  by_cases l : s.stepLive = true
  · rw [State.abortStep_live l, State.flood_frame]
    have settle : LogGrows 2 s (s.abortSettled c) :=
      .trans (m := 1) (n := 1) (.trans (m := 0) (.of_log (State.endWaits_log.trans State.abortRebuilds_log)) .event)
        .abortVersions
    obtain ⟨es, he, hl⟩ := settle
    exact ⟨es, he, hl⟩
  · refine .of_log ?_
    unfold State.stepLive at l
    unfold State.abortStep
    split
    · rfl
    · rfl
    · simp_all
    · simp_all

/-- The event that an abort logs first stays in its log. -/
theorem State.abortWith_logged {c : BitVec 16} {i : Nat} {d : Bytes} (hd : d.length ≤ 10) :
    Logged s (s.abortWith c i d) c i d :=
  LogGrows.abortStep.logged (by omega) hd

/-! ### Entries of the dictionary that stand -/

/-- The dictionary stays canonical, and the scalars of an entry stand. -/
def KeepsEntry (i : Nat) (s t : State) : Prop :=
  Assoc.wf objDefault s.od = true → Assoc.wf objDefault t.od = true ∧ ∀ j < 256, t.obj i j = s.obj i j

section Entry
variable {i : Nat}

theorem KeepsEntry.of_od (h : t.od = s.od) : KeepsEntry i s t := by
  intro w
  unfold State.obj
  rw [h]
  exact ⟨w, fun _ _ => rfl⟩

theorem KeepsEntry.trans (h : KeepsEntry i s t) (g : KeepsEntry i t u) : KeepsEntry i s u := by
  intro w
  obtain ⟨w', h⟩ := h w
  obtain ⟨w'', g⟩ := g w'
  exact ⟨w'', fun j hj => (g j hj).trans (h j hj)⟩

theorem KeepsEntry.after (g : KeepsEntry i t u) (h : KeepsEntry i s t) : KeepsEntry i s u := h.trans g

theorem KeepsEntry.foldl {α : Type} {f : State → α → State} {l : List α} (h : ∀ b, ∀ x ∈ l, KeepsEntry i b (f b x)) :
    KeepsEntry i s (l.foldl f s) := by
  induction l generalizing s with
  | nil => exact .of_od rfl
  | cons x l ih => exact (h s x (by simp)).trans (ih (fun b y hy => h b y (by simp [hy])))

theorem KeepsEntry.setObj {k j v : Nat} (h : i ≠ k) (hj : j < 256) : KeepsEntry i s (s.setObj k j v) := by
  intro w
  refine ⟨State.setObj_wf w _ _ _, fun j' hj' => ?_⟩
  rw [State.obj_setObj w, if_neg]
  rw [objKey_inj hj' hj]
  exact fun e => h e.1

theorem KeepsEntry.addObj {k j n : Nat} (h : i ≠ k) (hj : j < 256) : KeepsEntry i s (s.addObj k j n) := .setObj h hj

theorem KeepsEntry.event {c : BitVec 16} {n : Nat} {d : Bytes} (h : i ≠ 0x3000) : KeepsEntry i s (s.event c n d) := by
  have k : KeepsEntry i s (s.addObj 0x3000 (c.toNat / 4096 - 1) 1) := .addObj h (by have := c.isLt; omega)
  exact .after (.of_od (State.event_od c n d)) k

/-- The partly covered words of a short write lie on stacks below 256 (R328, R332). -/
theorem hbmDecode_rmwWords {a n w : Nat} (ha : a < 0x6000000000) (hn : n ≤ 2 ^ 32) (h : w ∈ rmwWords a n) :
    (hbmDecode w).1 < 256 := by
  have le : w ≤ a + n := by
    unfold rmwWords at h
    dsimp only [] at h
    split at h
    · cases h
    · rcases List.mem_append.1 h with h | h
      · split at h
        · simp only [List.mem_singleton] at h
          omega
        · cases h
      · split at h
        · simp only [List.mem_singleton] at h
          omega
        · cases h
  unfold hbmDecode
  split
  · have x (a b : Nat) (ha : a < 8) (hb : b < 8) : a ^^^ b < 8 := Nat.xor_lt_two_pow (n := 3) ha hb
    have := x _ _ (x (w / 4096 % 8) (w / 32768 % 8) (by omega) (by omega)) (show w / 262144 % 8 < 8 by omega)
    dsimp only []
    omega
  · dsimp only []
    omega

theorem KeepsEntry.writeRun {a : Nat} {b : Bytes} (h : i ≠ 0x3037) (hb : b.length ≤ 2 ^ 32) :
    KeepsEntry i s (s.writeRun a b) := by
  unfold State.writeRun
  dsimp only []
  split
  · exact .of_od rfl
  · split
    · exact .after (.foldl (fun _ w hw => .addObj h (hbmDecode_rmwWords (by assumption) hb hw))) (.of_od rfl)
    · exact .of_od rfl

theorem toLe_length (n v : Nat) : (toLe n v).length = n := by
  induction n generalizing v with
  | zero => rfl
  | succ n ih => simp [toLe, ih]

theorem KeepsEntry.setVersion {v sl b n : Nat} (h : i ≠ 0x3037) : KeepsEntry i s (s.setVersion v sl b n) := by
  unfold State.setVersion
  split
  · exact .of_od rfl
  · exact .after (.writeRun h (by simp)) (.writeRun h (by simp [toLe_length]))

theorem KeepsEntry.endWaits (h : i ≠ 0x301D) (g : i ≠ 0x303E) : KeepsEntry i s s.endWaits := by
  refine .foldl (fun b c _ => ?_)
  have p (n : Phys) : n.val < 256 := by omega
  have waited (u : State) (k n : Nat) (hk : i ≠ k) :
      KeepsEntry i u (if n = 0 then u else u.addObj k (u.physOf c).val (coreCycles n)) := by
    split
    · exact .of_od rfl
    · exact .addObj hk (p _)
  exact (waited b 0x301D _ h).trans (waited _ 0x303E _ g)

theorem KeepsEntry.abortRebuilds (h : i ≠ 0x2404) : KeepsEntry i s s.abortRebuilds := by
  unfold State.abortRebuilds
  split
  · exact .of_od rfl
  · refine .foldl (fun b m hm => .after (.setObj h ?_) (.of_od rfl))
    simp only [List.mem_flatMap, List.mem_filterMap, Option.bind_eq_some_iff] at hm
    obtain ⟨_, -, _, -, r, -, hr⟩ := hm
    split at hr
    · cases hr
      exact Nat.mod_lt _ (by decide)
    · cases hr

theorem KeepsEntry.abortVersions (h : i ≠ 0x3037) (g : i ≠ 0x2600) (e : i ≠ 0x3000) : KeepsEntry i s s.abortVersions := by
  have k : KeepsEntry i s (s.step.versions.foldl (fun s v => s.setVersion v.1 v.2.1 v.2.2.1 (2 ^ 64 - 1)) s) :=
    .foldl (fun _ _ _ => .setVersion h)
  unfold State.abortVersions
  dsimp only []
  split
  · exact k
  · split
    · exact k.trans (.after (.event e) (.setObj g (by omega)))
    · exact k

/-- The entries that an abort counts and shows itself in. -/
def abortEntries : List Nat := [0x2404, 0x2600, 0x3000, 0x3001, 0x301D, 0x3037, 0x303E]

/-- An abort leaves every other entry. -/
theorem KeepsEntry.abortStep {c : BitVec 16} (h : i ∉ abortEntries) : KeepsEntry i s (s.abortStep c) := by
  simp only [abortEntries, List.mem_cons, List.not_mem_nil, or_false, not_or] at h
  obtain ⟨h1, h2, h3, h4, h5, h6, h7⟩ := h
  by_cases l : s.stepLive = true
  · rw [State.abortStep_live l]
    have settle : KeepsEntry i s (s.abortSettled c) :=
      .after (.abortVersions h6 h2 h3) (.after (.event h3) (.after (.endWaits h5 h7) (.abortRebuilds h1)))
    refine .after (.of_od State.flood_od) (.after (.addObj h4 (by omega)) (.after (.of_od rfl) settle))
  · refine .of_od ?_
    unfold State.stepLive at l
    unfold State.abortStep
    split
    · rfl
    · rfl
    · simp_all
    · simp_all

theorem KeepsEntry.abortWith {c : BitVec 16} {n : Nat} {d : Bytes} (h : i ∉ abortEntries) :
    KeepsEntry i s (s.abortWith c n d) :=
  .after (.abortStep h) (.event (fun e => h (e ▸ by decide)))

end Entry

/-! ### Memory and cores -/

/-- Two states have the same memory, seen through the same map and plan. -/
structure SameStore (s t : State) : Prop where
  mem : t.mem = s.mem
  coreMap : t.coreMap = s.coreMap
  plan : t.plan = s.plan

theorem SameStore.refl (s : State) : SameStore s s := ⟨rfl, rfl, rfl⟩

theorem SameStore.trans (h : SameStore s t) (g : SameStore t u) : SameStore s u :=
  ⟨g.mem.trans h.mem, g.coreMap.trans h.coreMap, g.plan.trans h.plan⟩

theorem SameStore.phys (h : SameStore s t) (a : Nat) : t.phys a = s.phys a := by
  unfold State.phys
  rw [h.coreMap]

theorem SameStore.foldl {α : Type} {f : State → α → State} (h : ∀ b x, SameStore b (f b x)) (l : List α) :
    SameStore s (l.foldl f s) := by
  induction l generalizing s with
  | nil => exact .refl s
  | cons x l ih => exact (h s x).trans ih

theorem OnlySends.sameStore (h : OnlySends s t) : SameStore s t := by
  unfold OnlySends at h
  rw [h]
  exact ⟨rfl, rfl, rfl⟩

theorem SameStore.mgmtEvent {c : BitVec 16} {d : Bytes} : SameStore s (s.mgmtEvent c d) := OnlySends.mgmtEvent.sameStore

theorem SameStore.abortRebuilds : SameStore s s.abortRebuilds := by
  unfold State.abortRebuilds
  split
  · exact .refl s
  · exact .foldl (f := fun s m => s.setSync m true) (fun _ _ => ⟨rfl, rfl, rfl⟩) _

theorem SameStore.endWaits : SameStore s s.endWaits := by
  refine .foldl (fun b c => ?_) _
  dsimp only []
  split <;> split <;> exact ⟨rfl, rfl, rfl⟩

/-- What writing a run of bytes makes of memory. -/
theorem State.writeRun_mem (s : State) (a : Nat) (b : Bytes) :
    (s.writeRun a b).mem = (s.phys a).elim s.mem (fun p => memWrite s.mem p b) := by
  unfold State.writeRun
  dsimp only []
  split
  · next h =>
    rw [h]
    rfl
  · next p h =>
    rw [h]
    split
    · exact (SameStore.foldl (f := fun s w => s.addObj 0x3037 (hbmDecode w).1 1) (fun _ _ => ⟨rfl, rfl, rfl⟩) _).mem
    · rfl

theorem OnlyStores.fixed (h : OnlyStores s t) : t.coreMap = s.coreMap ∧ t.plan = s.plan := by
  unfold OnlyStores at h
  rw [h]
  exact ⟨rfl, rfl⟩

theorem SameStore.writeRun {a : Nat} {b : Bytes} (h : SameStore s t) : SameStore (s.writeRun a b) (t.writeRun a b) where
  mem := by
    rw [State.writeRun_mem, State.writeRun_mem, h.phys, h.mem]
  coreMap := by rw [OnlyStores.writeRun.fixed.1, OnlyStores.writeRun.fixed.1, h.coreMap]
  plan := by rw [OnlyStores.writeRun.fixed.2, OnlyStores.writeRun.fixed.2, h.plan]

theorem SameStore.setVersion {v sl b n : Nat} (h : SameStore s t) : SameStore (s.setVersion v sl b n) (t.setVersion v sl b n) := by
  unfold State.setVersion
  rw [h.plan]
  split
  · exact h
  · exact h.writeRun.writeRun

theorem SameStore.foldl_setVersion (h : SameStore s t) (l : List (Nat × Nat × Nat × Nat × Nat)) :
    SameStore (l.foldl (fun s v => s.setVersion v.1 v.2.1 v.2.2.1 (2 ^ 64 - 1)) s)
      (l.foldl (fun s v => s.setVersion v.1 v.2.1 v.2.2.1 (2 ^ 64 - 1)) t) := by
  induction l generalizing s t with
  | nil => exact h
  | cons v l ih => exact ih h.setVersion

end Sys2Proof.Machine
end

section
/-! SUPPORT. Routed flits that pass through this module, and those of another epoch (O25). -/

namespace Sys2Proof.Machine

variable {s t u : State} {p : Port} {f : Flit}

/-! ### Tables by key -/

section Keys
variable {κ β : Type} [DecidableEq κ]

@[simp] theorem lookupKey_setKey_self (k : κ) (v : β) (l : List (κ × β)) : lookupKey k (setKey k v l) = some v := by
  induction l with
  | nil => simp [setKey, lookupKey]
  | cons e l ih =>
    by_cases h : e.1 = k
    · simp [setKey, lookupKey, h]
    · simp [setKey, lookupKey, h, ih]

theorem lookupKey_addKey_self (k : κ) (l : List (κ × Nat)) : lookupKey k (addKey k 1 l) = some ((lookupKey k l).getD 0 + 1) := by
  simp [addKey]

end Keys

theorem State.fenceHit_counts {i j : Nat} :
    lookupKey j (s.fenceHit i j).fenceErrors = some ((lookupKey j s.fenceErrors).getD 0 + 1) ∧
      lookupKey i (s.fenceHit i j).errorReplies = some ((lookupKey i s.errorReplies).getD 0 + 1) :=
  ⟨lookupKey_addKey_self _ _, lookupKey_addKey_self _ _⟩

/-! ### Forwarding -/

/-- The port that the route of a flit names next (R395). -/
def nextPort (f : Flit) : Port := ⟨(f.path >>> (5 * f.hopptr)).toNat % 32, by omega⟩

/-- What the discard of a flit that cannot go on counts and logs (R395). -/
def State.discards (s : State) (i : Nat) (f : Flit) : State :=
  (s.addObj 0x3046 1 1).event 0x6105 i (toLe 1 (nextPort f).val ++ toLe 2 f.dst.toNat)

theorem State.discards_count {i : Nat} (w : Assoc.wf objDefault s.od = true) :
    (s.discards i f).obj 0x3046 1 = min (2 ^ 32 - 1) (s.obj 0x3046 1 + 1) := by
  unfold State.discards
  rw [(State.event_onlyLogs (State.addObj_wf w _ _ _) _ _ _).objects _ _ (by decide) (by decide), State.obj_addObj w]
  rfl

theorem OnlyPorts.fences (h : OnlyPorts s t) : t.fenceErrors = s.fenceErrors ∧ t.errorReplies = s.errorReplies := by
  rw [h]
  exact ⟨rfl, rfl⟩

theorem OnlyPorts.isFenced (h : OnlyPorts s t) (i : Nat) : t.isFenced i = s.isFenced i := by
  rw [h]
  rfl

theorem State.freeBuffer_ports {o : Option Port} {v : Fin 4} (h : t.ports = s.ports) :
    (t.freeBuffer o v).ports = (s.freeBuffer o v).ports := by
  cases o with
  | none => exact h
  | some p =>
    unfold State.freeBuffer State.modPort
    rw [h]

section Forwarding
variable {src : Option Port} {i : Nat} {ft : BitVec 8}

theorem State.forward_up (h : f.hopptr < 12) (up : s.ports[nextPort f].st.isUp = true) :
    s.forward src i ft f = s.sendSeq src (nextPort f) ft { f with hopptr := f.hopptr + 1 } := by
  unfold State.forward
  dsimp only []
  rw [if_neg]
  · rfl
  · simpa [h, nextPort] using up

theorem State.forward_discards (h : 12 ≤ f.hopptr ∨ s.ports[nextPort f].st.isUp = false) : s.forward src i ft f =
    ((if f.hopptr < 12 ∧ s.isFenced (0x50 + (nextPort f).val) = true then s.fenceHit i (0x50 + (nextPort f).val) else s).discards
      i f).freeBuffer src f.vc := by
  unfold State.forward
  dsimp only []
  rw [if_pos (by simpa [nextPort] using h)]
  simp only [Bool.and_eq_true, decide_eq_true_eq]
  rfl

/-- A flit that cannot go on frees its buffer, and is counted and logged (R395). -/
theorem State.forward_discarded (w : Assoc.wf objDefault s.od = true) (h : 12 ≤ f.hopptr ∨ s.ports[nextPort f].st.isUp = false) :
    (s.forward src i ft f).ports = (s.freeBuffer src f.vc).ports ∧
      (s.forward src i ft f).obj 0x3046 1 = min (2 ^ 32 - 1) (s.obj 0x3046 1 + 1) ∧
      Logged s (s.forward src i ft f) 0x6105 i (toLe 1 (nextPort f).val ++ toLe 2 f.dst.toNat) := by
  have drop (v : State) (hp : v.ports = s.ports) (ho : v.od = s.od) (hl : v.log = s.log) (hg : v.gc = s.gc) :
      let t := (v.discards i f).freeBuffer src f.vc
      t.ports = (s.freeBuffer src f.vc).ports ∧ t.obj 0x3046 1 = min (2 ^ 32 - 1) (s.obj 0x3046 1 + 1) ∧
        Logged s t 0x6105 i (toLe 1 (nextPort f).val ++ toLe 2 f.dst.toNat) := by
    have only : OnlyPorts (v.discards i f) ((v.discards i f).freeBuffer src f.vc) := OnlyPorts.freeBuffer
    refine ⟨?_, ?_, ?_⟩
    · refine State.freeBuffer_ports (Eq.trans ?_ hp)
      unfold State.discards
      rw [State.event_frame]
      rfl
    · rw [only.obj, State.discards_count (by rw [ho]; exact w)]
      unfold State.obj
      rw [ho]
    · have l : Logged v (v.discards i f) 0x6105 i (toLe 1 (nextPort f).val ++ toLe 2 f.dst.toNat) :=
        State.event_logged (s := v.addObj 0x3046 1 1) _ _ (by simp [toLe_length])
      rw [only]
      unfold Logged at l ⊢
      rwa [hl, hg] at l
  rw [State.forward_discards h]
  split
  · exact drop _ rfl rfl rfl rfl
  · exact drop _ rfl rfl rfl rfl

/-- The fence of a port that is mapped out counts the flit it discards, and answers its sender (R28). -/
theorem State.forward_fenced (h : f.hopptr < 12) (down : s.ports[nextPort f].st.isUp = false)
    (fence : s.isFenced (0x50 + (nextPort f).val) = true) :
    lookupKey (0x50 + (nextPort f).val) (s.forward src i ft f).fenceErrors =
        some ((lookupKey (0x50 + (nextPort f).val) s.fenceErrors).getD 0 + 1) ∧
      lookupKey i (s.forward src i ft f).errorReplies = some ((lookupKey i s.errorReplies).getD 0 + 1) := by
  rw [State.forward_discards (.inr down), if_pos ⟨h, fence⟩, OnlyPorts.freeBuffer]
  unfold State.discards
  rw [State.event_frame]
  exact State.fenceHit_counts

end Forwarding

/-- A routed flit for another module goes on (R395). -/
theorem State.routed_elsewhere {ft : BitVec 8} {act : State → State} (v : s.obj 0x1104 1 ≠ 0) (d : f.dst ≠ s.nodeId) :
    s.routed p ft f act = s.forward (some p) (portIsland p) ft f := by
  unfold State.routed
  rw [if_pos (by simp [v, d])]

/-- The routed flits, and the instruction that receives each. -/
theorem exec_routed (s : State) (p : Port) (f : Flit) {x : BitVec 8 × Instr}
    (h : x ∈ [((0x01 : BitVec 8), Instr.writeHead p f), (0x02, .data p f), (0x03, .writeAck p f), (0x04, .tally p f),
      (0x07, .agree p f), (0x0D, .mgmt p f)]) : ∃ act, exec x.2 s = s.seqFlit p f (fun s => s.routed p x.1 f act) := by
  simp only [List.mem_cons, List.not_mem_nil, or_false] at h
  rcases h with rfl | rfl | rfl | rfl | rfl | rfl
  all_goals exact ⟨_, rfl⟩

/-- The routed flits between sequencers are routed flits other than `MGMT`. -/
theorem exec_routed_sequencer {c : Instr} (h : c ∈ [Instr.writeHead p f, .data p f, .writeAck p f, .tally p f, .agree p f]) :
    ∃ x ∈ [((0x01 : BitVec 8), Instr.writeHead p f), (0x02, .data p f), (0x03, .writeAck p f), (0x04, .tally p f),
      (0x07, .agree p f), (0x0D, .mgmt p f)], x.1 ≠ 0x0D ∧ x.2 = c := by
  simp only [List.mem_cons, List.not_mem_nil, or_false] at h
  rcases h with rfl | rfl | rfl | rfl | rfl <;> simp

/-! ### Flits of another epoch -/

/-- A routed flit of another configuration is counted, and aborts the step (R396). -/
theorem State.routed_otherEpoch {ft : BitVec 8} {act : State → State} (v : s.obj 0x1104 1 ≠ 0) (d : f.dst = s.nodeId)
    (e : s.epochOk f = false) (m : ft ≠ 0x0D) : (s.taken p f).routed p ft f act =
      ((s.delivered p f).addObj 0x3046 0 1).abortWith 0x6104 (portIsland p) (toLe 1 p.val ++ toLe 2 f.src.toNat) := by
  have k : OnlyPorts s (s.taken p f) := OnlyPorts.taken
  have g : OnlyPorts s (s.delivered p f) := OnlyPorts.delivered
  unfold State.routed
  rw [k.obj, k.nodeId, if_neg (by simp [d])]
  change (if (s.delivered p f).obj 0x1104 1 = 0 then _ else if _ && !(s.delivered p f).epochOk f then _ else _) = _
  rw [g.obj, if_neg v, g.epochOk, e, if_pos (by simpa using m)]
  rfl

/-! ### What an abort leaves -/

/-- Without a step to drop, an abort notes its cause alone. -/
theorem State.abortStep_still {c : BitVec 16} (h : s.stepLive = false) :
    s.abortStep c = { s with step := (s.abortStep c).step } := by
  unfold State.stepLive at h
  unfold State.abortStep
  split
  · rfl
  · rfl
  · simp_all
  · simp_all

theorem State.abortStep_cores {c : BitVec 16} (h : s.stepLive = true) :
    (s.abortStep c).cores = vmap CoreState.aborted s.cores := by
  rw [State.abortStep_sends h]
  rfl

theorem State.abortVersions_mem : s.abortVersions.mem =
    (s.step.versions.foldl (fun s v => s.setVersion v.1 v.2.1 v.2.2.1 (2 ^ 64 - 1)) s).mem := by
  unfold State.abortVersions
  dsimp only []
  split
  · rfl
  · split
    · exact (SameStore.mgmtEvent (s := State.setObj _ _ _ _)).mem
    · rfl

/-- Memory after an abort differs by the version entries that it marks (R321). -/
theorem State.abortStep_mem {c : BitVec 16} (h : s.stepLive = true) : (s.abortStep c).mem =
    (s.step.versions.foldl (fun s v => s.setVersion v.1 v.2.1 v.2.2.1 (2 ^ 64 - 1)) s).mem := by
  rw [State.abortStep_sends h]
  refine State.abortVersions_mem.trans ?_
  have k : SameStore s (s.abortRebuilds.endWaits.mgmtEvent 0x4106 (toLe 2 c.toNat)) :=
    SameStore.abortRebuilds.trans (SameStore.endWaits.trans SameStore.mgmtEvent)
  have step : (s.abortRebuilds.endWaits.mgmtEvent 0x4106 (toLe 2 c.toNat)).step = s.step :=
    (OnlyStores.endWaits.trans OnlyStores.mgmtEvent).step.trans State.abortRebuilds_step
  rw [step]
  exact (k.foldl_setVersion _).mem

theorem OnlySends.step (h : OnlySends s t) : t.step = s.step := by
  unfold OnlySends at h
  rw [h]

theorem OnlySends.stepLive (h : OnlySends s t) : t.stepLive = s.stepLive := by
  unfold State.stepLive
  rw [h.step]

/-- An abort without a step to drop, after what only sends and logs, leaves memory and records. -/
theorem OnlySends.abort_still {c : BitVec 16} (h : OnlySends s t) (still : s.stepLive = false) :
    (t.abortStep c).mem = s.mem ∧ (t.abortStep c).poison = s.poison ∧ (t.abortStep c).cores = s.cores ∧
      (t.abortStep c).signals = s.signals ∧ (t.abortStep c).rounds = s.rounds ∧ (t.abortStep c).outbound = s.outbound := by
  rw [State.abortStep_still (h.stepLive.trans still)]
  unfold OnlySends at h
  rw [h]
  exact ⟨rfl, rfl, rfl, rfl, rfl, rfl⟩

/-- The abort of a step leaves the same memory and cores whatever was sent and logged before it. -/
theorem OnlySends.abort_live {c : BitVec 16} (h : OnlySends s t) (live : s.stepLive = true) :
    (t.abortStep c).step.status = .aborted ∧ (t.abortStep c).step.causes = s.step.causes ++ [c] ∧
      (t.abortStep c).mem = (s.abortStep c).mem ∧ (t.abortStep c).cores = (s.abortStep c).cores ∧
      (t.abortStep c).signals = [] ∧ (t.abortStep c).outbound = [] := by
  have l : t.stepLive = true := h.stepLive.trans live
  obtain ⟨hs, hc⟩ := State.abortStep_status (c := c) l
  obtain ⟨-, -, hsig, hout⟩ := State.abortStep_idle (c := c) l 0
  refine ⟨hs, by rw [hc, h.step], ?_, ?_, hsig, hout⟩
  · rw [State.abortStep_mem l, State.abortStep_mem live, h.step]
    exact (h.sameStore.foldl_setVersion _).mem
  · rw [State.abortStep_cores l, State.abortStep_cores live]
    unfold OnlySends at h
    rw [h]

end Sys2Proof.Machine

open Sys2Proof Sys2Proof.Machine

/-- Settles O25: a flit for another module is forwarded or discarded, and one of another epoch aborts the step. -/
theorem routedFlitsAreForwarded : Obligations.RoutedFlitsAreForwarded := by
  refine ⟨fun s p f inv o valid dst x hx => ?_, fun s p f inv o valid dst epoch c hc => ?_⟩
  · obtain ⟨act, e⟩ := exec_routed s p f hx
    have k : OnlyPorts s (s.taken p f) := OnlyPorts.taken
    rw [State.seqFlit_inOrder o, State.routed_elsewhere (by rwa [k.obj]) (by rwa [k.nodeId])] at e
    refine ⟨_, e, k.sends.trans OnlySends.forward, fun q hq => ?_⟩
    obtain rfl : q = nextPort f := Fin.ext hq
    refine ⟨fun h up => State.forward_up h up, fun h => ?_, fun h fence down => ?_⟩
    · obtain ⟨hp, ho, hl⟩ := State.forward_discarded (src := some p) (i := 0x50 + p.val) (ft := x.1)
        (k.inv inv).objects h
      exact ⟨hp, by rw [← k.obj]; exact ho, k.logged hl⟩
    · have hit := State.forward_fenced (src := some p) (i := 0x50 + p.val) (ft := x.1) h down (by rwa [k.isFenced])
      rwa [k.fences.1, k.fences.2] at hit
  · have e : exec c s = .next (((s.delivered p f).addObj 0x3046 0 1).abortWith 0x6104 (portIsland p)
        (toLe 1 p.val ++ toLe 2 f.src.toNat)) := by
      obtain ⟨x, hx, m, rfl⟩ := exec_routed_sequencer hc
      obtain ⟨act, e⟩ := exec_routed s p f hx
      rw [e, State.seqFlit_inOrder o, State.routed_otherEpoch valid dst epoch m]
    have k : OnlyPorts s (s.delivered p f) := OnlyPorts.delivered
    have counted : OnlySends s ((s.delivered p f).addObj 0x3046 0 1) := k.sends.trans OnlySends.addObj
    have logged : OnlySends s (((s.delivered p f).addObj 0x3046 0 1).event 0x6104 (portIsland p)
      (toLe 1 p.val ++ toLe 2 f.src.toNat)) := counted.trans OnlySends.event
    refine ⟨_, e, counted.aborts.trans OnlyAborts.abortWith, ?_, ?_, fun still => ?_, fun live => ?_⟩
    · rw [(KeepsEntry.abortWith (by decide) (State.addObj_wf (k.inv inv).objects _ _ _)).2 _ (by decide),
        State.obj_addObj (k.inv inv).objects, k.obj]
      rfl
    · exact k.logged (State.abortWith_logged (s := (s.delivered p f).addObj 0x3046 0 1) (by simp [toLe_length]))
    · exact logged.abort_still still
    · have same : OnlySends (s.delivered p f) (((s.delivered p f).addObj 0x3046 0 1).event 0x6104 (portIsland p)
        (toLe 1 p.val ++ toLe 2 f.src.toNat)) := OnlySends.addObj.trans OnlySends.event
      obtain ⟨hs, hc, hm, hcores, hsig, hout⟩ := same.abort_live (c := 0x6104) (k.stepLive.trans live)
      exact ⟨hs, by rwa [State.delivered_step] at hc, hm, hcores, hsig, hout⟩
end

section
/-! SUPPORT. Remote writes at the module that receives them (O26). -/

namespace Sys2Proof.Machine

variable {s t u : State} {p : Port} {f : Flit}

/-! ### What taking a flit leaves of remote writes -/

@[simp] theorem State.delivered_mayWrite (a n : Nat) : (s.delivered p f).mayWrite a n = s.mayWrite a n := by
  rw [OnlyPorts.delivered]; rfl
@[simp] theorem State.delivered_transfer (src : BitVec 16) (xid : Nat) :
    (s.delivered p f).transfer src xid = s.transfer src xid := by
  rw [OnlyPorts.delivered]; rfl
@[simp] theorem State.delivered_holdsWrite (a : Nat) : (s.delivered p f).holdsWrite a = s.holdsWrite a := by
  rw [OnlyPorts.delivered]; rfl
@[simp] theorem State.delivered_stackOut (a n : Nat) : (s.delivered p f).stackOut a n = s.stackOut a n := by
  rw [OnlyPorts.delivered]; rfl

/-! ### Transfers -/

/-- A transfer that is found is one of its sender and its ID. -/
theorem State.transfer_some {src : BitVec 16} {xid : Nat} {x : Inbound} (h : s.transfer src xid = some x) :
    x.src = src ∧ x.xid = xid := by
  simpa using List.find?_some h

theorem State.transfer_dropTransfer (s : State) (src : BitVec 16) (xid : Nat) :
    (s.dropTransfer src xid).transfer src xid = none := by
  unfold State.transfer State.dropTransfer
  rw [List.find?_eq_none]
  intro x hx
  obtain ⟨-, other⟩ := List.mem_filter.1 hx
  simpa [imp_iff_not_or] using other

/-- Ending a transfer changes no memory: it only acknowledges, or forgets it. -/
theorem State.endTransfer_mem (x : Inbound) : (s.endTransfer x).mem = s.mem := by
  unfold State.endTransfer
  dsimp only []
  split
  · rfl
  · split
    · rfl
    · exact (OnlySends.sendRouted (s := s.dropTransfer x.src x.xid)).sameStore.mem

/-- Bytes that no sparing holds are written where they land. -/
theorem State.land_free {a : Nat} {b : Bytes} (h : s.holdsWrite a = false) : s.land a b = s.writeRun a b := by
  unfold State.land
  rw [if_neg (by simp [h])]

/-- A step is aborted by the cause of an abort, whatever stands beside the step. -/
theorem State.abortWith_status {c : BitVec 16} {i : Nat} {d : Bytes} (h : t.step = s.step) (live : s.stepLive = true) :
    (t.abortWith c i d).step.status = .aborted ∧ (t.abortWith c i d).step.causes = s.step.causes ++ [c] := by
  have e : (t.event c i d).step = s.step := OnlySends.event.step.trans h
  rw [← e]
  exact State.abortStep_status (s := t.event c i d) (by unfold State.stepLive at live ⊢; rwa [e])

/-- A transfer that may not land, as its head leaves it: its data are discarded. -/
def State.discarding (s : State) (f : Flit) : State :=
  { s.dropTransfer f.src (f.xinfo.toNat / 65536) with
      inbound := s.inbound.filter (fun t => !(t.src = f.src && t.xid = f.xinfo.toNat / 65536)) ++
        [⟨f.src, f.xinfo.toNat / 65536, fieldAt f.payload 0 6, fieldAt f.payload 8 4, [], true⟩] }

/-- A module that has noted the arrival of a data flit of a transfer. -/
def State.arrived (s : State) (x : Inbound) (f : Flit) : State :=
  { s with inbound := s.inbound.map (fun (y : Inbound) => if y.src = x.src && y.xid = f.xinfo.toNat / 65536 then
      { x with got := x.got ++ [f.xinfo.toNat % 65536] } else y) }

/-- Data that a fence refuses change the transfers and the fence's counts alone. -/
theorem State.refused_frame (s : State) (x : Inbound) (f : Flit) (i n : Nat) :
    let t := ((s.arrived x f).fenceHit i n).dropTransfer x.src x.xid
    t.mem = s.mem ∧ t.out = s.out ∧ t.fenceErrors = addKey n 1 s.fenceErrors ∧ t.errorReplies = addKey i 1 s.errorReplies :=
  ⟨rfl, rfl, rfl, rfl⟩

/-! ### The flits of a remote write -/

section Flits
variable (o : InOrder s p f) (h : ForHere s f)
include o h

theorem execWriteHead_opens (w : s.mayWrite (fieldAt f.payload 0 6) (fieldAt f.payload 8 4) = true) :
    execWriteHead p f s = .next { (s.delivered p f).dropTransfer f.src (f.xinfo.toNat / 65536) with
      inbound := s.inbound.filter (fun t => !(t.src = f.src && t.xid = f.xinfo.toNat / 65536)) ++
        [⟨f.src, f.xinfo.toNat / 65536, fieldAt f.payload 0 6, fieldAt f.payload 8 4, [], false⟩] } := by
  have e : ((s.delivered p f).dropTransfer f.src (f.xinfo.toNat / 65536)).mayWrite (fieldAt f.payload 0 6)
      (fieldAt f.payload 8 4) = true := (State.delivered_mayWrite _ _).trans w
  unfold execWriteHead
  rw [State.seqFlit_forHere o h]
  dsimp only []
  rw [if_pos e]
  simp [State.dropTransfer]

theorem execWriteHead_discards (w : s.mayWrite (fieldAt f.payload 0 6) (fieldAt f.payload 8 4) = false) :
    execWriteHead p f s = .next (((s.delivered p f).discarding f).abortWith 0x4801 (portIsland p)
      (toLe 2 f.src.toNat ++ toLe 6 (fieldAt f.payload 0 6))) := by
  have e : ((s.delivered p f).dropTransfer f.src (f.xinfo.toNat / 65536)).mayWrite (fieldAt f.payload 0 6)
      (fieldAt f.payload 8 4) = false := (State.delivered_mayWrite _ _).trans w
  unfold execWriteHead
  rw [State.seqFlit_forHere o h]
  dsimp only []
  rw [if_neg (by simp [e])]
  rfl

theorem execData_again {x : Inbound} (e : s.transfer f.src (f.xinfo.toNat / 65536) = some x)
    (g : f.xinfo.toNat % 65536 ∈ x.got) : execData p f s = .next (s.delivered p f) := by
  unfold execData
  rw [State.seqFlit_forHere o h]
  simp [e, g]

theorem execData_new {x : Inbound} (e : s.transfer f.src (f.xinfo.toNat / 65536) = some x) (d : x.discard = false)
    (g : f.xinfo.toNat % 65536 ∉ x.got) (l : 224 * (f.xinfo.toNat % 65536) < x.len) :
    let i := f.xinfo.toNat % 65536
    let room := min 224 (x.len - 224 * i)
    (s.stackOut (x.addr + 224 * i) room = none → execData p f s = .next
      ((((s.delivered p f).arrived x f).land (x.addr + 224 * i) (f.payload.take room)).endTransfer
        { x with got := x.got ++ [i] })) ∧
    (∀ n, s.stackOut (x.addr + 224 * i) room = some n → execData p f s = .next
      ((((s.delivered p f).arrived x f).fenceHit (portIsland p) n).dropTransfer x.src x.xid)) := by
  have out (a n : Nat) : ((s.delivered p f).arrived x f).stackOut a n = s.stackOut a n := State.delivered_stackOut a n
  unfold execData
  rw [State.seqFlit_forHere o h]
  dsimp only []
  rw [State.delivered_transfer, e]
  dsimp only []
  rw [if_neg (by simp [g, l]), if_neg (by simp [d])]
  refine ⟨fun n => ?_, fun n y => ?_⟩
  · change Host.Outcome.next (match ((s.delivered p f).arrived x f).stackOut _ _ with
      | some _ => _
      | none => _) = _
    rw [out, n]
    rfl
  · change Host.Outcome.next (match ((s.delivered p f).arrived x f).stackOut _ _ with
      | some _ => _
      | none => _) = _
    rw [out, y]
    rfl

end Flits

end Sys2Proof.Machine

open Sys2Proof Sys2Proof.Machine

/-- Settles O26: the three flits of a remote write, each on the module that has taken it. -/
theorem remoteWritesLand : Obligations.RemoteWritesLand := by
  intro s p f inv o h xid i a n
  refine ⟨?_, ?_, ?_, ?_, ?_⟩
  · intro w
    exact ⟨_, execWriteHead_opens o h w, State.delivered_mem (s := s) (p := p) (f := f),
      State.delivered_step (s := s) (p := p) (f := f), rfl⟩
  · intro w
    have k : OnlyAborts ((s.delivered p f).discarding f) _ :=
      OnlyAborts.abortWith (c := 0x4801) (i := portIsland p) (d := toLe 2 f.src.toNat ++ toLe 6 a)
    refine ⟨_, execWriteHead_discards o h w, ⟨⟨f.src, xid, a, n, [], true⟩, ?_, rfl, rfl, rfl⟩, fun live => ?_⟩
    · rw [k]
      exact List.mem_append_right _ (List.mem_singleton_self _)
    · exact State.abortWith_status (t := (s.delivered p f).discarding f) (State.delivered_step (s := s) (p := p) (f := f)) live
  · intro x e d g l
    obtain ⟨lands, refused⟩ := execData_new o h e d g l
    have same : SameStore s ((s.delivered p f).arrived x f) :=
      .trans (OnlyPorts.delivered (s := s) (p := p) (f := f)).sends.sameStore ⟨rfl, rfl, rfl⟩
    refine ⟨fun held out => ⟨_, lands out, ?_⟩, fun r out => ⟨_, refused r out, ?_⟩⟩
    · have free : ((s.delivered p f).arrived x f).holdsWrite (x.addr + 224 * i) = false := (State.delivered_holdsWrite _).trans held
      rw [State.endTransfer_mem, State.land_free free]
      exact same.writeRun.mem
    · obtain ⟨hsrc, hxid⟩ := State.transfer_some e
      obtain ⟨hm, ho, hf, hr⟩ := State.refused_frame (s.delivered p f) x f (portIsland p) r
      refine ⟨hm.trans State.delivered_mem, ho, ?_, ?_, ?_⟩
      · rw [hsrc, hxid]
        exact State.transfer_dropTransfer _ _ _
      · rw [hf, State.delivered_fenceErrors]
        exact lookupKey_addKey_self _ _
      · rw [hr, State.delivered_errorReplies]
        exact lookupKey_addKey_self _ _
  · intro x e g
    exact execData_again o h e g
  · exact ⟨_, State.seqFlit_forHere o h _ _, State.delivered_mem (s := s) (p := p) (f := f),
      congrArg (List.filter _) State.delivered_outbound⟩
end

section
/-! SUPPORT. How a checkpoint restore ends (O42). -/

namespace Sys2Proof.Machine

variable {s t u : State} {x : Restore} {p : Plan} {c : CkptTable}

theorem exec_ckptRestoreDone (b : Option Bytes) (a : s.awake = true) (e : s.restore = some x) :
    exec (.ckptRestoreDone b) s = .next (s.runRestore x b) := by
  change execCkptRestoreDone b s = _
  unfold execCkptRestoreDone
  rw [e]
  exact if_pos a

/-! ### A restore that fails -/

/-- A restore that has failed, before it says so (R507). -/
def State.unrestored (s : State) : State := { s with restore := none, step := { s.step with status := .aborted } }

theorem State.failRestore_eq (s : State) : s.failRestore = (s.unrestored.mgmtEvent 0x4B01 []).setObj 0x5023 1 3 := rfl

/-- What a failed restore shows (R507). -/
theorem State.failRestore_shows (w : Assoc.wf objDefault s.od = true) :
    s.failRestore.restore = none ∧ s.failRestore.step.status = .aborted ∧ s.failRestore.mem = s.mem ∧
      s.failRestore.obj 0x5023 1 = 3 ∧ Logged s s.failRestore 0x4B01 s.mgmtIsland [] := by
  have only : OnlySends s.unrestored s.failRestore := OnlySends.mgmtEvent.trans OnlySends.setObj
  have logged : Kept false s.unrestored (s.unrestored.mgmtEvent 0x4B01 []) := Kept.mgmtEvent (Kept.refl _)
  refine ⟨?_, ?_, only.sameStore.mem, ?_, State.event_logged (s := s.unrestored) _ _ (by simp)⟩
  · unfold OnlySends at only
    rw [only]
    rfl
  · rw [only.step]
    rfl
  · rw [State.failRestore_eq, State.obj_setObj (logged.objects w), if_pos rfl]

theorem State.runRestore_unpulled (h : s.plan = none ∨ (∃ p c, s.plan = some p ∧ p.ckpt = some c ∧ x.pulling = true)) :
    s.runRestore x none = s.failRestore := by
  unfold State.runRestore
  rcases h with h | ⟨p, c, hp, hc, hx⟩
  · rw [h]
  · simp [hp, hc, hx]

section Local
variable (hp : s.plan = some p) (hc : p.ckpt = some c) (hx : x.pulling = false)
include hp hc hx

theorem State.runRestore_out {o : Nat} (h : s.stackOut (c.slot c.localBase (p.ckptSlot x.step)) c.slotBytes = some o) :
    s.runRestore x none = s.failRestore := by
  unfold State.runRestore
  simp [hp, hc, hx, h]

theorem State.runRestore_differs (h : s.stackOut (c.slot c.localBase (p.ckptSlot x.step)) c.slotBytes = none)
    (e : s.writeBack p c (c.slot c.localBase (p.ckptSlot x.step)) x.step p.streams = (u, false)) :
    s.runRestore x none = u.failRestore := by
  unfold State.runRestore
  simp [hp, hc, hx, h, e]

theorem State.runRestore_holds (h : s.stackOut (c.slot c.localBase (p.ckptSlot x.step)) c.slotBytes = none)
    (e : s.writeBack p c (c.slot c.localBase (p.ckptSlot x.step)) x.step p.streams = (u, true)) :
    s.runRestore x none =
      (if Config.buddyHolds p.imageDigest x.step = true then u else u.remirror p c x.step).finishRestore p x.step := by
  unfold State.runRestore
  simp [hp, hc, hx, h, e]

end Local

/-- A slot pulled from the buddy becomes the local one, and is restored from (R507 step 3). -/
theorem State.runRestore_pulled {b : Bytes} (hp : s.plan = some p) (hc : p.ckpt = some c) (hx : x.pulling = true)
    (hb : b.length = c.slotBytes) (hr : p.streams = [])
    (h : s.stackOut (c.slot c.localBase (p.ckptSlot x.step)) c.slotBytes = none) :
    s.runRestore x (some b) = (s.adoptSlot p c x.step b).finishRestore p x.step := by
  have out : (s.adoptSlot p c x.step b).stackOut (c.slot c.localBase (p.ckptSlot x.step)) c.slotBytes = none := by
    have k : OnlyStores s (s.adoptSlot p c x.step b) :=
      OnlyStores.writeRun.trans (OnlyStores.setObj.trans OnlyStores.setObj)
    rw [k]
    exact h
  unfold State.runRestore
  simp [hp, hc, hx, hb, hr, out, State.writeBack]

/-! ### A restore that ends -/

/-- The state in which a restore's slots are returned: the module is idle before the checkpoint's step (R507 step 5). -/
def State.rewound (s : State) (p : Plan) (t : Nat) : State :=
  { s with restore := none, syncFlags := (p.weightSets.filter WeightSet.masked).map WeightSet.matrix
           step := { s.step with current := (t + 2 ^ 64 - 1) % 2 ^ 64, status := .idle, causes := [], relaunches := 0 } }

theorem State.rewound_keeps (s : State) (p : Plan) (t : Nat) : (s.rewound p t).od = s.od ∧ (s.rewound p t).mem = s.mem := by
  unfold State.rewound
  exact ⟨rfl, rfl⟩

/-- The versions that the restored version tables show (R321). -/
def State.versionsShown (s : State) (p : Plan) : State :=
  p.weightSets.zipIdx.foldl (fun s (w, i) => s.setObj 0x2601 i (s.restoredVersion w)) s

theorem State.finishRestore_eq (s : State) (p : Plan) (t : Nat) : s.finishRestore p t =
    ((((s.rewound p t).versionsShown p).returnSlots p).setObj 0x2600 4 1).setObj 0x5023 1 2 := rfl

theorem OnlyStores.versionsShown : OnlyStores s (s.versionsShown p) :=
  OnlyStores.foldl (fun _ _ => OnlyStores.setObj) _

theorem SameStore.versionsShown : SameStore s (s.versionsShown p) :=
  SameStore.foldl (f := fun s (x : WeightSet × Nat) => s.setObj 0x2601 x.2 (s.restoredVersion x.1)) (fun _ _ => ⟨rfl, rfl, rfl⟩) _

theorem OnlyStores.returnSlots : OnlyStores s (s.returnSlots p) := by
  refine OnlyStores.foldl (fun s w => OnlyStores.foldl (fun s i => ?_) _) _
  dsimp only []
  split
  · exact OnlyStores.writeRun.trans OnlyStores.writeRun
  · exact .refl s

theorem State.returnSlots_nil (h : p.windows = []) : s.returnSlots p = s := by
  unfold State.returnSlots
  rw [h]
  rfl

/-- What a restore that ends shows (R507 step 5). -/
theorem State.finishRestore_shows (w : Assoc.wf objDefault s.od = true) (t : Nat) :
    (s.finishRestore p t).restore = none ∧ (s.finishRestore p t).step.status = .idle ∧
      (s.finishRestore p t).step.current = (t + 2 ^ 64 - 1) % 2 ^ 64 ∧ (s.finishRestore p t).obj 0x5023 1 = 2 ∧
      (s.finishRestore p t).obj 0x2600 4 = 1 := by
  have only : OnlyStores (s.rewound p t) (s.finishRestore p t) :=
    OnlyStores.versionsShown.trans (OnlyStores.returnSlots.trans (OnlyStores.setObj.trans OnlyStores.setObj))
  have versions : Kept false (s.rewound p t) ((s.rewound p t).versionsShown p) :=
    Kept.foldl (Kept.refl _) (fun _ _ => Kept.setObj) _
  have wf : Assoc.wf objDefault (((s.rewound p t).versionsShown p).returnSlots p).od = true :=
    (Kept.returnSlots versions).objects (by rwa [(s.rewound_keeps p t).1])
  refine ⟨?_, ?_, ?_, ?_, ?_⟩
  · unfold OnlyStores at only
    rw [only]
    rfl
  · rw [only.step]
    rfl
  · rw [only.step]
    rfl
  · rw [State.finishRestore_eq, State.obj_setObj (State.setObj_wf wf _ _ _), if_pos rfl]
  · rw [State.finishRestore_eq, State.obj_setObj (State.setObj_wf wf _ _ _), if_neg (by decide), State.obj_setObj wf, if_pos rfl]

/-- Without windows, the end of a restore leaves memory. -/
theorem State.finishRestore_mem (h : p.windows = []) (t : Nat) : (s.finishRestore p t).mem = s.mem := by
  rw [State.finishRestore_eq, State.returnSlots_nil h]
  exact (SameStore.versionsShown (s := s.rewound p t)).mem.trans (s.rewound_keeps p t).2

theorem SameStore.sendPiece {o : Sender} {v a : Nat} {dst : BitVec 16} {b : Bytes} : SameStore s (s.sendPiece o v dst a b) :=
  have queued (xid : Nat) (l : List Outbound) : SameStore s { s with nextXid := xid, outbound := l } := ⟨rfl, rfl, rfl⟩
  (queued _ _).trans (OnlySends.sendRouted.sameStore.trans (.foldl (fun _ _ => OnlySends.sendRouted.sameStore) _))

/-- Mirroring a slot to the buddy sends it, and leaves memory. -/
theorem SameStore.remirror {t : Nat} : SameStore s (s.remirror p c t) :=
  .foldl (fun _ _ => .sendPiece) _

/-- One stream's entry, written back, is its region's bytes where the region is not compressed (R507 step 2). -/
theorem State.writeBack_one {r : Rec} {n slot t : Nat} {d : Desc} (h : s.writeBack p c slot t [r] = (u, true))
    (hn : r.desc0 = some n) (hd : p.descAt (p.resolveRead r t n) = some d) (plain : s.compressedAt d.range.1 = none) :
    u = s.writeRun d.range.1 (s.bytes (slot + r.entryOffset) d.regionLen) := by
  have b : r.desc0.bind (fun n => p.descAt (p.resolveRead r t n)) = some d := by rw [hn]; exact hd
  unfold State.writeBack at h
  rw [b] at h
  dsimp only [] at h
  split at h
  · simp at h
  · split at h
    · have e : s.putBytes (d.fmt.bits / 8) d.range.1 (s.bytes (slot + r.entryOffset) d.regionLen) = u :=
        congrArg Prod.fst h
      rw [← e, State.putBytes, plain]
    · simp at h

/-- The end of a restore leaves the checkpoint that a slot holds, where the plan's weight sets have their entries. -/
theorem KeepsEntry.finishRestore {t : Nat} (h : p.windows = []) (n : p.weightSets.length ≤ 256) :
    KeepsEntry 0x5021 s (s.finishRestore p t) := by
  have start : KeepsEntry 0x5021 s (s.rewound p t) := .of_od (s.rewound_keeps p t).1
  have versions : KeepsEntry 0x5021 (s.rewound p t) ((s.rewound p t).versionsShown p) := by
    refine .foldl (fun b x hx => .setObj (by decide) ?_)
    have := List.snd_lt_of_mem_zipIdx hx
    omega
  rw [State.finishRestore_eq, State.returnSlots_nil h]
  exact start.trans (versions.trans (.after (.setObj (by decide) (by decide)) (.setObj (by decide) (by decide))))

theorem ckptSlot_lt (p : Plan) (t : Nat) : p.ckptSlot t < 256 := by
  unfold Plan.ckptSlot
  omega

/-- A slot pulled shows its checkpoint, and its bytes stand in it (R507 step 3). -/
theorem State.adoptSlot_holds (w : Assoc.wf objDefault s.od = true) (t : Nat) (b : Bytes) :
    Assoc.wf objDefault (s.adoptSlot p c t b).od = true ∧ (s.adoptSlot p c t b).obj 0x5021 (p.ckptSlot t) = t ∧
      (s.adoptSlot p c t b).mem = (s.writeRun (c.slot c.localBase (p.ckptSlot t)) b).mem := by
  have k := ckptSlot_lt p t
  have written : Kept false s (s.writeRun (c.slot c.localBase (p.ckptSlot t)) b) := Kept.writeRun (Kept.refl s)
  have wf := written.objects w
  refine ⟨State.setObj_wf (State.setObj_wf wf _ _ _) _ _ _, ?_, rfl⟩
  unfold State.adoptSlot
  dsimp only []
  rw [State.obj_setObj (State.setObj_wf wf _ _ _), if_neg (fun e => absurd ((objKey_inj k k).1 e).1 (by decide)),
    State.obj_setObj wf, if_pos rfl]

end Sys2Proof.Machine

open Sys2Proof Sys2Proof.Machine

/-- Settles O42: a restore fails, ends, or takes its buddy's slot first. -/
theorem restoresEnd : Obligations.RestoresEnd := by
  intro s x inv awake e
  refine ⟨?_, ?_, ?_⟩
  · intro h
    have run := exec_ckptRestoreDone none awake e
    rw [State.runRestore_unpulled h] at run
    exact ⟨_, run, State.failRestore_shows inv.objects⟩
  · intro p c u hp hc hx slot
    have run := exec_ckptRestoreDone none awake e
    refine ⟨?_, ?_⟩
    · intro o out
      rw [State.runRestore_out hp hc hx out] at run
      exact ⟨_, run, State.failRestore_shows inv.objects⟩
    · intro out
      refine ⟨?_, ?_⟩
      · intro back
        have wf := (Kept.writeBack_eq (live := false) (Kept.refl s) back).objects inv.objects
        rw [State.runRestore_differs hp hc hx out back] at run
        obtain ⟨hr, hs, -, ho, ev, hev, hcode, -⟩ := State.failRestore_shows wf
        exact ⟨_, run, hr, hs, ho, ev, hev, hcode⟩
      · intro back
        have kept : Kept false s u := Kept.writeBack_eq (Kept.refl s) back
        rw [State.runRestore_holds hp hc hx out back] at run
        have mirrored : Kept false s (if Config.buddyHolds p.imageDigest x.step = true then u else u.remirror p c x.step) :=
          .ite kept (.remirror kept)
        have same : SameStore u (if Config.buddyHolds p.imageDigest x.step = true then u else u.remirror p c x.step) := by
          split
          · exact .refl u
          · exact .remirror
        obtain ⟨h1, h2, h3, h4, h5⟩ := State.finishRestore_shows (p := p) (mirrored.objects inv.objects) x.step
        have h6 (none : p.windows = []) := (State.finishRestore_mem none x.step).trans same.mem
        refine ⟨_, run, h1, h2, h3, h4, h5, h6, fun none => ?_, fun r n d one hn hd plain => ?_⟩
        · rw [none] at back
          exact (congrArg Prod.fst back).symm
        · rw [one] at back
          rw [State.writeBack_one back hn hd plain]
  · intro p c b hp hc hx hb hr hw hn slot out
    have run := exec_ckptRestoreDone (some b) awake e
    rw [State.runRestore_pulled hp hc hx hb hr out] at run
    obtain ⟨wf, held, mem⟩ := State.adoptSlot_holds (p := p) (c := c) inv.objects x.step b
    obtain ⟨h1, h2, h3, h4, -⟩ := State.finishRestore_shows (p := p) wf x.step
    have entry := (KeepsEntry.finishRestore (t := x.step) hw hn wf).2 (p.ckptSlot x.step) (ckptSlot_lt _ _)
    exact ⟨_, run, h1, h2, h3, h4, entry.trans held, (State.finishRestore_mem hw _).trans mem⟩
end

section
/-! SUPPORT. What is told to others only adds to what is sent and to what waits, and a flood reaches every UP port (R390,
R410). -/

namespace Sys2Proof.Machine

variable {s t u : State}

theorem State.modPort_ports_self {p : Port} {f : PortState → PortState} : (s.modPort p f).ports[p] = f s.ports[p] := by
  simp [State.modPort]

theorem State.modPort_ports_other {p q : Port} {f : PortState → PortState} (h : q ≠ p) :
    (s.modPort p f).ports[q] = s.ports[q] := vmodify_other _ _ (Ne.symm h)

/-- What is sent, and what waits at each port, is only added to; the states of ports and islands stand. -/
structure Tells (s t : State) : Prop where
  out : s.out <+: t.out
  waits : ∀ q : Port, s.ports[q].waitq <+: t.ports[q].waitq
  status : ∀ q : Port, t.ports[q].st = s.ports[q].st
  islands : t.islands = s.islands

theorem PortState.takeCredits_st (p : PortState) (x : Option (Fin 4 × Nat)) : (p.takeCredits x).st = p.st := by
  unfold PortState.takeCredits
  split <;> rfl

theorem PortState.takeCredits_waitq (p : PortState) (x : Option (Fin 4 × Nat)) : (p.takeCredits x).waitq = p.waitq := by
  unfold PortState.takeCredits
  split <;> rfl

namespace Tells

theorem refl (s : State) : Tells s s := ⟨List.prefix_refl _, fun _ => List.prefix_refl _, fun _ => rfl, rfl⟩

theorem trans (h : Tells s t) (g : Tells t u) : Tells s u where
  out := h.out.trans g.out
  waits q := (h.waits q).trans (g.waits q)
  status q := (g.status q).trans (h.status q)
  islands := g.islands.trans h.islands

theorem after (g : Tells t u) (h : Tells s t) : Tells s u := h.trans g

theorem foldl {α : Type} {f : State → α → State} (h : ∀ b x, Tells b (f b x)) (l : List α) : Tells s (l.foldl f s) := by
  induction l generalizing s with
  | nil => exact .refl s
  | cons x l ih => exact (h s x).trans ih

/-- An operation that leaves the ports and the islands tells no more than it sends. -/
theorem of_ports (hp : t.ports = s.ports) (hi : t.islands = s.islands) (ho : s.out <+: t.out) : Tells s t where
  out := ho
  waits q := by rw [hp]
  status q := by rw [hp]
  islands := hi

/-- An operation that sends nothing and leaves the ports and the islands tells nothing. -/
theorem of_same (hp : t.ports = s.ports) (hi : t.islands = s.islands) (ho : t.out = s.out) : Tells s t :=
  of_ports hp hi (by rw [ho])

theorem modPort {p : Port} {f : PortState → PortState} (hs : ∀ ps, (f ps).st = ps.st)
    (hw : ∀ ps : PortState, ps.waitq <+: (f ps).waitq) : Tells s (s.modPort p f) where
  out := List.prefix_refl _
  waits q := by
    by_cases h : q = p
    · rw [h, State.modPort_ports_self]
      exact hw _
    · rw [State.modPort_ports_other h]
  status q := by
    by_cases h : q = p
    · rw [h, State.modPort_ports_self]
      exact hs _
    · rw [State.modPort_ports_other h]
  islands := rfl

/-! ### Events and memory -/

theorem addObj {i j n : Nat} : Tells s (s.addObj i j n) := .of_same rfl rfl rfl

theorem setObj {i j v : Nat} : Tells s (s.setObj i j v) := .of_same rfl rfl rfl

theorem event {c : BitVec 16} {i : Nat} {d : Bytes} : Tells s (s.event c i d) := by
  refine .of_ports (by rw [State.event_frame]) (by rw [State.event_frame]) ?_
  have noticed (v : State) (b : Bytes) (p : Bool) (h : v.out = s.out) :
      s.out <+: (if p = true then v.notice b else v).out := by
    rw [← h]
    split
    · exact List.prefix_append _ _
    · exact List.prefix_refl _
  unfold State.event
  dsimp only []
  exact noticed _ _ _ rfl

theorem mgmtEvent {c : BitVec 16} {d : Bytes} : Tells s (s.mgmtEvent c d) := .event

theorem writeRun {a : Nat} {b : Bytes} : Tells s (s.writeRun a b) := by
  unfold State.writeRun
  dsimp only []
  split
  · exact .refl s
  · split
    · exact .after (.foldl (f := fun s w => s.addObj 0x3037 (hbmDecode w).1 1) (fun _ _ => .addObj) _) (.of_same rfl rfl rfl)
    · exact .of_same rfl rfl rfl

theorem setVersion {v sl b n : Nat} : Tells s (s.setVersion v sl b n) := by
  unfold State.setVersion
  split
  · exact .refl s
  · exact .trans .writeRun .writeRun

/-! ### Flits -/

theorem freeBuffer {o : Option Port} {v : Fin 4} : Tells s (s.freeBuffer o v) := by
  cases o with
  | none => exact .refl s
  | some p => exact .modPort (fun _ => rfl) (fun _ => List.prefix_refl _)

theorem emit {p : Port} {ft : BitVec 8} {f : Flit} : Tells s (s.emit p ft f) := by
  have port : Tells s (s.modPort p (fun ps =>
      { ps.takeCredits (s.ports[p].stamp { f with seq := BitVec.ofNat 16 s.ports[p].txSeq }).cred with
        txSeq := (ps.txSeq + 1) % 65536
        replay := ps.replay ++ [(ft, s.ports[p].stamp { f with seq := BitVec.ofNat 16 s.ports[p].txSeq })]
        txCredits := vmodify ps.txCredits f.vc (· - 1) })) :=
    .modPort (fun ps => PortState.takeCredits_st ps _) (fun ps => by rw [PortState.takeCredits_waitq])
  exact port.trans (.of_ports rfl rfl (List.prefix_append _ _))

theorem sendLink {p : Port} {ft : BitVec 8} {x : BitVec 32} {b : Bytes} : Tells s (s.sendLink p ft x b) := by
  have port : Tells s (s.modPort p (fun ps => ps.takeCredits s.ports[p].creditReturn)) :=
    .modPort (fun ps => PortState.takeCredits_st ps _) (fun ps => by rw [PortState.takeCredits_waitq])
  exact port.trans (.of_ports rfl rfl (List.prefix_append _ _))

theorem sendSeq {o : Option Port} {p : Port} {ft : BitVec 8} {f : Flit} : Tells s (s.sendSeq o p ft f) := by
  unfold State.sendSeq
  dsimp only []
  split
  · exact .freeBuffer
  · split
    · exact .trans .emit .freeBuffer
    · exact .modPort (fun _ => rfl) (fun _ => List.prefix_append _ _)

theorem floodOut {ft : BitVec 8} {o : Option Port} {f : Flit} : Tells s (s.floodOut ft o f) :=
  .foldl (fun b q => by
    split
    · exact .refl b
    · exact .sendSeq) _

theorem flood {ft : BitVec 8} {b : Bytes} : Tells s (s.flood ft b) := by
  unfold State.flood
  dsimp only []
  split
  · exact .refl s
  · exact .after .floodOut (.of_same rfl rfl rfl)

theorem gasp {c : Nat} : Tells s (s.gasp c) :=
  .foldl (fun b q => by
    split
    · exact .sendLink
    · exact .refl b) _

/-! ### Aborts and lost links -/

theorem abortRebuilds : Tells s s.abortRebuilds := by
  unfold State.abortRebuilds
  split
  · exact .refl s
  · exact .foldl (f := fun s m => s.setSync m true) (fun _ _ => .of_same rfl rfl rfl) _

theorem endWaits : Tells s s.endWaits :=
  .foldl (fun b c => by
    dsimp only []
    split <;> split <;> exact .of_same rfl rfl rfl) _

theorem abortVersions : Tells s s.abortVersions := by
  have k : Tells s (s.step.versions.foldl (fun s v => s.setVersion v.1 v.2.1 v.2.2.1 (2 ^ 64 - 1)) s) :=
    .foldl (fun _ _ => .setVersion) _
  unfold State.abortVersions
  dsimp only []
  split
  · exact k
  · split
    · exact k.trans (.after .mgmtEvent .setObj)
    · exact k

theorem abortStep {c : BitVec 16} : Tells s (s.abortStep c) := by
  by_cases l : s.stepLive = true
  · have settle : Tells s (s.abortSettled c) :=
      .after .abortVersions (.after .mgmtEvent (.trans .abortRebuilds .endWaits))
    have drop : Tells (s.abortSettled c) (s.stepDropped c) := .of_same rfl rfl rfl
    rw [State.abortStep_live l]
    exact settle.trans (drop.trans (.trans .addObj .flood))
  · rw [State.abortStep_still (by simpa using l)]
    exact .of_same rfl rfl rfl

theorem abortWith {c : BitVec 16} {i : Nat} {d : Bytes} : Tells s (s.abortWith c i d) := .trans .event .abortStep

theorem loseNode {n : BitVec 16} : Tells s (s.loseNode n) := by
  unfold State.loseNode
  split
  · exact .refl s
  · have lost : Tells s { s with lostNodes := s.lostNodes ++ [n] } := .of_same rfl rfl rfl
    exact lost.trans (.trans .abortWith (.of_same rfl rfl rfl))

theorem noteLoss {n : BitVec 16} {a b : LinkEnd} {cause : Nat} : Tells s (s.noteLoss n a b cause) := by
  have aborts (v : State) (known : Bool) : Tells v (if known = true then v else v.abortStep (lossCode cause)) := by
    split
    · exact .refl v
    · exact .abortStep
  unfold State.noteLoss
  dsimp only []
  split
  · exact .after .loseNode (.after (aborts _ _) (.of_same rfl rfl rfl))
  · exact .after (aborts _ _) (.of_same rfl rfl rfl)

theorem ownLoss {p : Port} {cause : Nat} : Tells s (s.ownLoss p cause) := .noteLoss

theorem chooseRoot : Tells s s.chooseRoot := by
  unfold State.chooseRoot
  dsimp only []
  split
  · exact .refl s
  · split
    · exact .of_same rfl rfl rfl
    · split
      · exact .of_same rfl rfl rfl
      · exact .after .mgmtEvent (.of_same rfl rfl rfl)

end Tells

/-! ### Floods -/

/-- A flooded flit stands as sent, or as waiting, at a port since a state. -/
def SentOn (s t : State) (q : Port) (ft : BitVec 8) (b : Bytes) : Prop :=
  ∃ g : Flit, g.payload = b ∧ (Out.flit q ft g ∈ t.out.drop s.out.length ∨ (ft, g, none) ∈ t.ports[q].waitq)

theorem SentOn.later {q : Port} {ft : BitVec 8} {b : Bytes} (h : SentOn s t q ft b) (g : Tells t u) (k : s.out <+: t.out) :
    SentOn s u q ft b := by
  obtain ⟨f, hf, h⟩ := h
  obtain ⟨x, hx⟩ := g.out
  refine ⟨f, hf, h.imp (fun m => ?_) (fun m => (g.waits q).subset m)⟩
  rw [← hx, List.drop_append_of_le_length k.length_le]
  exact List.mem_append_left _ m

theorem SentOn.earlier {q : Port} {ft : BitVec 8} {b : Bytes} (h : SentOn t u q ft b) (k : s.out <+: t.out) :
    SentOn s u q ft b := by
  obtain ⟨f, hf, h⟩ := h
  exact ⟨f, hf, h.imp (fun m => (List.drop_subset_drop_left _ k.length_le) m) id⟩

/-- What stands at every UP port since a state was flooded from it. -/
theorem FloodedOn.of_sentOn {e : Option Port} {ft : BitVec 8} {b : Bytes} (k : s.out <+: t.out)
    (h : ∀ q : Port, e ≠ some q → s.ports[q].st.isUp = true → SentOn s t q ft b) : FloodedOn s t e ft b := by
  obtain ⟨new, hn⟩ := k
  refine ⟨new, hn.symm, fun q he up => ?_⟩
  obtain ⟨f, hf, sent⟩ := h q he up
  rw [← hn, List.drop_left] at sent
  exact ⟨f, hf, sent⟩

/-- A flit sent on a port that is up stands there as sent, or as waiting (R390). -/
theorem State.sendSeq_sentOn {q : Port} {ft : BitVec 8} {f : Flit} (up : s.ports[q].st.isUp = true) :
    SentOn s (s.sendSeq none q ft f) q ft f.payload := by
  unfold State.sendSeq
  dsimp only []
  rw [if_neg (by simpa using up)]
  split
  · exact ⟨s.ports[q].stamp { f with seq := BitVec.ofNat 16 s.ports[q].txSeq }, rfl,
      .inl (by simp [State.emit, State.freeBuffer, State.modPort])⟩
  · refine ⟨f, rfl, .inr ?_⟩
    rw [State.modPort_ports_self]
    exact List.mem_append_right _ (List.mem_singleton_self _)

/-- A flit for a list of ports stands at each of those that is up, but the one it came by. -/
theorem floodOut_foldl_sentOn {ft : BitVec 8} {e : Option Port} {f : Flit} (l : List Port) {q : Port} (hq : q ∈ l) (he : e ≠ some q)
    (up : s.ports[q].st.isUp = true) :
    SentOn s (l.foldl (fun s p => if e = some p then s else s.sendSeq none p ft f) s) q ft f.payload := by
  have one (b : State) (p : Port) : Tells b (if e = some p then b else b.sendSeq none p ft f) := by
    split
    · exact .refl b
    · exact .sendSeq
  induction l generalizing s with
  | nil => cases hq
  | cons p l ih =>
    rcases List.mem_cons.1 hq with rfl | hq
    · have sent := State.sendSeq_sentOn (ft := ft) (f := f) up
      rw [List.foldl_cons, if_neg he]
      exact sent.later (.foldl one l) Tells.sendSeq.out
    · exact (ih hq (by rw [(one s p).status]; exact up)).earlier (one s p).out

/-- A flooded flit reaches every UP port but the one it came by (R410). -/
theorem State.floodOut_sentOn {ft : BitVec 8} {e : Option Port} {f : Flit} {q : Port} (he : e ≠ some q)
    (up : s.ports[q].st.isUp = true) : SentOn s (s.floodOut ft e f) q ft f.payload :=
  floodOut_foldl_sentOn allPorts (List.mem_finRange q) he up

/-- The flit of a flood that this module originates (R410). -/
def State.floodFlit (s : State) (b : Bytes) : Flit :=
  { vc := 3, ack := none, cred := none, seq := 0, dst := 0, src := s.nodeId, epoch := BitVec.ofNat 32 s.epoch, hopptr := 0,
    path := 0, xinfo := 0, payload := s.floodBytes b }

theorem State.flood_running {ft : BitVec 8} {b : Bytes} (run : s.freeze.st ≠ .capture ∧ s.freeze.st ≠ .full) :
    s.flood ft b = State.floodOut { s with floodSeq := (s.floodSeq + 1) % 2 ^ 32 } ft none (s.floodFlit b) := by
  unfold State.flood
  dsimp only []
  rw [if_neg (by simp [run])]
  rfl

/-- A flood that this module originates reaches every UP port (R410). -/
theorem State.flood_sentOn {ft : BitVec 8} {b : Bytes} {q : Port} (run : s.freeze.st ≠ .capture ∧ s.freeze.st ≠ .full)
    (up : s.ports[q].st.isUp = true) : SentOn s (s.flood ft b) q ft (s.floodBytes b) := by
  rw [State.flood_running run]
  exact State.floodOut_sentOn (s := { s with floodSeq := (s.floodSeq + 1) % 2 ^ 32 }) (f := s.floodFlit b) (by simp) up

/-! ### The dying gasp -/

theorem Sent.later {q : Port} {ft : BitVec 8} {b : Byte} (h : Sent s q ft b) (g : s.out <+: t.out) : Sent t q ft b := by
  obtain ⟨f, hf, hb⟩ := h
  exact ⟨f, g.subset hf, hb⟩

theorem State.sendLink_sent {q : Port} {ft : BitVec 8} {x : BitVec 32} {b : Byte} : Sent (s.sendLink q ft x [b]) q ft b :=
  ⟨_, List.mem_append_right _ (List.mem_singleton_self _), rfl⟩

/-- A gasp is sent on every UP port (R416). -/
theorem State.gasp_sent {c : Nat} {q : Port} (up : s.ports[q].st.isUp = true) : Sent (s.gasp c) q 0x0C (BitVec.ofNat 8 c) := by
  have one (b : State) (p : Port) : Tells b (if b.ports[p].st.isUp = true then b.sendLink p 0x0C 0 (toLe 1 c) else b) := by
    split
    · exact .sendLink
    · exact .refl b
  have each (l : List Port) (hq : q ∈ l) (v : State) (up : v.ports[q].st.isUp = true) :
      Sent (l.foldl (fun s p => if s.ports[p].st.isUp = true then s.sendLink p 0x0C 0 (toLe 1 c) else s) v) q 0x0C
        (BitVec.ofNat 8 c) := by
    induction l generalizing v with
    | nil => cases hq
    | cons p l ih =>
      rcases List.mem_cons.1 hq with rfl | hq
      · rw [List.foldl_cons, if_pos up]
        exact State.sendLink_sent.later (Tells.foldl one l).out
      · exact ih hq _ (by rw [(one v p).status]; exact up)
  exact each allPorts (List.mem_finRange q) s up

end Sys2Proof.Machine
end

section
/-! SUPPORT. Islands that fail: spares, management, memory controllers and ports (O16). -/

namespace Sys2Proof.Machine

variable {s t u : State}

@[simp] theorem State.island_setIsland {i : Nat} {x : IslandState} : (s.setIsland i x).island i = x := by
  simp [State.island, State.setIsland]

theorem State.island_of_islands (h : t.islands = s.islands) (i : Nat) : t.island i = s.island i := by
  unfold State.island
  rw [h]

/-! ### Spares -/

section Spares
variable {d : CDie} {sp : Phys}

/-- The spare of a die is no other die's, so its loss leaves the others (R15, R17). -/
theorem State.spares_lost (inv : s.Inv) (h : s.spares[d] = some sp) :
    vmap (fun (x : Option Phys) => if x.map Fin.val = some sp.val then none else x) s.spares = s.spares.set d none := by
  refine Vector.ext fun i hi => ?_
  by_cases e : d.val = i
  · subst e
    simp only [Fin.getElem_fin] at h
    simp [vmap, h]
  · rw [Vector.getElem_set_ne _ _ e]
    have other (x : Phys) (hx : s.spares[i] = some x) : x.val ≠ sp.val := by
      have := inv.cores.spareDie ⟨i, hi⟩ x hx
      have := inv.cores.spareDie d sp h
      dsimp only [] at *
      omega
    cases hx : s.spares[i] with
    | none => simp [vmap, hx]
    | some x => simp [vmap, hx, other x hx]

/-- A spare that no sparing is to use is lost alone. -/
theorem State.spareLost_unused (inv : s.Inv) (h : s.spares[d] = some sp) (unused : ∀ x ∈ s.sparing, x.spare ≠ sp) :
    s.spareLost sp.val = { s.setIsland sp.val .failed with spares := s.spares.set d none } := by
  have due : s.sparing.filter (fun x => x.spare.val = sp.val) = [] := by
    rw [List.filter_eq_nil_iff]
    exact fun x hx e => unused x hx (Fin.ext (by simpa using e))
  unfold State.spareLost
  dsimp only []
  rw [due, State.spares_lost inv h]
  rfl

theorem execSpareSelfTest_fails (awake : s.awake = true) (ready : s.bringup = .ready) (h : s.spares[d] = some sp)
    (unused : ∀ x ∈ s.sparing, x.spare ≠ sp) : execSpareSelfTest d false s =
      .next ((State.spareLost { s with sparesFailed := addNew s.sparesFailed [d] } sp.val).event 0x2506 sp.val (toLe 1 sp.val)) := by
  unfold execSpareSelfTest
  rw [h]
  dsimp only []
  rw [if_neg]
  simp only [awake, ready, Bool.or_eq_true, List.any_eq_true, not_or, not_exists]
  exact ⟨by simp, fun x hx => by simp [unused x hx.1] at hx⟩

theorem execSpareSelfTest_passes (h : s.spares[d] = some sp) : execSpareSelfTest d true s = .next s := by
  unfold execSpareSelfTest
  rw [h]
  simp

theorem execSpareSelfTest_copying (h : s.spares[d] = some sp)
    (copying : ∃ x ∈ s.sparing, x.spare = sp ∧ x.startGc.isSome = true ∧ x.copied = false) :
    execSpareSelfTest d false s = .next s := by
  obtain ⟨x, hx, hs, hg, hc⟩ := copying
  unfold execSpareSelfTest
  rw [h]
  dsimp only []
  rw [if_pos]
  simp only [Bool.or_eq_true, List.any_eq_true]
  exact .inr ⟨x, hx, by simp [hs, hg, hc]⟩

end Spares

/-! ### Management -/

/-- Island B serves, before the takeover is logged (R501). -/
def State.servedByB (s : State) : State :=
  { (s.setIsland 0x78 .fenced).noStandby with mgmt := { s.mgmt with active := .b } }

theorem State.takeover_eq (s : State) : s.takeover = s.servedByB.event 0x2502 0x79 [] := rfl

/-- What a takeover shows (R501). -/
theorem State.takeover_shows (w : Assoc.wf objDefault s.od = true) :
    s.takeover.mgmt.active = .b ∧ s.takeover.island 0x78 = .fenced ∧ s.takeover.obj 0x5032 1 = 2 ∧
      Logged s s.takeover 0x2502 0x79 [] := by
  have wf : Assoc.wf objDefault s.servedByB.od = true := State.setObj_wf w _ _ _
  have only := State.event_onlyLogs wf 0x2502 0x79 []
  rw [State.takeover_eq]
  refine ⟨?_, ?_, ?_, State.event_logged (s := s.servedByB) _ _ (by simp)⟩
  · rw [only.frame]
    rfl
  · rw [State.island_of_islands (s := s.setIsland 0x78 .fenced) (by rw [State.event_frame]; rfl), State.island_setIsland]
  · rw [only.objects _ _ (by decide) (by decide)]
    refine (State.obj_setObj (s := s.setIsland 0x78 .fenced) w _ _ _ _ _).trans ?_
    rw [if_pos rfl]

/-- An event leaves whether island B can take over. -/
theorem State.canTakeOver_event (w : Assoc.wf objDefault s.od = true) {c : BitVec 16} {i : Nat} {d : Bytes} :
    (s.event c i d).canTakeOver = s.canTakeOver := by
  have only := State.event_onlyLogs w c i d
  unfold State.canTakeOver
  rw [only.objects _ _ (by decide) (by decide), only.frame]

/-! ### A module that declares itself lost -/

theorem OnlyPorts.foldl {α : Type} {f : State → α → State} (h : ∀ b x, OnlyPorts b (f b x)) (l : List α) :
    OnlyPorts s (l.foldl f s) := by
  induction l generalizing s with
  | nil => exact rfl
  | cons x l ih => exact (h s x).trans ih

theorem OnlyPorts.gasp {c : Nat} : OnlyPorts s (s.gasp c) :=
  .foldl (fun b p => by
    split
    · exact rfl
    · exact rfl) _

/-- Declaring the module lost leaves islands, step, log and management. -/
theorem State.declareLost_keeps (s : State) : s.declareLost.moduleLost = true ∧ s.declareLost.islands = s.islands ∧
    s.declareLost.step = s.step ∧ s.declareLost.log = s.log ∧ s.declareLost.mgmt = s.mgmt := by
  unfold State.declareLost
  split
  · next h => exact ⟨h, rfl, rfl, rfl, rfl⟩
  · rw [OnlyPorts.gasp]
    exact ⟨rfl, rfl, rfl, rfl, rfl⟩

theorem State.driveFault_out : s.driveFault.out = s.out := rfl

/-- A module that declares itself lost sends its dying gasp (R25, R416). -/
theorem State.declareLost_gasps {q : Port} (h : s.moduleLost = false) (up : s.ports[q].st.isUp = true) :
    Sent s.declareLost q 0x0C 1 := by
  unfold State.declareLost
  rw [if_neg (by simp [h])]
  have sent := State.gasp_sent (s := { s with moduleLost := true }) (c := 0x01) up
  exact sent.later (by rw [State.driveFault_out])

/-! ### The loss of a PLL -/

/-- An island whose PLL has lost lock: logged, with the island as its detail, and failed (R25). -/
def State.pllLost (s : State) (n : Nat) : State := (s.event 0x2101 n [BitVec.ofNat 8 n]).setIsland n .failed

section
variable {n : Nat}

@[simp] theorem State.pllLost_ports : (s.pllLost n).ports = s.ports := by simp [State.pllLost]
@[simp] theorem State.pllLost_step : (s.pllLost n).step = s.step := by simp [State.pllLost]
@[simp] theorem State.pllLost_freeze : (s.pllLost n).freeze = s.freeze := by simp [State.pllLost]
@[simp] theorem State.pllLost_floodSeq : (s.pllLost n).floodSeq = s.floodSeq := by simp [State.pllLost]
@[simp] theorem State.pllLost_island : (s.pllLost n).island n = .failed := State.island_setIsland

theorem State.pllLost_stepLive : (s.pllLost n).stepLive = s.stepLive := by simp [State.stepLive]

theorem State.pllLost_wf (w : Assoc.wf objDefault s.od = true) : Assoc.wf objDefault (s.pllLost n).od = true :=
  (Kept.event (live := false) (Kept.refl s)).objects w

theorem State.pllLost_nodeId (w : Assoc.wf objDefault s.od = true) : (s.pllLost n).nodeId = s.nodeId :=
  congrArg (BitVec.ofNat 16) ((State.event_onlyLogs w _ _ _).objects _ _ (by decide) (by decide))

theorem State.pllLost_out : s.out <+: (s.pllLost n).out := (Tells.event (s := s)).out

end

section Pll
variable {i : Island} (up : s.phase = .up) (run : s.island i.toNat = .run)
include up run

theorem execPllLockLost_stack (lo : 0x40 ≤ i.toNat) (hi : i.toNat ≤ 0x47) :
    execPllLockLost i s = .next ((s.pllLost i.toNat).moduleFails 0x2101) := by
  have assigned : islandAssigned i.toNat = true := by simp [islandAssigned, lo, hi]
  unfold execPllLockLost
  dsimp only []
  rw [if_neg (by simp [up, assigned, run]), if_neg (by omega), dif_neg (by omega), if_neg (by omega), if_neg (by omega),
    if_neg (by omega)]
  rfl

theorem execPllLockLost_port {p : Port} (h : i.toNat = 0x50 + p.val) :
    execPllLockLost i s = .next ((s.pllLost i.toNat).portLost p .failed 1 0x2101) := by
  have assigned : islandAssigned i.toNat = true := by
    simp [islandAssigned]
    omega
  have port (k : i.toNat - 0x50 < 32) : (⟨i.toNat - 0x50, k⟩ : Port) = p := Fin.ext (by dsimp only []; omega)
  unfold execPllLockLost
  dsimp only []
  rw [if_neg (by simp [up, assigned, run]), if_neg (by omega), dif_pos (by omega), port]
  rfl

theorem execPllLockLost_mgmt (w : Assoc.wf objDefault s.od = true) (h : i.toNat = 0x78) (can : s.canTakeOver = true) :
    execPllLockLost i s = .next (s.event 0x2101 i.toNat [BitVec.ofNat 8 i.toNat]).takeover := by
  have assigned : islandAssigned i.toNat = true := by
    rw [h]
    rfl
  unfold execPllLockLost
  dsimp only []
  rw [if_neg (by simp [up, assigned, run]), if_neg (by omega), dif_neg (by omega), if_neg (by omega), if_pos h,
    if_pos ((State.canTakeOver_event w).trans can)]

end Pll

/-! ### A port that fails -/

section Ports
variable {p : Port}

/-- A port that fails: its island is mapped out, and what waited at it frees its buffers (R28, R390). -/
def State.portFailed (s : State) (p : Port) : State :=
  s.ports[p].waitq.foldl (fun s w => s.freeBuffer w.2.2 w.2.1.vc)
    ((s.modPort p (fun ps => { ps with st := .failed, waitq := [] })).setIsland (portIsland p) .failed)

theorem State.portLost_carried (up : s.ports[p].st.isUp = true) {cause : Nat} {c : BitVec 16} : s.portLost p .failed cause c =
    (((((s.portFailed p).addObj 0x3048 p.val 1).sendLoss p cause).abortStep c).ownLoss p cause).chooseRoot := by
  unfold State.portLost
  dsimp only []
  rw [if_neg (by simpa using up)]
  rfl

/-- The peers of ports stand. -/
def SamePeers (s t : State) : Prop :=
  ∀ q : Port, t.ports[q].peerNode = s.ports[q].peerNode ∧ t.ports[q].peerPort = s.ports[q].peerPort

theorem SamePeers.modPort {f : PortState → PortState} (h : ∀ ps, (f ps).peerNode = ps.peerNode ∧ (f ps).peerPort = ps.peerPort) :
    SamePeers s (s.modPort p f) := by
  intro q
  by_cases e : q = p
  · rw [e, State.modPort_ports_self]
    exact h _
  · rw [State.modPort_ports_other e]
    exact ⟨rfl, rfl⟩

theorem SamePeers.trans (h : SamePeers s t) (g : SamePeers t u) : SamePeers s u :=
  fun q => ⟨(g q).1.trans (h q).1, (g q).2.trans (h q).2⟩

theorem SamePeers.freeBuffers (l : List (BitVec 8 × Flit × Option Port)) :
    SamePeers s (l.foldl (fun s w => s.freeBuffer w.2.2 w.2.1.vc) s) := by
  induction l generalizing s with
  | nil => exact fun _ => ⟨rfl, rfl⟩
  | cons w l ih =>
    have one : SamePeers s (s.freeBuffer w.2.2 w.2.1.vc) := by
      cases w.2.2 with
      | none => exact fun _ => ⟨rfl, rfl⟩
      | some p => exact .modPort (fun _ => ⟨rfl, rfl⟩)
    exact one.trans ih

/-- What a port's failure leaves: the ends of links, the other ports' states, and what is sent. -/
structure PortFailed (p : Port) (s t : State) : Prop where
  peers : SamePeers s t
  failed : t.ports[p].st = .failed
  others : ∀ q : Port, q ≠ p → t.ports[q].st = s.ports[q].st
  island : t.island (portIsland p) = .failed
  out : s.out <+: t.out
  frame : t = { s with ports := t.ports, islands := t.islands, out := t.out }

theorem State.portFailed_spec (s : State) (p : Port) : PortFailed p s (s.portFailed p) := by
  have tells : Tells ((s.modPort p (fun ps => { ps with st := .failed, waitq := [] })).setIsland (portIsland p) .failed)
      (s.portFailed p) := .foldl (fun _ _ => .freeBuffer) _
  have down : SamePeers s (s.modPort p (fun ps => { ps with st := .failed, waitq := [] })) := .modPort (fun _ => ⟨rfl, rfl⟩)
  refine ⟨down.trans (.freeBuffers _), ?_, fun q h => ?_, ?_, tells.out, ?_⟩
  · exact (tells.status p).trans (congrArg PortState.st State.modPort_ports_self)
  · exact (tells.status q).trans (congrArg PortState.st (State.modPort_ports_other h))
  · exact (State.island_of_islands tells.islands _).trans State.island_setIsland
  · have only : OnlyPorts ((s.modPort p (fun ps => { ps with st := .failed, waitq := [] })).setIsland (portIsland p) .failed)
        (s.portFailed p) := .foldl (fun _ _ => .freeBuffer) _
    rw [only]
    rfl

/-! ### What a lost port leads to -/

/-- A step that is aborted stays aborted (R55). -/
theorem State.abortStep_aborted {c : BitVec 16} (h : s.step.status = .aborted) : (s.abortStep c).step.status = .aborted := by
  unfold State.abortStep
  rw [h]
  exact h

theorem State.endAttempts_step : s.endAttempts.step = s.step := rfl

theorem State.loseNode_aborted {n : BitVec 16} (h : s.step.status = .aborted) : (s.loseNode n).step.status = .aborted := by
  have aborts (v : State) (hv : v.step = s.step) (i : Nat) (d : Bytes) : (v.abortWith 0x6106 i d).step.status = .aborted :=
    State.abortStep_aborted (by rw [OnlySends.event.step, hv, h])
  unfold State.loseNode
  split
  · exact h
  · rw [State.endAttempts_step]
    exact aborts { s with lostNodes := s.lostNodes ++ [n] } rfl _ _

theorem State.noteLoss_aborted {n : BitVec 16} {a b : LinkEnd} {cause : Nat} (h : s.step.status = .aborted) :
    (s.noteLoss n a b cause).step.status = .aborted := by
  obtain ⟨v, known, far, e, same⟩ : ∃ (v : State) (known : Bool) (far : BitVec 16), s.noteLoss n a b cause =
      (if cause = 3 then (if known = true then v else v.abortStep (lossCode cause)).loseNode far
      else if known = true then v else v.abortStep (lossCode cause)) ∧ v.step = s.step := ⟨_, _, _, rfl, rfl⟩
  have aborts : (if known = true then v else v.abortStep (lossCode cause)).step.status = .aborted := by
    split
    · rw [same, h]
    · exact State.abortStep_aborted (by rw [same, h])
  rw [e]
  split
  · exact State.loseNode_aborted aborts
  · exact aborts

theorem State.chooseRoot_step : s.chooseRoot.step = s.step := by
  unfold State.chooseRoot
  dsimp only []
  split
  · rfl
  · split
    · rfl
    · split
      · rfl
      · rw [OnlySends.mgmtEvent.step]

/-- What this module says of a port's link depends on its node ID, its sequence and its peers alone (R410, R411). -/
theorem State.lossFlood_congr (node : t.nodeId = s.nodeId) (seq : t.floodSeq = s.floodSeq) (peers : SamePeers s t) (cause : Nat) :
    t.floodBytes (t.lossBytes p cause) = s.floodBytes (s.lossBytes p cause) := by
  unfold State.floodBytes State.lossBytes
  rw [node, seq, (peers p).1, (peers p).2]

/-- What the failure of an UP port leads to (R409). -/
theorem State.portLost_spec (w : Assoc.wf objDefault s.od = true) (run : s.freeze.st ≠ .capture ∧ s.freeze.st ≠ .full)
    (up : s.ports[p].st.isUp = true) (cause : Nat) (c : BitVec 16) :
    (s.portLost p .failed cause c).island (portIsland p) = .failed ∧ (s.portLost p .failed cause c).ports[p].st = .failed ∧
      (s.stepLive = true → (s.portLost p .failed cause c).step.status = .aborted) ∧
      s.out <+: (s.portLost p .failed cause c).out ∧
      ∀ q : Port, q ≠ p → s.ports[q].st.isUp = true →
        SentOn s (s.portLost p .failed cause c) q 0x0B (s.floodBytes (s.lossBytes p cause)) := by
  have fails := State.portFailed_spec s p
  have only := fails.frame
  have loss : OnlySends (s.portFailed p) (((s.portFailed p).addObj 0x3048 p.val 1).sendLoss p cause) :=
    OnlySends.addObj.trans OnlySends.flood
  have sends : Tells (s.portFailed p) (((s.portFailed p).addObj 0x3048 p.val 1).sendLoss p cause) := .trans .addObj .flood
  have after : Tells (((s.portFailed p).addObj 0x3048 p.val 1).sendLoss p cause) (s.portLost p .failed cause c) := by
    rw [State.portLost_carried up]
    exact .trans .abortStep (.trans .ownLoss .chooseRoot)
  have all := sends.trans after
  refine ⟨?_, (all.status p).trans fails.failed, fun live => ?_, fails.out.trans all.out, fun q hq hup => ?_⟩
  · rw [State.island_of_islands all.islands, fails.island]
  · have same : (((s.portFailed p).addObj 0x3048 p.val 1).sendLoss p cause).step = s.step := by
      rw [loss.step, only]
    rw [State.portLost_carried up, State.chooseRoot_step]
    exact State.noteLoss_aborted (State.abortStep_status (by unfold State.stepLive at live ⊢; rwa [same])).1
  · have node : ((s.portFailed p).addObj 0x3048 p.val 1).nodeId = s.nodeId := by
      have wf : Assoc.wf objDefault (s.portFailed p).od = true := by rw [only]; exact w
      unfold State.nodeId
      rw [State.obj_addObj_other wf (by rw [Ne, objKey_inj (by decide) (by omega)]; omega), only]
      rfl
    have bytes : ((s.portFailed p).addObj 0x3048 p.val 1).floodBytes (((s.portFailed p).addObj 0x3048 p.val 1).lossBytes p cause) =
        s.floodBytes (s.lossBytes p cause) := State.lossFlood_congr node (by rw [only]; rfl) fails.peers cause
    have sent := State.flood_sentOn (s := (s.portFailed p).addObj 0x3048 p.val 1) (ft := 0x0B)
      (b := ((s.portFailed p).addObj 0x3048 p.val 1).lossBytes p cause) (q := q) (by rw [only]; exact run)
      (by rw [← fails.others q hq] at hup; exact hup)
    rw [bytes] at sent
    exact (sent.earlier fails.out).later after (fails.out.trans sends.out)

end Ports

/-- An island whose fault makes the module unable to run its plan: the step aborts and the module is lost (R25, R500). -/
theorem State.moduleFails_spec (s : State) (c : BitVec 16) : (s.moduleFails c).moduleLost = true ∧
    (s.moduleFails c).islands = s.islands ∧ (s.stepLive = true → (s.moduleFails c).step.status = .aborted) ∧
    LogGrows 2 s (s.moduleFails c) := by
  obtain ⟨lost, islands, step, log, -⟩ := State.declareLost_keeps (s.abortStep c)
  refine ⟨lost, islands.trans Tells.abortStep.islands, fun live => ?_, ?_⟩
  · rw [State.moduleFails, step]
    exact (State.abortStep_status live).1
  · exact LogGrows.trans (n := 0) .abortStep (.of_log log)

/-- The loss of a memory controller's clock (R25). -/
theorem State.stackStops (s : State) (n : Nat) : ((s.pllLost n).moduleFails 0x2101).island n = .failed ∧
    ((s.pllLost n).moduleFails 0x2101).moduleLost = true ∧
    (s.stepLive = true → ((s.pllLost n).moduleFails 0x2101).step.status = .aborted) ∧
    Logged s ((s.pllLost n).moduleFails 0x2101) 0x2101 n [BitVec.ofNat 8 n] := by
  obtain ⟨lost, islands, aborted, grows⟩ := State.moduleFails_spec (s.pllLost n) 0x2101
  rw [State.pllLost_stepLive] at aborted
  exact ⟨(State.island_of_islands islands n).trans State.pllLost_island, lost, aborted,
    LogGrows.logged (n := 2) grows (by decide) (by simp)⟩

/-- The loss of an UP port's clock (R25, R409). -/
theorem State.portStops (inv : s.Inv) (run : s.freeze.st ≠ .capture ∧ s.freeze.st ≠ .full) {p : Port}
    (carried : s.ports[p].st.isUp = true) (n : Nat) :
    ((s.pllLost n).portLost p .failed 1 0x2101).island (portIsland p) = .failed ∧
      ((s.pllLost n).portLost p .failed 1 0x2101).ports[p].st = .failed ∧
      (s.stepLive = true → ((s.pllLost n).portLost p .failed 1 0x2101).step.status = .aborted) ∧
      FloodedOn s ((s.pllLost n).portLost p .failed 1 0x2101) (some p) 0x0B (s.floodBytes (s.lossBytes p 1)) := by
  obtain ⟨island, failed, aborted, out, floods⟩ := State.portLost_spec (p := p) (State.pllLost_wf (n := n) inv.objects)
    (by simpa using run) (by simpa using carried) 1 0x2101
  have bytes : (s.pllLost n).floodBytes ((s.pllLost n).lossBytes p 1) = s.floodBytes (s.lossBytes p 1) :=
    State.lossFlood_congr (State.pllLost_nodeId inv.objects) State.pllLost_floodSeq (fun q => by simp) 1
  rw [State.pllLost_stepLive] at aborted
  rw [bytes, State.pllLost_ports] at floods
  exact ⟨island, failed, aborted, .of_sentOn (State.pllLost_out.trans out)
    fun q other up => (floods q (fun e => other (by rw [e])) up).earlier State.pllLost_out⟩

end Sys2Proof.Machine

open Sys2Proof Sys2Proof.Machine

/-- Settles O16: each island's failure, and each takeover, by what its command answers. -/
theorem islandsFailAndTakeOver : Obligations.IslandsFailAndTakeOver := by
  intro s inv
  refine ⟨?_, ?_, ?_, ?_, ?_, ?_, ?_⟩
  · intro d sp awake ready spare
    refine ⟨execSpareSelfTest_passes spare, fun unused => ?_, execSpareSelfTest_copying spare⟩
    have lost := State.spareLost_unused (s := { s with sparesFailed := addNew s.sparesFailed [d] }) { inv with } spare unused
    have e := execSpareSelfTest_fails awake ready spare unused
    rw [lost] at e
    refine ⟨_, e, by simp, ?_, by simp, ?_⟩
    · exact (State.island_of_islands (s := s.setIsland sp.val .failed) (by rw [State.event_frame]; rfl) _).trans
        State.island_setIsland
    · exact State.event_logged _ _ (by simp [toLe_length])
  · intro up can
    exact ⟨_, if_pos (by simp [up, can]), State.takeover_shows inv.objects⟩
  · intro up run can
    obtain ⟨active, fenced, -, -⟩ := State.takeover_shows
      ((Kept.event (live := false) (code := 0x2101) (island := 0x78) (detail := [0x78]) (Kept.refl s)).objects inv.objects)
    exact ⟨_, execPllLockLost_mgmt up run inv.objects rfl can, active, fenced⟩
  · intro up h run
    have n : (BitVec.ofNat 8 (0x40 + h.val)).toNat = 0x40 + h.val := by
      rw [BitVec.toNat_ofNat]
      omega
    have e := execPllLockLost_stack (i := BitVec.ofNat 8 (0x40 + h.val)) up (by rwa [n]) (by omega) (by omega)
    rw [n] at e
    exact ⟨_, e, State.stackStops s _⟩
  · intro up silent lost
    obtain ⟨gone, -, -, -, mgmt⟩ := State.declareLost_keeps { s with mgmt := { s.mgmt with silent := true } }
    exact ⟨_, if_neg (by simp [up, silent]), by rw [mgmt], gone, fun p h =>
      State.declareLost_gasps (s := { s with mgmt := { s.mgmt with silent := true } }) lost h⟩
  · intro awake p run carried
    have on : s.phase = .up ∧ s.freeze.st ≠ .capture ∧ s.freeze.st ≠ .full := by simpa [State.awake, and_assoc] using awake
    have n : (BitVec.ofNat 8 (0x50 + p.val)).toNat = 0x50 + p.val := by
      rw [BitVec.toNat_ofNat]
      omega
    have e := execPllLockLost_port (i := BitVec.ofNat 8 (0x50 + p.val)) (p := p) on.1 (by rwa [n]) n
    rw [n] at e
    exact ⟨_, e, State.portStops inv on.2 carried _⟩
  · intro up ready
    refine ⟨_, if_pos (by simp [up, ready]), rfl, ?_⟩
    rw [State.obj_setObj inv.objects, if_pos rfl]
end

section
/-! SUPPORT. What a change of one core, or of one of its records, leaves. -/

namespace Sys2Proof.Machine

variable {s : State} {c d : Core}

theorem State.modCore_core {f : CoreState → CoreState} : (s.modCore c f).cores[c] = f s.cores[c] :=
  vmodify_self s.cores c f

theorem State.modCore_other {f : CoreState → CoreState} (h : c ≠ d) : (s.modCore c f).cores[d] = s.cores[d] :=
  vmodify_other s.cores f h

theorem State.modQRec_inflight {r : Nat} {f : QRec → QRec} : (s.modQRec c r f).cores[c].inflight =
    s.cores[c].inflight.map (fun q => if q.recno = r then f q else q) :=
  congrArg CoreState.inflight State.modCore_core

/-- A change of a record that keeps its number changes what its number finds. -/
theorem State.modQRec_qrec {r : Nat} {f : QRec → QRec} (hf : ∀ q, (f q).recno = q.recno) :
    (s.modQRec c r f).qrec c r = (s.qrec c r).map f := by
  have same : ((fun q : QRec => decide (q.recno = r)) ∘ fun q => if q.recno = r then f q else q) =
      fun q => decide (q.recno = r) := by
    funext q
    dsimp only [Function.comp]
    split <;> simp [hf]
  unfold State.qrec
  rw [State.modQRec_inflight, List.find?_map, same]
  cases e : s.cores[c].inflight.find? (fun q => decide (q.recno = r)) with
  | none => rfl
  | some q =>
    have number : q.recno = r := by simpa using List.find?_some e
    exact congrArg some (if_pos number)

end Sys2Proof.Machine
end

section
/-! SUPPORT. Data that arrives at a record's engine (O36). -/

namespace Sys2Proof.Machine

variable {s : State} {c : Core} {r : Nat} {g : DataTags}

/-- Data that bears on the record at the head: discarded, in conflict with its tags, another's, or consumed (R53, R54). -/
def State.dataMet (s : State) (p : Plan) (c : Core) (h : QRec) (rc : Rec) (g : DataTags) : Result :=
  if s.cores[c].cancelled.contains g.worktag then .next (s.addObj 0x303F (coreDie c).val 1)
  else if !tagsAgree g.mbtag rc.mbtag || (rc.readsWeights p && g.version.toNat ≠ effVersion p rc s.step.current) then
    .next (s.abortWith 0x4105 (s.engineIsland c rc) (toLe 4 h.recno))
  else if g.worktag ≠ rc.worktag || (rc.engine = 1 && !g.newPass) then .next s
  else .next ((s.modQRec c h.recno (fun q => { q with arrived := true })).settle c)

/-- In a running step, data meets the record at the head of its queue, once that has its credits (R54). -/
theorem exec_dataArrival {p : Plan} {q : QRec} {rc : Rec} (aw : s.awake = true) (run : s.step.status = .running)
    (hp : s.plan = some p) (hq : s.qrec c r = some q) (hrc : p.recAt c (s.cores[c].headOf q).recno = some rc)
    (ph : (s.cores[c].headOf q).phase = .granted ∨ (s.cores[c].headOf q).phase = .started) :
    exec (.dataArrival c r g) s = s.dataMet p c (s.cores[c].headOf q) rc g := by
  change execDataArrival c r g s = _
  unfold execDataArrival
  rw [hp, hq]
  dsimp only []
  rw [hrc]
  have stands : (s.cores[c].headOf q).phase ≠ .issued ∧ (s.cores[c].headOf q).phase ≠ .executed := by
    obtain h | h := ph <;> rw [h] <;> decide
  exact if_neg (by simpa [aw, run] using stands)

/-- Discarded reads are counted by die, to the end of the counter (R380). -/
theorem State.discard_counted (w : Assoc.wf objDefault s.od = true) (d : CDie) :
    (s.addObj 0x303F d.val 1).obj 0x303F d.val = min (2 ^ 64 - 1) (s.obj 0x303F d.val + 1) := by
  have entry : ∀ d : CDie, ((objFind 0x303F d.val).map (fun o => o.ty.maxValue)).getD 0 = 2 ^ 64 - 1 := by decide
  rw [State.obj_addObj w, entry]

end Sys2Proof.Machine

open Sys2Proof Sys2Proof.Machine

/-- Settles O36: the branches of `State.dataMet` are the clauses. -/
theorem dataIsComparedByTags : Obligations.DataIsComparedByTags := by
  intro s c r g p q rc inv aw run hp hq h hrc ph
  rw [exec_dataArrival aw run hp hq hrc ph]
  have live : s.stepLive = true := by simp [State.stepLive, run]
  refine ⟨fun cancelled => ?_, fun kept => ⟨fun differs => ?_, fun same version => ⟨fun other => ?_, fun tag pass => ?_⟩⟩⟩
  · exact ⟨_, if_pos (by simpa using cancelled), rfl, State.discard_counted inv.objects _⟩
  all_goals rw [State.dataMet, if_neg (by simpa using kept)]
  · obtain ⟨status, causes⟩ := State.abortWith_status (t := s) (c := 0x4105) (i := s.engineIsland c rc)
      (d := toLe 4 h.recno) rfl live
    obtain ⟨e, mem, code, -, detail, -⟩ := State.abortWith_logged (s := s) (c := 0x4105) (i := s.engineIsland c rc)
      (d := toLe 4 h.recno) (by simp [toLe_length])
    exact ⟨_, if_pos (by simpa using differs), status, causes, e, mem, code, detail⟩
  all_goals rw [if_neg (by simpa [same] using version)]
  · exact if_pos (by simpa using other)
  · exact ⟨_, if_neg (by simpa [tag] using pass), State.modQRec_inflight, rfl, rfl⟩
end

section
/-! SUPPORT. How a step ends, and what an abort drops (O32, O33). -/

namespace Sys2Proof.Machine

variable {s : State}

/-! ### The end of a step -/

/-- Without a sparing none begins (R499). -/
theorem State.startScheduled_none (h : s.sparing = []) : s.startScheduled = s := by
  unfold State.startScheduled
  rw [h]
  exact ite_self s

/-- The step has ended at the counter's present count. -/
def State.ended (s : State) : State :=
  { s with step := { s.step with status := .ended, endGc := s.gc.value, stoppedGc := s.gc.value } }

/-- What a step leads to once it has ended: an abort for NaN where `NAN_ABORT` is set, and one for a halt (R85, R275). -/
def State.judged (s : State) : State :=
  let u := match s.step.nan with
    | some d => if s.obj 0x2100 1 = 1 then s.abortWith 0x3104 s.mgmtIsland (toLe 4 d) else s
    | none => s
  match s.step.halt with
  | some _ => u.abortStep 0x3125
  | none => u

/-- With every core's report in, the step ends and is judged (R52). -/
theorem exec_stepComplete_reported (aw : s.awake = true) (run : s.step.status = .running)
    (all : ∀ c : Core, s.cores[c].done = true) :
    exec .stepComplete s = .next s.ended.judged.startScheduled :=
  if_neg (by simpa [aw, run] using fun c _ => all c)

/-- With a core's report outstanding nothing changes (R52). -/
theorem exec_stepComplete_waits {c : Core} (h : s.cores[c].done = false) : exec .stepComplete s = .next s :=
  if_pos (by simpa using .inr ⟨c, List.mem_finRange c, h⟩)

/-- A step without NaN elements or a halt stands ended. -/
theorem State.judged_clean (nan : s.step.nan = none) (halt : s.step.halt = none) : s.judged = s := by
  unfold State.judged
  rw [nan, halt]

/-- NaN aborts the step where `NAN_ABORT` is set (R85). -/
theorem State.judged_nan {d : Nat} (nan : s.step.nan = some d) (halt : s.step.halt = none) (set : s.obj 0x2100 1 = 1) :
    s.judged = s.abortWith 0x3104 s.mgmtIsland (toLe 4 d) := by
  unfold State.judged
  rw [nan, halt]
  exact if_pos set

/-- A halt aborts the step (R275). -/
theorem State.judged_halt {d : Nat} (nan : s.step.nan = none) (halt : s.step.halt = some d) :
    s.judged = s.abortStep 0x3125 := by
  unfold State.judged
  rw [nan, halt]

/-! ### The abort -/

/-- Memory stands through an abort of a step that wrote no version entry, or that has no plan. -/
theorem State.abortStep_mem_same {c : BitVec 16} (live : s.stepLive = true)
    (h : s.step.versions = [] ∨ s.plan = none) : (s.abortStep c).mem = s.mem := by
  rw [State.abortStep_mem live]
  obtain none | planless := h
  · rw [none]
    rfl
  · have still (v : Nat × Nat × Nat × Nat × Nat) : s.setVersion v.1 v.2.1 v.2.2.1 (2 ^ 64 - 1) = s := by
      unfold State.setVersion
      rw [planless]
      rfl
    rw [List.foldl_fixed' still]

/-- Of a step that wrote one version entry, an abort makes the entry all ones (R321). -/
theorem State.abortStep_mem_one {c : BitVec 16} {p : Plan} {d : Desc} {ver slice buf v rec : Nat}
    (live : s.stepLive = true) (hp : s.plan = some p) (h : s.step.versions = [(ver, slice, buf, v, rec)])
    (hd : p.descAt ver = some d) : (s.abortStep c).mem =
      ((s.writeRun (verAddr d slice buf) (toLe 8 (2 ^ 64 - 1))).writeRun (verRow d slice + 16) (List.replicate 48 0)).mem := by
  rw [State.abortStep_mem live, h]
  simp [State.setVersion, hp, hd]

end Sys2Proof.Machine

open Sys2Proof Sys2Proof.Machine

/-- Settles O32: a step whose cores have all reported ends, and NaN or a halt then aborts it. -/
theorem stepsComplete : Obligations.StepsComplete := by
  intro s aw run
  refine ⟨fun ⟨c, h⟩ => exec_stepComplete_waits h, fun all => ?_⟩
  have go := exec_stepComplete_reported aw run all
  have live : s.ended.stepLive = true := rfl
  refine ⟨fun none nan halt => ?_, fun d none nan halt set => ?_, fun d none nan halt => ?_⟩
  · rw [State.judged_clean (s := s.ended) nan halt, State.startScheduled_none (s := s.ended) none] at go
    exact go
  · rw [State.judged_nan (s := s.ended) nan halt set] at go
    have frame : OnlyAborts s.ended (s.ended.abortWith 0x3104 s.ended.mgmtIsland (toLe 4 d)) := OnlyAborts.abortWith
    rw [State.startScheduled_none (by rw [frame]; exact none)] at go
    exact ⟨_, go, State.abortWith_status (s := s.ended) rfl live⟩
  · rw [State.judged_halt (s := s.ended) nan halt] at go
    have frame : OnlyAborts s.ended (s.ended.abortStep 0x3125) := OnlyAborts.abortStep
    rw [State.startScheduled_none (by rw [frame]; exact none)] at go
    exact ⟨_, go, State.abortStep_status live⟩

/-- Settles O33: a live step is dropped as `State.stepDropped` says, and only its version entries change in memory. -/
theorem abortsDropTheStep : Obligations.AbortsDropTheStep := by
  intro s cause
  refine ⟨fun live => ?_, fun h => ?_, fun h => ?_⟩
  · obtain ⟨status, causes⟩ := State.abortStep_status (c := cause) live
    obtain ⟨-, -, signals, outbound⟩ := State.abortStep_idle (c := cause) live 0
    have dropped : (s.abortStep cause).step = (s.stepDropped cause).step := (State.abortStep_sends live).step
    refine ⟨status, causes, fun c => ?_, signals, outbound, by rw [dropped]; rfl, by rw [dropped]; rfl,
      OnlyAborts.abortStep, State.abortStep_mem_same live,
      fun p d ver slice buf v rec hp hv hd => State.abortStep_mem_one live hp hv hd⟩
    have cut : (s.abortStep cause).cores[c] = s.cores[c].aborted := by
      rw [State.abortStep_cores live]
      simp [vmap]
    rw [cut]
    exact ⟨rfl, rfl, rfl, rfl⟩
  · unfold State.abortStep
    rw [h]
  · unfold State.abortStep
    rw [h]
end

section
/-! SUPPORT. Records that write no tensor: no-operations, gates, prefetches and cancels (O52). -/

namespace Sys2Proof.Machine

variable {s t : State} {c : Core} {r : Nat} {p : Plan} {rc : Rec} {q : QRec}

/-- Noting a record's reads changes only what the step gathers of its window slots. -/
theorem State.noteReads_keeps (l : List Span) :
    (s.noteReads p l).mem = s.mem ∧ (s.noteReads p l).caches = s.caches ∧
      (s.noteReads p l).step.current = s.step.current ∧ (s.noteReads p l).cores = s.cores := by
  unfold State.noteReads
  split <;> exact ⟨rfl, rfl, rfl, rfl⟩

theorem State.noteReads_nil : s.noteReads p [] = s := by
  unfold State.noteReads
  split
  · rfl
  · simp [addNew]

theorem State.finish_qrec (h : s.qrec c r = some q) : (s.finish c r).qrec c r = some { q with phase := .executed } := by
  have e := State.modQRec_qrec (s := s) (c := c) (r := r) (f := fun q => { q with phase := .executed }) (fun _ => rfl)
  rwa [h] at e

theorem State.qrec_of_inflight (h : t.cores[c].inflight = s.cores[c].inflight) : t.qrec c r = s.qrec c r := by
  unfold State.qrec
  rw [h]

/-! ### No-operations -/

/-- A record of the core sequencer that reads nothing has sound operands. -/
theorem OperandsSound.ofNothing (e : rc.engine = 0) : OperandsSound s c p rc q (byRows (fun _ => [])) ∧
    s.spansOf c p rc q (byRows (fun _ => [])) = [] := by
  have none : (s.ctx p c rc q).marked (byRows (fun _ => [])) s = [] := by
    unfold Ctx.marked
    dsimp only []
    split <;> rfl
  have nothing : s.spansOf c p rc q (byRows (fun _ => [])) = [] := by
    unfold State.spansOf Ctx.takes
    rw [none]
    dsimp only []
    split
    · exact ite_self []
    · rfl
  refine ⟨⟨?_, ?_, ?_, ?_⟩, nothing⟩
  · simp [nothing, State.readsPoison]
  · simp [State.weightsPoison, State.ctx, e]
  · simp [State.versionsHold, Rec.sliceRange, e, byRows]
  · simp [nothing]

/-- A no-operation finishes and does nothing else (R44). -/
theorem exec_noOperation (h : RecordReady s c r p rc q) (e : rc.engine = 0) (f : rc.func = 0) :
    exec (.noOperation c r) s = .next (s.finish c r) := by
  obtain ⟨sound, nothing⟩ := OperandsSound.ofNothing (s := s) (c := c) (p := p) (q := q) e
  have run := State.runRecord_ready (want := fun q => q.engine = 0 && q.func = 0) (effect := fun _ _ s => s) h sound
    (by simp [e, f])
  rw [nothing, State.noteReads_nil] at run
  exact run

/-! ### Gates -/

/-- The records a gate governs run (R302). -/
def gateRuns (sense : Bool) (st : Nat) : Bool := st == if sense then 1 else 2

/-- What a gate leaves on its core: `n` records are skipped, or run without counts under `SENSE` 0 (R302, R303). -/
def CoreState.gated (k : CoreState) (sense : Bool) (st n : Nat) : CoreState :=
  { k with skip := if gateRuns sense st then 0 else n, sense0 := if gateRuns sense st && !sense then n else 0 }

theorem gateEffect_eq {x : Ctx} {n : Nat} {dir : Desc} (h : x.rd x.r.desc4 = some (n, dir)) :
    gateEffect x q s = s.modCore x.core (fun k => k.gated (x.r.param1.toNat.testBit 13)
      (s.stashState dir (stashRow x.step x.r.stashSlot (x.r.param1.toNat.testBit 12))) (x.r.param0.toNat % 65536)) := by
  unfold gateEffect
  rw [h]
  dsimp only []
  cases x.r.param1.toNat.testBit 13 <;> simp [CoreState.gated, gateRuns]

/-- A gated core whose gate has finished keeps its tallies and its records (R302). -/
theorem State.gated_keeps (sense : Bool) (st n : Nat) (h : s.qrec c r = some q) :
    let t := (s.modCore c (fun k => k.gated sense st n)).finish c r
    t.cores[c].tallies = s.cores[c].tallies ∧ t.cores[c].skip = (if gateRuns sense st then 0 else n) ∧
      t.cores[c].sense0 = (if gateRuns sense st && !sense then n else 0) ∧
      t.qrec c r = some { q with phase := .executed } ∧ ∀ d : Core, d ≠ c → t.cores[d] = s.cores[d] := by
  have core : ((s.modCore c (fun k => k.gated sense st n)).finish c r).cores[c] =
      { s.cores[c].gated sense st n with inflight := (s.cores[c].gated sense st n).inflight.map (fun q =>
          if q.recno = r then { q with phase := .executed } else q) } := by
    unfold State.finish State.modQRec
    rw [State.modCore_core, State.modCore_core]
  dsimp only []
  rw [core]
  refine ⟨rfl, rfl, rfl, State.finish_qrec ?_, fun d ne => ?_⟩
  · exact (State.qrec_of_inflight (s := s) (by rw [State.modCore_core]; rfl)).trans h
  · exact (State.modCore_other ne.symm).trans (State.modCore_other ne.symm)

/-- A gate reads its directory row and governs its core (R302). -/
theorem exec_regenGate {n : Nat} {dir : Desc} (h : RecordReady s c r p rc q) (e : rc.engine = 0) (f : rc.func = 1)
    (hd : (s.ctx p c rc q).rd rc.desc4 = some (n, dir))
    (sound : OperandsSound s c p rc q ⟨fun r => [r.desc4].filterMap id, gateSpans⟩) :
    exec (.regenGate c r) s = .next (((s.noteReads p (s.spansOf c p rc q ⟨fun r => [r.desc4].filterMap id, gateSpans⟩)).modCore
      c (fun k => k.gated (rc.param1.toNat.testBit 13)
        (s.stashState dir (stashRow s.step.current rc.stashSlot (rc.param1.toNat.testBit 12)))
        (rc.param0.toNat % 65536))).finish c r) := by
  refine (State.runRecord_ready (want := fun q => q.engine = 0 && q.func = 1) h sound (by simp [e, f])).trans ?_
  rw [gateEffect_eq (x := s.ctx p c rc q) hd]
  unfold State.stashState
  rw [SameReads.noteReads.code]
  rfl

/-! ### Cancels -/

/-- A core on which the prefetch of a work tag has been cancelled (R380). -/
def CoreState.cancelTag (k : CoreState) (hit : QRec → Bool) (tag : BitVec 32) : CoreState :=
  { k with cancelled := addNew k.cancelled [tag], inflight := k.inflight.map (fun x => if hit x then x.cancel else x) }

theorem exec_cancel (h : RecordReady s c r p rc q) (w : wantStream 6 rc = true) : exec (.cancel c r) s =
    .next (((if s.cores[c].inflight.any (p.isPrefetch c rc.param0) then
      s.modCore c (fun k => k.cancelTag (p.isPrefetch c rc.param0) rc.param0) else s).finish c r).settle c) := by
  have aw := h.awake
  have run := h.running
  have ph := h.started
  change execCancel c r s = _
  unfold execCancel
  rw [h.plan, h.inFlight]
  dsimp only []
  rw [h.record]
  dsimp only []
  rw [if_neg (by rw [w]; simp [aw, run, ph])]
  cases s.cores[c].inflight.any (p.isPrefetch c rc.param0) <;> rfl

theorem mem_addNew_self {α : Type} [DecidableEq α] (l : List α) (a : α) : a ∈ addNew l [a] := by
  by_cases h : a ∈ l <;> simp [addNew, h]

/-- Of the records a cancel leaves, those it meant issue no further read (R380). -/
theorem CoreState.cancelTag_cuts {k : CoreState} {hit : QRec → Bool} {tag : BitVec 32} {y : QRec}
    (hy : y ∈ (k.cancelTag hit tag).inflight) (h : hit y = true) : y.tagInvalid = true ∧ y.reads.length ≤ 32 := by
  obtain ⟨x, -, rfl⟩ := List.mem_map.1 hy
  by_cases hx : hit x = true
  · rw [if_pos hx]
    refine ⟨rfl, ?_⟩
    unfold QRec.cancel
    dsimp only []
    split <;> simp
  · rw [if_neg hx] at h
    exact absurd h hx

/-! ### Prefetches -/

/-- Only the cache of a core's die has changed. -/
structure OnlyDieCache (c : Core) (s t : State) : Prop where
  frame : t = { s with caches := t.caches }
  others : ∀ e : CDie, e ≠ coreDie c → t.caches[e] = s.caches[e]

theorem OnlyDieCache.trans {u : State} (h : OnlyDieCache c s t) (g : OnlyDieCache c t u) : OnlyDieCache c s u where
  frame := by rw [g.frame, h.frame]
  others e ne := (g.others e ne).trans (h.others e ne)

/-- A read that lands changes its die's cache alone (R337, R380). -/
theorem OnlyDieCache.landRead (x : Read) : OnlyDieCache c s (s.landRead c x) := by
  unfold State.landRead State.cacheRead
  split
  · exact ⟨rfl, fun e h => vmodify_other _ _ h.symm⟩
  · exact ⟨rfl, fun _ _ => rfl⟩

theorem OnlyDieCache.landReads (l : List Read) : OnlyDieCache c s (l.foldl (fun s x => s.landRead c x) s) := by
  induction l generalizing s with
  | nil => exact ⟨rfl, fun _ _ => rfl⟩
  | cons x l ih => exact (OnlyDieCache.landRead x).trans ih

/-- The reads of a record that land change its die's cache and leave it none to wait for (R379, R380). -/
theorem State.landAll_keeps (h : s.qrec c r = some q) :
    s.landAll c r = { s with caches := (s.landAll c r).caches, cores := (s.landAll c r).cores } ∧
      (s.landAll c r).qrec c r = some { q with reads := [] } ∧
      ∀ e : CDie, e ≠ coreDie c → (s.landAll c r).caches[e] = s.caches[e] := by
  obtain ⟨frame, others⟩ : OnlyDieCache c s (q.reads.foldl (fun s x => s.landRead c x) s) := .landReads _
  have cores : (q.reads.foldl (fun s x => s.landRead c x) s).cores[c].inflight = s.cores[c].inflight := by rw [frame]
  unfold State.landAll
  rw [h]
  refine ⟨?_, ?_, others⟩
  · dsimp only []
    rw [frame]
    rfl
  · have e := State.modQRec_qrec (s := q.reads.foldl (fun s x => s.landRead c x) s) (c := c) (r := r)
      (f := fun q => { q with reads := [] }) (fun _ => rfl)
    rwa [State.qrec_of_inflight (s := s) cores, h] at e

theorem SameReads.activeList (h : SameReads s t) (d : Desc) (n : Nat) : t.activeList d n = s.activeList d n := by
  have same : t.intAt = s.intAt := by
    funext d i
    exact h.int d _
  unfold State.activeList
  rw [same]

theorem SameReads.prefetchRows (h : SameReads s t) (x : Ctx) (d : Desc) : t.prefetchRows x d = s.prefetchRows x d := by
  unfold State.prefetchRows
  split
  · rfl
  · exact h.activeList _ _

/-- A prefetch whose list is well formed has nothing to do but finish once its reads have landed (R379). -/
theorem prefetchEffect_eq {x : Ctx} {n : Nat} {d : Desc} (hd : x.rd x.r.desc0 = some (n, d))
    (list : (s.prefetchRows x d).isSome = true) : prefetchEffect x q s = s := by
  unfold prefetchEffect
  rw [hd]
  exact if_neg (by simpa [Option.isSome_iff_ne_none] using list)

theorem exec_prefetch (aw : s.awake = true) (run : s.step.status = .running) (hp : s.plan = some p)
    (hrc : p.recAt c r = some rc) (hq : s.qrec c r = some q) (ph : q.phase = .started) (tag : q.tagInvalid = false)
    (w : wantStream 5 rc = true) :
    exec (.prefetch c r) s = (s.landAll c r).runRecord c r (wantStream 5) prefetchReads prefetchEffect := by
  change execPrefetch c r s = _
  unfold execPrefetch
  rw [hp, hq]
  dsimp only []
  rw [hrc]
  exact if_pos (by rw [w]; simp [aw, run, ph, tag])

end Sys2Proof.Machine

open Sys2Proof Sys2Proof.Machine

/-- Settles O52: each record by what its command answers, which is a change of its core, of the dictionary row it reads,
or of its die's cache. -/
theorem quietRecordsLeaveMemory : Obligations.QuietRecordsLeaveMemory := by
  constructor
  · intro s c r p rc q h x
    refine ⟨exec_noOperation h, fun n dir e f hd sound => ?_, fun w => ?_⟩
    · intro st sense count
      obtain ⟨mem, -, -, cores⟩ := State.noteReads_keeps (s := s) (p := p)
        (s.spansOf c p rc q ⟨fun r => [r.desc4].filterMap id, gateSpans⟩)
      have flight := (State.qrec_of_inflight (r := r) (by rw [cores])).trans h.inFlight
      obtain ⟨tallies, skip, sense0, executed, others⟩ := State.gated_keeps sense st count flight
      rw [cores] at tallies
      simp only [cores] at others
      refine ⟨_, exec_regenGate h e f hd sound, mem, others, tallies, executed, fun runs => ?_, fun skips => ?_,
        fun quiet regen => ?_⟩
      · exact skip.trans (if_pos (by obtain ⟨a, b⟩ | ⟨a, b⟩ := runs <;> simp [gateRuns, a, b]))
      · have stops : gateRuns sense st = false := by obtain ⟨a, b⟩ | ⟨a, b⟩ := skips <;> simp [gateRuns, a, b]
        rw [skip, sense0, stops]
        exact ⟨rfl, rfl⟩
      · exact sense0.trans (if_pos (by simp [gateRuns, quiet, regen]))
    · refine ⟨_, exec_cancel h w, ?_, fun missed => ?_, fun hit => ?_⟩
      · split <;> rfl
      · rw [if_neg (by rw [missed]; decide)]
      · rw [if_pos hit, State.modCore_core]
        exact ⟨mem_addNew_self _ _, fun y hy his => CoreState.cancelTag_cuts hy his⟩
  · intro s c r p rc q n d aw run hp hrc hq ph tag passed w v done x hd sound list
    obtain ⟨frame, flight, others⟩ := State.landAll_keeps hq
    have ready : RecordReady v c r p rc done :=
      { awake := by rw [show v = _ from frame]; exact aw
        running := by rw [show v = _ from frame]; exact run
        plan := by rw [show v = _ from frame]; exact hp
        record := hrc, inFlight := flight, started := ph, tag := tag, landed := rfl, tiles := passed }
    have ends := State.runRecord_ready (want := wantStream 5) (effect := prefetchEffect) ready sound w
    obtain ⟨mem, caches, current, cores⟩ := State.noteReads_keeps (s := v) (p := p) (v.spansOf c p rc done prefetchReads)
    rw [prefetchEffect_eq (x := x) hd (by rwa [SameReads.noteReads.prefetchRows])] at ends
    refine ⟨_, (exec_prefetch aw run hp hrc hq ph tag w).trans ends, ?_, ?_, ?_, fun e ne => ?_⟩
    · exact mem.trans (by rw [show v = _ from frame])
    · exact current.trans (by rw [show v = _ from frame])
    · exact State.finish_qrec ((State.qrec_of_inflight (by rw [cores])).trans flight)
    · exact (congrArg (fun v => v[e]) caches).trans (others e ne)
end

section
/-! SUPPORT. Signals that a record sends (R48, R49). -/

namespace Sys2Proof.Machine

variable {s t u : State} {c : Core} {g : Signal}

/-- Only what signalling needs has changed, and no signal under way is gone. -/
structure Signalled (s t : State) : Prop where
  frame : OnlySends { s with signals := t.signals } t
  keeps : ∀ m ∈ s.signals, m ∈ t.signals

theorem Signalled.refl (s : State) : Signalled s s := ⟨rfl, fun _ h => h⟩

theorem Signalled.trans (h : Signalled s t) (g : Signalled t u) : Signalled s u where
  frame := by
    have a := h.frame
    have b := g.frame
    unfold OnlySends at *
    rw [b, a]
  keeps m hm := g.keeps m (h.keeps m hm)

theorem Signalled.of_sends (h : OnlySends s t) : Signalled s t := by
  have e : t.signals = s.signals := by rw [h]
  refine ⟨?_, fun m hm => by rwa [e]⟩
  rw [e]
  exact h

/-- The message of a signal of this step (R49). -/
def State.signalMsg (s : State) (c : Core) (g : Signal) (d : Core) : SignalMsg :=
  ⟨d, g.tally, g.inc, s.step.current, (s.physOf c).val⟩

/-- A signal puts a message on the die fabric of its own core, or of another, or sends it to another module (R45, R49). -/
theorem State.sendSignal_own (h : g.scope = 0) :
    s.sendSignal c g = { s with signals := s.signals ++ [s.signalMsg c g c] } := if_pos h

theorem State.sendSignal_other {d : Core} (h : g.scope = 1) (hd : d.val = g.core.val) :
    s.sendSignal c g = { s with signals := s.signals ++ [s.signalMsg c g d] } := by
  obtain ⟨d, lt⟩ := d
  subst hd
  unfold State.sendSignal
  rw [if_neg (by simp [h]), if_pos h, dif_pos lt]
  rfl

theorem State.sendSignal_nowhere (h : g.scope = 1) (hd : 48 ≤ g.core.val) : s.sendSignal c g = s := by
  unfold State.sendSignal
  rw [if_neg (by simp [h]), if_pos h, dif_neg (by omega)]

theorem State.sendSignal_routed (h : 1 < g.scope.val) : s.sendSignal c g =
    s.sendRouted 0x04 false g.node 0 (toLe 8 s.step.current ++ g.bytes) := by
  have h₀ : g.scope ≠ 0 := fun e => by simp [e] at h
  have h₁ : g.scope ≠ 1 := fun e => by simp [e] at h
  unfold State.sendSignal
  rw [if_neg h₀, if_neg h₁]

theorem Signalled.put (l : List SignalMsg) : Signalled s { s with signals := s.signals ++ l } :=
  ⟨rfl, fun _ h => List.mem_append_left _ h⟩

theorem Signalled.sendSignal : Signalled s (s.sendSignal c g) := by
  obtain h₀ | h₁ | h₂ : g.scope = 0 ∨ g.scope = 1 ∨ 1 < g.scope.val := by omega
  · rw [State.sendSignal_own h₀]
    exact .put _
  · by_cases lt : g.core.val < 48
    · rw [State.sendSignal_other (d := ⟨g.core.val, lt⟩) h₁ rfl]
      exact .put _
    · rw [State.sendSignal_nowhere h₁ (by omega)]
      exact .refl s
  · rw [State.sendSignal_routed h₂]
    exact .of_sends OnlySends.sendRouted

theorem Signalled.foldl (l : List Signal) : Signalled s (l.foldl (fun s g => s.sendSignal c g) s) := by
  induction l generalizing s with
  | nil => exact .refl s
  | cons g l ih => exact Signalled.sendSignal.trans ih

theorem Signalled.sendSignals {r : Rec} : Signalled s (s.sendSignals c r) := .foldl _

theorem Signalled.signalMsg (h : Signalled s t) (d : Core) : t.signalMsg c g d = s.signalMsg c g d := by
  have e := h.frame
  unfold State.signalMsg State.physOf
  rw [e]

/-- Every signal of a record for a core of this module stands under way once its signals are sent (R48, R49). -/
theorem State.sendSignals_put {r : Rec} (hg : g ∈ r.sigs) {d : Core}
    (put : ∀ t : State, t.sendSignal c g = { t with signals := t.signals ++ [t.signalMsg c g d] }) :
    s.signalMsg c g d ∈ (s.sendSignals c r).signals := by
  obtain ⟨before, after, split⟩ := List.append_of_mem hg
  have reached : Signalled s (before.foldl (fun s g => s.sendSignal c g) s) := .foldl before
  unfold State.sendSignals
  rw [split, List.foldl_append, List.foldl_cons, put]
  refine (Signalled.foldl after).keeps _ (List.mem_append_right _ ?_)
  rw [reached.signalMsg]
  exact List.mem_singleton_self _

end Sys2Proof.Machine
end

section
/-! SUPPORT. A record behind one of its queue that has not executed is not started (R51, R53). -/

namespace Sys2Proof.Machine

variable {s t : State} {c : Core} {r : Nat}

/-- The record of a number, if in flight, is not started, and one before it in its queue has not executed. -/
def Behind (c : Core) (r : Nat) (s : State) : Prop :=
  ∀ q, s.qrec c r = some q → q.phase ≠ .started ∧ ∃ x ∈ s.cores[c].ahead q, x.phase ≠ .executed

theorem Behind.of_none (h : s.cores[c].inflight = []) : Behind c r s := by
  intro q hq
  unfold State.qrec at hq
  rw [h] at hq
  cases hq

/-- Records that keep their numbers, their queues and their place stay behind, where none executes and the one in
question does not start. -/
theorem Behind.map {f : QRec → QRec} (h : Behind c r s) (e : t.cores[c].inflight = s.cores[c].inflight.map f)
    (number : ∀ q, (f q).recno = q.recno) (queues : ∀ q, (f q).queues = q.queues)
    (executed : ∀ q, (f q).phase = .executed → q.phase = .executed)
    (started : ∀ q, q.recno = r → (f q).phase = .started → q.phase = .started) : Behind c r t := by
  intro q hq
  unfold State.qrec at hq
  rw [e, List.find?_map] at hq
  simp only [Function.comp_def, number] at hq
  obtain ⟨q, found, rfl⟩ := Option.map_eq_some_iff.1 hq
  obtain ⟨waits, x, hx, unexecuted⟩ := h q found
  refine ⟨fun hs => waits (started q (by simpa using List.find?_some found) hs), f x, ?_,
    fun hx => unexecuted (executed x hx)⟩
  unfold CoreState.ahead at hx ⊢
  rw [e, List.takeWhile_map, List.filter_map]
  simp only [Function.comp_def, number, queues]
  exact List.mem_map_of_mem hx

theorem Behind.of_core (h : Behind c r s) (e : t.cores[c].inflight = s.cores[c].inflight) : Behind c r t :=
  h.map (f := id) (by simpa using e) (fun _ => rfl) (fun _ => rfl) (fun _ => id) (fun _ _ => id)

theorem Behind.of_cores (h : Behind c r s) (e : t.cores = s.cores) : Behind c r t := h.of_core (by rw [e])

theorem Behind.foldl {α : Type} {f : State → α → State} (g : ∀ b x, Behind c r b → Behind c r (f b x)) (l : List α)
    (h : Behind c r s) : Behind c r (l.foldl f s) := by
  induction l generalizing s with
  | nil => exact h
  | cons x l ih => exact ih (g s x h)

theorem Behind.modQRec {d : Core} {n : Nat} {f : QRec → QRec} (h : Behind c r s) (number : ∀ q, (f q).recno = q.recno)
    (queues : ∀ q, (f q).queues = q.queues) (executed : ∀ q, (f q).phase = .executed → q.phase = .executed)
    (started : d = c → n = r → ∀ q, (f q).phase = .started → q.phase = .started) : Behind c r (s.modQRec d n f) := by
  by_cases e : d = c
  · subst e
    refine h.map State.modQRec_inflight (fun q => ?_) (fun q => ?_) (fun q => ?_) (fun q hq => ?_)
    · split <;> simp [number]
    · split <;> simp [queues]
    · split
      · exact executed q
      · exact id
    · split
      · exact started rfl (by omega) q
      · exact id
  · exact h.of_core (by rw [State.modQRec, State.modCore_other e])

theorem Behind.markWaits {d : Core} (h : Behind c r s) : Behind c r (s.markWaits d) := by
  by_cases e : d = c
  · subst e
    refine h.map (congrArg CoreState.inflight State.modCore_core) (fun q => ?_) (fun q => ?_) (fun q => ?_) (fun q _ => ?_)
    · split <;> rfl
    · split <;> rfl
    · split <;> exact id
    · split <;> exact id
  · exact h.of_core (by rw [State.markWaits, State.modCore_other e])

theorem Behind.abortWith {code : BitVec 16} {i : Nat} {d : Bytes} (h : Behind c r s) :
    Behind c r (s.abortWith code i d) := by
  by_cases live : (s.event code i d).stepLive = true
  · exact .of_none (State.abortStep_idle live c).1
  · have still := State.abortStep_still (c := code) (by simpa using live)
    unfold State.abortWith
    rw [still]
    exact h.of_cores (s.event_cores code i d)

/-! ### Starting -/

theorem State.foldl_cores {α : Type} {f : State → α → State} (h : ∀ b x, (f b x).cores = b.cores) (l : List α) :
    (l.foldl f s).cores = s.cores := by
  induction l generalizing s with
  | nil => rfl
  | cons x l ih => exact ih.trans (h s x)

theorem OnlySends.cores (h : OnlySends s t) : t.cores = s.cores := by rw [h]

theorem State.sendWrite_cores {o : Sender} {v a : Nat} {dst : BitVec 16} {b : Bytes} :
    (s.sendWrite o v dst a b).cores = s.cores := by
  refine State.foldl_cores (fun s x => ?_) _
  unfold State.sendPiece
  exact (State.foldl_cores (fun _ _ => OnlySends.sendRouted.cores) _).trans OnlySends.sendRouted.cores

theorem State.sendStage_cores {x : Ctx} {k : Nat} {l : List Piece} : (s.sendStage x k l).cores = s.cores := by
  unfold State.sendStage
  split
  · rfl
  · split
    · rfl
    · dsimp only []
      split
      · exact State.foldl_cores (fun _ _ => State.sendWrite_cores) _
      · rfl

/-- What follows a start changes no core. -/
theorem State.started_cores {p : Plan} {d : Core} {rc : Rec} {q : QRec} : (s.started p d rc q).cores = s.cores := by
  unfold State.started
  dsimp only []
  split <;> split
  · exact State.sendStage_cores
  · exact State.sendStage_cores
  · rfl
  · rfl

/-- No start of a record starts one behind an unexecuted record of its queue (R53). -/
theorem Behind.tryStart {p : Plan} {d : Core} {n : Nat} (h : Behind c r s) : Behind c r (s.tryStart p d n) := by
  unfold State.tryStart
  split
  case h_2 => exact h
  case h_1 q rc hq _ =>
    dsimp only []
    split
    · exact h.abortWith
    · split
      case isFalse => exact h
      case isTrue ready =>
        split
        · refine .of_cores ?_ State.started_cores
          refine h.modQRec (fun _ => rfl) (fun _ => rfl) (fun q e => by cases e) (fun ed en _ _ => ?_)
          subst ed en
          obtain ⟨-, x, hx, unexecuted⟩ := h q hq
          simp only [Bool.and_eq_true, List.all_eq_true, decide_eq_true_eq] at ready
          exact absurd (ready.1.2 x hx) unexecuted
        · split
          · exact h
          · refine .of_cores ?_ OnlySends.addObj.cores
            exact h.modQRec (fun _ => rfl) (fun _ => rfl) (fun _ => id) (fun _ _ _ => id)

theorem Behind.startCore {p : Plan} {d : Core} {pick : Rec → Bool} (h : Behind c r s) :
    Behind c r (s.startCore p d pick) := by
  refine .foldl (fun b n hb => ?_) _ h
  split
  · exact hb.tryStart
  · exact hb

theorem Behind.startAll (h : Behind c r s) : Behind c r s.startAll := by
  unfold State.startAll
  split
  · exact h
  · split
    · exact h
    · exact .foldl (fun _ _ => .foldl (fun _ _ => .startCore) _) _ (.foldl (fun _ _ => .startCore) _ h)

theorem Behind.settle {d : Core} (h : Behind c r s) : Behind c r (s.settle d) := h.markWaits.startAll

end Sys2Proof.Machine
end

section
/-! SUPPORT. The issue of records (O34). -/

namespace Sys2Proof.Machine

variable {s t : State} {c : Core} {p : Plan} {rc : Rec}

/-! ### The conditions -/

/-- A core takes its next record: it has not ended, its islands run, no gate is undecided and the record's waits hold
(R28, R51, R302). -/
def State.takesNext (s : State) (p : Plan) (c : Core) (rc : Rec) : Bool :=
  !s.cores[c].ended && s.island (s.physOf c).val = .run && !(rc.engine = 2 && s.seFenced.contains (s.physOf c).val) &&
    !s.gatePending p c && rc.waits.all (fun w => decide (w.thresh ≤ s.cores[c].tallies[w.tally]))

/-- A record that does not run in the step: its signals go out, its chain's slots are free, and its core passes it (R51,
R234, R266, R302). -/
def State.passOver (s : State) (p : Plan) (c : Core) (rc : Rec) : State :=
  (((s.sendSignals c rc).freeChain p c rc).modCore c (fun k => k.pass rc)).checkDone c

section
variable (aw : s.awake = true) (run : s.step.status = .running) (hp : s.plan = some p)
  (hrc : p.recAt c s.cores[c].next = some rc)
include aw run hp hrc

theorem exec_recordIssue : exec (.recordIssue c) s =
    if s.takesNext p c rc then
      if s.doneAtIssue p c rc then .next (s.passOver p c rc)
      else if rc.queues.all s.cores[c].queueFree then .next (s.issue p c rc) else .next s
    else .next s := by
  change execRecordIssue c s = _
  unfold execRecordIssue
  rw [hp]
  dsimp only []
  rw [hrc]
  dsimp only []
  have guard : (!s.awake || s.step.status ≠ .running || s.cores[c].ended || s.island (s.physOf c).val ≠ .run ||
      (rc.engine = 2 && s.seFenced.contains (s.physOf c).val) || s.gatePending p c ||
      !rc.waits.all (fun w => decide (w.thresh ≤ s.cores[c].tallies[w.tally]))) = !s.takesNext p c rc := by
    simp only [State.takesNext, aw, run, Bool.not_and, Bool.not_or, Bool.not_not, ne_eq, decide_not, decide_true, Bool.not_true,
      Bool.false_or]
  rw [guard]
  cases s.takesNext p c rc <;> cases rc.queues.all s.cores[c].queueFree <;> rfl

/-- A record that its core does not take stays (R51). -/
theorem exec_recordIssue_waits (h : s.takesNext p c rc = false) : exec (.recordIssue c) s = .next s := by
  rw [exec_recordIssue aw run hp hrc, h]
  rfl

end

theorem State.takesNext_of (on : s.cores[c].ended = false) (island : s.island (s.physOf c).val = .run)
    (se : rc.engine = 2 → (s.physOf c).val ∉ s.seFenced) (gate : s.gatePending p c = false)
    (waits : ∀ w ∈ rc.waits, w.thresh ≤ s.cores[c].tallies[w.tally]) : s.takesNext p c rc = true := by
  unfold State.takesNext
  rw [on, gate]
  simpa [island] using ⟨by tauto, waits⟩

theorem State.takesNext_stops (h : s.cores[c].ended = true ∨ s.gatePending p c = true ∨
    ∃ w ∈ rc.waits, s.cores[c].tallies[w.tally] < w.thresh) : s.takesNext p c rc = false := by
  unfold State.takesNext
  obtain h | h | h := h
  · rw [h]
    simp
  · rw [h]
    simp
  · have short : rc.waits.all (fun w => decide (w.thresh ≤ s.cores[c].tallies[w.tally])) = false := by
      simpa using h
    rw [short]
    simp

/-! ### A record that does not run in the step -/

theorem Signalled.cores (h : Signalled s t) : t.cores = s.cores := by
  rw [OnlySends.cores h.frame]

theorem State.passOver_core : (s.passOver p c rc).cores[c] =
    { s.cores[c].pass rc with
        done := (s.cores[c].pass rc).done || ((s.cores[c].pass rc).ended && (s.cores[c].pass rc).inflight.isEmpty) } := by
  have sent : (s.sendSignals c rc).cores = s.cores := Signalled.sendSignals.cores
  have freed : ((s.sendSignals c rc).freeChain p c rc).cores = s.cores := by
    unfold State.freeChain
    split <;> exact sent
  unfold State.passOver State.checkDone
  rw [State.modCore_core, State.modCore_core, freed]

/-- Freeing a chain's slots and passing a record tell nobody anything, and leave memory. -/
theorem State.passOver_keeps : (s.passOver p c rc).mem = (s.sendSignals c rc).mem ∧
    (s.passOver p c rc).signals = (s.sendSignals c rc).signals ∧ (s.passOver p c rc).out = (s.sendSignals c rc).out ∧
    (s.passOver p c rc).ports = (s.sendSignals c rc).ports := by
  unfold State.passOver State.freeChain
  split <;> exact ⟨rfl, rfl, rfl, rfl⟩

theorem Signalled.mem (h : Signalled s t) : t.mem = s.mem := h.frame.sameStore.mem

/-! ### A record that has a place in its queues -/

theorem SameReads.retiredSlot (h : SameReads s t) : t.retiredSlot p rc = s.retiredSlot p rc := by
  have same : t.slotFlag p = s.slotFlag p := by
    funext w
    unfold State.slotFlag State.word
    split
    · rw [h.bytes]
    · rfl
  unfold State.retiredSlot
  rw [same]

/-- A dense record whose arrays must change their partition mode waits, and its wait begins (R156). -/
theorem State.issue_drains (e : rc.engine = 1) (m : s.cores[c].modeOk rc = false) : s.issue p c rc =
    s.modCore c (fun k => { k with drainSince := some (k.drainSince.getD s.gc.value) }) :=
  if_pos (by rw [m]; simp [e])

/-- A dense record whose arrays are in its partition mode, or idle, sets it and is enqueued (R156). -/
theorem State.issue_dense (e : rc.engine = 1) (m : s.cores[c].modeOk rc = true) (slots : s.retiredSlot p rc = none) :
    s.issue p c rc = ((s.endDrain c).modCore c (fun k => k.setMode rc)).enqueue p c rc none := by
  have reads : SameReads s ((s.endDrain c).modCore c (fun k => k.setMode rc)) := by
    unfold State.endDrain
    split <;> exact ⟨fun _ => rfl, rfl⟩
  unfold State.issue
  dsimp only []
  rw [if_neg (by rw [m]; simp), if_pos e, reads.retiredSlot, slots]
  exact if_neg (by simp [e])

section
variable (e : rc.engine ≠ 1)
include e

theorem State.issue_other : s.issue p c rc = match s.retiredSlot p rc with
    | some w => s.abortWith 0x4A01 (s.physOf c).val (slotDetail w)
    | none => if rc.engine = 5 && rc.func = 3 then
        match s.stashSpace p c rc with
        | none => s.abortWith 0x4401 (s.physOf c).val (toLe 4 rc.recno)
        | some a => s.enqueue p c rc (some a)
      else s.enqueue p c rc none := by
  unfold State.issue
  dsimp only []
  rw [if_neg (by simp [e]), if_neg e] <;> rfl

/-- A record that names a retired slot aborts the step (R458). -/
theorem State.issue_retired {w : Nat × Nat} (slots : s.retiredSlot p rc = some w) :
    s.issue p c rc = s.abortWith 0x4A01 (s.physOf c).val (slotDetail w) := by
  rw [State.issue_other e, slots]

theorem State.issue_plain (slots : s.retiredSlot p rc = none) (n : ¬ (rc.engine = 5 ∧ rc.func = 3)) :
    s.issue p c rc = s.enqueue p c rc none := by
  rw [State.issue_other e, slots]
  exact if_neg (by simpa using n)

theorem State.issue_stash {a : StashAlloc} (slots : s.retiredSlot p rc = none) (n : rc.engine = 5 ∧ rc.func = 3)
    (space : s.stashSpace p c rc = some a) : s.issue p c rc = s.enqueue p c rc (some a) := by
  rw [State.issue_other e, slots, space]
  exact if_pos (by simpa using n)

end

/-- A record as it enters its queues: granted where it needs no credits and its sheaves are resident (R51, R363). -/
def State.queued (s : State) (p : Plan) (c : Core) (rc : Rec) : QRec :=
  { recno := rc.recno, queues := rc.queues
    phase := if (p.needOf c rc.recno).isNone && s.sheavesIn p c rc then .granted else .issued
    noCount := decide (0 < s.cores[c].sense0), startedGc := s.gc.value }

theorem State.queued_waits : (s.queued p c rc).phase ≠ .started := by
  unfold State.queued
  dsimp only []
  split <;> decide

/-- A record that is enqueued stands at the end of its core's records before it is settled (R51). -/
theorem State.enqueue_last : ∃ u : State, s.enqueue p c rc none = u.settle c ∧
    u.cores[c].inflight = s.cores[c].inflight ++ [s.queued p c rc] := by
  refine ⟨_, rfl, ?_⟩
  rw [State.modCore_core]
  dsimp only []
  rw [State.foldl_cores (fun b n => by split <;> rfl)]
  rfl

/-- A record of the core sequencer that is enqueued behind one of its queue that has not executed is not started (R53). -/
theorem State.enqueue_behind (e : rc.engine = 0) (new : s.qrec c rc.recno = none) {x : QRec}
    (hx : x ∈ s.cores[c].inflight) (queue : QueueId.csq ∈ x.queues) (unexecuted : x.phase ≠ .executed) :
    ∀ q, (s.enqueue p c rc none).qrec c rc.recno = some q → q.phase ≠ .started := by
  obtain ⟨u, settled, flight⟩ := State.enqueue_last (s := s) (p := p) (c := c) (rc := rc)
  have before : ∀ y ∈ s.cores[c].inflight, y.recno ≠ rc.recno := by
    unfold State.qrec at new
    simpa using new
  have behind : Behind c rc.recno u := by
    intro q hq
    unfold State.qrec at hq
    rw [flight, List.find?_append, show s.cores[c].inflight.find? _ = none from new] at hq
    obtain rfl : s.queued p c rc = q := by simpa [State.queued] using hq
    refine ⟨State.queued_waits, x, ?_, unexecuted⟩
    unfold CoreState.ahead
    rw [flight, List.takeWhile_append_of_pos (by simpa [State.queued] using before)]
    simpa [State.queued, Rec.queues, e, queue] using hx
  rw [settled]
  exact fun q hq => (behind.settle q hq).1

end Sys2Proof.Machine

open Sys2Proof Sys2Proof.Machine

/-- Settles O34: the branches of issue, each by its lemma; a record behind another of the core sequencer's queue is held
back by `Behind`, which every start keeps. -/
theorem recordsIssueInOrder : Obligations.RecordsIssueInOrder := by
  intro s c p rc aw run hp hrc
  have go := exec_recordIssue aw run hp hrc
  have stays (h : s.takesNext p c rc = false) := exec_recordIssue_waits aw run hp hrc h
  refine ⟨fun h => stays (State.takesNext_stops (.inl h)), fun h => stays (State.takesNext_stops (.inr (.inr h))),
    fun h => stays (State.takesNext_stops (.inr (.inl h))), fun on island se gate waits => ?_⟩
  rw [if_pos (State.takesNext_of on island se gate waits)] at go
  refine ⟨fun quiet => ?_, fun runs full => ?_, fun runs free => ?_⟩
  · rw [if_pos quiet] at go
    obtain ⟨mem, signals, out, ports⟩ := State.passOver_keeps (s := s) (p := p) (c := c) (rc := rc)
    have core := State.passOver_core (s := s) (p := p) (c := c) (rc := rc)
    have sent : Signalled s (s.sendSignals c rc) := .sendSignals
    refine ⟨_, go, by rw [core]; rfl, by rw [core]; rfl, mem.trans sent.mem, by rw [core]; rfl, fun g hg => ⟨fun own => ?_,
      fun die d hd => ?_⟩, fun none => ?_, fun g one far => ?_⟩
    · rw [signals]
      exact State.sendSignals_put hg (fun t => State.sendSignal_own (Fin.ext own))
    · rw [signals]
      exact State.sendSignals_put hg (fun t => State.sendSignal_other (Fin.ext die) hd)
    · rw [signals, out, ports]
      unfold State.sendSignals
      rw [none]
      exact ⟨rfl, rfl, rfl⟩
    · have routed : s.sendSignals c rc = s.sendRouted 0x04 false g.node 0 (toLe 8 s.step.current ++ g.bytes) := by
        unfold State.sendSignals
        rw [one]
        exact State.sendSignal_routed far
      have frame : OnlySends s (s.sendRouted 0x04 false g.node 0 (toLe 8 s.step.current ++ g.bytes)) := .sendRouted
      intro u
      rw [signals, out, ports, routed]
      exact ⟨by rw [frame], rfl, rfl⟩
  · have short : rc.queues.all s.cores[c].queueFree = false := by simpa using full
    rw [if_neg (by rw [runs]; decide), if_neg (by rw [short]; decide)] at go
    exact go
  · have room : rc.queues.all s.cores[c].queueFree = true := List.all_eq_true.2 free
    rw [if_neg (by rw [runs]; decide), if_pos room] at go
    have live : s.stepLive = true := by simp [State.stepLive, run]
    refine ⟨fun e m => ?_, fun e w slots => ?_, fun slots => ⟨fun e n => ?_, fun e new ⟨x, hx, queue, unexecuted⟩ => ?_,
      fun e m => ?_, fun a e f space => ?_⟩⟩
    · exact go.trans (congrArg Host.Outcome.next (State.issue_drains e m))
    · exact ⟨_, go.trans (congrArg Host.Outcome.next (State.issue_retired e slots)), State.abortWith_status rfl live⟩
    · exact go.trans (congrArg Host.Outcome.next (State.issue_plain e slots n))
    · exact ⟨_, go.trans (congrArg Host.Outcome.next (State.issue_plain (by simp [e]) slots (by simp [e]))),
        State.enqueue_behind e new hx queue unexecuted⟩
    · exact go.trans (congrArg Host.Outcome.next (State.issue_dense e m slots))
    · exact go.trans (congrArg Host.Outcome.next (State.issue_stash (by simp [e]) slots ⟨e, f⟩ space))
end

section
/-! SUPPORT. Segmented writes: what an accepted segment does, by its entry (O49). -/

namespace Sys2Proof.Machine

variable {s t u : State} {q : Req}

/-! ### Accepted requests -/

/-- An accepted request executes, and its answer is counted, kept and sent (R461, R462, R471). -/
theorem State.serve_accepted (h : Accepted s q) :
    s.serve q = .next (((s.touch q.src).perform q).1.replied q ((s.touch q.src).perform q).2) := by
  have heard := h.heard
  unfold State.serve State.execute
  rw [heard, h.fresh]
  dsimp only []
  rw [h.checks]
  rfl

/-- An accepted request carries at most 4,096 bytes (R461). -/
theorem Accepted.payload_le (h : Accepted s q) : q.payload.length ≤ 4096 := by
  have checks := h.checks
  unfold State.screen State.checks at checks
  have ok : q.wellFormed = true := firstFail_ok checks (by simp) (q.wellFormed, .badFrame) (by simp)
  simp only [Req.wellFormed, Bool.and_eq_true, decide_eq_true_eq] at ok
  obtain ⟨⟨⟨-, short⟩, -⟩, -⟩ := ok
  exact short

theorem State.perform_segment (op : q.op = 4) : s.perform q = s.execSegment q := by simp [State.perform, op]

/-! ### Segments and transfers -/

/-- The transfer of a segment with the segment in its place (R463). -/
def State.joined (s : State) (q : Req) : Transfer := ((s.ongoing q).getD ⟨q.src, [], none, 0, true⟩).add q s.uptime

/-- A module that has taken a segment: its transfer has begun, and a plan image's bytes stand in the staged slot (R39,
R56, R463). -/
def State.segmentTaken (s : State) (q : Req) : State :=
  (if (s.ongoing q).isNone then (s.noteUnchecked q).beginTransfer q else s.noteUnchecked q).storeSegment q

/-- The transfer of an entry is over. -/
def State.transferOver (s : State) (q : Req) : State :=
  { s with mgmt := { s.mgmt with transfers := dropKey (objKey q.idx q.sub) s.mgmt.transfers } }

/-- A segment that leaves its transfer open is kept with it (R463). -/
theorem State.execSegment_open (h : (s.joined q).whole = none) : s.execSegment q =
    ({ s.segmentTaken q with mgmt := { (s.segmentTaken q).mgmt with
      transfers := setKey (objKey q.idx q.sub) (s.joined q) (s.segmentTaken q).mgmt.transfers } }, ⟨.ok, [], false⟩) := by
  unfold State.joined at h
  unfold State.execSegment
  dsimp only []
  rw [h]
  rfl

/-- The segment that makes a transfer whole gives the entry its bytes (R463). -/
theorem State.execSegment_whole {b : Bytes} (h : (s.joined q).whole = some b) : s.execSegment q =
    let f := ((s.segmentTaken q).transferOver q).finishTransfer q.idx q.sub b
    (if (s.joined q).signed then f.1.redraw else f.1, ⟨f.2, [], false⟩) := by
  unfold State.joined at h
  unfold State.execSegment
  dsimp only []
  rw [h]
  rfl

/-- A first segment begins its transfer (R463). -/
theorem State.joined_first (h : q.h.ioffset = 0) : s.joined q =
    ⟨q.src, [(0, q.payload)], if q.last then some q.payload.length else none, s.uptime, q.signed⟩ := by
  have off : q.h.ioffset.toNat = 0 := by rw [h]; rfl
  unfold State.joined State.ongoing Transfer.add
  rw [if_pos h, off]
  simp [setKey]

/-- A later segment joins its transfer (R463). -/
theorem State.joined_later {y : Transfer} (h : q.h.ioffset ≠ 0) (hy : s.transferOf q = some y) : s.joined q =
    y.add q s.uptime := by
  unfold State.joined State.ongoing
  rw [if_neg h, hy]
  rfl

theorem Transfer.whole_open {x : Transfer} (h : x.len = none) : x.whole = none := by
  unfold Transfer.whole
  rw [h]
  rfl

/-- One segment is a whole transfer (R463). -/
theorem Transfer.whole_one {src : Source} {b : Bytes} {now : Nat} {signed : Bool} (pos : 0 < b.length)
    (le : b.length ≤ 4096) : Transfer.whole ⟨src, [(0, b)], some b.length, now, signed⟩ = some b := by
  have one : ceilDiv b.length 4096 = 1 := by unfold ceilDiv; omega
  simp [Transfer.whole, one, List.range_succ, lookupKey]

/-- A segment at offset 4,096 ends a transfer of two (R463). -/
theorem Transfer.whole_two {src : Source} {a b : Bytes} {now : Nat} {signed : Bool} (le : b.length ≤ 4096) :
    Transfer.whole ⟨src, [(0, a), (4096, b)], some (4096 + b.length), now, signed⟩ = some (a ++ b) := by
  by_cases none : b = []
  · subst none
    simp [Transfer.whole, ceilDiv, List.range_succ, lookupKey]
  · have pos : 0 < b.length := List.length_pos_of_ne_nil none
    have two : ceilDiv (4096 + b.length) 4096 = 2 := by unfold ceilDiv; omega
    simp [Transfer.whole, two, List.range_succ, lookupKey]

/-! ### What taking a segment leaves -/

/-- What a segment may change before its transfer ends: the staged slot and the staged programs, memory, the dictionary,
and what logging needs (R39, R56, R520). -/
structure OnlyStages (s t : State) : Prop where
  frame : t = { s with slots := t.slots, nv := t.nv, mem := t.mem, poison := t.poison, caches := t.caches, od := t.od,
                       log := t.log, mgmt := t.mgmt, out := t.out }
  fuses : t.nv.fuses = s.nv.fuses
  active : t.mgmt.active = s.mgmt.active

theorem OnlyStages.refl (s : State) : OnlyStages s s := ⟨rfl, rfl, rfl⟩

theorem OnlyStages.trans (h : OnlyStages s t) (g : OnlyStages t u) : OnlyStages s u where
  frame := by rw [g.frame, h.frame]
  fuses := g.fuses.trans h.fuses
  active := g.active.trans h.active

theorem OnlyStages.step (h : OnlyStages s t) : t.step = s.step := by rw [h.frame]

theorem OnlyStages.plan (h : OnlyStages s t) : t.plan = s.plan := by rw [h.frame]

theorem OnlyStages.activeSlot (h : OnlyStages s t) : t.activeSlot = s.activeSlot := by rw [h.frame]

theorem OnlyStages.coreMap (h : OnlyStages s t) : t.coreMap = s.coreMap := by rw [h.frame]

theorem OnlyStages.blobs (h : OnlyStages s t) : t.blobs = s.blobs := by rw [h.frame]

theorem OnlyStages.keyUnusable (h : OnlyStages s t) : t.keyUnusable = s.keyUnusable := by rw [h.frame]

theorem OnlyStages.customerKey (h : OnlyStages s t) : t.customerKey = s.customerKey := by
  unfold State.customerKey
  rw [h.keyUnusable, h.fuses]

theorem OnlyStages.mgmtIsland (h : OnlyStages s t) : t.mgmtIsland = s.mgmtIsland := by
  unfold State.mgmtIsland
  rw [h.active]

theorem OnlyStages.setObj {i j v : Nat} : OnlyStages s (s.setObj i j v) := ⟨rfl, rfl, rfl⟩

theorem OnlyStages.addObj {i j v : Nat} : OnlyStages s (s.addObj i j v) := setObj

theorem State.event_active {c : BitVec 16} {i : Nat} {d : Bytes} : (s.event c i d).mgmt.active = s.mgmt.active := by
  unfold State.event
  dsimp only []
  split <;> split <;> rfl

theorem OnlyStages.mgmtEvent {c : BitVec 16} {d : Bytes} : OnlyStages s (s.mgmtEvent c d) where
  frame := by
    unfold State.mgmtEvent
    rw [s.event_frame]
  fuses := by simp
  active := State.event_active

/-- Noting the first unchecked write changes only logging and management's note of it (R492). -/
theorem OnlyStages.noteUnchecked : OnlyStages s (s.noteUnchecked q) := by
  unfold State.noteUnchecked
  split
  · exact .trans (t := { s with mgmt := { s.mgmt with uncheckedSeen := true } }) ⟨rfl, rfl, rfl⟩ .mgmtEvent
  · exact .refl s

theorem OnlyStages.setPlanStatus {a b c d : Nat} : OnlyStages s (s.setPlanStatus a b c d) :=
  setObj.trans (setObj.trans (setObj.trans setObj))

theorem OnlyStages.setStagedSlot {x : PlanSlot} : OnlyStages s (s.setStagedSlot x) := ⟨rfl, rfl, rfl⟩

theorem OnlyStages.setStagedProgram {k : Kind} {p : Option Program} : OnlyStages s (s.setStagedProgram k p) := ⟨rfl, rfl, rfl⟩

theorem OnlyStages.beginTransfer : OnlyStages s (s.beginTransfer q) := by
  unfold State.beginTransfer
  split
  · exact setStagedSlot.trans setPlanStatus
  · split
    · exact setStagedProgram.trans (setObj.trans setObj)
    · exact .refl s
  · exact .refl s

theorem OnlyStages.foldl {α : Type} {f : State → α → State} (g : ∀ b x, OnlyStages b (f b x)) (l : List α) :
    OnlyStages s (l.foldl f s) := by
  induction l generalizing s with
  | nil => exact .refl s
  | cons x l ih => exact (g s x).trans ih

theorem OnlyStages.writeRun {a : Nat} {b : Bytes} : OnlyStages s (s.writeRun a b) := by
  unfold State.writeRun
  dsimp only []
  split
  · exact .refl s
  · split
    · refine .trans ?_ (.foldl (fun _ _ => .addObj) _)
      exact ⟨rfl, rfl, rfl⟩
    · exact ⟨rfl, rfl, rfl⟩

theorem OnlyStages.storeSegment : OnlyStages s (s.storeSegment q) := by
  unfold State.storeSegment
  dsimp only []
  split
  · exact .writeRun
  · exact .refl s

theorem OnlyStages.segmentTaken : OnlyStages s (s.segmentTaken q) := by
  unfold State.segmentTaken
  split
  · exact .trans .noteUnchecked (.trans .beginTransfer .storeSegment)
  · exact .trans .noteUnchecked .storeSegment

theorem OnlyStages.transferOver : OnlyStages s (s.transferOver q) := ⟨rfl, rfl, rfl⟩

theorem OnlyStages.touch {src : Source} : OnlyStages s (s.touch src) := ⟨rfl, rfl, rfl⟩

/-- The segment of an entry that is no plan image stores nothing in memory. -/
theorem State.segmentTaken_mem (h : q.idx ≠ 0x5000) : (s.segmentTaken q).mem = s.mem := by
  have noted : (s.noteUnchecked q).mem = s.mem := by
    unfold State.noteUnchecked
    split <;> simp
  have begun : ((s.noteUnchecked q).beginTransfer q).mem = s.mem := by
    refine Eq.trans ?_ noted
    unfold State.beginTransfer
    split
    · contradiction
    · split <;> rfl
    · rfl
  have stored (t : State) : t.storeSegment q = t := if_neg (by simp [h])
  unfold State.segmentTaken
  rw [stored]
  split
  · exact begun
  · exact noted

/-- A segment that is accepted leaves its transfer open, and all but the staging as it was (R463). -/
theorem State.serve_open (h : Accepted s q) (op : q.op = 4) (part : ((s.touch q.src).joined q).whole = none) :
    ∃ u : State, s.serve q = .next (u.replied q ⟨.ok, [], false⟩) ∧
      lookupKey (objKey q.idx q.sub) u.mgmt.transfers = some ((s.touch q.src).joined q) ∧
      u.blobs = s.blobs ∧ u.nv.fuses = s.nv.fuses ∧ u.plan = s.plan ∧ u.step = s.step := by
  have go := State.serve_accepted h
  rw [State.perform_segment op, State.execSegment_open part] at go
  have k : OnlyStages s ((s.touch q.src).segmentTaken q) := OnlyStages.touch.trans .segmentTaken
  exact ⟨_, go, lookupKey_setKey_self _ _ _, k.blobs, k.fuses, k.plan, k.step⟩

/-- A module whose request has brought the last segment of its transfer: the segment is taken, the transfer over. -/
def State.imageIn (s : State) (q : Req) : State := ((s.touch q.src).segmentTaken q).transferOver q

theorem OnlyStages.imageIn : OnlyStages s (s.imageIn q) := touch.trans (segmentTaken.trans transferOver)

theorem State.imageIn_mem (h : q.idx ≠ 0x5000) : (s.imageIn q).mem = s.mem :=
  State.segmentTaken_mem (s := s.touch q.src) h

/-- A redrawn challenge changes only management's word and the draws taken. -/
def OnlyDraws (s t : State) : Prop := t = { s with mgmt := t.mgmt, freeCount := t.freeCount }

/-- A segment that makes its transfer whole, and what its entry then makes of the bytes (R463). -/
theorem State.serve_whole {b : Bytes} (h : Accepted s q) (op : q.op = 4)
    (whole : ((s.touch q.src).joined q).whole = some b) :
    ∃ u : State, OnlyDraws ((s.imageIn q).finishTransfer q.idx q.sub b).1 u ∧
      s.serve q = .next (u.replied q ⟨((s.imageIn q).finishTransfer q.idx q.sub b).2, [], false⟩) := by
  have go := State.serve_accepted h
  rw [State.perform_segment op, State.execSegment_whole whole] at go
  refine ⟨_, ?_, go⟩
  split <;> exact rfl

end Sys2Proof.Machine
end

section
/-! SUPPORT. Segments that leave a transfer open, and transfers that end in a table entry (O49). -/

namespace Sys2Proof.Machine

variable {s t u : State} {q : Req}

/-- What a segment that leaves its transfer open does (R463): the answer is `OK`, the transfer stands, the entry does
not change. -/
def LeavesOpen (s : State) (q : Req) (y : Transfer) : Prop :=
  ∃ u : State, s.serve q = .next (u.replied q ⟨.ok, [], false⟩) ∧
    lookupKey (objKey q.idx q.sub) u.mgmt.transfers = some y ∧
    u.blobs = s.blobs ∧ u.nv.fuses = s.nv.fuses ∧ u.plan = s.plan ∧ u.step = s.step

/-- The first segment, where more follow (R463). -/
theorem leavesOpen_first (h : Accepted s q) (op : q.op = 4) (more : q.last = false) (first : q.h.ioffset = 0) :
    LeavesOpen s q ⟨q.src, [(0, q.payload)], none, s.uptime, q.signed⟩ := by
  have x : (s.touch q.src).joined q = ⟨q.src, [(0, q.payload)], none, s.uptime, q.signed⟩ := by
    rw [State.joined_first first, more]
    rfl
  have opened := State.serve_open h op (by rw [x]; exact Transfer.whole_open rfl)
  rwa [x] at opened

/-- A later segment, where the end has not come (R463). -/
theorem leavesOpen_later (h : Accepted s q) (op : q.op = 4) (more : q.last = false) (later : q.h.ioffset ≠ 0)
    {y : Transfer} (going : s.transferOf q = some y) (ending : y.len = none) :
    LeavesOpen s q { y with pieces := setKey q.h.ioffset.toNat q.payload y.pieces, last := s.uptime,
                            signed := y.signed && q.signed } := by
  have x : (s.touch q.src).joined q = { y with pieces := setKey q.h.ioffset.toNat q.payload y.pieces, last := s.uptime,
                                               signed := y.signed && q.signed } := by
    have same : (s.touch q.src).transferOf q = some y := going
    rw [State.joined_later later same]
    unfold Transfer.add
    rw [more]
    simp only [Bool.false_eq_true, ↓reduceIte]
    rfl
  have opened := State.serve_open h op (by rw [x]; exact Transfer.whole_open ending)
  rwa [x] at opened

/-! ### Transfers of table entries (R35, R431, R452, R466) -/

/-- The bytes a table entry takes: a tap of 16, a queue-pair table of whole entries of 32 (R431, R452). -/
def fitsTable (idx : Nat) (b : Bytes) : Prop :=
  idx = 0x2A08 ∧ b.length = 16 ∨ idx = 0x1103 ∧ b.length % 32 = 0 ∧ b.length ≤ 8192

theorem State.finishTransfer_table {i j : Nat} {b : Bytes} (fits : fitsTable i b) :
    s.finishTransfer i j b = ({ s with blobs := setKey (objKey i j) b s.blobs }, .ok) := by
  obtain ⟨rfl, len⟩ | ⟨rfl, whole, le⟩ := fits
  · exact if_pos (by simp [len])
  · exact if_pos (by simp [whole]; omega)

/-- The segment that makes a table entry's transfer whole gives the entry its bytes (R463). -/
theorem State.serve_table {b : Bytes} (h : Accepted s q) (op : q.op = 4)
    (whole : ((s.touch q.src).joined q).whole = some b) (fits : fitsTable q.idx b) :
    ∃ u : State, s.serve q = .next (u.replied q ⟨.ok, [], false⟩) ∧
      lookupKey (objKey q.idx q.sub) u.blobs = some b ∧ u.mem = s.mem ∧ u.step = s.step := by
  obtain ⟨u, drawn, go⟩ := State.serve_whole h op whole
  rw [State.finishTransfer_table fits] at drawn go
  have notImage : q.idx ≠ 0x5000 := by
    obtain ⟨e, -⟩ | ⟨e, -⟩ := fits <;> rw [e] <;> decide
  refine ⟨u, go, ?_, ?_, ?_⟩
  · rw [drawn]
    exact lookupKey_setKey_self _ _ _
  · rw [drawn]
    exact State.imageIn_mem notImage
  · rw [drawn]
    exact (OnlyStages.imageIn (s := s) (q := q)).step

/-- A table entry of one segment. -/
theorem State.serve_table_one (h : Accepted s q) (op : q.op = 4) (last : q.last = true) (first : q.h.ioffset = 0)
    (pos : 0 < q.payload.length) (fits : fitsTable q.idx q.payload) :
    ∃ u : State, s.serve q = .next (u.replied q ⟨.ok, [], false⟩) ∧
      lookupKey (objKey q.idx q.sub) u.blobs = some q.payload ∧ u.mem = s.mem ∧ u.step = s.step := by
  refine State.serve_table h op ?_ fits
  rw [State.joined_first first, last]
  exact Transfer.whole_one pos h.payload_le

/-- A table entry of two segments. -/
theorem State.serve_table_two {y : Transfer} {b0 : Bytes} (h : Accepted s q) (op : q.op = 4) (last : q.last = true)
    (second : q.h.ioffset = 4096) (going : s.transferOf q = some y) (half : y.pieces = [(0, b0)])
    (fits : fitsTable q.idx (b0 ++ q.payload)) :
    ∃ u : State, s.serve q = .next (u.replied q ⟨.ok, [], false⟩) ∧
      lookupKey (objKey q.idx q.sub) u.blobs = some (b0 ++ q.payload) ∧ u.mem = s.mem ∧ u.step = s.step := by
  refine State.serve_table h op ?_ fits
  have later : q.h.ioffset ≠ 0 := by rw [second]; decide
  have off : q.h.ioffset.toNat = 4096 := by rw [second]; rfl
  have same : (s.touch q.src).transferOf q = some y := going
  rw [State.joined_later later same]
  unfold Transfer.add
  rw [half, last, off]
  exact Transfer.whole_two h.payload_le

/-! ### The customer key (R493, R539) -/

/-- A customer key of 1,312 bytes appends the fuse with its hash (R539). -/
theorem State.programKey_fits {b : Bytes} (len : b.length = 1312) :
    (s.programKey b).2 = .ok ∧ (s.programKey b).1.nv.fuses = s.nv.fuses ++ [some (BitVec.ofNat 256 (sha3Nat b))] ∧
      (s.programKey b).1.keyUnusable = s.keyUnusable := by
  have e : s.programKey b = (({ s with nv := s.nv.modStores (fun x => { x with customerKey := some b }) }).fuse
      (some (BitVec.ofNat 256 (sha3Nat b))), .ok) := if_neg (not_not.2 len)
  rw [e]
  unfold State.fuse
  exact ⟨rfl, by rw [State.mgmtEvent_nv]; rfl, by simp [State.mgmtEvent]⟩

/-- The newest fuse is the customer key of a module whose key is usable (R539). -/
theorem State.customerKey_append {k : BitVec 256} {l : List (Option (BitVec 256))} (usable : s.keyUnusable = false)
    (h : s.nv.fuses = l ++ [some k]) : s.customerKey = some k := by
  unfold State.customerKey
  rw [usable, h, List.getLast?_concat]
  rfl

theorem State.serve_customerKey (h : Accepted s q) (op : q.op = 4) (idx : q.idx = 0x1006) (last : q.last = true)
    (first : q.h.ioffset = 0) (len : q.payload.length = 1312) (usable : s.keyUnusable = false) :
    ∃ u : State, s.serve q = .next (u.replied q ⟨.ok, [], false⟩) ∧
      u.nv.fuses = s.nv.fuses ++ [some (BitVec.ofNat 256 (sha3Nat q.payload))] ∧
      u.customerKey = some (BitVec.ofNat 256 (sha3Nat q.payload)) := by
  have whole : ((s.touch q.src).joined q).whole = some q.payload := by
    rw [State.joined_first first, last]
    exact Transfer.whole_one (by omega) h.payload_le
  obtain ⟨u, drawn, go⟩ := State.serve_whole h op whole
  have k : OnlyStages s (s.imageIn q) := .imageIn
  have f : (s.imageIn q).finishTransfer q.idx q.sub q.payload = (s.imageIn q).programKey q.payload := by rw [idx]; rfl
  obtain ⟨ok, fuses, unusable⟩ := State.programKey_fits (s := s.imageIn q) len
  rw [f, ok] at go
  rw [f] at drawn
  have fused : u.nv.fuses = s.nv.fuses ++ [some (BitVec.ofNat 256 (sha3Nat q.payload))] := by
    rw [drawn, ← k.fuses]
    exact fuses
  have ku : u.keyUnusable = false := by
    rw [drawn, ← usable]
    exact unusable.trans k.keyUnusable
  exact ⟨u, go, fused, State.customerKey_append ku fused⟩

end Sys2Proof.Machine
end

section
/-! SUPPORT. Plan images and update images, once every byte has arrived (O49). -/

namespace Sys2Proof.Machine

variable {s t u : State} {q : Req} {img : Bytes}

/-! ### Verifying a plan image (R40) -/

/-- A refusal's detail fits an event (R488). -/
def Verdict.Fits (v : Verdict) : Prop := ∀ code detail desc dcode, v = .refused code detail desc dcode → detail.length ≤ 10

theorem refuse_fits {n : Nat} : (refuse n).Fits := by
  rintro code detail desc dcode ⟨⟩
  simp

theorem Verdict.fits_refused {c n k : Nat} {d : Bytes} (h : d.length ≤ 10) : (Verdict.refused c d n k).Fits := by
  rintro code detail desc dcode ⟨⟩
  exact h

theorem Verdict.fits_verified {p : Plan} : (Verdict.verified p).Fits := by
  rintro code detail desc dcode ⟨⟩

theorem State.verifyBody_fits {ss : List Sect} : (s.verifyBody img ss).Fits := by
  unfold State.verifyBody
  split
  · exact refuse_fits
  · dsimp only []
    split_ifs
    · exact refuse_fits
    · exact refuse_fits
    · exact refuse_fits
    · split
      · exact Verdict.fits_refused (by simp)
      · split
        · exact Verdict.fits_refused (by simp)
        · exact Verdict.fits_verified

theorem State.verify_fits : (s.verify img).Fits := by
  unfold State.verify
  split_ifs
  · exact refuse_fits
  · exact refuse_fits
  · exact refuse_fits
  · exact refuse_fits
  · exact refuse_fits
  · split
    · exact refuse_fits
    · split_ifs
      · exact State.verifyBody_fits
      · exact refuse_fits

/-- A verdict depends on memory, the dictionary and the customer key alone. -/
theorem State.verify_congr (mem : SameReads s t) (od : t.od = s.od) (key : t.customerKey = s.customerKey) :
    t.verify img = s.verify img := by
  have obj (i j : Nat) : t.obj i j = s.obj i j := by
    unfold State.obj
    rw [od]
  have signature : t.signatureOk img = s.signatureOk img := by
    unfold State.signatureOk
    rw [key]
  have fmt (p : Plan) (n : Nat) : t.streamTfmt p n = s.streamTfmt p n := by
    unfold State.streamTfmt State.word
    simp only [mem.bytes]
  have streams (p : Plan) : t.wrongStream p = s.wrongStream p := by
    unfold State.wrongStream
    simp only [fmt]
  have micro (p : Plan) : t.microFail p = s.microFail p := by
    unfold State.microFail State.programCheck
    simp only [obj]
  have body (ss : List Sect) : t.verifyBody img ss = s.verifyBody img ss := by
    unfold State.verifyBody
    simp only [streams, micro]
  unfold State.verify
  simp only [obj, signature, body]

/-! ### Staging a plan image (R39, R40, R56) -/

/-- What `PLAN_STATUS` says: state, check, descriptor and the descriptor's check. -/
structure PlanStatus (t : State) (st code desc dcode : Nat) : Prop where
  state : t.obj 0x5001 0 = st
  code : t.obj 0x5001 1 = code
  desc : t.obj 0x5001 2 = desc
  descCode : t.obj 0x5001 3 = dcode

theorem State.setPlanStatus_reads {a b c d : Nat} (w : Assoc.wf objDefault s.od = true) :
    PlanStatus (s.setPlanStatus a b c d) a b c d := by
  have w1 := State.setObj_wf w 0x5001 0 a
  have w2 := State.setObj_wf w1 0x5001 1 b
  have w3 := State.setObj_wf w2 0x5001 2 c
  constructor
  all_goals
    unfold State.setPlanStatus
    simp [State.obj_setObj w3, State.obj_setObj w2, State.obj_setObj w1, State.obj_setObj w, objKey]

theorem PlanStatus.of_od {a b c d : Nat} (h : PlanStatus s a b c d) (od : t.od = s.od) : PlanStatus t a b c d := by
  obtain ⟨state, code, desc, descCode⟩ := h
  unfold State.obj at state code desc descCode
  rw [← od] at state code desc descCode
  exact ⟨state, code, desc, descCode⟩

theorem PlanStatus.keep {a b c d : Nat} (h : PlanStatus s a b c d) (w : Assoc.wf objDefault s.od = true)
    (k : KeepsEntry 0x5001 s t) : PlanStatus t a b c d where
  state := ((k w).2 0 (by decide)).trans h.state
  code := ((k w).2 1 (by decide)).trans h.code
  desc := ((k w).2 2 (by decide)).trans h.desc
  descCode := ((k w).2 3 (by decide)).trans h.descCode

theorem State.stagedSlot_setStagedSlot {x : PlanSlot} : (s.setStagedSlot x).stagedSlot = x := by
  unfold State.setStagedSlot State.stagedSlot
  dsimp only []
  split <;> rfl

@[simp] theorem State.setPlanStatus_slots {a b c d : Nat} : (s.setPlanStatus a b c d).slots = s.slots := by
  unfold State.setPlanStatus
  rfl

@[simp] theorem State.setPlanStatus_stagedSlot {a b c d : Nat} : (s.setPlanStatus a b c d).stagedSlot = s.stagedSlot := by
  unfold State.setPlanStatus
  rfl

@[simp] theorem State.setPlanStatus_mem {a b c d : Nat} : (s.setPlanStatus a b c d).mem = s.mem := by
  unfold State.setPlanStatus
  rfl

theorem State.setPlanStatus_wf {a b c d : Nat} (w : Assoc.wf objDefault s.od = true) :
    Assoc.wf objDefault (s.setPlanStatus a b c d).od = true := by
  unfold State.setPlanStatus
  exact State.setObj_wf (State.setObj_wf (State.setObj_wf (State.setObj_wf w _ _ _) _ _ _) _ _ _) _ _ _

@[simp] theorem State.mgmtEvent_stagedSlot {c : BitVec 16} {d : Bytes} : (s.mgmtEvent c d).stagedSlot = s.stagedSlot := by
  unfold State.stagedSlot
  rw [State.mgmtEvent_activeSlot, State.mgmtEvent_slots]

/-- The staged slot set, with its status (R40). -/
def State.judge (s : State) (x : PlanSlot) (a b c d : Nat) : State := (s.setStagedSlot x).setPlanStatus a b c d

theorem OnlyStages.judge {x : PlanSlot} {a b c d : Nat} : OnlyStages s (s.judge x a b c d) :=
  setStagedSlot.trans setPlanStatus

theorem State.judge_mem {x : PlanSlot} {a b c d : Nat} : (s.judge x a b c d).mem = s.mem := by
  unfold State.judge
  rw [State.setPlanStatus_mem]
  rfl

theorem State.judge_stagedSlot {x : PlanSlot} {a b c d : Nat} : (s.judge x a b c d).stagedSlot = x := by
  unfold State.judge
  rw [State.setPlanStatus_stagedSlot, State.stagedSlot_setStagedSlot]

theorem State.judge_planStatus {x : PlanSlot} {a b c d : Nat} (w : Assoc.wf objDefault s.od = true) :
    PlanStatus (s.judge x a b c d) a b c d := State.setPlanStatus_reads (s := s.setStagedSlot x) w

theorem State.judge_wf {x : PlanSlot} {a b c d : Nat} (w : Assoc.wf objDefault s.od = true) :
    Assoc.wf objDefault (s.judge x a b c d).od = true := State.setPlanStatus_wf (s := s.setStagedSlot x) w

theorem State.stagePlan_of_verified {p : Plan} (h : s.verify img = .verified p) : s.stagePlan img =
    (s.judge ⟨some p, leNat (trailerAt img 0 32), s.customerKey.isNone⟩ 2 0 0xFFFFFFFF 0, .ok) := by
  unfold State.stagePlan
  rw [h]
  rfl

theorem State.stagePlan_of_refused {code desc dcode : Nat} {detail : Bytes}
    (h : s.verify img = .refused code detail desc dcode) : s.stagePlan img =
    ((s.judge ⟨none, leNat (trailerAt img 0 32), false⟩ 3 code desc dcode).mgmtEvent 0x4101 detail, .range) := by
  unfold State.stagePlan
  rw [h]
  rfl

/-- An event of management is logged, with its island (R487). -/
theorem State.mgmtEvent_noted {c : BitVec 16} {d : Bytes} (short : d.length ≤ 10) :
    Noted (s.mgmtEvent c d) c s.mgmtIsland d := by
  obtain ⟨e, log, code, island, detail, -⟩ := s.event_logged c s.mgmtIsland short
  exact ⟨e, log, code, island, detail⟩

/-- An image that passes every check stands in the staged slot, verified (R40). -/
theorem State.stagePlan_verified {p : Plan} (w : Assoc.wf objDefault s.od = true) (h : s.verify img = .verified p) :
    (s.stagePlan img).2 = .ok ∧
      (s.stagePlan img).1.stagedSlot = ⟨some p, leNat (trailerAt img 0 32), s.customerKey.isNone⟩ ∧
      PlanStatus (s.stagePlan img).1 2 0 0xFFFFFFFF 0 ∧ (s.stagePlan img).1.plan = s.plan ∧
      (s.stagePlan img).1.mem = s.mem := by
  rw [State.stagePlan_of_verified h]
  exact ⟨rfl, State.judge_stagedSlot, State.judge_planStatus w, OnlyStages.judge.plan, State.judge_mem⟩

/-- An image that fails a check is refused with it, and logged (R40). -/
theorem State.stagePlan_refused {code desc dcode : Nat} {detail : Bytes} (w : Assoc.wf objDefault s.od = true)
    (h : s.verify img = .refused code detail desc dcode) :
    (s.stagePlan img).2 = .range ∧ (s.stagePlan img).1.stagedSlot.plan = none ∧
      PlanStatus (s.stagePlan img).1 3 code desc dcode ∧ Noted (s.stagePlan img).1 0x4101 s.mgmtIsland detail ∧
      (s.stagePlan img).1.plan = s.plan := by
  have noted {t : State} := t.mgmtEvent_noted (c := 0x4101) (State.verify_fits code detail desc dcode h)
  rw [State.stagePlan_of_refused h]
  refine ⟨rfl, ?_, (State.judge_planStatus w).keep (State.judge_wf w) (.event (by decide)), ?_, ?_⟩
  · rw [State.mgmtEvent_stagedSlot, State.judge_stagedSlot]
  · rw [← OnlyStages.judge.mgmtIsland]
    exact noted
  · rw [State.mgmtEvent_plan]
    exact OnlyStages.judge.plan

/-! ### A plan image whose last segment arrives (R40, R463) -/

/-- A module that has taken a plan image's segment. -/
def State.planTaken (s : State) (q : Req) : State :=
  (if (s.ongoing q).isNone then (s.touch q.src).beginTransfer q else s.touch q.src).storeSegment q

/-- A plan image is no write that must be signed, so that nothing is noted (R492). -/
theorem State.imageIn_plan (idx : q.idx = 0x5000) : s.imageIn q = (s.planTaken q).transferOver q := by
  have free (t : State) : t.noteUnchecked q = t := if_neg (by simp [State.mustSign, idx])
  unfold State.imageIn State.segmentTaken
  rw [free]
  rfl

theorem Kept.planTaken {live : Bool} : Kept live s (s.planTaken q) := by
  unfold State.planTaken
  split
  · exact .storeSegment (.beginTransfer (.touch (.refl s)))
  · exact .storeSegment (.touch (.refl s))

/-- A plan image's bytes stand in the staged slot, at their offset (R56). -/
theorem State.planTaken_mem (idx : q.idx = 0x5000) (fits : q.h.ioffset.toNat + q.payload.length ≤ 0x180000000) :
    (s.planTaken q).mem = (s.writeRun (s.stagedBase + q.h.ioffset.toNat) q.payload).mem := by
  have stored (t : State) (same : SameStore s t) (slot : t.activeSlot = s.activeSlot) :
      (t.storeSegment q).mem = (s.writeRun (s.stagedBase + q.h.ioffset.toNat) q.payload).mem := by
    have e : t.storeSegment q = t.writeRun (t.stagedBase + q.h.ioffset.toNat) q.payload :=
      if_pos (Bool.and_eq_true_iff.2 ⟨decide_eq_true idx, decide_eq_true fits⟩)
    have base : t.stagedBase = s.stagedBase := by
      unfold State.stagedBase
      rw [slot]
    rw [e, base]
    exact same.writeRun.mem
  have begun (t : State) : t.beginTransfer q = t.judge PlanSlot.empty 1 0 0xFFFFFFFF 0 := by
    unfold State.beginTransfer
    rw [idx]
    rfl
  unfold State.planTaken
  split
  · rw [begun]
    exact stored _ ⟨State.judge_mem, OnlyStages.judge.coreMap, OnlyStages.judge.plan⟩ OnlyStages.judge.activeSlot
  · exact stored _ ⟨rfl, rfl, rfl⟩ rfl

/-- The module before the verdict reads as the one that took the last segment. -/
theorem State.verify_imageIn (idx : q.idx = 0x5000) : (s.imageIn q).verify img = (s.planTaken q).verify img := by
  rw [State.imageIn_plan idx]
  exact State.verify_congr ⟨fun _ => rfl, rfl⟩ rfl rfl

theorem PlanStatus.drawn {a b c d : Nat} (h : PlanStatus s a b c d) (g : OnlyDraws s t) : PlanStatus t a b c d :=
  h.of_od (by rw [g])

/-- A plan image that passes every check is staged, and the request answered `OK` (R40, R463). -/
theorem State.serve_plan_verified {p : Plan} (h : Accepted s q) (op : q.op = 4) (idx : q.idx = 0x5000)
    (whole : ((s.touch q.src).joined q).whole = some img) (w : Assoc.wf objDefault s.od = true)
    (passes : (s.planTaken q).verify img = .verified p) :
    ∃ u : State, s.serve q = .next (u.replied q ⟨.ok, [], false⟩) ∧
      u.stagedSlot = ⟨some p, leNat (trailerAt img 0 32), s.customerKey.isNone⟩ ∧ PlanStatus u 2 0 0xFFFFFFFF 0 ∧
      u.plan = s.plan ∧ u.mem = (s.planTaken q).mem := by
  obtain ⟨u, drawn, go⟩ := State.serve_whole h op whole
  have k : OnlyStages s (s.imageIn q) := .imageIn
  have f : (s.imageIn q).finishTransfer q.idx q.sub img = (s.imageIn q).stagePlan img := by rw [idx]; rfl
  have wi : Assoc.wf objDefault (s.imageIn q).od = true := by
    rw [State.imageIn_plan idx]
    exact (Kept.planTaken (live := false)).objects w
  rw [← State.verify_imageIn idx] at passes
  obtain ⟨ok, slot, status, plan, mem⟩ := State.stagePlan_verified wi passes
  rw [f] at go drawn
  rw [ok] at go
  refine ⟨u, go, ?_, status.drawn drawn, ?_, ?_⟩
  · rw [drawn, ← k.customerKey]
    exact slot
  · rw [drawn, ← k.plan]
    exact plan
  · rw [drawn]
    refine mem.trans ?_
    rw [State.imageIn_plan idx]
    rfl

/-- A plan image that fails a check is refused with it, and the request answered `RANGE` (R40, R463). -/
theorem State.serve_plan_refused {code desc dcode : Nat} {detail : Bytes} (h : Accepted s q) (op : q.op = 4)
    (idx : q.idx = 0x5000) (whole : ((s.touch q.src).joined q).whole = some img) (w : Assoc.wf objDefault s.od = true)
    (fails : (s.planTaken q).verify img = .refused code detail desc dcode) :
    ∃ u : State, s.serve q = .next (u.replied q ⟨.range, [], false⟩) ∧ u.stagedSlot.plan = none ∧
      PlanStatus u 3 code desc dcode ∧ Noted u 0x4101 s.mgmtIsland detail ∧ u.plan = s.plan := by
  obtain ⟨u, drawn, go⟩ := State.serve_whole h op whole
  have k : OnlyStages s (s.imageIn q) := .imageIn
  have f : (s.imageIn q).finishTransfer q.idx q.sub img = (s.imageIn q).stagePlan img := by rw [idx]; rfl
  have wi : Assoc.wf objDefault (s.imageIn q).od = true := by
    rw [State.imageIn_plan idx]
    exact (Kept.planTaken (live := false)).objects w
  rw [← State.verify_imageIn idx] at fails
  obtain ⟨range, slot, status, noted, plan⟩ := State.stagePlan_refused wi fails
  rw [f] at go drawn
  rw [range] at go
  refine ⟨u, go, ?_, status.drawn drawn, ?_, ?_⟩
  · rw [drawn]
    exact slot
  · rw [drawn, ← k.mgmtIsland]
    exact noted
  · rw [drawn, ← k.plan]
    exact plan

end Sys2Proof.Machine
end

section
/-! SUPPORT. Update images, once every byte has arrived (O49). -/

namespace Sys2Proof.Machine

variable {s t u : State} {q : Req} {img : Bytes} {k : Kind}

/-! ### What the segments of an update image leave of the dictionary -/

theorem KeepsEntry.noteUnchecked {i : Nat} (h : i ≠ 0x3000) : KeepsEntry i s (s.noteUnchecked q) := by
  unfold State.noteUnchecked
  split
  · exact .trans (t := { s with mgmt := { s.mgmt with uncheckedSeen := true } }) (.of_od rfl) (.event h)
  · exact .of_od rfl

theorem KeepsEntry.beginProgram {i : Nat} (idx : q.idx = 0x5100) (sub : q.sub < 256) (h : i ≠ 0x5101) (g : i ≠ 0x5102) :
    KeepsEntry i s (s.beginTransfer q) := by
  unfold State.beginTransfer
  split
  · next image => exact absurd (idx.symm.trans image) (by decide)
  · split
    · next k _ => exact .trans (t := s.setStagedProgram k none) (.of_od rfl) (.trans (.setObj h sub) (.setObj g sub))
    · exact .of_od rfl
  · exact .of_od rfl

/-- The segments of an update image leave every entry but its status and the counts of events. -/
theorem KeepsEntry.imageIn {i : Nat} (idx : q.idx = 0x5100) (sub : q.sub < 256) (n : i ≠ 0x3000) (h : i ≠ 0x5101)
    (g : i ≠ 0x5102) : KeepsEntry i s (s.imageIn q) := by
  have stored (t : State) : t.storeSegment q = t := if_neg (by simp [idx])
  have heard : KeepsEntry i s ((s.touch q.src).noteUnchecked q) := .trans (t := s.touch q.src) (.of_od rfl) (.noteUnchecked n)
  have taken : KeepsEntry i s ((s.touch q.src).segmentTaken q) := by
    unfold State.segmentTaken
    rw [stored]
    split
    · exact heard.trans (.beginProgram idx sub h g)
    · exact heard
  exact taken.trans (.of_od rfl)

/-- The checks of an update image read the key and the hardware of the module alone (R517). -/
theorem State.programCheck_imageIn (idx : q.idx = 0x5100) (sub : q.sub < 256) (w : Assoc.wf objDefault s.od = true)
    (kind : Nat) : (s.imageIn q).programCheck kind img = s.programCheck kind img := by
  have key : (s.imageIn q).obj 0x1003 0 = s.obj 0x1003 0 :=
    (KeepsEntry.imageIn idx sub (by decide) (by decide) (by decide) w).2 0 (by decide)
  have hw : (s.imageIn q).obj 0x1000 3 = s.obj 0x1000 3 :=
    (KeepsEntry.imageIn idx sub (by decide) (by decide) (by decide) w).2 3 (by decide)
  unfold State.programCheck
  rw [key, hw]

/-! ### Staging an update image (R517) -/

/-- The staged copy of a kind in both stores (R533). -/
def BothStaged (s : State) (k : Kind) (p : Option Program) : Prop :=
  s.nv.a.programs[k].staged = p ∧ s.nv.b.programs[k].staged = p

theorem State.setStagedProgram_both {p : Option Program} : BothStaged (s.setStagedProgram k p) k p := by
  have set (v : Vector ProgramStore 9) : (vmodify v k (fun y => { y with staged := p }))[k.val].staged = p := by
    rw [vmodify_self]
  exact ⟨set _, set _⟩

/-- A kind's staged copy set in both stores, with its status and check (R517). -/
def State.judgeProgram (s : State) (k : Kind) (p : Option Program) (st code : Nat) : State :=
  ((s.setStagedProgram k p).setObj 0x5101 (k.val + 1) st).setObj 0x5102 (k.val + 1) code

theorem OnlyStages.judgeProgram {p : Option Program} {st code : Nat} : OnlyStages s (s.judgeProgram k p st code) :=
  setStagedProgram.trans (setObj.trans setObj)

theorem State.judgeProgram_both {p : Option Program} {st code : Nat} : BothStaged (s.judgeProgram k p st code) k p :=
  State.setStagedProgram_both (s := s)

theorem State.judgeProgram_mem {p : Option Program} {st code : Nat} : (s.judgeProgram k p st code).mem = s.mem := by
  unfold State.judgeProgram
  rfl

/-- What an update entry says: its state and its check (R517). -/
structure UpdateStatus (t : State) (k : Kind) (st code : Nat) : Prop where
  state : t.obj 0x5101 (k.val + 1) = st
  code : t.obj 0x5102 (k.val + 1) = code

theorem UpdateStatus.keep {st code : Nat} (h : UpdateStatus s k st code) (w : Assoc.wf objDefault s.od = true)
    (g : KeepsEntry 0x5101 s t) (g' : KeepsEntry 0x5102 s t) : UpdateStatus t k st code where
  state := ((g w).2 (k.val + 1) (by omega)).trans h.state
  code := ((g' w).2 (k.val + 1) (by omega)).trans h.code

theorem UpdateStatus.drawn {st code : Nat} (h : UpdateStatus s k st code) (g : OnlyDraws s t) : UpdateStatus t k st code := by
  obtain ⟨state, code⟩ := h
  unfold OnlyDraws at g
  constructor <;> rw [g] <;> assumption

theorem State.judgeProgram_wf {p : Option Program} {st code : Nat} (w : Assoc.wf objDefault s.od = true) :
    Assoc.wf objDefault (s.judgeProgram k p st code).od = true :=
  State.setObj_wf (State.setObj_wf (s := s.setStagedProgram k p) w _ _ _) _ _ _

theorem State.judgeProgram_status {p : Option Program} {st code : Nat} (w : Assoc.wf objDefault s.od = true) :
    UpdateStatus (s.judgeProgram k p st code) k st code := by
  have w1 := State.setObj_wf (s := s.setStagedProgram k p) w 0x5101 (k.val + 1) st
  unfold State.judgeProgram
  constructor
  · rw [State.obj_setObj w1, if_neg (by unfold objKey; omega), State.obj_setObj (s := s.setStagedProgram k p) w,
      if_pos rfl]
  · rw [State.obj_setObj w1, if_pos rfl]

theorem State.stageProgram_verified (ok : s.programCheck (k.val + 1) img = 0) : s.stageProgram k img =
    (s.judgeProgram k (some ⟨fieldAt img 12 4, sha3Nat img⟩) 2 0, .ok) := if_pos ok

theorem State.stageProgram_refused {code : Nat} (e : s.programCheck (k.val + 1) img = code) (bad : code ≠ 0) :
    s.stageProgram k img = ((s.judgeProgram k none 3 code).mgmtEvent 0x7201 (toLe 1 (k.val + 1) ++ toLe 1 code), .range) := by
  subst e
  exact if_neg bad

theorem State.finishTransfer_program : s.finishTransfer 0x5100 (k.val + 1) img = s.stageProgram k img := by
  have kind : kindOf (k.val + 1) = some k := dif_pos ⟨by omega, by omega⟩
  simp [State.finishTransfer, kind]

/-! ### An update image whose last segment arrives (R463, R517) -/

/-- An update image that passes every check is staged, and the request answered `OK` (R517). -/
theorem State.serve_program_verified (h : Accepted s q) (op : q.op = 4) (idx : q.idx = 0x5100) (sub : q.sub = k.val + 1)
    (whole : ((s.touch q.src).joined q).whole = some img) (w : Assoc.wf objDefault s.od = true)
    (passes : s.programCheck (k.val + 1) img = 0) :
    ∃ u : State, s.serve q = .next (u.replied q ⟨.ok, [], false⟩) ∧
      BothStaged u k (some ⟨fieldAt img 12 4, sha3Nat img⟩) ∧ UpdateStatus u k 2 0 ∧ u.plan = s.plan ∧ u.mem = s.mem := by
  obtain ⟨u, drawn, go⟩ := State.serve_whole h op whole
  have small : q.sub < 256 := by omega
  have wi : Assoc.wf objDefault (s.imageIn q).od = true :=
    (KeepsEntry.imageIn (i := 0) idx small (by decide) (by decide) (by decide) w).1
  have staged : OnlyStages s ((s.imageIn q).judgeProgram k (some ⟨fieldAt img 12 4, sha3Nat img⟩) 2 0) :=
    OnlyStages.imageIn.trans .judgeProgram
  have mem : ((s.imageIn q).judgeProgram k (some ⟨fieldAt img 12 4, sha3Nat img⟩) 2 0).mem = s.mem := by
    rw [State.judgeProgram_mem, State.imageIn_mem (by rw [idx]; decide)]
  rw [← State.programCheck_imageIn idx small w] at passes
  rw [idx, sub, State.finishTransfer_program, State.stageProgram_verified passes] at drawn go
  refine ⟨u, go, ?_, (State.judgeProgram_status wi).drawn drawn, ?_, ?_⟩
  · rw [drawn]
    exact State.judgeProgram_both (st := 2) (code := 0)
  · rw [drawn]
    exact staged.plan
  · rw [drawn]
    exact mem

/-- An update image that fails a check is refused with it, and the request answered `RANGE` (R517). -/
theorem State.serve_program_refused {code : Nat} (h : Accepted s q) (op : q.op = 4) (idx : q.idx = 0x5100)
    (sub : q.sub = k.val + 1) (whole : ((s.touch q.src).joined q).whole = some img)
    (w : Assoc.wf objDefault s.od = true) (fails : s.programCheck (k.val + 1) img = code) (bad : code ≠ 0) :
    ∃ u : State, s.serve q = .next (u.replied q ⟨.range, [], false⟩) ∧ BothStaged u k none ∧ UpdateStatus u k 3 code ∧
      Noted u 0x7201 s.mgmtIsland (toLe 1 (k.val + 1) ++ toLe 1 code) ∧ u.plan = s.plan := by
  obtain ⟨u, drawn, go⟩ := State.serve_whole h op whole
  have small : q.sub < 256 := by omega
  have wi : Assoc.wf objDefault (s.imageIn q).od = true :=
    (KeepsEntry.imageIn (i := 0) idx small (by decide) (by decide) (by decide) w).1
  have staged : OnlyStages s ((s.imageIn q).judgeProgram k none 3 code) := OnlyStages.imageIn.trans .judgeProgram
  have short : (toLe 1 (k.val + 1) ++ toLe 1 code).length ≤ 10 := by simp [toLe_length]
  rw [← State.programCheck_imageIn idx small w] at fails
  rw [idx, sub, State.finishTransfer_program, State.stageProgram_refused fails bad] at drawn go
  have status : UpdateStatus (((s.imageIn q).judgeProgram k none 3 code).mgmtEvent 0x7201
      (toLe 1 (k.val + 1) ++ toLe 1 code)) k 3 code :=
    (State.judgeProgram_status wi).keep (State.judgeProgram_wf wi) (.event (by decide)) (.event (by decide))
  refine ⟨u, go, ?_, status.drawn drawn, ?_, ?_⟩
  · rw [drawn]
    unfold BothStaged
    dsimp only []
    rw [State.mgmtEvent_nv]
    exact State.judgeProgram_both
  · rw [drawn, ← staged.mgmtIsland]
    exact State.mgmtEvent_noted short
  · rw [drawn]
    exact (State.mgmtEvent_plan _ _ _).trans staged.plan

end Sys2Proof.Machine
end

section
/-! SUPPORT. Checks in order: an image's verdict is that of the first check that fails (R40, R517; O49). -/

namespace Sys2Proof.Machine

variable {s : State} {b : Bytes}

/-! ### The first check of a list that fails -/

/-- What the first check that fails answers, from its number; `pass` where none fails. -/
def firstFailing {α : Type} (fail : Nat → α) (pass : α) : List Bool → Nat → α
  | [], _ => pass
  | c :: cs, n => if c then firstFailing fail pass cs (n + 1) else fail n

theorem firstFailing_fails {α : Type} {fail : Nat → α} {pass : α} {cs : List Bool} {i n : Nat}
    (before : (cs.take i).all id = true) (here : cs[i]? = some false) : firstFailing fail pass cs n = fail (i + n) := by
  induction cs generalizing i n with
  | nil => simp at here
  | cons c cs ih =>
    cases i with
    | zero =>
      have c_fails : c = false := by simpa using here
      simp [firstFailing, c_fails]
    | succ i =>
      obtain ⟨c_passes, rest⟩ : c = true ∧ (cs.take i).all id = true := by simpa using before
      have next := ih (n := n + 1) rest (by simpa using here)
      rw [firstFailing, if_pos c_passes, next]
      congr 1
      omega

theorem firstFailing_passes {α : Type} {fail : Nat → α} {pass : α} {cs : List Bool} {n : Nat} (all : cs.all id = true) :
    firstFailing fail pass cs n = pass := by
  induction cs generalizing n with
  | nil => rfl
  | cons c cs ih =>
    obtain ⟨c_passes, rest⟩ : c = true ∧ cs.all id = true := by simpa using all
    rw [firstFailing, if_pos c_passes, ih rest]

/-- A branch on a check that fails is a branch on the check. -/
theorem ite_fails {α : Type} {x y : α} {c : Bool} {p : Prop} [Decidable p] (h : p ↔ c = false) :
    (if p then x else y) = if c then y else x := by
  cases c <;> simp [h]

/-! ### The checks of a plan image (R40) -/

/-- The checks of an image's header, digest, signature and node. -/
def State.headChecks (s : State) (b : Bytes) : List Bool :=
  [slice b 0 8 = ascii "TG96PLAN" && fieldAt b 8 4 = 0x00010000,
    fieldAt b 16 8 = b.length && decide (b.length ≤ 6 * 2 ^ 30) && decide (2612 ≤ b.length),
    sha3 (imageBody b) = trailerAt b 0 32,
    s.customerKey.all (fun k => BitVec.ofNat 256 (leNat (trailerAt b 32 32)) = k
      && Config.verify k (BitVec.ofNat 256 (leNat (trailerAt b 0 32))) (trailerAt b 64 2420)),
    s.obj 0x1104 1 ≠ 0 && fieldAt b 24 2 = s.obj 0x1104 0]

/-- The verdict on an image's sections. -/
def State.sectionVerdict (s : State) (b : Bytes) : Verdict :=
  match sections b with
  | none => refuse 6
  | some ss => if sectionsOk b ss then s.verifyBody b ss else refuse 6

theorem State.signatureOk_eq : s.signatureOk b =
    s.customerKey.all (fun k => BitVec.ofNat 256 (leNat (trailerAt b 32 32)) = k
      && Config.verify k (BitVec.ofNat 256 (leNat (trailerAt b 0 32))) (trailerAt b 64 2420)) := by
  unfold State.signatureOk
  cases s.customerKey with
  | none => rfl
  | some k => rw [Option.all_some]

/-- An image's verdict is that of its first check that fails, else of its sections. -/
theorem State.verify_eq : s.verify b = firstFailing refuse (s.sectionVerdict b) (s.headChecks b) 1 := by
  unfold State.verify
  refine (ite_fails (c := magicOk b) (by simp)).trans (if_congr .rfl ?_ rfl)
  refine (ite_fails (c := sizeOk b) (by rw [Bool.not_eq_true'])).trans (if_congr .rfl ?_ rfl)
  refine (ite_fails (c := decide (sha3 (imageBody b) = trailerAt b 0 32)) (by simp)).trans (if_congr .rfl ?_ rfl)
  rw [State.signatureOk_eq]
  refine (ite_fails (by rw [Bool.not_eq_true'])).trans (if_congr .rfl ?_ rfl)
  refine (ite_fails (c := s.obj 0x1104 1 ≠ 0 && fieldAt b 24 2 = s.obj 0x1104 0) (by simp; tauto)).trans ?_
  rfl

/-- The checks of an image's sections and records, once they have been read. -/
def State.recordChecks (s : State) (b : Bytes) (ss : List Sect) (p : Plan) (raws : List (List Bytes)) : List Bool :=
  [p.sectionsAgree, !reservedSet b ss raws, p.recordsOk raws && !s.wrongStream p]

/-- The chunks of the records' sections, by core. -/
def recordChunks (b : Bytes) (ss : List Sect) : List (List Bytes) :=
  (List.range 48).map (fun c => chunked 128 ((sectionOf b ss 1 c).getD []))

/-- The verdict on an image's descriptors and programs. -/
def State.descVerdict (s : State) (b : Bytes) (ss : List Sect) (p : Plan) : Verdict :=
  match p.refusedDesc (chunked 64 ((sectionOf b ss 2 0).getD [])) with
  | some (n, c) => .refused 9 [9, BitVec.ofNat 8 c] n c
  | none => match s.microFail p with
    | some (k, c) => .refused 0xA [0xA, BitVec.ofNat 8 k, BitVec.ofNat 8 c] 0xFFFFFFFF 0
    | none => .verified p

theorem State.verifyBody_eq {ss : List Sect} {p : Plan} (parsed : parsePlan b ss = some p) : s.verifyBody b ss =
    firstFailing refuse (s.descVerdict b ss p) (s.recordChecks b ss p (recordChunks b ss)) 6 := by
  unfold State.verifyBody
  rw [parsed]
  refine (ite_fails (c := p.sectionsAgree) (by simp)).trans (if_congr .rfl ?_ rfl)
  refine (ite_fails (c := !reservedSet b ss (recordChunks b ss)) (by simp [recordChunks])).trans (if_congr .rfl ?_ rfl)
  refine (ite_fails (c := p.recordsOk (recordChunks b ss) && !s.wrongStream p) (by
    simp only [recordChunks, Bool.and_eq_false_iff, Bool.or_eq_true, Bool.not_eq_eq_eq_not, Bool.not_false, Bool.not_true])).trans ?_
  rfl

/-- The verdict on a plan image, check by check (R40). -/
theorem State.verify_checks (s : State) (b : Bytes) :
    (∀ i < 5, ((s.headChecks b).take i).all id = true → (s.headChecks b)[i]? = some false → s.verify b = refuse (i + 1)) ∧
    ((s.headChecks b).all id = true → s.verify b = s.sectionVerdict b) := by
  rw [State.verify_eq]
  exact ⟨fun i _ before here => firstFailing_fails before here, firstFailing_passes⟩

/-- The verdict on an image whose sections have been read, check by check (R40). -/
theorem State.verifyBody_checks {ss : List Sect} {p : Plan} (parsed : parsePlan b ss = some p) :
    (∀ i < 3, ((s.recordChecks b ss p (recordChunks b ss)).take i).all id = true →
      (s.recordChecks b ss p (recordChunks b ss))[i]? = some false → s.verifyBody b ss = refuse (i + 6)) ∧
    ((s.recordChecks b ss p (recordChunks b ss)).all id = true → s.verifyBody b ss = s.descVerdict b ss p) := by
  rw [State.verifyBody_eq parsed]
  exact ⟨fun i _ before here => firstFailing_fails before here, firstFailing_passes⟩

/-- Sections that are not sound, or that no plan can be read from, refuse the image (R40). -/
theorem State.sectionVerdict_unfit {ss : List Sect} (read : sections b = some ss)
    (bad : sectionsOk b ss = false ∨ parsePlan b ss = none) : s.sectionVerdict b = refuse 6 := by
  unfold State.sectionVerdict
  rw [read]
  dsimp only []
  split
  · next ok =>
    have unread : parsePlan b ss = none := bad.resolve_left (by simp [ok])
    unfold State.verifyBody
    rw [unread]
  · rfl

theorem State.sectionVerdict_fit {ss : List Sect} (read : sections b = some ss) (ok : sectionsOk b ss = true) :
    s.sectionVerdict b = s.verifyBody b ss := by
  unfold State.sectionVerdict
  rw [read]
  exact if_pos ok

section
variable {ss : List Sect} {p : Plan}

/-- A descriptor that fails refuses the image with its number and check (R40). -/
theorem State.descVerdict_descriptor {n k : Nat}
    (bad : p.refusedDesc (chunked 64 ((sectionOf b ss 2 0).getD [])) = some (n, k)) :
    s.descVerdict b ss p = .refused 9 [9, BitVec.ofNat 8 k] n k := by
  unfold State.descVerdict
  rw [bad]

/-- A program in the image that fails refuses it with its kind and check (R40). -/
theorem State.descVerdict_program {k e : Nat}
    (fine : p.refusedDesc (chunked 64 ((sectionOf b ss 2 0).getD [])) = none) (bad : s.microFail p = some (k, e)) :
    s.descVerdict b ss p = .refused 0xA [0xA, BitVec.ofNat 8 k, BitVec.ofNat 8 e] 0xFFFFFFFF 0 := by
  unfold State.descVerdict
  rw [fine]
  dsimp only []
  rw [bad]

theorem State.descVerdict_verified (fine : p.refusedDesc (chunked 64 ((sectionOf b ss 2 0).getD [])) = none)
    (micro : s.microFail p = none) : s.descVerdict b ss p = .verified p := by
  unfold State.descVerdict
  rw [fine]
  dsimp only []
  rw [micro]

end

/-! ### The checks of an update image (R517) -/

/-- The checks of an update image, in their order. -/
def programChecks (vendor : BitVec 256) (hw kind : Nat) (b : Bytes) : List Bool :=
  let size := fieldAt b 16 8
  let tr := b.drop (128 + size)
  [slice b 0 8 = ascii "TG96PROG" && allZero (slice b 9 3) && allZero (slice b 26 6) && allZero (slice b 64 64),
    b.length = 128 + size + 2452 && decide (1 ≤ size) && decide (size ≤ 64 * 2 ^ 20),
    sha3 (slice b 128 size) = slice b 32 32,
    BitVec.ofNat 256 (leNat (slice tr 0 32)) = vendor
      && Config.verify vendor (BitVec.ofNat 256 (sha3Nat (b.take (128 + size)))) (slice tr 32 2420),
    fieldAt b 8 1 = kind, decide (fieldAt b 24 2 ≤ hw)]

theorem programCode_eq (vendor : BitVec 256) (hw kind : Nat) (b : Bytes) :
    programCode vendor hw kind b = firstFailing id 0 (programChecks vendor hw kind b) 1 := by
  unfold programCode programChecks
  dsimp only []
  generalize fieldAt b 16 8 = size
  refine (ite_fails (c := slice b 0 8 = ascii "TG96PROG" && allZero (slice b 9 3) && allZero (slice b 26 6)
    && allZero (slice b 64 64)) (by simp only [ne_eq, Bool.and_eq_false_iff, Bool.or_eq_true, Bool.not_eq_true',
      decide_eq_true_eq, decide_eq_false_iff_not])).trans (if_congr .rfl ?_ rfl)
  refine (ite_fails (c := b.length = 128 + size + 2452 && decide (1 ≤ size) && decide (size ≤ 64 * 2 ^ 20))
    (by simp; omega)).trans (if_congr .rfl ?_ rfl)
  refine (ite_fails (c := decide (sha3 (slice b 128 size) = slice b 32 32)) (by simp)).trans (if_congr .rfl ?_ rfl)
  refine (ite_fails (c := decide (BitVec.ofNat 256 (leNat (slice (b.drop (128 + size)) 0 32)) = vendor) &&
    Config.verify vendor (BitVec.ofNat 256 (sha3Nat (b.take (128 + size)))) (slice (b.drop (128 + size)) 32 2420))
    (by simp; tauto)).trans (if_congr .rfl ?_ rfl)
  refine (ite_fails (c := decide (fieldAt b 8 1 = kind)) (by simp)).trans (if_congr .rfl ?_ rfl)
  exact ite_fails (c := decide (fieldAt b 24 2 ≤ hw)) (by simp)

end Sys2Proof.Machine
end

section
/-! SUPPORT. The segmented writes by their commands, and the obligation (O49). -/

namespace Sys2Proof.Machine

variable {s : State} {src : Source} {h : FrameHead} {b : Bytes}

/-- The commands of segmented writes, with their requests (R463). -/
def segments (src : Source) (h : FrameHead) (b : Bytes) : List (Instr × Req) :=
  [(Instr.planStage src h b, frameOf src h 4 0x5000 0 b), (.qpTable src h b, frameOf src h 4 0x1103 0 b),
      (.customerKeyProgram src h b, frameOf src h 4 0x1006 0 b)] ++
    (indices 16).map (fun k => (Instr.replayTap src h k b, frameOf src h 4 0x2A08 k.val b)) ++
    (indices 9).map (fun (k : Kind) => (Instr.updateStage src h k b, frameOf src h 4 0x5100 (k.val + 1) b)) ++
    (indices 4).map (fun k => (Instr.segWrite src h 0x1102 (BitVec.ofNat 8 k.val) b, frameOf src h 4 0x1102 k.val b))

/-- Each of them serves its request. -/
theorem exec_segment {x : Instr × Req} (hx : x ∈ segments src h b) :
    exec x.1 s = s.serve x.2 ∧ ∃ i j, x.2 = frameOf src h 4 i j b := by
  simp only [segments, List.mem_append, List.mem_cons, List.not_mem_nil, or_false, List.mem_map] at hx
  obtain (((rfl | rfl | rfl) | ⟨k, -, rfl⟩) | ⟨k, -, rfl⟩) | ⟨k, -, rfl⟩ := hx
  · exact ⟨rfl, _, _, rfl⟩
  · exact ⟨rfl, _, _, rfl⟩
  · exact ⟨rfl, _, _, rfl⟩
  · exact ⟨rfl, _, _, rfl⟩
  · exact ⟨rfl, _, _, rfl⟩
  · have sub : (BitVec.ofNat 8 k.val).toNat = k.val := by
      rw [BitVec.toNat_ofNat]
      omega
    refine ⟨?_, _, _, rfl⟩
    have go : exec (.segWrite src h 0x1102 (BitVec.ofNat 8 k.val) b) s =
        s.serve (frameOf src h 4 0x1102 (BitVec.ofNat 8 k.val).toNat b) := rfl
    rwa [sub] at go

theorem mem_segments_of_table {x : Instr × Req}
    (hx : x ∈ (indices 16).map (fun k => (Instr.replayTap src h k b, frameOf src h 4 0x2A08 k.val b)) ++
      [(Instr.qpTable src h b, frameOf src h 4 0x1103 0 b)]) :
    x ∈ segments src h b ∧ (x.2.idx = 0x2A08 ∨ x.2.idx = 0x1103) := by
  simp only [List.mem_append, List.mem_map, List.mem_singleton] at hx
  obtain ⟨k, hk, rfl⟩ | rfl := hx
  · exact ⟨by simp [segments, indices], .inl rfl⟩
  · exact ⟨by simp [segments], .inr rfl⟩

end Sys2Proof.Machine

open Sys2Proof Sys2Proof.Machine

/-- Settles O49: a segment either leaves its transfer open, or makes it whole, and then its entry takes the bytes: the
verdict on an image is that of the first check that fails. -/
theorem segmentsBuildEntries : Obligations.SegmentsBuildEntries := by
  unfold Obligations.SegmentsBuildEntries
  refine ⟨fun s src h b => ⟨fun x hx acc more => ?_, fun x hx acc last first pos tap table => ?_, ?_, ?_, ?_⟩, ?_, ?_⟩
  · obtain ⟨go, i, j, req⟩ := exec_segment (s := s) hx
    obtain ⟨cmd, q⟩ := x
    subst req
    dsimp only [] at go
    rw [go]
    exact ⟨leavesOpen_first acc rfl more, fun y later going ending => leavesOpen_later acc rfl more later going ending⟩
  · obtain ⟨mem, kind⟩ := mem_segments_of_table hx
    obtain ⟨go, i, j, req⟩ := exec_segment (s := s) mem
    have short := acc.payload_le
    obtain ⟨cmd, q⟩ := x
    subst req
    have fits : fitsTable i b := kind.imp (fun e => ⟨e, tap e⟩) (fun e => ⟨e, table e, le_trans short (by decide)⟩)
    dsimp only [] at go
    rw [go]
    exact State.serve_table_one acc rfl last first pos fits
  · intro b0 y q acc last second going _ half len0 whole
    have short := acc.payload_le
    have fits : fitsTable q.idx (b0 ++ b) := by
      refine .inr ⟨rfl, ?_, ?_⟩ <;> rw [List.length_append]
      · omega
      · have : b.length ≤ 4096 := short
        omega
    exact State.serve_table_two acc rfl last second going half fits
  · intro q acc last first len usable
    exact State.serve_customerKey acc rfl rfl last first len usable
  · intro img inv whole
    refine ⟨?_, ?_⟩
    · intro q t v acc wh
      refine ⟨State.planTaken_mem (s := s) (q := q) rfl, fun p passes => ?_, fun code detail desc dcode fails => ?_⟩
      · obtain ⟨u, go, slot, ⟨state, code, desc, descCode⟩, plan, mem⟩ :=
          State.serve_plan_verified acc rfl rfl wh inv.objects passes
        exact ⟨u, go, slot, state, code, desc, descCode, plan, mem⟩
      · obtain ⟨u, go, slot, ⟨st, cd, ds, dc⟩, noted, plan⟩ :=
          State.serve_plan_refused acc rfl rfl wh inv.objects fails
        exact ⟨u, go, slot, st, cd, ds, dc, noted, plan⟩
    · intro k q code acc wh
      refine ⟨fun passes => ?_, fun bad => ?_⟩
      · obtain ⟨u, go, ⟨a, b⟩, ⟨st, cd⟩, plan, mem⟩ :=
          State.serve_program_verified (k := k) acc rfl rfl rfl wh inv.objects passes
        exact ⟨u, go, a, b, st, cd, plan, mem⟩
      · obtain ⟨u, go, ⟨a, b⟩, ⟨st, cd⟩, noted, plan⟩ :=
          State.serve_program_refused (k := k) acc rfl rfl rfl wh inv.objects rfl bad
        exact ⟨u, go, a, b, st, cd, noted, plan⟩
  · intro s b cs
    obtain ⟨fails, passes⟩ := s.verify_checks b
    refine ⟨fails, fun all => ⟨fun unread => ?_, fun ss read => ⟨fun bad => ?_, ?_⟩⟩⟩
    · rw [passes all, State.sectionVerdict, unread]
    · rw [passes all, State.sectionVerdict_unfit read bad]
    · intro p ok parsed raws found d
      obtain ⟨bodyFails, bodyPasses⟩ := State.verifyBody_checks (s := s) parsed
      rw [passes all, State.sectionVerdict_fit read ok]
      refine ⟨bodyFails, fun n k good bad => ?_, fun k e good fine bad => ?_, fun good fine micro => ?_⟩
      · exact (bodyPasses good).trans (State.descVerdict_descriptor bad)
      · exact (bodyPasses good).trans (State.descVerdict_program fine bad)
      · exact (bodyPasses good).trans (State.descVerdict_verified fine micro)
  · intro vendor hw kind b size tr cs
    rw [programCode_eq]
    exact ⟨firstFailing_passes, fun i _ before here => firstFailing_fails before here⟩
end

section
/-! SUPPORT. Records that run to their end, whatever their kind (O53, O55). -/

namespace Sys2Proof.Machine

variable {s : State} {c : Core} {r : Nat} {p : Plan} {rc : Rec} {q : QRec}

/-- A record that stands ready with sound operands runs to its end, and leaves what its effect leaves of the state in which
its reads are noted. -/
theorem State.runRecord_ran {reads : Reads} {want : Rec → Bool} {effect : Ctx → QRec → State → State} {v : State}
    (h : RecordReady s c r p rc q) (g : OperandsSound s c p rc q reads) (w : want rc = true)
    (does : effect (s.ctx p c rc q) q (s.noteReads p (s.spansOf c p rc q reads)) = v)
    (frame : OnlyRecord (s.noteReads p (s.spansOf c p rc q reads)) v) :
    s.runRecord c r want reads effect = .next (v.finish c r) ∧ Ran s (v.finish c r) c r q := by
  subst does
  exact ⟨State.runRecord_ready h g w, (OnlyRecord.noteReads.trans frame).ran h.inFlight⟩

/-- A record that reads nothing takes no spans, whatever chain it stands in. -/
theorem State.spansOf_nothing : s.spansOf c p rc q (byRows (fun _ => [])) = [] := by
  have none : (s.ctx p c rc q).marked (byRows (fun _ => [])) s = [] := by
    unfold Ctx.marked
    dsimp only []
    split <;> rfl
  unfold State.spansOf Ctx.takes
  rw [none]
  dsimp only []
  split
  · exact ite_self []
  · rfl

/-- A record that reads nothing has sound operands, unless it is a prediction or works on slices (R281, R291). -/
theorem OperandsSound.of_nothing (engine : rc.engine ≠ 4) (slices : rc.sliceRange = none) :
    OperandsSound s c p rc q (byRows (fun _ => [])) where
  poison := by simp [State.spansOf_nothing, State.readsPoison]
  weights := by simp [State.weightsPoison, State.ctx, engine]
  versions := by simp [State.versionsHold, slices, byRows]
  tiles := by simp [State.spansOf_nothing]

end Sys2Proof.Machine
end

section
/-! SUPPORT. Dense products: what each mode makes of the pairs of an output element, and the records of the dense arrays
(O53). -/

namespace Sys2Proof.Machine

variable {s t : State} {x : Ctx} {c : Core} {r : Nat} {p : Plan} {rc : Rec} {q : QRec} {na nb no : Nat} {a b out : Desc}

/-! ### Elements -/

/-- The sum of R89 over the terms of some pairs, each at its position along K. -/
def termSum (int part : Bool) (segbase : Nat) (f : Val → Val → Val) (ps : List (Val × Val)) : OutElem :=
  OutElem.ofAcc (orZero (reduceTerms int part segbase ((List.range ps.length).zip (ps.map (fun y => f y.1 y.2)))))

/-- Numbering a list's terms in place is zipping them with their positions. -/
theorem zipIdx_map_eq_range_zip {α β : Type} (f : α → β) (l : List α) :
    l.zipIdx.map (fun y => (y.2, f y.1)) = (List.range l.length).zip (l.map f) := by
  rw [List.zipIdx_eq_zip_range', ← List.range_eq_range', ← List.zip_swap, List.map_map, List.zip_map_right]
  rfl

section Modes
variable {int part : Bool} {segbase pred : Nat} {ps : List (Val × Val)}

theorem denseElem_multiplyAdd : denseElem 0 int part segbase pred ps = termSum int part segbase Val.mul ps :=
  congrArg (fun l => OutElem.ofAcc (orZero (reduceTerms int part segbase l)))
    (zipIdx_map_eq_range_zip (fun y : Val × Val => y.1.mul y.2) ps)

theorem denseElem_squaredL2 : denseElem 1 int part segbase pred ps =
    termSum int part segbase (fun u v => (u.sub v).mul (u.sub v)) ps :=
  congrArg (fun l => OutElem.ofAcc (orZero (reduceTerms int part segbase l)))
    (zipIdx_map_eq_range_zip (fun y : Val × Val => (y.1.sub y.2).mul (y.1.sub y.2)) ps)

theorem denseElem_l1 : denseElem 2 int part segbase pred ps = termSum int part segbase absDiff ps :=
  congrArg (fun l => OutElem.ofAcc (orZero (reduceTerms int part segbase l)))
    (zipIdx_map_eq_range_zip (fun y : Val × Val => absDiff y.1 y.2) ps)

theorem denseElem_maxPlus : denseElem 3 int part segbase pred ps = tropical int true ps := rfl

theorem denseElem_minPlus : denseElem 4 int part segbase pred ps = tropical int false ps := rfl

theorem denseElem_compare : denseElem 5 int part segbase pred ps =
    ⟨Val.ofInt ((ps.filter (fun y => comparePred pred y.1 y.2)).length : Nat), false, false, false⟩ := rfl

end Modes

/-! ### Rows -/

/-- The operands of an output element in ascending K: row `o` of A against column `n` of B (R145). -/
def State.densePairs (s : State) (a b : Desc) (sbA sbB : Option Desc) (o : List Nat) (n : Nat) : List (Val × Val) :=
  (List.range (a.size 0)).map (fun k => (s.val a sbA (k :: o), s.val b sbB (k :: n :: o.drop 1)))

/-- The rows of an output whose elements are given. -/
def Desc.rowsOf (out : Desc) (elem : List Nat → Nat → OutElem) : List (List Nat × List OutElem) :=
  out.outers.map (fun o => (o, (List.range (out.size 0)).map (elem o)))

/-- A dense product's rows hold its mode's element over the pairs of each place (R145, R160). -/
theorem State.denseRows_eq (sbA sbB : Option Desc) : s.denseRows rc a b out sbA sbB =
    out.rowsOf (fun o n => denseElem rc.mode.val a.fmt.isIntClass (rc.flag 3) rc.segbase (rc.param0.toNat % 8)
      (s.densePairs a b sbA sbB o n)) := by
  unfold State.denseRows State.row Desc.rowsOf State.densePairs
  simp only [List.zip_map']

theorem SameReads.densePairs (h : SameReads s t) (sbA sbB : Option Desc) (o : List Nat) (n : Nat) :
    t.densePairs a b sbA sbB o n = s.densePairs a b sbA sbB o n := by
  simp only [State.densePairs, h.val]

/-! ### Records -/

/-- What a dense record whose elements are given leaves: it counts what it reads of its operands and writes the rows of
its output (R97, R145). -/
def State.denseLeaves (s t : State) (x : Ctx) (int : Bool) (na nb : Nat) (a b out : Desc) (sbA sbB : Option Desc)
    (elem : List (Val × Val) → OutElem) : State :=
  t.writeDense x int (s.mismatches a sbA a.outers, s.mismatches b sbB b.outers)
    (out.rowsOf (fun o n => elem (s.densePairs a b sbA sbB o n))) na nb

/-- A matrix product's effect is its mode's element over each pair of a row and a column, read as the record found them. -/
theorem denseEffect_eq (ha : x.rd x.r.desc0 = some (na, a)) (hb : x.rd x.r.desc1 = some (nb, b))
    (ho : x.wr x.r.desc2 = some (no, out)) (same : SameReads s t) :
    denseEffect x q t = s.denseLeaves t x (a.fmt.isIntClass || x.r.mode = 5) na nb a b out
      ((x.rd x.r.desc5).map Prod.snd) ((x.rd x.r.desc4).map Prod.snd)
      (denseElem x.r.mode.val a.fmt.isIntClass (x.r.flag 3) x.r.segbase (x.r.param0.toNat % 8)) := by
  unfold denseEffect State.denseLeaves
  rw [ha, hb, ho]
  simp only [State.denseRows_eq, same.mismatches, same.densePairs]
  rfl

/-- A ready matrix product of a mode runs to its end, and leaves that mode's element at each place (R145, R160). -/
theorem State.runDense {mode : Fin 8} {elem : List (Val × Val) → OutElem} (h : RecordReady s c r p rc q)
    (e : rc.engine = 1) (f : rc.func = 1) (sound : OperandsSound s c p rc q denseReads)
    (ha : (s.ctx p c rc q).rd rc.desc0 = some (na, a)) (hb : (s.ctx p c rc q).rd rc.desc1 = some (nb, b))
    (ho : (s.ctx p c rc q).wr rc.desc2 = some (no, out))
    (computes : ∀ ps, denseElem mode.val a.fmt.isIntClass (rc.flag 3) rc.segbase (rc.param0.toNat % 8) ps = elem ps)
    (m : rc.mode = mode) :
    let x := s.ctx p c rc q
    let u := (s.denseLeaves (s.noteReads p (s.spansOf c p rc q denseReads)) x (a.fmt.isIntClass || rc.mode = 5) na nb a b out
      ((x.rd rc.desc5).map Prod.snd) ((x.rd rc.desc4).map Prod.snd) elem).finish c r
    s.runRecord c r (wantDense mode) denseReads denseEffect = .next u ∧ Ran s u c r q := by
  obtain rfl : denseElem rc.mode.val a.fmt.isIntClass (rc.flag 3) rc.segbase (rc.param0.toNat % 8) = elem := by
    rw [m]
    exact funext computes
  exact State.runRecord_ran h sound (by simp [wantDense, e, f, m])
    (denseEffect_eq (x := s.ctx p c rc q) ha hb ho SameReads.noteReads) OnlyRecord.writeDense

/-! ### BLK16 products -/

/-- The tiles a BLK16 product takes of its stream, up to one that fails its checks (R167, R188). -/
def State.blkTiles (s : State) (a b : Desc) : List (Nat × TileData) :=
  (s.readTiles b [.blk] (blkShape a b).kt false none ((spGroups (blkShape a b) none).map (fun l =>
    (List.range (blkShape a b).chunks).flatMap (groupTiles (blkShape a b) l))).flatten).tiles

/-- The terms of a BLK16 product's output element: the stored entries of line `n` times row `o` of A (R167). -/
def State.blkTerms (s : State) (a b : Desc) (sbA : Option Desc) (ts : List (Nat × TileData)) (o : List Nat) (n : Nat) :
    List (Nat × Val) :=
  (spLine (blkShape a b) ts n).map (fun e => (e.1, (s.val a sbA (e.1 :: o)).mul (b.fmt.decode e.2)))

/-- A BLK16 product whose tiles pass their checks sums the stored entries of its lines (R167). -/
theorem blkEffect_eq (ha : x.rd x.r.desc0 = some (na, a)) (hb : x.rd x.r.desc1 = some (nb, b))
    (ho : x.wr x.r.desc2 = some (no, out)) (same : SameReads s t) (clean : t.blkClean x) :
    blkEffect x q t = t.writeDense x a.fmt.isIntClass (s.mismatches a ((x.rd x.r.desc5).map Prod.snd) a.outers, 0)
      (out.rowsOf (fun o n => OutElem.ofAcc (orZero (reduceTerms a.fmt.isIntClass (x.r.flag 3) x.r.segbase
        (s.blkTerms a b ((x.rd x.r.desc5).map Prod.snd) (t.blkTiles a b) o n))))) na nb := by
  have noBad := clean (na, a) (nb, b) ha hb
  unfold blkEffect
  rw [ha, hb, ho]
  dsimp only [] at noBad ⊢
  rw [noBad]
  simp only [same.mismatches, same.val]
  rfl

end Sys2Proof.Machine

open Sys2Proof Sys2Proof.Machine

/-- Settles O53: each mode by its element over the pairs of a row and a column, and the BLK16 product by the terms of its
lines. -/
theorem denseProductsComputeTheirMode : Obligations.DenseProductsComputeTheirMode := by
  intro s c r p rc q na nb no a b out h e x sbA sbB int sum pairs termwise rows ha hb ho
  refine ⟨fun f sound => ?_, fun f sound => ?_⟩
  · intro t y hy
    simp only [List.mem_cons, List.not_mem_nil, or_false] at hy
    obtain rfl | rfl | rfl | rfl | rfl | rfl := hy
    · exact State.runDense h e f sound ha hb ho fun _ => denseElem_multiplyAdd
    · exact State.runDense h e f sound ha hb ho fun _ => denseElem_squaredL2
    · exact State.runDense h e f sound ha hb ho fun _ => denseElem_l1
    · exact State.runDense h e f sound ha hb ho fun _ => denseElem_maxPlus
    · exact State.runDense h e f sound ha hb ho fun _ => denseElem_minPlus
    · exact State.runDense h e f sound ha hb ho fun _ => denseElem_compare
  · intro t g ts clean
    exact State.runRecord_ran (want := fun z => z.engine = 1 && z.func = 2) h sound (by simp [e, f])
      (blkEffect_eq (x := x) ha hb ho SameReads.noteReads clean) OnlyRecord.writeDense
end

section
/-! SUPPORT. The vector unit's records: functions of one and of two operands, tables, reductions and dropout masks (O55). -/

namespace Sys2Proof.Machine

variable {s t : State} {x : Ctx} {c : Core} {r : Nat} {p : Plan} {rc : Rec} {q : QRec} {a b : VuIn} {want : Rec → Bool}

/-! ### Functions of one and of two operands -/

/-- What a function of one operand leaves: the operand's counts, and the function of every element (R82, R306, R307). -/
def State.vuLeaves1 (t : State) (x : Ctx) (a : VuIn) (f : Val → Val) : State :=
  (t.vuCharge x a).vuWrite x (a.rows.map (fun e => (e.1, plainElems (e.2.map f))))

/-- What a function of two operands leaves: both operands' counts, and the function of every pair of elements (R82, R307,
R308). -/
def State.vuLeaves2 (t : State) (x : Ctx) (a b : VuIn) (f : Val → Val → Val) : State :=
  ((t.vuCharge x a).vuCharge x b).vuWrite x
    ((a.rows.zip b.rows).map (fun e => (e.1.1, plainElems (List.zipWith f e.1.2 e.2.2))))

theorem vuMap1_eq {f : Rec → Val → Val} (ha : t.vuRead x x.r.desc0 x.r.desc5 = some a) :
    vuMap1 f x q t = t.vuLeaves1 x a (f x.r) := by
  unfold vuMap1
  rw [ha]
  rfl

theorem vuMap2_eq {f : Ctx → Val → Val → Val} (ha : t.vuRead x x.r.desc0 x.r.desc5 = some a)
    (hb : t.vuRead x x.r.desc1 x.r.desc4 = some b) : vuMap2 f x q t = t.vuLeaves2 x a b (f x) := by
  unfold vuMap2
  rw [ha, hb]
  rfl

theorem tableEffect_eq {pair : FnTable × FnTable} (hp : x.pair = some pair)
    (ha : t.vuRead x x.r.desc0 x.r.desc5 = some a) : tableEffect x q t = t.vuLeaves1 x a pair.1.eval := by
  unfold tableEffect
  rw [hp]
  exact vuMap1_eq ha

theorem derivTableEffect_eq {pair : FnTable × FnTable} (hp : x.pair = some pair)
    (ha : t.vuRead x x.r.desc0 x.r.desc5 = some a) (hb : t.vuRead x x.r.desc1 x.r.desc4 = some b) :
    derivTableEffect x q t = t.vuLeaves2 x a b (fun dy v => mulF32 dy (pair.2.eval v)) := by
  unfold derivTableEffect
  rw [hp]
  exact vuMap2_eq ha hb

theorem OnlyRecord.vuLeaves1 {f : Val → Val} : OnlyRecord t (t.vuLeaves1 x a f) :=
  OnlyRecord.vuCharge.trans OnlyRecord.vuWrite

theorem OnlyRecord.vuLeaves2 {f : Val → Val → Val} : OnlyRecord t (t.vuLeaves2 x a b f) :=
  (OnlyRecord.vuCharge.trans OnlyRecord.vuCharge).trans OnlyRecord.vuWrite

/-! ### Reductions and dropout masks -/

/-- What a reduction of an operand of some rank leaves: one result for each of its rows (R107). -/
def State.vuReduced (t : State) (x : Ctx) (a : VuIn) (rank op : Nat) (out : Desc) : State :=
  (t.vuCharge x a).vuWrite x (reduceRows rank out op x.r.segbase a.rows)

theorem reduceEffect_eq {na no op : Nat} {d out : Desc} (ha : t.vuRead x x.r.desc0 x.r.desc5 = some a)
    (hd : x.rd x.r.desc0 = some (na, d)) (ho : x.wr x.r.desc2 = some (no, out)) (hop : x.r.param0.toNat % 4 = op) :
    reduceEffect x q t = t.vuReduced x a d.sizes.length op out := by
  unfold reduceEffect
  rw [ha, hd, ho, hop]
  rfl

theorem OnlyRecord.vuReduced {rank op : Nat} {out : Desc} : OnlyRecord t (t.vuReduced x a rank op out) :=
  OnlyRecord.vuCharge.trans OnlyRecord.vuWrite

/-- A dropout mask's elements: 1 where the draw lies below the threshold (R309). -/
def State.dropoutRows (t : State) (x : Ctx) (out : Desc) : List (List Nat × List OutElem) :=
  out.outers.map (fun o => (o, plainElems ((List.range (out.size 0)).map (fun i =>
    if t.draw x.step (out.tid x.r.mbtag.toNat) (linearIndex out.sizes (i :: o)) < x.r.param1.toNat
    then Val.one else Val.zero))))

theorem dropoutEffect_eq {no : Nat} {out : Desc} (ho : x.wr x.r.desc2 = some (no, out)) :
    dropoutEffect x q t = t.vuWrite x (t.dropoutRows x out) := by
  unfold dropoutEffect
  rw [ho]
  rfl

/-! ### Records by their kind -/

section Ready
variable (h : RecordReady s c r p rc q)

section Reading
variable (sound : OperandsSound s c p rc q vuReads) (w : want rc = true)
  (ha : s.vuRead (s.ctx p c rc q) rc.desc0 rc.desc5 = some a)
include h sound w ha

/-- A ready record of one operand leaves its function of every element. -/
theorem State.runVu1 (f : Rec → Val → Val) :
    let u := ((s.noteReads p (s.spansOf c p rc q vuReads)).vuLeaves1 (s.ctx p c rc q) a (f rc)).finish c r
    s.runRecord c r want vuReads (vuMap1 f) = .next u ∧ Ran s u c r q :=
  State.runRecord_ran h sound w (vuMap1_eq ((SameReads.noteReads.vuRead _ _ _).trans ha)) OnlyRecord.vuLeaves1

/-- A ready record of two operands leaves its function of every pair of elements. -/
theorem State.runVu2 (hb : s.vuRead (s.ctx p c rc q) rc.desc1 rc.desc4 = some b) (f : Ctx → Val → Val → Val) :
    let u := ((s.noteReads p (s.spansOf c p rc q vuReads)).vuLeaves2 (s.ctx p c rc q) a b (f (s.ctx p c rc q))).finish c r
    s.runRecord c r want vuReads (vuMap2 f) = .next u ∧ Ran s u c r q :=
  State.runRecord_ran h sound w (vuMap2_eq ((SameReads.noteReads.vuRead _ _ _).trans ha)
    ((SameReads.noteReads.vuRead _ _ _).trans hb)) OnlyRecord.vuLeaves2

/-- A ready reduction leaves its operation of every row. -/
theorem State.runReduce {na no op : Nat} {d out : Desc} (hd : (s.ctx p c rc q).rd rc.desc0 = some (na, d))
    (ho : (s.ctx p c rc q).wr rc.desc2 = some (no, out)) (hop : rc.param0.toNat % 4 = op) :
    let u := ((s.noteReads p (s.spansOf c p rc q vuReads)).vuReduced (s.ctx p c rc q) a d.sizes.length op out).finish c r
    s.runRecord c r want vuReads reduceEffect = .next u ∧ Ran s u c r q :=
  State.runRecord_ran h sound w (reduceEffect_eq (x := s.ctx p c rc q) ((SameReads.noteReads.vuRead _ _ _).trans ha) hd ho hop)
    OnlyRecord.vuReduced

end Reading

include h in
/-- A ready dropout mask needs no operand, and leaves its draws compared with the threshold. -/
theorem State.runDropout {no : Nat} {out : Desc} (e : rc.engine = 3) (f : rc.func = 5)
    (ho : (s.ctx p c rc q).wr rc.desc2 = some (no, out)) :
    let u := (s.vuWrite (s.ctx p c rc q) (s.dropoutRows (s.ctx p c rc q) out)).finish c r
    s.runRecord c r (wantVu 5) (byRows (fun _ => [])) dropoutEffect = .next u ∧ Ran s u c r q := by
  have sound : OperandsSound s c p rc q (byRows (fun _ => [])) :=
    .of_nothing (by simp [e]) (by simp [Rec.sliceRange, f])
  have quiet : s.noteReads p (s.spansOf c p rc q (byRows (fun _ => []))) = s := by
    rw [State.spansOf_nothing, State.noteReads_nil]
  exact State.runRecord_ran h sound (by simp [wantVu, e, f]) (by rw [quiet]; exact dropoutEffect_eq ho)
    (by rw [quiet]; exact OnlyRecord.vuWrite)

end Ready

end Sys2Proof.Machine

open Sys2Proof Sys2Proof.Machine

/-- Settles O55: each record by what its effect leaves of the operands it reads. -/
theorem vectorRecordsApplyTheirFunction : Obligations.VectorRecordsApplyTheirFunction := by
  intro s c r p rc q h e x
  refine ⟨fun sound => ?_, fun no out f ho => State.runDropout h e f ho⟩
  intro t a ha map1
  have element {op : Nat} (f : rc.func = 3) (o : rc.param0.toNat % 16 = op) : wantElem op rc = true := by
    simp [wantElem, wantVu, e, f, o]
  refine ⟨fun f y hy o => ?_, fun pair f hp => ?_, fun b hb => ?_, fun na a' no out hd ho f y hy o => ?_⟩
  · simp only [List.mem_cons, List.not_mem_nil, or_false] at hy
    obtain rfl | rfl := hy
    · exact State.runVu1 h sound (element f o) ha fun _ => sqrtF32
    · exact State.runVu1 h sound (element f o) ha fun _ => logF32
  · exact State.runRecord_ran (want := wantVu 1) h sound (by simp [wantVu, e, f])
      (tableEffect_eq hp ((SameReads.noteReads.vuRead _ _ _).trans ha)) OnlyRecord.vuLeaves1
  · intro map2
    refine ⟨fun f y hy o => ?_, fun pair f kind hp => ?_, fun f kind => ?_⟩
    · simp only [List.mem_cons, List.not_mem_nil, or_false] at hy
      obtain rfl | rfl | rfl | rfl | rfl | rfl | rfl := hy
      · exact State.runVu2 h sound (element f o) ha hb fun _ => addF32
      · exact State.runVu2 h sound (element f o) ha hb fun _ => subF32
      · exact State.runVu2 h sound (element f o) ha hb fun _ => mulF32
      · exact State.runVu2 h sound (element f o) ha hb fun _ => divF32
      · exact State.runVu2 h sound (element f o) ha hb fun _ => Val.max
      · exact State.runVu2 h sound (element f o) ha hb fun _ => Val.min
      · exact State.runVu2 h sound (element f o) ha hb fun x u v =>
          if vectorPred (x.r.param0.toNat / 16 % 8) u v then Val.one else Val.zero
    · exact State.runRecord_ran (want := fun z => wantVu 2 z && z.param0.toNat / 256 % 4 = 0) h sound
        (by simp [wantVu, e, f, kind]) (derivTableEffect_eq hp ((SameReads.noteReads.vuRead _ _ _).trans ha)
          ((SameReads.noteReads.vuRead _ _ _).trans hb)) OnlyRecord.vuLeaves2
    · exact State.runVu2 (want := fun z => wantVu 2 z && z.param0.toNat / 256 % 4 = 1) h sound
        (by simp [wantVu, e, f, kind]) ha hb fun x dy h =>
          mulF32 dy (decodeF32 (if h.isZero then x.r.param2 else x.r.param1))
  · have reduces {op : Nat} (o : rc.param0.toNat % 4 = op) : wantReduce op rc = true := by
      simp [wantReduce, wantVu, e, f, o]
    simp only [List.mem_cons, List.not_mem_nil, or_false] at hy
    obtain rfl | rfl | rfl | rfl := hy <;> exact State.runReduce h sound (reduces o) ha hd ho o
end

section
/-! SUPPORT. Reads that land, tiles that a chain passes on, and the injector's wait (O37). -/

namespace Sys2Proof.Machine

variable {s : State} {c : Core} {r addr held : Nat} {hint : Hint} {x : Read} {rest : List Read} {p : Plan} {q y : QRec}
  {rc : Rec}

/-! ### Reads that land (R132, R337, R380) -/

/-- A read in flight of an aborted step lands before any other (R380). -/
theorem exec_feedReadLanded_aborted (aw : s.awake = true) (hy : s.cores[c].landingOf r addr hint = some y) :
    exec (.feedReadLanded c r addr hint) s = .next ((s.landAborted c y).settle c) := by
  change execFeedReadLanded c r addr hint s = _
  unfold execFeedReadLanded
  rw [hy]
  exact if_pos aw

section NoneAborted
variable (empty : s.cores[c].landingOf r addr hint = none) (hq : s.qrec c r = some q)
include empty hq

/-- With no read of an aborted step in flight, nothing but the oldest read of a feed lands (R132). -/
theorem exec_feedReadLanded_other
    (other : q.phase = .issued ∨ ∀ x rest, q.reads = x :: rest → x.addr ≠ addr ∨ x.hint ≠ hint) :
    exec (.feedReadLanded c r addr hint) s = .next s := by
  change execFeedReadLanded c r addr hint s = _
  unfold execFeedReadLanded
  rw [empty, hq]
  dsimp only []
  cases reads : q.reads with
  | nil => rfl
  | cons x rest =>
    refine if_pos ?_
    obtain issued | differs := other
    · simp [issued]
    · obtain h | h := differs x rest reads <;> simp [h]

end NoneAborted

section Oldest
variable (aw : s.awake = true) (empty : s.cores[c].landingOf r x.addr x.hint = none) (hq : s.qrec c r = some q)
  (granted : q.phase ≠ .issued) (reads : q.reads = x :: rest)
include aw empty hq granted reads

/-- The oldest read of a feed lands in its die's cache (R337). -/
theorem exec_feedReadLanded_kept (valid : q.tagInvalid = false) : exec (.feedReadLanded c r x.addr x.hint) s =
    .next (((s.modQRec c r (fun q => { q with reads := rest })).landRead c x).settle c) := by
  change execFeedReadLanded c r x.addr x.hint s = _
  unfold execFeedReadLanded
  rw [empty, hq]
  dsimp only []
  rw [reads]
  simp [aw, granted, valid]

/-- The oldest read of a cancelled prefetch is discarded (R380). -/
theorem exec_feedReadLanded_cancelled (invalid : q.tagInvalid = true) : exec (.feedReadLanded c r x.addr x.hint) s =
    .next ((s.discardRead c r).settle c) := by
  change execFeedReadLanded c r x.addr x.hint s = _
  unfold execFeedReadLanded
  rw [empty, hq]
  dsimp only []
  rw [reads]
  simp [aw, granted, invalid]

end Oldest

theorem State.landRead_cores : (s.landRead c x).cores = s.cores := by
  unfold State.landRead State.cacheRead
  split <;> rfl

theorem State.landRead_mem : (s.landRead c x).mem = s.mem := by
  unfold State.landRead State.cacheRead
  split <;> rfl

theorem State.landRead_qrec : (s.landRead c x).qrec c r = s.qrec c r := by
  unfold State.qrec
  rw [State.landRead_cores]

/-- What a read brings into a cache does not hang on the records in flight. -/
theorem State.cacheRead_modQRec {f : QRec → QRec} {d : Fin 4} :
    ((s.modQRec c r f).cacheRead d hint addr).caches = (s.cacheRead d hint addr).caches := by
  unfold State.cacheRead
  split <;> rfl

/-- A change of a record in flight that keeps its number is what its number finds. -/
theorem State.modQRec_found {f : QRec → QRec} (hq : s.qrec c r = some q) (hf : ∀ q, (f q).recno = q.recno) :
    (s.modQRec c r f).qrec c r = some (f q) := by
  rw [State.modQRec_qrec hf, hq, Option.map_some]

/-- A record whose read is discarded ends with its last (R380). -/
theorem State.discardRead_qrec (hq : s.qrec c r = some q) (reads : q.reads = x :: rest) : (s.discardRead c r).qrec c r =
    some { q with reads := rest, phase := if rest.isEmpty then .executed else q.phase } := by
  have found : (s.addObj 0x303F (coreDie c).val 1).qrec c r = some q := hq
  refine (State.modQRec_found found (by intro; rfl)).trans ?_
  simp [reads]

theorem State.landAborted_landing (reads : y.reads = x :: rest) : (s.landAborted c y).cores[c].landing =
    s.cores[c].landing.filter (fun z => decide (z ≠ y)) ++ (if rest.isEmpty then [] else [{ y with reads := rest }]) := by
  unfold State.landAborted
  rw [State.modCore_core]
  simp [reads, State.addObj, State.setObj]

theorem State.landAborted_inflight : (s.landAborted c y).cores[c].inflight = s.cores[c].inflight := by
  unfold State.landAborted
  rw [State.modCore_core]
  rfl

/-! ### The weight chain (R373) and the injector (R153) -/

/-- Tiles that a chain's member passes on are counted by die (R373). -/
theorem State.forward_counted (w : Assoc.wf objDefault s.od = true) (d : CDie) :
    (s.addObj 0x3041 d.val 1).obj 0x3041 d.val = min (2 ^ 64 - 1) (s.obj 0x3041 d.val + 1) := by
  have entry : ∀ d : CDie, ((objFind 0x3041 d.val).map (fun o => o.ty.maxValue)).getD 0 = 2 ^ 64 - 1 := by decide
  rw [State.obj_addObj w, entry]

section Member
variable {ch pos : Nat}

/-- What a member of a chain does that delivers a tile: it takes it from its predecessor, unless it is the head, and holds
it for its successor, unless it is the last (R373). -/
def State.deliver (s : State) (p : Plan) (c : Core) (r ch pos : Nat) (key : BitVec 16 × Nat) : State :=
  let t := (if pos = 0 then s else s.takeTile p ch (pos - 1) key).modQRec c r (fun q => { q with passed := q.passed + 1 })
  match p.forwardPool ch pos with
  | none => t
  | some _ => (t.modQRec c r (fun q => { q with tiles := q.tiles + 1 })).addObj 0x3041 (coreDie c).val 1

/-- A member delivers no tile: its slots are full, the head's tile has not been read, or a later member's predecessor has
none (R373). -/
def State.tileWaits (s : State) (p : Plan) (ch pos : Nat) (key : BitVec 16 × Nat) (q : QRec) : Prop :=
  (∃ pool, p.forwardPool ch pos = some pool ∧ q.holds pool ≤ q.tiles) ∨ (pos = 0 ∧ q.tileRead = false) ∨
    (pos ≠ 0 ∧ s.tilesAt p ch (pos - 1) key = 0)

/-- A head that has a successor notes the tile as passed on and held (R373). -/
theorem State.deliver_head_qrec {key : BitVec 16 × Nat} {pool : Nat} (hq : s.qrec c r = some q)
    (fwd : p.forwardPool ch 0 = some pool) :
    (s.deliver p c r ch 0 key).qrec c r = some { q with passed := q.passed + 1, tiles := q.tiles + 1 } := by
  unfold State.deliver
  rw [fwd]
  exact State.modQRec_found (State.modQRec_found hq (by intro; rfl)) (by intro; rfl)

/-- A head that has a successor counts the tile as passed on (R373). -/
theorem State.deliver_head_counted {key : BitVec 16 × Nat} {pool : Nat} (w : Assoc.wf objDefault s.od = true)
    (fwd : p.forwardPool ch 0 = some pool) :
    (s.deliver p c r ch 0 key).obj 0x3041 (coreDie c).val = min (2 ^ 64 - 1) (s.obj 0x3041 (coreDie c).val + 1) := by
  unfold State.deliver
  rw [fwd]
  exact State.forward_counted (s := (s.modQRec c r _).modQRec c r _) w _

/-- The last member of a chain keeps no tile for another (R373). -/
theorem State.deliver_last {key : BitVec 16 × Nat} (later : pos ≠ 0) (last : p.forwardPool ch pos = none) :
    s.deliver p c r ch pos key =
      (s.takeTile p ch (pos - 1) key).modQRec c r (fun q => { q with passed := q.passed + 1 }) := by
  unfold State.deliver
  rw [last, if_neg later]

variable (hp : s.plan = some p) (hq : s.qrec c r = some q) (hrc : p.recAt c r = some rc)
  (hch : p.chainOf c r = some (ch, pos))
include hp hq hrc hch

theorem exec_chainTileForward_waits (waits : s.tileWaits p ch pos (passKey p s.step.current rc) q) :
    exec (.chainTileForward c r) s = .next s := by
  change execChainTileForward c r s = _
  unfold execChainTileForward
  rw [hp, hq]
  dsimp only []
  rw [hrc, hch]
  refine if_pos ?_
  obtain ⟨pool, fwd, full⟩ | ⟨head, unread⟩ | ⟨later, none⟩ := waits
  · simp [fwd, Nat.not_lt.mpr full]
  · simp [head, unread]
  · simp [later, none]

theorem exec_chainTileForward_delivers (aw : s.awake = true) (run : s.step.status = .running)
    (live : q.phase = .granted ∨ q.phase = .started) (left : q.passed < q.chainTiles)
    (ready : ¬ s.tileWaits p ch pos (passKey p s.step.current rc) q) :
    exec (.chainTileForward c r) s = .next (s.deliver p c r ch pos (passKey p s.step.current rc)) := by
  change execChainTileForward c r s = _
  unfold execChainTileForward State.deliver
  rw [hp, hq]
  dsimp only []
  rw [hrc, hch]
  dsimp only []
  have stands : q.phase ≠ .issued ∧ q.phase ≠ .executed := by
    obtain h | h := live <;> rw [h] <;> decide
  unfold State.tileWaits at ready
  push Not at ready
  obtain ⟨room, read, stock⟩ := ready
  rw [if_neg]
  · cases p.forwardPool ch pos <;> rfl
  · cases fwd : p.forwardPool ch pos with
    | none => simpa [aw, run, stands, left] using ⟨by simpa using read, stock⟩
    | some pool => simpa [aw, run, stands, left, room pool fwd] using ⟨by simpa using read, stock⟩

end Member

/-- The injector's wait is counted by physical core (R153). -/
theorem State.stall_counted (w : Assoc.wf objDefault s.od = true) (n : Phys) :
    (s.addObj 0x301C n.val held).obj 0x301C n.val = min (2 ^ 64 - 1) (s.obj 0x301C n.val + held) := by
  have entry : ∀ n : Phys, ((objFind 0x301C n.val).map (fun o => o.ty.maxValue)).getD 0 = 2 ^ 64 - 1 := by decide
  rw [State.obj_addObj w, entry]

theorem exec_loadInterlockRelease (aw : s.awake = true) (hp : s.plan = some p) (hq : s.qrec c r = some q)
    (hrc : p.recAt c r = some rc) (engine : rc.engine = 1) (started : q.phase = .started) :
    exec (.loadInterlockRelease c r held) s = .next (s.addObj 0x301C (s.physOf c).val held) := by
  change execLoadInterlockRelease c r held s = _
  unfold execLoadInterlockRelease
  rw [hp, Option.bind_some, hrc, hq]
  simp [aw, engine, started]

end Sys2Proof.Machine

open Sys2Proof Sys2Proof.Machine

/-- Settles O37: a read lands by whose it is, a tile is delivered unless `State.tileWaits`, and a stall is counted. -/
theorem feedsAndChainsMove : Obligations.FeedsAndChainsMove := by
  intro s c r p q rc inv aw run hp hq hrc
  refine ⟨fun y x rest hy reads => ?_, fun x rest granted reads empty => ⟨fun valid => ?_, fun invalid => ?_⟩,
    fun a hint empty other => exec_feedReadLanded_other empty hq other, fun ch pos hch live left => ?_,
    fun held engine started => ?_⟩
  · exact ⟨_, exec_feedReadLanded_aborted aw hy, rfl, rfl, State.landAborted_inflight, State.landAborted_landing reads,
      State.discard_counted inv.objects _⟩
  · refine ⟨_, exec_feedReadLanded_kept aw empty hq granted reads valid, ?_, State.landRead_mem, State.cacheRead_modQRec⟩
    exact State.landRead_qrec.trans (State.modQRec_found hq (by intro; rfl))
  · exact ⟨_, exec_feedReadLanded_cancelled aw empty hq granted reads invalid, rfl, rfl, State.discardRead_qrec hq reads,
      State.discard_counted inv.objects _⟩
  · have waits := exec_chainTileForward_waits hp hq hrc hch
    have delivers := exec_chainTileForward_delivers hp hq hrc hch aw run live left
    refine ⟨fun head read pool fwd => ⟨fun room => ?_, fun full => waits (.inl ⟨pool, head ▸ fwd, full⟩)⟩,
      fun head unread => waits (.inr (.inl ⟨head, unread⟩)), fun later empty => waits (.inr (.inr ⟨later, empty⟩)),
      fun later stock last => ?_⟩
    · subst head
      refine ⟨_, delivers ?_, State.deliver_head_qrec hq fwd, State.deliver_head_counted inv.objects fwd⟩
      rintro (⟨pool', fwd', full⟩ | ⟨-, unread⟩ | ⟨later, -⟩)
      · obtain rfl : pool = pool' := by simpa [fwd] using fwd'
        omega
      · simp [read] at unread
      · exact later rfl
    · refine (delivers ?_).trans (congrArg Host.Outcome.next (State.deliver_last later last))
      rintro (⟨pool, fwd, -⟩ | ⟨head, -⟩ | ⟨-, empty⟩)
      · simp [last] at fwd
      · exact later head
      · exact stock empty
  · exact ⟨_, exec_loadInterlockRelease aw hp hq hrc engine started, rfl, State.stall_counted inv.objects _⟩
end

section
/-! SUPPORT. An element-wise record over a memory that has not its canonical form (O56): where a list of cells hides an entry
behind a higher key, a write of zero to the higher key uncovers it. -/

namespace Sys2Proof.Machine.Uncovered

/-- One `FP32` element in HBM at 0x3000. -/
def element : Desc := ⟨0x3000, .normal, false, false, 1, .fp32, 0, [1], []⟩

/-- `ELEMENT_SUBTRACT` of the element from itself, in place. -/
def difference : Rec where
  engine := 3
  func := 3
  stat := 0
  part := 0
  pidx := 0
  mode := 0
  fuse := 0
  endstep := false
  recno := 0
  units := 0
  mbtag := 0
  worktag := 0
  segbase := 0
  wver := 0
  desc0 := some 0
  desc1 := some 0
  desc2 := some 0
  desc3 := none
  desc4 := none
  desc5 := none
  param0 := 1
  param1 := 0
  param2 := 0
  plancyc := 0
  waits := []
  sigs := []

/-- A plan of that record on core 0. -/
def plan : Plan where
  masked := false
  compat := false
  nodeId := 1
  numModules := 1
  stepFirst := 0
  stepLast := 0
  maskPeriod := 0
  ckptPeriod := 0
  setDigest := 0
  configDigest := 0
  imageDigest := 0
  records := [[difference]]
  descs := [element]
  allocs := []
  pools := []
  needs := []
  chains := []
  routes := []
  backups := []
  groups := []
  refPeriod := 0
  preds := []
  tables := []
  launch := ⟨0, 0, 0, []⟩
  micro := []
  values := []
  weightSets := []
  windows := []
  ckpt := none

/-- The record, started. -/
def begun : QRec := { recno := 0, queues := [.vu], phase := .started }

/-- The record stands started in a running step; the cell at 0x2000 stands behind that at 0x3000, so it reads as zero. -/
def state : State :=
  { State.reset with
    plan := some plan
    mem := [(0x3000, 1), (0x2000, 1)]
    step := { StepState.initial with status := .running }
    cores := State.reset.cores.set 0 { State.reset.cores[0] with inflight := [begun] } }

theorem memory_not_canonical : Memory.wf state.mem = false := rfl

theorem hidden : state.byte 0x2000 = 0 := rfl

theorem ready : RecordReady state 0 0 plan difference begun := ⟨rfl, rfl, rfl, rfl, rfl, rfl, rfl, rfl, rfl⟩

theorem sound : OperandsSound state 0 plan difference begun vuReads where
  poison := by decide
  weights := by decide
  versions := by decide
  tiles := by decide

/-- The record's result is zero: its store drops the cell at 0x3000, and the one behind it reads as it stands. -/
theorem uncovers {t : State} (h : exec (.elementSubtract 0 0) state = .next t) : t.byte 0x2000 = 1 := by
  have left : (match exec (.elementSubtract 0 0) state with
    | .next t => t.byte 0x2000
    | _ => 0) = 1 := by decide
  rwa [h] at left

end Sys2Proof.Machine.Uncovered

open Sys2Proof Sys2Proof.Machine

/-- Refutes O56: it asks no canonical form of memory (`State.Inv`), and in `Uncovered.state`, where a cell at 0x2000 stands
behind one at 0x3000, the record's store of zero to 0x3000 changes what the byte at 0x2000 reads as. -/
theorem not_elementRecordsStoreOnlyTheirOutput : ¬ Obligations.ElementRecordsStoreOnlyTheirOutput := by
  intro h
  obtain ⟨t, run, frame, -⟩ := h Uncovered.state 0 0 Uncovered.plan Uncovered.difference Uncovered.begun 0 0
    Uncovered.element Uncovered.element Uncovered.ready Uncovered.sound rfl rfl rfl rfl rfl rfl rfl (by decide)
    (.elementSubtract 0 0, 1) (by simp) rfl
  have off : t.byte 0x2000 = Uncovered.state.byte 0x2000 := by
    refine frame 0x2000 fun o ho u v hu hv => .inl ?_
    obtain rfl : o = [] := by simpa [Desc.outers, Uncovered.element, indexSpace] using ho
    obtain rfl : 0x2000 = u := Option.some.inj hu
    obtain rfl : 0x3000 = v := Option.some.inj hv
    decide
  rw [Uncovered.uncovers run, Uncovered.hidden] at off
  exact absurd off (by decide)
end

section
/-! SUPPORT. Sorted lists: what `sortBy` keeps, and the order it gives. -/

namespace Sys2Proof.Machine

section Sorting
variable {α : Type} {lt : α → α → Bool} {a : α} {l : List α}

theorem insertBy_perm : (insertBy lt a l).Perm (a :: l) := by
  induction l with
  | nil => exact .refl _
  | cons b l ih =>
    simp only [insertBy]
    split
    · exact .refl _
    · exact (ih.cons b).trans (.swap a b l)

theorem foldl_insertBy_perm {acc : List α} : (l.foldl (fun s a => insertBy lt a s) acc).Perm (l ++ acc) := by
  induction l generalizing acc with
  | nil => exact .refl _
  | cons a l ih => exact ih.trans ((insertBy_perm.append_left l).trans List.perm_middle)

/-- Sorting keeps the entries. -/
theorem sortBy_perm : (sortBy lt l).Perm l := by
  simpa [sortBy] using foldl_insertBy_perm (lt := lt) (l := l) (acc := [])

/-- An order of entries that a sorting by `lt` gives where `b` stands before `a`: `a` comes first where it is less, else it
stays behind. -/
def Ordered (R : α → α → Prop) (lt : α → α → Bool) (b a : α) : Prop :=
  (lt a b = true → R a b) ∧ (lt a b = false → R b a)

variable {R : α → α → Prop} (trans : ∀ x y z, R x y → R y z → R x z)
include trans

theorem insertBy_pairwise (h : l.Pairwise R) (fits : ∀ b ∈ l, Ordered R lt b a) : (insertBy lt a l).Pairwise R := by
  induction l with
  | nil => exact List.pairwise_singleton R a
  | cons b l ih =>
    obtain ⟨first, rest⟩ := List.pairwise_cons.mp h
    obtain ⟨before, after⟩ := fits b List.mem_cons_self
    simp only [insertBy]
    split
    next less =>
      have ab := before less
      refine List.pairwise_cons.mpr ⟨fun x hx => ?_, h⟩
      obtain rfl | hx := List.mem_cons.mp hx
      · exact ab
      · exact trans a b x ab (first x hx)
    next more =>
      refine List.pairwise_cons.mpr ⟨fun x hx => ?_, ih rest fun x hx => fits x (List.mem_cons_of_mem b hx)⟩
      obtain rfl | hx := List.mem_cons.mp (insertBy_perm.mem_iff.mp hx)
      · exact after (by simpa using more)
      · exact first x hx

theorem foldl_insertBy_pairwise {acc : List α} (sorted : acc.Pairwise R) (fits : l.Pairwise (Ordered R lt))
    (meets : ∀ b ∈ acc, ∀ a ∈ l, Ordered R lt b a) : (l.foldl (fun s a => insertBy lt a s) acc).Pairwise R := by
  induction l generalizing acc with
  | nil => exact sorted
  | cons a l ih =>
    obtain ⟨first, rest⟩ := List.pairwise_cons.mp fits
    refine ih (insertBy_pairwise trans sorted fun b hb => meets b hb a List.mem_cons_self) rest fun b hb x hx => ?_
    obtain rfl | hb := List.mem_cons.mp (insertBy_perm.mem_iff.mp hb)
    · exact first x hx
    · exact meets b hb x (List.mem_cons_of_mem a hx)

/-- Sorting gives the order that each pair of entries has by `lt` and by its places. -/
theorem sortBy_pairwise (fits : l.Pairwise (Ordered R lt)) : (sortBy lt l).Pairwise R :=
  foldl_insertBy_pairwise trans .nil fits (by simp)

end Sorting

/-- Distinct numbers sorted rise. -/
theorem sortBy_lt_pairwise {l : List Nat} (h : l.Nodup) : (sortBy (fun i j => decide (i < j)) l).Pairwise (· < ·) :=
  sortBy_pairwise (fun _ _ _ => Nat.lt_trans) (h.imp fun {b a} (ne : b ≠ a) =>
    ⟨by simp, by simp only [decide_eq_false_iff_not]; omega⟩)

/-- Integers each less than the next rise throughout. -/
theorem pairwise_of_zip_drop {l : List Int} (h : ∀ p ∈ l.zip (l.drop 1), p.1 < p.2) : l.Pairwise (· < ·) := by
  refine List.isChain_iff_pairwise.mp ?_
  induction l with
  | nil => exact .nil
  | cons a l ih =>
    cases l with
    | nil => exact .singleton a
    | cons b l =>
      exact .cons_cons (h (a, b) (by simp)) (ih fun p hp => h p (by simpa using .inr hp))

end Sys2Proof.Machine
end

section
/-! SUPPORT. What counting changes: the operations that only count keep the frame `OnlyCounts`. -/

namespace Sys2Proof.Machine

variable {s t u : State} {x : Ctx}

theorem OnlyCounts.trans (h : OnlyCounts s t) (g : OnlyCounts t u) : OnlyCounts s u := by
  unfold OnlyCounts at *
  rw [g, h]

theorem OnlyCounts.ite {c : Prop} [Decidable c] (h : OnlyCounts s t) (g : OnlyCounts s u) :
    OnlyCounts s (if c then t else u) := by
  split
  · exact h
  · exact g

theorem OnlyCounts.event {c : BitVec 16} {i : Nat} {d : Bytes} : OnlyCounts s (s.event c i d) := by
  unfold State.event
  exact OnlyCounts.ite rfl rfl

theorem OnlyCounts.count {f w i n m : Nat} {c : BitVec 16} {d : Bytes} : OnlyCounts s (s.count x f w i n m c d) := by
  unfold State.count
  refine OnlyCounts.ite rfl (OnlyCounts.ite ?_ rfl)
  exact OnlyCounts.trans (t := { s with step := { s.step with
    counts := addKey (f, w, i) n s.step.counts, seen := s.step.seen ++ [(f, w, i)] } }) rfl OnlyCounts.event

theorem OnlyCounts.countQuiet {f w i n : Nat} : OnlyCounts s (s.countQuiet f w i n) := by
  unfold State.countQuiet
  exact OnlyCounts.ite rfl rfl

theorem OnlyCounts.mem (h : OnlyCounts s t) : t.mem = s.mem := by
  unfold OnlyCounts at h
  rw [h]

theorem OnlyCounts.noteNan {n k : Nat} : OnlyCounts s (s.noteNan n k) := by
  unfold State.noteNan
  exact OnlyCounts.ite rfl rfl

theorem OnlyCounts.chargeCounts {n : Nat} {c : Counts} : OnlyCounts s (s.chargeCounts x n c) := by
  unfold State.chargeCounts
  exact OnlyCounts.ite rfl (((((OnlyCounts.count.trans OnlyCounts.count).trans OnlyCounts.count).trans
    OnlyCounts.count).trans OnlyCounts.count).trans OnlyCounts.count)

theorem OnlyCounts.charge {n : Nat} {c : Counts} : OnlyCounts s (s.charge x n c) :=
  OnlyCounts.chargeCounts.trans OnlyCounts.noteNan

theorem OnlyCounts.writeStatus {n : Nat} {d : Desc} {l : List (List Nat × List OutElem)} :
    OnlyCounts s (s.writeStatus x n d l) :=
  OnlyCounts.trans (t := { s with step := { s.step with
      tiles := setKey n (tileBytes d ((lookupKey n s.step.tiles).getD []) l) s.step.tiles } }) rfl
    ((OnlyCounts.count.trans OnlyCounts.count).trans OnlyCounts.count)

theorem OnlyCounts.clearStatus {n : Nat} {d : Desc} {l : List (List Nat)} : OnlyCounts s (s.clearStatus x n d l) :=
  OnlyCounts.writeStatus

theorem OnlyCounts.countPred {i n : Nat} : OnlyCounts s (s.countPred x i n) := by
  unfold State.countPred
  exact OnlyCounts.ite rfl OnlyCounts.count

/-- Counting leaves every scalar of the dictionary but the counters of events (R483). -/
theorem State.count_obj (w : Assoc.wf objDefault s.od = true) {f who i n m : Nat} {c : BitVec 16} {d : Bytes} {idx sub : Nat}
    (other : idx ≠ 0x3000) (small : sub < 256) : (s.count x f who i n m c d).obj idx sub = s.obj idx sub := by
  unfold State.count
  dsimp only []
  split
  · rfl
  · split
    · exact (State.event_onlyLogs (s := { s with step := { s.step with
        counts := addKey (f, who, i) n s.step.counts, seen := s.step.seen ++ [(f, who, i)] } }) w c _ d).objects _ _ other small
    · rfl

end Sys2Proof.Machine
end

section
/-! SUPPORT. The predictor: the neurons it names, the misses a check finds, and the counts of a reference (O57). -/

namespace Sys2Proof.Machine

variable {s : State} {x : Ctx} {q : QRec} {e : PredEntry} {z list : Desc} {listed : List Nat} {t' n : Nat}

/-! ### The neurons named (R268) -/

section Names
variable {theta : Val} {a : Nat} {score : List Val}

/-- The neurons whose score lies above the threshold, each with its score (R268). -/
def candidates (theta : Val) (score : List Val) : List (Val × Nat) := score.zipIdx.filter (fun p => theta.lt p.1)

/-- The neurons named are `a` of the candidates, or all, put in ascending order. -/
theorem nameNeurons_perm : ∃ l : List (Val × Nat), l.Perm (candidates theta score) ∧
    nameNeurons theta a score =
      (sortBy (fun i j => decide (i < j)) ((l.take a).map Prod.snd), (candidates theta score).length) :=
  ⟨_, sortBy_perm, rfl⟩

theorem candidates_nodup : ((candidates theta score).map Prod.snd).Nodup := by
  have all : (score.zipIdx.map Prod.snd).Nodup := by
    rw [List.zipIdx_map_snd]
    exact List.nodup_range'
  exact all.sublist (List.filter_sublist.map Prod.snd)

theorem lt_of_mem_candidates {p : Val × Nat} (h : p ∈ candidates theta score) :
    theta.lt (score.getD p.2 Val.zero) = true := by
  obtain ⟨listed, above⟩ := List.mem_filter.mp h
  rw [List.getD_eq_getElem?_getD, List.mem_zipIdx_iff_getElem?.mp listed]
  exact above

/-- A predictor names at most `a` neurons, in ascending order, each above its threshold, and as many as it can (R268). -/
theorem nameNeurons_spec : (nameNeurons theta a score).1.length ≤ a ∧ (nameNeurons theta a score).1.Pairwise (· < ·) ∧
    (∀ n ∈ (nameNeurons theta a score).1, theta.lt (score.getD n Val.zero) = true) ∧
    (nameNeurons theta a score).1.length = min a (nameNeurons theta a score).2 := by
  obtain ⟨l, perm, eq⟩ := nameNeurons_perm (theta := theta) (a := a) (score := score)
  have size : (nameNeurons theta a score).1.length = min a (candidates theta score).length := by
    rw [eq, sortBy_perm.length_eq, List.length_map, List.length_take, perm.length_eq]
  refine ⟨by omega, ?_, fun n hn => ?_, by rw [size, eq]⟩
  · rw [eq]
    have distinct : (l.map Prod.snd).Nodup := (perm.map Prod.snd).nodup_iff.mpr candidates_nodup
    exact sortBy_lt_pairwise (distinct.sublist ((List.take_sublist a l).map Prod.snd))
  · rw [eq] at hn
    obtain ⟨p, hp, rfl⟩ := List.mem_map.mp (sortBy_perm.mem_iff.mp hn)
    exact lt_of_mem_candidates (perm.mem_iff.mp (List.mem_of_mem_take hp))

end Names

/-! ### The misses found (R271) -/

/-- A list of neurons that is well formed rises (R205). -/
theorem State.activeList_pairwise (h : s.activeList list n = some listed) : listed.Pairwise (· < ·) := by
  unfold State.activeList at h
  dsimp only [] at h
  split at h
  · exact absurd h (by simp)
  · split at h
    next wellFormed =>
      simp only [Bool.and_eq_true, List.all_eq_true, decide_eq_true_eq] at wellFormed
      obtain ⟨inRange, rising⟩ := wellFormed
      obtain rfl := Option.some.inj h
      refine List.pairwise_map.mpr ((pairwise_of_zip_drop rising).imp_of_mem fun {a b} ha hb less => ?_)
      have := inRange a ha
      omega
    · exact absurd h (by simp)

/-- A miss is a neuron left out that is active for some token, with its count of tokens (R271). -/
theorem State.mem_misses {y : Nat × Nat} : y ∈ s.misses z t' n listed ↔
    y.2 < n ∧ y.2 ∉ listed ∧ y.1 = s.activeTokens z t' y.2 ∧ 0 < y.1 := by
  unfold State.misses
  dsimp only []
  rw [sortBy_perm.mem_iff, List.mem_filter, List.mem_map]
  simp only [List.mem_filter, List.mem_range, decide_eq_true_eq, Bool.not_eq_true', List.contains_eq_mem,
    decide_eq_false_iff_not]
  constructor
  · rintro ⟨⟨i, ⟨below, out⟩, rfl⟩, active⟩
    exact ⟨below, out, rfl, active⟩
  · rintro ⟨below, out, count, active⟩
    exact ⟨⟨y.2, ⟨below, out⟩, by rw [← count]⟩, active⟩

/-- The order of misses: more tokens first, and then the lower neuron (R271). -/
def missAbove (u v : Nat × Nat) : Prop := v.1 < u.1 ∨ u.1 = v.1 ∧ u.2 < v.2

theorem State.misses_pairwise : (s.misses z t' n listed).Pairwise missAbove := by
  have rising : (((List.range n).filter (fun i => !listed.contains i)).map
      (fun i => (s.activeTokens z t' i, i))).Pairwise (fun u v => u.2 < v.2) :=
    List.pairwise_map.mpr (List.pairwise_lt_range.filter _)
  refine sortBy_pairwise ?_ ((rising.filter _).imp fun {b a} (less : b.2 < a.2) => ⟨?_, ?_⟩)
  · unfold missAbove
    omega
  all_goals
    unfold missAbove
    simp only [decide_eq_true_eq, decide_eq_false_iff_not]
    omega

theorem State.misses_nodup : ((s.misses z t' n listed).map Prod.snd).Nodup := by
  refine List.pairwise_map.mpr (State.misses_pairwise.imp_of_mem fun {u v} hu hv above same => ?_)
  obtain ⟨-, -, countU, -⟩ := State.mem_misses.mp hu
  obtain ⟨-, -, countV, -⟩ := State.mem_misses.mp hv
  rw [same, ← countV] at countU
  unfold missAbove at above
  omega

/-- The neurons a check adds: those of the first `g` misses, in ascending order (R271). -/
def State.gleaned (s : State) (z : Desc) (t' n : Nat) (listed : List Nat) (g : Nat) : List Nat :=
  sortBy (fun i j => decide (i < j)) (((s.misses z t' n listed).take g).map Prod.snd)

theorem State.gleaned_pairwise {g : Nat} : (s.gleaned z t' n listed g).Pairwise (· < ·) :=
  sortBy_lt_pairwise (State.misses_nodup.sublist ((List.take_sublist g _).map Prod.snd))

/-- No neuron is gleaned that was listed. -/
theorem State.gleaned_out {g i : Nat} (h : i ∈ s.gleaned z t' n listed g) : i ∉ listed := by
  obtain ⟨y, hy, rfl⟩ := List.mem_map.mp (sortBy_perm.mem_iff.mp h)
  exact (State.mem_misses.mp (List.mem_of_mem_take hy)).2.1

/-- The list that a check leaves: the neurons listed and those gleaned, in ascending order (R271). -/
def mergedList (listed glean : List Nat) : List Nat := sortBy (fun i j => decide (i < j)) (listed ++ glean)

theorem mergedList_pairwise {glean : List Nat} (hl : listed.Pairwise (· < ·)) (hg : glean.Pairwise (· < ·))
    (apart : ∀ i ∈ glean, i ∉ listed) : (mergedList listed glean).Pairwise (· < ·) :=
  sortBy_lt_pairwise (List.nodup_append'.mpr ⟨hl.imp Nat.ne_of_lt, hg.imp Nat.ne_of_lt, fun i hi hg => apart i hg hi⟩)

/-- Where a merged neuron's line stands: in the first part of the concatenated output if it was listed, else behind the
`a` lines of that part (R271). -/
def mergePlace (a : Nat) (listed glean : List Nat) (i : Nat) : Nat :=
  if i ∈ listed then listed.idxOf i else a + glean.idxOf i

/-- The position of the first entry of a list that is `i`, where one is. -/
theorem findIdx?_beq {l : List Nat} {i : Nat} : l.findIdx? (· == i) = if i ∈ l then some (l.idxOf i) else none := by
  rw [List.findIdx?_eq_guard_findIdx_lt]
  have below : (List.findIdx (· == i) l < l.length) ↔ i ∈ l := List.idxOf_lt_length_iff
  by_cases h : i ∈ l
  · rw [if_pos h, Option.guard, if_pos (by simpa using below.mpr h)]
    rfl
  · rw [if_neg h, Option.guard, if_neg (by simpa using fun k => h (below.mp k))]

/-- A check that gleans writes the gleaned list, the merged list and the merge index (R271). -/
theorem State.writeGlean_eq {n2 n3 n4 : Nat} {d2 d3 d4 : Desc} {glean : List Nat} (h2 : x.wr x.r.desc2 = some (n2, d2))
    (h3 : x.wr x.r.desc3 = some (n3, d3)) (h4 : x.wr x.r.desc4 = some (n4, d4)) : s.writeGlean x e listed glean =
      ((s.writeRaw x n3 d3 [([], glean.length :: glean)]).writeRaw x n2 d2
        [([], (mergedList listed glean).length :: mergedList listed glean)]).writeRaw x n4 d4
          [([], (mergedList listed glean).length :: (mergedList listed glean).map (mergePlace e.a listed glean))] := by
  unfold State.writeGlean State.writeList
  dsimp only []
  rw [h2, h3, h4]
  dsimp only []
  rw [List.length_map]
  refine congrArg (fun l => State.writeRaw _ x n4 d4 [([], _ :: l)]) (List.map_congr_left fun i hi => ?_)
  have merged : i ∈ listed ∨ i ∈ glean := List.mem_append.mp (sortBy_perm.mem_iff.mp hi)
  unfold mergePlace
  rw [findIdx?_beq, findIdx?_beq]
  by_cases h : i ∈ listed
  · simp [h]
  · simp [h, merged.resolve_left h]

/-! ### What a check does (R271, R276) -/

/-- What a check that gleans counts: the misses, those gleaned and those passed over (R271, R282). -/
def State.gleanCounts (s : State) (x : Ctx) (misses glean : Nat) : State :=
  ((s.countPred x 1 misses).countPred x 2 glean).countPred x 3 (misses - glean)

theorem OnlyCounts.gleanCounts {m g : Nat} : OnlyCounts s (s.gleanCounts x m g) :=
  (OnlyCounts.countPred.trans OnlyCounts.countPred).trans OnlyCounts.countPred

/-- A check that halts logs the misses and asks for the step to halt at its predictor (R276). -/
def State.missHalt (s : State) (x : Ctx) (misses : Nat) : State :=
  { s.event 0x3125 x.island (predDetail x ++ toLe 4 misses) with step := { s.step with halt := some x.r.pred } }

section Check
variable {nz nl : Nat} (he : x.entry = some e) (hz : x.rd x.r.desc0 = some (nz, z)) (hl : x.rd x.r.desc1 = some (nl, list))
  (hlist : s.activeList list e.n = some listed) (htok : s.predTokens x (z.size 1) = some t')
include he hz hl hlist htok

/-- A check counts the misses; by its policy it gleans, or halts the step where there are any (R271, R276). -/
theorem checkEffect_eq (w : Assoc.wf objDefault s.od = true) : checkEffect x q s =
    let miss := s.misses z t' e.n listed
    let t := s.countPred x 1 miss.length
    if s.policy x.r.pred = 1 then
      let glean := s.gleaned z t' e.n listed e.g
      (s.gleanCounts x miss.length glean.length).writeGlean x e listed glean
    else if s.policy x.r.pred = 2 && !miss.isEmpty then t.missHalt x miss.length
    else t := by
  have policy (n : Nat) : (s.countPred x 1 n).policy x.r.pred = s.policy x.r.pred := by
    unfold State.countPred State.policy
    split
    · rfl
    · exact State.count_obj w (by decide) (Nat.mod_lt _ (by decide))
  unfold checkEffect
  rw [he, hz, hl]
  dsimp only []
  rw [hlist, htok]
  dsimp only []
  unfold State.missHalt
  rw [policy, State.event_step]
  rfl

end Check

/-! ### Reference counts (R277) -/

theorem lookupKey_setKey_other {κ β : Type} [DecidableEq κ] {k j : κ} (h : j ≠ k) (v : β) (l : List (κ × β)) :
    lookupKey j (setKey k v l) = lookupKey j l := by
  induction l with
  | nil => simp [setKey, lookupKey, h.symm]
  | cons y l ih =>
    by_cases hk : y.1 = k
    · simp [setKey, lookupKey, hk, h.symm]
    · simp only [setKey, hk, if_false, lookupKey, ih]

/-- What a step has counted of a kind (R83). -/
def State.counted (s : State) (k : CountKey) : Nat := (lookupKey k s.step.counts).getD 0

theorem State.countQuiet_counted {f who i n : Nat} {k : CountKey} :
    (s.countQuiet f who i n).counted k = s.counted k + if k = (f, who, i) then n else 0 := by
  unfold State.countQuiet State.counted
  by_cases none : n = 0
  · simp [none]
  · by_cases same : k = (f, who, i)
    · simp [none, same, addKey]
    · simp [none, same, addKey, lookupKey_setKey_other same]

end Sys2Proof.Machine
end

section
/-! SUPPORT. Copies, the stash and compose records: what each leaves (O57). -/

namespace Sys2Proof.Machine

variable {s : State} {x : Ctx} {q : QRec}

/-! ### Copies (R133, R134, R175, R292) -/

section Copies
variable {ns nt : Nat} {src tgt : Desc} (hs : x.rd x.r.desc0 = some (ns, src)) (ht : x.wr x.r.desc2 = some (nt, tgt))
include hs ht

/-- A copy that converts writes every element of its source as a value (R133). -/
theorem copyEffect_converts (conv : x.plan.movesBits x.r = false) :
    let sbS := (x.rd x.r.desc4).map Prod.snd
    copyEffect x q s = ((s.charge x ns { mismatch := s.mismatches src sbS src.outers }).writeFinal x nt tgt
      ((x.wr x.r.desc5).map Prod.snd) (tgt.outers.map (fun o => (o, plainElems (s.row src sbS o))))).stampPlane x nt := by
  unfold copyEffect
  rw [hs, ht]
  simp [conv]

/-- A copy of a tensor without a side band that moves bits writes its encodings, and sets no sync flag unless it loads a
plane (R175, R292). -/
theorem copyEffect_moves (moves : x.plan.movesBits x.r = true) (plain : x.rd x.r.desc4 = none)
    (noPlane : x.plan.isLoadRec x.r = false ∨ x.plan.planeOf nt = none) :
    copyEffect x q s = (s.writeRaw x nt tgt (s.codeRows src tgt)).stampPlane x nt := by
  have moved : s.moveBits x src tgt nt = s.writeRaw x nt tgt (s.codeRows src tgt) := by
    unfold State.moveBits
    rw [plain]
  unfold copyEffect
  rw [hs, ht]
  obtain notLoad | none := noPlane
  · simp [moves, moved, notLoad]
  · simp [moves, moved, State.loadSync, none]

/-- A transpose copy writes at each place the element of its source whose index has two dimensions exchanged (R134). -/
theorem transposeEffect_eq :
    let sbS := (x.rd x.r.desc4).map Prod.snd
    let moved (idx : List Nat) : Val := s.val src sbS (swapDims (x.r.param0.toNat % 8) idx)
    transposeEffect x q s = ((s.charge x ns { mismatch := s.mismatches src sbS src.outers }).writeFinal x nt tgt
      ((x.wr x.r.desc5).map Prod.snd) (tgt.outers.map (fun o => (o, plainElems ((List.range (tgt.size 0)).map (fun i =>
        if src.fmt.isMx then toF32 (moved (i :: o)) else moved (i :: o))))))).stampPlane x nt := by
  unfold transposeEffect
  rw [hs, ht]

end Copies

/-! ### The stash (R298 to R301) -/

section StashWrite
variable {ns np no nd : Nat} {src prim ovf dir : Desc} {a : StashAlloc}

/-- The code of a stashed element: a bit, as it stands or of a positive value, or the element converted (R298). -/
def State.stashCode (s : State) (x : Ctx) (src prim : Desc) (i : List Nat) : Nat :=
  if x.r.param0.toNat % 16 = 1 then
    if x.r.param0.toNat / 16 % 4 = 1 then s.code src i else if Val.zero.lt (s.val src none i) then 1 else 0
  else (prim.fmt.convert prim.sat (s.val src none i)).code

/-- The codes of an entry, row by row (R298). -/
theorem State.stashCodes_eq {n : Nat} : (s.stashCodes x src prim n).1 =
    src.outers.flatMap (fun o => (List.range (min n (src.size 0))).map (fun i => s.stashCode x src prim (i :: o))) := by
  have rows (f : List Nat → Nat) :
      (src.outers.flatMap (fun o => (List.range (min n (src.size 0))).map (fun i => i :: o))).map f = src.outers.flatMap (fun o => (List.range (min n (src.size 0))).map (fun i => f (i :: o))) := by
    simp only [List.map_flatMap, List.map_map, Function.comp_def]
  unfold State.stashCodes State.stashCode
  dsimp only []
  split
  · exact rows _
  · rw [List.map_map]
    exact rows _

/-- An entry's bytes are its packed codes, filled up to whole 64-byte granules (R298). -/
theorem stashBytes_padded {f : Bytes → Nat → Byte} {w : Nat} {codes : List Nat} : ∃ pad : Bytes,
    stashBytes f w codes = packCodes w codes ++ pad ∧ pad.length < 64 ∧ (packCodes w codes ++ pad).length % 64 = 0 := by
  refine ⟨_, rfl, ?_, ?_⟩ <;> simp only [List.length_append, List.length_map, List.length_range, ceilDiv] <;> omega

/-- The directory row of a stash write, with `STATE` as given (R300). -/
def State.putDirRow (s : State) (x : Ctx) (dir : Desc) (a : StashAlloc) (state : Nat) : State :=
  s.writeCodes dir [0, a.row]
    ([x.r.param0.toNat % 16 * 16 + state, a.primary, a.off, a.spill, a.count] ++ List.replicate 11 0)

theorem State.writeDirRow_stored (stored : a.stored = true) : s.writeDirRow x dir a = s.putDirRow x dir a 1 := by
  unfold State.writeDirRow State.putDirRow
  rw [if_pos stored]

theorem State.writeDirRow_regen (regen : a.stored = false) : s.writeDirRow x dir a = s.putDirRow x dir a 2 := by
  unfold State.writeDirRow State.putDirRow
  rw [if_neg (by simp [regen])]

variable (hs : x.rd x.r.desc0 = some (ns, src)) (hp : x.wr x.r.desc2 = some (np, prim))
  (ho : x.wr x.r.desc3 = some (no, ovf)) (hd : x.wr x.r.desc4 = some (nd, dir)) (ha : q.stash = some a)
include hs hp ho hd ha

/-- A stash write that has space writes its entry's two parts, and then its directory row (R299, R300). -/
theorem stashWriteEffect_stored (stored : a.stored = true) : ∃ (pad : Bytes) (cnt : Counts),
    let b := packCodes prim.fmt.bits (s.stashCodes x src prim a.count).1 ++ pad
    pad.length < 64 ∧ b.length % 64 = 0 ∧ stashWriteEffect x q s =
      ((((s.putBytes (prim.fmt.bits / 8) prim.range.1 (b.take a.primary)).putBytes 1
        (ovf.base + x.step % 2 * (ovf.size 0 / 2) + a.off) (b.drop a.primary)).charge x np cnt).putDirRow x dir a 1).stampPlane
          x np := by
  obtain ⟨pad, bytes, short, whole⟩ := stashBytes_padded (w := prim.fmt.bits) (codes := (s.stashCodes x src prim a.count).1)
    (f := Config.padByte x.plan.imageDigest s.runSeed x.step x.core.val x.r.recno)
  refine ⟨pad, (s.stashCodes x src prim a.count).2, short, whole, ?_⟩
  unfold stashWriteEffect
  rw [hs, hp, ho, hd, ha]
  simp only [stored, if_true, bytes, State.writeDirRow_stored stored]

/-- A stash write without space writes its directory row, and counts (R299, R300). -/
theorem stashWriteEffect_regen (regen : a.stored = false) : stashWriteEffect x q s = (s.putDirRow x dir a 2).count x 0x2603
    x.core.val 0 1 ((s.putDirRow x dir a 2).obj 0x2600 3) 0x4601 (stashDetail x) := by
  unfold stashWriteEffect
  rw [hs, hp, ho, hd, ha]
  simp only [regen, Bool.false_eq_true, if_false, State.writeDirRow_regen regen]

end StashWrite

section StashRead
variable {np no nv nd : Nat} {prim out ovf dir : Desc} (hp : x.rd x.r.desc0 = some (np, prim))
  (ho : x.wr x.r.desc2 = some (no, out)) (hv : x.rd x.r.desc3 = some (nv, ovf)) (hd : x.rd x.r.desc4 = some (nd, dir))
include hp ho hv hd

/-- A stash read of a row that holds nothing aborts the step (R301). -/
theorem stashReadEffect_empty
    (empty : s.stashState dir (stashRow x.step x.r.stashSlot (x.r.param0.toNat.testBit 0)) ≠ 1) :
    stashReadEffect x q s = s.abortWith 0x4602 x.island (stashDetail x) := by
  unfold stashReadEffect
  rw [hp, ho, hv, hd]
  exact if_pos empty

/-- A stash read unpacks the codes of the entry's two parts, row by row (R301). -/
theorem stashReadEffect_stored {row : Nat} (hrow : stashRow x.step x.r.stashSlot (x.r.param0.toNat.testBit 0) = row)
    (stored : s.stashState dir row = 1) :
    let parts := s.stashParts x.step row (x.r.param0.toNat.testBit 0) ovf dir
    let b := s.getBytes (prim.fmt.bits / 8) prim.range.1 parts.1 ++ s.getBytes 1 parts.2.1 parts.2.2
    let a := min (s.code dir [4, row]) (out.size 0)
    stashReadEffect x q s = (s.writeRaw x no out (out.outers.zipIdx.map (fun o =>
      (o.1, (List.range a).map (fun i => codeAt out.fmt.bits b (o.2 * a + i)))))).stampPlane x no := by
  subst hrow
  unfold stashReadEffect
  rw [hp, ho, hv, hd]
  exact if_neg (fun empty => empty stored)

end StashRead

/-! ### Compose (R294, R307) -/

/-- A compose record's elements: at each place, the value of the two halves that stand there (R294). -/
def State.composed (s : State) (v out : Desc) (low : Option Desc) (spots : List Spot) : List (List Nat × Nat × Nat) :=
  spots.map (fun p => (p.outer, p.idx, (out.fmt.convert out.sat (compose v.fmt (v.fmt.decode p.code)
    ((low.map (fun d => lowOf (s.code d (p.idx :: p.outer)))).getD 0))).code))

/-- A compose record whose tiles pass their checks only counts beside the values that it writes (R294, R307). -/
theorem composeEffect_counts {w : WeightSet} {nv no : Nat} {v out : Desc}
    (hw : x.plan.weightSets[x.r.param0.toNat % 256]? = some w) (hv : x.rd x.r.desc1 = some (nv, v))
    (ho : x.wr x.r.desc2 = some (no, out)) (noPlane : x.plan.planeOf no = none)
    (clean : s.slicesClean x (x.r.param0.toNat % 256)) :
    OnlyCounts (s.updatePlane out (s.composed v out ((x.rd (lowNum w)).map Prod.snd)
      (((s.sliceSpots w v x.r.param1.toNat x.r.param2.toNat).1).flatMap SliceSpots.spots))) (composeEffect x q s) := by
  have good := clean w (nv, v) hw hv
  dsimp only [] at good
  unfold composeEffect State.composed
  rw [hw, hv, ho]
  dsimp only []
  rw [good, noPlane, List.map_map]
  cases x.rd (lowNum w) <;> exact OnlyCounts.charge.trans OnlyCounts.clearStatus

/-- A weight without a low half, or that is no finite number, is its high half (R294). -/
theorem compose_high {f : Fmt} {hi : Val} {lo : Int} (h : lo = 0 ∨ ∀ sgn m e, hi ≠ .fin sgn m e) :
    compose f hi lo = hi := by
  unfold compose
  cases hi with
  | nan => rfl
  | inf sgn => rfl
  | fin sgn m e => exact if_pos (h.resolve_right fun no => no sgn m e rfl)

end Sys2Proof.Machine
end

section
/-! SUPPORT. Copies, optimizers and predictors run to their end, and the obligation (O57). -/

namespace Sys2Proof.Machine

variable {s : State} {x : Ctx} {q : QRec}

/-- A record that stands ready with sound operands carries out its effect, and runs to its end where its work keeps the
frame of a record. -/
theorem State.runRecord_clean {c : Core} {r : Nat} {p : Plan} {rc : Rec} {reads : Reads} {want : Rec → Bool}
    {effect : Ctx → QRec → State → State} {clean : Prop} (h : RecordReady s c r p rc q)
    (sound : OperandsSound s c p rc q reads) (w : want rc = true)
    (frame : clean → OnlyRecord (s.noteReads p (s.spansOf c p rc q reads))
      (effect (s.ctx p c rc q) q (s.noteReads p (s.spansOf c p rc q reads)))) :
    let u := (effect (s.ctx p c rc q) q (s.noteReads p (s.spansOf c p rc q reads))).finish c r
    s.runRecord c r want reads effect = .next u ∧ (clean → Ran s u c r q) :=
  ⟨State.runRecord_ready h sound w, fun k => (OnlyRecord.noteReads.trans (frame k)).ran h.inFlight⟩

/-! ### Reference counts (R277) -/

/-- Some token that takes part has a value greater than zero at a neuron (R277). -/
def State.someActive (s : State) (d : Desc) (t' n : Nat) : Bool :=
  (List.range t').any (fun t => Val.zero.lt (s.val d none [n, t]))

theorem State.activeTokens_pos {d : Desc} {t' n : Nat} : decide (0 < s.activeTokens d t' n) = s.someActive d t' n := by
  unfold State.activeTokens State.someActive
  rw [Bool.eq_iff_iff]
  simp [List.length_pos_iff_exists_mem]

/-- The counts of the neurons left out: those active in the reference, those of them that the estimate finds, and those that
the estimate alone finds (R277). -/
def State.refCounts (s : State) (x : Ctx) (ref z : Desc) (t' : Nat) (out : List Nat) : State :=
  ((s.countQuiet 0x302C x.r.pred 0 (out.filter (s.someActive ref t')).length).countQuiet 0x302D x.r.pred 0
    (out.filter (fun n => s.someActive ref t' n && s.someActive z t' n)).length).countQuiet 0x302E x.r.pred 0
      (out.filter (fun n => !s.someActive ref t' n && s.someActive z t' n)).length

theorem OnlyCounts.refCounts {ref z : Desc} {t' : Nat} {out : List Nat} : OnlyCounts s (s.refCounts x ref z t' out) :=
  (OnlyCounts.countQuiet.trans OnlyCounts.countQuiet).trans OnlyCounts.countQuiet

section Reference
variable {e : PredEntry} {nr nl nz t' : Nat} {ref list z : Desc} {listed : List Nat} (he : x.entry = some e)
  (hr : x.rd x.r.desc0 = some (nr, ref)) (hl : x.rd x.r.desc1 = some (nl, list)) (hz : x.rd x.r.desc2 = some (nz, z))
  (hlist : s.activeList list e.n = some listed) (htok : s.predTokens x (ref.size 1) = some t') (counts : x.counts = true)
include he hr hl hz hlist htok counts

/-- A reference count adds to its three counts, and notes its record (R277). -/
theorem refEffect_eq :
    let u := s.refCounts x ref z t' ((List.range e.n).filter (fun n => !listed.contains n))
    refEffect x q s = { u with step := { u.step with refRecs := setKey x.r.pred x.r.recno u.step.refRecs } } := by
  unfold refEffect State.refCounts
  rw [he, hr, hl, hz]
  dsimp only []
  rw [hlist, htok]
  simp only [State.activeTokens_pos, State.countPredQuiet, counts, if_true]

theorem refEffect_counted :
    let out := (List.range e.n).filter (fun n => !listed.contains n)
    let t := refEffect x q s
    t.counted (0x302C, x.r.pred, 0) = s.counted (0x302C, x.r.pred, 0) + (out.filter (s.someActive ref t')).length ∧
    t.counted (0x302D, x.r.pred, 0) = s.counted (0x302D, x.r.pred, 0) +
      (out.filter (fun n => s.someActive ref t' n && s.someActive z t' n)).length ∧
    t.counted (0x302E, x.r.pred, 0) = s.counted (0x302E, x.r.pred, 0) +
      (out.filter (fun n => !s.someActive ref t' n && s.someActive z t' n)).length := by
  have added (k : CountKey) : (refEffect x q s).counted k =
      (s.refCounts x ref z t' ((List.range e.n).filter (fun n => !listed.contains n))).counted k := by
    rw [refEffect_eq he hr hl hz hlist htok counts]
    rfl
  simp only [added, State.refCounts, State.countQuiet_counted, Prod.mk.injEq, Nat.reduceEqDiff, and_true, if_true,
    if_false, Nat.add_zero]

theorem refEffect_notes : lookupKey x.r.pred (refEffect x q s).step.refRecs = some x.r.recno := by
  rw [refEffect_eq he hr hl hz hlist htok counts]
  exact lookupKey_setKey_self _ _ _

theorem refEffect_mem : (refEffect x q s).mem = s.mem := by
  rw [refEffect_eq he hr hl hz hlist htok counts]
  exact OnlyCounts.refCounts.mem

end Reference

end Sys2Proof.Machine

open Sys2Proof Sys2Proof.Machine

/-- Settles O57: each record by what its effect leaves, and the lists of the predictor by the order that sorting gives. -/
theorem copiesOptimizersAndPredictorsRun : Obligations.CopiesOptimizersAndPredictorsRun := by
  refine ⟨?_, ?_, ?_, ?_, ?_, ?_, ?_, ?_, ?_, ?_, ?_, ?_⟩
  · intro s c r p rc q h x noted alg slices y hy
    simp only [List.mem_cons, List.not_mem_nil, or_false] at hy
    obtain rfl | rfl | rfl | rfl | rfl | rfl | rfl | rfl | rfl | rfl | rfl | rfl := hy <;> intro e f o sound
    · exact State.runRecord_clean h sound (by simp [wantStream, e, f]) fun _ => OnlyRecord.copyEffect
    · exact State.runRecord_clean h sound (by simp [wantStream, e, f]) fun _ => OnlyRecord.transposeEffect
    · exact State.runRecord_clean h sound (by simp [wantStream, e, f]) fun _ => OnlyRecord.stashWriteEffect
    · exact State.runRecord_clean h sound (by simp [wantStream, e, f]) OnlyRecord.stashReadEffect
    · exact State.runRecord_clean h sound (by simpa [wantOpt, wantVu, e, f, alg] using o) OnlyRecord.optEffect
    · exact State.runRecord_clean h sound (by simpa [wantOpt, wantVu, e, f, alg] using o) OnlyRecord.optEffect
    · exact State.runRecord_clean h sound (by simpa [wantOpt, wantVu, e, f, alg] using o) OnlyRecord.optEffect
    · exact State.runRecord_clean h sound (by simp [wantVu, e, f]) OnlyRecord.composeEffect
    · exact State.runRecord_clean h sound (by simp [wantPred, e, f]) OnlyRecord.predictEffect
    · exact State.runRecord_clean h sound (by simp [wantPred, e, f]) OnlyRecord.checkEffect
    · exact State.runRecord_clean h sound (by simp [wantPred, e, f]) OnlyRecord.mergeEffect
    · exact State.runRecord_clean h sound (by simp [wantPred, e, f]) OnlyRecord.refEffect
  · intro h w g m v
    exact ⟨rfl, rfl, rfl⟩
  · exact fun theta a score => nameNeurons_spec
  · exact fun s x q a b d e ha hb hd he empty => stashReadEffect_empty ha hb hd he empty
  · intro s x q ns nt src tgt hs ht
    exact ⟨fun conv => ⟨_, OnlyCounts.charge, copyEffect_converts hs ht conv⟩,
      fun moves plain noPlane => copyEffect_moves hs ht moves plain noPlane,
      ⟨_, OnlyCounts.charge, transposeEffect_eq hs ht⟩⟩
  · intro s x q ns np no nd src prim ovf dir a hs hp ho hd ha kind bit b row
    have codes : packCodes prim.fmt.bits (s.stashCodes x src prim a.count).1 = b :=
      congrArg (packCodes prim.fmt.bits) State.stashCodes_eq
    refine ⟨fun stored => ?_, fun regen => ?_⟩
    · obtain ⟨pad, cnt, short, whole, effect⟩ := stashWriteEffect_stored (s := s) hs hp ho hd ha stored
      rw [codes] at whole effect
      exact ⟨pad, _, short, whole, OnlyCounts.charge (x := x) (n := np) (c := cnt), effect⟩
    · rw [stashWriteEffect_regen hs hp ho hd ha regen]
      exact OnlyCounts.count
  · intro s x q np no nv nd prim out ovf dir hp ho hv hd back row b a stored
    exact stashReadEffect_stored hp ho hv hd rfl stored
  · intro s x q w nv no v out hw hv ho noPlane clean low spots
    have lows : low = (x.rd (lowNum w)).map Prod.snd := by
      unfold low lowNum
      cases w.low <;> rfl
    rw [lows]
    exact composeEffect_counts hw hv ho noPlane clean
  · exact fun f hi lo h => compose_high h
  · intro s x q e nz nl t' z list listed inv he hz hl hlist htok active miss
    have effect := checkEffect_eq (q := q) he hz hl hlist htok inv.objects
    refine ⟨fun y => State.mem_misses, State.misses_pairwise, fun n2 n3 n4 d2 d3 d4 gleans h2 h3 h4 => ?_,
      fun halts found => ?_, fun noGlean noHalt => ?_⟩
    · have apart : ∀ i ∈ s.gleaned z t' e.n listed e.g, i ∉ listed := fun i => State.gleaned_out
      exact ⟨s.gleanCounts x miss.length (s.gleaned z t' e.n listed e.g).length, s.gleaned z t' e.n listed e.g,
        mergedList listed (s.gleaned z t' e.n listed e.g), OnlyCounts.gleanCounts, State.gleaned_pairwise, sortBy_perm,
        mergedList_pairwise (State.activeList_pairwise hlist) State.gleaned_pairwise apart, sortBy_perm,
        effect.trans ((if_pos gleans).trans (State.writeGlean_eq h2 h3 h4))⟩
    · have notGleaned : s.policy x.r.pred ≠ 1 := fun one => absurd (one.symm.trans halts) (by decide)
      have halted : (s.policy x.r.pred = 2 && !miss.isEmpty) = true := by simpa [State.policy, halts] using found
      exact ⟨s.countPred x 1 miss.length, OnlyCounts.countPred, effect.trans ((if_neg notGleaned).trans (if_pos halted))⟩
    · have unhalted : ¬ (s.policy x.r.pred = 2 && !miss.isEmpty) = true := by
        simp only [Bool.and_eq_true, decide_eq_true_eq, Bool.not_eq_true', List.isEmpty_eq_false_iff]
        exact fun both => noHalt.elim (fun other => other both.1) both.2
      have counted : checkEffect x q s = s.countPred x 1 miss.length :=
        effect.trans ((if_neg noGlean).trans (if_neg unhalted))
      rw [counted]
      exact OnlyCounts.countPred
  · intro s x q ns ni no src ix out idx hs hi ho hidx
    unfold mergeEffect
    rw [hs, hi, ho]
    dsimp only []
    rw [hidx]
  · intro s x q e nr nl nz t' ref list z listed he hr hl hz hlist htok counts above out was t
    obtain ⟨active, found, alone⟩ := refEffect_counted (q := q) he hr hl hz hlist htok counts
    exact ⟨active, found, alone, refEffect_notes he hr hl hz hlist htok counts, refEffect_mem he hr hl hz hlist htok counts⟩
end

section
/-! SUPPORT. Mask records: a sync with its flag clear, and the outcomes of a commit (O58). -/

namespace Sys2Proof.Machine

variable {s t : State} {c : Core} {r n : Nat} {p : Plan} {rc : Rec} {q : QRec} {x : Ctx} {d : Desc} {a b : Reads}

/-! ### Sync with the flag clear (R249) -/

/-- What a record takes is decided by its spans, whatever chain it stands in. -/
theorem State.spansOf_congr (spans : a.spans (s.ctx p c rc q) s = b.spans (s.ctx p c rc q) s) :
    s.spansOf c p rc q a = s.spansOf c p rc q b := by
  have marked : (s.ctx p c rc q).marked a s = (s.ctx p c rc q).marked b s := by
    unfold Ctx.marked
    rw [spans]
  unfold State.spansOf Ctx.takes
  rw [marked]

theorem OperandsSound.congr (sound : OperandsSound s c p rc q a)
    (spans : b.spans (s.ctx p c rc q) s = a.spans (s.ctx p c rc q) s) (named : b.named rc = a.named rc) :
    OperandsSound s c p rc q b where
  poison := State.spansOf_congr spans ▸ sound.poison
  weights := sound.weights
  versions := named ▸ sound.versions
  tiles := State.spansOf_congr spans ▸ sound.tiles

/-- A sync with its flag clear names nothing and reads nothing (R249). -/
theorem State.syncReads_clear (clear : s.syncFlags.contains rc.matrix = false) :
    s.syncReads.named rc = [] ∧ s.syncReads.spans (s.ctx p c rc q) s = [] := by
  have flag : s.syncFlags.contains (s.ctx p c rc q).r.matrix = false := clear
  unfold State.syncReads
  simp only [clear, flag]
  exact ⟨rfl, rfl⟩

theorem syncEffect_clear (clear : s.syncFlags.contains x.r.matrix = false) : syncEffect x q s = s :=
  if_pos (by rw [clear]; rfl)

/-- A sync with its flag clear finishes and does nothing else (R249). -/
theorem exec_sync_clear (h : RecordReady s c r p rc q) (e : rc.engine = 6) (f : rc.func = 5)
    (clear : s.syncFlags.contains rc.matrix = false) : exec (.sync c r) s = .next (s.finish c r) := by
  obtain ⟨named, spans⟩ := State.syncReads_clear (p := p) (c := c) (q := q) clear
  have nothing : s.spansOf c p rc q s.syncReads = [] := (State.spansOf_congr spans).trans State.spansOf_nothing
  have sound : OperandsSound s c p rc q s.syncReads :=
    (OperandsSound.of_nothing (by simp [e]) (by simp [Rec.sliceRange, e])).congr spans named
  have run := State.runRecord_ready (want := wantMask 5) (effect := syncEffect) h sound (by simp [wantMask, e, f])
  rw [nothing, State.noteReads_nil, syncEffect_clear clear] at run
  exact run

/-! ### Commit (R251) -/

/-- The words of a mask digest: of the digest over a matrix's run digests (R251). -/
def State.commitWords (s : State) (d : Desc) (runs : Nat) : List Nat :=
  (List.range 8).map (fun i =>
    fieldAt (sha3 ((List.range runs).flatMap (fun j => s.bytes (d.bitAddr [0, j] / 8) 32))) (4 * i) 4)

theorem SameReads.commitWords (h : SameReads s t) (d : Desc) (runs : Nat) : t.commitWords d runs = s.commitWords d runs := by
  simp only [State.commitWords, h.bytes]

/-- What a commit's record contributes to its round, and the result if it stands (R251). -/
def State.commitRound (t : State) (x : Ctx) (words : List Nat) : State × Option (List Nat × List Nat) :=
  t.contribute (maskRound (x.r.param2.toNat % 65536) x.r.matrix x.step) words

section Commit
variable (hd : x.rd x.r.desc0 = some (n, d))
include hd

/-- A commit whose round is not yet over only contributes. -/
theorem maskCommitEffect_waits {u : State} (round : t.commitRound x (t.commitWords d x.r.param0.toNat) = (u, none)) :
    maskCommitEffect c r x q t = u := by
  unfold State.commitRound State.commitWords at round
  unfold maskCommitEffect
  rw [hd]
  dsimp only []
  rw [round]

/-- A commit whose round is over takes its result. -/
theorem maskCommitEffect_ends {u : State} {mins maxs : List Nat}
    (round : t.commitRound x (t.commitWords d x.r.param0.toNat) = (u, some (mins, maxs))) :
    maskCommitEffect c r x q t = u.maskAgreed c r x mins maxs := by
  unfold State.commitRound State.commitWords at round
  unfold maskCommitEffect
  rw [hd]
  dsimp only []
  rw [round]

end Commit

/-- A round that agrees marks the matrix pending with its digest, and finishes the record (R251). -/
theorem State.maskAgreed_same {w : List Nat} : s.maskAgreed c r x w w = ({ s with step :=
    { s.step with masks := s.step.masks ++ [(x.r.matrix, leNat (w.flatMap (toLe 4)))] } }).finish c r :=
  if_pos rfl

theorem State.maskAgreed_differ {mins maxs : List Nat} (differ : mins ≠ maxs) :
    s.maskAgreed c r x mins maxs = s.abortWith 0x4503 x.island (maskDetail x) :=
  if_neg differ

/-- A ready commit record runs its effect, on the words that stood when it began (R251). -/
theorem exec_maskCommitRecord (h : RecordReady s c r p rc q) (e : rc.engine = 6) (f : rc.func = 4)
    (sound : OperandsSound s c p rc q commitReads) : exec (.maskCommitRecord c r) s =
      .next (maskCommitEffect c r (s.ctx p c rc q) q (s.noteReads p (s.spansOf c p rc q commitReads))) :=
  State.beginRecord_ready (want := wantMask 4) h sound (by simp [wantMask, e, f])

end Sys2Proof.Machine
end

section
/-! SUPPORT. The choice of a tile: how many entries it prunes and grows, and where (O58). -/

namespace Sys2Proof.Machine

variable {lim d f : Nat} {ps rows cols grown : List Nat} {stored cand : List (Nat × Nat)}

/-- Growing takes some of the candidates in their order, and stops at `d` (R243). -/
theorem growLoop_takes : ∃ l, growLoop lim d ps rows cols grown = grown ++ l ∧ l.Sublist ps ∧
    (grown.length ≤ d → (grown ++ l).length ≤ d) := by
  induction ps generalizing rows cols grown with
  | nil => exact ⟨[], (List.append_nil _).symm, .slnil, by simp⟩
  | cons p ps ih =>
    unfold growLoop
    split
    next full => exact ⟨[], (List.append_nil _).symm, List.nil_sublist _, by simp⟩
    next room =>
      split
      next fits =>
        obtain ⟨l, eq, sub, bound⟩ := ih (rows := bump rows (p / 128)) (cols := bump cols (p % 128))
          (grown := grown ++ [p])
        refine ⟨p :: l, by simp [eq], sub.cons_cons p, fun below => ?_⟩
        have more := bound (by rw [List.length_append, List.length_singleton]; omega)
        rwa [List.append_assoc] at more
      next no =>
        obtain ⟨l, eq, sub, bound⟩ := ih (rows := rows) (cols := cols) (grown := grown)
        exact ⟨l, eq, sub.cons p, bound⟩

theorem growLoop_sublist : (growLoop lim d ps rows cols []).Sublist ps := by
  obtain ⟨l, eq, sub, -⟩ := growLoop_takes (lim := lim) (d := d) (ps := ps) (rows := rows) (cols := cols) (grown := [])
  rwa [eq]

theorem growLoop_length : (growLoop lim d ps rows cols []).length ≤ d := by
  obtain ⟨l, eq, -, bound⟩ := growLoop_takes (lim := lim) (d := d) (ps := ps) (rows := rows) (cols := cols) (grown := [])
  rw [eq]
  exact bound (Nat.zero_le d)

/-- A choice prunes as many stored entries as its fraction says (R242, R243). -/
theorem selectTile_prunes (hf : f ≤ 65536) : (selectTile lim f stored cand).1.length = stored.length * f / 65536 ∧
    ∀ g ∈ (selectTile lim f stored cand).1, g ∈ stored.map Prod.snd := by
  unfold selectTile
  dsimp only []
  have bound : stored.length * f / 65536 ≤ stored.length :=
    Nat.div_le_of_le_mul (by rw [Nat.mul_comm 65536]; exact Nat.mul_le_mul_left _ hf)
  refine ⟨?_, fun g hg => ?_⟩
  · rw [List.length_map, List.length_take, sortBy_perm.length_eq, Nat.min_eq_left bound]
  · obtain ⟨e, he, rfl⟩ := List.mem_map.mp hg
    exact List.mem_map_of_mem (sortBy_perm.mem_iff.mp (List.mem_of_mem_take he))

/-- A choice grows no more entries than it prunes, at distinct candidates (R243). -/
theorem selectTile_grows (distinct : (cand.map Prod.snd).Nodup) :
    (selectTile lim f stored cand).2.length ≤ stored.length * f / 65536 ∧ (selectTile lim f stored cand).2.Nodup ∧
    ∀ g ∈ (selectTile lim f stored cand).2, g ∈ cand.map Prod.snd := by
  have same : ((sortBy keyAbove cand).map Prod.snd).Perm (cand.map Prod.snd) := sortBy_perm.map _
  exact ⟨growLoop_length, (same.nodup_iff.mpr distinct).sublist growLoop_sublist,
    fun g hg => same.mem_iff.mp (growLoop_sublist.subset hg)⟩

end Sys2Proof.Machine
end

section
/-! SUPPORT. Score records: the rows they write, and the candidates of a row (O58). -/

namespace Sys2Proof.Machine

/-! ### Numbered lists -/

/-- Numbering what is listed by number numbers it by that number. -/
theorem zipIdx_map_range {α : Type} (g : Nat → α) (n : Nat) :
    ((List.range n).map g).zipIdx = (List.range n).map (fun i => (g i, i)) :=
  List.ext_getElem (by simp) (by simp)

/-- Numbering what is made of a numbered list gives the same numbers. -/
theorem zipIdx_map_zipIdx {α β : Type} (g : α × Nat → β) (l : List α) :
    (l.zipIdx.map g).zipIdx = l.zipIdx.map (fun y => (g y, y.2)) :=
  List.ext_getElem (by simp) (by simp)

/-- What is beyond the first `n` of an ordered list stands behind each of them, and there are `n`. -/
theorem take_before_rest {α : Type} {R : α → α → Prop} {l : List α} {n : Nat} {a : α} (h : l.Pairwise R)
    (ha : a ∈ l) (out : a ∉ l.take n) : (l.take n).length = n ∧ ∀ p ∈ l.take n, R p a := by
  have split := List.take_append_drop n l
  have rest : a ∈ l.drop n := by
    rw [← split] at ha
    exact (List.mem_append.mp ha).resolve_left out
  have longer : 0 < (l.drop n).length := List.length_pos_of_mem rest
  rw [← split] at h
  obtain ⟨-, -, before⟩ := List.pairwise_append.mp h
  refine ⟨?_, fun p hp => before p hp a rest⟩
  rw [List.length_drop] at longer
  rw [List.length_take]
  omega

/-! ### The candidates of a row (R239, R240) -/

section Row
variable (s : State) (x : Ctx) (grad : Option Desc) (tid : Word) (kt slot i r : Nat) (row : List (Nat × Nat))

/-- The free columns of a row that have a key, each with it (R239). -/
def State.rowKeys : List (Nat × Nat) :=
  (((List.range 128).filter (fun c => (lookupKey c row).isNone)).map (fun c =>
    (s.growKey x grad tid kt slot i r c, c))).filterMap (fun p => p.1.map (fun k => (k, p.2)))

/-- The candidates that a row lists: those with the largest keys (R240). -/
def State.rowBest : List (Nat × Nat) := (sortBy keyAbove (s.rowKeys x grad tid kt slot i r row)).take x.r.cands

theorem State.scoreRow_fst : (s.scoreRow x grad tid kt slot i r row).1 =
    (s.rowBest x grad tid kt slot i r row).flatMap (fun p => [(p.1 : Int), (p.2 : Int)]) ++
      (List.replicate (x.r.cands - (s.rowBest x grad tid kt slot i r row).length) [0, -1]).flatten := rfl

variable {s x grad tid kt slot i r row}

theorem State.mem_rowKeys {p : Nat × Nat} : p ∈ s.rowKeys x grad tid kt slot i r row ↔
    p.2 < 128 ∧ lookupKey p.2 row = none ∧ s.growKey x grad tid kt slot i r p.2 = some p.1 := by
  unfold State.rowKeys
  simp only [List.filterMap_map, List.mem_filterMap, List.mem_filter, List.mem_range, Option.isNone_iff_eq_none,
    Function.comp_apply, Option.map_eq_some_iff]
  constructor
  · rintro ⟨c, ⟨below, free⟩, k, key, rfl⟩
    exact ⟨below, free, key⟩
  · rintro ⟨below, free, key⟩
    exact ⟨p.2, ⟨below, free⟩, p.1, key, rfl⟩

/-- The candidates come in ascending columns before they are sorted. -/
theorem State.rowKeys_pairwise : (s.rowKeys x grad tid kt slot i r row).Pairwise (fun u v => u.2 < v.2) := by
  unfold State.rowKeys
  rw [List.filterMap_map]
  refine List.Pairwise.filterMap _ (fun c c' (less : c < c') u hu v hv => ?_) (List.pairwise_lt_range.filter _)
  obtain ⟨k, -, rfl⟩ := Option.map_eq_some_iff.mp hu
  obtain ⟨k', -, rfl⟩ := Option.map_eq_some_iff.mp hv
  exact less

theorem keyAbove_iff {u v : Nat × Nat} : keyAbove u v = true ↔ missAbove u v := by
  unfold keyAbove missAbove
  simp

/-- Sorted, a larger key comes first, then the lower column. -/
theorem State.rowKeys_sorted : (sortBy keyAbove (s.rowKeys x grad tid kt slot i r row)).Pairwise missAbove := by
  refine sortBy_pairwise (fun u v w => ?_) (State.rowKeys_pairwise.imp fun {b a} (less : b.2 < a.2) =>
    ⟨keyAbove_iff.mp, fun no => ?_⟩)
  · unfold missAbove
    omega
  · rw [← Bool.not_eq_true, keyAbove_iff] at no
    unfold missAbove at no ⊢
    omega

theorem State.rowBest_pairwise : (s.rowBest x grad tid kt slot i r row).Pairwise missAbove :=
  State.rowKeys_sorted.sublist (List.take_sublist _ _)

theorem State.mem_rowBest {p : Nat × Nat} (h : p ∈ s.rowBest x grad tid kt slot i r row) :
    p ∈ s.rowKeys x grad tid kt slot i r row :=
  sortBy_perm.mem_iff.mp (List.mem_of_mem_take h)

/-- A candidate that a row does not list stands behind all it lists, which are then as many as there may be (R240). -/
theorem State.rowBest_before {p : Nat × Nat} (h : p ∈ s.rowKeys x grad tid kt slot i r row)
    (out : p ∉ s.rowBest x grad tid kt slot i r row) : (s.rowBest x grad tid kt slot i r row).length = x.r.cands ∧
      ∀ b ∈ s.rowBest x grad tid kt slot i r row, missAbove b p :=
  take_before_rest State.rowKeys_sorted (sortBy_perm.mem_iff.mpr h) out

end Row

/-! ### The rows written (R240) -/

section Written
variable {s : State} {x : Ctx} {q : QRec}

/-- The elements a score record writes of a tile: the candidate lists of its rows (R240). -/
def State.scoreElems (s : State) (x : Ctx) (grad : Option Desc) (tid : Word) (kt : Nat) (y : (Nat × TileData) × Nat) :
    List Nat :=
  (List.range 128).flatMap (fun r =>
    (s.scoreRow x grad tid kt y.1.1 y.2 r ((lookupKey r y.1.2.lines).getD [])).1.map (bitsOfInt 32))

theorem State.scoreElems_eq (grad : Option Desc) (tid : Word) (kt : Nat) (y : (Nat × TileData) × Nat) :
    ((y.1.2.rows.zipIdx.map (fun z => s.scoreRow x grad tid kt y.1.1 y.2 z.2 z.1)).flatMap Prod.fst).map (bitsOfInt 32) =
      s.scoreElems x grad tid kt y := by
  unfold TileData.rows State.scoreElems
  rw [zipIdx_map_range, List.map_map, List.flatMap_map, List.map_flatMap]
  rfl

/-- A score record whose tiles pass their checks only counts beside the lists that it writes (R239, R240). -/
theorem scoreEffect_counts {ns no kt : Nat} {st out : Desc} {ts : List (Nat × TileData)}
    (hs : x.rd x.r.desc1 = some (ns, st)) (ho : x.wr x.r.desc2 = some (no, out))
    (tiles : s.recTiles x st [.brt] = (kt, ⟨ts, none⟩)) :
    let grad := if x.r.param2.toNat.testBit 8 then none else (x.rd x.r.desc0).map Prod.snd
    OnlyCounts (s.writeRaw x no out (ts.zipIdx.map (fun y => ([y.2], s.scoreElems x grad (st.tid 2) kt y))))
      (scoreEffect x q s) := by
  unfold scoreEffect
  rw [hs, ho]
  dsimp only []
  rw [tiles]
  dsimp only []
  rw [zipIdx_map_zipIdx, List.map_map]
  simp only [Function.comp_def, State.scoreElems_eq]
  exact OnlyCounts.count

end Written

end Sys2Proof.Machine
end

section
/-! SUPPORT. Rebuild: the entries that pruning and growing leave of a tile's rows (O58). -/

namespace Sys2Proof.Machine

variable {mk : Nat → MaskEntry} {p : Int} {ps gs : List Int} {rows cut grown : List (List MaskEntry)}
  {row : List MaskEntry} {e : MaskEntry} {i r : Nat}

/-- The columns of a row lie in its tile. -/
def RowBounded (row : List MaskEntry) : Prop := ∀ e ∈ row, e.1 < 128

/-- The columns of a row rise. -/
def RowRises (row : List MaskEntry) : Prop := row.Pairwise (fun u v => u.1 < v.1)

/-- A row of a tile in which one row was replaced. -/
theorem getD_set_row (h : i < rows.length) : (rows.set i row).getD r [] = if r = i then row else rows.getD r [] := by
  simp only [List.getD_eq_getElem?_getD, List.getElem?_set, eq_comm (a := i)]
  split
  · rfl
  · rfl

/-- A property of every row of a tile holds of a row at any place, where the empty row has it. -/
theorem getD_row {P : List MaskEntry → Prop} (all : ∀ row ∈ rows, P row) (empty : P []) : P (rows.getD r []) := by
  by_cases h : r < rows.length
  · rw [List.getD_eq_getElem _ _ h]
    exact all _ (List.getElem_mem h)
  · rwa [List.getD_eq_default _ _ (Nat.le_of_not_lt h)]

/-! ### Pruning (R244) -/

/-- The tile with the entry at a position removed. -/
def removeAt (p : Nat) (rows : List (List MaskEntry)) : List (List MaskEntry) :=
  rows.set (p / 128) ((rows.getD (p / 128) []).filter (fun e => e.1 ≠ p % 128))

/-- Pruning removes a position of the tile, and then the others. -/
theorem pruneAll_cons (h : pruneAll (p :: ps) rows = some cut) :
    0 ≤ p ∧ p < 16384 ∧ pruneAll ps (removeAt p.toNat rows) = some cut := by
  unfold pruneAll at h
  split at h
  next => exact absurd h (by simp)
  next inTile =>
    dsimp only [] at h
    split at h
    next =>
      simp only [Bool.or_eq_true, decide_eq_true_eq, not_or, not_lt, not_le] at inTile
      exact ⟨inTile.1, inTile.2, h⟩
    next => exact absurd h (by simp)

theorem removeAt_getD (place : i < 128 * rows.length) : (removeAt i rows).getD r [] =
    (rows.getD r []).filter (fun e => decide ¬ (r = i / 128 ∧ e.1 = i % 128)) := by
  unfold removeAt
  rw [getD_set_row (Nat.div_lt_of_lt_mul place)]
  split
  next same => simp [same]
  next other => simp [other]

/-- Pruning leaves the entries of each row at other positions than those pruned, in their order (R244). -/
theorem pruneAll_rows (size : rows.length = 128) (bounded : ∀ row ∈ rows, RowBounded row)
    (h : pruneAll ps rows = some cut) : cut.length = 128 ∧
      ∀ r, cut.getD r [] = (rows.getD r []).filter (fun e => decide (((128 * r + e.1 : Nat) : Int) ∉ ps)) := by
  induction ps generalizing rows with
  | nil =>
    obtain rfl := Option.some.inj h
    exact ⟨size, fun r => by simp⟩
  | cons p ps ih =>
    obtain ⟨low, high, rest⟩ := pruneAll_cons h
    have removed (r : Nat) := removeAt_getD (rows := rows) (r := r) (i := p.toNat) (by omega)
    have inTile (r : Nat) : RowBounded (rows.getD r []) := getD_row bounded (by simp [RowBounded])
    have kept : ∀ row ∈ removeAt p.toNat rows, RowBounded row := by
      intro row hrow
      obtain ⟨r, hr, rfl⟩ := List.getElem_of_mem hrow
      rw [← List.getD_eq_getElem _ [] hr, removed]
      exact fun e he => inTile r e (List.mem_of_mem_filter he)
    obtain ⟨length, others⟩ := ih (by simpa [removeAt] using size) kept rest
    refine ⟨length, fun r => ?_⟩
    rw [others, removed, List.filter_filter]
    refine List.filter_congr fun e he => ?_
    have := inTile r e he
    have same : (r = p.toNat / 128 ∧ e.1 = p.toNat % 128) ↔ ((128 * r + e.1 : Nat) : Int) = p := by omega
    simp only [same, List.mem_cons, not_or, Bool.decide_and, Bool.and_comm]

/-! ### Growing (R244) -/

/-- The tile with an entry inserted at a position. -/
def insertAt (mk : Nat → MaskEntry) (p : Nat) (rows : List (List MaskEntry)) : List (List MaskEntry) :=
  rows.set (p / 128) (insertBy (fun a b => decide (a.1 < b.1)) (mk p) (rows.getD (p / 128) []))

/-- Growing inserts at a position of the tile that stores nothing, and then at the others. -/
theorem growAll_cons (h : growAll mk (p :: ps) rows = some grown) : 0 ≤ p ∧ p < 16384 ∧
    (∀ e ∈ rows.getD (p.toNat / 128) [], e.1 ≠ p.toNat % 128) ∧
      growAll mk ps (insertAt mk p.toNat rows) = some grown := by
  unfold growAll at h
  split at h
  next => exact absurd h (by simp)
  next inTile =>
    dsimp only [] at h
    split at h
    next => exact absurd h (by simp)
    next free =>
      simp only [Bool.or_eq_true, decide_eq_true_eq, not_or, not_lt, not_le] at inTile
      exact ⟨inTile.1, inTile.2, fun e he same => free (List.any_eq_true.mpr ⟨e, he, decide_eq_true same⟩), h⟩

theorem insertAt_getD (place : i < 128 * rows.length) : (insertAt mk i rows).getD r [] =
    if r = i / 128 then insertBy (fun a b => decide (a.1 < b.1)) (mk i) (rows.getD r []) else rows.getD r [] := by
  unfold insertAt
  rw [getD_set_row (Nat.div_lt_of_lt_mul place)]
  split
  next same => rw [same]
  next => rfl

/-- An entry inserted at a column that is free keeps a row's order. -/
theorem insertBy_rises (rises : RowRises row) (free : ∀ b ∈ row, b.1 ≠ e.1) :
    RowRises (insertBy (fun a b => decide (a.1 < b.1)) e row) :=
  insertBy_pairwise (fun _ _ _ => Nat.lt_trans) rises fun b hb =>
    ⟨of_decide_eq_true, fun no => by have := free b hb; have := of_decide_eq_false no; omega⟩

/-- Growing adds the entries grown to their rows (R244). -/
theorem mem_growAll (size : rows.length = 128) (h : growAll mk gs rows = some grown) :
    e ∈ grown.getD r [] ↔ e ∈ rows.getD r [] ∨ ∃ g ∈ gs, g.toNat / 128 = r ∧ e = mk g.toNat := by
  induction gs generalizing rows with
  | nil =>
    obtain rfl := Option.some.inj h
    simp
  | cons g gs ih =>
    obtain ⟨low, high, -, rest⟩ := growAll_cons h
    rw [ih (by simpa [insertAt] using size) rest, insertAt_getD (by omega), List.exists_mem_cons_iff, ← or_assoc]
    refine or_congr_left ?_
    split
    next same => simp [insertBy_perm.mem_iff, same, or_comm]
    next other => simp [Ne.symm other]

/-- Growing keeps the order of each row (R244). -/
theorem growAll_rises (column : ∀ p, (mk p).1 = p % 128) (size : rows.length = 128)
    (rises : ∀ r, RowRises (rows.getD r [])) (h : growAll mk gs rows = some grown) : RowRises (grown.getD r []) := by
  induction gs generalizing rows with
  | nil =>
    obtain rfl := Option.some.inj h
    exact rises r
  | cons g gs ih =>
    obtain ⟨low, high, free, rest⟩ := growAll_cons h
    refine ih (by simpa [insertAt] using size) (fun r => ?_) rest
    rw [insertAt_getD (by omega)]
    split
    next same =>
      subst same
      exact insertBy_rises (rises _) fun b hb => by rw [column]; exact free b hb
    next => exact rises r

end Sys2Proof.Machine
end

section
/-! SUPPORT. What rebuild and sync records leave (O58). -/

namespace Sys2Proof.Machine

variable {s : State} {x : Ctx} {q : QRec}

/-! ### Rebuilds that apply a change list (R244 to R247) -/

section Tile
variable (st : Desc) (planes : List Desc) (kt slot : Nat) (t : TileData)

/-- The split of the value that grows at a position of a tile (R245). -/
def State.grownSplit (s : State) (x : Ctx) (p : Nat) : Split :=
  splitWeight st.fmt st.sat (s.grownValue x (st.tid 1)
    ((128 * (slot / max 1 kt) + p / 128) * (128 * kt) + 128 * (slot % max 1 kt) + p % 128))

/-- The entry that grows at a position of a tile: its value, and its low half in the first companion plane (R245). -/
def State.grownEntry (s : State) (x : Ctx) (p : Nat) : MaskEntry :=
  (p % 128, (s.grownSplit st kt slot x p).hi.code,
    planes.zipIdx.map (fun d => if d.2 = 0 then bitsOfInt 16 (s.grownSplit st kt slot x p).lo else 0))

variable {st planes kt slot t}

/-- A change list that is not refused, and whose rows fit their tile, gives the tile rebuilt (R244, R245). -/
theorem State.rebuildTile_some {ch : Desc} {i : Nat} {ps gs : List Int} {cut rows : List (List MaskEntry)} {b : Bytes}
    (change : s.changeOf ch i = some (ps, gs)) (pruned : pruneAll ps (s.maskRows planes slot t) = some cut)
    (grew : growAll (s.grownEntry st planes kt slot x) gs cut = some rows)
    (built : buildBrt st.fmt.bits t.hdr.tk t.hdr.tlim t.hdr.trow t.hdr.tcol
      (rows.map (fun row => row.map (fun e => (e.1, e.2.1)))) = some b) :
    s.rebuildTile x st ch planes kt i slot t = some
      { slot := slot, bytes := padTo st.slotBytes b
        comps := planes.zipIdx.map (fun d => rows.flatMap (fun row =>
          row.map (fun e => e.2.2.getD d.2 0) ++ List.replicate (t.hdr.tk - row.length) 0))
        cnt := gs.foldl (fun c p => c.add (s.grownSplit st kt slot x p.toNat).hi.cnt) Counts.none
        inexact := (gs.filter (fun p => (s.grownSplit st kt slot x p.toNat).inexact)).length } := by
  have both : (pruneAll ps (s.maskRows planes slot t)).bind (growAll (s.grownEntry st planes kt slot x) gs) = some rows := by
    rw [pruned]
    exact grew
  unfold State.grownEntry State.grownSplit at both
  unfold State.rebuildTile
  rw [change]
  dsimp only [] at both ⊢
  rw [both]
  dsimp only []
  rw [built]
  rfl

end Tile

theorem OnlyCounts.countInexact {n k : Nat} : OnlyCounts s (s.countInexact x n k) := by
  unfold State.countInexact
  split
  · rfl
  · exact OnlyCounts.count

section Apply
variable (s x)

/-- The companion planes of a rebuild that applies a change list (R244). -/
def Ctx.companions : List (Nat × Desc) := [x.r.desc0, x.r.desc1, x.r.desc3].filterMap x.wr

/-- The tiles that a rebuild writes, once its matrix's flag is set (R244). -/
def State.rebuilt (st ch : Desc) : List Rebuilt :=
  ((s.setSync x.r.matrix true).rebuildTiles x st ch (x.companions.map Prod.snd) (s.recTiles x st [.brt]).1
    (s.recTiles x st [.brt]).2.tiles.zipIdx).1

/-- A rebuild's tiles written, with their companions (R244). -/
def State.putAll (st : Desc) (planes : List (Nat × Desc)) (bs : List Rebuilt) : State :=
  bs.foldl (fun s b => s.putRebuilt st planes b) s

/-- The digest of a run: of the step, the matrix and the slots as they stand written (R247). -/
def State.runDigest (st : Desc) (bs : List Rebuilt) : Bytes :=
  sha3 (toLe 8 x.step ++ toLe 4 (st.tid 0).toNat ++ bs.flatMap (fun b => s.slot st b.slot))

/-- The digest of a run stands at its row (R247). -/
def State.putDigest (st digests : Desc) (bs : List Rebuilt) : State :=
  s.writeRun (digests.bitAddr [0, x.r.param2.toNat / 65536] / 8) (s.runDigest x st bs ++ List.replicate 32 0)

variable {s x}

/-- A rebuild that refuses nothing sets its matrix's flag, writes its tiles and the digest of its run, and counts; then it
clears the status of each plane it wrote and stamps it (R244 to R247, R291). -/
theorem applyEffect_clean {ns nc nd : Nat} {st ch digests : Desc} (clean : s.applyClean x)
    (hs : x.wr x.r.desc2 = some (ns, st)) (hc : x.rd x.r.desc4 = some (nc, ch)) (hd : x.wr x.r.desc5 = some (nd, digests)) :
    ∃ t, OnlyCounts (((s.setSync x.r.matrix true).putAll st x.companions (s.rebuilt x st ch)).putDigest x st digests
      (s.rebuilt x st ch)) t ∧ applyEffect x q s = ((ns, st) :: x.companions).foldl (fun t d =>
        (t.clearStatus x d.1 d.2 ((s.rebuilt x st ch).map (fun b => [b.slot]))).stampPlane x d.1) t := by
  obtain ⟨sound, fits, accepted, agree⟩ := clean (ns, st) (nc, ch) hs hc
  refine ⟨_, (OnlyCounts.clearStatus (x := x) (n := nd) (d := digests)
    (l := slotRows [x.r.param2.toNat / 65536])).trans
      ((OnlyCounts.charge (x := x) (n := ns) (c := (s.rebuilt x st ch).foldl (fun c b => c.add b.cnt) Counts.none)).trans
        (OnlyCounts.countInexact (x := x) (n := ns) (k := (s.rebuilt x st ch).foldl (fun a b => a + b.inexact) 0))), ?_⟩
  unfold applyEffect
  rw [hs, hc, hd]
  dsimp only [] at sound fits accepted agree ⊢
  rw [fits, agree, accepted, sound]
  simp only [Bool.not_true, Bool.false_eq_true, if_false]
  have rows : slotRows ((s.rebuilt x st ch).map Rebuilt.slot) = (s.rebuilt x st ch).map (fun b => [b.slot]) :=
    List.map_map
  rw [← rows]
  rfl

end Apply

/-! ### Rebuilds that convert (R184, R190, R248) -/

section Convert
variable {st tgt : Desc} {h : TileHdr} {t : TileData}

/-- A rebuild that converts and fails nothing writes each tile it converted, counts, and stamps its target (R248, R291). -/
theorem convertEffect_clean {ns nt kt : Nat} (clean : s.convertClean x) (hs : x.rd x.r.desc0 = some (ns, st))
    (ht : x.wr x.r.desc2 = some (nt, tgt)) (stream : s.streamKt tgt = some kt) :
    ∃ t, OnlyCounts ((s.convertTiles st tgt kt none (s.recTiles x st [.brt, .csr, .blk, .bmp]).2.tiles).1.foldl
      (fun v b => v.writeRun (tgt.slotAddr b.1) b.2) s) t ∧ convertEffect x q s = t.stampPlane x nt := by
  obtain ⟨sound, kt', stream', fits⟩ := clean (ns, st) (nt, tgt) hs ht
  obtain rfl := Option.some.inj (stream'.symm.trans stream)
  unfold convertEffect
  rw [hs, ht]
  dsimp only [] at sound fits ⊢
  rw [stream]
  dsimp only []
  rw [fits, sound]
  exact ⟨_, OnlyCounts.charge.trans OnlyCounts.clearStatus, rfl⟩

/-- The rows a conversion takes of a tile: a BLK16 tile loses its zeros, unless it goes into one (R190). -/
def convertRows (st : Desc) (h : TileHdr) (t : TileData) : List (List (Nat × Nat)) :=
  if t.hdr.tfmt = 3 && h.tfmt ≠ 3 then
    t.rows.map (fun l => l.filter (fun e => decide (e.2 % 2 ^ st.fmt.bits ≠ 0)))
  else t.rows

theorem convertRows_eq : convertRows st h t = if t.hdr.tfmt = 3 ∧ h.tfmt ≠ 3 then
    t.rows.map (fun l => l.filter (fun e => decide (e.2 % 2 ^ st.fmt.bits ≠ 0))) else t.rows := by
  unfold convertRows
  simp only [Bool.and_eq_true, decide_eq_true_eq]

/-- A tile built in the format of its target's header (R190). -/
def builtAs (tgt : Desc) (h : TileHdr) (rows : List (List (Nat × Nat))) : Option Bytes :=
  match TFmt.ofCode h.tfmt with
  | some .brt => buildBrt tgt.fmt.bits h.tk h.tlim h.trow h.tcol rows
  | some .csr => some (buildCsr tgt.fmt.bits h.trow h.tcol rows)
  | some .blk => some (buildBlk tgt.fmt.bits h.trow h.tcol rows)
  | _ => some (buildBmp tgt.fmt.bits h.trow h.tcol rows)

/-- A tile built that fits its slot stands there, and one that cannot be built or does not fit fails (R184). -/
theorem convertTile_eq : convertTile st tgt h t = match builtAs tgt h (convertRows st h t) with
    | none => .error 0x4303
    | some b => if b.length > tgt.slotBytes then .error 0x4303 else .ok (padTo tgt.slotBytes b) :=
  rfl

theorem convertTile_fits {b : Bytes} (built : builtAs tgt h (convertRows st h t) = some b)
    (fits : b.length ≤ tgt.slotBytes) :
    convertTile st tgt h t = .ok (padTo tgt.slotBytes b) := by
  rw [convertTile_eq, built]
  exact if_neg (Nat.not_lt.mpr fits)

theorem convertTile_fails {y : Option Bytes} (built : builtAs tgt h (convertRows st h t) = y)
    (fails : y = none ∨ ∃ b, y = some b ∧ tgt.slotBytes < b.length) : convertTile st tgt h t = .error 0x4303 := by
  rw [convertTile_eq, built]
  obtain rfl | ⟨b, rfl, large⟩ := fails
  · rfl
  · exact if_pos large

/-- Each format of R173 has its builder. -/
theorem builtAs_of_format {rows : List (List (Nat × Nat))} {y : Nat × Option Bytes}
    (hy : y ∈ [(1, buildBrt tgt.fmt.bits h.tk h.tlim h.trow h.tcol rows),
      (2, some (buildCsr tgt.fmt.bits h.trow h.tcol rows)), (3, some (buildBlk tgt.fmt.bits h.trow h.tcol rows)),
      (4, some (buildBmp tgt.fmt.bits h.trow h.tcol rows))])
    (format : h.tfmt = y.1) : builtAs tgt h rows = y.2 := by
  unfold builtAs
  rw [format]
  simp only [List.mem_cons, List.not_mem_nil, or_false] at hy
  obtain rfl | rfl | rfl | rfl := hy <;> rfl

end Convert

/-! ### Sync (R249) -/

/-- A sync copies every slot, clears its matrix's flag, counts, and stamps its target (R249, R291). -/
theorem syncEffect_copies {ns nt : Nat} {st tgt : Desc} (set : s.syncFlags.contains x.r.matrix = true)
    (hs : x.rd x.r.desc0 = some (ns, st)) (ht : x.wr x.r.desc2 = some (nt, tgt)) :
    ∃ t, OnlyCounts (((List.range (st.size 1)).foldl (fun v i => v.writeRun (tgt.slotAddr i) (v.slot st i)) s).setSync
      x.r.matrix false) t ∧ syncEffect x q s = t.stampPlane x nt := by
  refine ⟨_, OnlyCounts.clearStatus (x := x) (n := nt) (d := tgt) (l := slotRows (List.range (st.size 1))), ?_⟩
  unfold syncEffect
  rw [hs, ht, set]
  rfl

end Sys2Proof.Machine

open Sys2Proof Sys2Proof.Machine

/-- Settles O58: each record by what its effect leaves; a choice by the lists it takes from; a score row by the order that
sorting gives; a rebuilt tile by pruning, growing and building. -/
theorem maskRecordsRun : Obligations.MaskRecordsRun := by
  refine ⟨?_, ?_, ?_, ?_, ?_, ?_, ?_, ?_, ?_, ?_⟩
  · intro s c r p rc q h e x noted random
    refine ⟨fun y hy => ?_, exec_sync_clear h e, ?_⟩
    · simp only [List.mem_cons, List.not_mem_nil, or_false] at hy
      obtain rfl | rfl | rfl | rfl | rfl | rfl := hy <;> intro f o sound
      · exact State.runRecord_clean h sound (by simpa [wantMask, e, f, random] using o) OnlyRecord.scoreEffect
      · exact State.runRecord_clean h sound (by simpa [wantMask, e, f, random] using o) OnlyRecord.scoreEffect
      · exact State.runRecord_clean h sound (by simp [wantMask, e, f]) OnlyRecord.selectEffect
      · exact State.runRecord_clean h sound (by simpa [wantMask, e, f] using o) OnlyRecord.applyEffect
      · exact State.runRecord_clean h sound (by simpa [wantMask, e, f] using o) OnlyRecord.convertEffect
      · exact State.runRecord_clean h sound (by simp [wantMask, e, f]) fun _ => OnlyRecord.syncEffect
    · intro n d f hd sound dig words round
      have run := exec_maskCommitRecord h e f sound
      have entered : (noted commitReads).commitRound x ((noted commitReads).commitWords d rc.param0.toNat) = round :=
        congrArg ((noted commitReads).commitRound x) (SameReads.noteReads.commitWords d _)
      refine ⟨fun waits => ?_, fun w agrees => ?_, fun lo hi differs ne => ?_⟩
      · exact run.trans (congrArg Host.Outcome.next (maskCommitEffect_waits hd (entered.trans (Prod.ext rfl waits))))
      · exact run.trans (congrArg Host.Outcome.next
          ((maskCommitEffect_ends hd (entered.trans (Prod.ext rfl agrees))).trans State.maskAgreed_same))
      · exact run.trans (congrArg Host.Outcome.next
          ((maskCommitEffect_ends hd (entered.trans (Prod.ext rfl differs))).trans (State.maskAgreed_differ ne)))
  · intro lim f stored cand hf distinct d y
    obtain ⟨prunes, fromStored⟩ := selectTile_prunes (lim := lim) (stored := stored) (cand := cand) hf
    obtain ⟨grows, apart, fromCands⟩ := selectTile_grows (lim := lim) (f := f) (stored := stored) distinct
    exact ⟨prunes, grows, apart, fromCands, fromStored⟩
  · exact fun s x q ns no kt st out ts hs ho tiles => scoreEffect_counts hs ho tiles
  · intro s x grad tid kt slot i r row key above
    have keys (c : Nat) : key c = s.growKey x grad tid kt slot i r c := by
      cases grad <;> rfl
    refine ⟨s.rowBest x grad tid kt slot i r row, State.scoreRow_fst .., List.length_take_le .., State.rowBest_pairwise,
      fun b hb => ?_, fun c k below free hk out => ?_⟩
    · rw [keys]
      exact State.mem_rowKeys.mp (State.mem_rowBest hb)
    · exact State.rowBest_before (State.mem_rowKeys.mpr ⟨below, free, (keys c).symm.trans hk⟩) out
  · intro ps gs mk rows cut grown size sound column pruned grew r _
    obtain ⟨cutSize, cutRows⟩ := pruneAll_rows size (fun row hrow => (sound row hrow).1) pruned
    have rises (r : Nat) : RowRises (cut.getD r []) := by
      rw [cutRows]
      exact (getD_row (fun row hrow => (sound row hrow).2) .nil).filter _
    refine ⟨fun e => ?_, growAll_rises column cutSize rises grew⟩
    rw [mem_growAll cutSize grew, cutRows, List.mem_filter, decide_eq_true_eq]
  · intro s x st ch planes kt i slot t ps gs cut rows b change place split mk pruned grew built
    exact ⟨_, State.rebuildTile_some change pruned grew built, rfl, rfl, rfl⟩
  · exact fun s x q ns nc nd st ch digests clean hs hc hd => applyEffect_clean clean hs hc hd
  · exact fun s x q ns nt kt st tgt clean hs ht stream => convertEffect_clean clean hs ht stream
  · intro st tgt h t rows w y hy format
    have built : builtAs tgt h (convertRows st h t) = y.2 := by
      rw [convertRows_eq]
      exact builtAs_of_format hy format
    exact ⟨fun b hb fits => convertTile_fits (built.trans hb) fits, convertTile_fails built⟩
  · exact fun s x q ns nt st tgt set hs ht => syncEffect_copies set hs ht
end

section
/-! SUPPORT. What the records of the sparse engine find where they name no list, no offset tensor and no side band, and the
products and sampled products (O54). -/

namespace Sys2Proof.Machine

variable {s : State} {x : Ctx} {q : QRec}

/-! ### Absent operands -/

theorem State.recOffsets_absent {w : BitVec 32} {n : Nat} (h : x.rd (paramDesc w) = none) :
    s.recOffsets x w n = some none := by
  unfold State.recOffsets
  rw [h]

/-- A tensor that is not block-scaled has no blocks to mismatch (R64). -/
theorem State.mismatches_plain {d : Desc} {sb : Option Desc} {o : List (List Nat)} (h : d.fmt.isMx = false) :
    s.mismatches d sb o = 0 := by
  unfold State.mismatches
  rw [h]

@[simp] theorem State.count_zero {f who i m : Nat} {c : BitVec 16} {b : Bytes} : s.count x f who i 0 m c b = s := if_pos rfl

/-- Nothing counted charges nothing. -/
theorem State.charge_none {n : Nat} : s.charge x n { mismatch := 0 } = s := by
  simp [State.charge, State.chargeCounts, State.noteNan]

theorem State.fuseFirst_absent {int : Bool} {n : Nat} {rows : List (List Nat × List OutElem)} (h : x.rd x.r.desc3 = none) :
    s.fuseFirst x int n rows = rows := by
  unfold State.fuseFirst
  rw [h]

theorem OnlyCounts.addObj {i j n : Nat} : OnlyCounts s (s.addObj i j n) := rfl

theorem OnlyCounts.chargeIndex {n c d : Nat} : OnlyCounts s (s.chargeIndex x n c d) :=
  OnlyCounts.count.trans OnlyCounts.count

/-! ### Plain products (R198, R201, R206) -/

/-- A product that takes no active set and no offset tensor starts with every output line and every token (R201, R202). -/
theorem State.spRun_plain {nx nw no : Nat} {xd w out : Desc} (hx : x.rd x.r.desc0 = some (nx, xd))
    (hw : x.rd x.r.desc1 = some (nw, w)) (ho : x.wr x.r.desc2 = some (no, out)) (all : x.r.param0.toNat / 16 % 4 = 0)
    (offs : x.rd (paramDesc x.r.param1) = none) :
    s.spRun x = some (.ok ⟨nx, xd, nw, w, no, out, spShape x xd w out, none, none, xd.size 1⟩) := by
  have noList (dim : Nat) : s.spList x dim = some none := if_pos all
  unfold State.spRun
  rw [hx, hw, ho]
  simp only [noList, State.recOffsets_absent offs, ite_self]

/-- The tile reads of every line group of a product (R204). -/
def SpRun.allReads (u : SpRun) : List (List (Nat × List Nat)) := (spGroups u.shape u.outList).map u.reads

/-- What a product without a reduction list leaves, where its tiles pass their checks, is its output over all line groups:
a BRT-k product counts no health event (R206, R208). -/
theorem spProduct_brt_finished {u : SpRun} (run : s.spRun x = some (.ok u)) (noList : u.red = none)
    (clean : (s.readTiles u.w [.brt] u.shape.kt u.shape.trans none u.allReads.flatten).bad = none) :
    spProduct .brt x q s = s.spWrite x u ((spGroups u.shape u.outList).zip (cutRuns (u.allReads.map List.length)
      (s.readTiles u.w [.brt] u.shape.kt u.shape.trans none u.allReads.flatten).tiles)) u.tokens := by
  unfold SpRun.allReads at clean ⊢
  unfold spProduct
  rw [run]
  dsimp only []
  rw [clean, noList]
  rfl

/-- A product's output element: the stored entries of its line times the dense operand of its token (R198). -/
def State.lineSum (s : State) (x : Ctx) (xd w : Desc) (entries : List (Nat × Nat)) (t : Nat) : OutElem :=
  OutElem.ofAcc (orZero (reduceTerms w.fmt.isIntClass false x.r.segbase
    (entries.map (fun e => (e.1, (w.fmt.decode e.2).mul (s.val xd none [e.1, t]))))))

theorem State.spElem_plain {xd w : Desc} {entries : List (Nat × Nat)} {t : Nat} (plain : xd.fmt.isMx = false)
    (whole : x.r.flag 7 = false) : s.spElem x xd w none none entries t = s.lineSum x xd w entries t := by
  unfold State.spElem State.lineSum State.zeroBlock
  rw [whole, plain]
  simp only [redRow, spMul, Option.map_some, List.filterMap_eq_map', Bool.false_eq_true, if_false]

/-- The rows of a product's output over its finished line groups (R206). -/
def State.lineRows (s : State) (x : Ctx) (xd w : Desc) (g : SpShape) (groups : List (List Nat × List (Nat × TileData)))
    (tokens : Nat) : List (List Nat × List OutElem) :=
  (List.range tokens).map (fun t => ([t], groups.flatMap (fun y => y.1.map (fun l =>
    s.lineSum x xd w (spLine g y.2 l) t))))

/-- A whole product without lists, side band or fused operand writes its lines' sums (R198, R206). -/
theorem State.spWrite_plain {u : SpRun} {groups : List (List Nat × List (Nat × TileData))} {n : Nat}
    (noOut : u.outList = none) (noRed : u.red = none) (noFuse : x.rd x.r.desc3 = none) (noSide : x.rd x.r.desc5 = none)
    (whole : x.r.flag 7 = false) (plain : u.xd.fmt.isMx = false) :
    s.spWrite x u groups n = (s.writeFinal x u.no u.out ((x.wr (paramDesc x.r.param2)).map Prod.snd)
      (s.lineRows x u.xd u.w u.shape groups n)).stampPlane x u.no := by
  unfold State.spWrite
  simp only [noOut, noRed, noSide, Option.map_none, State.fuseFirst_absent noFuse, State.mismatches_plain plain,
    State.charge_none, State.spElem_plain plain whole]
  rw [whole]
  rfl

/-- The tile reads of a product are those of its groups' chunks, unless there is no token (R204). -/
theorem SpRun.reads_of_tokens {u : SpRun} (tokens : u.tokens ≠ 0) :
    u.reads = fun l => (List.range u.shape.chunks).flatMap (groupTiles u.shape l) := by
  unfold SpRun.reads
  simp only [tokens, if_false]

section Plain
variable {nx nw no : Nat} {xd w out : Desc} (hx : x.rd x.r.desc0 = some (nx, xd)) (hw : x.rd x.r.desc1 = some (nw, w))
  (ho : x.wr x.r.desc2 = some (no, out)) (all : x.r.param0.toNat / 16 % 4 = 0)
  (offs : x.rd (paramDesc x.r.param1) = none) (noFuse : x.rd x.r.desc3 = none) (noSide : x.rd x.r.desc5 = none)
  (whole : x.r.flag 7 = false) (plain : xd.fmt.isMx = false)
include hx hw ho all offs noFuse noSide whole plain

/-- A plain BRT-k product whose tiles pass their checks sums every line's stored entries times the dense operand; without a
token it reads no tile and writes no row (R198, R204). -/
theorem spProduct_brt_plain :
    let g := spShape x xd w out
    let groups := spGroups g none
    let reads := groups.map (fun l => (List.range g.chunks).flatMap (groupTiles g l))
    let m := s.readTiles w [.brt] g.kt g.trans none reads.flatten
    m.bad = none → spProduct .brt x q s = (s.writeFinal x no out ((x.wr (paramDesc x.r.param2)).map Prod.snd)
      (s.lineRows x xd w g (groups.zip (cutRuns (reads.map List.length) m.tiles)) (xd.size 1))).stampPlane x no := by
  intro g groups reads m sound
  have run := State.spRun_plain (s := s) hx hw ho all offs
  by_cases noTokens : xd.size 1 = 0
  · have noReads : (SpRun.mk nx xd nw w no out g none none (xd.size 1)).allReads.flatten = [] := by
      simp [SpRun.allReads, SpRun.reads, noTokens]
    refine (spProduct_brt_finished run rfl (by rw [noReads]; rfl)).trans ?_
    rw [State.spWrite_plain rfl rfl noFuse noSide whole plain]
    dsimp only []
    rw [noTokens]
    rfl
  · have same : (SpRun.mk nx xd nw w no out g none none (xd.size 1)).allReads = reads := by
      unfold SpRun.allReads
      rw [SpRun.reads_of_tokens noTokens]
    refine (spProduct_brt_finished run rfl (by rw [same]; exact sound)).trans ?_
    rw [same]
    exact State.spWrite_plain rfl rfl noFuse noSide whole plain

end Plain

/-! ### Sampled products (R213, R214) -/

/-- The structure tiles that a sampled product reads (R213). -/
def State.structureTiles (s : State) (v st : Desc) : TilesRead :=
  s.readTiles st [.brt, .csr] (v.size 1 / 128) false none ((List.range (st.size 1)).map (fun i => (i, List.range 128)))

theorem sampledEffect_eq {nu nv no nst : Nat} {u v plane st : Desc} (hu : x.rd x.r.desc0 = some (nu, u))
    (hv : x.rd x.r.desc1 = some (nv, v)) (ho : x.wr x.r.desc2 = some (no, plane))
    (hs : x.rd (paramDesc x.r.param1) = some (nst, st)) (whole : x.r.flag 7 = false) (clean : s.sampledClean x) :
    ∃ t : State, OnlyCounts s t ∧ sampledEffect x q s = (t.writeFinal x no plane
      ((x.wr (paramDesc x.r.param2)).map Prod.snd)
      (s.sampledRows x u v plane (v.size 1 / 128) (s.structureTiles v st).tiles)).stampPlane x no := by
  obtain ⟨sound, fits⟩ := clean (nv, v) (no, plane) (nst, st) hv ho hs
  unfold sampledEffect
  rw [hu, hv, ho, hs]
  dsimp only [] at sound fits ⊢
  rw [takeWhile_all fits, sound, whole]
  simp only [List.getElem?_length]
  exact ⟨_, OnlyCounts.addObj, rfl⟩

/-- A BRT-k tile places each entry of a row at the row's slots in turn (R214). -/
theorem mem_sampledPlaces_brt {t : TileData} {l : Nat × List (Nat × Nat)} {j c e : Nat} (brt : t.hdr.tfmt = 1)
    (hl : l ∈ t.lines) (he : l.2[j]? = some (c, e)) : (l.1 * t.hdr.tk + j, l.1, c) ∈ sampledPlaces t := by
  unfold sampledPlaces
  rw [if_pos brt]
  exact List.mem_flatMap.mpr ⟨l, hl, List.mem_map.mpr ⟨((c, e), j), List.mem_zipIdx_iff_getElem?.mpr he, rfl⟩⟩

/-- A CSR-T tile places its entries in the order stored, row by row, at slots in turn (R214). -/
theorem sampledPlaces_csr {t : TileData} (csr : t.hdr.tfmt = 2) :
    (sampledPlaces t).map Prod.snd = t.lines.flatMap (fun l => l.2.map (fun e => (l.1, e.1))) ∧
      (sampledPlaces t).map Prod.fst = List.range (sampledPlaces t).length := by
  unfold sampledPlaces
  rw [if_neg (by omega), List.map_map, List.map_map, List.length_map, List.length_zipIdx, List.range_eq_range']
  exact ⟨List.zipIdx_map_fst 0 _, List.zipIdx_map_snd 0 _⟩

end Sys2Proof.Machine
end

section
/-! SUPPORT. Expert dispatch: what placing a token keeps of the limits of R224 (O54). -/

namespace Sys2Proof.Machine

/-- What a step of a fold keeps, and by how much it raises a measure, all its steps do. -/
theorem foldl_keeps_and_counts {α β : Type} {f : β → α → β} {P : β → Prop} {m : β → Nat} {n : Nat}
    (step : ∀ b a, P b → P (f b a) ∧ m (f b a) = m b + n) (l : List α) {b : β} (h : P b) :
    P (l.foldl f b) ∧ m (l.foldl f b) = m b + n * l.length := by
  induction l generalizing b with
  | nil => exact ⟨h, rfl⟩
  | cons a l ih =>
    obtain ⟨kept, raised⟩ := step b a h
    obtain ⟨all, total⟩ := ih kept
    refine ⟨all, total.trans ?_⟩
    rw [raised, List.length_cons]
    ring

/-- The limits of a dispatch: no expert is over its capacity, no token stands twice with an expert, and no slot holds two
tokens, since the slots of an expert are taken in turn (R224). -/
structure Placing.Within (p : Placing) (cap : Nat) : Prop where
  room : ∀ e, p.fill e ≤ cap
  once : p.places.Pairwise (fun u v => ¬ (u.1 = v.1 ∧ u.2.2.1 = v.2.2.1))
  apart : p.places.Pairwise (fun u v => ¬ (u.2.2.1 = v.2.2.1 ∧ u.2.2.2.1 = v.2.2.2.1))
  inTurn : ∀ a ∈ p.places, a.2.2.2.1 < p.fill a.2.2.1

/-- The assignments a dispatch has settled: placed, or left over (R224). -/
def Placing.settled (p : Placing) : Nat := p.places.length + p.residual

variable {p : Placing} {cap t j q e i : Nat} {c : Option Nat}

theorem Placing.Within.empty : (⟨[], 0, 0⟩ : Placing).Within cap :=
  ⟨fun _ => Nat.zero_le cap, .nil, .nil, by simp⟩

/-- An expert that is free for a token has room, and does not hold it yet (R224). -/
theorem Placing.of_free (h : p.free cap t c = some e) : p.fill e < cap ∧ ∀ a ∈ p.places, ¬ (a.1 = t ∧ a.2.2.1 = e) := by
  unfold Placing.free at h
  split at h
  · exact absurd h (by simp)
  · split at h
    · exact absurd h (by simp)
    next isFree =>
      obtain rfl := Option.some.inj h
      rw [Bool.or_eq_true, not_or, List.any_eq_true, decide_eq_true_eq, not_le] at isFree
      obtain ⟨new, room⟩ := isFree
      exact ⟨room, fun a ha same => new ⟨a, ha, by simpa using same⟩⟩

theorem Placing.fill_place : (p.place t j e q).fill i = p.fill i + if e = i then 1 else 0 := by
  unfold Placing.fill Placing.place
  rw [List.filter_append, List.length_append]
  by_cases same : e = i <;> simp [same]

theorem Placing.settled_place : (p.place t j e q).settled = p.settled + 1 := by
  simp only [Placing.settled, Placing.place, List.length_append, List.length_singleton]
  omega

/-- Placing a token with an expert that is free for it keeps the limits (R224). -/
theorem Placing.Within.place (h : p.Within cap) (f : p.free cap t c = some e) : (p.place t j e q).Within cap := by
  obtain ⟨room, new⟩ := Placing.of_free f
  refine ⟨fun i => ?_, ?_, ?_, fun a ha => ?_⟩
  · have := h.room i
    rw [Placing.fill_place]
    split
    next same => exact same ▸ room
    · exact this
  · exact List.pairwise_append.mpr ⟨h.once, List.pairwise_singleton _ _, fun a ha b hb => by
      obtain rfl := List.mem_singleton.mp hb
      exact new a ha⟩
  · refine List.pairwise_append.mpr ⟨h.apart, List.pairwise_singleton _ _, fun a ha b hb => ?_⟩
    obtain rfl := List.mem_singleton.mp hb
    rintro ⟨expert, slot⟩
    dsimp only [] at expert slot
    have := h.inTurn a ha
    rw [expert] at this
    omega
  · rw [Placing.fill_place]
    obtain old | here := List.mem_append.mp ha
    · have := h.inTurn a old
      omega
    · obtain rfl := List.mem_singleton.mp here
      simp

/-- Counting a token moved or left over places nothing. -/
theorem Placing.Within.of_places {u : Placing} (h : p.Within cap) (same : u.places = p.places) : u.Within cap := by
  have fill : u.fill = p.fill := by
    unfold Placing.fill
    rw [same]
  exact ⟨fill ▸ h.room, same ▸ h.once, same ▸ h.apart, by rw [same, fill]; exact h.inTurn⟩

variable {rlen : Nat} {cands : List (Nat × List (Option Nat))}

/-- One token of phase A: placed with its expert of the round, or passed on (R224). -/
def phaseAToken (cap j : Nat) (b : Placing × List (Nat × List (Option Nat))) (tc : Nat × List (Option Nat)) :
    Placing × List (Nat × List (Option Nat)) :=
  match b.1.free cap tc.1 ((tc.2[j]?).join) with
  | some e => (b.1.place tc.1 j e j, b.2)
  | none => (b.1, b.2 ++ [tc])

theorem phaseA_eq_foldl : phaseA cap j cands p = cands.foldl (phaseAToken cap j) (p, []) := rfl

theorem phaseAToken_keeps (b : Placing × List (Nat × List (Option Nat))) (tc : Nat × List (Option Nat))
    (h : b.1.Within cap) : (phaseAToken cap j b tc).1.Within cap ∧
      (phaseAToken cap j b tc).1.settled + (phaseAToken cap j b tc).2.length = b.1.settled + b.2.length + 1 := by
  unfold phaseAToken
  split
  next e free =>
    refine ⟨h.place free, ?_⟩
    simp only [Placing.settled_place]
    omega
  · exact ⟨h, by rw [List.length_append, List.length_singleton, Nat.add_assoc]⟩

/-- Phase A keeps the limits, and places or passes on each token (R224). -/
theorem phaseA_keeps (h : p.Within cap) : (phaseA cap j cands p).1.Within cap ∧
    (phaseA cap j cands p).1.settled + (phaseA cap j cands p).2.length = p.settled + cands.length := by
  rw [phaseA_eq_foldl]
  simpa using foldl_keeps_and_counts (P := fun b : Placing × List (Nat × List (Option Nat)) => b.1.Within cap)
    (m := fun b => b.1.settled + b.2.length) phaseAToken_keeps cands (b := (p, [])) h

/-- One token of phase B: placed with the first later expert of its list that is free, or left over (R224). -/
def phaseBToken (cap j rlen : Nat) (p : Placing) (tc : Nat × List (Option Nat)) : Placing :=
  match ((List.range rlen).filter (fun q => decide (j < q))).findSome?
      (fun q => (p.free cap tc.1 ((tc.2[q]?).join)).map (fun e => (e, q))) with
  | some (e, q) => { p.place tc.1 j e q with moved := p.moved + 1 }
  | none => { p with residual := p.residual + 1 }

theorem phaseB_eq_foldl : phaseB cap j rlen cands p = cands.foldl (phaseBToken cap j rlen) p := rfl

theorem phaseBToken_keeps (p : Placing) (tc : Nat × List (Option Nat)) (h : p.Within cap) :
    (phaseBToken cap j rlen p tc).Within cap ∧ (phaseBToken cap j rlen p tc).settled = p.settled + 1 := by
  unfold phaseBToken
  split
  next e q found =>
    obtain ⟨k, -, hk⟩ := List.exists_of_findSome?_eq_some found
    obtain ⟨i, free, same⟩ := Option.map_eq_some_iff.mp hk
    obtain ⟨rfl, rfl⟩ := Prod.mk.inj same
    exact ⟨(h.place free).of_places rfl, Placing.settled_place (j := j) (q := k)⟩
  · exact ⟨h.of_places rfl, rfl⟩

/-- Phase B keeps the limits, and places or leaves over each token (R224). -/
theorem phaseB_keeps (h : p.Within cap) :
    (phaseB cap j rlen cands p).Within cap ∧ (phaseB cap j rlen cands p).settled = p.settled + cands.length := by
  rw [phaseB_eq_foldl]
  simpa using foldl_keeps_and_counts phaseBToken_keeps cands h

/-- A dispatch stays within its limits, and settles `TOPK` assignments of each token (R224). -/
theorem dispatchPlacing_within {r : Rec} : (dispatchPlacing r cands).Within r.cap ∧
    (dispatchPlacing r cands).settled = r.topk * cands.length := by
  have rounds := foldl_keeps_and_counts (P := fun b : Placing => b.Within r.cap) (m := Placing.settled)
    (n := cands.length) (f := fun p j => phaseB r.cap j r.rlen (phaseA r.cap j cands p).2 (phaseA r.cap j cands p).1) ?_
    (List.range r.topk) Placing.Within.empty
  · simpa [Placing.settled, dispatchPlacing, Nat.mul_comm] using rounds
  · intro b j hb
    obtain ⟨keptA, passed⟩ := phaseA_keeps (j := j) (cands := cands) hb
    obtain ⟨keptB, left⟩ := phaseB_keeps (j := j) (rlen := r.rlen) (cands := (phaseA r.cap j cands b).2) keptA
    exact ⟨keptB, left.trans passed⟩

end Sys2Proof.Machine
end

section
/-! SUPPORT. Gather and scatter-add: where a position lies, and the rows and sums that follow from it (O54). -/

namespace Sys2Proof.Machine

variable {s : State} {x : Ctx} {q : QRec}

/-! ### Positions (R130, R216) -/

/-- A position against the bounds of a segment: as it stands, dropped, or clamped to the nearer end (R130, R216). -/
theorem boundPos_segment {drop : Bool} {lo hi : Nat} {p : Int} : boundPos drop lo ((hi : Int) - 1) p =
    if (lo : Int) ≤ p ∧ p < hi then .inRange p.toNat else if drop = true then .dropped
    else .clamped (if p < lo then lo else hi - 1) := by
  have inside : (lo ≤ p && p ≤ (hi : Int) - 1) = decide ((lo : Int) ≤ p ∧ p < hi) := by
    rw [← Bool.decide_and]
    exact decide_eq_decide.mpr (and_congr_right fun _ => Int.le_sub_one_iff)
  have near : (if p < lo then (lo : Int) else (hi : Int) - 1).toNat = if p < lo then lo else hi - 1 := by
    split <;> omega
  unfold boundPos
  rw [inside, near]
  simp only [decide_eq_true_eq]

/-- A position along a whole dimension. -/
theorem boundPos_whole {drop : Bool} {m : Nat} {p : Int} : boundPos drop 0 ((m : Int) - 1) p =
    if 0 ≤ p ∧ p < m then .inRange p.toNat else if drop = true then .dropped else .clamped (if p < 0 then 0 else m - 1) :=
  boundPos_segment (lo := 0)

theorem boundPos_below {drop : Bool} {m i : Nat} (h : i < m) : boundPos drop 0 ((m : Int) - 1) i = .inRange i :=
  boundPos_whole.trans (if_pos ⟨Int.natCast_nonneg i, Int.ofNat_lt.mpr h⟩)

/-- A position is the index operand's element, or the index itself (R215, R216). -/
theorem State.posOf_eq {i : Nat} : s.posOf x i = match x.rd x.r.desc4 with
    | some y => s.intAt y.2 i
    | none => i := by
  unfold State.posOf
  cases x.rd x.r.desc4 <;> rfl

/-- The element a position stands for, if it is not dropped. -/
def PosKind.place : PosKind → Option Nat
  | .inRange i | .clamped i => some i
  | .dropped => none

theorem boundPos_whole_place {drop : Bool} {m : Nat} {p : Int} : (boundPos drop 0 ((m : Int) - 1) p).place =
    if 0 ≤ p ∧ p < m then some p.toNat else if drop = true then none else some (if p < 0 then 0 else m - 1) := by
  rw [boundPos_whole, apply_ite PosKind.place, apply_ite PosKind.place]
  rfl

/-- Of the segments between rising offsets, the first that holds a position is the one it lies in (R216, R217). -/
theorem find_segment {o : List Nat} {k lo hi : Nat} {p : Int} (rising : o.Pairwise (· ≤ ·)) (hlo : o[k]? = some lo)
    (hhi : o[k + 1]? = some hi) (least : (lo : Int) ≤ p) (below : p < hi) :
    (o.zip (o.drop 1)).find? (fun b => decide ((b.1 : Int) ≤ p) && decide (p < b.2)) = some (lo, hi) := by
  obtain ⟨klt, rfl⟩ := List.getElem?_eq_some_iff.mp hlo
  obtain ⟨k1lt, rfl⟩ := List.getElem?_eq_some_iff.mp hhi
  refine List.find?_eq_some_iff_getElem.mpr ⟨by simp [least, below], k, by simp; omega, by simp, fun i hi => ?_⟩
  have upTo : o[i + 1] ≤ o[k] := by
    rcases Nat.lt_or_eq_of_le (Nat.succ_le_of_lt hi) with less | same
    · exact List.pairwise_iff_getElem.mp rising (i + 1) k (by omega) klt less
    · exact Nat.le_of_eq (getElem_congr_idx same)
  simp only [List.getElem_zip, List.getElem_drop, Nat.add_comm 1 i, Bool.not_eq_true', Bool.and_eq_false_imp,
    decide_eq_true_eq, decide_eq_false_iff_not]
  omega

theorem le_getLastD {o : List Nat} {k a : Nat} (rising : o.Pairwise (· ≤ ·)) (ha : o[k]? = some a) : a ≤ o.getLastD 0 := by
  obtain ⟨klt, rfl⟩ := List.getElem?_eq_some_iff.mp ha
  have ne : o ≠ [] := List.ne_nil_of_length_pos (Nat.zero_lt_of_lt klt)
  rw [List.getLastD_eq_getLast?, List.getLast?_eq_some_getLast ne, Option.getD_some, List.getLast_eq_getElem]
  rcases Nat.lt_or_eq_of_le (Nat.le_sub_one_of_lt klt) with less | same
  · exact List.pairwise_iff_getElem.mp rising k (o.length - 1) klt (by omega) less
  · exact Nat.le_of_eq (getElem_congr_idx same)

/-- A gather's position is bounded by the segment of its index (R216, R217). -/
theorem gatherPos_segment {drop : Bool} {m k lo hi : Nat} {o : List Nat} {p r : Int} (rising : o.Pairwise (· ≤ ·))
    (hlo : o[k]? = some lo) (hhi : o[k + 1]? = some hi) (fits : hi ≤ m) (least : (lo : Int) ≤ p) (below : p < hi) :
    gatherPos drop m (some o) p r = if (lo : Int) ≤ r ∧ r < hi then .inRange r.toNat
      else if drop then .dropped else .clamped (if r < lo then lo else hi - 1) := by
  have last := le_getLastD rising hhi
  have inside : ¬ (p < 0 ∨ ((o.getLastD 0 : Nat) : Int) ≤ p) := by omega
  unfold gatherPos
  simp only [Bool.or_eq_true, decide_eq_true_eq, inside, if_false, find_segment rising hlo hhi least below]
  rw [boundPos_segment]
  by_cases within : (lo : Int) ≤ r ∧ r < hi
  · rw [if_pos within]
    exact boundPos_below (by omega)
  · rw [if_neg within]
    cases drop with
    | true => rfl
    | false =>
      have near : (if r < lo then lo else hi - 1) < m := by
        split <;> omega
      simp only [Bool.false_eq_true, if_false, boundPos_below near]

/-! ### Gather (R216) -/

/-- The slice that a gather writes for a position (R130, R216). -/
def State.gatherSlice (s : State) (src : Desc) (sb : Option Desc) (n : Nat) : PosKind → List Val
  | .inRange i | .clamped i => s.row src sb [i]
  | .dropped => List.replicate n Val.zero

/-- The slice of a bounded position: its own row, zeros, or the row at the nearer end (R130). -/
theorem State.gatherSlice_boundPos {src : Desc} {sb : Option Desc} {n m : Nat} {p : Int} :
    s.gatherSlice src sb n (boundPos src.drop 0 ((m : Int) - 1) p) =
      if 0 ≤ p ∧ p < m then s.row src sb [p.toNat] else if src.drop = true then List.replicate n Val.zero
      else s.row src sb [if p < 0 then 0 else m - 1] := by
  rw [boundPos_whole, apply_ite (s.gatherSlice src sb n), apply_ite (s.gatherSlice src sb n)]
  rfl

/-- A gather of a matrix without offsets reads one slice for each output row (R216). -/
theorem State.gatherReads_plain {src out : Desc} (offs : x.rd (paramDesc x.r.param2) = none) (plain : out.sizes.length = 2)
    (single : x.r.param0.toNat / 65536 % 256 ≤ 1) : s.gatherReads x src out = some ((List.range (out.size 1)).map
      (fun i => ([i], boundPos src.drop 0 ((src.size 1 : Int) - 1) (s.posOf x i + x.r.param1.toInt)))) := by
  have one : max 1 (x.r.param0.toNat / 65536 % 256) = 1 := by omega
  unfold State.gatherReads
  simp only [State.recOffsets_absent offs, plain, one, limitOf, gatherPos, if_true, Option.map_some,
    List.range_one, List.map_cons, List.map_nil, Nat.cast_zero, Int.add_zero]
  exact congrArg some List.map_eq_flatMap.symm

theorem gatherEffect_plain {ns no : Nat} {src out : Desc} (hs : x.rd x.r.desc0 = some (ns, src))
    (ho : x.wr x.r.desc2 = some (no, out)) (offs : x.rd (paramDesc x.r.param2) = none) (plain : out.sizes.length = 2)
    (single : x.r.param0.toNat / 65536 % 256 ≤ 1) :
    ∃ t : State, OnlyCounts s t ∧ gatherEffect x q s = (t.writeFinal x no out ((x.wr x.r.desc1).map Prod.snd)
      ((List.range (out.size 1)).map (fun i => ([i], plainElems (s.gatherSlice src ((x.rd x.r.desc5).map Prod.snd) (out.size 0)
        (boundPos src.drop 0 ((src.size 1 : Int) - 1) (s.posOf x i + x.r.param1.toInt))))))).stampPlane x no := by
  unfold gatherEffect
  rw [hs, ho]
  dsimp only []
  rw [State.gatherReads_plain offs plain single]
  dsimp only []
  refine ⟨_, ?_, congrArg (fun l => (State.writeFinal _ x no out _ l).stampPlane x no) ?_⟩
  · exact (OnlyCounts.charge.trans OnlyCounts.addObj).trans OnlyCounts.chargeIndex
  rw [List.map_map]
  refine List.map_congr_left fun i _ => congrArg (Prod.mk [i]) ?_
  dsimp only [Function.comp]
  cases boundPos src.drop 0 ((src.size 1 : Int) - 1) (s.posOf x i + x.r.param1.toInt) with
  | inRange j => rfl
  | clamped j => rfl
  | dropped => simp [plainElems, State.gatherSlice]


/-! ### Scatter-add (R119, R127, R220) -/

theorem insertBy_last {α : Type} {lt : α → α → Bool} {a : α} {l : List α} (h : ∀ b ∈ l, lt a b = false) :
    insertBy lt a l = l ++ [a] := by
  induction l with
  | nil => rfl
  | cons b l ih =>
    simp only [insertBy, h b List.mem_cons_self, Bool.false_eq_true, if_false, List.cons_append,
      ih fun c hc => h c (List.mem_cons_of_mem b hc)]

theorem foldl_insertBy_sorted {α : Type} {lt : α → α → Bool} {l acc : List α}
    (h : (acc ++ l).Pairwise (fun b a => lt a b = false)) : l.foldl (fun s a => insertBy lt a s) acc = acc ++ l := by
  induction l generalizing acc with
  | nil => exact (List.append_nil acc).symm
  | cons a l ih =>
    obtain ⟨-, -, across⟩ := List.pairwise_append.mp h
    rw [List.append_cons] at h ⊢
    rw [List.foldl_cons, insertBy_last fun b hb => across b hb a List.mem_cons_self]
    exact ih h

/-- Sorting leaves a sorted list as it is. -/
theorem sortBy_sorted {α : Type} {lt : α → α → Bool} {l : List α} (h : l.Pairwise (fun b a => lt a b = false)) :
    sortBy lt l = l :=
  foldl_insertBy_sorted (acc := []) h

/-- The length of a destination's row: the whole row, or up to where the next one begins (R119). -/
def rowLength (out : Desc) (l : List (List Nat)) (y : List Nat × Nat) : Nat :=
  match l[y.2 + 1]? with
  | some e => min (out.size 0) (out.offset (0 :: e) - out.offset (0 :: y.1)).toNat
  | none => out.size 0

theorem destRows_eq {out : Desc} {dests : List (List Nat)} : destRows out dests =
    let l := sortBy (fun a b => decide (out.offset (0 :: a) < out.offset (0 :: b))) dests
    l.zipIdx.filterMap (fun y => if rowLength out l y = 0 then none else some (y.1, rowLength out l y)) :=
  rfl

section Rows
variable {out : Desc} {w : Int} (wide : (out.size 0 : Int) ≤ w) (rows : ∀ e d : Nat, out.offset [e, d] = e + d * w)
include wide rows

/-- Rows that lie apart begin a whole row or more from each other. -/
theorem offset_gap {a b : Nat} (h : a < b) : (out.size 0 : Int) ≤ out.offset [0, b] - out.offset [0, a] := by
  rw [rows, rows]
  nlinarith

/-- Where rows lie apart, each is whole. -/
theorem rowLength_apart {l : List Nat} {d i : Nat} (rising : l.Pairwise (· < ·)) (hd : l[i]? = some d) :
    rowLength out (l.map (fun d => [d])) ([d], i) = out.size 0 := by
  unfold rowLength
  rw [List.getElem?_map]
  cases hb : l[i + 1]? with
  | none => rfl
  | some b =>
    obtain ⟨here, rfl⟩ := List.getElem?_eq_some_iff.mp hd
    obtain ⟨there, rfl⟩ := List.getElem?_eq_some_iff.mp hb
    have := offset_gap wide rows (List.pairwise_iff_getElem.mp rising i (i + 1) here there (Nat.lt_succ_self i))
    exact Nat.min_eq_left (by
      dsimp only []
      omega)

/-- Where an output's rows lie apart, each of its destinations is one whole row (R119, R127). -/
theorem destRows_apart {l : List Nat} (pos : 0 < out.size 0) (rising : l.Pairwise (· < ·)) :
    destRows out (l.map (fun d => [d])) = l.map (fun d => ([d], out.size 0)) := by
  have sorted : (l.map (fun d => [d])).Pairwise
      (fun b a => decide (out.offset (0 :: a) < out.offset (0 :: b)) = false) :=
    List.pairwise_map.mpr (rising.imp fun {a b} less => by
      have := offset_gap wide rows less
      simp only [decide_eq_false_iff_not]
      omega)
  have whole : ∀ y ∈ l.zipIdx, rowLength out (l.map (fun d => [d])) ([y.1], y.2) = out.size 0 :=
    fun y hy => rowLength_apart wide rows rising (List.mem_zipIdx_iff_getElem?.mp hy)
  rw [destRows_eq, sortBy_sorted sorted]
  calc (l.map (fun d => [d])).zipIdx.filterMap _
    _ = l.zipIdx.filterMap (fun y => some ([y.1], out.size 0)) := by
      rw [List.zipIdx_map, List.filterMap_map]
      exact List.filterMap_congr fun y hy => by simp [Prod.map, whole y hy, Nat.ne_of_gt pos]
    _ = l.zipIdx.map (fun y => ([y.1], out.size 0)) := by rw [List.filterMap_eq_map']
    _ = (l.zipIdx.map Prod.fst).map (fun d => ([d], out.size 0)) := by rw [List.map_map]; rfl
    _ = l.map (fun d => ([d], out.size 0)) := by rw [List.zipIdx_map_fst]

/-- An element takes of the placed positions those of its own row, and nothing of another row's (R119, R127). -/
theorem offset_apart {d e p : Nat} (he : e < out.size 0) :
    (0 ≤ out.offset [e, d] - out.offset [0, p] ∧ out.offset [e, d] - out.offset [0, p] < out.size 0) ↔ p = d := by
  have apart : out.offset [e, d] - out.offset [0, p] = e + ((d : Int) - p) * w := by
    rw [rows, rows]
    ring
  rw [apart]
  rcases lt_trichotomy p d with less | same | more
  · have : w ≤ ((d : Int) - p) * w := by nlinarith
    omega
  · subst same
    simp [he]
  · have : ((d : Int) - p) * w ≤ -w := by nlinarith
    omega

/-- Where an output's rows lie apart, an element receives what is placed at its own row, at its own column (R127). -/
theorem contributions_apart {placed : List (Nat × Nat)} {d e : Nat} (he : e < out.size 0) :
    contributions out placed d e = (placed.filter (fun y => y.1 = d)).map (fun y => (e, y.2)) := by
  unfold contributions
  rw [← List.filterMap_eq_map', List.filterMap_filter]
  refine List.filterMap_congr fun y _ => ?_
  simp only [Bool.and_eq_true, decide_eq_true_eq, offset_apart wide rows he]
  by_cases same : y.1 = d
  · have column : out.offset [e, d] - out.offset [0, d] = e := by
      rw [rows, rows]
      ring
    simp [same, column]
  · simp only [same, if_false]

end Rows

/-- The source indices that a scatter-add places at a destination, in ascending order (R127, R220). -/
def State.placedAt (s : State) (x : Ctx) (out : Desc) (n d : Nat) : List Nat :=
  (List.range n).filter (fun i => (boundPos out.drop 0 ((out.size 1 : Int) - 1) (s.posOf x i)).place = some d)

theorem State.scatterPlaces_fst {out : Desc} {n : Nat} : (s.scatterPlaces x out n).1 = (List.range n).filterMap (fun i =>
    (boundPos out.drop 0 ((out.size 1 : Int) - 1) (s.posOf x i)).place.map (fun p => (p, i))) := by
  unfold State.scatterPlaces
  dsimp only []
  rw [zipIdx_map_range, List.filterMap_map]
  refine List.filterMap_congr fun i _ => ?_
  dsimp only [Function.comp]
  cases boundPos out.drop 0 ((out.size 1 : Int) - 1) (s.posOf x i) <;> rfl

/-- What is placed at a destination. -/
theorem State.scatterPlaces_filter {out : Desc} {n d : Nat} :
    (s.scatterPlaces x out n).1.filter (fun y => y.1 = d) = (s.placedAt x out n d).map (fun i => (d, i)) := by
  rw [State.scatterPlaces_fst, List.filter_filterMap]
  unfold State.placedAt
  rw [← List.filterMap_eq_map', List.filterMap_filter]
  refine List.filterMap_congr fun i _ => ?_
  cases (boundPos out.drop 0 ((out.size 1 : Int) - 1) (s.posOf x i)).place with
  | none => rfl
  | some p => by_cases same : p = d <;> simp [same]

/-- The destinations of a scatter-add are the rows at which something is placed (R127). -/
theorem State.destsOf_scatterPlaces {out : Desc} {n : Nat} : destsOf out (s.scatterPlaces x out n).1 =
    ((List.range (out.size 1)).filter (fun d => s.placedAt x out n d ≠ [])).map (fun d => [d]) := by
  unfold destsOf
  refine congrArg (List.map _) (List.filter_congr fun d _ => ?_)
  have placed : (s.scatterPlaces x out n).1.any (fun y => decide (y.1 = d)) = true ↔ s.placedAt x out n d ≠ [] := by
    rw [Ne, ← List.map_eq_nil_iff (f := fun i => (d, i)), ← State.scatterPlaces_filter, List.filter_eq_nil_iff]
    simp
  rw [Bool.eq_iff_iff, placed, decide_eq_true_eq]

section Scatter
variable {ns no : Nat} {w : Int} {src out : Desc} (hs : x.rd x.r.desc0 = some (ns, src)) (ho : x.wr x.r.desc2 = some (no, out))
  (offs : x.rd (paramDesc x.r.param2) = none) (noSide : x.rd x.r.desc5 = none) (fresh : x.r.flag 0 = false)
  (pos : 0 < out.size 0) (wide : (out.size 0 : Int) ≤ w) (rows : ∀ e d : Nat, out.offset [e, d] = e + d * w)
include hs ho offs noSide fresh pos wide rows

/-- A scatter-add onto rows that lie apart sums at each destination what is placed there (R127, R220). -/
theorem scatterEffect_apart : ∃ t : State, OnlyCounts s t ∧ scatterEffect x q s =
    (t.writeFinal x no out ((x.wr x.r.desc1).map Prod.snd)
      (((List.range (out.size 1)).filter (fun d => s.placedAt x out (src.size 1) d ≠ [])).map (fun d =>
        ([d], (List.range (out.size 0)).map (fun e => OutElem.ofAcc (orZero (reduceTerms src.fmt.accInt false x.r.segbase
          ((s.placedAt x out (src.size 1) d).zipIdx.map (fun y => (y.2, s.val src none [e, y.1])))))))))).stampPlane x no := by
  unfold scatterEffect
  rw [hs, ho]
  dsimp only []
  rw [State.recOffsets_absent offs, noSide]
  dsimp only [limitOf]
  refine ⟨_, ?_, congrArg (fun l => (State.writeFinal _ x no out _ l).stampPlane x no) ?_⟩
  · exact (OnlyCounts.charge.trans OnlyCounts.charge).trans OnlyCounts.chargeIndex
  rw [State.destsOf_scatterPlaces, destRows_apart wide rows pos (List.pairwise_lt_range.filter _), List.map_map]
  refine List.map_congr_left fun d _ => congrArg (Prod.mk [d]) (List.map_congr_left fun e he => ?_)
  dsimp only []
  rw [fresh, if_neg Bool.false_ne_true, List.headD_cons, contributions_apart wide rows (List.mem_range.mp he),
    State.scatterPlaces_filter, List.map_map, List.zipIdx_map, List.map_map]
  rfl

end Scatter

end Sys2Proof.Machine
end

section
/-! SUPPORT. Expert combine: the map entries it takes, the first malformed one, and the sums of its tokens (O54). -/

namespace Sys2Proof.Machine

/-! ### Folds that append or end with an error -/

section Folds
variable {α γ ε : Type} {f : List γ → α → Except ε (List γ)} {g : α → List γ} {l : List α}

/-- A fold whose steps append gives what they append, in turn. -/
theorem foldlM_append (step : ∀ a ∈ l, ∀ acc, f acc a = .ok (acc ++ g a)) (acc : List γ) :
    l.foldlM f acc = .ok (acc ++ l.flatMap g) := by
  induction l generalizing acc with
  | nil => simp [pure, Except.pure]
  | cons a l ih =>
    rw [List.foldlM_cons, step a List.mem_cons_self acc, List.flatMap_cons, ← List.append_assoc]
    exact ih (fun b hb => step b (List.mem_cons_of_mem a hb)) _

/-- A fold ends with the error of the first step that fails. -/
theorem foldlM_error {a : α} {rest : List α} {e : ε} (step : ∀ b ∈ l, ∀ acc, f acc b = .ok (acc ++ g b))
    (fails : ∀ acc, f acc a = .error e) (acc : List γ) : (l ++ a :: rest).foldlM f acc = .error e := by
  rw [List.foldlM_append, foldlM_append step acc]
  show List.foldlM f _ (a :: rest) = _
  rw [List.foldlM_cons, fails]
  rfl

end Folds

/-- The indices below a bound, up to one of them, it, and those behind it. -/
theorem range_split {n i : Nat} (h : i < n) : ∃ rest, List.range n = List.range i ++ i :: rest := by
  obtain ⟨k, rfl⟩ := Nat.exists_eq_add_of_lt h
  refine ⟨(List.range k).map (fun j => i + 1 + j), ?_⟩
  rw [Nat.add_right_comm, List.range_add, List.range_succ, List.append_assoc]
  rfl

/-! ### Map entries (R226) -/

variable {s : State} {x : Ctx} {q : QRec} {r : Rec} {map : Desc} {t j : Nat}

/-- A map entry is well formed: none, or a slot of an expert with a place in the token's list (R226). -/
def State.entryOk (s : State) (r : Rec) (map : Desc) (t j : Nat) : Prop :=
  (s.int map [j, t] = -1 ∧ s.int map [8 + j, t] = -1) ∨
    (0 ≤ s.int map [j, t] ∧ s.int map [j, t] < (r.nexp * r.cap : Nat) ∧ 0 ≤ s.int map [8 + j, t] ∧
      s.int map [8 + j, t] < (r.rlen : Nat))

/-- What a token's map entry gives: an assignment with its slot and its place, or nothing (R226). -/
def State.entryGives (s : State) (map : Desc) (t j : Nat) : List (Nat × Nat × Nat) :=
  if 0 ≤ s.int map [j, t] then [(j, (s.int map [j, t]).toNat, (s.int map [8 + j, t]).toNat)] else []

/-- One map entry of a token as combine reads it (R226). -/
def State.readEntry (s : State) (r : Rec) (map : Desc) (t : Nat) (acc : List (Nat × Nat × Nat)) (j : Nat) :
    Except Int (List (Nat × Nat × Nat)) :=
  let slot := s.int map [j, t]
  let q := s.int map [8 + j, t]
  if slot = -1 && q = -1 then .ok acc
  else if 0 ≤ slot && slot < (r.nexp * r.cap : Nat) && 0 ≤ q && q < (r.rlen : Nat) then
    .ok (acc ++ [(j, slot.toNat, q.toNat)])
  else .error slot

theorem State.combineMap_eq_foldlM : s.combineMap r map t = (List.range r.topk).foldlM (s.readEntry r map t) [] := rfl

theorem State.readEntry_ok (ok : s.entryOk r map t j) (acc : List (Nat × Nat × Nat)) :
    s.readEntry r map t acc j = .ok (acc ++ s.entryGives map t j) := by
  unfold State.readEntry State.entryGives
  obtain ⟨noSlot, noPlace⟩ | ⟨least, most, first, last⟩ := ok
  · simp [noSlot, noPlace]
  · have isSlot : s.int map [j, t] ≠ -1 := by omega
    simp only [isSlot, least, most, first, last, decide_false, decide_true, Bool.false_and, Bool.and_self, Bool.false_eq_true,
      if_false, if_true]

theorem State.readEntry_malformed (bad : ¬ s.entryOk r map t j) (acc : List (Nat × Nat × Nat)) :
    s.readEntry r map t acc j = .error (s.int map [j, t]) := by
  obtain ⟨notAbsent, outside⟩ := not_or.mp bad
  unfold State.readEntry
  simp only [Bool.and_eq_true, decide_eq_true_eq, and_assoc, notAbsent, outside, if_false]

/-- The assignments of a token whose map entries are well formed: those with a slot (R226). -/
def State.assigned (s : State) (r : Rec) (map : Desc) (t : Nat) : List (Nat × Nat × Nat) :=
  ((List.range r.topk).filter (fun j => decide (0 ≤ s.int map [j, t]))).map (fun j =>
    (j, (s.int map [j, t]).toNat, (s.int map [8 + j, t]).toNat))

theorem State.assigned_eq_flatMap : s.assigned r map t = (List.range r.topk).flatMap (s.entryGives map t) := by
  unfold State.assigned
  induction List.range r.topk with
  | nil => rfl
  | cons j l ih =>
    rw [List.flatMap_cons, ← ih, State.entryGives]
    by_cases slot : 0 ≤ s.int map [j, t] <;> simp [slot]

theorem State.combineMap_ok (ok : ∀ j < r.topk, s.entryOk r map t j) :
    s.combineMap r map t = .ok (s.assigned r map t) := by
  rw [State.combineMap_eq_foldlM, State.assigned_eq_flatMap]
  exact foldlM_append (fun j hj => State.readEntry_ok (ok j (List.mem_range.mp hj))) []

/-- A token's first malformed map entry is reported (R226). -/
theorem State.combineMap_malformed (below : j < r.topk) (bad : ¬ s.entryOk r map t j)
    (before : ∀ k < j, s.entryOk r map t k) : s.combineMap r map t = .error (s.int map [j, t]) := by
  obtain ⟨rest, split⟩ := range_split below
  rw [State.combineMap_eq_foldlM, split]
  exact foldlM_error (fun k hk => State.readEntry_ok (before k (List.mem_range.mp hk))) (State.readEntry_malformed bad) []

theorem State.combineMaps_ok {n : Nat} (ok : ∀ i < n, ∀ j < r.topk, s.entryOk r map i j) :
    s.combineMaps r map n = .ok ((List.range n).map (fun i => (i, s.assigned r map i))) := by
  rw [List.map_eq_flatMap]
  refine foldlM_append (fun i hi acc => ?_) []
  rw [State.combineMap_ok (ok i (List.mem_range.mp hi))]
  rfl

/-- Of all tokens, the first with a malformed map entry reports it (R226). -/
theorem State.combineMaps_malformed {n i : Nat} (token : i < n) (choice : j < r.topk) (bad : ¬ s.entryOk r map i j)
    (before : ∀ k < i, ∀ l < r.topk, s.entryOk r map k l) (earlier : ∀ l < j, s.entryOk r map i l) :
    s.combineMaps r map n = .error (s.int map [j, i]) := by
  obtain ⟨rest, split⟩ := range_split token
  unfold State.combineMaps
  rw [split]
  refine foldlM_error (g := fun k => [(k, s.assigned r map k)]) (fun k hk acc => ?_) (fun acc => ?_) []
  · rw [State.combineMap_ok (before k (List.mem_range.mp hk))]
    rfl
  · rw [State.combineMap_malformed choice bad earlier]
    rfl

/-! ### What a combine leaves (R226) -/

/-- The terms of a combined element: each assigned slot's value times the gate of its place (R226). -/
def State.combineTerms (s : State) (r : Rec) (gate y map : Desc) (i d : Nat) : List (Nat × Val) :=
  (s.assigned r map i).map (fun a => (a.1, (s.val gate none [a.2.2, i]).mul
    (s.val y none [d, a.2.1 % max 1 r.cap, a.2.1 / max 1 r.cap])))

section Combine
variable {ny ng no nm : Nat} {y gate out : Desc} (hy : x.rd x.r.desc0 = some (ny, y)) (hg : x.rd x.r.desc1 = some (ng, gate))
  (ho : x.wr x.r.desc2 = some (no, out)) (hm : x.rd x.r.desc4 = some (nm, map))
  (offs : x.rd (paramDesc x.r.param2) = none)
include hy hg ho hm offs

/-- A combine whose map is well formed writes each token's sum of its slots by their gates (R226). -/
theorem combineEffect_ok (noFuse : x.rd x.r.desc3 = none) (plain : out.acc ≠ 2)
    (ok : ∀ i < out.size 1, ∀ j < x.r.topk, s.entryOk x.r map i j) :
    combineEffect x q s = (s.writeFinal x no out none ((List.range (out.size 1)).map (fun i =>
      ([i], (List.range (out.size 0)).map (fun d => OutElem.ofAcc (orZero (reduceTerms false false x.r.segbase
        (s.combineTerms x.r gate y map i d)))))))).stampPlane x no := by
  unfold combineEffect
  rw [hy, hg, ho, hm]
  dsimp only []
  rw [State.recOffsets_absent offs]
  dsimp only [limitOf]
  rw [State.combineMaps_ok ok]
  dsimp only []
  rw [State.fuseFirst_absent noFuse, if_neg plain, List.map_map]
  rfl

/-- A combine that meets a malformed map entry aborts the step before it writes a token (R226). -/
theorem combineEffect_malformed {i : Nat} (token : i < out.size 1) (choice : j < x.r.topk)
    (bad : ¬ s.entryOk x.r map i j) (before : ∀ k < i, ∀ l < x.r.topk, s.entryOk x.r map k l)
    (earlier : ∀ l < j, s.entryOk x.r map i l) :
    combineEffect x q s =
      s.abortWith 0x4406 x.island (toLe 4 x.r.recno ++ toLe 4 (bitsOfInt 32 (s.int map [j, i]))) := by
  unfold combineEffect
  rw [hy, hg, ho, hm]
  dsimp only []
  rw [State.recOffsets_absent offs]
  dsimp only [limitOf]
  rw [State.combineMaps_malformed token choice bad before earlier]

end Combine

end Sys2Proof.Machine

open Sys2Proof Sys2Proof.Machine

/-- Settles O54: each record by its effect's frame; a dispatch by what every placement keeps; a product, a sampled product, a
gather, a scatter-add and a combine by the rows that each writes. -/
theorem sparseRecordsRun : Obligations.SparseRecordsRun := by
  refine ⟨?_, ?_, ?_, ?_, ?_, ?_, ?_, ?_, ?_⟩
  · intro s c r p rc q h e x noted y hy
    simp only [List.mem_cons, List.not_mem_nil, or_false] at hy
    obtain rfl | rfl | rfl | rfl | rfl | rfl | rfl := hy <;> intro f sound
    · exact State.runRecord_clean h sound (by simp [wantSparse, e, f]) OnlyRecord.spProduct
    · exact State.runRecord_clean h sound (by simp [wantSparse, e, f]) OnlyRecord.spProduct
    · exact State.runRecord_clean h sound (by simp [wantSparse, e, f]) OnlyRecord.sampledEffect
    · exact State.runRecord_clean h sound (by simp [wantSparse, e, f]) OnlyRecord.gatherEffect
    · exact State.runRecord_clean h sound (by simp [wantSparse, e, f]) OnlyRecord.scatterEffect
    · exact State.runRecord_clean h sound (by simp [wantSparse, e, f]) OnlyRecord.dispatchEffect
    · exact State.runRecord_clean h sound (by simp [wantSparse, e, f]) OnlyRecord.combineEffect
  · intro r l d
    obtain ⟨within, settled⟩ := dispatchPlacing_within (r := r) (cands := l.zipIdx.map (fun e => (e.2, e.1)))
    exact ⟨within.room, within.once, within.apart, settled.trans (by rw [List.length_map, List.length_zipIdx])⟩
  · intro s x q nx nw no xd w out hx hw ho all offs noFuse noSide whole plain g groups reads m sound
    exact spProduct_brt_plain hx hw ho all offs noFuse noSide whole plain sound
  · intro s x q nu nv no nst u v plane st hu hv ho hs whole clean kt m at'
    obtain ⟨t, counts, writes⟩ := sampledEffect_eq (q := q) hu hv ho hs whole clean
    exact ⟨t, counts, writes.trans (by rw [State.sampledRows, whole]; rfl)⟩
  · exact fun t => ⟨fun brt l hl j c e => mem_sampledPlaces_brt brt hl, sampledPlaces_csr⟩
  · intro s x q ns no src out hs ho offs plain single pos row
    obtain ⟨t, counts, writes⟩ := gatherEffect_plain (q := q) (s := s) hs ho offs plain single
    have position (i : Nat) : pos i = s.posOf x i + x.r.param1.toInt := congrArg (· + x.r.param1.toInt) State.posOf_eq.symm
    simp only [State.gatherSlice_boundPos, ← position] at writes
    exact ⟨t, counts, writes⟩
  · exact fun drop m o k lo hi p r rising hlo hhi fits least below =>
      gatherPos_segment rising hlo hhi fits least below
  · intro s x q ns no w src out hs ho offs noSide fresh pos wide rows pos' place at'
    obtain ⟨t, counts, writes⟩ := scatterEffect_apart (q := q) (s := s) hs ho offs noSide fresh pos wide rows
    have position (i : Nat) : pos' i = s.posOf x i := State.posOf_eq.symm
    have inPlace (i : Nat) : (boundPos out.drop 0 ((out.size 1 : Int) - 1) (s.posOf x i)).place = place i := by
      rw [← position]
      exact boundPos_whole_place
    have placed (d : Nat) : s.placedAt x out (src.size 1) d = at' d := List.filter_congr fun i _ => by rw [inPlace]
    simp only [placed] at writes
    exact ⟨t, counts, writes⟩
  · intro s x q ny ng no nm y gate out map hy hg ho hm offs noFuse plain slot place good terms
    refine ⟨fun ok => ?_, fun i hi j hj bad before earlier => ?_⟩
    · refine (combineEffect_ok hy hg ho hm offs noFuse plain ok).trans ?_
      simp only [State.combineTerms, State.assigned, List.map_map]
      rfl
    · exact combineEffect_malformed hy hg ho hm offs hi hj bad before earlier
end

section
/-! SUPPORT. What a corrected and an uncorrectable word of memory leave (O14, O40): counts by stack and die, rows listed for
repair, and poison (R338 to R342). -/

namespace Sys2Proof.Machine

variable {s : State} {a r : Nat}

/-! ### Stacks, dies and counters -/

theorem hbmDecode_lt (h : a < 0x6000000000) : (hbmDecode a).1 < 8 := by
  have xor_lt (x y : Nat) (hx : x < 8) (hy : y < 8) : x ^^^ y < 8 := Nat.xor_lt_two_pow (n := 3) hx hy
  unfold hbmDecode
  split
  · exact xor_lt _ _ (xor_lt _ _ (Nat.mod_lt _ (by decide)) (Nat.mod_lt _ (by decide))) (Nat.mod_lt _ (by decide))
  · dsimp only []
    omega

theorem sramDie_lt (h : a < 0x10180000000) : sramDie a < 4 := by
  unfold sramDie
  omega

/-- A counter adds up to the largest value of its entry's type. -/
theorem State.obj_counted {i j n m : Nat} (w : Assoc.wf objDefault s.od = true)
    (entry : ((objFind i j).map (fun o => o.ty.maxValue)).getD 0 = m) :
    (s.addObj i j n).obj i j = min m (s.obj i j + n) := by
  rw [State.obj_addObj w, entry]

/-- Corrected words are counted by stack, up to 64 bits (R338). -/
theorem hbmCorrected_max {h : Nat} (lt : h < 8) : ((objFind 0x3035 h).map (fun o => o.ty.maxValue)).getD 0 = 2 ^ 64 - 1 := by
  have each : ∀ h : Fin 8, ((objFind 0x3035 h.val).map (fun o => o.ty.maxValue)).getD 0 = 2 ^ 64 - 1 := by decide
  exact each ⟨h, lt⟩

/-- Corrected words are counted by die, up to 64 bits (R339). -/
theorem sramCorrected_max {d : Nat} (lt : d < 4) : ((objFind 0x3038 d).map (fun o => o.ty.maxValue)).getD 0 = 2 ^ 64 - 1 := by
  have each : ∀ d : Fin 4, ((objFind 0x3038 d.val).map (fun o => o.ty.maxValue)).getD 0 = 2 ^ 64 - 1 := by decide
  exact each ⟨d, lt⟩

/-- An event of a module that has logged nothing since a state stands in its log as the next of that state. -/
theorem State.event_logged_since {u : State} {c : BitVec 16} {i : Nat} {d : Bytes} (log : u.log = s.log) (gc : u.gc = s.gc)
    (short : d.length ≤ 10) : Logged s (u.event c i d) c i d := by
  have h := State.event_logged (s := u) c i short
  rwa [Logged, log, gc] at h

/-! ### Rows listed for repair -/

/-- Marking a row changes the list of faulty rows alone. -/
theorem State.markRow_frame (s : State) (r : Nat) : s.markRow r = { s with faultyRows := (s.markRow r).faultyRows } := by
  unfold State.markRow
  split <;> rfl

/-- A row that is not known to be beyond repair is listed (R342, R343). -/
theorem State.mem_markRow (h : r ∉ s.badRows) : r ∈ (s.markRow r).faultyRows := by
  unfold State.markRow
  rw [if_neg (by simpa using h)]
  exact mem_addNew_self _ _

/-! ### Corrected words -/

/-- A corrected word of HBM: its stack's count, and its row's. -/
def State.correctedHbm (s : State) (a : Nat) : State :=
  { s.addObj 0x3035 (hbmDecode a).1 1 with rowErrors := addKey (hbmRow a) 1 s.rowErrors }

theorem State.noteCorrected_hbm (h : a < 0x6000000000) : s.noteCorrected a =
    if (s.correctedHbm a).obj 0x2706 0 ≤ (lookupKey (hbmRow a) s.rowErrors).getD 0 + 1
    then (s.correctedHbm a).markRow (hbmRow a) else s.correctedHbm a := by
  have count : (lookupKey (hbmRow a) (s.correctedHbm a).rowErrors).getD 0 = (lookupKey (hbmRow a) s.rowErrors).getD 0 + 1 := by
    rw [State.correctedHbm, lookupKey_addKey_self]
    rfl
  unfold State.noteCorrected
  rw [if_pos h, ← count]
  rfl

theorem State.noteCorrected_sram (h : 0x6000000000 ≤ a) : s.noteCorrected a = s.addObj 0x3038 (sramDie a) 1 :=
  if_neg (by omega)

/-- A corrected word of HBM changes its counts, and may list its row. -/
theorem State.noteCorrected_frame (h : a < 0x6000000000) :
    s.noteCorrected a = { s.correctedHbm a with faultyRows := (s.noteCorrected a).faultyRows } := by
  rw [State.noteCorrected_hbm h]
  split
  · exact State.markRow_frame _ _
  · rfl

/-- A corrected word of HBM is counted for its stack (R338). -/
theorem State.noteCorrected_counts (w : Assoc.wf objDefault s.od = true) (h : a < 0x6000000000) :
    (s.noteCorrected a).obj 0x3035 (hbmDecode a).1 = min (2 ^ 64 - 1) (s.obj 0x3035 (hbmDecode a).1 + 1) := by
  rw [State.noteCorrected_frame h]
  exact State.obj_counted w (hbmCorrected_max (hbmDecode_lt h))

/-- A row whose corrected words reach the limit in force is listed for repair (R342). -/
theorem State.noteCorrected_lists (w : Assoc.wf objDefault s.od = true) (h : a < 0x6000000000)
    (limit : s.obj 0x2706 0 ≤ (lookupKey (hbmRow a) s.rowErrors).getD 0 + 1) (bad : hbmRow a ∉ s.badRows) :
    hbmRow a ∈ (s.noteCorrected a).faultyRows := by
  have stack := hbmDecode_lt h
  have other : (s.correctedHbm a).obj 0x2706 0 = s.obj 0x2706 0 :=
    State.obj_addObj_other w (by rw [Ne, objKey_inj (by decide) (by omega)]; omega)
  rw [State.noteCorrected_hbm h, other, if_pos limit]
  exact State.mem_markRow (s := s.correctedHbm a) bad

/-! ### Uncorrectable words -/

theorem mem_insertNat_self (n : Nat) (l : List Nat) : n ∈ insertNat n l := by
  induction l with
  | nil => simp [insertNat]
  | cons m l ih =>
    simp only [insertNat]
    split
    · simp
    · split
      · simp [*]
      · exact List.mem_cons_of_mem _ ih

/-- The detail of a memory event is short enough to stand whole (R353, R487). -/
theorem memDetail_length : (memDetail a).length = 7 := by simp [memDetail, toLe_length]

/-- A module whose word at an address is poisoned, before its event (R340). -/
def State.withPoison (s : State) (a : Nat) : State := { s with poison := insertNat (eccWord a).1 s.poison }

theorem State.poisonWord_hbm (h : a < 0x6000000000) : s.poisonWord a =
    ((s.withPoison a).markRow (hbmRow a)).event 0x2302 (memIsland a) (memDetail (eccWord a).1) := by
  unfold State.poisonWord
  dsimp only []
  rw [if_pos h]
  rfl

theorem State.poisonWord_sram (h : 0x6000000000 ≤ a) : s.poisonWord a =
    (s.withPoison a).event 0x2302 (memIsland a) (memDetail (eccWord a).1) := by
  unfold State.poisonWord
  dsimp only []
  rw [if_neg (by omega)]
  rfl

/-- The HBM word is poisoned, its 32 bytes as one (R338, R340). -/
theorem State.poisonWord_poison_hbm (h : a < 0x6000000000) : a / 32 * 32 ∈ (s.poisonWord a).poison := by
  have word : (eccWord a).1 = a / 32 * 32 := by rw [eccWord, if_pos h]
  rw [State.poisonWord_hbm h, State.event_poison, State.markRow_frame, ← word]
  exact mem_insertNat_self _ _

/-- The SRAM word is poisoned, its 4 bytes as one (R339, R340). -/
theorem State.poisonWord_poison_sram (h : 0x6000000000 ≤ a) : a / 4 * 4 ∈ (s.poisonWord a).poison := by
  have word : (eccWord a).1 = a / 4 * 4 := by rw [eccWord, if_neg (by omega)]
  rw [State.poisonWord_sram h, State.event_poison, ← word]
  exact mem_insertNat_self _ _

theorem State.poisonWord_logged_hbm (h : a < 0x6000000000) :
    Logged s (s.poisonWord a) 0x2302 (memIsland a) (memDetail (a / 32 * 32)) := by
  have word : (eccWord a).1 = a / 32 * 32 := by rw [eccWord, if_pos h]
  rw [State.poisonWord_hbm h, word, State.markRow_frame]
  exact State.event_logged_since rfl rfl (by rw [memDetail_length]; decide)

theorem State.poisonWord_logged_sram (h : 0x6000000000 ≤ a) :
    Logged s (s.poisonWord a) 0x2302 (memIsland a) (memDetail (a / 4 * 4)) := by
  have word : (eccWord a).1 = a / 4 * 4 := by rw [eccWord, if_neg (by omega)]
  rw [State.poisonWord_sram h, word]
  exact State.event_logged_since rfl rfl (by rw [memDetail_length]; decide)

/-- A line fetched again is logged with its die and address (R338). -/
theorem State.refetchLine_logged {d : Nat} :
    Logged s (s.refetchLine d a) 0x1301 (0x74 + d) (toLe 1 d ++ toLe 6 a) :=
  State.event_logged_since (u := s.addObj 0x303A d 1) rfl rfl (by simp [toLe_length])

end Sys2Proof.Machine

open Sys2Proof Sys2Proof.Machine

/-- Settles O14: each outcome of a scrub by what it notes, poisons or fetches again. -/
theorem scrubsCorrectOrPoison : Obligations.ScrubsCorrectOrPoison := by
  intro s a inv awake
  refine ⟨fun hbm => ?_, fun lo hi => ?_⟩
  · have go (w : WordCheck) : exec (.hbmScrub a w) s = match w with
        | .clean => .next s
        | .correctable => .next (s.noteCorrected a)
        | .uncorrectable => .next (s.poisonWord a) := if_neg (by simpa [awake] using hbm)
    refine ⟨go .clean, ⟨_, go .correctable, ?_, ?_, ?_, ?_⟩, ⟨_, go .uncorrectable, ?_, ?_, ?_⟩⟩
    · exact State.noteCorrected_counts inv.objects hbm
    · rw [State.noteCorrected_frame hbm]
      rfl
    · rw [State.noteCorrected_frame hbm]
      rfl
    · exact State.noteCorrected_lists inv.objects hbm
    · exact State.poisonWord_poison_hbm hbm
    · intro bad
      rw [State.poisonWord_hbm hbm, State.event_faultyRows]
      exact State.mem_markRow (s := s.withPoison a) bad
    · exact State.poisonWord_logged_hbm hbm
  · have go (w : WordCheck) : exec (.sramScrub a w) s = match w with
        | .clean => .next s
        | .correctable => .next (s.noteCorrected a)
        | .uncorrectable =>
          if s.inCacheSegment a then .next (s.refetchLine (sramDie a) a) else .next (s.poisonWord a) :=
      if_neg (by simp [awake, lo, hi])
    have sram : 0x6000000000 ≤ a := by omega
    refine ⟨go .clean, ⟨_, go .correctable, ?_, ?_⟩, fun plain => ⟨s.poisonWord a, ?_, ?_, ?_⟩,
      fun cached => ⟨s.refetchLine (sramDie a) a, ?_, ?_, ?_, ?_, ?_⟩⟩
    · rw [State.noteCorrected_sram sram]
      exact State.obj_counted inv.objects (sramCorrected_max (sramDie_lt hi))
    · rw [State.noteCorrected_sram sram]
      rfl
    · rw [go .uncorrectable, plain]
      rfl
    · exact State.poisonWord_poison_sram sram
    · exact State.poisonWord_logged_sram sram
    · rw [go .uncorrectable, cached]
      rfl
    · exact State.event_poison _ _ _ _
    · exact State.event_caches _ _ _ _
    · exact State.event_mem _ _ _ _
    · exact State.refetchLine_logged
end

section
/-! SUPPORT. Faults that a record's attempt meets, and sheaves that land (O40; R338, R339, R358, R360, R495). -/

namespace Sys2Proof.Machine

variable {s t : State} {c : Core} {p : Plan} {rc : Rec} {q : QRec} {r : Nat}

/-! ### Sheaves -/

/-- A sheaf lands at its engine as the most recently named (R359). -/
def State.sheafNamed (s : State) (e : Fin 8) (j : Nat) : State := { s with sheaves := s.sheaves.set e (nameSheaf j s.sheaves[e]) }

theorem mem_nameSheaf (j : Nat) (l : List Nat) : j ∈ nameSheaf j l := by simp [nameSheaf]

theorem State.mem_sheafNamed (s : State) (e : Fin 8) (j : Nat) : j ∈ (s.sheafNamed e j).sheaves[e] := by
  simp [State.sheafNamed, mem_nameSheaf]

theorem exec_sheafFetch_lands {e : Fin 8} {j : Nat} {w : WordCheck} (hp : s.plan = some p) (hj : j < ceilDiv p.descs.length 64)
    (fine : w ≠ .uncorrectable ∨ j ∉ s.sheaves[e]) : exec (.sheafFetch e j w) s = .next (s.sheafNamed e j) := by
  change execSheafFetch e j w s = _
  unfold execSheafFetch
  rw [hp]
  dsimp only []
  rw [if_neg (by omega), if_neg (by simpa [imp_iff_not_or] using fine)]
  rfl

theorem exec_sheafFetch_again {e : Fin 8} {j : Nat} (hp : s.plan = some p) (hj : j < ceilDiv p.descs.length 64)
    (resident : j ∈ s.sheaves[e]) : exec (.sheafFetch e j .uncorrectable) s =
      .next (State.sheafNamed ((s.addObj 0x303D (e.val / 2) 1).event 0x1401 (0x80 + e.val / 2) []) e j) := by
  change execSheafFetch e j .uncorrectable s = _
  unfold execSheafFetch
  rw [hp]
  dsimp only []
  rw [if_neg (by omega), if_pos (by simpa using resident)]
  rfl

/-- Sheaves fetched again are counted by die, up to 32 bits (R360). -/
theorem sheafRefetch_max (e : Fin 8) : ((objFind 0x303D (e.val / 2)).map (fun o => o.ty.maxValue)).getD 0 = 2 ^ 32 - 1 := by
  have each : ∀ e : Fin 8, ((objFind 0x303D (e.val / 2)).map (fun o => o.ty.maxValue)).getD 0 = 2 ^ 32 - 1 := by decide
  exact each e

/-- Cache lines fetched again are counted by die, up to 32 bits (R338). -/
theorem lineRefetch_max (d : Fin 4) : ((objFind 0x303A d.val).map (fun o => o.ty.maxValue)).getD 0 = 2 ^ 32 - 1 := by
  have each : ∀ d : Fin 4, ((objFind 0x303A d.val).map (fun o => o.ty.maxValue)).getD 0 = 2 ^ 32 - 1 := by decide
  exact each d

/-- A count stands while the event that follows it is logged. -/
theorem State.obj_countedEvent {i j n m k : Nat} {code : BitVec 16} {d : Bytes} (w : Assoc.wf objDefault s.od = true)
    (entry : ((objFind i j).map (fun o => o.ty.maxValue)).getD 0 = m) (other : i ≠ 0x3000) (lt : j < 256) :
    ((s.addObj i j n).event code k d).obj i j = min m (s.obj i j + n) := by
  rw [(State.event_onlyLogs (State.addObj_wf w _ _ _) _ _ _).objects _ _ other lt]
  exact State.obj_counted w entry

/-! ### What a lasting fault leads to -/

/-- An event stands, by its code and island, in a log to which few records are added after it. -/
theorem LogGrows.stands {n : Nat} {code : BitVec 16} {i : Nat} {d : Bytes} (h : LogGrows n (s.event code i d) t)
    (hn : n < 65536) : ∃ e ∈ t.log.recs, e.code = code ∧ e.island = i := by
  obtain ⟨es, he, hl⟩ := h
  rw [State.event_log] at hl
  exact ⟨_, hl ▸ EventLog.mem_foldl_push _ _ _ (by omega), rfl, rfl⟩

/-- The step stands, and at most `n` events are logged. -/
structure LogsOnStep (n : Nat) (s t : State) : Prop where
  step : t.step = s.step
  grows : LogGrows n s t

theorem LogsOnStep.same {n : Nat} (hs : t.step = s.step) (hl : t.log = s.log) : LogsOnStep n s t := ⟨hs, .of_log hl⟩

theorem LogsOnStep.event {code : BitVec 16} {i : Nat} {d : Bytes} (hs : t.step = (s.event code i d).step)
    (hl : t.log = (s.event code i d).log) : LogsOnStep 1 s t where
  step := hs.trans (State.event_step _ _ _ _)
  grows := LogGrows.trans (m := 1) (n := 0) .event (.of_log hl)

theorem LogsOnStep.spareLasting : LogsOnStep 1 s (s.spareLasting c) := by
  unfold State.spareLasting
  split
  · split <;> exact .same rfl rfl
  · split
    · exact .event rfl rfl
    · exact .same rfl rfl

theorem LogsOnStep.declareLost {code : BitVec 16} {i : Nat} {d : Bytes} : LogsOnStep 1 s (s.event code i d).declareLost := by
  obtain ⟨-, -, step, log, -⟩ := State.declareLost_keeps (s.event code i d)
  exact .event step log

/-- What a lasting fault leads to logs one event more, and leaves the step (R498 to R500). -/
theorem LogsOnStep.lastingFault : LogsOnStep 1 s (s.lastingFault c rc) := by
  unfold State.lastingFault
  split
  · exact .declareLost
  · split
    · exact .event rfl rfl
    · exact .spareLasting

/-- A record that fails for good aborts its step with the event of its engine (R495, R496). -/
theorem State.failRecord_aborts {k : FaultKind} {code : BitVec 16} {obj : Nat} (h : lastingOf rc = some (code, obj))
    (live : s.stepLive = true) : (s.failRecord c rc k).step.status = .aborted ∧
      ∃ e ∈ (s.failRecord c rc k).log.recs, e.code = code ∧ e.island = s.engineIsland c rc := by
  have e : s.failRecord c rc k = ((s.addObj obj (s.retryUnit c rc) 1).abortWith code (s.engineIsland c rc)
      (s.faultDetail c rc k)).lastingFault c rc := by
    unfold State.failRecord
    rw [h]
  have after := LogsOnStep.lastingFault (c := c) (rc := rc) (s := (s.addObj obj (s.retryUnit c rc) 1).abortWith code
    (s.engineIsland c rc) (s.faultDetail c rc k))
  rw [e]
  refine ⟨?_, LogGrows.stands (LogGrows.trans .abortStep after.grows) (by decide)⟩
  rw [after.step]
  exact (State.abortStep_status (by simpa [State.stepLive] using live)).1

/-! ### The faults of a record's attempt -/

/-- A record stands started at its engine in the running step of a module that executes (R51, R53). -/
structure Attempted (s : State) (c : Core) (r : Nat) (p : Plan) (rc : Rec) (q : QRec) : Prop where
  awake : s.awake = true
  running : s.step.status = .running
  plan : s.plan = some p
  inFlight : s.qrec c r = some q
  record : p.recAt c r = some rc
  started : q.phase = .started

theorem exec_recordFault_state (h : Attempted s c r p rc q) {i : Fin 4} (fits : faultFits (.engineState i) rc = true) :
    exec (.recordFault c r (.engineState i)) s = .next (s.attemptFault p c rc q (.engineState i)) := by
  change execRecordFault c r _ s = _
  unfold execRecordFault
  rw [h.plan, h.inFlight]
  dsimp only []
  rw [h.record]
  exact if_neg (by simp [h.awake, h.running, fits, faultMeets, h.started])

theorem exec_recordFault_line (h : Attempted s c r p rc q) {a : BitVec 48} (fits : faultFits (.cacheLine a) rc = true) :
    exec (.recordFault c r (.cacheLine a)) s =
      if s.lineIn (coreDie c) a.toNat then .next (s.refetchLine (coreDie c).val a.toNat) else .next s := by
  change execRecordFault c r _ s = _
  unfold execRecordFault
  rw [h.plan, h.inFlight]
  dsimp only []
  rw [h.record]
  exact if_neg (by simp [h.awake, h.running, fits, faultMeets, h.started])

theorem exec_recordFault_corrected (h : Attempted s c r p rc q) {a : BitVec 48} {w : Nat}
    (fits : faultFits (.corrected a) rc = true) (hw : s.phys a.toNat = some w) :
    exec (.recordFault c r (.corrected a)) s = .next (s.noteCorrected w) := by
  change execRecordFault c r _ s = _
  unfold execRecordFault
  rw [h.plan, h.inFlight]
  dsimp only []
  rw [h.record]
  refine (if_neg (by simp [h.awake, h.running, fits, faultMeets, h.started])).trans ?_
  rw [hw]

/-- A state fault fits a record of an engine with state, in an array of its own (R163, R172). -/
theorem faultFits_state {i : Fin 4} (engine : rc.engine ∈ [(1 : Fin 16), 2, 3, 4, 6])
    (own : rc.engine = 1 → rc.units.toNat.testBit i.val = true) : faultFits (.engineState i) rc = true := by
  have array : rc.engine = 1 → i ∈ rc.arrays := fun e => by simp [Rec.arrays, indices, own e]
  simp only [List.mem_cons, List.not_mem_nil, or_false] at engine
  obtain e | e | e | e | e := engine
  · simp [faultFits, e, FaultKind.array, array e]
  all_goals simp [faultFits, e]

/-- A dense record with units has a lowest array, in which a fault that names none is met (R172). -/
theorem faultFits_unnamed {k : FaultKind} (units : rc.engine = 1 → rc.units ≠ 0)
    (none : (∃ a, k = .cacheLine a) ∨ ∃ a, k = .corrected a) : faultFits k rc = true := by
  have array (e : rc.engine = 1) : (rc.arrays.head?).getD 0 ∈ rc.arrays := by
    have some_bit : ∀ u : BitVec 4, u ≠ 0 → (indices 4).filter (fun a => u.toNat.testBit a.val) ≠ [] := by decide
    have nonempty : rc.arrays ≠ [] := some_bit rc.units (units e)
    cases h : rc.arrays with
    | nil => exact absurd h nonempty
    | cons a l => simp
  have fits : (rc.engine ≠ 1 || rc.arrays.contains ((rc.arrays.head?).getD 0)) = true := by
    by_cases e : rc.engine = 1
    · simpa [e] using array e
    · simp [e]
  obtain ⟨a, rfl⟩ | ⟨a, rfl⟩ := none
  · simpa [faultFits, FaultKind.array] using fits
  · simpa [faultFits, FaultKind.array] using fits

/-- The first failure of an attempt is noted with its record, which starts again (R495). -/
theorem State.attemptFault_first {k : FaultKind} (engine : rc.engine.val < 7) (h : q.phase = .started) (first : q.failed = none) :
    s.attemptFault p c rc q k =
      s.modQRec c rc.recno (fun q => { q with failed := some (transientCode rc k, s.faultDetail c rc k) }) := by
  unfold State.attemptFault
  rw [if_neg (by omega), if_neg (by simp [h]), if_neg (by simp [first])]

/-- A second failure is lasting (R495). -/
theorem State.attemptFault_second {k : FaultKind} (engine : rc.engine.val < 7) (h : q.phase = .started) (again : q.failed ≠ none) :
    s.attemptFault p c rc q k = s.failRecord c rc k := by
  unfold State.attemptFault
  rw [if_neg (by omega), if_neg (by simp [h]), if_pos (by simpa [Option.isSome_iff_ne_none] using again)]

end Sys2Proof.Machine

open Sys2Proof Sys2Proof.Machine

/-- Settles O40: a sheaf lands or is fetched again; a fault of an attempt is noted the first time and lasting the second; a
line is fetched again and a corrected word counted. -/
theorem firstFaultsAreRetried : Obligations.FirstFaultsAreRetried := by
  intro s p inv hp
  refine ⟨fun e j w hj => ⟨exec_sheafFetch_lands hp hj, ?_⟩, ?_⟩
  · rintro rfl resident
    refine ⟨_, exec_sheafFetch_again hp hj resident, State.mem_sheafNamed _ e j, State.event_mem _ _ _ _, ?_, ?_⟩
    · exact State.obj_countedEvent inv.objects (sheafRefetch_max e) (by decide) (by omega)
    · exact State.event_logged_since (u := s.addObj 0x303D (e.val / 2) 1) rfl rfl (by simp)
  · intro c r q rc awake running inFlight record number started
    have attempted : Attempted s c r p rc q := ⟨awake, running, hp, inFlight, record, started⟩
    refine ⟨fun i engine own => ?_, fun a units => ⟨fun line => ?_, fun away => ?_, fun w hw hbm => ?_⟩⟩
    · intro k
      have go := exec_recordFault_state attempted (faultFits_state engine own)
      have below : rc.engine.val < 7 := by
        simp only [List.mem_cons, List.not_mem_nil, or_false] at engine
        obtain e | e | e | e | e := engine <;> rw [e] <;> decide
      refine ⟨fun first => ?_, fun again code obj lasting => ?_⟩
      · rw [State.attemptFault_first below started first, number] at go
        refine ⟨_, go, rfl, rfl, rfl, (State.modQRec_qrec ?_).trans (by rw [inFlight]; rfl)⟩
        exact fun _ => rfl
      · rw [State.attemptFault_second below started again] at go
        exact ⟨_, go, State.failRecord_aborts lasting (by simp [State.stepLive, running])⟩
    · have go := exec_recordFault_line attempted (faultFits_unnamed units (.inl ⟨a, rfl⟩))
      rw [if_pos line] at go
      exact ⟨_, go, State.event_mem _ _ _ _, State.event_step _ _ _ _, State.event_caches _ _ _ _,
        State.obj_countedEvent inv.objects (lineRefetch_max _) (by decide) (by omega)⟩
    · have go := exec_recordFault_line attempted (faultFits_unnamed units (.inl ⟨a, rfl⟩))
      rwa [if_neg (by simp [away])] at go
    · refine ⟨_, exec_recordFault_corrected attempted (faultFits_unnamed units (.inr ⟨a, rfl⟩)) hw, ?_, ?_,
        State.noteCorrected_counts inv.objects hbm⟩
      · rw [State.noteCorrected_frame hbm]
        rfl
      · rw [State.noteCorrected_frame hbm]
        rfl
end

section
/-! SUPPORT. RDMA on shared windows (O44; R452 to R454, R459): what a queue pair's answers change, what a written run of HBM
reads as, and one equation for each outcome of an operation. -/

namespace Sys2Proof.Machine

variable {s t u : State}

/-! ### Runs of HBM -/

theorem State.bytes_eq (s : State) (a n : Nat) : s.bytes a n = (List.range n).map (fun i => s.byte (a + i)) := by
  induction n generalizing a with
  | zero => rfl
  | succ n ih =>
    rw [State.bytes, ih, List.range_succ_eq_map, List.map_cons, List.map_map]
    simp [Function.comp_def, Nat.add_assoc, Nat.add_comm 1]

theorem State.phys_hbm {a : Nat} (h : a < 0x6000000000) : s.phys a = some a := if_pos h

theorem State.byte_hbm {a : Nat} (h : a < 0x6000000000) : s.byte a = memRead s.mem a := by
  rw [State.byte, State.phys_hbm h]

theorem OnlyScalars.addObj {i j n : Nat} : OnlyScalars s (s.addObj i j n) := rfl

/-- Only memory, with its poison, its cached lines and its counts, has changed. -/
def OnlyCells (s t : State) : Prop := t = { s with mem := t.mem, poison := t.poison, caches := t.caches, od := t.od }

theorem OnlyCells.writeRun {a : Nat} {b : Bytes} : OnlyCells s (s.writeRun a b) := by
  have counts (u : State) (l : List Nat) : OnlyScalars u (l.foldl (fun s w => s.addObj 0x3037 (hbmDecode w).1 1) u) :=
    .foldl (f := fun s w => s.addObj 0x3037 (hbmDecode w).1 1) (fun _ _ => .addObj) l
  unfold State.writeRun
  dsimp only []
  split
  · exact rfl
  · split
    · rw [OnlyCells, counts]
    · exact rfl

/-- A run written to HBM reads back (R336). -/
theorem State.bytes_writeRun {a : Nat} {b : Bytes} (w : Memory.wf s.mem = true) (h : a + b.length ≤ 0x6000000000) :
    (s.writeRun a b).bytes a b.length = b := by
  rw [State.bytes_eq]
  refine List.ext_getElem (by simp) fun i hi lt => ?_
  have place : a < 0x6000000000 := by omega
  rw [List.getElem_map, List.getElem_range, State.byte_hbm (by omega), State.writeRun_mem, State.phys_hbm place]
  change memRead (memWrite s.mem a b) (a + i) = b[i]
  rw [memRead_memWrite a b (a + i) w, if_pos (by omega), Nat.add_sub_cancel_left, List.getD_eq_getElem _ _ lt]

/-- A run written to HBM leaves every other byte of memory. -/
theorem State.memRead_writeRun_other {a x : Nat} {b : Bytes} (w : Memory.wf s.mem = true) (h : a + b.length ≤ 0x6000000000)
    (out : x < a ∨ a + b.length ≤ x) : memRead (s.writeRun a b).mem x = memRead s.mem x := by
  by_cases place : a < 0x6000000000
  · rw [State.writeRun_mem, State.phys_hbm place]
    exact memRead_memWrite_other a b x w out
  · have none : b = [] := List.eq_nil_of_length_eq_zero (by omega)
    rw [State.writeRun_mem, none]
    cases s.phys a <;> rfl

/-! ### Stacks out of service -/

/-- A run that no stack out of service holds lies byte by byte on stacks in service (R28, R347). -/
theorem State.stackOut_byte {a n i : Nat} (h : s.stackOut a n = none) (top : a + n ≤ 0x6000000000) (lt : i < n) :
    s.stackOut (a + i) 1 = none := by
  unfold State.stackOut at h ⊢
  by_cases calm : (indices 8).all (fun h => !s.isFenced (0x40 + h.val)) = true
  · rw [if_pos (by simp [calm])]
  · rw [if_neg (by simp [calm]; omega)] at h ⊢
    rw [List.find?_eq_none] at h ⊢
    intro x hx
    simp only [List.mem_map, List.mem_range] at hx
    obtain ⟨k, hk, rfl⟩ := hx
    refine h _ (List.mem_map.2 ⟨(a + i) / 4096 - a / 4096, List.mem_range.2 (by omega), ?_⟩)
    rw [show a / 4096 + ((a + i) / 4096 - a / 4096) = (a + i) / 4096 + k by omega]

/-- The bytes of an RDMA READ are those of memory, where no word is poisoned and no stack is off (R340, R454). -/
theorem State.rdmaBytes_plain {a n : Nat} (sound : ∀ i, i < n → s.poisoned (a + i) 1 = false) (top : a + n ≤ 0x6000000000)
    (on : s.stackOut a n = none) : s.rdmaBytes a n = s.bytes a n := by
  rw [State.bytes_eq]
  refine List.map_congr_left fun i hi => ?_
  have lt := List.mem_range.1 hi
  unfold State.byteFor
  rw [if_neg (by simp [sound i lt, State.stackOut_byte on top lt])]

/-! ### Queue pairs -/

/-- A module that has answered a packet's ECN mark (R452). -/
def State.marked (s : State) (q : Packet) : State := { s with out := s.out ++ (if q.ecn then [.cnp q.qp] else []) }

theorem State.noteMark_eq (s : State) (q : Packet) : s.noteMark q = s.marked q := by
  unfold State.noteMark State.marked
  split
  · rfl
  · simp

theorem chunksOf_length_flatten {α : Type} {n : Nat} (pos : 0 < n) {f : List α → List α} (len : ∀ e, (f e).length = e.length)
    {fuel : Nat} {l : List α} (h : l.length ≤ fuel) : ((chunksOf n fuel l).map f).flatten.length = l.length := by
  induction fuel generalizing l with
  | zero =>
    have none : l = [] := List.eq_nil_of_length_eq_zero (by omega)
    simp [none, chunksOf]
  | succ fuel ih =>
    cases l with
    | nil => rfl
    | cons x l =>
      have rest := ih (l := (x :: l).drop n) (by simp at h ⊢; omega)
      simp only [chunksOf, List.isEmpty_cons, Bool.false_eq_true, if_false, List.map_cons, List.flatten_cons,
        List.length_append, len, rest]
      simp
      omega

/-- Chunks whose contents change and whose lengths stand are the chunks of what they make together. -/
theorem chunksOf_flatten_map {α : Type} {n : Nat} (pos : 0 < n) {f : List α → List α} (len : ∀ e, (f e).length = e.length)
    (fuel : Nat) (l : List α) : chunksOf n fuel ((chunksOf n fuel l).map f).flatten = (chunksOf n fuel l).map f := by
  induction fuel generalizing l with
  | zero => rfl
  | succ fuel ih =>
    cases l with
    | nil => rfl
    | cons x l =>
      have first : (f ((x :: l).take n)).length = min n (l.length + 1) := by rw [len, List.length_take, List.length_cons]
      have some_first : f ((x :: l).take n) ≠ [] := by
        intro e
        rw [e, List.length_nil] at first
        omega
      have cuts (r : List α) : chunksOf n (fuel + 1) (f ((x :: l).take n) ++ r) =
          (f ((x :: l).take n) ++ r).take n :: chunksOf n fuel ((f ((x :: l).take n) ++ r).drop n) :=
        if_neg (by simp [some_first])
      have parts : chunksOf n (fuel + 1) (x :: l) = (x :: l).take n :: chunksOf n fuel ((x :: l).drop n) := rfl
      rw [parts, List.map_cons, List.flatten_cons, cuts]
      by_cases full : n ≤ l.length + 1
      · have whole : (f ((x :: l).take n)).length = n := by omega
        rw [List.take_left' whole, List.drop_left' whole, ih]
      · have past : (x :: l).drop n = [] := List.drop_eq_nil_of_le (by simp; omega)
        have none : chunksOf n fuel ([] : List α) = [] := by cases fuel <;> rfl
        have all : (f ((x :: l).take n)).length ≤ n := by omega
        rw [past, none, List.map_nil, List.flatten_nil, List.append_nil, List.take_of_length_le all,
          List.drop_eq_nil_of_le all, none]

/-- The entry of a queue pair that enters the error state (R454). -/
def qpFailed (qp : Nat) (e : Bytes) : Bytes := if qpReady qp e then e.set 2 2 else e

theorem qpFailed_length (qp : Nat) (e : Bytes) : (qpFailed qp e).length = e.length := by
  unfold qpFailed
  split <;> simp

/-- A queue pair in the error state is not ready (R452). -/
theorem qpFailed_unready (qp : Nat) (e : Bytes) : qpReady qp (qpFailed qp e) = false := by
  unfold qpFailed
  split
  · next ready =>
    match e with
    | [] | [_] | [_, _] => simp [qpReady, fieldAt, slice, leNat] at ready
    | _ :: _ :: _ :: _ => simp [qpReady, fieldAt, slice, leNat]
  · next h => simpa using h

theorem State.qpFails_entries (s : State) (qp : Nat) : (s.qpFails qp).qpEntries = s.qpEntries.map (qpFailed qp) := by
  have blob : (s.qpFails qp).blob 0x1103 0 0 = (s.qpEntries.map (qpFailed qp)).flatten := by
    simp only [State.blob, State.qpFails, lookupKey_setKey_self, Option.getD_some]
    rfl
  have len := chunksOf_length_flatten (n := 32) (by decide) (qpFailed_length qp) (Nat.le_refl (s.blob 0x1103 0 0).length)
  unfold State.qpEntries at blob ⊢
  rw [blob]
  unfold chunked
  rw [len]
  exact chunksOf_flatten_map (by decide) (qpFailed_length qp) _ _

/-- A refused operation is answered, and its queue pair is no longer ready (R454). -/
theorem State.rdmaRefuse_unready (s : State) (qp : Nat) : ∀ e ∈ (s.rdmaRefuse qp).qpEntries, qpReady qp e = false := by
  intro e he
  have entries : (s.rdmaRefuse qp).qpEntries = (s.addObj 0x304A 0 1).qpEntries.map (qpFailed qp) :=
    State.qpFails_entries (s.addObj 0x304A 0 1) qp
  rw [entries] at he
  obtain ⟨x, -, rfl⟩ := List.mem_map.1 he
  exact qpFailed_unready qp x

/-- A refused operation changes no memory and is answered with an error (R454). -/
theorem State.rdmaRefuse_keeps (s : State) (qp : Nat) : (s.rdmaRefuse qp).mem = s.mem ∧
    (s.rdmaRefuse qp).out = s.out ++ [.rdma qp .nakAccess] ∧ (s.rdmaRefuse qp).fenceErrors = s.fenceErrors := by
  simp [State.rdmaRefuse, State.rdmaReply, State.qpFails]

/-- A refused operation is counted (R454). -/
theorem State.rdmaRefuse_counts (w : Assoc.wf objDefault s.od = true) (qp : Nat) :
    (s.rdmaRefuse qp).obj 0x304A 0 = min (2 ^ 32 - 1) (s.obj 0x304A 0 + 1) :=
  State.obj_counted (i := 0x304A) (j := 0) w (by decide)

theorem State.rdmaFenced_on {qp a n : Nat} (h : s.stackOut a n = none) : s.rdmaFenced qp a n t = t := by
  rw [State.rdmaFenced, h]

theorem State.rdmaFenced_off {qp a n o : Nat} (h : s.stackOut a n = some o) :
    s.rdmaFenced qp a n t = (s.fenceHit 0x70 o).rdmaRefuse qp := by
  rw [State.rdmaFenced, h]

/-- An operation on a stack out of service is answered with an error and counted at the fence (R28, R347). -/
theorem State.rdmaFenced_shows {qp a n o : Nat} (h : s.stackOut a n = some o) : (s.rdmaFenced qp a n t).mem = s.mem ∧
    (s.rdmaFenced qp a n t).out = s.out ++ [.rdma qp .nakAccess] ∧
    lookupKey o (s.rdmaFenced qp a n t).fenceErrors = some ((lookupKey o s.fenceErrors).getD 0 + 1) := by
  rw [State.rdmaFenced_off h]
  obtain ⟨mem, out, fences⟩ := State.rdmaRefuse_keeps (s.fenceHit 0x70 o) qp
  have counted := (State.fenceHit_counts (s := s) (i := 0x70) (j := o)).1
  exact ⟨mem, out, by rw [fences, counted]⟩

/-- Poisoned words that are read are counted, and no more (R338, R340). -/
theorem OnlyScalars.notePoisonRead {a n : Nat} : OnlyScalars s (s.notePoisonRead a n) :=
  .foldl (fun _ _ => by
    unfold State.noteUncorrectable
    split
    · exact .addObj
    · exact .addObj) _

/-- No record starts outside a running step (R53). -/
theorem State.startAll_still (h : s.step.status ≠ .running) : s.startAll = s := by
  unfold State.startAll
  split
  · rfl
  · exact if_pos h

/-! ### Operations -/

/-- A module that has read a run for an RDMA READ, its poisoned words counted (R340, R454). -/
def State.rdmaTook (s : State) (a n : Nat) : State := { s.notePoisonRead a n with freeCount := s.freeCount + 1 }

theorem SameReads.rdmaReply (qp : Nat) (r : RdmaReply) : SameReads s (s.rdmaReply qp r) := ⟨fun _ => rfl, rfl⟩

theorem State.rdmaTook_shows (qp a n : Nat) (b : Bytes) : ((s.rdmaTook a n).rdmaReply qp (.data b)).mem = s.mem ∧
    ((s.rdmaTook a n).rdmaReply qp (.data b)).step = s.step ∧
    ((s.rdmaTook a n).rdmaReply qp (.data b)).out = s.out ++ [.rdma qp (.data b)] := by
  have only : OnlyScalars s (s.notePoisonRead a n) := .notePoisonRead
  rw [State.rdmaTook, only]
  exact ⟨rfl, rfl, rfl⟩

theorem State.writeRun_answered (qp a : Nat) (b : Bytes) (r : RdmaReply) : ((s.writeRun a b).rdmaReply qp r).out = s.out ++ [.rdma qp r] ∧
    ((s.writeRun a b).rdmaReply qp r).step = s.step ∧ ((s.writeRun a b).rdmaReply qp r).cores = s.cores := by
  have only : OnlyCells s (s.writeRun a b) := .writeRun
  rw [State.rdmaReply, only]
  exact ⟨rfl, rfl, rfl⟩

section Ops
variable {q : Packet} {key : BitVec 32} {va n : Nat} {b : Bytes} {p : Plan} {w : Window} (serves : s.qpServes q.qp = true)
include serves

theorem exec_rdmaUnsupported_served (op : BitVec 8) :
    exec (.rdmaUnsupported q op) s = .next ((s.marked q).rdmaReply q.qp .nakInvalid) := by
  simp only [State.qpServes, Bool.and_eq_true] at serves
  obtain ⟨on, -⟩ := serves
  rw [← State.noteMark_eq]
  exact if_pos (by simp [on])

theorem exec_rdmaRead_unkeyed (h : s.keyWindow key = none) :
    exec (.rdmaRead q key va n) s = .next ((s.marked q).rdmaRefuse q.qp) := by
  have window : (s.marked q).keyWindow key = none := h
  change execRdmaRead q key va n s = _
  unfold execRdmaRead
  rw [if_neg (by simp [serves]), State.noteMark_eq]
  dsimp only []
  rw [window]

theorem exec_rdmaRead_slot (h : s.keyWindow key = some (p, w)) (slot : s.inHostSlot p w va n = true) :
    exec (.rdmaRead q key va n) s = .next ((s.marked q).rdmaFenced q.qp (p.winBase w + va) n
      (((s.marked q).rdmaTook (p.winBase w + va) n).rdmaReply q.qp (.data (s.rdmaBytes (p.winBase w + va) n)))) := by
  have window : (s.marked q).keyWindow key = some (p, w) := h
  have inSlot : (s.marked q).inHostSlot p w va n = true := slot
  change execRdmaRead q key va n s = _
  unfold execRdmaRead
  rw [if_neg (by simp [serves]), State.noteMark_eq]
  dsimp only []
  rw [window]
  exact if_pos (by simp [inSlot])

theorem exec_rdmaWrite_slot (h : s.keyWindow key = some (p, w)) (slot : s.inHostSlot p w va b.length = true) :
    exec (.rdmaWrite q key va b) s = .next ((s.marked q).rdmaFenced q.qp (p.winBase w + va) b.length
      (((s.marked q).writeRun (p.winBase w + va) b).rdmaReply q.qp .ack)) := by
  have window : (s.marked q).keyWindow key = some (p, w) := h
  change execRdmaWrite q key va b s = _
  unfold execRdmaWrite
  rw [if_neg (by simp [serves]), State.noteMark_eq]
  dsimp only []
  rw [window]
  exact if_pos slot

theorem exec_rdmaWrite_elsewhere (h : s.keyWindow key = some (p, w)) (slot : s.inHostSlot p w va b.length = false) :
    exec (.rdmaWrite q key va b) s = .next ((s.marked q).rdmaRefuse q.qp) := by
  have window : (s.marked q).keyWindow key = some (p, w) := h
  have inSlot : (s.marked q).inHostSlot p w va b.length = false := slot
  change execRdmaWrite q key va b s = _
  unfold execRdmaWrite
  rw [if_neg (by simp [serves]), State.noteMark_eq]
  dsimp only []
  rw [window]
  exact if_neg (by simp [inSlot])

/-- A module that has swapped a flag word and answered with what it was (R453). -/
def State.swapped (s : State) (q : Packet) (a : Nat) (cmp swp : BitVec 64) : State :=
  ((s.marked q).writeRun a (toLe 8 swp.toNat)).rdmaReply q.qp (.atomic cmp)

section Flag
variable {k : Nat} {cmp swp : BitVec 64} (window : s.keyWindow key = some (p, w)) (flag : w.flagAt va = some k)
  (on : s.stackOut (p.winBase w + va) 8 = none)
include window flag on

/-- A compare-and-swap on the flag word of a slot whose stack is in service (R453, R459). -/
theorem exec_rdmaCompareSwap_flag : exec (.rdmaCompareSwap q key va cmp swp) s =
      if s.word (p.winBase w + va) 8 ≠ cmp.toNat then
        .next ((s.marked q).rdmaReply q.qp (.atomic (BitVec.ofNat 64 (s.word (p.winBase w + va) 8))))
      else if flipOk (s.word (p.winBase w + va) 8) swp.toNat then
        .next (s.swapped q (p.winBase w + va) (BitVec.ofNat 64 (s.word (p.winBase w + va) 8)) swp).startAll
      else .next ((s.marked q).rdmaRefuse q.qp) := by
  have window : (s.marked q).keyWindow key = some (p, w) := window
  have on : (s.marked q).stackOut (p.winBase w + va) 8 = none := on
  change execRdmaCompareSwap q key va cmp swp s = _
  unfold execRdmaCompareSwap
  rw [if_neg (by simp [serves]), State.noteMark_eq]
  dsimp only []
  rw [window]
  dsimp only []
  rw [flag]
  exact if_neg (by simp [on])

theorem exec_rdmaCompareSwap_differs (h : s.word (p.winBase w + va) 8 ≠ cmp.toNat) :
    exec (.rdmaCompareSwap q key va cmp swp) s =
      .next ((s.marked q).rdmaReply q.qp (.atomic (BitVec.ofNat 64 (s.word (p.winBase w + va) 8)))) :=
  (exec_rdmaCompareSwap_flag serves window flag on).trans (if_pos h)

theorem exec_rdmaCompareSwap_flips (h : s.word (p.winBase w + va) 8 = cmp.toNat) (ok : flipOk cmp.toNat swp.toNat = true) :
    exec (.rdmaCompareSwap q key va cmp swp) s = .next (s.swapped q (p.winBase w + va) cmp swp).startAll := by
  rw [exec_rdmaCompareSwap_flag serves window flag on, if_neg (not_not.2 h), h, if_pos ok, BitVec.ofNat_toNat,
    BitVec.setWidth_eq]

theorem exec_rdmaCompareSwap_refuses (h : s.word (p.winBase w + va) 8 = cmp.toNat) (bad : flipOk cmp.toNat swp.toNat = false) :
    exec (.rdmaCompareSwap q key va cmp swp) s = .next ((s.marked q).rdmaRefuse q.qp) := by
  rw [exec_rdmaCompareSwap_flag serves window flag on, if_neg (not_not.2 h), h, if_neg (by simp [bad])]

end Flag

end Ops

/-- A mark that is answered changes what is sent alone. -/
theorem SameStore.marked (q : Packet) : SameStore s (s.marked q) := ⟨rfl, rfl, rfl⟩

end Sys2Proof.Machine

open Sys2Proof Sys2Proof.Machine

/-- Settles O44: each operation by what its answer leaves. -/
theorem rdmaServesHostSlots : Obligations.RdmaServesHostSlots := by
  refine ⟨fun s q inv serves => ?_, fun s q key va p w k cmp swp serves window flag => ?_⟩
  · intro marked
    refine ⟨exec_rdmaUnsupported_served serves, fun key va p w window => ⟨?_, ?_, ?_, ?_, ?_⟩, fun key va n none => ?_⟩
    · intro n slot sound top on
      have go := exec_rdmaRead_slot serves window slot
      rw [State.rdmaFenced_on (s := s.marked q) on, State.rdmaBytes_plain sound top on] at go
      exact ⟨_, go, State.rdmaTook_shows (s := s.marked q) _ _ _ _⟩
    · intro n o slot off
      have go := exec_rdmaRead_slot serves window slot
      obtain ⟨mem, out, counted⟩ := State.rdmaFenced_shows (s := s.marked q) off
      exact ⟨_, go, mem, out, counted⟩
    · intro b o slot off
      have go := exec_rdmaWrite_slot serves window slot
      obtain ⟨mem, out, counted⟩ := State.rdmaFenced_shows (s := s.marked q) off
      exact ⟨_, go, mem, out, counted⟩
    · intro b slot top on
      have go := exec_rdmaWrite_slot serves window slot
      rw [State.rdmaFenced_on (s := s.marked q) on] at go
      obtain ⟨out, step, cores⟩ := State.writeRun_answered (s := s.marked q) q.qp (p.winBase w + va) b .ack
      exact ⟨_, go, out, ((SameReads.rdmaReply _ _).bytes _ _).trans (State.bytes_writeRun (s := s.marked q) inv.memory top),
        fun a => State.memRead_writeRun_other (s := s.marked q) inv.memory top, step, cores⟩
    · intro b slot
      obtain ⟨mem, out, -⟩ := State.rdmaRefuse_keeps (s.marked q) q.qp
      exact ⟨_, exec_rdmaWrite_elsewhere serves window slot, mem, out, State.rdmaRefuse_counts (s := s.marked q) inv.objects _,
        State.rdmaRefuse_unready _ _⟩
    · obtain ⟨mem, out, -⟩ := State.rdmaRefuse_keeps (s.marked q) q.qp
      exact ⟨_, exec_rdmaRead_unkeyed serves none, mem, out⟩
  · intro marked a on
    refine ⟨exec_rdmaCompareSwap_differs serves window flag on, fun same ok => ?_, fun same bad => ?_⟩
    · obtain ⟨out, step, cores⟩ := State.writeRun_answered (s := s.marked q) q.qp a (toLe 8 swp.toNat) (.atomic cmp)
      exact ⟨_, exec_rdmaCompareSwap_flips serves window flag on same ok, (SameStore.marked q).writeRun.mem, step, cores, out,
        fun still => State.startAll_still (by rw [State.swapped, step]; exact still)⟩
    · obtain ⟨mem, out, -⟩ := State.rdmaRefuse_keeps (s.marked q) q.qp
      exact ⟨_, exec_rdmaCompareSwap_refuses serves window flag on same bad, mem, out⟩
end

section
/-! SUPPORT. Accepted writes (O47; R470): a write runs what its entry does, and what each of those that start something
leaves. -/

namespace Sys2Proof.Machine

variable {s : State} {q : Req}

/-! ### An accepted write -/

/-- An accepted write runs its entry's effect and is answered `OK` (R470, R492, R493). -/
theorem State.serve_write {effect : State → State} (h : Accepted s q) (op : q.op = 2)
    (runs : ((s.touch q.src).noteUnchecked q).applyWrite q = effect ((s.touch q.src).noteUnchecked q)) :
    s.serve q = .next (s.wrote q effect) := by
  have write : (s.touch q.src).perform q = (s.touch q.src).execWrite q := by simp [State.perform, op]
  rw [State.serve_accepted h, write]
  unfold State.execWrite State.wrote
  rw [runs]

/-- Noting an unchecked write leaves the counter and the time. -/
theorem State.noteUnchecked_keeps (s : State) (q : Req) : (s.noteUnchecked q).gc = s.gc ∧ (s.noteUnchecked q).uptime = s.uptime := by
  unfold State.noteUnchecked
  split
  · exact ⟨State.event_gc _ _ _ _, State.event_uptime _ _ _ _⟩
  · exact ⟨rfl, rfl⟩

/-- A freeze that is requested comes 1,000 ticks after the request (R510). -/
theorem State.applyWrite_freeze {src : Source} {h : FrameHead} {v : Byte} :
    let q := frameOf src h 2 0x3F00 1 [v]
    ((s.touch q.src).noteUnchecked q).applyWrite q =
      ((s.touch q.src).noteUnchecked q).freezeAt (s.gc.value + 1000) (v.toNat = 2) false 2 s.uptime := by
  intro q
  obtain ⟨gc, uptime⟩ := State.noteUnchecked_keeps (s.touch q.src) q
  have e : ((s.touch q.src).noteUnchecked q).applyWrite q =
      ((s.touch q.src).noteUnchecked q).freezeAt (((s.touch q.src).noteUnchecked q).gc.value + 1000) (q.value = 2) false 2
        ((s.touch q.src).noteUnchecked q).uptime := rfl
  have value : q.value = v.toNat := by simp [q, frameOf, Req.value, leNat]
  rw [e, gc, uptime, value]
  rfl

/-! ### What starts something -/

/-- A scalar reads as it was set. -/
theorem State.obj_setObj_self (w : Assoc.wf objDefault s.od = true) (i j v : Nat) : (s.setObj i j v).obj i j = v := by
  rw [State.obj_setObj w, if_pos rfl]

/-- A launch is armed at its count for the step set, the agreement new and unlocked (R440). -/
theorem State.armLaunch_shows (w : Assoc.wf objDefault s.od = true) (n : Nat) :
    (s.armLaunch n).agree = { AgreeState.initial with hostLaunch := some ⟨s.obj 0x2A04 1, n, 0, false⟩ } ∧
      (s.armLaunch n).stageLock = false ∧ (s.armLaunch n).obj 0x2A04 0 = n ∧ (s.armLaunch n).step = s.step := by
  have step : (s.setObj 0x2A04 0 n).obj 0x2A04 1 = s.obj 0x2A04 1 := by
    rw [State.obj_setObj w, if_neg (by decide)]
  refine ⟨?_, rfl, State.obj_setObj_self w 0x2A04 0 n, rfl⟩
  rw [← step]
  rfl

theorem mem_addNew {α : Type} [DecidableEq α] {a : α} {l new : List α} (h : a ∈ l ∨ a ∈ new) : a ∈ addNew l new := by
  unfold addNew
  induction new generalizing l with
  | nil => simpa using h
  | cons x new ih =>
    refine ih ?_
    simp only [List.mem_cons] at h
    by_cases known : x ∈ l
    · simp only [List.contains_iff_mem.2 known, if_true]
      obtain h | rfl | h := h
      · exact .inl h
      · exact .inl known
      · exact .inr h
    · obtain h | rfl | h := h
      · simp [known, h]
      · simp [known]
      · exact .inr h

/-- A scan runs on the stacks of its mask (R349). -/
theorem State.startMargin_shows (w : Assoc.wf objDefault s.od = true) {n : Nat} (some_stack : n % 256 ≠ 0) :
    (s.startMargin n).obj 0x2708 1 = 1 ∧ (∀ h : Stack, n.testBit h.val = true → h ∈ (s.startMargin n).marginScan) ∧
      (s.startMargin n).mem = s.mem := by
  have nonempty : (indices 8).filter (fun (h : Stack) => n.testBit h.val) ≠ [] := by
    intro none
    refine some_stack (Nat.eq_of_testBit_eq fun i => ?_)
    rw [show 256 = 2 ^ 8 from rfl, Nat.testBit_mod_two_pow, Nat.zero_testBit]
    by_cases lt : i < 8
    · have clear := List.filter_eq_nil_iff.1 none ⟨i, lt⟩ (List.mem_finRange _)
      simpa [lt] using clear
    · simp [lt]
  have e : s.startMargin n = ({ s with marginScan := addNew s.marginScan ((indices 8).filter (fun (h : Stack) =>
      n.testBit h.val)) }).setObj 0x2708 1 1 := if_neg (by simpa using nonempty)
  rw [e]
  refine ⟨State.obj_setObj_self w 0x2708 1 1, fun h bit => mem_addNew (.inr ?_), rfl⟩
  simp [indices, bit]

/-- A cleared log holds the one record of its clearing (R490, R494). -/
theorem State.clearLog_shows (s : State) : ∃ e, s.clearLog.log.recs = [e] ∧ e.code = 0x7103 ∧ e.seq = s.log.nextSeq ∧
    e.detail = toLe 4 s.log.recs.length := by
  unfold State.clearLog State.mgmtEvent
  dsimp only []
  rw [State.event_log]
  exact ⟨_, rfl, rfl, rfl, List.take_of_length_le (by simp [toLe_length])⟩

/-- A fused entry is added to the slot for good (R539). -/
theorem State.fuse_shows (s : State) (k : Option (BitVec 256)) : (s.fuse k).nv.fuses = s.nv.fuses ++ [k] ∧
    Logged s (s.fuse k) 0x7205 s.mgmtIsland [if k.isSome then 1 else 2] := by
  refine ⟨?_, State.event_logged_since (u := { s with nv := { s.nv with fuses := s.nv.fuses ++ [k] } }) rfl rfl (by simp)⟩
  rw [State.fuse, State.mgmtEvent_nv]

/-- A freeze of a running module is set at its count and depth, with its cause shown (R510). -/
theorem State.freezeAt_run (w : Assoc.wf objDefault s.od = true) (run : s.freeze.st = .run) (c : Nat) (full pin : Bool)
    (cause g : Nat) : (s.freezeAt c full pin cause g).freeze = ⟨.pending, c, full, pin, 0, g, 0⟩ ∧
      (s.freezeAt c full pin cause g).obj 0x3F00 6 = cause := by
  have e : s.freezeAt c full pin cause g = ({ s with freeze := ⟨.pending, c, full, pin, 0, g, 0⟩ }).setObj 0x3F00 6 cause := by
    unfold State.freezeAt
    rw [run]
  rw [e]
  exact ⟨rfl, State.obj_setObj_self w 0x3F00 6 cause⟩

/-- Of two triggers the earlier count and the deeper depth hold (R510). -/
theorem State.freezeAt_pending (pending : s.freeze.st = .pending) (c : Nat) (full pin : Bool) (cause g : Nat) :
    (s.freezeAt c full pin cause g).freeze.count = min s.freeze.count c ∧
      (s.freezeAt c full pin cause g).freeze.full = (s.freeze.full || full) := by
  unfold State.freezeAt
  rw [pending]
  exact ⟨rfl, rfl⟩

end Sys2Proof.Machine

open Sys2Proof Sys2Proof.Machine

/-- Settles O47: each write runs the branch of its entry, and each branch that starts something by what it leaves. -/
theorem writesTakeEffect : Obligations.WritesTakeEffect := by
  refine ⟨?_, fun s inv => ⟨State.armLaunch_shows inv.objects, fun n => State.startMargin_shows inv.objects, s.clearLog_shows,
    s.fuse_shows, fun c full pin cause g run => State.freezeAt_run inv.objects run c full pin cause g,
    fun c full pin cause g pending => State.freezeAt_pending pending c full pin cause g⟩⟩
  intro s src h b n x hx accepted
  simp only [List.mem_cons, List.not_mem_nil, or_false] at hx
  obtain rfl | rfl | rfl | rfl | rfl | rfl | rfl | rfl | rfl | rfl | rfl | rfl | rfl | rfl | rfl := hx
  iterate 10
    · exact State.serve_write accepted rfl rfl
  · exact State.serve_write accepted rfl State.applyWrite_freeze
  · exact State.serve_write accepted rfl State.applyWrite_freeze
  all_goals exact State.serve_write accepted rfl rfl
end

section
/-! SUPPORT. The trip of a stack (O13; R347, R524): the latch, the stack that is shut down, and a module that is lost. -/

namespace Sys2Proof.Machine

variable {s : State}

/-! ### The trip latch -/

/-- Only the latch, its cause and the pins have changed; the first cause stands, and a new latch drives `THERM_TRIP_N` low
(R524). -/
structure Latched (cause : Nat) (s t : State) : Prop where
  frame : t = { s with tripLatch := t.tripLatch, latchedCause := t.latchedCause, pins := t.pins }
  set : t.tripLatch = true
  cause : t.latchedCause = if s.tripLatch then s.latchedCause else cause
  drives : s.tripLatch = false → t.pins.thermTripN = .low

theorem State.latch_shows (s : State) (cause : Nat) : Latched cause s (s.latch cause) := by
  unfold State.latch
  split
  · next stands => exact ⟨rfl, stands, by simp [stands], by simp [stands]⟩
  · next clear => exact ⟨rfl, rfl, by simp [clear], fun _ => rfl⟩

/-! ### A stack that is shut down -/

/-- A stack that has tripped is off and fenced, and the latch is set (R347, R524). -/
def State.stackOff (s : State) (h : Stack) : State :=
  (({ s with thermal := s.thermal.set h .trip }).setIsland (0x40 + h.val) .fenced).latch 2

/-- What a tripped stack's shutdown leaves. -/
structure StackOff (h : Stack) (s t : State) : Prop where
  frame : t = { s with thermal := s.thermal.set h .trip, islands := t.islands, tripLatch := t.tripLatch,
                       latchedCause := t.latchedCause, pins := t.pins }
  fenced : t.island (0x40 + h.val) = .fenced
  set : t.tripLatch = true
  cause : t.latchedCause = if s.tripLatch then s.latchedCause else 2
  drives : s.tripLatch = false → t.pins.thermTripN = .low

theorem State.stackOff_shows (s : State) (h : Stack) : StackOff h s (s.stackOff h) := by
  have latched := State.latch_shows (({ s with thermal := s.thermal.set h .trip }).setIsland (0x40 + h.val) .fenced) 2
  have islands : (s.stackOff h).islands = setKey (0x40 + h.val) .fenced s.islands := by
    unfold State.stackOff
    rw [latched.frame]
    rfl
  refine ⟨?_, ?_, latched.set, latched.cause, latched.drives⟩
  · unfold State.stackOff
    rw [latched.frame]
    rfl
  · rw [State.island, islands, lookupKey_setKey_self]
    rfl

/-! ### A module that is lost -/

/-- Declaring a module lost changes only that, ports, what is sent, and the pins' level of `FAULT_N`. -/
theorem State.declareLost_frame (s : State) : s.declareLost = { s with
    moduleLost := s.declareLost.moduleLost, ports := s.declareLost.ports, out := s.declareLost.out,
    pins := { s.pins with faultN := s.declareLost.pins.faultN } } := by
  by_cases lost : s.moduleLost = true
  · have e : s.declareLost = s := if_pos lost
    rw [e]
  · have e : s.declareLost = (State.gasp { s with moduleLost := true } 0x01).driveFault := if_neg lost
    have only : OnlyPorts { s with moduleLost := true } (State.gasp { s with moduleLost := true } 0x01) := .gasp
    rw [e, State.driveFault, only]

/-- A powered module that is faulty drives `FAULT_N` low (R509). -/
theorem State.driveFault_low (powered : s.phase = .up ∨ s.phase = .fullFreeze) (faulty : s.faulty = true) :
    s.driveFault.pins.faultN = .low := by
  unfold State.driveFault
  obtain h | h := powered <;> simp [h, faulty]

/-- A module that declares itself lost while it is up drives `FAULT_N` low (R509). -/
theorem State.declareLost_low (up : s.phase = .up) (lost : s.moduleLost = false) : s.declareLost.pins.faultN = .low := by
  have e : s.declareLost = (State.gasp { s with moduleLost := true } 0x01).driveFault := if_neg (by simp [lost])
  have only : OnlyPorts { s with moduleLost := true } (State.gasp { s with moduleLost := true } 0x01) := .gasp
  rw [e]
  refine State.driveFault_low (.inl ?_) ?_ <;> rw [only]
  · exact up
  · simp [State.faulty]

/-! ### The trip by phase -/

section Trip
variable {h : Stack} (on : s.thermal[h] ≠ .trip)
include on

theorem exec_stackTrip_reset (phase : s.phase = .inReset) :
    exec (.stackTrip h) s = .next (({ s with thermal := s.thermal.set h .trip }).latch 2) := by
  change execStackTrip h s = _
  unfold execStackTrip
  rw [if_neg (by simpa [phase] using on), if_pos phase]

theorem exec_stackTrip_full (phase : s.phase = .fullFreeze) :
    exec (.stackTrip h) s = .next (State.driveFault { (s.stackOff h).gasp 0x01 with moduleLost := true }) := by
  have frame := (s.stackOff_shows h).frame
  have same : (s.stackOff h).phase = .fullFreeze := by rw [frame]; exact phase
  change execStackTrip h s = _
  unfold execStackTrip
  rw [if_neg (by simpa [phase] using on), if_neg (by simp [phase])]
  refine (if_pos same).trans ?_
  have can : (s.stackOff h).canGasp = true := by simp [State.canGasp, same]
  change Host.Outcome.next (State.driveFault { (if (s.stackOff h).canGasp then _ else _ : State) with moduleLost := true }) = _
  rw [if_pos can]
  rfl

theorem exec_stackTrip_up (phase : s.phase = .up) : exec (.stackTrip h) s =
    .next (((s.stackOff h).event 0x5105 (0x40 + h.val) (toLe 1 h.val)).moduleFails 0x5105) := by
  have same : (s.stackOff h).phase ≠ .fullFreeze := by
    rw [(s.stackOff_shows h).frame]
    simp [phase]
  change execStackTrip h s = _
  unfold execStackTrip
  rw [if_neg (by simpa [phase] using on), if_neg (by simp [phase])]
  exact if_neg same

end Trip

/-- A FULL freeze in which a stack has tripped: the gasp is out and `FAULT_N` low (R515, R524). -/
theorem State.tripFrozen_shows {h : Stack} (phase : s.phase = .fullFreeze) :
    let t := State.driveFault { (s.stackOff h).gasp 0x01 with moduleLost := true }
    t = { s.stackOff h with moduleLost := true, ports := t.ports, out := t.out, pins := { (s.stackOff h).pins with faultN := .low } } ∧
      Gasped s t 1 := by
  intro t
  have off := (s.stackOff_shows h).frame
  have only : OnlyPorts (s.stackOff h) ((s.stackOff h).gasp 0x01) := .gasp
  have low : t.pins.faultN = .low := by
    refine State.driveFault_low (.inr ?_) ?_
    · rw [only]
      change (s.stackOff h).phase = _
      rw [off]
      exact phase
    · simp [State.faulty]
  refine ⟨?_, fun p up => ?_⟩
  · rw [← low, show t = State.driveFault { (s.stackOff h).gasp 0x01 with moduleLost := true } from rfl, State.driveFault, only]
  · have sent := State.gasp_sent (s := s.stackOff h) (c := 0x01) (q := p) (by rw [off]; exact up)
    exact sent.later (by rw [State.driveFault_out])

/-- What the trip of a stack does to a module that is up: its shutdown, the abort, and the loss of the module (R347). -/
def State.tripped (s : State) (h : Stack) : State :=
  ((s.stackOff h).event 0x5105 (0x40 + h.val) (toLe 1 h.val)).moduleFails 0x5105

theorem State.tripped_frame (s : State) (h : Stack) : (s.tripped h).thermal = s.thermal.set h .trip ∧
    (s.tripped h).islands = (s.stackOff h).islands ∧ (s.tripped h).tripLatch = (s.stackOff h).tripLatch ∧
    (s.tripped h).latchedCause = (s.stackOff h).latchedCause ∧
    (s.tripped h).pins.thermTripN = (s.stackOff h).pins.thermTripN := by
  have logs : OnlyAborts (s.stackOff h) ((s.stackOff h).event 0x5105 (0x40 + h.val) (toLe 1 h.val)) := OnlySends.event.aborts
  have only := logs.trans (OnlyAborts.abortStep (c := 0x5105))
  unfold State.tripped State.moduleFails
  rw [State.declareLost_frame, only]
  refine ⟨?_, rfl, rfl, rfl, rfl⟩
  dsimp only []
  rw [(s.stackOff_shows h).frame]

/-- A tripped stack aborts the step, and the module gasps and declares itself lost (R347, R524). -/
theorem State.tripped_stops {h : Stack} (up : s.phase = .up) (lost : s.moduleLost = false) :
    (s.tripped h).moduleLost = true ∧ (s.tripped h).pins.faultN = .low ∧
      (s.stepLive = true → (s.tripped h).step.status = .aborted ∧ (s.tripped h).step.causes = s.step.causes ++ [0x5105]) ∧
      (∀ p : Port, s.ports[p].st.isUp = true → Sent (s.tripped h) p 0x0C 1) ∧
      ∃ e ∈ (s.tripped h).log.recs, e.code = 0x5105 ∧ e.island = 0x40 + h.val := by
  have off := (s.stackOff_shows h).frame
  have logs : OnlyAborts (s.stackOff h) ((s.stackOff h).event 0x5105 (0x40 + h.val) (toLe 1 h.val)) := OnlySends.event.aborts
  have only := logs.trans (OnlyAborts.abortStep (c := 0x5105))
  have phase : (((s.stackOff h).event 0x5105 (0x40 + h.val) (toLe 1 h.val)).abortStep 0x5105).phase = .up := by
    rw [only, off]
    exact up
  have found : (((s.stackOff h).event 0x5105 (0x40 + h.val) (toLe 1 h.val)).abortStep 0x5105).moduleLost = false := by
    rw [only, off]
    exact lost
  have step : ((s.stackOff h).event 0x5105 (0x40 + h.val) (toLe 1 h.val)).step = s.step := by
    rw [State.event_step, off]
  obtain ⟨gone, -, -, grows⟩ := State.moduleFails_spec ((s.stackOff h).event 0x5105 (0x40 + h.val) (toLe 1 h.val)) 0x5105
  refine ⟨gone, State.declareLost_low phase found, fun live => ?_, fun p carried => ?_, LogGrows.stands grows (by decide)⟩
  · obtain ⟨aborted, causes⟩ := State.abortStep_status (c := 0x5105)
      (s := (s.stackOff h).event 0x5105 (0x40 + h.val) (toLe 1 h.val)) (by rw [State.stepLive, step]; exact live)
    unfold State.tripped State.moduleFails
    rw [(State.declareLost_keeps _).2.2.1, aborted, causes, step]
    exact ⟨rfl, rfl⟩
  · refine State.declareLost_gasps found ?_
    rw [Tells.abortStep.status, State.event_ports, off]
    exact carried

end Sys2Proof.Machine

open Sys2Proof Sys2Proof.Machine

/-- Settles O13: in reset the latch alone, in FULL freeze the gasp too, else the abort of the step and the module's loss. -/
theorem stackTripStopsTheStep : Obligations.StackTripStopsTheStep := by
  intro s h on latched
  refine ⟨fun full => ?_, fun reset => ?_, fun up lost => ?_⟩
  · obtain ⟨frame, gasped⟩ := State.tripFrozen_shows (h := h) full
    have off := s.stackOff_shows h
    refine ⟨_, exec_stackTrip_full on full, ?_, ?_, ?_, ?_, ?_, ?_, ?_, ?_, ?_, gasped⟩ <;> rw [frame]
    · rw [off.frame]
    · exact off.fenced
    · exact off.set
    · rw [off.frame]
      exact full
    · rw [off.frame]
    · rw [off.frame]
    · exact off.cause
  · have l := State.latch_shows { s with thermal := s.thermal.set h .trip } 2
    refine ⟨_, exec_stackTrip_reset on reset, ?_, l.set, l.cause, l.drives, ?_⟩
    · rw [l.frame]
    · rw [l.frame]
  · obtain ⟨thermal, islands, set, cause, drives⟩ := s.tripped_frame h
    obtain ⟨gone, low, aborts, gasps, logged⟩ := State.tripped_stops (h := h) up lost
    have off := s.stackOff_shows h
    exact ⟨s.tripped h, exec_stackTrip_up on up, thermal, (State.island_of_islands islands _).trans off.fenced, gone, low,
      set.trans off.set, cause.trans off.cause, fun clear => drives.trans (off.drives clear), aborts, gasps, logged⟩
end

section
/-! SUPPORT. A stack's temperature and the hold of the launch (O12; R344, R345). -/

namespace Sys2Proof.Machine

variable {s : State}

/-! ### The hold of the launch -/

/-- Logging an event keeps the dictionary canonical. -/
theorem State.event_wf (w : Assoc.wf objDefault s.od = true) (c : BitVec 16) (i : Nat) (d : Bytes) :
    Assoc.wf objDefault (s.event c i d).od = true := by
  rw [State.event_od]
  exact State.addObj_wf w _ _ _

/-- The hold noted for its launch, with the largest shift asked for it (R345). -/
def State.withHold (s : State) (rest : List HoldWait) : State :=
  ({ s with holdDue := rest }).noteHold s.holdStep (s.obj 0x2704 0)

/-- The hold as it stands just before its flood: noted for its launch, logged and counted (R345). -/
def State.holdNoted (s : State) (x : HoldWait) (rest : List HoldWait) : State :=
  ((s.withHold rest).event 0x5103 (0x40 + x.stack.val) (toLe 1 x.stack.val)).addObj 0x303B 0 1

theorem exec_holdSend_ended {x : HoldWait} {rest : List HoldWait} (due : s.holdDue = x :: rest) (awake : s.awake = true)
    (stages : x.stages.all s.stageOver = true) (rounds : x.rounds.all s.roundOver = true) :
    exec .holdSend s = .next ((s.holdNoted x rest).flood 0x08 (toLe 8 s.holdStep ++ toLe 8 (s.obj 0x2704 0))) := by
  change execHoldSend s = _
  unfold execHoldSend
  rw [due]
  exact if_neg (by simp [awake, stages, rounds])

theorem exec_holdSend_waits {x : HoldWait} {rest : List HoldWait} (due : s.holdDue = x :: rest)
    (waits : x.stages.all s.stageOver = false ∨ x.rounds.all s.roundOver = false) : exec .holdSend s = .next s := by
  change execHoldSend s = _
  unfold execHoldSend
  rw [due]
  exact if_pos (by obtain h | h := waits <;> simp [h])

/-- What a hold that is about to be flooded has changed (R345). -/
theorem State.holdNoted_shows (w : Assoc.wf objDefault s.od = true) (x : HoldWait) (rest : List HoldWait) :
    (s.holdNoted x rest).holdDue = rest ∧ (s.holdNoted x rest).step = s.step ∧ (s.holdNoted x rest).mem = s.mem ∧
      (s.holdNoted x rest).holds = setKey s.holdStep (max (s.obj 0x2704 0) ((lookupKey s.holdStep s.holds).getD 0)) s.holds ∧
      (s.holdNoted x rest).obj 0x303B 0 = min (2 ^ 32 - 1) (s.obj 0x303B 0 + 1) := by
  have logs := State.event_onlyLogs (s := s.withHold rest) w 0x5103 (0x40 + x.stack.val) (toLe 1 x.stack.val)
  refine ⟨State.event_holdDue .., State.event_step .., State.event_mem .., State.event_holds .., ?_⟩
  rw [State.holdNoted, State.obj_counted (State.event_wf (s := s.withHold rest) w _ _ _) rfl, logs.objects _ _ (by decide) (by decide)]
  rfl

theorem State.holdNoted_logged (s : State) (x : HoldWait) (rest : List HoldWait) :
    Logged s (s.holdNoted x rest) 0x5103 (0x40 + x.stack.val) (toLe 1 x.stack.val) :=
  State.event_logged_since (u := s.withHold rest) rfl rfl (by simp [toLe_length])

/-- The flood of a hold names the module and its sequence as before the hold was noted. -/
theorem State.holdNoted_floodBytes (w : Assoc.wf objDefault s.od = true) (x : HoldWait) (rest : List HoldWait) (b : Bytes) :
    (s.holdNoted x rest).floodBytes b = s.floodBytes b := by
  have logs := State.event_onlyLogs (s := s.withHold rest) w 0x5103 (0x40 + x.stack.val) (toLe 1 x.stack.val)
  have node : (s.holdNoted x rest).nodeId = s.nodeId := by
    unfold State.nodeId State.holdNoted
    rw [State.obj_addObj_other (State.event_wf (s := s.withHold rest) w _ _ _) (by decide), logs.objects _ _ (by decide) (by decide)]
    rfl
  have seq : (s.holdNoted x rest).floodSeq = s.floodSeq := State.event_floodSeq ..
  unfold State.floodBytes
  rw [node, seq]

/-- A hold that is sent floods every UP port (R345, R410). -/
theorem State.holdNoted_floods (w : Assoc.wf objDefault s.od = true) (awake : s.awake = true) (x : HoldWait)
    (rest : List HoldWait) (b : Bytes) : FloodedOn s ((s.holdNoted x rest).flood 0x08 b) none 0x08 (s.floodBytes b) := by
  have noted : Tells s (s.holdNoted x rest) :=
    .trans (.of_same rfl rfl rfl : Tells s (s.withHold rest))
      (.trans .event .addObj)
  have run : (s.holdNoted x rest).freeze.st ≠ .capture ∧ (s.holdNoted x rest).freeze.st ≠ .full := by
    rw [show (s.holdNoted x rest).freeze = s.freeze from State.event_freeze ..]
    simp only [State.awake, Bool.and_eq_true, decide_eq_true_eq] at awake
    exact ⟨awake.1.2, awake.2⟩
  refine .of_sentOn (noted.out.trans Tells.flood.out) fun q _ up => ?_
  rw [← State.holdNoted_floodBytes w x rest b]
  exact (State.flood_sentOn run (by rw [noted.status]; exact up)).earlier noted.out

/-! ### The thresholds -/

/-- WARM's threshold, HOT's and the hysteresis, as they are in force (R344). -/
def State.tempLimit (s : State) (i : Nat) : Val := decodeF32 (BitVec.ofNat 32 (s.obj 0x2702 i))

/-- An event of a class that counts from 0 leaves every other entry, whatever the dictionary's form. -/
theorem State.event_obj {c : BitVec 16} {k : Nat} {d : Bytes} {o : Obj} {i j : Nat}
    (counter : objFind 0x3000 (c.toNat / 4096 - 1) = some o) (pos : 0 < o.ty.maxValue)
    (zero : objDefault (objKey 0x3000 (c.toNat / 4096 - 1)) = 0) (other : i ≠ 0x3000) (small : j < 256) :
    (s.event c k d).obj i j = s.obj i j := by
  rw [← (State.mgmtEvent_onlyLogs (s := s) c d counter pos zero).objects i j other small]
  unfold State.obj State.mgmtEvent
  rw [State.event_od, State.event_od]

section Reading
variable {h : Stack} {v : Val}

/-- The moves of a stack at a reading: up to WARM, up to HOT, and down (R344). -/
def State.tempMoves (s : State) (h : Stack) (v : Val) : State := ((s.warmStep h v).hotStep h v).coolStep h v

theorem exec_hbmTempReading {w : F32} (up : s.phase = .up) (on : s.thermal[h] ≠ .trip) (num : (decodeF32 w).isNan = false) :
    exec (.hbmTempReading h w) s = .next (State.tempMoves { s with temps := s.temps.set h w } h (decodeF32 w)) := by
  change execHbmTempReading h w s = _
  unfold execHbmTempReading
  rw [if_neg (by simpa [up] using on)]
  exact if_neg (by simp [num])

/-- A stack that is not NORMAL, or below WARM's threshold, does not enter WARM. -/
theorem State.warmStep_stays (stays : s.thermal[h] = .normal → v.lt (s.tempLimit 0) = true) : s.warmStep h v = s := by
  refine if_neg fun enters => ?_
  simp only [Bool.and_eq_true, decide_eq_true_eq, Bool.not_eq_true'] at enters
  exact absurd (stays enters.1) (by rw [State.tempLimit, enters.2]; decide)

theorem State.warmStep_enters (normal : s.thermal[h] = .normal) (reached : v.lt (s.tempLimit 0) = false) :
    s.warmStep h v = ({ s with thermal := s.thermal.set h .doubled }).event 0x5101 (0x40 + h.val) (toLe 1 h.val) :=
  if_pos (by rw [Bool.and_eq_true, decide_eq_true_eq, Bool.not_eq_true']; exact ⟨normal, reached⟩)

/-- A stack that is not WARM, or below HOT's threshold, does not enter HOT. -/
theorem State.hotStep_stays (stays : s.thermal[h] = .doubled → v.lt (s.tempLimit 1) = true) : s.hotStep h v = s := by
  refine if_neg fun enters => ?_
  simp only [Bool.and_eq_true, decide_eq_true_eq, Bool.not_eq_true'] at enters
  exact absurd (stays enters.1) (by rw [State.tempLimit, enters.2]; decide)

theorem State.hotStep_enters (warm : s.thermal[h] = .doubled) (reached : v.lt (s.tempLimit 1) = false)
    (awake : s.awake = true) : s.hotStep h v = { s with
      thermal := s.thermal.set h .hold, holdDue := s.holdDue ++ [HoldWait.mk h s.stagesNow s.rounds] } := by
  refine (if_pos (by rw [Bool.and_eq_true, decide_eq_true_eq, Bool.not_eq_true']; exact ⟨warm, reached⟩)).trans ?_
  exact if_pos awake

/-- The first of the two moves of a stack that cools: from HOT to WARM (R344). -/
def State.leaveHot (s : State) (h : Stack) (v : Val) : State :=
  if s.thermal[h] = .hold && v.lt ((s.tempLimit 1).sub (s.tempLimit 2)) then
    ({ s with thermal := s.thermal.set h .doubled }).event 0x5104 (0x40 + h.val) (toLe 1 h.val)
  else s

/-- A stack that cools leaves HOT for WARM, then WARM for NORMAL (R344). -/
theorem State.coolStep_moves (s : State) (h : Stack) (v : Val) : s.coolStep h v =
    if (s.leaveHot h v).thermal[h] = .doubled && v.lt ((s.tempLimit 0).sub (s.tempLimit 2)) then
      ({ s.leaveHot h v with thermal := (s.leaveHot h v).thermal.set h .normal }).event 0x5102 (0x40 + h.val) (toLe 1 h.val)
    else s.leaveHot h v := rfl

theorem State.leaveHot_stays (stays : s.thermal[h] = .hold → v.lt ((s.tempLimit 1).sub (s.tempLimit 2)) = false) :
    s.leaveHot h v = s := by
  refine if_neg fun leaves => ?_
  rw [Bool.and_eq_true, decide_eq_true_eq] at leaves
  exact absurd leaves.2 (by rw [stays leaves.1]; decide)

/-- A stack that is neither HOT nor WARM, or not below its threshold less the hysteresis, leaves neither. -/
theorem State.coolStep_stays (hot : s.thermal[h] = .hold → v.lt ((s.tempLimit 1).sub (s.tempLimit 2)) = false)
    (warm : s.thermal[h] = .doubled → v.lt ((s.tempLimit 0).sub (s.tempLimit 2)) = false) : s.coolStep h v = s := by
  rw [State.coolStep_moves, State.leaveHot_stays hot]
  refine if_neg fun leaves => ?_
  rw [Bool.and_eq_true, decide_eq_true_eq] at leaves
  exact absurd leaves.2 (by rw [warm leaves.1]; decide)

theorem State.coolStep_leavesHot (hot : s.thermal[h] = .hold) (cool : v.lt ((s.tempLimit 1).sub (s.tempLimit 2)) = true)
    (warm : v.lt ((s.tempLimit 0).sub (s.tempLimit 2)) = false) :
    s.coolStep h v = ({ s with thermal := s.thermal.set h .doubled }).event 0x5104 (0x40 + h.val) (toLe 1 h.val) := by
  rw [State.coolStep_moves, warm, Bool.and_false, if_neg (by decide)]
  exact if_pos (by rw [Bool.and_eq_true, decide_eq_true_eq]; exact ⟨hot, cool⟩)

theorem State.coolStep_leavesWarm (warm : s.thermal[h] = .doubled) (cool : v.lt ((s.tempLimit 0).sub (s.tempLimit 2)) = true) :
    s.coolStep h v = ({ s with thermal := s.thermal.set h .normal }).event 0x5102 (0x40 + h.val) (toLe 1 h.val) := by
  rw [State.coolStep_moves, State.leaveHot_stays (by rw [warm]; exact nofun), warm, cool]
  exact if_pos (by decide)

/-! ### The moves of one reading -/

theorem State.tempMoves_normal (normal : s.thermal[h] = .normal) (below : v.lt (s.tempLimit 0) = true) :
    s.tempMoves h v = s := by
  rw [State.tempMoves, State.warmStep_stays fun _ => below, State.hotStep_stays (by rw [normal]; exact nofun)]
  exact State.coolStep_stays (by rw [normal]; exact nofun) (by rw [normal]; exact nofun)

/-- A stack that enters WARM moves no further below HOT's threshold: the thresholds are those in force before its event. -/
theorem State.tempMoves_warms (normal : s.thermal[h] = .normal) (reached : v.lt (s.tempLimit 0) = false)
    (below : v.lt (s.tempLimit 1) = true) (warm : v.lt ((s.tempLimit 0).sub (s.tempLimit 2)) = false) :
    s.tempMoves h v = ({ s with thermal := s.thermal.set h .doubled }).event 0x5101 (0x40 + h.val) (toLe 1 h.val) := by
  have same (i : Nat) (small : i < 256) : State.tempLimit (({ s with thermal := s.thermal.set h .doubled }).event 0x5101
      (0x40 + h.val) (toLe 1 h.val)) i = s.tempLimit i :=
    congrArg (fun n => decodeF32 (BitVec.ofNat 32 n)) (State.event_obj (s := { s with thermal := s.thermal.set h .doubled })
      (c := 0x5101) rfl (by decide) (by decide) (by decide) small)
  have entered : (({ s with thermal := s.thermal.set h .doubled }).event 0x5101 (0x40 + h.val) (toLe 1 h.val)).thermal[h] =
      .doubled := by simp
  rw [State.tempMoves, State.warmStep_enters normal reached, State.hotStep_stays fun _ => by rw [same 1 (by decide)]; exact below]
  refine State.coolStep_stays (by rw [entered]; exact nofun) fun _ => ?_
  rw [same 0 (by decide), same 2 (by decide)]
  exact warm

theorem State.tempMoves_holds (doubled : s.thermal[h] = .doubled) (reached : v.lt (s.tempLimit 1) = false)
    (warm : v.lt ((s.tempLimit 1).sub (s.tempLimit 2)) = false) (awake : s.awake = true) : s.tempMoves h v = { s with
      thermal := s.thermal.set h .hold, holdDue := s.holdDue ++ [HoldWait.mk h s.stagesNow s.rounds] } := by
  rw [State.tempMoves, State.warmStep_stays (by rw [doubled]; exact nofun), State.hotStep_enters doubled reached awake]
  exact State.coolStep_stays (fun _ => warm) (by simp)

theorem State.tempMoves_leavesHot (hot : s.thermal[h] = .hold) (cool : v.lt ((s.tempLimit 1).sub (s.tempLimit 2)) = true)
    (warm : v.lt ((s.tempLimit 0).sub (s.tempLimit 2)) = false) :
    s.tempMoves h v = ({ s with thermal := s.thermal.set h .doubled }).event 0x5104 (0x40 + h.val) (toLe 1 h.val) := by
  rw [State.tempMoves, State.warmStep_stays (by rw [hot]; exact nofun), State.hotStep_stays (by rw [hot]; exact nofun)]
  exact State.coolStep_leavesHot hot cool warm

theorem State.tempMoves_leavesWarm (doubled : s.thermal[h] = .doubled) (below : v.lt (s.tempLimit 1) = true)
    (cool : v.lt ((s.tempLimit 0).sub (s.tempLimit 2)) = true) :
    s.tempMoves h v = ({ s with thermal := s.thermal.set h .normal }).event 0x5102 (0x40 + h.val) (toLe 1 h.val) := by
  rw [State.tempMoves, State.warmStep_stays (by rw [doubled]; exact nofun), State.hotStep_stays fun _ => below]
  exact State.coolStep_leavesWarm doubled cool

end Reading

end Sys2Proof.Machine

open Sys2Proof Sys2Proof.Machine

/-- Settles O12: each reading takes one of the moves of `warmStep`, `hotStep` and `coolStep`, and a hold that is due is noted,
logged, counted and flooded. -/
theorem temperatureMovesAStack : Obligations.TemperatureMovesAStack := by
  refine ⟨fun s x rest inv due awake => ⟨fun stages rounds => ?_, exec_holdSend_waits due⟩, ?_⟩
  · obtain ⟨dueNow, step, mem, holds, count⟩ := State.holdNoted_shows inv.objects x rest
    refine ⟨_, exec_holdSend_ended due awake stages rounds, ?_, ?_, ?_, ?_, ?_, ?_, State.holdNoted_floods inv.objects awake x rest _⟩
    · rw [State.flood_frame, dueNow]
    · rw [State.flood_frame, step]
    · rw [State.flood_frame, mem]
    · rw [State.flood_frame, holds, lookupKey_setKey_self]
    · rw [Logged, State.flood_frame]
      exact s.holdNoted_logged x rest
    · rw [← count]
      unfold State.obj
      rw [State.flood_od]
  · intro s h w up num v limit
    have read (on : s.thermal[h] ≠ .trip) := exec_hbmTempReading (w := w) up on num
    refine ⟨fun normal below => ?_, fun normal reached below warm => ?_, fun doubled reached warm awake => ?_,
      fun hot cool warm => ?_, fun doubled below cool => ?_⟩
    · rw [read (by rw [normal]; decide)]
      exact congrArg _ (State.tempMoves_normal (s := { s with temps := s.temps.set h w }) normal below)
    · rw [read (by rw [normal]; decide),
        State.tempMoves_warms (s := { s with temps := s.temps.set h w }) normal reached below warm]
      exact ⟨_, rfl, State.event_thermal .., State.event_temps .., State.event_logged_since rfl rfl (by simp [toLe_length])⟩
    · rw [read (by rw [doubled]; decide),
        State.tempMoves_holds (s := { s with temps := s.temps.set h w }) doubled reached warm awake]
      exact ⟨_, rfl, rfl, rfl, _, rfl, rfl⟩
    · rw [read (by rw [hot]; decide),
        State.tempMoves_leavesHot (s := { s with temps := s.temps.set h w }) hot cool warm]
      exact ⟨_, rfl, by simp, State.event_logged_since rfl rfl (by simp [toLe_length])⟩
    · rw [read (by rw [doubled]; decide),
        State.tempMoves_leavesWarm (s := { s with temps := s.temps.set h w }) doubled below cool]
      exact ⟨_, rfl, by simp, State.event_logged_since rfl rfl (by simp [toLe_length])⟩
end

section
/-! SUPPORT. Drift probes, margin scans, lasers and telemetry (O15; R348 to R350, R385, R484). -/

namespace Sys2Proof.Machine

variable {s : State}

/-! ### Tables laid out in parts -/

/-- The part of a table whose parts are of one length. -/
theorem slice_flatMap {α : Type} {f : α → Bytes} {m : Nat} (len : ∀ x, (f x).length = m) (l : List α) (i : Nat)
    (lt : i < l.length) : slice (l.flatMap f) (m * i) m = f l[i] := by
  unfold slice
  induction l generalizing i with
  | nil => simp at lt
  | cons x l ih =>
    cases i with
    | zero => simp [← len x]
    | succ i =>
      have past : m * (i + 1) = (f x).length + m * i := by rw [len, Nat.mul_succ, Nat.add_comm]
      rw [List.flatMap_cons, past, List.drop_append, List.drop_of_length_le (by omega), List.nil_append, Nat.add_sub_cancel_left]
      exact ih i (by simpa using lt)

theorem slice_indices {n m : Nat} {f : Fin n → Bytes} (len : ∀ x, (f x).length = m) (i : Fin n) :
    slice ((indices n).flatMap f) (m * i.val) m = f i := by
  rw [slice_flatMap len _ i.val (by simp [indices])]
  simp [indices]

/-- A field of a part of a table. -/
theorem slice_slice {b : Bytes} {i m j k : Nat} (fits : j + k ≤ m) : slice (slice b i m) j k = slice b (i + j) k := by
  unfold slice
  rw [List.drop_take, List.drop_drop, List.take_take, Nat.min_eq_left (by omega)]

theorem length_flatMap_indices {n m : Nat} {f : Fin n → Bytes} (len : ∀ x, (f x).length = m) :
    ((indices n).flatMap f).length = n * m := by
  simp [List.length_flatMap, len, indices]

section Keys
variable {κ β α : Type} [DecidableEq κ] {k : κ}

theorem lookupKey_append (l m : List (κ × β)) : lookupKey k (l ++ m) = (lookupKey k l).or (lookupKey k m) := by
  induction l with
  | nil => rfl
  | cons e l ih =>
    simp only [List.cons_append, lookupKey]
    split
    · rfl
    · exact ih

/-- A key that one part alone can hold is looked up in that part. -/
theorem lookupKey_flatMap {f : α → List (κ × β)} [DecidableEq α] {x : α} (others : ∀ y, y ≠ x → lookupKey k (f y) = none)
    (l : List α) : lookupKey k (l.flatMap f) = if x ∈ l then lookupKey k (f x) else none := by
  induction l with
  | nil => rfl
  | cons y l ih =>
    rw [List.flatMap_cons, lookupKey_append, ih]
    by_cases same : y = x
    · subst same
      by_cases later : y ∈ l <;> simp [later]
    · simp [others y same, Ne.symm same]

theorem lookupKey_filter (p : κ → Bool) (l : List (κ × β)) :
    lookupKey k (l.filter (fun e => p e.1)) = if p k then lookupKey k l else none := by
  induction l with
  | nil => simp [lookupKey]
  | cons e l ih =>
    by_cases same : e.1 = k
    · subst same
      by_cases keep : p e.1 = true
      · simp [keep, lookupKey]
      · simpa [keep] using ih
    · by_cases keep : p e.1 = true <;> simp [keep, lookupKey, same, ih]

theorem lookupKey_map {g : α → κ} {v : α → β} (inj : g.Injective) {x : α} {l : List α} (mem : x ∈ l) :
    lookupKey (g x) (l.map (fun y => (g y, v y))) = some (v x) := by
  induction l with
  | nil => simp at mem
  | cons y l ih =>
    simp only [List.map_cons, lookupKey]
    split
    · next same => rw [inj same]
    · next other => exact ih ((List.mem_cons.1 mem).resolve_left fun e => other (congrArg g e.symm))

theorem lookupKey_none {l : List (κ × β)} (none : ∀ e ∈ l, e.1 ≠ k) : lookupKey k l = .none := by
  induction l with
  | nil => rfl
  | cons e l ih =>
    rw [lookupKey, if_neg (none e (by simp))]
    exact ih fun x m => none x (List.mem_cons_of_mem _ m)

/-- Entries of other keys leave what a key reads as. -/
theorem lookupKey_foldl_setKey {l : List (κ × β)} (none : ∀ e ∈ l, e.1 ≠ k) (m : List (κ × β)) :
    lookupKey k (l.foldl (fun m e => setKey e.1 e.2 m) m) = lookupKey k m := by
  induction l generalizing m with
  | nil => rfl
  | cons e l ih =>
    rw [List.foldl_cons, ih fun x h => none x (List.mem_cons_of_mem _ h)]
    exact lookupKey_setKey_other (none e (by simp)).symm _ _

/-- Of the entries written in turn, the last of a key stands. -/
theorem lookupKey_foldl_setKey_last {post : List (κ × β)} (none : ∀ e ∈ post, e.1 ≠ k) (pre m : List (κ × β)) (v : β) :
    lookupKey k ((pre ++ (k, v) :: post).foldl (fun m e => setKey e.1 e.2 m) m) = some v := by
  rw [List.foldl_append, List.foldl_cons, lookupKey_foldl_setKey none]
  exact lookupKey_setKey_self _ _ _

end Keys

/-! ### Drift probes -/

/-- Strobe moves are counted by stack, up to 32 bits (R350). -/
theorem strobeMoves_max (h : Stack) : ((objFind 0x303C h.val).map (fun o => o.ty.maxValue)).getD 0 = 2 ^ 32 - 1 := by
  have each : ∀ h : Fin 8, ((objFind 0x303C h.val).map (fun o => o.ty.maxValue)).getD 0 = 2 ^ 32 - 1 := by decide
  exact each h

/-- A probe with errors on one side moves the strobe away from it and counts the move; with both or none, nothing (R350). -/
theorem exec_marginDriftProbe (w : Assoc.wf objDefault s.od = true) (awake : s.awake = true) {h : Stack} (pc : Fin 64)
    (on : s.thermal[h] ≠ .trip) :
    (∀ low : Bool, ∃ t : State, exec (.marginDriftProbe h pc low !low) s = .next t ∧
      lookupKey (h.val * 64 + pc.val) t.strobes =
        some ((lookupKey (h.val * 64 + pc.val) s.strobes).getD 0 + (if low then 1 else -1)) ∧
      t.obj 0x303C h.val = min (2 ^ 32 - 1) (s.obj 0x303C h.val + 1)) ∧
    (∀ both : Bool, exec (.marginDriftProbe h pc both both) s = .next s) := by
  refine ⟨fun low => ⟨_, if_neg ?_, lookupKey_setKey_self ..,
    State.obj_counted (s := { s with strobes := _ }) w (strobeMoves_max h)⟩, fun both => if_pos (by simp)⟩
  cases low <;> simpa [awake] using on

/-! ### Scans -/

/-- What a stack's part of `MARGIN_RESULT` holds at a scan's end (R349). -/
def State.stackResult (s : State) (scans : Vector StackScan 8) (h : Stack) : Bytes :=
  if s.marginScan.contains h then (indices 256).flatMap (fun i => LaneEye.bytes (StackScan.lane scans[h] i))
  else slice s.marginResult (1024 * h.val) 1024

/-- The settings of a stack's lanes at a scan's end (R348). -/
def State.stackSets (s : State) (scans : Vector StackScan 8) (h : Stack) : List (Nat × List Nat) :=
  if s.marginScan.contains h then (indices 256).map (fun i => (h.val * 256 + i.val, LaneEye.setting (StackScan.lane scans[h] i)))
  else s.laneSets.filter (fun e => e.1 / 256 = h.val)

section Scan
variable {scans : Vector StackScan 8} {h : Stack}

theorem State.stackResult_scanned (scanned : h ∈ s.marginScan) : s.stackResult scans h =
    (indices 256).flatMap (fun i => LaneEye.bytes (StackScan.lane scans[h] i)) :=
  if_pos (by simpa using scanned)

theorem State.stackResult_kept (kept : h ∉ s.marginScan) :
    s.stackResult scans h = slice s.marginResult (1024 * h.val) 1024 :=
  if_neg (by simpa using kept)

theorem State.stackResult_length (full : s.marginResult.length = 8192) (h : Stack) : (s.stackResult scans h).length = 1024 := by
  by_cases scanned : h ∈ s.marginScan
  · rw [State.stackResult_scanned scanned]
    exact length_flatMap_indices (m := 4) fun _ => rfl
  · rw [State.stackResult_kept scanned, slice, List.length_take, List.length_drop]
    omega

/-- Each stack's settings lie under its own keys. -/
theorem State.stackSets_other {k : Nat} (other : k / 256 ≠ h.val) : lookupKey k (s.stackSets scans h) = none := by
  unfold State.stackSets
  split
  · refine lookupKey_none fun e m same => other ?_
    obtain ⟨i, -, rfl⟩ := List.mem_map.1 m
    dsimp only [] at same
    omega
  · exact (lookupKey_filter (fun k => k / 256 = h.val) _).trans (if_neg (by simpa using other))

/-- A lane's setting is looked up in its stack's part. -/
theorem State.laneSets_stack (i : Fin 256) :
    lookupKey (256 * h.val + i.val) ((indices 8).flatMap (s.stackSets scans)) = lookupKey (256 * h.val + i.val) (s.stackSets scans h) := by
  rw [lookupKey_flatMap (x := h)]
  · exact if_pos (List.mem_finRange h)
  · intro y other
    refine State.stackSets_other fun same => other (Fin.ext ?_)
    omega

theorem State.stackSets_scanned (scanned : h ∈ s.marginScan) (i : Fin 256) :
    lookupKey (256 * h.val + i.val) (s.stackSets scans h) = some (LaneEye.setting (StackScan.lane scans[h] i)) := by
  have inj : Function.Injective (fun i : Fin 256 => h.val * 256 + i.val) := fun i j e => Fin.ext (by simpa using e)
  rw [State.stackSets, if_pos (by simpa using scanned), Nat.mul_comm]
  exact lookupKey_map inj (List.mem_finRange i)

theorem State.stackSets_kept (kept : h ∉ s.marginScan) (i : Fin 256) :
    lookupKey (256 * h.val + i.val) (s.stackSets scans h) = lookupKey (256 * h.val + i.val) s.laneSets := by
  rw [State.stackSets, if_neg (by simpa using kept)]
  exact (lookupKey_filter (fun k => k / 256 = h.val) _).trans (if_pos (by simp; omega))

/-- A lane passes where both its eyes are wide and high enough (R348). -/
theorem LaneEye.passes_iff (e : LaneEye) : LaneEye.passes e = decide (24 ≤ e.readWidth.toNat ∧ 16 ≤ e.readHeight.toNat ∧
    24 ≤ e.writeWidth.toNat ∧ 16 ≤ e.writeHeight.toNat) := by
  simp [LaneEye.passes, Bool.and_assoc]

theorem exec_marginScanDone (awake : s.awake = true) (runs : s.marginScan ≠ []) : exec (.marginScanDone scans) s =
    .next ({ s.keepScan s.marginScan scans with marginScan := [] }.setObj 0x2708 1
      (if s.marginScan.all (fun h => StackScan.passes scans[h]) then 2 else 3)) :=
  if_neg (by simpa [awake] using runs)

end Scan

/-! ### Lasers -/

/-- An event leaves which of the management islands serves. -/
theorem State.mgmtEvent_mgmtIsland (c : BitVec 16) (d : Bytes) : (s.mgmtEvent c d).mgmtIsland = s.mgmtIsland := by
  unfold State.mgmtIsland State.mgmtEvent
  rw [State.event_active]

section Lasers
variable {i : Fin 8} {w : F32}

/-- A laser's class after a reading: a new class at its second reading (R385). -/
def Laser.measured (l : Laser) (w : F32) : Laser :=
  if laserClass w ≠ l.cls && laserClass w = l.cand then ⟨laserClass w, laserClass w, w⟩ else ⟨l.cls, laserClass w, w⟩

theorem Laser.measured_lit {l : Laser} (lit : laserClass w = .lit) :
    l.measured w = ⟨if l.cand = .lit then .lit else l.cls, .lit, w⟩ := by
  obtain ⟨cls, cand, dbm⟩ := l
  by_cases again : cand = .lit <;> by_cases was : cls = .lit <;> simp [Laser.measured, lit, again, was, Ne.symm]

/-- A reading that leaves a laser LIT, or finds it fallen already, only shows it. -/
theorem exec_laserInputMeasure_shows (up : s.phase = .up) (lit : s.lasers[i].cls ≠ .lit ∨ (s.lasers[i].measured w).cls = .lit) :
    exec (.laserInputMeasure i w) s = .next { s with lasers := s.lasers.set i (s.lasers[i].measured w) } := by
  change execLaserInputMeasure i w s = _
  unfold execLaserInputMeasure
  rw [if_neg (by simp [up])]
  exact if_pos (by rw [Bool.or_eq_true, decide_eq_true_eq, decide_eq_true_eq]; exact lit)

/-- The events of a laser whose group another input still carries (R385). -/
def State.laserFell (s : State) (c : LaserClass) (i : Fin 8) : State :=
  if c = .low then (s.mgmtEvent 0x6201 (toLe 1 i.val)).mgmtEvent 0x6203 (toLe 1 i.val) else s.mgmtEvent 0x6201 (toLe 1 i.val)

/-- A laser that falls while the other input of its group carries it is logged with event 0x6201, then, LOW, with 0x6203. -/
theorem exec_laserInputMeasure_falls (up : s.phase = .up) (lit : s.lasers[i].cls = .lit) {c : LaserClass} (cand : s.lasers[i].cand = c)
    (cls : laserClass w = c) (fell : c ≠ .lit)
    (carried : 0 < ({ s with lasers := s.lasers.set i ⟨c, c, w⟩ }).groupLit ⟨i.val / 2, by omega⟩) :
    exec (.laserInputMeasure i w) s = .next (({ s with lasers := s.lasers.set i ⟨c, c, w⟩ }).laserFell c i) := by
  have new : s.lasers[i].measured w = ⟨c, c, w⟩ := by
    rw [Laser.measured, if_pos (by rw [lit, cand, cls]; simp [fell]), cls]
  change execLaserInputMeasure i w s = _
  unfold execLaserInputMeasure
  rw [if_neg (by simp [up])]
  dsimp only []
  rw [show (if (decide (laserClass w ≠ s.lasers[i].cls) && decide (laserClass w = s.lasers[i].cand)) = true then
      (⟨laserClass w, laserClass w, w⟩ : Laser) else ⟨s.lasers[i].cls, laserClass w, w⟩) = ⟨c, c, w⟩ from new]
  rw [if_neg (by rw [lit]; simp [fell])]
  have light : ¬ State.groupLit { s with lasers := s.lasers.set i ⟨c, c, w⟩ } ⟨i.val / 2, by omega⟩ = 0 := by omega
  simp only [vmodify, light, decide_false, Bool.not_false, Bool.or_true, Bool.false_and, Bool.false_eq_true, if_false, if_true]
  rfl

end Lasers

/-! ### Telemetry -/

/-- A list of readings holds keys of its own entry alone. -/
theorem readings_ne {idx n i : Nat} {l : List F32} (few : n ≤ 256) (other : idx ≠ i) :
    ∀ e ∈ readings idx n l, e.1 ≠ objKey i 0 := by
  intro e h same
  obtain ⟨⟨w, j⟩, m, rfl⟩ := List.mem_map.1 h
  have lt := (List.mem_zipIdx m).2.1
  rw [List.length_take] at lt
  exact other ((objKey_inj (by omega) (by decide)).1 same).1

/-- The lists of readings hold no key of another entry (R485). -/
theorem readingLists_ne (r : Telemetry) {i : Nat} (other : i ∉ [0x3101, 0x3103, 0x3104, 0x3106]) :
    ((((∀ e ∈ readings 0x3101 6 r.dieTemp, e.1 ≠ objKey i 0) ∧ ∀ e ∈ readings 0x3103 7 r.railW, e.1 ≠ objKey i 0) ∧
      ∀ e ∈ readings 0x3104 7 r.engineBusy, e.1 ≠ objKey i 0) ∧ ∀ e ∈ readings 0x3106 32 r.portTx, e.1 ≠ objKey i 0) := by
  simp only [List.mem_cons, List.not_mem_nil, or_false, not_or] at other
  obtain ⟨die, rail, engine, port⟩ := other
  exact ⟨⟨⟨readings_ne (by decide) (Ne.symm die), readings_ne (by decide) (Ne.symm rail)⟩,
    readings_ne (by decide) (Ne.symm engine)⟩, readings_ne (by decide) (Ne.symm port)⟩

/-- The input's voltage is the first reading, and no later one has its key (R485). -/
theorem Telemetry.after_inputV (r : Telemetry) : ∀ e ∈ (Telemetry.entries r).drop 1, e.1 ≠ objKey 0x3100 0 := by
  simp only [Telemetry.entries, List.cons_append, List.nil_append, List.drop_succ_cons, List.drop_zero, List.forall_mem_cons,
    List.forall_mem_append]
  exact ⟨by decide, by decide, by decide, by decide, by decide, by decide, by decide, by decide, readingLists_ne r (by decide)⟩

/-- No reading after the coolant's inlet temperature has its key (R485). -/
theorem Telemetry.after_coolantIn (r : Telemetry) : ∀ e ∈ (Telemetry.entries r).drop 6, e.1 ≠ objKey 0x3102 0 := by
  simp only [Telemetry.entries, List.cons_append, List.nil_append, List.drop_succ_cons, List.drop_zero, List.forall_mem_cons,
    List.forall_mem_append]
  exact ⟨by decide, by decide, by decide, readingLists_ne r (by decide)⟩

end Sys2Proof.Machine

open Sys2Proof Sys2Proof.Machine

/-- Settles O15: a probe's move, the parts of a scan's tables stack by stack, a laser's class by `Laser.measured`, and the last
write of each reading's key. -/
theorem probesAndReadings : Obligations.ProbesAndReadings := by
  intro s inv
  refine ⟨fun awake h pc on => exec_marginDriftProbe inv.objects awake pc on, ?_, ?_, ?_⟩
  · intro awake runs full sc eye
    have len := State.stackResult_length (scans := sc) full
    have chunk (h : Stack) := slice_indices len h
    refine ⟨_, exec_marginScanDone awake runs, rfl, length_flatMap_indices len, fun h scanned i => ⟨?_, ?_⟩,
      fun h kept => ⟨(chunk h).trans (State.stackResult_kept kept), fun i => ?_⟩, rfl, rfl, ?_⟩
    · have lane := slice_slice (b := (indices 8).flatMap (s.stackResult sc)) (i := 1024 * h.val) (m := 1024) (j := 4 * i.val) (k := 4)
        (by omega)
      rw [chunk h, State.stackResult_scanned scanned] at lane
      exact lane.symm.trans (slice_indices (m := 4) (fun _ => rfl) i)
    · exact (State.laneSets_stack i).trans (State.stackSets_scanned scanned i)
    · exact (State.laneSets_stack i).trans (State.stackSets_kept kept i)
    · rw [State.obj_setObj_self (s := { s.keepScan s.marginScan sc with marginScan := [] }) inv.objects]
      unfold StackScan.passes
      simp only [LaneEye.passes_iff]
      rfl
  · intro up i w
    refine ⟨fun new again => ?_, fun lit => ?_, fun lit cand dark carried => ?_, fun lit cand low carried => ?_⟩
    · have shown : s.lasers[i].measured w = ⟨s.lasers[i].cls, laserClass w, w⟩ := if_neg (by simpa using fun _ => again)
      rw [← shown]
      refine exec_laserInputMeasure_shows up ?_
      rw [shown]
      exact (em _).symm
    · have shown : s.lasers[i].measured w = ⟨if s.lasers[i].cand = .lit then .lit else s.lasers[i].cls, .lit, w⟩ :=
        Laser.measured_lit lit
      rw [← shown]
      refine exec_laserInputMeasure_shows up ?_
      rw [Laser.measured_lit lit]
      by_cases was : s.lasers[i].cls = .lit
      · exact .inr (by rw [was, ite_self])
      · exact .inl was
    · rw [exec_laserInputMeasure_falls up lit cand dark (by decide) carried]
      exact ⟨_, rfl, State.mgmtEvent_lasers .., State.event_logged_since rfl rfl (by simp [toLe_length])⟩
    · rw [exec_laserInputMeasure_falls up lit cand low (by decide) carried]
      have short : (toLe 1 i.val).length ≤ 10 := by simp [toLe_length]
      have first : Logged { s with lasers := s.lasers.set i ⟨.low, .low, w⟩ }
          (State.laserFell { s with lasers := s.lasers.set i ⟨.low, .low, w⟩ } .low i) 0x6201 s.mgmtIsland (toLe 1 i.val) :=
        LogGrows.event.logged (by decide) short
      have second := State.mgmtEvent_noted (s := State.mgmtEvent { s with lasers := s.lasers.set i ⟨.low, .low, w⟩ } 0x6201
        (toLe 1 i.val)) (c := 0x6203) short
      rw [State.mgmtEvent_mgmtIsland] at second
      exact ⟨_, rfl, (State.mgmtEvent_lasers ..).trans (State.mgmtEvent_lasers ..), first, second⟩
  · intro up r
    refine ⟨_, if_neg (by simp [up]), rfl, ?_, ?_⟩
    · exact lookupKey_foldl_setKey_last (pre := []) (post := (Telemetry.entries r).drop 1)
        (Telemetry.after_inputV r) _ _
    · exact lookupKey_foldl_setKey_last (pre := (Telemetry.entries r).take 5) (post := (Telemetry.entries r).drop 6)
        (Telemetry.after_coolantIn r) _ _
end

section
/-! SUPPORT. The ends of bring-up (O10; R351, R527, R530, R531, R536, R537). -/

namespace Sys2Proof.Machine

variable {s : State}

/-! ### READY and FAILED -/

/-- What the failure of bring-up leaves (R531, R541). -/
theorem State.bringupFails_frame (s : State) (cause : Nat) : s.bringupFails cause =
    { s with bringup := .failed, od := (s.bringupFails cause).od, pins := (s.bringupFails cause).pins } := rfl

/-- A bring-up that fails shows its cause and drives `FAULT_N` low (R531, R541). -/
theorem State.bringupFails_shows (w : Assoc.wf objDefault s.od = true) (up : s.phase = .up) (cause : Nat) :
    (s.bringupFails cause).bringup = .failed ∧ (s.bringupFails cause).obj 0x2010 1 = cause ∧
      (s.bringupFails cause).pins.faultN = .low :=
  ⟨rfl, State.obj_setObj_self (s := { s with bringup := .failed }) w 0x2010 1 cause,
    State.driveFault_low (.inl up) (by simp [State.faulty])⟩

/-- Setting a freeze changes the freeze and the cause it shows. -/
theorem State.freezeAt_frame (s : State) (c : Nat) (full pin : Bool) (cause g : Nat) : s.freezeAt c full pin cause g =
    { s with freeze := (s.freezeAt c full pin cause g).freeze, od := (s.freezeAt c full pin cause g).od } := by
  unfold State.freezeAt
  split
  · rfl
  · rfl
  · split <;> rfl
  · rfl

theorem State.freezeAt_obj (w : Assoc.wf objDefault s.od = true) (c : Nat) (full pin : Bool) (cause g : Nat) {i j : Nat}
    (other : i ≠ 0x3F00) (small : j < 256) : (s.freezeAt c full pin cause g).obj i j = s.obj i j := by
  have key : objKey i j ≠ objKey 0x3F00 6 := fun same => other ((objKey_inj small (by decide)).1 same).1
  unfold State.freezeAt
  split
  · exact (State.obj_setObj (s := { s with freeze := _ }) w _ _ _ _ _).trans (if_neg key)
  · rfl
  · split <;> rfl
  · rfl

theorem State.getReady_frame (s : State) (ms : Nat) : s.getReady ms =
    { s with bringup := .ready, freeze := (s.getReady ms).freeze, od := (s.getReady ms).od } := by
  unfold State.getReady
  dsimp only []
  split
  · rfl
  · rw [State.freezeAt_frame]
    rfl

/-- Getting READY leaves cores, islands and the log as the self-tests left them. -/
theorem State.getReady_keeps (s : State) (ms : Nat) : (s.getReady ms).bringup = .ready ∧ (s.getReady ms).coreMap = s.coreMap ∧
    (s.getReady ms).spares = s.spares ∧ (s.getReady ms).islands = s.islands ∧ (s.getReady ms).log = s.log := by
  rw [State.getReady_frame]
  exact ⟨rfl, rfl, rfl, rfl, rfl⟩

/-- A module that is READY shows the time it took (R530). -/
theorem State.getReady_time (w : Assoc.wf objDefault s.od = true) (ms : Nat) : (s.getReady ms).obj 0x2010 2 = ms := by
  have shown := State.obj_setObj_self (s := { s with bringup := .ready }) w 0x2010 2 ms
  unfold State.getReady
  dsimp only []
  split
  · exact shown
  · exact (State.freezeAt_obj (State.setObj_wf (s := { s with bringup := .ready }) w _ _ _) _ _ _ _ _ (by decide) (by decide)).trans
      shown

theorem State.getReady_high (high : s.pins.freezeN = true) (ms : Nat) : (s.getReady ms).freeze = s.freeze := by
  have go : s.getReady ms = ({ s with bringup := .ready }).setObj 0x2010 2 ms := if_pos high
  rw [go]
  rfl

/-- A `FREEZE_N` held low freezes a module that gets READY at once (R527). -/
theorem State.getReady_low (w : Assoc.wf objDefault s.od = true) (low : s.pins.freezeN = false) (run : s.freeze.st = .run)
    (ms : Nat) : (s.getReady ms).freeze.st = .pending ∧ (s.getReady ms).freeze.byPin = true := by
  have wf := State.setObj_wf (s := { s with bringup := .ready }) w 0x2010 2 ms
  unfold State.getReady
  dsimp only []
  rw [if_neg (by simp [low]), (State.freezeAt_run wf run _ _ _ _ _).1]
  exact ⟨rfl, rfl⟩

/-! ### The stacks that fail -/

/-- Each stack that failed is logged (R537). -/
def State.stacksFail (s : State) (l : List Stack) : State :=
  l.foldl (fun s (h : Stack) => s.event 0x2602 (0x40 + h.val) (toLe 1 h.val)) s

theorem State.stacksFail_grows (s : State) (l : List Stack) : LogGrows l.length s (s.stacksFail l) := by
  induction l generalizing s with
  | nil => exact .of_log rfl
  | cons h l ih =>
    rw [List.length_cons, Nat.add_comm]
    exact LogGrows.event.trans (ih _)

theorem State.stacksFail_noted {l : List Stack} (few : l.length < 65536) {h : Stack} (mem : h ∈ l) :
    Noted (s.stacksFail l) 0x2602 (0x40 + h.val) (toLe 1 h.val) := by
  induction l generalizing s with
  | nil => cases mem
  | cons x l ih =>
    rw [List.length_cons] at few
    obtain rfl | mem := List.mem_cons.1 mem
    · obtain ⟨e, log, code, island, detail, -⟩ := ((State.stacksFail_grows (s.event 0x2602 (0x40 + h.val) (toLe 1 h.val)) l).logged
        (by omega) (by simp [toLe_length]) : Logged s _ 0x2602 (0x40 + h.val) (toLe 1 h.val))
      exact ⟨e, log, code, island, detail⟩
    · exact ih (by omega) mem

/-- Logging the failed stacks keeps the dictionary canonical, the phase and what is kept without power. -/
theorem State.stacksFail_keeps (w : Assoc.wf objDefault s.od = true) (l : List Stack) :
    Assoc.wf objDefault (s.stacksFail l).od = true ∧ (s.stacksFail l).phase = s.phase ∧ (s.stacksFail l).nv = s.nv := by
  induction l generalizing s with
  | nil => exact ⟨w, rfl, rfl⟩
  | cons h l ih =>
    obtain ⟨wf, phase, nv⟩ := ih (State.event_wf w 0x2602 (0x40 + h.val) (toLe 1 h.val))
    exact ⟨wf, phase.trans (State.event_phase ..), nv.trans (State.event_nv ..)⟩

theorem State.mem_failedStacks {b : BringupResult} {h : Stack} : h ∈ s.failedStacks b ↔
    s.thermal[h] = .trip ∨ StackScan.passes b.scans[h] = false ∨ h ∈ b.unrepairable := by
  simp [State.failedStacks, indices, or_assoc]

theorem State.failedStacks_few (b : BringupResult) : (s.failedStacks b).length < 65536 := by
  have le := List.length_filter_le (fun h : Stack => s.thermal[h] = .trip || !StackScan.passes b.scans[h] ||
    b.unrepairable.contains h) (indices 8)
  unfold State.failedStacks
  simp only [indices, List.length_finRange] at le ⊢
  omega

/-! ### The cores' self-tests -/

theorem State.logicalOf_none {p : Phys} (none : s.logicalOf p.val = none) (c : Core) : s.coreMap[c] ≠ p := by
  intro same
  have no := List.find?_eq_none.1 none c (List.mem_finRange c)
  exact no (by rw [State.physOf, same]; exact decide_eq_true rfl)

theorem State.coresPass_iff {bad : List Phys} : s.coresPass bad = true ↔ ∀ c : Core, s.coreMap[c] ∉ bad := by
  simp [State.coresPass, Fin.forall_iff]

theorem State.coreTests_nil : s.coreTests [] = s := by
  simp [State.coreTests]

/-- The self-tests of which one core alone fails. -/
theorem State.coreTests_one (p : Phys) : s.coreTests [p] = s.coreTestFails [p] p := by
  have one : (indices 52).filter (fun q => [p].contains q) = [p] := by
    have same : (fun q => [p].contains q) = (fun q => decide (q = p)) := by
      funext q
      simp
    rw [indices, same, List.filter_eq, List.count_eq_one_of_mem (List.nodup_finRange _) (List.mem_finRange p)]
    rfl
  rw [State.coreTests, one]
  rfl

section Cores
variable {p : Phys}

/-- A failed spare is lost with event 0x2506 (R536). -/
theorem State.coreTestFails_spare (spare : s.logicalOf p.val = none) (bad : List Phys) : s.coreTestFails bad p =
    (({ s with spares := s.spares.set (p.val / 13) none (by omega) }).setIsland p.val .failed).event 0x2506 p.val
      (toLe 1 p.val) := by
  unfold State.coreTestFails
  rw [spare]

/-- A failed core of a die without a usable spare is left FAILED (R536). -/
theorem State.coreTestFails_stays {c : Core} {bad : List Phys} (core : s.logicalOf p.val = some c)
    (spare : s.testSpare bad p = none) : s.coreTestFails bad p = s.setIsland p.val .failed := by
  unfold State.coreTestFails
  rw [core, spare]

/-- A failed core's logical core moves to its die's spare with event 0x2601 (R536). -/
theorem State.coreTestFails_moves {c : Core} {sp : Phys} {bad : List Phys} (core : s.logicalOf p.val = some c)
    (spare : s.testSpare bad p = some sp) : s.coreTestFails bad p =
    ((({ s with coreMap := s.coreMap.set c sp, spares := s.spares.set (p.val / 13) none (by omega) }).setIsland p.val
      .failed).setIsland sp.val .run).event 0x2601 p.val (toLe 1 p.val ++ toLe 1 c.val ++ toLe 1 sp.val) := by
  unfold State.coreTestFails
  rw [core, spare]

/-- A spare that passed and fills no sparing can stand in (R536). -/
theorem State.testSpare_free {sp : Phys} (idle : s.sparing = []) (other : sp ≠ p) (free : s.spares[p.val / 13]? = some (some sp)) :
    s.testSpare [p] p = some sp := by
  have die : p.val / 13 < 4 := by omega
  rw [Vector.getElem?_eq_getElem die, Option.some_inj] at free
  refine Option.filter_eq_some_iff.2 ⟨free, ?_⟩
  simp [idle, other]

theorem State.testSpare_gone (gone : s.spares[p.val / 13]? = some none) (bad : List Phys) : s.testSpare bad p = none := by
  have die : p.val / 13 < 4 := by omega
  rw [Vector.getElem?_eq_getElem die, Option.some_inj] at gone
  exact Option.filter_eq_none_iff.2 (by simp [gone])

/-- The spare of a die is not the core that one of its logical cores runs on (R14, R15). -/
theorem CoresOk.spare_ne {m : Vector Phys 48} {sps : Vector (Option Phys) 4} {l : List Sparing} (ok : CoresOk m sps l) {c : Core}
    {sp : Phys} (core : m[c] = p) (free : sps[p.val / 13]? = some (some sp)) : sp ≠ p := by
  have die : p.val / 13 < 4 := by omega
  rw [Vector.getElem?_eq_getElem die, Option.some_inj] at free
  rintro rfl
  exact ok.spareFree ⟨sp.val / 13, die⟩ sp free c core

/-- Once its logical core has moved, no logical core runs on the failed one (R536). -/
theorem CoresOk.moved_ne {m : Vector Phys 48} {sps : Vector (Option Phys) 4} {l : List Sparing} (ok : CoresOk m sps l) {c : Core}
    {sp : Phys} (core : m[c] = p) (other : sp ≠ p) (d : Core) : (m.set c sp)[d] ≠ p := by
  by_cases same : d = c
  · subst same
    simpa using other
  · have apart : (c : Nat) ≠ d := fun x => same (Fin.ext x.symm)
    have kept : (m.set c sp)[d] = m[d] := by simp [apart]
    rw [kept]
    exact fun runs => same (ok.distinct d c (runs.trans core.symm))

/-- The failure of one core whose die has a free spare (R536). -/
theorem State.coreTests_moved {c : Core} {sp : Phys} (ok : CoresOk s.coreMap s.spares s.sparing)
    (core : s.logicalOf p.val = some c) (idle : s.sparing = []) (free : s.spares[p.val / 13]? = some (some sp)) :
    (s.coreTests [p]).coresPass [p] = true ∧ (s.coreTests [p]).coreMap = s.coreMap.set c sp ∧
      (s.coreTests [p]).island p.val = .failed ∧ (s.coreTests [p]).island sp.val = .run ∧
      Logged s (s.coreTests [p]) 0x2601 p.val (toLe 1 p.val ++ toLe 1 c.val ++ toLe 1 sp.val) := by
  have runs : s.coreMap[c] = p := Fin.ext (State.logicalOf_some core)
  have other := ok.spare_ne runs free
  have apart : p.val ≠ sp.val := fun same => other (Fin.ext same.symm)
  rw [State.coreTests_one, State.coreTestFails_moves core (State.testSpare_free idle other free), State.coresPass_iff,
    State.event_coreMap, State.island_of_islands (State.event_islands ..), State.island_of_islands (State.event_islands ..),
    State.island_setIsland]
  refine ⟨fun d m => ok.moved_ne runs other d (List.mem_singleton.1 m), rfl, ?_, rfl,
    State.event_logged_since rfl rfl (by simp [toLe_length])⟩
  unfold State.island State.setIsland
  rw [lookupKey_setKey_other apart, lookupKey_setKey_self]
  rfl

/-- The failure of one core whose die has no spare left (R536). -/
theorem State.coreTests_stuck {c : Core} (core : s.logicalOf p.val = some c) (gone : s.spares[p.val / 13]? = some none) :
    s.coreTests [p] = s.setIsland p.val .failed ∧ (s.coreTests [p]).coresPass [p] = false := by
  have runs : s.coreMap[c] = p := Fin.ext (State.logicalOf_some core)
  have stays := (State.coreTests_one p).trans (State.coreTestFails_stays core (State.testSpare_gone gone _))
  refine ⟨stays, ?_⟩
  rw [stays, Bool.eq_false_iff, Ne, State.coresPass_iff]
  exact fun pass => pass c (List.mem_singleton.2 runs)

/-- The failure of one core that serves no logical one: a spare (R536). -/
theorem State.coreTests_spare (spare : s.logicalOf p.val = none) :
    (s.coreTests [p]).coresPass [p] = true ∧ (s.coreTests [p]).coreMap = s.coreMap ∧
      (s.coreTests [p]).spares[p.val / 13]? = some none ∧ (s.coreTests [p]).island p.val = .failed ∧
      Logged s (s.coreTests [p]) 0x2506 p.val (toLe 1 p.val) := by
  rw [State.coreTests_one, State.coreTestFails_spare spare, State.coresPass_iff, State.event_coreMap, State.event_spares,
    State.island_of_islands (State.event_islands ..), State.island_setIsland]
  exact ⟨fun d m => State.logicalOf_none spare d (List.mem_singleton.1 m), rfl, by simp, rfl,
    State.event_logged_since rfl rfl (by simp [toLe_length])⟩

end Cores

/-! ### Bring-up's end by what was found -/

/-- Memory cleared, with the repairs and the scan of bring-up kept (R351, R537). -/
def State.broughtUp (s : State) (b : BringupResult) : State :=
  { (s.hardenRepairs b.unrepairable).keepScan (indices 8) b.scans with mem := [], poison := [] }

/-- The repairs listed of a stack that can be repaired are hard (R342, R537). -/
theorem State.broughtUp_repairs (b : BringupResult) : (s.broughtUp b).nv.repairs =
    s.nv.repairs.map (fun e => (e.1, e.2 || !b.unrepairable.any (fun h => rowStack e.1 = h.val))) := rfl

theorem State.broughtUp_hard {b : BringupResult} (all : b.unrepairable = []) : ∀ e ∈ (s.broughtUp b).nv.repairs, e.2 = true := by
  intro e m
  obtain ⟨x, -, rfl⟩ := List.mem_map.1 (s.broughtUp_repairs b ▸ m)
  simp [all]

/-- Bring-up scans every stack and shows every lane's eye (R348, R349). -/
theorem State.broughtUp_marginResult (b : BringupResult) : (s.broughtUp b).marginResult =
    (indices 8).flatMap (fun h => (indices 256).flatMap (fun i => LaneEye.bytes (StackScan.lane b.scans[h] i))) := by
  simp [State.broughtUp, State.keepScan, indices]

theorem exec_bringupComplete_late {b : BringupResult} (late : 1000 < b.ms ∨ 1000000000 < s.uptime) :
    exec (.bringupComplete b) s = .next s := by
  refine if_pos ?_
  obtain late | late := late <;> simp [late]

section Ends
variable {b : BringupResult} (up : s.phase = .up) (running : s.bringup = .running) (time : b.ms ≤ 1000)
  (now : s.uptime ≤ 1000000000)
include up running time now

/-- In its time bring-up ends by what was found. -/
theorem exec_bringupComplete_inTime : exec (.bringupComplete b) s =
    match s.failedStacks b with
    | h :: hs => .next ((((s.hardenRepairs b.unrepairable).keepScan (indices 8) b.scans).stacksFail (h :: hs)).bringupFails 1)
    | [] => match b.clearFail with
      | some a => .next (((s.broughtUp b).mgmtEvent 0x2603 (toLe 6 a.toNat)).bringupFails 4)
      | none => .next (if ((s.broughtUp b).coreTests b.coreFail).coresPass b.coreFail then
          ((s.broughtUp b).coreTests b.coreFail).getReady b.ms else ((s.broughtUp b).coreTests b.coreFail).bringupFails 2) :=
  if_neg (by simp [up, running]; omega)

theorem exec_bringupComplete_stacks {h : Stack} (failed : h ∈ s.failedStacks b) : exec (.bringupComplete b) s =
    .next ((((s.hardenRepairs b.unrepairable).keepScan (indices 8) b.scans).stacksFail (s.failedStacks b)).bringupFails 1) := by
  rw [exec_bringupComplete_inTime up running time now]
  cases found : s.failedStacks b with
  | nil => simp [found] at failed
  | cons x xs => rfl

theorem exec_bringupComplete_clear {a : BitVec 48} (noStack : s.failedStacks b = []) (fails : b.clearFail = some a) :
    exec (.bringupComplete b) s = .next (((s.broughtUp b).mgmtEvent 0x2603 (toLe 6 a.toNat)).bringupFails 4) := by
  rw [exec_bringupComplete_inTime up running time now, noStack, fails]

theorem exec_bringupComplete_ready (noStack : s.failedStacks b = []) (clear : b.clearFail = none)
    (pass : ((s.broughtUp b).coreTests b.coreFail).coresPass b.coreFail = true) :
    exec (.bringupComplete b) s = .next (((s.broughtUp b).coreTests b.coreFail).getReady b.ms) := by
  rw [exec_bringupComplete_inTime up running time now, noStack, clear]
  exact congrArg _ (if_pos pass)

theorem exec_bringupComplete_cores (noStack : s.failedStacks b = []) (clear : b.clearFail = none)
    (fails : ((s.broughtUp b).coreTests b.coreFail).coresPass b.coreFail = false) :
    exec (.bringupComplete b) s = .next (((s.broughtUp b).coreTests b.coreFail).bringupFails 2) := by
  rw [exec_bringupComplete_inTime up running time now, noStack, clear]
  exact congrArg _ (if_neg (by simp [fails]))

end Ends

end Sys2Proof.Machine

open Sys2Proof Sys2Proof.Machine

/-- Settles O10: bring-up ends by the stacks, then the clearing of memory, then the cores. -/
theorem bringUpEnds : Obligations.BringUpEnds := by
  intro s inv up running
  refine ⟨fun sc un cf l ms time now => ⟨fun pass all => ?_, fun h failed => ?_⟩, fun b => exec_bringupComplete_late,
    fun late => ?_⟩
  · subst all
    have noStack : s.failedStacks ⟨sc, [], cf, l, ms⟩ = [] := List.eq_nil_iff_forall_not_mem.2 fun h m => by
      obtain trip | fails | bad := State.mem_failedStacks.1 m
      · exact (pass h).1 trip
      · exact absurd ((pass h).2.symm.trans fails) (by decide)
      · cases bad
    refine ⟨?_, ?_, ?_, ?_⟩
    · rintro rfl rfl
      have go := exec_bringupComplete_ready up running time now noStack rfl (by simp [State.coresPass_iff])
      rw [State.coreTests_nil] at go
      refine ⟨_, go, ?_, State.getReady_time (s := s.broughtUp _) inv.objects ms, ?_, ?_, ?_, ?_, ?_, fun high => ?_, fun low run => ?_⟩
      · rw [State.getReady_frame]
      · rw [State.getReady_frame]
        rfl
      · rw [State.getReady_frame]
        rfl
      · rw [State.getReady_frame]
        exact State.broughtUp_hard rfl
      · rw [State.getReady_frame]
        rfl
      · rw [State.getReady_frame]
        exact State.broughtUp_marginResult _
      · exact State.getReady_high (s := s.broughtUp _) high _
      · exact State.getReady_low (s := s.broughtUp _) inv.objects low run _
    · rintro p c rfl rfl core idle
      refine ⟨fun sp free => ?_, fun gone => ?_⟩
      · obtain ⟨passed, map, failed, runs, logged⟩ := State.coreTests_moved (s := s.broughtUp ⟨sc, [], none, [p], ms⟩) inv.cores
          core idle free
        obtain ⟨ready, cores, -, islands, log⟩ := State.getReady_keeps ((s.broughtUp ⟨sc, [], none, [p], ms⟩).coreTests [p]) ms
        refine ⟨_, exec_bringupComplete_ready up running time now noStack rfl passed, ready, cores.trans map,
          (State.island_of_islands islands _).trans failed, (State.island_of_islands islands _).trans runs, ?_⟩
        rw [Logged, log]
        exact logged
      · obtain ⟨stays, fails⟩ := State.coreTests_stuck (s := s.broughtUp ⟨sc, [], none, [p], ms⟩) core gone
        have go := exec_bringupComplete_cores up running time now noStack rfl fails
        obtain ⟨failed, cause, low⟩ := State.bringupFails_shows (s := (s.broughtUp ⟨sc, [], none, [p], ms⟩).setIsland p.val .failed)
          inv.objects up 2
        rw [← stays] at failed cause low
        refine ⟨_, go, failed, cause, low, ?_⟩
        rw [State.bringupFails_frame, stays]
        exact State.island_setIsland
    · rintro p rfl rfl spare
      obtain ⟨passed, map, spares, failed, logged⟩ := State.coreTests_spare (s := s.broughtUp ⟨sc, [], none, [p], ms⟩) spare
      obtain ⟨ready, cores, kept, islands, log⟩ := State.getReady_keeps ((s.broughtUp ⟨sc, [], none, [p], ms⟩).coreTests [p]) ms
      refine ⟨_, exec_bringupComplete_ready up running time now noStack rfl passed, ready, cores.trans map, ?_,
        (State.island_of_islands islands _).trans failed, ?_⟩
      · rw [kept]
        exact spares
      · rw [Logged, log]
        exact logged
    · rintro a rfl
      have event := State.event_wf (s := s.broughtUp ⟨sc, [], some a, l, ms⟩) inv.objects 0x2603
        (s.broughtUp ⟨sc, [], some a, l, ms⟩).mgmtIsland (toLe 6 a.toNat)
      obtain ⟨failed, cause, low⟩ := State.bringupFails_shows event ((State.event_phase ..).trans up) 4
      refine ⟨_, exec_bringupComplete_clear up running time now noStack rfl, failed, cause, low, ?_⟩
      exact State.event_logged_since (u := s.broughtUp ⟨sc, [], some a, l, ms⟩) rfl rfl (by simp [toLe_length])
  · have listed : h ∈ s.failedStacks ⟨sc, un, cf, l, ms⟩ := State.mem_failedStacks.2 failed
    obtain ⟨wf, phase, nv⟩ := State.stacksFail_keeps (s := (s.hardenRepairs un).keepScan (indices 8) sc) inv.objects
      (s.failedStacks ⟨sc, un, cf, l, ms⟩)
    obtain ⟨failed, cause, low⟩ := State.bringupFails_shows wf (phase.trans up) 1
    refine ⟨_, exec_bringupComplete_stacks up running time now listed, failed, cause, low,
      State.stacksFail_noted (State.failedStacks_few _) listed, congrArg NonVolatile.repairs nv⟩
  · exact ⟨_, if_pos (by simp [up, running, late]), State.bringupFails_shows inv.objects up 5⟩
end

section
/-! SUPPORT. A record that takes its credits (O35; R356, R357, R366). -/

namespace Sys2Proof.Machine

variable {s : State} {p : Plan} {c : Core} {r : Nat} {q : QRec} {rc : Rec} {n : Need}

/-- Noting grants from pools changes the step's notes alone (R382). -/
theorem State.notePools_frame (l : List (Nat × Nat)) (waited : Bool) (s : State) :
    l.foldl (fun s x => s.notePool p x.1 waited) s =
      { s with step := (l.foldl (fun s x => s.notePool p x.1 waited) s).step } := by
  induction l generalizing s with
  | nil => rfl
  | cons x l ih => exact ih (s.notePool p x.1 waited)

/-- A record in flight as its grant leaves it: its feed's reads begin (R357, R366). -/
def State.granted (s : State) (p : Plan) (c : Core) (rc : Rec) (q : QRec) (reqs : List (Nat × Nat)) : QRec :=
  { q with phase := .granted, credits := reqs
           reads := if reqs.isEmpty then [] else p.feedReads ((s.ctx p c rc q).takes (s.recReads rc) s)
           chainTiles := (s.ctx p c rc q).chainTiles (s.recReads rc) s
           feedWrites := !reqs.isEmpty && p.feedWrites rc s.step.current }

/-- An opened feed leaves the record granted, and memory as it was. -/
theorem State.openFeed_granted (hq : s.qrec c rc.recno = some q) (reqs : List (Nat × Nat)) :
    (s.openFeed p c rc reqs).qrec c rc.recno = some (s.granted p c rc q reqs) ∧
      (s.openFeed p c rc reqs).mem = s.mem := by
  unfold State.openFeed
  rw [hq]
  exact ⟨State.modQRec_found hq fun _ => rfl, rfl⟩

/-- The state after a grant, before waits begin and records start: the feed is open, and the wait is counted and noted
by pool (R366, R382). -/
def State.creditsTaken (s : State) (p : Plan) (c : Core) (rc : Rec) (q : QRec) (reqs : List (Nat × Nat)) : State :=
  let waited := s.gc.value - q.waitSince.getD s.gc.value
  reqs.foldl (fun s x => s.notePool p x.1 (decide (0 < waited)))
    ((s.openFeed p c rc reqs).addObj 0x303E ((s.openFeed p c rc reqs).physOf c).val (coreCycles waited))

theorem State.creditsTaken_granted (hq : s.qrec c rc.recno = some q) (reqs : List (Nat × Nat)) :
    (s.creditsTaken p c rc q reqs).qrec c rc.recno = some (s.granted p c rc q reqs) ∧
      (s.creditsTaken p c rc q reqs).mem = s.mem := by
  unfold State.creditsTaken
  rw [State.notePools_frame]
  exact State.openFeed_granted hq reqs

/-- The record stands first in every pool it names, each with enough free (R366). -/
def State.mayTake (s : State) (p : Plan) (c : Core) (q : QRec) (reqs : List (Nat × Nat)) : Prop :=
  ∀ x ∈ reqs, x.2 ≤ s.poolFree p x.1 ∧ s.before p x.1 c q = false

section Requester
variable (aw : s.awake = true) (run : s.step.status = .running) (hp : s.plan = some p) (hq : s.qrec c r = some q)
  (hrc : p.recAt c r = some rc)
include hp hq hrc

/-- A record that may not take what it asks for takes nothing. -/
theorem exec_creditGrant_waits (hn : p.needOf c r = some n) (short : ¬ s.mayTake p c q n.reqs) :
    exec (.creditGrant c r) s = .next s := by
  change execCreditGrant c r s = _
  unfold execCreditGrant
  rw [hp, hq]
  dsimp only []
  rw [hrc, hn]
  refine if_pos ?_
  have refused : n.reqs.all (fun x => decide (x.2 ≤ s.poolFree p x.1) && !s.before p x.1 c q) = false := by
    rw [← Bool.not_eq_true]
    simpa [State.mayTake] using short
  simp [refused]

include aw run

/-- A requester that may take what it asks for takes all of it at once. -/
theorem exec_creditGrant_takes (hn : p.needOf c r = some n) (first : s.cores[c].requester q = true)
    (sheaves : s.sheavesIn p c rc = true) (may : s.mayTake p c q n.reqs) :
    exec (.creditGrant c r) s = .next ((s.creditsTaken p c rc q n.reqs).settle c) := by
  change execCreditGrant c r s = _
  unfold execCreditGrant
  rw [hp, hq]
  dsimp only []
  rw [hrc, hn]
  refine if_neg ?_
  simpa [aw, run, sheaves, State.mayTake] using And.intro first may

end Requester

end Sys2Proof.Machine

open Sys2Proof Sys2Proof.Machine

/-- Settles O35: a requester either may take what it asks for, and is granted all of it, or takes nothing. -/
theorem creditsAreGrantedWhole : Obligations.CreditsAreGrantedWhole := by
  intro s c r p q rc n aw run hp hq hrc number hn first sheaves
  refine ⟨fun may => ?_, fun ⟨x, named, lacks⟩ => ?_⟩
  · subst number
    obtain ⟨granted, mem⟩ := State.creditsTaken_granted (p := p) hq n.reqs
    exact ⟨_, exec_creditGrant_takes aw run hp hq hrc hn first sheaves may, mem, granted⟩
  · refine exec_creditGrant_waits hp hq hrc hn fun may => ?_
    obtain ⟨enough, none⟩ := may x named
    obtain short | behind := lacks
    · omega
    · exact absurd behind (by simp [none])
end

section
/-! SUPPORT. Watchdog conditions, transient bins and a step's overtime (O39; R375 to R377, R497). -/

namespace Sys2Proof.Machine

variable {s : State} {w : WatchCondition} {x : Watched}

/-! ### Watchdogs (R375, R376) -/

/-- A condition is of one of the three kinds. -/
theorem State.watched_kind (holds : s.watched w = some x) : x.kind < 3 := by
  cases w with
  | crossing a b r since =>
    simp only [State.watched, Option.ite_none_right_eq_some, Option.some.injEq] at holds
    simp [← holds.2]
  | credit c r =>
    simp only [State.watched, Option.bind_eq_some_iff, Option.ite_none_right_eq_some, Option.map_eq_some_iff] at holds
    obtain ⟨_, _, _, _, _, rfl⟩ := holds
    simp
  | engine c r since =>
    simp only [State.watched, Option.bind_eq_some_iff, Option.ite_none_right_eq_some, Option.some.injEq] at holds
    obtain ⟨_, _, _, rfl⟩ := holds
    simp

/-- A crossing with an end that does not run is not watched, nor is any while no step runs (R376). -/
theorem State.watched_crossing_stopped {a b : Island} {r since : Nat}
    (stopped : s.island a.toNat ≠ .run ∨ s.island b.toNat ≠ .run ∨ s.step.status ≠ .running) :
    s.watched (.crossing a b r since) = none := by
  refine if_neg ?_
  obtain sender | receiver | still := stopped
  · simp [sender]
  · simp [receiver]
  · simp [still]

/-- The state after a condition past its limit: it stands, and is counted and logged (R375). -/
def State.watchdogNoted (s : State) (w : WatchCondition) (x : Watched) : State :=
  (({ s with standing := s.standing ++ [w] } : State).addObj 0x3040 x.kind 1).event
    (BitVec.ofNat 16 (0x4701 + x.kind)) x.island x.detail

theorem exec_watchdogExpiry_late (holds : s.watched w = some x) (new : w ∉ s.standing)
    (late : 1000 * s.obj 0x2801 x.kind < s.watchTicks x) :
    exec (.watchdogExpiry w) s = .next (s.watchdogNoted w x) := by
  change execWatchdogExpiry w s = _
  unfold execWatchdogExpiry
  rw [holds]
  exact if_neg (by simpa [new] using late)

/-- A condition is logged once, and only while it holds. -/
theorem exec_watchdogExpiry_idle (idle : w ∈ s.standing ∨ s.watched w = none) :
    exec (.watchdogExpiry w) s = .next s := by
  change execWatchdogExpiry w s = _
  unfold execWatchdogExpiry
  cases holds : s.watched w with
  | none => rfl
  | some x =>
    have standing : w ∈ s.standing := idle.resolve_right (by simp [holds])
    exact if_pos (by simp [standing])

/-- Expiries are counted by kind, up to 32 bits (R375). -/
theorem expiries_max {k : Nat} (lt : k < 3) : ((objFind 0x3040 k).map (fun o => o.ty.maxValue)).getD 0 = 2 ^ 32 - 1 := by
  have each : ∀ k : Fin 3, ((objFind 0x3040 k.val).map (fun o => o.ty.maxValue)).getD 0 = 2 ^ 32 - 1 := by decide
  exact each ⟨k, lt⟩

theorem State.watchdogNoted_counted (wf : Assoc.wf objDefault s.od = true) (kind : x.kind < 3) :
    (s.watchdogNoted w x).obj 0x3040 x.kind = min (2 ^ 32 - 1) (s.obj 0x3040 x.kind + 1) := by
  have counted := State.obj_counted (s := { s with standing := s.standing ++ [w] }) (n := 1) wf (expiries_max kind)
  exact ((State.event_onlyLogs (State.addObj_wf (s := { s with standing := s.standing ++ [w] }) wf _ _ _) _ _ _).objects _ _
    (by decide) (by omega)).trans counted

/-! ### Transient bins (R497) -/

/-- A core's sum shown leaves the limit. -/
theorem State.sumShown_limit (wf : Assoc.wf objDefault s.od = true) (k v : Nat) :
    (s.setObj 0x5031 k v).obj 0x5030 0 = s.obj 0x5030 0 := by
  rw [State.obj_setObj wf, if_neg]
  unfold objKey
  omega

/-- Without a limit a core's sum is shown and nothing more. -/
theorem State.checkTransients_unlimited (wf : Assoc.wf objDefault s.od = true) (unlimited : s.obj 0x5030 0 = 0) (k : Nat) :
    s.checkTransients k = s.setObj 0x5031 k (((lookupKey k s.transientBins).getD []).foldl (· + ·) 0) := by
  refine if_pos ?_
  simp [State.sumShown_limit wf, unlimited]

/-- Without a limit the cores' sums are all that changes. -/
theorem State.checkTransients_all_frame (l : List Nat) (wf : Assoc.wf objDefault s.od = true) (unlimited : s.obj 0x5030 0 = 0) :
    l.foldl State.checkTransients s = { s with od := (l.foldl State.checkTransients s).od } := by
  induction l generalizing s with
  | nil => rfl
  | cons k l ih =>
    rw [List.foldl_cons, State.checkTransients_unlimited wf unlimited]
    exact ih (State.setObj_wf wf _ _ _) ((State.sumShown_limit wf _ _).trans unlimited)

/-- The bins of every core moved on by a minute. -/
def State.binsRolled (s : State) : State :=
  { s with transientBins := s.transientBins.map (fun b => (b.1, (0 :: b.2).take 60)) }

theorem exec_transientBinRoll (aw : s.awake = true) : exec .transientBinRoll s =
    .next ((s.binsRolled.transientBins.map Prod.fst).foldl State.checkTransients s.binsRolled) :=
  if_neg (by simp [aw])

theorem State.binsRolled_nil (empty : s.transientBins = []) : s.binsRolled = s := by
  unfold State.binsRolled
  rw [empty, List.map_nil, ← empty]

/-! ### The oldest standing condition (R377) -/

/-- The order of counts and islands by which standing conditions are sorted. -/
def beganEarlier (a b : Nat × Nat) : Bool := decide (a.1 < b.1) || (a.1 = b.1 && decide (a.2 < b.2))

/-- The first of a list sorted by count and island is of the list, and none of it has a lower count. -/
theorem sortBy_beganEarlier_first {l rest : List (Nat × Nat)} {a : Nat × Nat} (sorted : sortBy beganEarlier l = a :: rest) :
    a ∈ l ∧ ∀ b ∈ l, a.1 ≤ b.1 := by
  have rising : (sortBy beganEarlier l).Pairwise (fun a b => a.1 ≤ b.1) := by
    refine sortBy_pairwise (fun _ _ _ => Nat.le_trans) (List.pairwise_of_forall fun b a => ⟨fun less => ?_, fun more => ?_⟩)
    · simp only [beganEarlier, Bool.or_eq_true, Bool.and_eq_true, decide_eq_true_eq] at less
      omega
    · exact Nat.not_lt.1 (of_decide_eq_false (Bool.or_eq_false_iff.1 more).1)
  rw [sorted] at rising
  have entries (b : Nat × Nat) : b ∈ l ↔ b ∈ a :: rest := by rw [← sorted, sortBy_perm.mem_iff]
  refine ⟨(entries a).2 List.mem_cons_self, fun b mem => ?_⟩
  obtain rfl | later := List.mem_cons.1 ((entries b).1 mem)
  · exact Nat.le_refl _
  · exact List.rel_of_pairwise_cons rising later

/-- The standing conditions that hold: when each began, and its island. -/
def State.standingBegun (s : State) : List (Nat × Nat) :=
  s.standingNow.filterMap (fun w => (s.watched w).map (fun x => (x.since, x.island)))

theorem State.mem_standingBegun {a : Nat × Nat} : a ∈ s.standingBegun ↔
    ∃ w ∈ s.standingNow, ∃ x, s.watched w = some x ∧ (x.since, x.island) = a := by
  simp only [State.standingBegun, List.mem_filterMap, Option.map_eq_some_iff]

theorem State.oldestStanding_eq (s : State) :
    s.oldestStanding = ((sortBy beganEarlier s.standingBegun).head?.map Prod.snd).getD 0xFF := by
  change (match sortBy beganEarlier s.standingBegun with
    | [] => 0xFF
    | x :: _ => x.2) = _
  cases sortBy beganEarlier s.standingBegun <;> rfl

theorem State.oldestStanding_none (none : ∀ w ∈ s.standingNow, s.watched w = none) : s.oldestStanding = 0xFF := by
  have empty : s.standingBegun = [] := List.eq_nil_iff_forall_not_mem.2 fun a mem => by
    obtain ⟨w, stands, x, holds, -⟩ := State.mem_standingBegun.1 mem
    rw [none w stands] at holds
    cases holds
  rw [State.oldestStanding_eq, empty]
  rfl

/-- The oldest standing condition began no later than any other. -/
theorem State.oldestStanding_first (stands : w ∈ s.standingNow) (holds : s.watched w = some x) :
    ∃ v ∈ s.standingNow, ∃ y, s.watched v = some y ∧ y.since ≤ x.since ∧ s.oldestStanding = y.island := by
  have listed : (x.since, x.island) ∈ s.standingBegun := State.mem_standingBegun.2 ⟨w, stands, x, holds, rfl⟩
  rw [State.oldestStanding_eq]
  cases sorted : sortBy beganEarlier s.standingBegun with
  | nil =>
    rw [← sortBy_perm.mem_iff, sorted] at listed
    cases listed
  | cons a rest =>
    obtain ⟨first, least⟩ := sortBy_beganEarlier_first sorted
    obtain ⟨v, stands, y, watched, rfl⟩ := State.mem_standingBegun.1 first
    exact ⟨v, stands, y, watched, least _ listed, rfl⟩

/-! ### Overtime (R377) -/

theorem exec_stepOvertime_late (aw : s.awake = true) (run : s.step.status = .running)
    (late : s.step.planned + s.obj 0x2801 3 ≤ s.gc.value) :
    exec .stepOvertime s = .next (s.abortWith 0x4704 s.mgmtIsland (toLe 1 s.oldestStanding)) :=
  if_pos (by simp [aw, run, late])

/-- In its time, or without a step that runs, overtime aborts nothing. -/
theorem exec_stepOvertime_idle (idle : s.gc.value < s.step.planned + s.obj 0x2801 3 ∨ s.step.status ≠ .running) :
    exec .stepOvertime s = .next s := by
  refine if_neg ?_
  obtain early | still := idle
  · simp [early]
  · simp [still]

end Sys2Proof.Machine

open Sys2Proof Sys2Proof.Machine

/-- Settles O39: a late condition by what `State.watchdogNoted` leaves, the bins' roll by its frame, and overtime by what an
abort leaves and the first of the standing conditions sorted. -/
theorem watchdogsReportAndOvertimeAborts : Obligations.WatchdogsReportAndOvertimeAborts := by
  refine ⟨fun s inv aw => ⟨fun w x holds new late => ?_, fun w => exec_watchdogExpiry_idle,
      fun a b r since stopped => exec_watchdogExpiry_idle (.inr (State.watched_crossing_stopped stopped)),
      fun empty => ?_, fun unlimited => ?_⟩,
    fun s aw => ⟨fun run late => ?_, fun early => exec_stepOvertime_idle (.inl early),
      fun still => exec_stepOvertime_idle (.inr still)⟩⟩
  · exact ⟨s.watchdogNoted w x, exec_watchdogExpiry_late holds new late, State.event_standing .., State.event_step ..,
      State.event_cores .., State.event_mem .., State.watchdogNoted_counted inv.objects (State.watched_kind holds),
      State.event_logged_since rfl rfl (by simp [Watched.detail, toLe_length])⟩
  · rw [exec_transientBinRoll aw, State.binsRolled_nil empty, empty]
    rfl
  · refine ⟨_, exec_transientBinRoll aw, ?_⟩
    rw [State.checkTransients_all_frame (s := s.binsRolled) _ inv.objects unlimited]
    exact ⟨rfl, rfl⟩
  · have live : s.stepLive = true := by simp [State.stepLive, run]
    obtain ⟨status, causes⟩ := State.abortWith_status (t := s) (c := 0x4704) (i := s.mgmtIsland)
      (d := toLe 1 s.oldestStanding) rfl live
    obtain ⟨e, mem, code, -, detail, -⟩ := State.abortWith_logged (s := s) (c := 0x4704) (i := s.mgmtIsland)
      (d := toLe 1 s.oldestStanding) (by simp [toLe_length])
    exact ⟨_, exec_stepOvertime_late aw run late, status, causes, ⟨e, mem, code, detail⟩, State.oldestStanding_none,
      fun w stands x holds => State.oldestStanding_first stands holds⟩
end

section
/-! SUPPORT. The dying gasp goes out before the power or reset takes the module away (O8). -/

namespace Sys2Proof.Machine

variable {s t : State}

/-- A module that sends its gasp, and then only loses what is volatile, has gasped (R416). -/
theorem Gasped.of_out {c : Nat} (h : t.out = (s.gasp c).out) : Gasped s t (BitVec.ofNat 8 c) :=
  fun _ up => (State.gasp_sent up).later (by rw [h])

/-- The power that goes takes nothing back of what has been sent (R532). -/
theorem State.powerOff_out : s.powerOff.out = s.out := rfl

theorem State.heldInReset_out : s.heldInReset.out = s.out := rfl

theorem State.noteStop_out {c : Nat} : (s.noteStop c).out = s.out := by
  unfold State.noteStop
  split <;> rfl

theorem State.latch_out {c : Nat} : (s.latch c).out = s.out := by
  unfold State.latch
  split <;> rfl

/-- A module that runs, or stands in a FULL freeze, can send its gasp (R416, R515). -/
theorem State.canGasp_of (h : s.phase = .up ∨ s.phase = .fullFreeze) : s.canGasp = true := by
  unfold State.canGasp
  rcases h with h | h <;> simp [h]

section
variable (h : s.phase = .up ∨ s.phase = .fullFreeze)
include h

theorem exec_pwrEnDeassert_gasps (on : s.pins.pwrEn = true) :
    ∃ t : State, exec .pwrEnDeassert s = .next t ∧ t.out = (s.gasp 3).out := by
  change ∃ t, execPwrEnDeassert s = .next t ∧ _
  unfold execPwrEnDeassert
  rw [if_neg (by simp [on]), if_pos (State.canGasp_of h)]
  generalize s.gasp 3 = u
  exact ⟨_, rfl, State.powerOff_out⟩

theorem exec_undervoltageStop_gasps (run : s.stage = .running) :
    ∃ t : State, exec .undervoltageStop s = .next t ∧ t.out = (s.gasp 3).out := by
  change ∃ t, execUndervoltageStop s = .next t ∧ _
  unfold execUndervoltageStop
  rw [run, if_pos (State.canGasp_of h)]
  generalize s.gasp 3 = u
  exact ⟨_, rfl, State.powerOff_out.trans State.noteStop_out⟩

/-- Reset drives its pin first: the gasp is that of the module with the pin low (R532). -/
theorem exec_resetNAssert_gasps : ∃ t : State, exec .resetNAssert s = .next t ∧
    t.out = (State.gasp { s with pins := { s.pins with resetN := false } } 2).out := by
  change ∃ t, execResetNAssert s = .next t ∧ _
  unfold execResetNAssert
  rcases h with h | h
  · exact ⟨_, by simp only [h], State.heldInReset_out⟩
  · exact ⟨_, by simp only [h], State.heldInReset_out⟩

theorem exec_dieTrip_gasps (d : Die) : ∃ t : State, exec (.dieTrip d) s = .next t ∧ t.out = (s.gasp 1).out := by
  have powered : s.powered = true := by
    unfold State.powered
    rcases h with h | h <;> simp [h]
  change ∃ t, execDieTrip d s = .next t ∧ _
  unfold execDieTrip
  rw [if_neg (by simp [powered]), if_pos (State.canGasp_of h)]
  exact ⟨_, rfl, State.powerOff_out.trans State.latch_out⟩

end

end Sys2Proof.Machine

open Sys2Proof Sys2Proof.Machine

/-- Settles O8: each of the four commands sends the gasp first, and what follows leaves what is sent. -/
theorem dyingGaspGoesFirst : Obligations.DyingGaspGoesFirst := by
  intro s h
  refine ⟨fun on => ?_, fun run => ?_, ?_, fun d => ?_⟩
  · obtain ⟨t, e, out⟩ := exec_pwrEnDeassert_gasps h on
    exact ⟨t, e, .of_out out⟩
  · obtain ⟨t, e, out⟩ := exec_undervoltageStop_gasps h run
    exact ⟨t, e, .of_out out⟩
  · obtain ⟨t, e, out⟩ := exec_resetNAssert_gasps h
    exact ⟨t, e, Gasped.of_out (s := { s with pins := { s.pins with resetN := false } }) out⟩
  · obtain ⟨t, e, out⟩ := exec_dieTrip_gasps h d
    exact ⟨t, e, .of_out out⟩
end

section
/-! SUPPORT. A lane that fails while its own swap is under way (O20). -/

namespace Sys2Proof.Machine

variable {s : State} {p : Port} {lane : Fin 8} {w : LaneSwap}

/-- A lane whose swap is under way is not swapped again, nor does its port fail, whatever spare is left. -/
theorem State.laneFails_underWay (h : s.ports[p].rx.swap = some w) (e : w.lane = lane.val) (rate : Bool) :
    s.laneFails p lane rate = s := by
  unfold State.laneFails
  dsimp only []
  rw [h]
  exact if_pos e

theorem exec_laneLockLost_underWay (h : s.ports[p].rx.swap = some w) (e : w.lane = lane.val) :
    exec (.laneLockLost p lane) s = .next s := by
  change execLaneLockLost p lane s = .next s
  unfold execLaneLockLost
  rw [State.laneFails_underWay h e, ite_self]

namespace LastSwap

/-- An UP port without a spare whose lane 0 is on its way to lane 8. -/
def port : PortState :=
  { PortState.initial with st := .up, rx := { Lanes.initial with spare := none, swap := some ⟨0, 8, 128, false, 0⟩ } }

/-- The module at reset, with that port as its port 0. -/
def state : State := { State.reset with ports := State.reset.ports.set 0 port }

theorem state_inv : state.Inv := { State.reset_inv with }

theorem state_port : state.ports[(0 : Port)] = port := rfl

end LastSwap

end Sys2Proof.Machine

open Sys2Proof Sys2Proof.Machine

/-- Refutes O20: its fifth clause has a port without a spare fail at every lane that loses lock, but in `LastSwap.state`,
where the swap of that lane is under way, the command changes nothing and the port stays up. `State.Inv` does not say
that a port whose swap is under way still has its spare. -/
theorem not_lanesSwapAndFail : ¬ Obligations.LanesSwapAndFail := by
  intro h
  obtain ⟨-, -, -, -, fails, -⟩ := h LastSwap.state 0 LastSwap.state_inv rfl rfl
  obtain ⟨t, e, failed, -⟩ := fails 0 rfl
  rw [exec_laneLockLost_underWay (w := ⟨0, 8, 128, false, 0⟩) rfl rfl] at e
  cases e
  rw [LastSwap.state_port] at failed
  cases failed
end

section
/-! SUPPORT. Agreement rounds: the message that ends one, and what it leaves with the attempt (O29). -/

namespace Sys2Proof.Machine

variable {s u : State} {p : Port} {f : Flit}

/-! ### A message of a round -/

section Message
variable {src : BitVec 16} {b : Bytes} {g : Group} {name : RoundName} {mins maxs : List Nat}
  (plan : s.runPlan.bind (fun p => p.group name.group) = some g)

/-- At the root, a round that lacks nobody ends with its minima and maxima (R407). -/
theorem State.advanceRound_root {r : Round} (own : r.own = true) (open' : r.sentUp = false)
    (all : ∀ c ∈ roundChildren 0 g.members.length, c ∈ r.children) :
    (s.advanceRound g 0 r).2 = some (r.mins, r.maxs) := by
  unfold State.advanceRound
  dsimp only []
  rw [if_neg (by simpa [own, open'] using all), if_pos rfl]

include plan

/-- The words of the last child to contribute end the round at the root (R407). -/
theorem State.takeAgree_last {c : Nat} (parsed : agreeParse b = (name, false, mins, maxs)) (root : g.myIndex = some 0)
    (child : (roundChildren 0 g.members.length).find? (fun c => g.members.getD c 0 = src) = some c)
    (own : (s.round name).own = true) (open' : (s.round name).sentUp = false) (new : c ∉ (s.round name).children)
    (others : ∀ d ∈ roundChildren 0 g.members.length, d ≠ c → d ∈ (s.round name).children) :
    (s.takeAgree src b).2 =
      some (name, List.zipWith min (s.round name).mins mins, List.zipWith max (s.round name).maxs maxs) := by
  have all : ∀ d ∈ roundChildren 0 g.members.length, d ∈ (s.round name).children ++ [c] := by
    intro d hd
    by_cases e : d = c
    · simp [e]
    · simp [others d hd e]
  have ends := State.advanceRound_root (s := s) (g := g)
    (r := { (s.round name).merge mins maxs with children := (s.round name).children ++ [c] }) own open' all
  unfold State.takeAgree
  rw [parsed]
  dsimp only []
  rw [plan]
  dsimp only []
  rw [root]
  dsimp only []
  rw [if_neg (by decide), child]
  dsimp only []
  rw [if_neg (by simpa using new), ends]
  rfl

/-- A result that comes down from the parent ends the round as it is (R407). -/
theorem State.takeAgree_down {me : Nat} (parsed : agreeParse b = (name, true, mins, maxs)) (member : g.myIndex = some me)
    (own : (s.round name).own = true) (sent : (s.round name).sentUp = true) :
    (s.takeAgree src b).2 = some (name, mins, maxs) := by
  unfold State.takeAgree
  rw [parsed]
  dsimp only []
  rw [plan]
  dsimp only []
  rw [member]
  dsimp only []
  rw [if_pos rfl, if_neg (by simp [own, sent])]

end Message

/-! ### What a message changes -/

theorem SameStore.sendAgree {g : Group} {name : RoundName} {down : Bool} {mins maxs : List Nat} {m : Nat} :
    SameStore s (s.sendAgree g name down mins maxs m) := OnlySends.sendRouted.sameStore

theorem SameStore.sendDown {g : Group} {me : Nat} {name : RoundName} {mins maxs : List Nat} :
    SameStore s (s.sendDown g me name mins maxs) := .foldl (fun _ _ => .sendAgree) _

/-- Entering words into a round, passing it on or ending it changes the rounds and what is sent, and no memory. -/
theorem SameStore.advanceRound {g : Group} {me : Nat} {r : Round} : SameStore s (s.advanceRound g me r).1 := by
  unfold State.advanceRound
  dsimp only []
  split
  · exact ⟨rfl, rfl, rfl⟩
  · split
    · exact .trans (t := s.dropRound r.name) ⟨rfl, rfl, rfl⟩ .sendDown
    · exact .trans (t := s.setRound { r with sentUp := true }) ⟨rfl, rfl, rfl⟩ .sendAgree

theorem SameStore.takeAgree {src : BitVec 16} {b : Bytes} : SameStore s (s.takeAgree src b).1 := by
  unfold State.takeAgree
  dsimp only []
  split
  · split
    · split
      · split
        · exact .refl s
        · exact .trans (t := s.dropRound _) ⟨rfl, rfl, rfl⟩ .sendDown
      · split
        · exact .refl s
        · split
          · exact .refl s
          · exact .advanceRound
    · exact .refl s
  · exact .refl s

/-! ### The flit of a round -/

/-- What the state after a message, and the result it may bring, come to (R407). -/
def State.agreed (u : State) : Option (RoundName × List Nat × List Nat) → State
  | some (name, mins, maxs) => u.roundDone name mins maxs
  | none => u

/-- `AGREE` for this module is a message of its round (R407). -/
theorem exec_agree_forHere (o : InOrder s p f) (h : ForHere s f) : exec (.agree p f) s =
    .next (((s.delivered p f).takeAgree f.src f.payload).1.agreed ((s.delivered p f).takeAgree f.src f.payload).2) := by
  refine (State.seqFlit_forHere o h _ _).trans (congrArg Host.Outcome.next ?_)
  rcases (s.delivered p f).takeAgree f.src f.payload with ⟨u, _ | ⟨name, mins, maxs⟩⟩ <;> rfl

end Sys2Proof.Machine

open Sys2Proof Sys2Proof.Machine

/-- Settles O29: the last child at the root, or the parent's result, ends the round; and the flit's message is
`State.takeAgree`, whose result `State.roundDone` leaves with the attempt. -/
theorem roundsJoinWordsAndEnd : Obligations.RoundsJoinWordsAndEnd := by
  refine ⟨fun s src b g name down mins maxs parsed plan => ⟨fun c up root child own open' new others => ?_,
    fun me up member own sent => ?_⟩, fun s p f o h u res took => ?_⟩
  · subst up
    exact State.takeAgree_last plan parsed root child own open' new others
  · subst up
    exact State.takeAgree_down plan parsed member own sent
  · have run := exec_agree_forHere o h
    have mem : u.mem = s.mem := by
      have same : SameStore (s.delivered p f) ((s.delivered p f).takeAgree f.src f.payload).1 := .takeAgree
      rw [took] at same
      exact same.mem.trans State.delivered_mem
    rw [took] at run
    refine ⟨?_, ?_, ?_⟩
    · rintro ⟨group, kind, matrix, key⟩ mins maxs rfl rfl
      exact ⟨_, run, rfl, mem⟩
    · rintro ⟨group, kind, matrix, key⟩ mins maxs rfl rfl
      exact ⟨_, run, rfl, mem⟩
    · rintro rfl
      exact run
end

section
/-! SUPPORT. Links and nodes that are lost: what noting a loss comes to, and how much of it is logged (R411). -/

namespace Sys2Proof.Machine

variable {s t : State}

theorem LogGrows.mono {m n : Nat} (h : LogGrows m s t) (le : m ≤ n) : LogGrows n s t := by
  obtain ⟨es, count, log⟩ := h
  exact ⟨es, count.trans le, log⟩

theorem LogGrows.abortWith {c : BitVec 16} {i : Nat} {d : Bytes} : LogGrows 3 s (s.abortWith c i d) :=
  .trans (m := 1) (n := 2) .event .abortStep

/-- A node that is listed as lost. -/
def State.lostListed (s : State) (n : BitVec 16) : State := { s with lostNodes := s.lostNodes ++ [n] }

/-- A node that is lost for the first time is listed, logged, and ends the step and the agreement (R411). -/
theorem State.loseNode_new {n : BitVec 16} (h : n ∉ s.lostNodes) : s.loseNode n =
    ((s.lostListed n).abortWith 0x6106 s.mgmtIsland (toLe 2 n.toNat)).endAttempts := by
  unfold State.loseNode
  rw [if_neg (by simpa using h)]
  rfl

theorem State.loseNode_known {n : BitVec 16} (h : n ∈ s.lostNodes) : s.loseNode n = s := by
  unfold State.loseNode
  exact if_pos (by simpa using h)

theorem LogGrows.loseNode {n : BitVec 16} : LogGrows 3 s (s.loseNode n) := by
  by_cases h : n ∈ s.lostNodes
  · rw [State.loseNode_known h]
    exact .mono (.of_log rfl) (Nat.zero_le _)
  · rw [State.loseNode_new h]
    exact .trans (m := 0) (n := 3) (t := s.lostListed n) (.of_log rfl) (.trans (m := 3) (n := 0) .abortWith (.of_log rfl))

/-- A node is listed once it is lost. -/
theorem State.loseNode_listed {n : BitVec 16} : n ∈ (s.loseNode n).lostNodes := by
  by_cases h : n ∈ s.lostNodes
  · rwa [State.loseNode_known h]
  · have only : OnlyAborts (s.lostListed n) _ := OnlyAborts.abortWith (c := 0x6106) (i := s.mgmtIsland) (d := toLe 2 n.toNat)
    have listed : (s.loseNode n).lostNodes = s.lostNodes ++ [n] := by
      rw [State.loseNode_new h, only]
      rfl
    rw [listed]
    exact List.mem_append_right _ (List.mem_singleton_self n)

/-- The link of a report stands among the down links already (R411). -/
def State.linkKnown (s : State) (l : DownLink) : Bool := s.downLinks.any (fun x => x.a = l.a && x.b = l.b)

/-- The down links with that of a report, at the largest cause reported (R411). -/
def State.linksWith (s : State) (l : DownLink) : List DownLink :=
  if s.linkKnown l then s.downLinks.map (fun x => if x.a = l.a && x.b = l.b then { x with cause := max x.cause l.cause } else x)
  else s.downLinks ++ [l]

/-- The times at which nodes were first named by a loss, with one more (R411). -/
def seenAt (now : Nat) (m : List (Nat × Nat)) (n : BitVec 16) : List (Nat × Nat) :=
  if (lookupKey n.toNat m).isSome then m else m ++ [(n.toNat, now)]

/-- A loss that has been noted, before it aborts anything (R411). -/
def State.lossNoted (s : State) (origin : BitVec 16) (a b : LinkEnd) (cause : Nat) : State :=
  { s with downLinks := s.linksWith (DownLink.of a b cause)
           lossAt := seenAt s.gc.value (seenAt s.gc.value s.lossAt a.1) b.1
           lossOrigins := addNew s.lossOrigins [origin.toNat] }

/-- A loss that has been noted, and has aborted the step where its link is new (R411). -/
def State.lossAborted (s : State) (origin : BitVec 16) (a b : LinkEnd) (cause : Nat) : State :=
  if s.linkKnown (DownLink.of a b cause) then s.lossNoted origin a b cause
  else (s.lossNoted origin a b cause).abortStep (lossCode cause)

theorem DownLink.of_cause (a b : LinkEnd) (cause : Nat) : (DownLink.of a b cause).cause = cause := by
  unfold DownLink.of
  split <;> rfl

section
variable {origin : BitVec 16} {a b : LinkEnd} {cause : Nat}

theorem State.noteLoss_eq : s.noteLoss origin a b cause = if cause = 3 then
    (s.lossAborted origin a b cause).loseNode (if a.1 = origin then b.1 else a.1) else s.lossAborted origin a b cause := by
  unfold State.lossAborted State.lossNoted State.linksWith
  rw [DownLink.of_cause]
  rfl

theorem LogGrows.lossAborted : LogGrows 2 s (s.lossAborted origin a b cause) := by
  unfold State.lossAborted
  split
  · exact .mono (.of_log rfl) (Nat.zero_le _)
  · exact .trans (m := 0) (n := 2) (t := s.lossNoted origin a b cause) (.of_log rfl) .abortStep

theorem LogGrows.noteLoss : LogGrows 5 s (s.noteLoss origin a b cause) := by
  rw [State.noteLoss_eq]
  split
  · exact .trans (m := 2) (n := 3) .lossAborted .loseNode
  · exact .mono .lossAborted (by decide)

end

theorem LogGrows.chooseRoot : LogGrows 1 s s.chooseRoot := by
  have still {u : State} (h : u.log = s.log) : LogGrows 1 s u := .mono (.of_log h) (Nat.zero_le _)
  unfold State.chooseRoot
  dsimp only []
  split
  · exact still rfl
  · split
    · exact still rfl
    · split
      · exact still rfl
      · exact .trans (m := 0) (n := 1) (.of_log rfl) .event

theorem State.flood_log {ft : BitVec 8} {b : Bytes} : (s.flood ft b).log = s.log := by
  rw [State.flood_frame]

end Sys2Proof.Machine
end

section
/-! SUPPORT. Ports that come up, speak and fall silent (O21). -/

namespace Sys2Proof.Machine

variable {s t : State} {p : Port}

/-! ### Training -/

theorem PortState.upStatus_isUp (ps : PortState) : ps.upStatus.isUp = true := by
  unfold PortState.upStatus
  split <;> rfl

/-- A port that has finished training with its peer (R390, R419). -/
def PortState.trained (ps : PortState) (n : BitVec 16) (q : Port) (gc uptime : Nat) : PortState :=
  { PortState.initial with st := ps.upStatus, tx := ps.tx, rx := ps.rx, peerNode := n, peerPort := q.val, lastLife := gc,
                           trainedAt := uptime }

/-- The module once a port has finished training: no flit that waits elsewhere holds a buffer of that port (R390). -/
def State.portTrained (s : State) (p : Port) (n : BitVec 16) (q : Port) : State :=
  ({ s with ports := vmap (fun (x : PortState) => x.dropOrigin p) s.ports }).modPort p
    (fun ps => ps.trained n q s.gc.value s.uptime)

theorem State.portTrained_other {r : Port} {n : BitVec 16} {q : Port} (h : r ≠ p) :
    (s.portTrained p n q).ports[r] = s.ports[r].dropOrigin p := by
  refine (State.modPort_ports_other h).trans ?_
  simp [vmap]

theorem exec_portUp {n : BitVec 16} {q : Port} (aw : s.awake = true) (down : s.ports[p].st = .down ∨ s.ports[p].st = .training)
    (run : s.island (0x50 + p.val) = .run) (lit : s.groupLit (portGroup p) ≠ 0) : exec (.portUp p n q) s =
      .next (((s.portTrained p n q).setObj 0x2902 p.val (q.val * 65536 + n.toNat)).event 0x6102 (portIsland p)
        (toLe 1 p.val)) := by
  have run : s.island (portIsland p) = .run := run
  refine if_neg ?_
  simpa [aw, run, lit, or_iff_not_imp_left] using down

/-- A peer's name stands in `PORT_PEER` once it is set and its event logged (R419). -/
theorem State.portPeer_set (w : Assoc.wf objDefault s.od = true) {v i : Nat} {c : BitVec 16} {d : Bytes} :
    ((s.setObj 0x2902 p.val v).event c i d).obj 0x2902 p.val = v := by
  rw [(State.event_onlyLogs (State.setObj_wf w _ _ _) c i d).objects _ _ (by decide) (by omega), State.obj_setObj w,
    if_pos rfl]

/-! ### Silence -/

/-- A port that is down: what waited at it frees its buffers (R390, R409). -/
def State.portDown (s : State) (p : Port) : State :=
  s.ports[p].waitq.foldl (fun s w => s.freeBuffer w.2.2 w.2.1.vc) (s.modPort p (fun ps => { ps with st := .down, waitq := [] }))

theorem OnlyPorts.portDown : OnlyPorts s (s.portDown p) := by
  have freed : OnlyPorts (s.modPort p (fun ps => { ps with st := .down, waitq := [] })) (s.portDown p) :=
    .foldl (fun _ _ => OnlyPorts.freeBuffer) _
  exact .trans (t := s.modPort p (fun ps => { ps with st := .down, waitq := [] })) rfl freed

theorem State.portDown_st : (s.portDown p).ports[p].st = .down := by
  have tells : Tells (s.modPort p (fun ps => { ps with st := .down, waitq := [] })) (s.portDown p) :=
    .foldl (fun _ _ => .freeBuffer) _
  exact (tells.status p).trans (congrArg PortState.st State.modPort_ports_self)

theorem State.portLost_down (up : s.ports[p].st.isUp = true) {cause : Nat} {c : BitVec 16} : s.portLost p .down cause c =
    (((((s.portDown p).addObj 0x3048 p.val 1).sendLoss p cause).abortStep c).ownLoss p cause).chooseRoot := by
  unfold State.portLost
  dsimp only []
  rw [if_neg (by simpa using up)]
  rfl

/-- What the loss of an UP port's link leaves (R409). -/
theorem State.portLost_down_spec (up : s.ports[p].st.isUp = true) (cause : Nat) (c : BitVec 16) :
    (s.portLost p .down cause c).ports[p].st = .down ∧
      (s.stepLive = true → (s.portLost p .down cause c).step.status = .aborted) ∧
      LogGrows 8 s (s.portLost p .down cause c) := by
  have loss : OnlySends s (((s.portDown p).addObj 0x3048 p.val 1).sendLoss p cause) :=
    OnlyPorts.portDown.sends.trans (OnlySends.addObj.trans OnlySends.flood)
  have tells : Tells (s.portDown p) (s.portLost p .down cause c) := by
    rw [State.portLost_down up]
    exact .trans .addObj (.trans .flood (.trans .abortStep (.trans .ownLoss .chooseRoot)))
  refine ⟨(tells.status p).trans State.portDown_st, fun live => ?_, ?_⟩
  · rw [State.portLost_down up, State.chooseRoot_step]
    exact State.noteLoss_aborted (State.abortStep_status (loss.stepLive.trans live)).1
  · have told : (((s.portDown p).addObj 0x3048 p.val 1).sendLoss p cause).log = s.log := by
      refine State.flood_log.trans ?_
      rw [State.addObj_log, OnlyPorts.portDown]
    rw [State.portLost_down up]
    exact .trans (m := 0) (n := 8) (.of_log told) (.trans (m := 2) (n := 6) .abortStep (.trans (m := 5) (n := 1) .noteLoss .chooseRoot))

theorem exec_portSilence (aw : s.awake = true) (up : s.ports[p].st.isUp = true) (late : s.ports[p].lastLife + 8000 ≤ s.gc.value) :
    exec (.portSilence p) s = .next ((s.event 0x6101 (portIsland p) (toLe 1 p.val)).portLost p .down 1 0x6101) :=
  if_pos (by simpa [aw] using ⟨up, late⟩)

/-- A node that no loss names as its origin in time is lost (R411). -/
theorem exec_lossWindowExpiry {n : BitVec 16} {g : Nat} (aw : s.awake = true) (named : lookupKey n.toNat s.lossAt = some g)
    (late : g + 20000 ≤ s.gc.value) (silent : s.lossOrigins.contains n.toNat = false) :
    exec (.lossWindowExpiry n) s = .next (s.loseNode n) := by
  change execLossWindowExpiry n s = _
  unfold execLossWindowExpiry
  rw [named]
  refine if_neg ?_
  simp only [aw, silent, Bool.not_true, Bool.false_or, Bool.or_false, decide_eq_true_eq]
  omega

/-- What the loss of a node leaves (R411, R444). -/
theorem State.loseNode_spec {n : BitVec 16} (h : n ∉ s.lostNodes) :
    (s.loseNode n).lostNodes = s.lostNodes ++ [n] ∧ (s.stepLive = true → (s.loseNode n).step.status = .aborted) ∧
      (s.loseNode n).agree.decided = none ∧ (s.loseNode n).stageLock = false ∧ ∃ e ∈ (s.loseNode n).log.recs, e.code = 0x6106 := by
  have only : OnlyAborts (s.lostListed n) _ := OnlyAborts.abortWith (c := 0x6106) (i := s.mgmtIsland) (d := toLe 2 n.toNat)
  obtain ⟨e, mem, code, -⟩ := State.abortWith_logged (s := s.lostListed n) (c := 0x6106) (i := s.mgmtIsland)
    (d := toLe 2 n.toNat) (by simp [toLe_length])
  rw [State.loseNode_new h]
  refine ⟨?_, fun live => ?_, rfl, rfl, e, mem, code⟩
  · rw [only]
    rfl
  · exact (State.abortWith_status (s := s) (t := s.lostListed n) rfl live).1

/-! ### What a port sends by itself -/

theorem padTo_take {n k : Nat} {b : Bytes} (h : b.length = k) (le : k ≤ n) : (padTo n b).take k = b := by
  unfold padTo
  rw [List.take_take, min_eq_left le, List.take_append_of_le_length h.ge, List.take_of_length_le h.le]

/-- The leading bytes of what a payload says stand first in the payload. -/
theorem padTo_take_append {n k : Nat} {a b : Bytes} (h : a.length = k) (le : k ≤ n) : (padTo n (a ++ b)).take k = a := by
  unfold padTo
  rw [List.take_take, min_eq_left le, List.append_assoc, List.take_append_of_le_length h.ge, List.take_of_length_le h.le]

/-- The flit that a port sends to its peer outside any sequence (R387, R388). -/
def State.peerFlit (s : State) (p : Port) (x : BitVec 32) (b : Bytes) : Flit :=
  s.ports[p].stamp
    { vc := 0, ack := none, cred := none, seq := 0, dst := s.ports[p].peerNode, src := s.nodeId,
      epoch := BitVec.ofNat 32 s.epoch, hopptr := 0, path := 0, xinfo := x, payload := padTo 224 b }

theorem State.sendLink_out {ft : BitVec 8} {x : BitVec 32} {b : Bytes} :
    (s.sendLink p ft x b).out = s.out ++ [.flit p ft (s.peerFlit p x b)] := rfl

theorem OnlyPorts.sendLink {ft : BitVec 8} {x : BitVec 32} {b : Bytes} : OnlyPorts s (s.sendLink p ft x b) := rfl

theorem exec_keepaliveSend (aw : s.awake = true) (up : s.ports[p].st.isUp = true) : exec (.keepaliveSend p) s =
    .next (s.sendLink p 0x05 0 (toLe 8 s.gc.value ++ [if s.isHeld then 1 else 0] ++ toLe 1 p.val)) :=
  if_pos (by simpa [aw] using up)

/-- `TIME` says the counter in 1/16 tick, the times kept for the echo, and what else the peer is to know of this
module's time (R434). -/
theorem exec_timeFlitSend (aw : s.awake = true) (up : s.ports[p].st.isUp = true) :
    ∃ rest : Bytes, exec (.timeFlitSend p) s = .next (s.sendLink p 0x06 0 (toLe 8 (s.gc.value * 16 + s.gc.frac) ++
      toLe 8 ((s.ports[p].timeEcho).getD (0, 0)).1 ++ toLe 8 ((s.ports[p].timeEcho).getD (0, 0)).2 ++ rest)) := by
  change ∃ rest, execTimeFlitSend p s = _
  unfold execTimeFlitSend
  rw [if_neg (by simpa [aw] using up)]
  simp only [List.append_assoc]
  exact ⟨_, rfl⟩

end Sys2Proof.Machine

open Sys2Proof Sys2Proof.Machine

/-- Settles O21: training makes a port anew, silence and a loss that is not answered go by what the loss of a port and of a
node leave, and what a port sends by itself is one flit of its link. -/
theorem portsComeUpSpeakAndFallSilent : Obligations.PortsComeUpSpeakAndFallSilent := by
  refine ⟨fun s inv aw => ⟨fun p n q down run lit => ?_, fun p up late => ?_, fun node g named late silent new => ?_⟩,
    fun s p aw up => ⟨?_, ?_⟩⟩
  · have port : (s.portTrained p n q).ports[p] =
        (s.ports[p].dropOrigin p).trained n q s.gc.value s.uptime := by
      refine State.modPort_ports_self.trans ?_
      simp [vmap]
    have ports : (((s.portTrained p n q).setObj 0x2902 p.val (q.val * 65536 + n.toNat)).event 0x6102 (portIsland p)
        (toLe 1 p.val)).ports = (s.portTrained p n q).ports := by rw [State.event_ports, State.setObj_ports]
    refine ⟨_, exec_portUp aw down run lit, ?_⟩
    rw [ports, port]
    exact ⟨PortState.upStatus_isUp _, rfl, rfl, rfl, rfl, fun v => by simp [PortState.trained, PortState.initial],
      State.portPeer_set (s := s.portTrained p n q) inv.objects, fun r other => State.portTrained_other other⟩
  · obtain ⟨down, aborted, grows⟩ := State.portLost_down_spec (s := s.event 0x6101 (portIsland p) (toLe 1 p.val)) (p := p)
      (by rwa [State.event_ports]) 1 0x6101
    obtain ⟨e, mem, code, -⟩ := LogGrows.logged (n := 8) grows (by decide) (by simp [toLe_length])
    exact ⟨_, exec_portSilence aw up late, down, fun live => aborted (OnlySends.event.stepLive.trans live), e, mem, code⟩
  · exact ⟨_, exec_lossWindowExpiry aw named late silent, State.loseNode_spec (by simpa using new)⟩
  · exact ⟨_, _, exec_keepaliveSend aw up, State.sendLink_out, OnlyPorts.sendLink, rfl, rfl,
      padTo_take (by simp [toLe_length]) (by decide)⟩
  · obtain ⟨rest, run⟩ := exec_timeFlitSend aw up
    exact ⟨_, _, run, State.sendLink_out, OnlyPorts.sendLink, padTo_take_append (by simp [toLe_length]) (by decide)⟩
end

section
/-! SUPPORT. Unsequenced flits at their port: what hearing one leaves, and what a flit that waits there does (O22). -/

namespace Sys2Proof.Machine

variable {s t u : State} {p : Port} {f : Flit}

/-! ### What taking acknowledgements leaves -/

theorem PortState.takeAck_waitq (ps : PortState) (f : Flit) : (ps.takeAck f).waitq = ps.waitq := by
  unfold PortState.takeAck
  dsimp only []
  split <;> split <;> rfl

theorem PortState.takeAck_st (ps : PortState) (f : Flit) : (ps.takeAck f).st = ps.st := by
  unfold PortState.takeAck
  dsimp only []
  split <;> split <;> rfl

theorem PortState.takeAck_tx (ps : PortState) (f : Flit) : (ps.takeAck f).tx = ps.tx := by
  unfold PortState.takeAck
  dsimp only []
  split <;> split <;> rfl

theorem PortState.takeCredits_tx (ps : PortState) (x : Option (Fin 4 × Nat)) : (ps.takeCredits x).tx = ps.tx := by
  unfold PortState.takeCredits
  split <;> rfl

/-- A port that receives is up once it has heard: a frozen peer has shown itself running (R409, R415). -/
theorem State.hears_up (h : s.hears p = true) : (s.ports[p].life s.gc.value).st.isUp = true := by
  unfold State.hears at h
  simp only [Bool.and_eq_true, Bool.or_eq_true, decide_eq_true_eq] at h
  obtain ⟨-, up⟩ := h
  unfold PortState.life
  dsimp only []
  split
  · exact PortState.upStatus_isUp _
  · exact up.resolve_right (by assumption)

/-! ### Sending leaves links as they stand -/

/-- The states of ports and their transmit lanes stand. -/
def SameLinks (s t : State) : Prop := ∀ q : Port, t.ports[q].st = s.ports[q].st ∧ t.ports[q].tx = s.ports[q].tx

theorem SameLinks.refl (s : State) : SameLinks s s := fun _ => ⟨rfl, rfl⟩

theorem SameLinks.trans (h : SameLinks s t) (g : SameLinks t u) : SameLinks s u :=
  fun q => ⟨(g q).1.trans (h q).1, (g q).2.trans (h q).2⟩

theorem SameLinks.modPort {x : PortState → PortState} (h : ∀ ps, (x ps).st = ps.st ∧ (x ps).tx = ps.tx) :
    SameLinks s (s.modPort p x) := by
  intro q
  by_cases e : q = p
  · rw [e, State.modPort_ports_self]
    exact h _
  · rw [State.modPort_ports_other e]
    exact ⟨rfl, rfl⟩

theorem SameLinks.freeBuffer {o : Option Port} {v : Fin 4} : SameLinks s (s.freeBuffer o v) := by
  cases o with
  | none => exact .refl s
  | some p => exact .modPort (fun _ => ⟨rfl, rfl⟩)

theorem SameLinks.emit {ft : BitVec 8} : SameLinks s (s.emit p ft f) := by
  have port : SameLinks s (s.modPort p (fun ps =>
      { ps.takeCredits (s.ports[p].stamp { f with seq := BitVec.ofNat 16 s.ports[p].txSeq }).cred with
        txSeq := (ps.txSeq + 1) % 65536
        replay := ps.replay ++ [(ft, s.ports[p].stamp { f with seq := BitVec.ofNat 16 s.ports[p].txSeq })]
        txCredits := vmodify ps.txCredits f.vc (· - 1) })) :=
    .modPort (fun ps => ⟨PortState.takeCredits_st ps _, PortState.takeCredits_tx ps _⟩)
  exact port

theorem SameLinks.sendSeq {o : Option Port} {ft : BitVec 8} : SameLinks s (s.sendSeq o p ft f) := by
  unfold State.sendSeq
  dsimp only []
  split
  · exact .freeBuffer
  · split
    · exact .trans .emit .freeBuffer
    · exact .modPort (fun _ => ⟨rfl, rfl⟩)

theorem SameLinks.foldl {α : Type} {x : State → α → State} (h : ∀ b a, SameLinks b (x b a)) (l : List α) :
    SameLinks s (l.foldl x s) := by
  induction l generalizing s with
  | nil => exact .refl s
  | cons a l ih => exact (h s a).trans ih

theorem SameLinks.drainWait : SameLinks s (s.drainWait p) := by
  have cleared : SameLinks s (s.modPort p (fun ps => { ps with waitq := [] })) := .modPort (fun _ => ⟨rfl, rfl⟩)
  exact cleared.trans (.foldl (fun _ _ => .sendSeq) s.ports[p].waitq)

/-! ### What hearing a flit leaves -/

/-- A port that has heard a flit, before what waits there leaves (R389, R390, R409). -/
def State.heard (s : State) (p : Port) (f : Flit) : State := s.modPort p (fun ps => (ps.life s.gc.value).takeAck f)

theorem State.heard_port : (s.heard p f).ports[p] = (s.ports[p].life s.gc.value).takeAck f := State.modPort_ports_self

theorem State.hear_tx : (s.hear p f).ports[p].tx = s.ports[p].tx := by
  refine ((SameLinks.drainWait (s := s.heard p f) (p := p)) p).2.trans ?_
  rw [State.heard_port, PortState.takeAck_tx]
  rfl

/-- The states of the other ports stand when one hears a flit. -/
theorem State.hear_st_other {q : Port} (h : q ≠ p) : (s.hear p f).ports[q].st = s.ports[q].st := by
  refine ((SameLinks.drainWait (s := s.heard p f) (p := p)) q).1.trans ?_
  exact congrArg PortState.st (State.modPort_ports_other h)

theorem State.linkFlit_hears {act : State → State} (h : s.hears p = true) : s.linkFlit p f act = .next (act (s.hear p f)) :=
  if_pos h

/-! ### A flit that waits at the port -/

section Waiting
variable {ft : BitVec 8} {g : Flit} {o : Option Port}

theorem State.sendSeq_emits (up : s.ports[p].st.isUp = true) (can : s.ports[p].canSend g.vc = true)
    (first : s.ports[p].waitq = []) : s.sendSeq o p ft g = (s.emit p ft g).freeBuffer o g.vc := by
  unfold State.sendSeq
  dsimp only []
  rw [if_neg (by simpa using up), if_pos]
  rw [can, first]
  rfl

theorem State.sendSeq_waits (up : s.ports[p].st.isUp = true) (can : s.ports[p].canSend g.vc = false) :
    s.sendSeq o p ft g = s.modPort p (fun ps => { ps with waitq := ps.waitq ++ [(ft, g, o)] }) := by
  unfold State.sendSeq
  dsimp only []
  rw [if_neg (by simpa using up), if_neg]
  rw [can]
  exact Bool.false_ne_true

/-- A change of a port that gives back what stood there changes nothing. -/
theorem State.modPort_modPort_id {x y : PortState → PortState} (h : y (x s.ports[p]) = s.ports[p]) :
    (s.modPort p x).modPort p y = s := by
  have back : (s.modPort p x).modPort p y = { s with ports := (s.ports.set p (x s.ports[p])).set p (y (x s.ports[p])) } := by
    unfold State.modPort vmodify
    simp
  rw [back, h]
  simp

theorem State.freeBuffer_out {v : Fin 4} : (s.freeBuffer o v).out = s.out := by
  cases o <;> rfl

theorem State.freeBuffer_waitq {v : Fin 4} (q : Port) : (s.freeBuffer o v).ports[q].waitq = s.ports[q].waitq := by
  cases o with
  | none => rfl
  | some r =>
    by_cases e : q = r
    · rw [e, State.freeBuffer, State.modPort_ports_self]
    · rw [State.freeBuffer, State.modPort_ports_other e]

theorem State.emit_out : (s.emit p ft g).out =
    s.out ++ [.flit p ft (s.ports[p].stamp { g with seq := BitVec.ofNat 16 s.ports[p].txSeq })] := rfl

theorem State.emit_waitq : (s.emit p ft g).ports[p].waitq = s.ports[p].waitq := by
  refine (congrArg PortState.waitq State.modPort_ports_self).trans ?_
  exact PortState.takeCredits_waitq _ _

/-- A port from which what waits there has been taken, so as to be sent. -/
def State.emptied (s : State) (p : Port) : State := s.modPort p (fun ps => { ps with waitq := [] })

theorem State.emptied_heard_port : ((s.heard p f).emptied p).ports[p] =
    { (s.ports[p].life s.gc.value).takeAck f with waitq := [] } := by
  rw [State.emptied, State.modPort_ports_self, State.heard_port]

theorem State.emptied_heard_up (hears : s.hears p = true) : ((s.heard p f).emptied p).ports[p].st.isUp = true := by
  rw [State.emptied_heard_port]
  dsimp only []
  rw [PortState.takeAck_st]
  exact State.hears_up hears

/-- The one flit that waits at a port is sent again when the port hears another. -/
theorem State.hear_waiting (waits : s.ports[p].waitq = [(ft, g, o)]) :
    s.hear p f = ((s.heard p f).emptied p).sendSeq o p ft g := by
  have one : (s.heard p f).ports[p].waitq = [(ft, g, o)] := by
    rw [State.heard_port, PortState.takeAck_waitq]
    exact waits
  change (s.heard p f).drainWait p = _
  unfold State.drainWait
  dsimp only []
  rw [one]
  rfl

variable (hears : s.hears p = true) (waits : s.ports[p].waitq = [(ft, g, o)])
include hears waits

/-- It leaves the port where the credits that came allow, with the next number (R389, R390). -/
theorem State.hear_sends (can : ((s.ports[p].life s.gc.value).takeAck f).canSend g.vc = true) :
    ∃ h : Flit, (s.hear p f).out = s.out ++ [.flit p ft h] ∧ h.payload = g.payload ∧
      h.seq = BitVec.ofNat 16 ((s.ports[p].life s.gc.value).takeAck f).txSeq ∧ (s.hear p f).ports[p].waitq = [] := by
  have port := State.emptied_heard_port (s := s) (p := p) (f := f)
  rw [State.hear_waiting waits,
    State.sendSeq_emits (State.emptied_heard_up hears) (by rw [port]; exact can) (by rw [port])]
  have number : ((s.heard p f).emptied p).ports[p].txSeq = ((s.ports[p].life s.gc.value).takeAck f).txSeq := by rw [port]
  refine ⟨_, State.freeBuffer_out.trans State.emit_out, rfl, congrArg (BitVec.ofNat 16) number, ?_⟩
  rw [State.freeBuffer_waitq, State.emit_waitq, port]

/-- It stays where they do not. -/
theorem State.hear_keeps (can : ((s.ports[p].life s.gc.value).takeAck f).canSend g.vc = false) :
    s.hear p f = s.heard p f := by
  rw [State.hear_waiting waits,
    State.sendSeq_waits (State.emptied_heard_up hears) (by rw [State.emptied_heard_port]; exact can)]
  have same (ps : PortState) (h : ps.waitq = [(ft, g, o)]) : { ps with waitq := [] ++ [(ft, g, o)] } = ps := by
    rw [List.nil_append, ← h]
  have one : (s.heard p f).ports[p].waitq = [(ft, g, o)] := by
    rw [State.heard_port, PortState.takeAck_waitq]
    exact waits
  exact State.modPort_modPort_id (x := fun ps => { ps with waitq := [] }) (same _ one)

end Waiting

/-! ### The flits of a link -/

theorem exec_frozen (h : s.hears p = true) : exec (.frozen p f) s =
    .next (((s.hear p f).modPort p (fun ps => { ps with st := .peerFrozen })).event 0x610A (portIsland p) (toLe 1 p.val)) := by
  change execFrozen p f s = _
  unfold execFrozen
  rw [State.linkFlit_hears h]

/-- What a SWAP message leaves of a port: the move of a lane that it names is due (R392). -/
def PortState.swapDue (ps : PortState) (f : Flit) (now : Nat) : PortState :=
  let w : LaneSwap := ⟨f.xinfo.toNat % 256, f.xinfo.toNat / 256 % 256, fieldAt f.payload 0 4, false, now⟩
  ps.modLanes .tx (fun l => { l with swap := some w })

theorem exec_lanectl_swap (h : s.hears p = true) (swap : f.xinfo.toNat / 2 ^ 24 = 1) (lane : f.xinfo.toNat % 256 < 8) :
    exec (.lanectl p f) s = .next ((s.hear p f).modPort p (fun ps => ps.swapDue f (s.hear p f).uptime)) := by
  change execLanectl p f s = _
  unfold execLanectl
  rw [State.linkFlit_hears h]
  dsimp only []
  rw [if_neg (by simpa [lane] using swap)]
  rfl

theorem exec_lanectl_other (h : s.hears p = true) (other : f.xinfo.toNat / 2 ^ 24 ≠ 1) :
    exec (.lanectl p f) s = .next (s.hear p f) := by
  change execLanectl p f s = _
  unfold execLanectl
  rw [State.linkFlit_hears h]
  dsimp only []
  rw [if_pos (by rw [decide_eq_true other]; exact Bool.true_or _)]

theorem exec_life (h : s.hears p = true) {c : Instr} (hc : c ∈ [Instr.idle p f, .keepalive p f]) :
    exec c s = .next (s.hear p f) := by
  simp only [List.mem_cons, List.not_mem_nil, or_false] at hc
  rcases hc with rfl | rfl
  · exact State.linkFlit_hears (f := f) (act := fun s => s) h
  · exact State.linkFlit_hears (f := f) (act := fun s => s) h

theorem exec_flitReservedType (h : s.hears p = true) {ft : BitVec 8} (reserved : 0x10 < ft.toNat) :
    exec (.flitReservedType p ft f) s = .next ((s.hear p f).addObj 0x3046 2 1) :=
  (if_neg (by omega)).trans (State.linkFlit_hears (act := fun s => s.addObj 0x3046 2 1) h)

end Sys2Proof.Machine

open Sys2Proof Sys2Proof.Machine

/-- Settles O22: each flit acts on the module that has heard it; without a flit that waits, hearing is the change of one
port, and one that waits is sent or stays. -/
theorem linkFlitsActOnTheirPort : Obligations.LinkFlitsActOnTheirPort := by
  intro s p f inv hears ps heard
  have only : OnlyPorts s (s.hear p f) := OnlyPorts.hear
  refine ⟨?_, fun swap lane => ?_, fun quiet => ?_, fun ft g o waits c hc => ?_⟩
  · have frozen : OnlyPorts s ((s.hear p f).modPort p (fun ps => { ps with st := .peerFrozen })) := only.trans rfl
    refine ⟨_, exec_frozen hears, ?_, frozen.logged (State.event_logged _ _ (by simp [toLe_length]))⟩
    rw [State.event_ports, State.modPort_ports_self]
  · have now : (s.hear p f).uptime = s.uptime := by rw [only]
    refine ⟨_, exec_lanectl_swap hears swap lane, only.trans rfl, ?_, ?_⟩
    · rw [State.modPort_ports_self, now]
      rfl
    · rw [State.modPort_ports_self]
      change (s.hear p f).ports[p].tx.map = _
      rw [State.hear_tx]
  · have same : s.hear p f = heard := State.hear_quiet quiet
    refine ⟨fun c hc => ?_, fun other => ?_, fun ft reserved => ⟨_, exec_flitReservedType hears reserved, ?_, ?_⟩⟩
    · rw [exec_life hears hc, same]
    · rw [exec_lanectl_other hears other, same]
    · rw [same]
      rfl
    · rw [State.obj_addObj (only.inv inv).objects, only.obj]
      rfl
  · refine ⟨fun can => ?_, fun can => ?_⟩
    · obtain ⟨h, out, payload, seq, empty⟩ := State.hear_sends hears waits can
      exact ⟨_, h, exec_life hears hc, only, out, payload, seq, empty⟩
    · rw [exec_life hears hc, State.hear_keeps hears waits can]
      rfl
end

section
/-! SUPPORT. Flits asked for and sent again (O23). -/

namespace Sys2Proof.Machine

variable {s t : State} {p : Port} {f : Flit}

/-! ### Asking for a replay -/

theorem crcPasses_iff {raw : Bytes} :
    crcPasses raw = true ↔ raw.length = 256 ∧ fieldAt raw 252 4 = (crc32c (raw.take 252)).toNat := by
  simp [crcPasses]

/-- Bytes spell a flit unless their CRC fails (R387). -/
theorem readFlit_eq_none {raw : Bytes} :
    readFlit raw = none ↔ ¬ (raw.length = 256 ∧ fieldAt raw 252 4 = (crc32c (raw.take 252)).toNat) := by
  rw [← crcPasses_iff]
  unfold readFlit
  cases crcPasses raw
  · simp
  · simp

theorem PortState.takeCredits_rxSeq (ps : PortState) (x : Option (Fin 4 × Nat)) : (ps.takeCredits x).rxSeq = ps.rxSeq := by
  unfold PortState.takeCredits
  split <;> rfl

theorem PortState.takeCredits_rx (ps : PortState) (x : Option (Fin 4 × Nat)) : (ps.takeCredits x).rx = ps.rx := by
  unfold PortState.takeCredits
  split <;> rfl

/-- A port that has not asked yet sends its `NAK`, with the number it expects (R389). -/
theorem State.nakOnce_first (h : s.ports[p].nakSent = false) : s.nakOnce p =
    (s.sendLink p 0x0E (BitVec.ofNat 32 s.ports[p].rxSeq) []).modPort p (fun ps => { ps with nakSent := true }) := by
  unfold State.nakOnce
  exact if_neg (by simpa using h)

/-- A port asks once (R389). -/
theorem State.nakOnce_again (h : s.ports[p].nakSent = true) : s.nakOnce p = s := by
  unfold State.nakOnce
  exact if_pos h

/-- A port that asks expects the same number, and has the same lanes. -/
theorem State.nakOnce_port : (s.nakOnce p).ports[p].nakSent = true ∧ (s.nakOnce p).ports[p].rxSeq = s.ports[p].rxSeq ∧
    (s.nakOnce p).ports[p].rx = s.ports[p].rx := by
  by_cases h : s.ports[p].nakSent = true
  · rw [State.nakOnce_again h]
    exact ⟨h, rfl, rfl⟩
  · have sent : (s.sendLink p 0x0E (BitVec.ofNat 32 s.ports[p].rxSeq) []).ports[p] =
        s.ports[p].takeCredits s.ports[p].creditReturn := State.modPort_ports_self
    rw [State.nakOnce_first (by simpa using h), State.modPort_ports_self, sent]
    exact ⟨rfl, PortState.takeCredits_rxSeq _ _, PortState.takeCredits_rx _ _⟩

theorem OnlyPorts.nakOnce : OnlyPorts s (s.nakOnce p) := by
  by_cases h : s.ports[p].nakSent = true
  · rw [State.nakOnce_again h]
    rfl
  · rw [State.nakOnce_first (by simpa using h)]
    rfl

/-! ### Bytes and blocks that fail -/

theorem exec_flitCrcFail (h : s.hears p = true) (bad : BadFlit) : exec (.flitCrcFail p bad) s = match bad with
    | .flit raw => if (readFlit raw).isSome then .next s else .next (s.nakOnce p)
    | .block errors => .next (s.blockErrors p errors) := by
  refine (if_neg (by simp [h])).trans ?_
  cases bad <;> rfl

/-- How worn a lane is depends on its port's receiver, the limits and the time alone (R391). -/
theorem State.laneWorn_congr (rx : t.ports[p].rx = s.ports[p].rx) (od : t.od = s.od) (now : t.uptime = s.uptime)
    (i : Fin 8) : t.laneWorn p i = s.laneWorn p i := by
  unfold State.laneWorn State.obj
  rw [rx, od, now]

/-- A port whose lanes reach no limit swaps none (R391). -/
theorem State.judgeLanes_sound (h : ∀ i, s.laneWorn p i = false) : s.judgeLanes p = s := by
  have none (l : List (Fin 8)) :
      l.foldl (fun s i => if s.ports[p].linked && s.laneWorn p i then s.laneFails p i true else s) s = s := by
    induction l with
    | nil => rfl
    | cons i l ih => rw [List.foldl_cons, if_neg (by simp [h i]), ih]
  exact none _

/-- A count of a port reads as what it was and what is added, whatever is done to the port. -/
theorem State.portCounted (w : Assoc.wf objDefault s.od = true) {k n : Nat} {x : PortState → PortState} :
    ((s.addObj k p.val n).modPort p x).obj k p.val =
      min (((objFind k p.val).map (fun o => o.ty.maxValue)).getD 0) (s.obj k p.val + n) := State.obj_addObj w _ _ _

theorem linkReplay_max : ((objFind 0x3042 p.val).map (fun o => o.ty.maxValue)).getD 0 = 2 ^ 64 - 1 := by
  revert p
  decide

theorem fecCorrected_max : ((objFind 0x3043 p.val).map (fun o => o.ty.maxValue)).getD 0 = 2 ^ 64 - 1 := by
  revert p
  decide

theorem fecUncorrectable_max : ((objFind 0x3044 p.val).map (fun o => o.ty.maxValue)).getD 0 = 2 ^ 64 - 1 := by
  revert p
  decide

/-! ### Sending again -/

/-- A flit that was sent on a port spells a kept one: its type, number and payload (R389). -/
def Resent (p : Port) (e : BitVec 8 × Flit) (o : Out) : Prop :=
  ∃ g : Flit, o = .flit p e.1 g ∧ g.seq = e.2.seq ∧ g.payload = e.2.payload

/-- Kept flits are sent again in order, each as it was kept (R389). -/
theorem State.resend_foldl (l : List (BitVec 8 × Flit)) (s : State) : ∃ sent : List Out,
    (l.foldl (fun s e => s.resend p e) s).out = s.out ++ sent ∧ List.Forall₂ (Resent p) l sent := by
  induction l generalizing s with
  | nil => exact ⟨[], (List.append_nil _).symm, .nil⟩
  | cons e l ih =>
    obtain ⟨sent, out, each⟩ := ih (s.resend p e)
    refine ⟨.flit p e.1 (s.ports[p].stamp e.2) :: sent, out.trans ?_, .cons ⟨_, rfl, rfl, rfl⟩ each⟩
    exact List.append_assoc s.out [_] sent

theorem OnlyPorts.resend {e : BitVec 8 × Flit} : OnlyPorts s (s.resend p e) := rfl

theorem Tells.eventLimited {c : BitVec 16} {k n i : Nat} {d : Bytes} : Tells s (s.eventLimited c k n i d) := by
  have logs (m : MgmtState) : Tells s (State.event { s with mgmt := m } c i d) :=
    .trans (t := { s with mgmt := m }) (.of_same rfl rfl rfl) .event
  unfold State.eventLimited
  dsimp only []
  split
  · split
    · exact .refl s
    · exact logs _
  · exact logs _

theorem KeepsEntry.eventLimited {j : Nat} {c : BitVec 16} {k n i : Nat} {d : Bytes} (h : j ≠ 0x3000) :
    KeepsEntry j s (s.eventLimited c k n i d) := by
  have logs (m : MgmtState) : KeepsEntry j s (State.event { s with mgmt := m } c i d) :=
    .trans (t := { s with mgmt := m }) (.of_od rfl) (.event h)
  unfold State.eventLimited
  dsimp only []
  split
  · split
    · exact .of_od rfl
    · exact logs _
  · exact logs _

/-- The flits that a port keeps from the one that a `NAK` names on (R389). -/
def PortState.keptFrom (ps : PortState) (f : Flit) : List (BitVec 8 × Flit) :=
  ps.replay.filter (fun e => decide ((e.2.seq.toNat + 65536 - f.xinfo.toNat % 65536) % 65536 < 1024))

theorem exec_nak (h : s.hears p = true) (kept : (s.hear p f).ports[p].keptFrom f ≠ []) : exec (.nak p f) s =
    .next (((((s.hear p f).ports[p].keptFrom f).foldl (fun s e => s.resend p e) (s.hear p f)).addObj 0x3042 p.val 1).eventLimited
      0x1501 p.val 1000000000 (portIsland p) (toLe 1 p.val)) := by
  change execNak p f s = _
  unfold execNak
  rw [State.linkFlit_hears h]
  dsimp only []
  rw [if_neg (by rw [List.isEmpty_iff]; exact kept)]
  rfl

/-! ### Sequenced flits out of their order -/

/-- A sequenced flit that is not the next one expected is asked for again (R389). -/
theorem State.seqFlit_outOfOrder {act : State → State} (h : s.hears p = true) (n : f.seq.toNat ≠ s.ports[p].rxSeq) :
    s.seqFlit p f act = .next ((s.hear p f).nakOnce p) := by
  unfold State.seqFlit
  rw [if_neg (by simp [h])]
  dsimp only []
  rw [State.hear_rxSeq, if_pos n]

/-- The flooded flits, and the instruction that receives each. -/
theorem exec_flooded (s : State) (p : Port) (f : Flit) {x : BitVec 8 × Instr} (h : x ∈ [((0x08 : BitVec 8), Instr.hold p f),
    (0x09, .freeze p f), (0x0B, .loss p f), (0x10, .abort p f)]) :
    ∃ act, exec x.2 s = s.seqFlit p f (fun s => s.flooded p x.1 f act) := by
  simp only [List.mem_cons, List.not_mem_nil, or_false] at h
  rcases h with rfl | rfl | rfl | rfl
  all_goals exact ⟨_, rfl⟩

/-- The sequenced flits are the routed and the flooded ones (R388). -/
theorem exec_sequenced {c : Instr} (h : c ∈ [Instr.writeHead p f, .data p f, .writeAck p f, .tally p f, .agree p f, .mgmt p f,
    .hold p f, .freeze p f, .loss p f, .abort p f]) : ∃ act, exec c s = s.seqFlit p f act := by
  have routed {x : BitVec 8 × Instr} (hx : x ∈ [((0x01 : BitVec 8), Instr.writeHead p f), (0x02, .data p f),
      (0x03, .writeAck p f), (0x04, .tally p f), (0x07, .agree p f), (0x0D, .mgmt p f)]) :
      ∃ act, exec x.2 s = s.seqFlit p f act := by
    obtain ⟨act, e⟩ := exec_routed s p f hx
    exact ⟨_, e⟩
  have flooded {x : BitVec 8 × Instr} (hx : x ∈ [((0x08 : BitVec 8), Instr.hold p f), (0x09, .freeze p f), (0x0B, .loss p f),
      (0x10, .abort p f)]) : ∃ act, exec x.2 s = s.seqFlit p f act := by
    obtain ⟨act, e⟩ := exec_flooded s p f hx
    exact ⟨_, e⟩
  simp only [List.mem_cons, List.not_mem_nil, or_false] at h
  rcases h with rfl | rfl | rfl | rfl | rfl | rfl | rfl | rfl | rfl | rfl
  · exact routed (x := (0x01, _)) (by simp)
  · exact routed (x := (0x02, _)) (by simp)
  · exact routed (x := (0x03, _)) (by simp)
  · exact routed (x := (0x04, _)) (by simp)
  · exact routed (x := (0x07, _)) (by simp)
  · exact routed (x := (0x0D, _)) (by simp)
  · exact flooded (x := (0x08, _)) (by simp)
  · exact flooded (x := (0x09, _)) (by simp)
  · exact flooded (x := (0x0B, _)) (by simp)
  · exact flooded (x := (0x10, _)) (by simp)

end Sys2Proof.Machine

open Sys2Proof Sys2Proof.Machine

/-- Settles O23: bytes and blocks that fail by what asking once leaves, a `NAK` by the kept flits sent one after another,
and a flit out of its order by the one branch of `State.seqFlit` that does not act. -/
theorem retryResendsInOrder : Obligations.RetryResendsInOrder := by
  refine ⟨fun s p inv hears => ⟨fun raw => ⟨readFlit_eq_none, fun fails first => ?_, fun h => ?_⟩, ?_, ?_⟩,
    fun s p f hears order c hc => ?_⟩
  · have run := exec_flitCrcFail hears (.flit raw)
    simp only [fails, Option.isSome_none, Bool.false_eq_true, ↓reduceIte] at run
    obtain ⟨asked, seq, -⟩ := State.nakOnce_port (s := s) (p := p)
    refine ⟨_, s.peerFlit p (BitVec.ofNat 32 s.ports[p].rxSeq) [], run, ?_, rfl, asked, seq, .nakOnce⟩
    rw [State.nakOnce_first first]
    exact State.sendLink_out
  · refine (exec_flitCrcFail hears (.flit raw)).trans ?_
    dsimp only []
    rcases h with passes | asked
    · rw [if_pos (Option.isSome_iff_ne_none.2 passes)]
    · rw [State.nakOnce_again asked, ite_self]
  · intro errors total good bad
    have run := exec_flitCrcFail hears (.block errors)
    refine ⟨fun ok sound => ⟨run.trans (congrArg Host.Outcome.next ?_), ?_⟩,
      fun lost sound => ⟨run.trans (congrArg Host.Outcome.next ?_), State.nakOnce_port.1, ?_⟩⟩
    · unfold State.blockErrors
      rw [if_pos ok]
      exact State.judgeLanes_sound sound
    · exact (State.portCounted inv.objects).trans (by rw [fecCorrected_max])
    · unfold State.blockErrors
      rw [if_neg (by simp [lost])]
      have only : OnlyPorts bad (bad.nakOnce p) := .nakOnce
      exact State.judgeLanes_sound fun i =>
        (State.laneWorn_congr State.nakOnce_port.2.2 (by rw [only]) (by rw [only]) i).trans (sound i)
    · exact (State.portCounted inv.objects).trans (by rw [fecUncorrectable_max])
  · intro f quiet kept some
    have port : (s.hear p f).ports[p].keptFrom f = kept := by
      rw [State.hear_quiet quiet, State.modPort_ports_self]
      rfl
    have run := exec_nak hears (by rw [port]; exact some)
    rw [port] at run
    obtain ⟨sent, out, each⟩ := State.resend_foldl (p := p) kept (s.hear p f)
    have only : OnlyPorts s (kept.foldl (fun s e => s.resend p e) (s.hear p f)) :=
      .trans .hear (.foldl (fun _ _ => .resend) _)
    obtain ⟨rest, told⟩ := (Tells.eventLimited (s := (kept.foldl (fun s e => s.resend p e) (s.hear p f)).addObj 0x3042 p.val 1)
      (c := 0x1501) (k := p.val) (n := 1000000000) (i := portIsland p) (d := toLe 1 p.val)).out
    refine ⟨_, sent, rest, run, ?_, each.length_eq.symm, fun i h => ?_, ?_⟩
    · rw [← told, State.addObj_out, out, State.hear_quiet quiet]
      rfl
    · obtain ⟨g, spelt, seq, payload⟩ := each.get h (each.length_eq ▸ h)
      exact ⟨g, (List.getElem?_eq_getElem (each.length_eq ▸ h)).trans (congrArg Option.some spelt), seq, payload⟩
    · rw [((KeepsEntry.eventLimited (by decide)) (State.addObj_wf (only.inv inv).objects _ _ _)).2 _ (by omega),
        State.obj_addObj (only.inv inv).objects, only.obj, linkReplay_max]
  · obtain ⟨act, run⟩ := exec_sequenced (s := s) hc
    rw [State.seqFlit_outOfOrder hears order] at run
    obtain ⟨asked, seq, -⟩ := State.nakOnce_port (s := s.hear p f) (p := p)
    exact ⟨_, run, .trans .hear .nakOnce, seq.trans State.hear_rxSeq, asked⟩
end

section
/-! SUPPORT. Floods that this module takes: what taking one leaves, and that it goes on (O28). -/

namespace Sys2Proof.Machine

variable {s t u : State} {p : Port} {f : Flit} {ft : BitVec 8}

/-! ### Taking a flood -/

/-- A module that has taken a flooded flit and noted it as the newest of its origin (R410). -/
def State.floodTaken (s : State) (p : Port) (f : Flit) : State :=
  { s.delivered p f with floodSeen := setKey (floodHead f).1.toNat (floodHead f).2 (s.delivered p f).floodSeen }

theorem State.floodTaken_frame (s : State) (p : Port) (f : Flit) : s.floodTaken p f =
    { s with ports := (s.floodTaken p f).ports, out := (s.floodTaken p f).out, floodSeen := (s.floodTaken p f).floodSeen } := by
  unfold State.floodTaken
  rw [OnlyPorts.delivered]

theorem State.floodTaken_noted : lookupKey (floodHead f).1.toNat (s.floodTaken p f).floodSeen = some (floodHead f).2 :=
  lookupKey_setKey_self _ _ _

/-- What taking a flood leaves, for the fields that floods act on. -/
theorem State.floodTaken_keeps (s : State) (p : Port) (f : Flit) : let v := s.floodTaken p f
    v.step = s.step ∧ v.mem = s.mem ∧ v.log = s.log ∧ v.gc = s.gc ∧ v.mgmtIsland = s.mgmtIsland ∧ v.od = s.od := by
  dsimp only []
  rw [State.floodTaken_frame]
  exact ⟨rfl, rfl, rfl, rfl, rfl, rfl⟩

/-- A flooded flit is newer than the last of its origin, or the first (R410). -/
def State.floodIsNew (s : State) (f : Flit) : Bool :=
  match (if (floodHead f).1 = s.nodeId then some s.floodSeq else lookupKey (floodHead f).1.toNat s.floodSeen) with
  | none => true
  | some l => decide (0 < ((floodHead f).2 + 2 ^ 32 - l) % 2 ^ 32) && decide (((floodHead f).2 + 2 ^ 32 - l) % 2 ^ 32 < 2 ^ 31)

theorem State.taken_flooded {act : State → State} : (s.taken p f).flooded p ft f act =
    if !(s.delivered p f).floodIsNew f || (floodHead f).1 = (s.delivered p f).nodeId then s.delivered p f
    else (act (s.floodTaken p f)).floodOut ft (some p) f := rfl

theorem OnlyPorts.floodIsNew (h : OnlyPorts s t) (f : Flit) : t.floodIsNew f = s.floodIsNew f := by
  rw [h]
  rfl

theorem NewFlood.isNew (n : NewFlood s f) : s.floodIsNew f = true := by
  unfold State.floodIsNew
  rw [if_neg n.other]
  cases last : lookupKey (floodHead f).1.toNat s.floodSeen with
  | none => rfl
  | some l => exact (Bool.and_eq_true _ _).mpr ((n.newer l last).imp decide_eq_true decide_eq_true)

theorem OldFlood.notNew (n : OldFlood s f) (other : (floodHead f).1 ≠ s.nodeId) : s.floodIsNew f = false := by
  obtain own | ⟨l, last, behind⟩ := n
  · exact absurd own other
  · unfold State.floodIsNew
    rw [if_neg other, last]
    refine (Bool.and_eq_false_iff).mpr (behind.imp (fun same => ?_) (fun far => ?_))
    · exact decide_eq_false (by rw [same]; exact Nat.lt_irrefl 0)
    · exact decide_eq_false (Nat.not_lt.2 far)

/-- A new flood acts on the module that has taken it, and goes on (R410). -/
theorem State.seqFlit_newFlood {act : State → State} (o : InOrder s p f) (n : NewFlood s f) :
    s.seqFlit p f (fun s => s.flooded p ft f act) = .next ((act (s.floodTaken p f)).floodOut ft (some p) f) := by
  have only : OnlyPorts s (s.delivered p f) := .delivered
  rw [State.seqFlit_inOrder o, State.taken_flooded, only.floodIsNew, only.nodeId, if_neg]
  rw [n.isNew, decide_eq_false n.other]
  exact Bool.false_ne_true

/-- An old flood only takes its buffer (R390, R410). -/
theorem State.seqFlit_oldFlood {act : State → State} (o : InOrder s p f) (n : OldFlood s f) :
    s.seqFlit p f (fun s => s.flooded p ft f act) = .next (s.delivered p f) := by
  have only : OnlyPorts s (s.delivered p f) := .delivered
  rw [State.seqFlit_inOrder o, State.taken_flooded, only.floodIsNew, only.nodeId, if_pos]
  by_cases own : (floodHead f).1 = s.nodeId
  · rw [decide_eq_true own]
    exact Bool.or_true _
  · rw [n.notNew own]
    rfl

/-! ### A flood goes on -/

theorem OnlyPorts.floodOut {o : Option Port} : OnlyPorts s (s.floodOut ft o f) :=
  .foldl (fun b q => by
    split
    · exact rfl
    · exact .sendSeq) _

/-- Taking a flood only adds to what is sent. -/
theorem State.floodTaken_out : s.out <+: (s.floodTaken p f).out := by
  have drained : Tells ((s.heard p f).emptied p) (s.hear p f) := .foldl (fun _ _ => .sendSeq) (s.heard p f).ports[p].waitq
  have heard : ((s.heard p f).emptied p).out = s.out := rfl
  have delivered : (s.floodTaken p f).out = (s.hear p f).out := State.freeBuffer_out (s := s.taken p f)
  rw [delivered, ← heard]
  exact drained.out

/-- Taking a flood leaves the states of the other ports. -/
theorem State.floodTaken_st_other {q : Port} (h : q ≠ p) : (s.floodTaken p f).ports[q].st = s.ports[q].st := by
  have freed : SameLinks (s.taken p f) (s.delivered p f) := .freeBuffer
  refine (freed q).1.trans (Eq.trans ?_ (State.hear_st_other (f := f) h))
  exact congrArg PortState.st (State.modPort_ports_other h)

/-- A flood that has acted here goes on by every UP port but the one it came by (R410). -/
theorem FloodedOn.of_taken (acted : Tells (s.floodTaken p f) t) :
    FloodedOn s (t.floodOut ft (some p) f) (some p) ft f.payload := by
  have out : s.out <+: t.out := State.floodTaken_out.trans acted.out
  refine .of_sentOn (out.trans Tells.floodOut.out) fun q other up => ?_
  have ne : q ≠ p := fun e => other (by rw [e])
  have stands : t.ports[q].st.isUp = true := by rwa [acted.status, State.floodTaken_st_other ne]
  exact (State.floodOut_sentOn other stands).earlier out

/-! ### What each flood does here -/

/-- A flood that acts here and goes on changes nothing else but ports and what is sent. -/
theorem State.floodOut_frame (s : State) (ft : BitVec 8) (o : Option Port) (f : Flit) :
    s.floodOut ft o f = { s with ports := (s.floodOut ft o f).ports, out := (s.floodOut ft o f).out } := OnlyPorts.floodOut

@[simp] theorem State.floodOut_floodSeen (s : State) (ft : BitVec 8) (o : Option Port) (f : Flit) :
    (s.floodOut ft o f).floodSeen = s.floodSeen := by rw [State.floodOut_frame]

@[simp] theorem State.floodOut_step (s : State) (ft : BitVec 8) (o : Option Port) (f : Flit) :
    (s.floodOut ft o f).step = s.step := by rw [State.floodOut_frame]

@[simp] theorem State.floodOut_mem (s : State) (ft : BitVec 8) (o : Option Port) (f : Flit) :
    (s.floodOut ft o f).mem = s.mem := by rw [State.floodOut_frame]

@[simp] theorem State.floodOut_log (s : State) (ft : BitVec 8) (o : Option Port) (f : Flit) :
    (s.floodOut ft o f).log = s.log := by rw [State.floodOut_frame]

@[simp] theorem State.floodOut_freeze (s : State) (ft : BitVec 8) (o : Option Port) (f : Flit) :
    (s.floodOut ft o f).freeze = s.freeze := by rw [State.floodOut_frame]

@[simp] theorem State.floodOut_holds (s : State) (ft : BitVec 8) (o : Option Port) (f : Flit) :
    (s.floodOut ft o f).holds = s.holds := by rw [State.floodOut_frame]

@[simp] theorem State.floodOut_downLinks (s : State) (ft : BitVec 8) (o : Option Port) (f : Flit) :
    (s.floodOut ft o f).downLinks = s.downLinks := by rw [State.floodOut_frame]

@[simp] theorem State.floodOut_lossOrigins (s : State) (ft : BitVec 8) (o : Option Port) (f : Flit) :
    (s.floodOut ft o f).lossOrigins = s.lossOrigins := by rw [State.floodOut_frame]

@[simp] theorem State.floodOut_lostNodes (s : State) (ft : BitVec 8) (o : Option Port) (f : Flit) :
    (s.floodOut ft o f).lostNodes = s.lostNodes := by rw [State.floodOut_frame]

/-- An event that is logged stays so while its flood goes on. -/
theorem Logged.floodOut {c : BitVec 16} {i : Nat} {d : Bytes} {o : Option Port} (h : Logged s t c i d) :
    Logged s (t.floodOut ft o f) c i d := by
  rwa [Logged, State.floodOut_log]

/-- A module whose largest shift for a launch is that of a `HOLD` (R414): the first for its launch is logged. -/
def State.holdTaken (s : State) (f : Flit) : State :=
  let s := s.noteHold (fieldAt f.payload 8 8) (fieldAt f.payload 16 8)
  if s.holdsHeard.contains (fieldAt f.payload 8 8) then s
  else ({ s with holdsHeard := s.holdsHeard ++ [fieldAt f.payload 8 8] }).mgmtEvent 0x6109 (toLe 2 (floodHead f).1.toNat)

theorem State.holdTaken_known (h : fieldAt f.payload 8 8 ∈ s.holdsHeard) :
    s.holdTaken f = s.noteHold (fieldAt f.payload 8 8) (fieldAt f.payload 16 8) :=
  if_pos (List.contains_iff_mem.mpr h)

theorem State.holdTaken_first (h : fieldAt f.payload 8 8 ∉ s.holdsHeard) : s.holdTaken f =
    ({ s.noteHold (fieldAt f.payload 8 8) (fieldAt f.payload 16 8) with
        holdsHeard := s.holdsHeard ++ [fieldAt f.payload 8 8] }).mgmtEvent 0x6109 (toLe 2 (floodHead f).1.toNat) :=
  if_neg (fun e => h (List.contains_iff_mem.mp e))

/-- What a `HOLD` leaves (R414). -/
theorem State.holdTaken_keeps (s : State) (f : Flit) : (s.holdTaken f).floodSeen = s.floodSeen ∧ (s.holdTaken f).step = s.step ∧
    (s.holdTaken f).mem = s.mem ∧ (s.holdTaken f).holds =
      setKey (fieldAt f.payload 8 8) (max (fieldAt f.payload 16 8) ((lookupKey (fieldAt f.payload 8 8) s.holds).getD 0)) s.holds := by
  by_cases h : fieldAt f.payload 8 8 ∈ s.holdsHeard
  · rw [State.holdTaken_known h]
    exact ⟨rfl, rfl, rfl, rfl⟩
  · rw [State.holdTaken_first h, State.mgmtEvent, State.event_frame]
    exact ⟨rfl, rfl, rfl, rfl⟩

theorem State.holdTaken_logged (h : fieldAt f.payload 8 8 ∉ s.holdsHeard) :
    Logged s (s.holdTaken f) 0x6109 s.mgmtIsland (toLe 2 (floodHead f).1.toNat) := by
  rw [State.holdTaken_first h]
  exact State.event_logged_since (s := s) rfl rfl (by simp [toLe_length])

theorem Tells.holdTaken : Tells s (s.holdTaken f) := by
  have noted : Tells s (s.noteHold (fieldAt f.payload 8 8) (fieldAt f.payload 16 8)) := .of_same rfl rfl rfl
  by_cases h : fieldAt f.payload 8 8 ∈ s.holdsHeard
  · rwa [State.holdTaken_known h]
  · rw [State.holdTaken_first h]
    exact .after .mgmtEvent (.of_same rfl rfl rfl)

/-- A module that has set, or moved, the freeze of a `FREEZE` (R415). -/
def State.freezeTaken (s : State) (f : Flit) : State :=
  s.freezeAt (max s.gc.value (fieldAt f.payload 8 8)) false false 3 (s.uptime + (max s.gc.value (fieldAt f.payload 8 8) - s.gc.value))

theorem State.freezeTaken_keeps (s : State) (f : Flit) : (s.freezeTaken f).floodSeen = s.floodSeen ∧
    (s.freezeTaken f).step = s.step ∧ (s.freezeTaken f).mem = s.mem := by
  unfold State.freezeTaken
  rw [State.freezeAt_frame]
  exact ⟨rfl, rfl, rfl⟩

theorem Tells.freezeTaken : Tells s (s.freezeTaken f) := by
  unfold State.freezeTaken
  rw [State.freezeAt_frame]
  exact .of_same rfl rfl rfl

/-- The two ends of the link that a `LOSS` names (R411). -/
def lossEnds (f : Flit) : LinkEnd × LinkEnd :=
  ((BitVec.ofNat 16 (fieldAt f.payload 8 2), fieldAt f.payload 10 1), (BitVec.ofNat 16 (fieldAt f.payload 11 2), fieldAt f.payload 13 1))

/-- A module that has noted the link of a `LOSS` as down (R411). -/
def State.lossTaken (s : State) (f : Flit) : State :=
  s.noteLoss (floodHead f).1 (lossEnds f).1 (lossEnds f).2 (fieldAt f.payload 14 1)

/-- A module whose current step has aborted where an `ABORT` names it (R417). -/
def State.abortTaken (s : State) (f : Flit) : State :=
  if s.stepLive && s.step.current = fieldAt f.payload 8 8 then
    s.abortWith 0x610B s.mgmtIsland (toLe 2 (floodHead f).1.toNat ++ slice f.payload 16 2)
  else s

theorem Tells.abortTaken : Tells s (s.abortTaken f) := by
  unfold State.abortTaken
  split
  · exact .abortWith
  · exact .refl s

theorem State.abortTaken_named (live : s.stepLive = true) (named : s.step.current = fieldAt f.payload 8 8) :
    s.abortTaken f = s.abortWith 0x610B s.mgmtIsland (toLe 2 (floodHead f).1.toNat ++ slice f.payload 16 2) :=
  if_pos (by simp [live, named])

theorem State.abortTaken_other (h : s.stepLive = false ∨ s.step.current ≠ fieldAt f.payload 8 8) : s.abortTaken f = s :=
  if_neg (by simpa [or_iff_not_imp_left] using h)

theorem OnlyAborts.abortTaken : OnlyAborts s (s.abortTaken f) := by
  unfold State.abortTaken
  split
  · exact .abortWith
  · exact .refl s

theorem State.abortTaken_floodSeen : (s.abortTaken f).floodSeen = s.floodSeen := by rw [OnlyAborts.abortTaken]

/-- The floods, and what each does where it is new. -/
theorem exec_floods : exec (.hold p f) s = s.seqFlit p f (fun s => s.flooded p 0x08 f (fun s => s.holdTaken f)) ∧
    exec (.freeze p f) s = s.seqFlit p f (fun s => s.flooded p 0x09 f (fun s => s.freezeTaken f)) ∧
    exec (.loss p f) s = s.seqFlit p f (fun s => s.flooded p 0x0B f (fun s => s.lossTaken f)) ∧
    exec (.abort p f) s = s.seqFlit p f (fun s => s.flooded p 0x10 f (fun s => s.abortTaken f)) :=
  ⟨rfl, rfl, rfl, rfl⟩

/-! ### Losses -/

theorem DownLink.of_ends (a b : LinkEnd) (c d : Nat) : (DownLink.of a b c).a = (DownLink.of a b d).a ∧
    (DownLink.of a b c).b = (DownLink.of a b d).b := by
  unfold DownLink.of
  split <;> exact ⟨rfl, rfl⟩

/-- The link of a report stands among the down links, at its cause or a greater one (R411). -/
theorem State.linksWith_stands (s : State) (l : DownLink) : ∃ x ∈ s.linksWith l, x.a = l.a ∧ x.b = l.b ∧ l.cause ≤ x.cause := by
  unfold State.linksWith
  split
  next known =>
    obtain ⟨y, mem, same⟩ := List.any_eq_true.mp known
    obtain ⟨ha, hb⟩ : y.a = l.a ∧ y.b = l.b := by simpa using same
    exact ⟨_, List.mem_map_of_mem mem, by simp [ha, hb]⟩
  next => exact ⟨l, List.mem_append_right _ (List.mem_singleton_self l), rfl, rfl, le_refl _⟩

/-- An abort only adds to the causes of the step. -/
theorem State.abortStep_causes {c : BitVec 16} : s.step.causes <+: (s.abortStep c).step.causes := by
  by_cases live : s.stepLive = true
  · rw [(State.abortStep_status live).2]
    exact List.prefix_append _ _
  · unfold State.stepLive at live
    unfold State.abortStep
    cases status : s.step.status with
    | idle => exact List.prefix_refl _
    | aborted => exact List.prefix_append _ _
    | running => simp [status] at live
    | ended => simp [status] at live

theorem State.loseNode_causes {n : BitVec 16} : s.step.causes <+: (s.loseNode n).step.causes := by
  by_cases h : n ∈ s.lostNodes
  · rw [State.loseNode_known h]
  · have logged : ((s.lostListed n).event 0x6106 s.mgmtIsland (toLe 2 n.toNat)).step = s.step := OnlySends.event.step
    rw [State.loseNode_new h, State.endAttempts_step, ← logged]
    exact State.abortStep_causes

/-- What is known of down links, of the origins of losses and of floods stands while a node is lost. -/
theorem State.loseNode_links {n : BitVec 16} : (s.loseNode n).downLinks = s.downLinks ∧
    (s.loseNode n).lossOrigins = s.lossOrigins ∧ (s.loseNode n).floodSeen = s.floodSeen := by
  by_cases h : n ∈ s.lostNodes
  · rw [State.loseNode_known h]
    exact ⟨rfl, rfl, rfl⟩
  · have only : OnlyAborts (s.lostListed n) _ := OnlyAborts.abortWith (c := 0x6106) (i := s.mgmtIsland) (d := toLe 2 n.toNat)
    rw [State.loseNode_new h, only]
    exact ⟨rfl, rfl, rfl⟩

section
variable {origin : BitVec 16} {a b : LinkEnd} {cause : Nat}

/-- A loss that has been noted, and has aborted the step where its link is new, changes nothing else. -/
theorem OnlyAborts.lossAborted : OnlyAborts (s.lossNoted origin a b cause) (s.lossAborted origin a b cause) := by
  unfold State.lossAborted
  split
  · exact .refl _
  · exact .abortStep

/-- Whatever a loss does to a node, its link is down, its origin is listed, and floods stand as noted (R411). -/
theorem State.noteLoss_links : (s.noteLoss origin a b cause).downLinks = s.linksWith (DownLink.of a b cause) ∧
    (s.noteLoss origin a b cause).lossOrigins = addNew s.lossOrigins [origin.toNat] ∧
    (s.noteLoss origin a b cause).floodSeen = s.floodSeen := by
  have noted : (s.lossAborted origin a b cause).downLinks = s.linksWith (DownLink.of a b cause) ∧
      (s.lossAborted origin a b cause).lossOrigins = addNew s.lossOrigins [origin.toNat] ∧
      (s.lossAborted origin a b cause).floodSeen = s.floodSeen := by
    rw [OnlyAborts.lossAborted]
    exact ⟨rfl, rfl, rfl⟩
  rw [State.noteLoss_eq]
  split
  · obtain ⟨links, origins, seen⟩ := State.loseNode_links (s := s.lossAborted origin a b cause)
      (n := if a.1 = origin then b.1 else a.1)
    rwa [links, origins, seen]
  · exact noted

/-- The first report of a link aborts the step (R411). -/
theorem State.noteLoss_first (new : s.linkKnown (DownLink.of a b cause) = false) (live : s.stepLive = true) :
    (s.noteLoss origin a b cause).step.status = .aborted ∧
      (s.step.causes ++ [lossCode cause]) <+: (s.noteLoss origin a b cause).step.causes := by
  have aborted : (s.lossAborted origin a b cause).step.status = .aborted ∧
      (s.lossAborted origin a b cause).step.causes = s.step.causes ++ [lossCode cause] := by
    unfold State.lossAborted
    rw [if_neg (by rw [new]; exact Bool.false_ne_true)]
    exact State.abortStep_status (s := s.lossNoted origin a b cause) live
  rw [State.noteLoss_eq, ← aborted.2]
  split
  · exact ⟨State.loseNode_aborted aborted.1, State.loseNode_causes⟩
  · exact ⟨aborted.1, List.prefix_refl _⟩

/-- A report of a link that is known to be down, other than a dying gasp's, leaves the step as it is (R411). -/
theorem State.noteLoss_known (known : s.linkKnown (DownLink.of a b cause) = true) (alive : cause ≠ 3) :
    s.noteLoss origin a b cause = s.lossNoted origin a b cause := by
  rw [State.noteLoss_eq, if_neg alive]
  exact if_pos known

/-- A dying gasp's report makes the far end lost (R411). -/
theorem State.noteLoss_gasp (gasp : cause = 3) : let far := if a.1 = origin then b.1 else a.1
    far ∈ (s.noteLoss origin a b cause).lostNodes ∧
      (far ∉ s.lostNodes → s.stepLive = true → (s.noteLoss origin a b cause).step.status = .aborted) := by
  dsimp only []
  rw [State.noteLoss_eq, if_pos gasp]
  refine ⟨State.loseNode_listed, fun new live => ?_⟩
  cases known : s.linkKnown (DownLink.of a b cause) with
  | true =>
    have noted : s.lossAborted origin a b cause = s.lossNoted origin a b cause := if_pos known
    rw [noted]
    exact (State.loseNode_spec (s := s.lossNoted origin a b cause) new).2.1 live
  | false =>
    have aborted : s.lossAborted origin a b cause = (s.lossNoted origin a b cause).abortStep (lossCode cause) :=
      if_neg (by rw [known]; exact Bool.false_ne_true)
    rw [aborted]
    exact State.loseNode_aborted (State.abortStep_status (s := s.lossNoted origin a b cause) live).1

end

/-! ### What is left where a flood is new -/

/-- What taking a flood leaves of the step and of what losses have told. -/
theorem State.floodTaken_stepLive : (s.floodTaken p f).stepLive = s.stepLive := by
  rw [State.floodTaken_frame]
  rfl

theorem State.floodTaken_linkKnown (l : DownLink) : (s.floodTaken p f).linkKnown l = s.linkKnown l := by
  rw [State.floodTaken_frame]
  rfl

theorem State.floodTaken_lostNodes : (s.floodTaken p f).lostNodes = s.lostNodes := by rw [State.floodTaken_frame]

theorem State.floodTaken_freeze : (s.floodTaken p f).freeze = s.freeze := by rw [State.floodTaken_frame]

theorem State.floodTaken_holds : (s.floodTaken p f).holds = s.holds ∧ (s.floodTaken p f).holdsHeard = s.holdsHeard := by
  rw [State.floodTaken_frame]
  exact ⟨rfl, rfl⟩

theorem State.floodTaken_mgmtIsland : (s.floodTaken p f).mgmtIsland = s.mgmtIsland := by
  rw [State.floodTaken_frame]
  rfl

/-- An event logged after a flood is taken is logged since the flood came. -/
theorem Logged.of_floodTaken {c : BitVec 16} {i : Nat} {d : Bytes} (h : Logged (s.floodTaken p f) t c i d) : Logged s t c i d := by
  rw [Logged, State.floodTaken_frame] at h
  exact h

/-- A new `HOLD` (R414). -/
theorem exec_newHold (o : InOrder s p f) (n : NewFlood s f) :
    exec (.hold p f) s = .next (((s.floodTaken p f).holdTaken f).floodOut 0x08 (some p) f) := by
  rw [exec_floods.1, State.seqFlit_newFlood o n]

/-- A new `FREEZE` (R415). -/
theorem exec_newFreeze (o : InOrder s p f) (n : NewFlood s f) :
    exec (.freeze p f) s = .next (((s.floodTaken p f).freezeTaken f).floodOut 0x09 (some p) f) := by
  rw [exec_floods.2.1, State.seqFlit_newFlood o n]

/-- A new `LOSS` (R411). -/
theorem exec_newLoss (o : InOrder s p f) (n : NewFlood s f) :
    exec (.loss p f) s = .next (((s.floodTaken p f).lossTaken f).floodOut 0x0B (some p) f) := by
  rw [exec_floods.2.2.1, State.seqFlit_newFlood o n]

/-- A new `ABORT` (R417). -/
theorem exec_newAbort (o : InOrder s p f) (n : NewFlood s f) :
    exec (.abort p f) s = .next (((s.floodTaken p f).abortTaken f).floodOut 0x10 (some p) f) := by
  rw [exec_floods.2.2.2, State.seqFlit_newFlood o n]

/-- A flood that is not new only takes its buffer. -/
theorem exec_oldFlood (o : InOrder s p f) (n : OldFlood s f) {c : Instr} (h : c ∈ [Instr.hold p f, .freeze p f, .loss p f, .abort p f]) :
    exec c s = .next (s.delivered p f) := by
  obtain ⟨hold, freeze, loss, abort⟩ := exec_floods (s := s) (p := p) (f := f)
  simp only [List.mem_cons, List.not_mem_nil, or_false] at h
  rcases h with rfl | rfl | rfl | rfl
  · rw [hold, State.seqFlit_oldFlood o n]
  · rw [freeze, State.seqFlit_oldFlood o n]
  · rw [loss, State.seqFlit_oldFlood o n]
  · rw [abort, State.seqFlit_oldFlood o n]

/-- What a new `HOLD` leaves (R414). -/
theorem State.newHold_spec : let t := ((s.floodTaken p f).holdTaken f).floodOut 0x08 (some p) f
    let n := fieldAt f.payload 8 8
    lookupKey (floodHead f).1.toNat t.floodSeen = some (floodHead f).2 ∧ t.step = s.step ∧ t.mem = s.mem ∧
      lookupKey n t.holds = some (max (fieldAt f.payload 16 8) ((lookupKey n s.holds).getD 0)) ∧
      (n ∉ s.holdsHeard → Logged s t 0x6109 s.mgmtIsland (toLe 2 (floodHead f).1.toNat)) ∧
      (n ∈ s.holdsHeard → t.log = s.log) ∧ FloodedOn s t (some p) 0x08 f.payload := by
  obtain ⟨step, mem, log, -⟩ := State.floodTaken_keeps s p f
  obtain ⟨holds, heard⟩ := State.floodTaken_holds (s := s) (p := p) (f := f)
  obtain ⟨seen, still, kept, shift⟩ := State.holdTaken_keeps (s.floodTaken p f) f
  have noted := State.floodTaken_noted (s := s) (p := p) (f := f)
  rw [← seen] at noted
  simp only [State.floodOut_floodSeen, State.floodOut_step, State.floodOut_mem, State.floodOut_holds, State.floodOut_log]
  refine ⟨noted, still.trans step, kept.trans mem, ?_, fun first => ?_, fun known => ?_, .of_taken .holdTaken⟩
  · rw [shift, holds]
    exact lookupKey_setKey_self _ _ _
  · rw [← heard] at first
    rw [← State.floodTaken_mgmtIsland (p := p) (f := f)]
    exact (Logged.of_floodTaken (State.holdTaken_logged first)).floodOut
  · rw [← heard] at known
    rw [State.holdTaken_known known]
    exact log

/-- What a new `FREEZE` leaves (R415). -/
theorem State.newFreeze_spec (w : Assoc.wf objDefault s.od = true) :
    let t := ((s.floodTaken p f).freezeTaken f).floodOut 0x09 (some p) f
    let c := max s.gc.value (fieldAt f.payload 8 8)
    lookupKey (floodHead f).1.toNat t.floodSeen = some (floodHead f).2 ∧ t.step = s.step ∧ t.mem = s.mem ∧
      (s.freeze.st = .run → t.freeze.st = .pending ∧ t.freeze.count = c ∧ t.freeze.full = false ∧ t.freeze.byPin = false) ∧
      (s.freeze.st = .pending → t.freeze = { s.freeze with count := min s.freeze.count c }) ∧
      FloodedOn s t (some p) 0x09 f.payload := by
  obtain ⟨step, mem, -, gc, -, od⟩ := State.floodTaken_keeps s p f
  have freeze := State.floodTaken_freeze (s := s) (p := p) (f := f)
  obtain ⟨seen, still, kept⟩ := State.freezeTaken_keeps (s.floodTaken p f) f
  have noted := State.floodTaken_noted (s := s) (p := p) (f := f)
  rw [← seen] at noted
  simp only [State.floodOut_floodSeen, State.floodOut_step, State.floodOut_mem, State.floodOut_freeze]
  refine ⟨noted, still.trans step, kept.trans mem, fun run => ?_, fun pending => ?_, .of_taken .freezeTaken⟩
  · rw [State.freezeTaken, (State.freezeAt_run (by rwa [od]) (by rw [freeze]; exact run) _ _ _ _ _).1, gc]
    exact ⟨rfl, rfl, rfl, rfl⟩
  · rw [State.freezeTaken, State.freezeAt, freeze, pending, gc]
    simp [pending]

/-- What a new `LOSS` leaves (R411). -/
theorem State.newLoss_spec : let t := ((s.floodTaken p f).lossTaken f).floodOut 0x0B (some p) f
    let a := (lossEnds f).1
    let b := (lossEnds f).2
    let cause := fieldAt f.payload 14 1
    let l := DownLink.of a b cause
    lookupKey (floodHead f).1.toNat t.floodSeen = some (floodHead f).2 ∧ (floodHead f).1.toNat ∈ t.lossOrigins ∧
      (∃ x ∈ t.downLinks, x.a = l.a ∧ x.b = l.b ∧ cause ≤ x.cause) ∧
      (s.linkKnown l = false → s.stepLive = true → t.step.status = .aborted ∧
        (s.step.causes ++ [lossCode cause]) <+: t.step.causes) ∧
      (s.linkKnown l = true → cause ≠ 3 → t.step = s.step ∧ t.mem = s.mem) ∧
      (cause = 3 → let far := if a.1 = (floodHead f).1 then b.1 else a.1
        far ∈ t.lostNodes ∧ (far ∉ s.lostNodes → s.stepLive = true → t.step.status = .aborted)) ∧
      FloodedOn s t (some p) 0x0B f.payload := by
  obtain ⟨step, mem, -⟩ := State.floodTaken_keeps s p f
  obtain ⟨links, origins, seen⟩ := State.noteLoss_links (s := s.floodTaken p f) (origin := (floodHead f).1)
    (a := (lossEnds f).1) (b := (lossEnds f).2) (cause := fieldAt f.payload 14 1)
  simp only [State.floodOut_floodSeen, State.floodOut_step, State.floodOut_mem, State.floodOut_downLinks,
    State.floodOut_lossOrigins, State.floodOut_lostNodes]
  refine ⟨?_, ?_, ?_, fun first live => ?_, fun known alive => ?_, fun gasp => ?_, .of_taken .noteLoss⟩
  · rw [State.lossTaken, seen]
    exact State.floodTaken_noted
  · rw [State.lossTaken, origins]
    exact mem_addNew_self _ _
  · obtain ⟨x, stands, ha, hb, cause⟩ := State.linksWith_stands (s.floodTaken p f)
      (DownLink.of (lossEnds f).1 (lossEnds f).2 (fieldAt f.payload 14 1))
    rw [State.lossTaken, links]
    exact ⟨x, stands, ha, hb, by rwa [DownLink.of_cause] at cause⟩
  · rw [State.lossTaken, ← step]
    exact State.noteLoss_first ((State.floodTaken_linkKnown _).trans first) (State.floodTaken_stepLive.trans live)
  · rw [State.lossTaken, State.noteLoss_known ((State.floodTaken_linkKnown _).trans known) alive]
    exact ⟨step, mem⟩
  · rw [State.lossTaken]
    obtain ⟨lost, aborts⟩ := State.noteLoss_gasp (s := s.floodTaken p f) (origin := (floodHead f).1) (a := (lossEnds f).1)
      (b := (lossEnds f).2) gasp
    exact ⟨lost, fun new live => aborts (by rwa [State.floodTaken_lostNodes]) (State.floodTaken_stepLive.trans live)⟩

/-- An `ABORT` that names the current step aborts it (R417). -/
theorem State.abortTaken_spec (live : s.stepLive = true) (named : s.step.current = fieldAt f.payload 8 8) :
    (s.abortTaken f).step.status = .aborted ∧ (s.abortTaken f).step.causes = s.step.causes ++ [0x610B] ∧
      Logged s (s.abortTaken f) 0x610B s.mgmtIsland (toLe 2 (floodHead f).1.toNat ++ slice f.payload 16 2) := by
  obtain ⟨status, causes⟩ := State.abortWith_status (s := s) (t := s) (c := 0x610B) (i := s.mgmtIsland)
    (d := toLe 2 (floodHead f).1.toNat ++ slice f.payload 16 2) rfl live
  rw [State.abortTaken_named live named]
  refine ⟨status, causes, State.abortWith_logged ?_⟩
  simp only [List.length_append, toLe_length, slice, List.length_take]
  omega

/-- What a new `ABORT` leaves (R417). -/
theorem State.newAbort_spec : let t := ((s.floodTaken p f).abortTaken f).floodOut 0x10 (some p) f
    let n := fieldAt f.payload 8 8
    lookupKey (floodHead f).1.toNat t.floodSeen = some (floodHead f).2 ∧
      (s.stepLive = true → s.step.current = n → t.step.status = .aborted ∧ t.step.causes = s.step.causes ++ [0x610B] ∧
        Logged s t 0x610B s.mgmtIsland (toLe 2 (floodHead f).1.toNat ++ slice f.payload 16 2)) ∧
      (s.stepLive = false ∨ s.step.current ≠ n → t.step = s.step ∧ t.mem = s.mem ∧ t.log = s.log) ∧
      FloodedOn s t (some p) 0x10 f.payload := by
  obtain ⟨step, mem, log, -⟩ := State.floodTaken_keeps s p f
  simp only [State.floodOut_floodSeen, State.floodOut_step, State.floodOut_mem, State.floodOut_log]
  have noted := State.floodTaken_noted (s := s) (p := p) (f := f)
  rw [← State.abortTaken_floodSeen (s := s.floodTaken p f) (f := f)] at noted
  refine ⟨noted, fun live current => ?_, fun other => ?_, .of_taken .abortTaken⟩
  · obtain ⟨status, causes, logged⟩ := State.abortTaken_spec (s := s.floodTaken p f) (f := f)
      (State.floodTaken_stepLive.trans live) (by rw [step, current])
    rw [step] at causes
    rw [State.floodTaken_mgmtIsland] at logged
    exact ⟨status, causes, (Logged.of_floodTaken logged).floodOut⟩
  · rw [State.abortTaken_other (by rwa [State.floodTaken_stepLive, step])]
    exact ⟨step, mem, log⟩

end Sys2Proof.Machine

open Sys2Proof Sys2Proof.Machine

/-- Settles O28: a flood that is new acts on the module that has taken it and goes on; what each does here is said by what a
hold, a freeze, the report of a loss and an abort leave. -/
theorem floodsActOnce : Obligations.FloodsActOnce := by
  intro s p f inv o
  exact ⟨fun n => ⟨⟨_, exec_newHold o n, State.newHold_spec⟩, ⟨_, exec_newFreeze o n, State.newFreeze_spec inv.objects⟩,
    ⟨_, exec_newLoss o n, State.newLoss_spec⟩, ⟨_, exec_newAbort o n, State.newAbort_spec⟩⟩, fun n c h => exec_oldFlood o n h⟩
end

section
/-! SUPPORT. Collective and checkpoint records: what sending a stage leaves, and what a record whose stages have ended
makes (O59). -/

namespace Sys2Proof.Machine

variable {s t u v : State} {c : Core} {r : Nat} {p : Plan} {rc : Rec} {q : QRec}

/-! ### What is read -/

theorem SameReads.ownPart (h : SameReads s t) (d : Desc) (plane : Option Desc) (i : List Nat) :
    t.ownPart d plane i = s.ownPart d plane i := by
  simp only [State.ownPart, h.code]

theorem SameReads.shardRow (h : SameReads s t) (a b : Desc) (plane : Option Desc) (me : Nat) (parts : List PartIn)
    (o : List Nat) : t.shardRow a b plane me parts o = s.shardRow a b plane me parts o := by
  simp only [State.shardRow, h.ownPart]

theorem SameReads.tensorBytes (h : SameReads s t) (d : Desc) : t.tensorBytes d = s.tensorBytes d := by
  simp only [State.tensorBytes, h.code]

theorem SameReads.sectionFor (h : SameReads s t) (x : Ctx) (d : Desc) (i : Nat) :
    t.sectionFor x d i = s.sectionFor x d i := by
  simp only [State.sectionFor, h.code]

theorem State.noteReads_qrec (l : List Span) : (s.noteReads p l).qrec c r = s.qrec c r :=
  State.qrec_of_inflight (by rw [(State.noteReads_keeps l).2.2.2])

theorem SameStore.noteReads (l : List Span) : SameStore s (s.noteReads p l) := by
  unfold State.noteReads
  split
  · exact .refl s
  · exact ⟨rfl, rfl, rfl⟩

theorem State.noteReads_unacked (l : List Span) : (s.noteReads p l).unacked c r = s.unacked c r := by
  unfold State.noteReads
  split
  · rfl
  · rfl

theorem SameReads.regionBytes (h : SameReads s t) (d : Desc) : t.regionBytes d = s.regionBytes d := h.getBytes _ _ _

/-! ### What sending transfers leaves -/

/-- Only what is sent has changed, and the transfers that stand unacknowledged (R398). -/
def OnlyTransfers (s t : State) : Prop :=
  t = { s with ports := t.ports, out := t.out, od := t.od, log := t.log, mgmt := t.mgmt, floodSeq := t.floodSeq,
               fenceErrors := t.fenceErrors, errorReplies := t.errorReplies, outbound := t.outbound, nextXid := t.nextXid }

namespace OnlyTransfers

theorem refl (s : State) : OnlyTransfers s s := rfl

theorem trans (h : OnlyTransfers s t) (g : OnlyTransfers t u) : OnlyTransfers s u := by
  unfold OnlyTransfers at *
  rw [g, h]

theorem foldl {α : Type} {f : State → α → State} (h : ∀ b x, OnlyTransfers b (f b x)) (l : List α) :
    OnlyTransfers s (l.foldl f s) := by
  induction l generalizing s with
  | nil => exact .refl s
  | cons x l ih => exact (h s x).trans ih

theorem of_sends (h : OnlySends s t) : OnlyTransfers s t := by
  unfold OnlySends at h
  unfold OnlyTransfers
  rw [h]

theorem sendPiece {o : Sender} {ver a : Nat} {dst : BitVec 16} {b : Bytes} : OnlyTransfers s (s.sendPiece o ver dst a b) := by
  have queued (xid : Nat) (l : List Outbound) : OnlyTransfers s { s with nextXid := xid, outbound := l } := rfl
  exact (queued _ _).trans (.trans (.of_sends .sendRouted) (.foldl (fun _ _ => .of_sends .sendRouted) _))

theorem sendWrite {o : Sender} {ver a : Nat} {dst : BitVec 16} {b : Bytes} : OnlyTransfers s (s.sendWrite o ver dst a b) :=
  .foldl (fun _ _ => .sendPiece) _

theorem sendStage {x : Ctx} {k : Nat} {l : List Piece} : OnlyTransfers s (s.sendStage x k l) := by
  unfold State.sendStage
  split
  · exact .refl s
  · split
    · exact .refl s
    · dsimp only []
      split
      · exact .foldl (fun _ _ => .sendWrite) _
      · exact .refl s

theorem mem (h : OnlyTransfers s t) : t.mem = s.mem := by rw [h]

theorem step (h : OnlyTransfers s t) : t.step = s.step := by rw [h]

theorem cores (h : OnlyTransfers s t) : t.cores = s.cores := by rw [h]

theorem qrec (h : OnlyTransfers s t) : t.qrec c r = s.qrec c r := by
  unfold State.qrec
  rw [h.cores]

end OnlyTransfers

/-! ### Collective records whose stages have ended -/

/-- A collective record whose stages have ended carries out its work and runs to its end, where the contributions fit. -/
theorem State.runCollective_ran {want : Rec → Bool} {reads : Reads} {effect : Ctx → (me n : Nat) → State → Option State}
    {g : Group} {me : Nat} (h : RecordReady s c r p rc q) (sound : OperandsSound s c p rc q reads) (w : want rc = true)
    (group : p.collGroup rc = some g) (member : g.myIndex = some me) (ended : collStages rc g.members.length ≤ q.stage)
    (does : effect (s.ctx p c rc q) me g.members.length (s.noteReads p (s.spansOf c p rc q reads)) = some v)
    (frame : OnlyRecord (s.noteReads p (s.spansOf c p rc q reads)) v) :
    s.runCollective c r want reads effect = .next (v.finish c r) ∧ Ran s (v.finish c r) c r q := by
  refine ⟨?_, (OnlyRecord.noteReads.trans frame).ran h.inFlight⟩
  have group : (s.ctx p c rc q).plan.collGroup (s.ctx p c rc q).r = some g := group
  have past : ¬ q.stage < collStages (s.ctx p c rc q).r g.members.length := Nat.not_lt.2 ended
  unfold State.runCollective
  rw [State.beginRecord_ready h sound w]
  simp only [group, member, if_neg past, does]

section
variable {x : Ctx} {me n : Nat} {src tgt : Nat × Desc}

/-- What a reduce-scatter makes of parts that fit its result (R403). -/
theorem reduceScatterEffect_fits {parts : List PartIn} (hs : x.rd x.r.desc0 = some src) (ht : x.wr x.r.desc2 = some tgt)
    (count : parts.length = n) (fit : ∀ y ∈ parts, y.values.length = tgt.2.elems) :
    let rows := tgt.2.outers.map (fun k => (k, s.shardRow src.2 tgt.2 ((x.rd x.r.desc1).map Prod.snd) me parts k))
    let rows := if tgt.2.acc = 2 then mergeRows (src.2.fmt = .int32s) tgt.2 rows else rows
    reduceScatterEffect parts x me n s =
      some ((if x.r.flag 1 then s.writePartial tgt.1 tgt.2 ((x.wr x.r.desc3).map Prod.snd) rows
        else s.writeFinal x tgt.1 tgt.2 none rows).stampPlane x tgt.1) := by
  have all : parts.all (fun y => decide (y.values.length = tgt.2.elems)) = true := by simpa using fit
  unfold reduceScatterEffect
  rw [hs, ht]
  dsimp only []
  rw [if_neg (by simp [count, all])]

/-- The rows of the members' shards as an all-gather writes them: this member's own, what it has passed on as it passed
it, and what the command brings (R404). -/
def gatherRows (own : Bytes) (nodes : List Piece) (me n : Nat) (src tgt : Desc) (shards : List Bytes) :
    List (List Nat × List Nat) :=
  shards.zipIdx.flatMap (fun y => blockRows tgt (src.outers.map (fun k => (y.2 * src.size 1 + k.headD 0) :: k.drop 1))
    (shardBits own nodes me n y.2 y.1))

/-- What an all-gather makes of shards that fit (R289, R404). -/
theorem allGatherEffect_fits {shards : List Bytes} (hs : x.rd x.r.desc0 = some src) (ht : x.wr x.r.desc2 = some tgt)
    (count : shards.length = n) (fit : ∀ y ∈ shards, y.length = ceilDiv (src.2.elems * src.2.fmt.bits) 8)
    (found : s.qrec x.core x.r.recno = some q) :
    let t := (s.writeRaw x tgt.1 tgt.2 (gatherRows (s.tensorBytes src.2) q.nodes me n src.2 tgt.2 shards)).stampPlane x tgt.1
    (x.r.param1.toNat.testBit 8 = false → allGatherEffect shards x me n s = some t) ∧
    (∀ w, x.r.param1.toNat.testBit 8 = true → x.plan.weightSets[x.r.param1.toNat % 256]? = some w →
      allGatherEffect shards x me n s = some (t.stamp x w (List.range w.slices))) := by
  have all : shards.all (fun y => decide (y.length = ceilDiv (src.2.elems * src.2.fmt.bits) 8)) = true := by simpa using fit
  unfold allGatherEffect
  rw [hs, ht]
  dsimp only []
  rw [if_neg (by simp [count, all]), found]
  refine ⟨fun plain => ?_, fun w versioned set => ?_⟩
  · rw [if_neg (by simp [plain])]
    rfl
  · rw [if_pos versioned, set]
    rfl

/-- What an all-to-all makes of sections that fit (R405). -/
theorem allToAllEffect_fits {sections : List Bytes} (hs : x.rd x.r.desc0 = some src) (ht : x.wr x.r.desc2 = some tgt)
    (count : sections.length = n)
    (fit : ∀ y ∈ sections, y.length =
      ceilDiv (src.2.size 0 * src.2.size 1 * (x.r.param1.toNat % 65536) * src.2.fmt.bits) 8) :
    allToAllEffect sections x me n s = some ((s.writeRaw x tgt.1 tgt.2 (sections.zipIdx.flatMap (fun y =>
      blockRows tgt.2 (sectionOuters (!x.r.param1.toNat.testBit 16) (src.2.size 1) (x.r.param1.toNat % 65536) y.2)
        (if y.2 = me then s.sectionFor x src.2 me else y.1)))).stampPlane x tgt.1) := by
  have all : sections.all (fun y => decide (y.length =
      ceilDiv (src.2.size 0 * src.2.size 1 * (x.r.param1.toNat % 65536) * src.2.fmt.bits) 8)) = true := by simpa using fit
  unfold allToAllEffect
  rw [hs, ht]
  dsimp only []
  rw [if_neg (by simp [count, all])]

end

/-- The all-to-all of a direction. -/
theorem exec_allToAll (back : Bool) (sections : List Bytes) :
    exec (if back then Instr.allToAllReturn c r sections else .allToAllDispatch c r sections) s =
      s.runCollective c r (wantAllToAll back) (byRows (fun r => [r.desc0].filterMap id)) (allToAllEffect sections) := by
  cases back
  · rfl
  · rfl

/-! ### Stages -/

/-- A stage with no write of its record unacknowledged ends, and the writes of the next go out (R406). -/
theorem exec_collectiveStageEnd {g : Group} (h : RecordReady s c r p rc q) (e : rc.engine = 7) (group : p.collGroup rc = some g)
    (stage : q.stage < collStages rc g.members.length) (acked : s.unacked c r = false) :
    let x := s.ctx p c rc q
    let nodes := s.afterStage x (g.myIndex.getD 0) g.members.length q.stage q.nodes
    exec (.collectiveStageEnd c r) s = .next
      ((s.modQRec c r (fun q => { q with stage := q.stage + 1, nodes := nodes })).sendStage x (q.stage + 1) nodes) := by
  dsimp only []
  change execCollectiveStageEnd c r s = _
  unfold execCollectiveStageEnd
  unfold State.unacked at acked
  rw [h.plan, h.inFlight]
  dsimp only []
  rw [h.record]
  dsimp only []
  rw [group]
  dsimp only []
  rw [if_pos]
  simp [h.awake, h.running, e, h.started, stage, acked]

/-! ### Checkpoint records -/

/-- Bytes that go to an address of this module and to one of another module (R504). -/
def State.writeBoth (s : State) (o : Sender) (ver here : Nat) (dst : BitVec 16) (there : Nat) (b : Bytes) : State :=
  (s.writeRun here b).sendWrite o ver dst there b

theorem State.writeBoth_cores {o : Sender} {ver here there : Nat} {dst : BitVec 16} {b : Bytes} :
    (s.writeBoth o ver here dst there b).cores = s.cores :=
  State.sendWrite_cores.trans (OnlyRecord.cores (t := s.writeRun here b) .writeRun)

theorem State.writeBoth_qrec {o : Sender} {ver here there : Nat} {dst : BitVec 16} {b : Bytes} :
    (s.writeBoth o ver here dst there b).qrec c r = s.qrec c r := State.qrec_of_inflight (by rw [State.writeBoth_cores])

theorem State.writeBoth_mem {o : Sender} {ver here there : Nat} {dst : BitVec 16} {b : Bytes} :
    (s.writeBoth o ver here dst there b).mem = (s.writeRun here b).mem := OnlyTransfers.sendWrite.mem

section
variable {k : CkptTable} {d : Nat × Desc}

/-- The first command of a shard stream record sends its entry's bytes to both slots (R504). -/
theorem shardStreamEffect_data (ckpt : p.ckpt = some k) (hd : (s.ctx p c rc q).rd rc.desc0 = some d) (first : q.stage = 0) :
    shardStreamEffect (s.ctx p c rc q) q v = (v.writeBoth (Sender.of c rc) s.step.current
      (k.slot k.localBase (p.ckptSlot s.step.current) + rc.entryOffset) k.buddy
      (k.slot k.buddyBase (p.ckptSlot s.step.current) + rc.entryOffset) (v.regionBytes d.2)).modQRec c rc.recno
        (fun q => { q with stage := 1 }) := by
  have named : (s.ctx p c rc q).rd (s.ctx p c rc q).r.desc0 = some d := hd
  have table : (s.ctx p c rc q).plan.ckpt = some k := ckpt
  unfold shardStreamEffect
  rw [table, named]
  exact if_pos first

/-- The second command of a shard stream record sends its entry's row to both tables, once the data are acknowledged
(R504). -/
theorem shardStreamEffect_row (ckpt : p.ckpt = some k) (hd : (s.ctx p c rc q).rd rc.desc0 = some d) (second : q.stage ≠ 0)
    (acked : v.unacked c rc.recno = false) : shardStreamEffect (s.ctx p c rc q) q v =
      (v.writeBoth (Sender.of c rc) s.step.current (k.row (k.slot k.localBase (p.ckptSlot s.step.current)) rc.entry) k.buddy
        (k.row (k.slot k.buddyBase (p.ckptSlot s.step.current)) rc.entry)
        (entryRow rc.entryOffset
          (v.bytes (k.slot k.localBase (p.ckptSlot s.step.current) + rc.entryOffset) d.2.regionLen))).finish c rc.recno := by
  have named : (s.ctx p c rc q).rd (s.ctx p c rc q).r.desc0 = some d := hd
  have table : (s.ctx p c rc q).plan.ckpt = some k := ckpt
  have waits : ¬ v.unacked (s.ctx p c rc q).core (s.ctx p c rc q).r.recno = true := by
    rw [Bool.not_eq_true]
    exact acked
  unfold shardStreamEffect
  rw [table, named]
  dsimp only []
  rw [if_neg second, if_neg waits]
  rfl

/-- What a shard verify record makes of its ward slot (R504, R506). -/
theorem shardVerifyEffect_eq (ckpt : p.ckpt = some k) : shardVerifyEffect (s.ctx p c rc q) q s =
    if (List.range k.entries).all (s.entryHolds k (k.slot k.wardBase (p.ckptSlot s.step.current))) then s
    else s.abortWith 0x1601 (s.ctx p c rc q).island [] := by
  have table : (s.ctx p c rc q).plan.ckpt = some k := ckpt
  unfold shardVerifyEffect
  rw [table]
  rfl

end

/-- A shard stream record begins (R504). -/
theorem exec_shardStream (h : RecordReady s c r p rc q) (e : rc.engine = 8) (func : rc.func = 1)
    (sound : OperandsSound s c p rc q (byRows (fun r => [r.desc0].filterMap id))) : exec (.shardStream c r) s =
      .next (shardStreamEffect (s.ctx p c rc q) q
        (s.noteReads p (s.spansOf c p rc q (byRows (fun r => [r.desc0].filterMap id))))) :=
  State.beginRecord_ready h sound (by simp [wantShard, e, func])

/-- A shard verify record runs to its end; it reads no tensor (R504). -/
theorem exec_shardVerify (h : RecordReady s c r p rc q) (e : rc.engine = 8) (func : rc.func = 2) :
    exec (.shardVerify c r) s = .next ((shardVerifyEffect (s.ctx p c rc q) q s).finish c r) := by
  have sound : OperandsSound s c p rc q (byRows (fun _ => [])) :=
    .of_nothing (by rw [e]; decide) (by simp [Rec.sliceRange, e])
  have run := State.runRecord_ready (effect := shardVerifyEffect) (want := wantShard 2) h sound (by simp [wantShard, e, func])
  rw [State.spansOf_nothing, State.noteReads_nil] at run
  exact run

section
variable {here there : Nat} {b : Bytes}

/-- A record stands while its bytes go to both slots. -/
theorem RecordReady.writeBoth (h : RecordReady s c r p rc q) (l : List Span) {o : Sender} {ver : Nat} {dst : BitVec 16} :
    ((s.noteReads p l).writeBoth o ver here dst there b).qrec c r = some q :=
  State.writeBoth_qrec.trans ((State.noteReads_qrec l).trans h.inFlight)

/-- What goes to a slot of this module is what a run of bytes leaves in memory. -/
theorem State.noteReads_writeBoth_mem (l : List Span) {o : Sender} {ver : Nat} {dst : BitVec 16} :
    ((s.noteReads p l).writeBoth o ver here dst there b).mem = (s.writeRun here b).mem :=
  State.writeBoth_mem.trans (SameStore.noteReads l).writeRun.mem

end

/-! ### Shard streams, command by command -/

theorem State.modQRec_mem {f : QRec → QRec} : (s.modQRec c r f).mem = s.mem := rfl

section
variable {k : CkptTable} {d : Nat × Desc} (h : RecordReady s c r p rc q) (number : rc.recno = r)
include h number

/-- The first command of a shard stream record: the entry's bytes go to both slots (R504). -/
theorem exec_shardStream_data (e : rc.engine = 8) (func : rc.func = 1) (ckpt : p.ckpt = some k)
    (hd : (s.ctx p c rc q).rd rc.desc0 = some d)
    (sound : OperandsSound s c p rc q (byRows (fun r => [r.desc0].filterMap id))) (first : q.stage = 0) :
    exec (.shardStream c r) s = .next (((s.noteReads p (s.spansOf c p rc q (byRows (fun r => [r.desc0].filterMap id)))).writeBoth
      (Sender.of c rc) s.step.current (k.slot k.localBase (p.ckptSlot s.step.current) + rc.entryOffset) k.buddy
      (k.slot k.buddyBase (p.ckptSlot s.step.current) + rc.entryOffset) (s.regionBytes d.2)).modQRec c r
        (fun q => { q with stage := 1 })) := by
  have same : SameReads s (s.noteReads p (s.spansOf c p rc q (byRows (fun r => [r.desc0].filterMap id)))) := .noteReads
  rw [exec_shardStream h e func sound, shardStreamEffect_data ckpt hd first, same.regionBytes, number]

/-- The second command of a shard stream record: the entry's row goes to both tables (R504). -/
theorem exec_shardStream_row (e : rc.engine = 8) (func : rc.func = 1) (ckpt : p.ckpt = some k)
    (hd : (s.ctx p c rc q).rd rc.desc0 = some d)
    (sound : OperandsSound s c p rc q (byRows (fun r => [r.desc0].filterMap id))) (second : q.stage ≠ 0)
    (acked : s.unacked c r = false) :
    exec (.shardStream c r) s = .next (((s.noteReads p (s.spansOf c p rc q (byRows (fun r => [r.desc0].filterMap id)))).writeBoth
      (Sender.of c rc) s.step.current (k.row (k.slot k.localBase (p.ckptSlot s.step.current)) rc.entry) k.buddy
      (k.row (k.slot k.buddyBase (p.ckptSlot s.step.current)) rc.entry)
      (entryRow rc.entryOffset
        (s.bytes (k.slot k.localBase (p.ckptSlot s.step.current) + rc.entryOffset) d.2.regionLen))).finish c r) := by
  have same : SameReads s (s.noteReads p (s.spansOf c p rc q (byRows (fun r => [r.desc0].filterMap id)))) := .noteReads
  rw [exec_shardStream h e func sound,
    shardStreamEffect_row ckpt hd second (by rw [number, State.noteReads_unacked]; exact acked), same.bytes, number]

end

end Sys2Proof.Machine

open Sys2Proof Sys2Proof.Machine

/-- Settles O59: a collective record whose stages have ended runs to its end with what its contributions make, a stage that
ends sends only the writes of the next, and a shard's commands write to both slots and read nothing that noting changes. -/
theorem collectivesAndCheckpointsRun : Obligations.CollectivesAndCheckpointsRun := by
  intro s c r p rc q h x own noted
  have same (reads : Reads) : SameReads s (noted reads) := .noteReads
  refine ⟨fun g me src tgt e group member hs ht ended => ⟨?_, ?_, ?_⟩, ?_, ?_, ?_⟩
  · intro parts func count fit reads sound
    have does := reduceScatterEffect_fits (s := noted reads) (me := me) hs ht count fit
    simp only [(same reads).shardRow] at does
    exact State.runCollective_ran h sound (by simp [wantColl, e, func]) group member ended does
      (OnlyRecord.reduceScatterEffect does)
  · intro shards func number count fit sound
    have found : (noted own).qrec c rc.recno = some q := by rw [number, State.noteReads_qrec, h.inFlight]
    obtain ⟨plain, versioned⟩ := allGatherEffect_fits (s := noted own) (me := me) hs ht count fit found
    rw [(same own).tensorBytes] at plain versioned
    refine ⟨fun off => ?_, fun w on set => ?_⟩
    · exact State.runCollective_ran h sound (by simp [wantColl, e, func]) group member ended (plain off)
        (OnlyRecord.allGatherEffect (plain off))
    · exact State.runCollective_ran h sound (by simp [wantColl, e, func]) group member ended (versioned w on set)
        (OnlyRecord.allGatherEffect (versioned w on set))
  · intro back sections func way count epm fit sound
    have does := allToAllEffect_fits (s := noted own) (me := me) hs ht count fit
    rw [(same own).sectionFor] at does
    have ran := State.runCollective_ran (want := wantAllToAll back) h sound (by simp [wantAllToAll, wantColl, e, func, way]) group
      member ended does (OnlyRecord.allToAllEffect does)
    subst way
    intro u i which
    rw [which, exec_allToAll]
    exact ran
  · intro g e group stage me acked nodes u
    have sent : OnlyTransfers (s.modQRec c r (fun q => { q with stage := q.stage + 1, nodes := nodes })) u := .sendStage
    refine ⟨exec_collectiveStageEnd h e group stage acked, ?_, sent.mem, sent.step⟩
    exact sent.qrec.trans
      (State.modQRec_found (f := fun q => { q with stage := q.stage + 1, nodes := nodes }) h.inFlight (fun _ => rfl))
  · intro k d e func number ckpt hd sound slot ward both row
    refine ⟨fun first => ⟨_, exec_shardStream_data h number e func ckpt hd sound first, ?_, rfl, ?_⟩,
      fun second acked => ⟨_, exec_shardStream_row h number e func ckpt hd sound second acked, ?_, rfl, ?_⟩⟩
    · exact State.modQRec_found (f := fun q => { q with stage := 1 }) (h.writeBoth _) (fun _ => rfl)
    · exact State.modQRec_mem.trans (State.noteReads_writeBoth_mem _)
    · exact State.finish_qrec (h.writeBoth _)
    · exact State.modQRec_mem.trans (State.noteReads_writeBoth_mem _)
  · intro k e func ckpt holds
    have run := exec_shardVerify h e func
    rw [shardVerifyEffect_eq ckpt] at run
    refine ⟨fun hold => ?_, fun broken => ?_⟩
    · rwa [if_pos hold] at run
    · rwa [if_neg (by rw [Bool.not_eq_true]; exact broken)] at run
end

section
/-! SUPPORT. What `TIME` and `DYING_GASP` flits do (O24). -/

namespace Sys2Proof.Machine
variable {s t u : State} {p : Port} {f : Flit}

/-! ### `TIME` -/

/-- Memory and the step stand, and of a module that has launched and is not FREE the counter as well (R432). -/
structure CounterKept (s t : State) : Prop where
  mem : t.mem = s.mem
  step : t.step = s.step
  clock : s.step.launched = true → s.gc.st ≠ .free → t.gc.st ≠ .free ∧ t.gc.value = s.gc.value ∧ t.gc.frac = s.gc.frac

theorem CounterKept.trans (h : CounterKept s t) (g : CounterKept t u) : CounterKept s u where
  mem := g.mem.trans h.mem
  step := g.step.trans h.step
  clock launched run := by
    obtain ⟨st, value, frac⟩ := h.clock launched run
    obtain ⟨st', value', frac'⟩ := g.clock (h.step ▸ launched) st
    exact ⟨st', value'.trans value, frac'.trans frac⟩

theorem CounterKept.of_onlyPorts (h : OnlyPorts s t) : CounterKept s t := by
  rw [h]
  exact ⟨rfl, rfl, fun _ run => ⟨run, rfl, rfl⟩⟩

/-- Choosing a root, or taking a sample, leaves the ports as well. -/
structure TimeKept (s t : State) : Prop extends CounterKept s t where
  ports : t.ports = s.ports

theorem TimeKept.refl (s : State) : TimeKept s s := ⟨⟨rfl, rfl, fun _ run => ⟨run, rfl, rfl⟩⟩, rfl⟩

theorem TimeKept.mgmtEvent {c : BitVec 16} {d : Bytes} (h : TimeKept s t) : TimeKept s (t.mgmtEvent c d) where
  ports := by simpa using h.ports
  mem := by simpa using h.mem
  step := by simpa using h.step
  clock := by simpa using h.clock

/-- A module that has launched becomes FREE by no choice of a root. -/
theorem TimeKept.chooseRoot : TimeKept s s.chooseRoot := by
  unfold State.chooseRoot
  dsimp only []
  split
  · exact .refl s
  next r par _ =>
    split
    · exact ⟨⟨rfl, rfl, fun _ run => ⟨run, rfl, rfl⟩⟩, rfl⟩
    · have chosen (gc : GcState) (value : gc.value = s.gc.value) (frac : gc.frac = s.gc.frac)
          (st : s.step.launched = true → s.gc.st ≠ .free → gc.st ≠ .free) : TimeKept s { s with gc := gc } :=
        ⟨⟨rfl, rfl, fun launched run => ⟨st launched run, value, frac⟩⟩, rfl⟩
      have st (g : GcStatus) (launched : s.step.launched = true) (run : g ≠ .free) :
          (if s.isRoot && !s.step.launched then .free else g) ≠ .free := by
        simpa [launched] using run
      split
      · exact chosen _ rfl rfl fun launched run => by
          cases par with
          | none => exact GcStatus.noConfusion
          | some _ => exact st _ launched run
      · apply TimeKept.mgmtEvent
        exact chosen _ rfl rfl fun launched run => by
          cases par with
          | none => exact GcStatus.noConfusion
          | some _ => exact st _ launched run

/-- A sample that a launched module takes steers its counter by rate alone (R432). -/
theorem TimeKept.takeSample {off : Int} : TimeKept s (s.takeSample off) := by
  unfold State.takeSample
  dsimp only []
  split
  next jumps => exact ⟨⟨rfl, rfl, fun launched => by simp [launched] at jumps⟩, rfl⟩
  · split
    · split
      · exact ⟨⟨rfl, rfl, fun _ _ => ⟨by simp, rfl, rfl⟩⟩, rfl⟩
      · exact TimeKept.mgmtEvent ⟨⟨rfl, rfl, fun _ _ => ⟨by simp, rfl, rfl⟩⟩, rfl⟩
    · exact ⟨⟨rfl, rfl, fun _ run => ⟨run, rfl, rfl⟩⟩, rfl⟩

/-- A port that has taken a `TIME` flit at a counter in 1/16 tick: its time for the echo, and the root the peer names
(R433, R434). -/
def PortState.timed (ps : PortState) (f : Flit) (now : Nat) : PortState :=
  { ps with timeEcho := some (fieldAt f.payload 0 8, now)
            peerRoot := if fieldAt f.payload 27 1 = 0xFF then none
              else some (BitVec.ofNat 16 (fieldAt f.payload 24 2), fieldAt f.payload 26 1 = 1, fieldAt f.payload 27 1) }

/-- The peer's offset by the four times of an echo (R434). -/
def timeOffset (f : Flit) (now : Nat) : Int :=
  (((fieldAt f.payload 16 8 : Int) - fieldAt f.payload 8 8) + ((fieldAt f.payload 0 8 : Int) - now)) / 2

/-- The delay to the peer by the four times of an echo (R434). -/
def timeDelay (f : Flit) (now : Nat) : Int :=
  (((now : Int) - fieldAt f.payload 8 8) - ((fieldAt f.payload 0 8 : Int) - fieldAt f.payload 16 8)) / 2

/-- A module that has kept a `TIME` flit's times and chosen its root and parent by it. -/
def State.timeHeard (s : State) (p : Port) (f : Flit) : State := (s.modPort p (fun ps => ps.timed f s.gc.fine)).chooseRoot

/-- A module that keeps the peer's offset and delay (R434). -/
def State.timeMeasured (s : State) (p : Port) (off delay : Int) : State :=
  (s.modPort p (fun ps => { ps with offset := off, delay := delay })).setObj 0x2A03 (p.val + 3) (bitsOfInt 64 off)

/-- What a `TIME` flit with an echo does: the measure, and from the parent a sample (R434). -/
def State.timeEchoed (s : State) (p : Port) (off delay : Int) : State :=
  if (s.timeMeasured p off delay).gc.parent = some p then (s.timeMeasured p off delay).takeSample off
  else s.timeMeasured p off delay

theorem exec_time (h : s.hears p = true) : exec (.time p f) s =
    .next (if (fieldAt f.payload 8 8 : Int) = 0 then (s.hear p f).timeHeard p f
      else ((s.hear p f).timeHeard p f).timeEchoed p (timeOffset f (s.hear p f).gc.fine)
        (timeDelay f (s.hear p f).gc.fine)) := by
  show execTime p f s = _
  unfold execTime
  rw [State.linkFlit_hears h]
  rfl

theorem State.timeHeard_kept : TimeKept (s.modPort p (fun ps => ps.timed f s.gc.fine)) (s.timeHeard p f) := .chooseRoot

theorem State.timeEchoed_kept {off delay : Int} : TimeKept (s.timeMeasured p off delay) (s.timeEchoed p off delay) := by
  unfold State.timeEchoed
  split
  · exact .takeSample
  · exact .refl _

theorem CounterKept.modPort {g : PortState → PortState} : CounterKept s (s.modPort p g) := .of_onlyPorts rfl

/-- A `TIME` flit that a module hears leaves memory, the step and a running counter (R432). -/
theorem CounterKept.timeHeard : CounterKept s ((s.hear p f).timeHeard p f) :=
  ((CounterKept.of_onlyPorts .hear).trans .modPort).trans State.timeHeard_kept.toCounterKept

theorem CounterKept.timeMeasured {off delay : Int} : CounterKept s (s.timeMeasured p off delay) :=
  ⟨rfl, rfl, fun _ run => ⟨run, rfl, rfl⟩⟩

theorem CounterKept.timeEchoed {off delay : Int} : CounterKept s (s.timeEchoed p off delay) :=
  CounterKept.timeMeasured.trans State.timeEchoed_kept.toCounterKept

theorem State.timeHeard_port : (s.timeHeard p f).ports[p] = s.ports[p].timed f s.gc.fine := by
  rw [State.timeHeard_kept.ports]
  exact State.modPort_ports_self

theorem State.timeEchoed_port {off delay : Int} :
    (s.timeEchoed p off delay).ports[p] = { s.ports[p] with offset := off, delay := delay } := by
  rw [State.timeEchoed_kept.ports]
  exact State.modPort_ports_self

/-! ### `DYING_GASP` -/

theorem SamePeers.of_ports (h : t.ports = s.ports) : SamePeers s t := fun q => by rw [h]; exact ⟨rfl, rfl⟩

theorem SamePeers.foldl {α : Type} {g : State → α → State} (h : ∀ b x, SamePeers b (g b x)) (l : List α) :
    SamePeers s (l.foldl g s) := by
  induction l generalizing s with
  | nil => exact .of_ports rfl
  | cons x l ih => exact (h s x).trans (ih)

theorem SamePeers.freeBuffer {o : Option Port} {v : Fin 4} : SamePeers s (s.freeBuffer o v) := by
  cases o with
  | none => exact .of_ports rfl
  | some p => exact .modPort (fun _ => ⟨rfl, rfl⟩)

theorem PortState.takeCredits_peer {ps : PortState} {c : Option (Fin 4 × Nat)} :
    (ps.takeCredits c).peerNode = ps.peerNode ∧ (ps.takeCredits c).peerPort = ps.peerPort := by
  cases c <;> exact ⟨rfl, rfl⟩

theorem SamePeers.emit {ft : BitVec 8} : SamePeers s (s.emit p ft f) := by
  have sent (u : State) (o : List Out) (h : SamePeers s u) : SamePeers s { u with out := o } := h
  exact sent _ _ (.modPort fun _ => PortState.takeCredits_peer)

theorem SamePeers.sendSeq {o : Option Port} {ft : BitVec 8} : SamePeers s (s.sendSeq o p ft f) := by
  unfold State.sendSeq
  dsimp only []
  split
  · exact .freeBuffer
  · split
    · exact SamePeers.emit.trans .freeBuffer
    · exact .modPort fun _ => ⟨rfl, rfl⟩

theorem PortState.takeAck_peer {ps : PortState} :
    (ps.takeAck f).peerNode = ps.peerNode ∧ (ps.takeAck f).peerPort = ps.peerPort := by
  unfold PortState.takeAck
  dsimp only []
  split <;> split <;> exact ⟨rfl, rfl⟩

/-- Hearing a flit leaves the peers of ports. -/
theorem SamePeers.hear : SamePeers s (s.hear p f) := by
  have heard : SamePeers s (s.modPort p (fun ps => (ps.life s.gc.value).takeAck f)) := .modPort fun _ => PortState.takeAck_peer
  have emptied (b : State) : SamePeers b (b.modPort p (fun ps => { ps with waitq := [] })) := .modPort fun _ => ⟨rfl, rfl⟩
  exact heard.trans ((emptied _).trans (.foldl (fun _ _ => .sendSeq) _))

/-- A flood leaves the peers of ports. -/
theorem SamePeers.flood {ft : BitVec 8} {b : Bytes} : SamePeers s (s.flood ft b) := by
  unfold State.flood
  dsimp only []
  split
  · exact .of_ports rfl
  · have numbered : SamePeers s { s with floodSeq := (s.floodSeq + 1) % 2 ^ 32 } := .of_ports rfl
    refine numbered.trans (.foldl (fun b q => ?_) _)
    split
    · exact .of_ports rfl
    · exact .sendSeq

theorem State.flood_nodeId {ft : BitVec 8} {b : Bytes} : (s.flood ft b).nodeId = s.nodeId := by
  unfold State.nodeId State.obj
  rw [State.flood_od]

/-- A link lies with one of its ends first. -/
theorem DownLink.of_has (a b : LinkEnd) (cause : Nat) :
    (DownLink.of a b cause).a = a ∨ (DownLink.of a b cause).b = a := by
  unfold DownLink.of
  split
  · exact .inr rfl
  · exact .inl rfl

/-- A module's own report of a peer's dying gasp: the link is down, and the peer is lost at once (R411, R416). -/
theorem State.ownLoss_gasp (new : s.ports[p].peerNode ∉ s.lostNodes) :
    (s.ownLoss p 3).lostNodes = s.lostNodes ++ [s.ports[p].peerNode] ∧
      (∃ l ∈ (s.ownLoss p 3).downLinks, 3 ≤ l.cause ∧ (l.a = (s.nodeId, p.val) ∨ l.b = (s.nodeId, p.val))) ∧
      (s.stepLive = true → (s.ownLoss p 3).step.status = .aborted) ∧ (s.ownLoss p 3).agree.decided = none ∧
      (s.ownLoss p 3).stageLock = false := by
  have noted : (s.lossAborted s.nodeId (s.nodeId, p.val) (s.ports[p].peerNode, s.ports[p].peerPort) 3).lostNodes =
      s.lostNodes := by
    rw [OnlyAborts.lossAborted]
    rfl
  have loses : s.ownLoss p 3 = (s.lossAborted s.nodeId (s.nodeId, p.val) (s.ports[p].peerNode, s.ports[p].peerPort)
      3).loseNode s.ports[p].peerNode := by
    rw [State.ownLoss, State.noteLoss_eq, if_pos rfl, if_pos rfl]
  obtain ⟨lost, _, decided, lock, _⟩ := State.loseNode_spec (noted ▸ new)
  refine ⟨?_, ?_, fun live => ?_, ?_, ?_⟩
  · rw [loses, lost, noted]
  · obtain ⟨l, mem, atA, atB, cause⟩ := s.linksWith_stands
      (DownLink.of (s.nodeId, p.val) (s.ports[p].peerNode, s.ports[p].peerPort) 3)
    rw [State.ownLoss, State.noteLoss_links.1]
    refine ⟨l, mem, by rwa [DownLink.of_cause] at cause, ?_⟩
    rw [atA, atB]
    exact DownLink.of_has _ _ _
  · have gasped := (State.noteLoss_gasp (s := s) (origin := s.nodeId) (a := (s.nodeId, p.val))
      (b := (s.ports[p].peerNode, s.ports[p].peerPort)) (cause := 3) rfl).2
    rw [if_pos rfl] at gasped
    exact gasped new live
  · rw [loses, decided]
  · rw [loses, lock]

theorem exec_dyingGasp (h : s.hears p = true) : exec (.dyingGasp p f) s = .next ((s.hear p f).floodLoss p 3) := by
  show execDyingGasp p f s = _
  rw [execDyingGasp, State.linkFlit_hears h]

/-- What reporting a loss sends leaves the module's name, its peers, its losses and its step. -/
theorem State.sendLoss_keeps {cause : Nat} : (s.sendLoss p cause).nodeId = s.nodeId ∧ SamePeers s (s.sendLoss p cause) ∧
    (s.sendLoss p cause).lostNodes = s.lostNodes ∧ (s.sendLoss p cause).stepLive = s.stepLive := by
  refine ⟨State.flood_nodeId, .flood, ?_⟩
  rw [State.sendLoss, State.flood_frame]
  exact ⟨rfl, rfl⟩

end Sys2Proof.Machine

open Sys2Proof Sys2Proof.Machine

/-- Settles O24: a `TIME` flit by what choosing a root and taking a sample leave (`TimeKept`), a dying gasp by the peer
that stands while the flit is heard and the loss flooded (`SamePeers`). -/
theorem timeAndGaspFlitsAct : Obligations.TimeAndGaspFlitsAct := by
  refine ⟨fun s p f hears => ?_, fun s p f hears new => ?_⟩
  · have heard : OnlyPorts s (s.hear p f) := .hear
    have gc : (s.hear p f).gc = s.gc := by rw [heard]
    have port := State.timeHeard_port (s := s.hear p f) (p := p) (f := f)
    have first := CounterKept.timeHeard (s := s) (p := p) (f := f)
    rw [gc] at port
    refine ⟨_, exec_time hears, ?_⟩
    rw [gc]
    split
    next silent =>
      exact ⟨by rw [port]; rfl, fun echo => absurd (by exact_mod_cast silent) echo,
        fun launched run => (first.clock launched run).2, first.mem, first.step⟩
    next echo =>
      have both := first.trans (.timeEchoed (p := p) (off := timeOffset f s.gc.fine) (delay := timeDelay f s.gc.fine))
      refine ⟨?_, fun _ => ?_, fun launched run => (both.clock launched run).2, both.mem, both.step⟩
      · rw [State.timeEchoed_port, port]
        rfl
      · rw [State.timeEchoed_port]
        exact ⟨rfl, rfl⟩
  · obtain ⟨node, peers, lostNodes, live⟩ := State.sendLoss_keeps (s := s.hear p f) (p := p) (cause := 3)
    have peer : ((s.hear p f).sendLoss p 3).ports[p].peerNode = s.ports[p].peerNode :=
      ((SamePeers.hear (s := s) (f := f)).trans peers p).1
    have heard : OnlyPorts s (s.hear p f) := .hear
    have gasped := State.ownLoss_gasp (s := (s.hear p f).sendLoss p 3) (p := p)
    have same : (s.hear p f).lostNodes = s.lostNodes ∧ (s.hear p f).stepLive = s.stepLive := by
      rw [heard]
      exact ⟨rfl, rfl⟩
    rw [node, heard.nodeId, lostNodes, live, same.1, same.2, peer] at gasped
    exact ⟨_, exec_dyingGasp hears, gasped new⟩
end

section
/-! SUPPORT. The global counter: its two losses of the parent, the pulses of `SYNC_IN`, the one jump of a domain's root,
and a tick (O19). -/

namespace Sys2Proof.Machine
variable {s : State}

theorem Logged.of_same {s u t : State} {c : BitVec 16} {i : Nat} {d : Bytes} (log : u.log = s.log)
    (gc : u.gc.value = s.gc.value) (l : Logged u t c i d) : Logged s t c i d := by
  unfold Logged at l ⊢
  rwa [log, gc] at l

theorem exec_gcHoldover_due (awake : s.awake = true) (locked : s.gc.st = .locked) (follows : s.isRoot = false)
    (due : s.gc.lastSample + 1000000 ≤ s.gc.value) :
    exec .gcHoldover s = .next (({ s with gc := { s.gc with st := .holdover, holdoverSince := s.gc.value, samples := [],
                                                            steer := 0 } }).mgmtEvent 0x6301 []) :=
  if_pos (by simp [awake, locked, follows, due])

theorem exec_gcUnlocked_due (awake : s.awake = true) (held : s.gc.st = .holdover)
    (due : s.gc.holdoverSince + 1000000000 < s.gc.value) :
    exec .gcUnlocked s = .next (({ s with gc := { s.gc with st := .unlocked } }).mgmtEvent 0x6302 []) :=
  if_pos (by simp [awake, held, due])

/-- What adjusting a value to the nearest multiple of an even unit takes: less than half a unit either way (R437). -/
theorem nearestMultiple_spec (v : Int) {unit : Nat} (pos : 0 < unit) (even : unit % 2 = 0) :
    nearestMultiple v unit % unit = 0 ∧ -(unit / 2 : Nat) ≤ nearestMultiple v unit - v ∧
      nearestMultiple v unit - v ≤ (unit / 2 : Nat) := by
  have split := Int.mul_ediv_add_emod (v + (unit / 2 : Nat)) unit
  have low := Int.emod_nonneg (v + (unit / 2 : Nat)) (b := unit) (by omega)
  have high := Int.emod_lt_of_pos (v + (unit / 2 : Nat)) (b := unit) (by omega)
  unfold nearestMultiple
  rw [Int.mul_comm]
  refine ⟨Int.mul_emod_right _ _, ?_, ?_⟩ <;> omega

/-- The counter as a pulse of `SYNC_IN` latches it, with the time of the pulse (R437). -/
def State.syncLatched (s : State) : State := ({ s with syncSeenAt := some s.uptime }).setObj 0x2A03 2 s.gc.value

/-- The counter steered to the nearest multiple of 1,000,000 ticks (R437). -/
def State.syncSteered (s : State) : State :=
  { s with gc := { s.gc with steer := nearestMultiple s.gc.fine 16000000 - s.gc.fine } }

@[simp] theorem State.syncLatched_gc : s.syncLatched.gc = s.gc := rfl

theorem State.syncLatched_obj (w : Assoc.wf objDefault s.od = true) : s.syncLatched.obj 0x2A03 2 = s.gc.value :=
  State.obj_setObj_self w _ _ _

theorem State.syncLatched_mode (w : Assoc.wf objDefault s.od = true) : s.syncLatched.obj 0x2A03 1 = s.obj 0x2A03 1 :=
  State.obj_setObj w _ _ _ _ _

theorem State.syncLatched_isRoot (w : Assoc.wf objDefault s.od = true) : s.syncLatched.isRoot = s.isRoot := by
  have node : s.syncLatched.obj 0x1104 0 = s.obj 0x1104 0 := State.obj_setObj w _ _ _ _ _
  rw [State.isRoot, State.nodeId, node]
  rfl

/-- A pulse of `SYNC_IN` that is not too early latches the counter, and steers the root in mode 2 (R437). -/
theorem exec_syncInPulse_late (up : s.phase = .up) (ready : s.bringup = .ready) (mode : s.obj 0x2A03 1 ≠ 0)
    (spaced : ∀ u, s.syncSeenAt = some u → u + 1000000 ≤ s.uptime) (w : Assoc.wf objDefault s.od = true) :
    exec .syncInPulse s =
      .next (if s.obj 0x2A03 1 = 2 && s.isRoot then s.syncLatched.syncSteered else s.syncLatched) := by
  show execSyncInPulse s = _
  unfold execSyncInPulse
  rw [if_neg (by simp [up, ready, mode]), apply_ite Host.Outcome.next, ← State.syncLatched_mode w,
    ← State.syncLatched_isRoot w]
  cases seen : s.syncSeenAt with
  | none =>
    rw [if_neg]
    · rfl
    · exact Bool.false_ne_true
  | some t =>
    rw [if_neg]
    · rfl
    · simp [spaced t seen]

/-- A pulse within 1 ms of the last is only counted (R526). -/
theorem exec_syncInPulse_early (up : s.phase = .up) (ready : s.bringup = .ready) (mode : s.obj 0x2A03 1 ≠ 0)
    {u : Nat} (seen : s.syncSeenAt = some u) (early : s.uptime < u + 1000000) :
    exec .syncInPulse s = .next (s.ignoredPulse 2) := by
  show execSyncInPulse s = _
  unfold execSyncInPulse
  rw [if_neg (by simp [up, ready, mode]), if_pos (by simp [seen, early])]

theorem State.ignoredPulse_gc (i : Fin 3) : (s.ignoredPulse i).gc = s.gc := by
  have sends : OnlySends (s.addObj 0x2012 i.val 1) (s.ignoredPulse i) := OnlySends.eventLimited
  rw [sends]
  rfl

/-- A discrete input that is ignored counts, up to the largest value of its type (R526). -/
theorem State.ignoredPulse_counts (w : Assoc.wf objDefault s.od = true) (i : Fin 3) :
    (s.ignoredPulse i).obj 0x2012 i = min 0xFFFFFFFF (s.obj 0x2012 i + 1) := by
  have keeps : KeepsEntry 0x2012 (s.addObj 0x2012 i.val 1) (s.ignoredPulse i) := .eventLimited (by decide)
  have type : ((objFind 0x2012 i.val).map (fun o => o.ty.maxValue)).getD 0 = 0xFFFFFFFF := by
    fin_cases i <;> rfl
  exact ((keeps (State.setObj_wf w _ _ _)).2 i.val (by omega)).trans (State.obj_counted w type)

theorem exec_gcDomainAlign_due {p : Port} {pl : Plan} (awake : s.awake = true) (plan : s.planNext = some pl)
    (must : s.mustAlign pl = true) (root : s.isRoot = true) (up : s.ports[p].st.isUp = true)
    (bridge : s.isBridge p = true) (low : nodeDomain s.ports[p].peerNode = pl.lowestDomain) :
    exec (.gcDomainAlign p) s =
      .next { s with gc := { s.gc.jump (nearestMultiple s.ports[p].offset 16000000) with aligned := true } } := by
  show execGcDomainAlign p s = _
  unfold execGcDomainAlign
  rw [plan]
  exact if_neg (by rw [awake, must, root, up, bridge, low]; simp)

/-- A jump sets the counter, in 1/16 tick, by its offset (R432). -/
theorem GcState.jump_fine (g : GcState) (d : Int) : ((g.jump d).fine : Int) = (g.fine + d) % 2 ^ 68 := by
  have low := Int.emod_nonneg ((g.fine : Int) + d) (b := 2 ^ 68) (by decide)
  unfold GcState.jump
  rw [GcState.fine]
  dsimp only []
  omega

/-- A tick changes nothing but the time, the counter and the messages that repeat. -/
theorem State.tick_frame (s : State) : s.tick = { s with uptime := s.tick.uptime, gc := s.tick.gc, out := s.tick.out } := by
  unfold State.tick State.repeatSwaps
  split <;> rfl

theorem State.tick_still (h : s.phase ≠ .up) : s.tick = s := if_neg (by simp [State.clocked, h])

theorem State.tick_up (h : s.phase = .up) :
    s.tick = ({ s with uptime := s.uptime + 1, gc := s.gc.tick s.uptime }).repeatSwaps := if_pos (by simp [State.clocked, h])

/-- Without a SWAP message under way nothing repeats (R392). -/
theorem State.repeatSwaps_none (h : ∀ p : Port, s.ports[p].rx.swap = none) : s.repeatSwaps = s := by
  have quiet : ∀ {f : Port → Option Out}, (∀ p, f p = none) → { s with out := s.out ++ allPorts.filterMap f } = s :=
    fun h => by rw [List.filterMap_eq_nil_iff.2 fun p _ => h p, List.append_nil]
  exact quiet fun p => by dsimp only []; rw [h p]

/-- A counter that is not steered rises by one tick. -/
theorem GcState.tick_free {g : GcState} (n : Nat) (free : g.steer = 0) (frac : g.frac < 16) (_ : g.value < 2 ^ 64) :
    (g.tick n).value = (g.value + 1) % 2 ^ 64 ∧ (g.tick n).frac = g.frac ∧ (g.tick n).steer = 0 := by
  unfold GcState.tick
  simp only [free, lt_irrefl, if_false, ite_self]
  refine ⟨?_, ?_, by simp⟩ <;> omega

end Sys2Proof.Machine

open Sys2Proof Sys2Proof.Machine

/-- Settles O19: one equation of `exec` for each command, under the conditions at which it acts, and the reading of its
result. -/
theorem theCounterKeepsTime : Obligations.TheCounterKeepsTime := by
  refine ⟨fun s inv => ⟨fun awake locked follows due => ?_, fun awake held due => ?_, fun up ready mode spaced => ?_,
    fun up ready mode ⟨u, seen, early⟩ => ?_, fun p pl awake plan _ must root up bridge low => ?_⟩, fun s idle => ?_⟩
  · exact ⟨_, exec_gcHoldover_due awake locked follows due, by simp, by simp, by simp, by simp,
      Logged.of_same rfl rfl (State.event_logged _ _ (by simp))⟩
  · exact ⟨_, exec_gcUnlocked_due awake held due, by simp, Logged.of_same rfl rfl (State.event_logged _ _ (by simp))⟩
  · refine ⟨_, exec_syncInPulse_late up ready mode spaced inv.objects, ?_⟩
    obtain ⟨zero, low, high⟩ := nearestMultiple_spec s.gc.fine (unit := 16000000) (by decide) (by decide)
    split
    next steers =>
      refine ⟨State.syncLatched_obj inv.objects, rfl, rfl, fun _ _ => ⟨?_, low, high⟩, fun one => ?_⟩
      · rwa [State.syncSteered, State.syncLatched_gc, add_sub_cancel]
      · simp [one] at steers
    next free => exact ⟨State.syncLatched_obj inv.objects, rfl, rfl, fun two root => absurd (by simp [two, root]) free,
        fun _ => rfl⟩
  · exact ⟨_, exec_syncInPulse_early up ready mode seen early, State.ignoredPulse_gc 2,
      State.ignoredPulse_counts inv.objects 2⟩
  · exact ⟨_, exec_gcDomainAlign_due awake plan must root up bridge low, rfl, rfl, GcState.jump_fine _ _⟩
  · refine ⟨s.tick, by rw [step, idle], s.tick_frame, fun quiet => ?_, State.tick_still, fun up => ?_⟩
    · by_cases up : s.phase = .up
      · rw [State.tick_up up, State.repeatSwaps_none (s := { s with uptime := s.uptime + 1, gc := s.gc.tick s.uptime }) quiet]
      · rw [State.tick_still up]
    · rw [State.tick_up up]
      exact ⟨rfl, GcState.tick_free s.uptime⟩
end

section
/-! SUPPORT. What a launch leaves in the objects and the replay log (O31). -/

namespace Sys2Proof.Machine
variable {s t u : State} {l : LaunchPlan}

/-- The counts of a launch in the objects: its count and shift, and a relaunch (R448, R483). -/
def State.launchCounted (s : State) (l : LaunchPlan) : State :=
  let s := (s.setObj 0x2A04 2 l.gc).setObj 0x2A04 3 l.shift
  if l.relaunch then s.addObj 0x3001 2 1 else s

theorem State.noteLaunch_eq (again : Bool) : s.noteLaunch l again =
    if (s.launchCounted l).replaying then
      { s.launchCounted l with replayLog := keepLog ((s.launchCounted l).replayLog ++
          [⟨l.step, l.gc, (s.launchCounted l).epoch, again, l.shift,
            (s.launchCounted l).obj 0x2A01 0 + (s.launchCounted l).obj 0x2A01 1 * 2 ^ 64⟩]) }
    else s.launchCounted l := rfl

/-- Counting a launch leaves every entry but those of the launch and the totals of steps. -/
theorem KeepsEntry.launchCounted {i : Nat} (h : i ≠ 0x2A04) (g : i ≠ 0x3001) : KeepsEntry i s (s.launchCounted l) := by
  have set : KeepsEntry i s ((s.setObj 0x2A04 2 l.gc).setObj 0x2A04 3 l.shift) :=
    (KeepsEntry.setObj h (by decide)).trans (.setObj h (by decide))
  unfold State.launchCounted
  dsimp only []
  split
  · exact set.trans (.addObj g (by decide))
  · exact set

theorem State.launchCounted_replayLog : (s.launchCounted l).replayLog = s.replayLog := by
  unfold State.launchCounted
  dsimp only []
  split <;> rfl

theorem State.noteLaunch_od (again : Bool) : (s.noteLaunch l again).od = (s.launchCounted l).od := by
  rw [State.noteLaunch_eq]
  split <;> rfl

theorem State.noteLaunch_obj (again : Bool) (i j : Nat) : (s.noteLaunch l again).obj i j = (s.launchCounted l).obj i j := by
  rw [State.obj, State.noteLaunch_od, State.obj]

/-- The launch's count and shift stand in their object (R448). -/
theorem State.launchCounted_shown (w : Assoc.wf objDefault s.od = true) :
    (s.launchCounted l).obj 0x2A04 2 = l.gc ∧ (s.launchCounted l).obj 0x2A04 3 = l.shift := by
  have first := State.setObj_wf w 0x2A04 2 l.gc
  have set : ((s.setObj 0x2A04 2 l.gc).setObj 0x2A04 3 l.shift).obj 0x2A04 2 = l.gc ∧
      ((s.setObj 0x2A04 2 l.gc).setObj 0x2A04 3 l.shift).obj 0x2A04 3 = l.shift :=
    ⟨(State.obj_setObj first _ _ _ _ _).trans (State.obj_setObj_self w _ _ _), State.obj_setObj_self first _ _ _⟩
  unfold State.launchCounted
  dsimp only []
  split
  · have keeps : KeepsEntry 0x2A04 ((s.setObj 0x2A04 2 l.gc).setObj 0x2A04 3 l.shift) (State.addObj _ 0x3001 2 1) :=
      .addObj (by decide) (by decide)
    obtain ⟨_, same⟩ := keeps (State.setObj_wf first _ _ _)
    exact ⟨(same 2 (by decide)).trans set.1, (same 3 (by decide)).trans set.2⟩
  · exact set

/-- A relaunch is counted (R483). -/
theorem State.launchCounted_relaunch (w : Assoc.wf objDefault s.od = true) (again : l.relaunch = true) :
    (s.launchCounted l).obj 0x3001 2 = min (2 ^ 64 - 1) (s.obj 0x3001 2 + 1) := by
  have keeps : KeepsEntry 0x3001 s ((s.setObj 0x2A04 2 l.gc).setObj 0x2A04 3 l.shift) :=
    (KeepsEntry.setObj (by decide) (by decide)).trans (.setObj (by decide) (by decide))
  obtain ⟨wf, same⟩ := keeps w
  have counted : s.launchCounted l = ((s.setObj 0x2A04 2 l.gc).setObj 0x2A04 3 l.shift).addObj 0x3001 2 1 := if_pos again
  rw [counted, State.obj_counted wf (m := 2 ^ 64 - 1) rfl, same 2 (by decide)]

theorem State.launchCounted_replaying (w : Assoc.wf objDefault s.od = true) :
    (s.launchCounted l).replaying = s.replaying := by
  have keeps : KeepsEntry 0x2A00 s (s.launchCounted l) := .launchCounted (by decide) (by decide)
  rw [State.replaying, (keeps w).2 0 (by decide)]
  rfl

/-- In replay mode the launch is added to the replay log, which keeps the newest (R430). -/
theorem State.noteLaunch_replayLog (w : Assoc.wf objDefault s.od = true) (again : Bool) (on : s.replaying = true) :
    (s.noteLaunch l again).replayLog =
      (s.replayLog ++ [ReplayRec.mk l.step l.gc s.epoch again l.shift (s.obj 0x2A01 0 + s.obj 0x2A01 1 * 2 ^ 64)]).drop
        (s.replayLog.length + 1 - 65536) := by
  have seed : KeepsEntry 0x2A01 s (s.launchCounted l) := .launchCounted (by decide) (by decide)
  have epoch : KeepsEntry 0x1004 s (s.launchCounted l) := .launchCounted (by decide) (by decide)
  rw [State.noteLaunch_eq, if_pos ((State.launchCounted_replaying w).trans on)]
  dsimp only []
  rw [State.epoch, (epoch w).2 3 (by decide), (seed w).2 0 (by decide), (seed w).2 1 (by decide),
    State.launchCounted_replayLog, keepLog, List.length_append]
  rfl

theorem State.noteLaunch_off (w : Assoc.wf objDefault s.od = true) (again : Bool) (off : s.replaying = false) :
    (s.noteLaunch l again).replayLog = s.replayLog := by
  rw [State.noteLaunch_eq, if_neg (by rw [State.launchCounted_replaying w, off]; exact Bool.false_ne_true)]
  exact State.launchCounted_replayLog

/-! ### Core maps -/

variable {x : Sparing}

/-- A spare that serves a core in place of the failed one, before its event (R17, R499). -/
def State.spareServes (s : State) (x : Sparing) : State :=
  ({ s with coreMap := s.coreMap.set x.logical x.spare
            spares := s.spares.set (coreDie x.logical) none
            sparing := s.sparing.filter (fun x => !x.copied) }.setIsland x.physical.val .failed).setIsland x.spare.val .run

/-- One copied sparing commits alone: no write is held, and no transfer waits for it (R446, R499). -/
theorem State.commitMap_one (one : s.sparing = [x]) (copied : x.copied = true) (quiet : s.heldWrites = [])
    (landed : s.inbound = []) :
    s.commitMap = { (s.spareServes x).mgmtEvent 0x2501
      (toLe 1 x.logical.val ++ toLe 1 x.physical.val ++ toLe 1 x.spare.val ++ toLe 1 x.cause) with heldWrites := [] } := by
  have due : s.sparing.filter Sparing.copied = [x] := by simp [one, copied]
  have spares : s.commitSpares = { (s.spareServes x).mgmtEvent 0x2501
      (toLe 1 x.logical.val ++ toLe 1 x.physical.val ++ toLe 1 x.spare.val ++ toLe 1 x.cause) with heldWrites := [] } := by
    have held : ((s.spareServes x).mgmtEvent 0x2501
        (toLe 1 x.logical.val ++ toLe 1 x.physical.val ++ toLe 1 x.spare.val ++ toLe 1 x.cause)).heldWrites = [] := by
      rw [State.mgmtEvent_heldWrites]
      exact quiet
    unfold State.commitSpares
    rw [due]
    show ((s.spareServes x).mgmtEvent 0x2501 _).heldWrites.foldl _ _ = _
    rw [held]
    rfl
  have waits : s.commitSpares.inbound = [] := by
    rw [spares]
    exact (State.mgmtEvent_inbound ..).trans landed
  rw [State.commitMap, waits]
  exact spares

theorem State.island_setIsland_other {i j : Nat} {st : IslandState} (h : j ≠ i) : (s.setIsland i st).island j = s.island j := by
  unfold State.island State.setIsland
  rw [lookupKey_setKey_other h]

/-- After a copied sparing commits the spare serves the core, the old core's island has failed, and memory stands. -/
theorem State.spareServes_spec : (s.spareServes x).coreMap = s.coreMap.set x.logical x.spare ∧
    (s.spareServes x).spares[coreDie x.logical] = none ∧
    (s.spareServes x).island x.spare.val = .run ∧
    (x.physical ≠ x.spare → (s.spareServes x).island x.physical.val = .failed) := by
  refine ⟨rfl, ?_, State.island_setIsland, fun other => ?_⟩
  · exact Vector.getElem_set_self _
  · rw [State.spareServes, State.island_setIsland_other (by simpa [Fin.ext_iff] using other)]
    exact State.island_setIsland

/-- A copied sparing commits at a launch: its core is served by the spare, and memory stands (R17, R499). -/
theorem State.commitMap_serves (one : s.sparing = [x]) (copied : x.copied = true) (quiet : s.heldWrites = [])
    (landed : s.inbound = []) :
    let t := s.commitMap
    t.coreMap = s.coreMap.set x.logical x.spare ∧ t.spares[coreDie x.logical] = none ∧ t.sparing = [] ∧
      t.island x.spare.val = .run ∧ (x.physical ≠ x.spare → t.island x.physical.val = .failed) ∧ t.mem = s.mem := by
  intro t
  obtain ⟨map, spares, run, failed⟩ := State.spareServes_spec (s := s) (x := x)
  have shape : t = _ := State.commitMap_one one copied quiet landed
  have islands (i : Nat) : t.island i = (s.spareServes x).island i := State.island_of_islands (by rw [shape]; simp) i
  refine ⟨?_, ?_, ?_, (islands _).trans run, fun other => (islands _).trans (failed other), ?_⟩
  · rw [shape]; simp [map]
  · rw [shape]; simp [spares]
  · rw [shape]; simp [State.spareServes, State.setIsland, one, copied]
  · rw [shape]; simp [State.spareServes, State.setIsland]

end Sys2Proof.Machine
end

section
/-! SUPPORT. What commits of the configuration at a launch: the staged values, and the plan swap (O31). -/

namespace Sys2Proof.Machine
variable {s t u : State} {gc : Nat} {p : Plan}

/-! ### Staged values (R474) -/

/-- The configuration epoch rises with what commits (R441). -/
def State.epochRisen (s : State) (gc : Nat) : State :=
  ({ s with epochCommitGc := some gc }).setObj 0x1004 3 ((s.epoch + 1) % 2 ^ 32)

theorem State.epochRisen_epoch (w : Assoc.wf objDefault s.od = true) :
    (s.epochRisen gc).obj 0x1004 3 = (s.epoch + 1) % 2 ^ 32 :=
  State.obj_setObj_self (s := { s with epochCommitGc := some gc }) w _ _ _

theorem KeepsEntry.epochRisen {i : Nat} (h : i ≠ 0x1004) : KeepsEntry i s (s.epochRisen gc) :=
  KeepsEntry.trans (t := { s with epochCommitGc := some gc }) (.of_od rfl) (.setObj h (by decide))

/-- What `STAGE_STATUS` shows of a commit, before the values come into force (R474). -/
def State.stagedShown (s : State) (gc : Nat) : State :=
  (({ s with staged := [] }).setObj 0x1201 0 gc).setObj 0x1201 1 s.staged.length

theorem State.commitStaged_none (empty : s.staged = []) : s.commitStaged gc = s := by
  unfold State.commitStaged
  rw [if_pos (by rw [empty]; rfl)]

theorem State.commitStaged_some (held : s.staged ≠ []) : s.commitStaged gc =
    (sortBy (fun (a b : Nat × Bytes) => decide (a.1 < b.1)) s.staged).foldl (fun s e => s.putValue e.1 e.2)
      (s.stagedShown gc) := by
  unfold State.commitStaged
  rw [if_neg (by simpa using held)]
  dsimp only []
  rw [sortBy_perm.length_eq]
  rfl

theorem State.putValue_scalar {k : Nat} {v : Bytes} (h : k / 256 ≠ 0x5104) :
    s.putValue k v = s.setObj (k / 256) (k % 256) (leNat v) := if_neg h

/-- A value that comes into force shows in its own entry, unless it is a pin. -/
theorem KeepsEntry.putValues {i : Nat} {l : List (Nat × Bytes)} (plain : ∀ e ∈ l, e.1 / 256 ≠ 0x5104)
    (other : ∀ e ∈ l, i ≠ e.1 / 256) : KeepsEntry i s (l.foldl (fun s e => s.putValue e.1 e.2) s) :=
  .foldl fun b e he => by
    rw [State.putValue_scalar (plain e he)]
    exact .setObj (other e he) (Nat.mod_lt _ (by decide))

/-- The values of different keys, none a pin, all come into force (R474). -/
theorem State.putValues_obj {l : List (Nat × Bytes)} (w : Assoc.wf objDefault s.od = true)
    (plain : ∀ e ∈ l, e.1 / 256 ≠ 0x5104) :
    (∀ k, k ∉ l.map Prod.fst →
      (l.foldl (fun s e => s.putValue e.1 e.2) s).obj (k / 256) (k % 256) = s.obj (k / 256) (k % 256)) ∧
    ((l.map Prod.fst).Nodup → ∀ e ∈ l,
      (l.foldl (fun s e => s.putValue e.1 e.2) s).obj (e.1 / 256) (e.1 % 256) = leNat e.2) := by
  induction l generalizing s with
  | nil => exact ⟨fun _ _ => rfl, fun _ e he => absurd he (List.not_mem_nil)⟩
  | cons x l ih =>
    have one : s.putValue x.1 x.2 = s.setObj (x.1 / 256) (x.1 % 256) (leNat x.2) :=
      State.putValue_scalar (plain x (List.mem_cons_self ..))
    have wf : Assoc.wf objDefault (s.putValue x.1 x.2).od = true := by
      rw [one]
      exact State.setObj_wf w _ _ _
    obtain ⟨others, values⟩ := ih wf (fun e he => plain e (List.mem_cons_of_mem _ he))
    simp only [List.map_cons, List.mem_cons, not_or, List.nodup_cons, List.foldl_cons]
    refine ⟨fun k ⟨ne, mem⟩ => (others k mem).trans ?_, fun ⟨first, nodup⟩ e he => ?_⟩
    · have key : objKey (k / 256) (k % 256) ≠ objKey (x.1 / 256) (x.1 % 256) := by
        unfold objKey
        omega
      rw [one, State.obj_setObj w, if_neg key]
    · obtain rfl | he := he
      · rw [others _ first, one]
        exact State.obj_setObj_self w _ _ _
      · exact values nodup e he

theorem State.putValues_staged {l : List (Nat × Bytes)} (plain : ∀ e ∈ l, e.1 / 256 ≠ 0x5104) :
    (l.foldl (fun s e => s.putValue e.1 e.2) s).staged = s.staged := by
  induction l generalizing s with
  | nil => rfl
  | cons x l ih =>
    rw [List.foldl_cons, ih fun e he => plain e (List.mem_cons_of_mem _ he),
      State.putValue_scalar (plain x (List.mem_cons_self ..))]
    rfl

theorem State.commitConfig_none (empty : s.staged = []) : s.commitConfig none gc = s := by
  unfold State.commitConfig
  dsimp only []
  rw [State.commitStaged_none empty, if_neg (by simp [empty])]

theorem State.commitConfig_values (held : s.staged ≠ []) :
    s.commitConfig none gc = (s.commitStaged gc).epochRisen gc := by
  unfold State.commitConfig
  dsimp only []
  rw [if_pos (by simpa using held)]
  rfl

/-- Staged values come into force together, and the epoch rises (R441, R474). -/
theorem State.commitConfig_staged (w : Assoc.wf objDefault s.od = true) (held : s.staged ≠ [])
    (nodup : (s.staged.map Prod.fst).Nodup) (plain : ∀ e ∈ s.staged, e.1 / 256 ∉ [0x5104, 0x1201, 0x1004]) :
    let t := s.commitConfig none gc
    t.staged = [] ∧ (∀ e ∈ s.staged, t.obj (e.1 / 256) (e.1 % 256) = leNat e.2) ∧ t.obj 0x1201 0 = gc ∧
      t.obj 0x1201 1 = s.staged.length ∧ t.obj 0x1004 3 = (s.epoch + 1) % 2 ^ 32 ∧ t.epochCommitGc = some gc := by
  intro t
  have perm : (sortBy (fun (a b : Nat × Bytes) => decide (a.1 < b.1)) s.staged).Perm s.staged := sortBy_perm
  have each : ∀ e ∈ sortBy (fun (a b : Nat × Bytes) => decide (a.1 < b.1)) s.staged,
      e.1 / 256 ≠ 0x5104 ∧ 0x1201 ≠ e.1 / 256 ∧ 0x1004 ≠ e.1 / 256 := fun e he => by
    simpa [eq_comm] using plain e (perm.mem_iff.1 he)
  have pins := fun e he => (each e he).1
  have shape : t = (s.commitStaged gc).epochRisen gc := State.commitConfig_values held
  have first : Assoc.wf objDefault (({ s with staged := [] }).setObj 0x1201 0 gc).od = true := State.setObj_wf w _ _ _
  have shown : Assoc.wf objDefault (s.stagedShown gc).od = true := State.setObj_wf first _ _ _
  have status : KeepsEntry 0x1201 (s.stagedShown gc) (s.commitStaged gc) := by
    rw [State.commitStaged_some held]
    exact .putValues pins fun e he => (each e he).2.1
  have epoch : KeepsEntry 0x1004 s (s.commitStaged gc) := by
    rw [State.commitStaged_some held]
    exact KeepsEntry.trans (t := s.stagedShown gc)
      (KeepsEntry.trans (t := { s with staged := [] }) (.of_od rfl)
        (KeepsEntry.trans (.setObj (by decide) (by decide)) (.setObj (by decide) (by decide))))
      (.putValues pins fun e he => (each e he).2.2)
  have wf := (epoch w).1
  obtain ⟨_, values⟩ := State.putValues_obj shown pins
  have last (i j : Nat) (h : i ≠ 0x1004) (hj : j < 256) : t.obj i j = (s.commitStaged gc).obj i j := by
    rw [shape]
    exact (KeepsEntry.epochRisen h wf).2 j hj
  refine ⟨?_, fun e he => ?_, ?_, ?_, ?_, ?_⟩
  · rw [shape]
    show (s.commitStaged gc).staged = []
    rw [State.commitStaged_some held, State.putValues_staged pins]
    rfl
  · obtain ⟨-, -, plainEpoch⟩ := each e (perm.mem_iff.2 he)
    rw [last _ _ plainEpoch.symm (Nat.mod_lt _ (by decide)), State.commitStaged_some held]
    exact values ((perm.map _).nodup_iff.2 nodup) e (perm.mem_iff.2 he)
  · rw [last _ _ (by decide) (by decide), (status shown).2 0 (by decide)]
    exact (State.obj_setObj first _ _ _ _ _).trans (State.obj_setObj_self (s := { s with staged := [] }) w _ _ _)
  · rw [last _ _ (by decide) (by decide), (status shown).2 1 (by decide)]
    exact State.obj_setObj_self first _ _ _
  · rw [shape, State.epochRisen_epoch wf, State.epoch, (epoch w).2 3 (by decide)]
    rfl
  · rw [shape]
    rfl

/-! ### Plan swaps (R41, R83, R457) -/

/-- What an activation writes leaves: the image and its slot, the counts by item, the backup sets in force, and memory's
map. -/
structure SwapKeeps (s t : State) : Prop where
  plan : t.plan = s.plan
  activeSlot : t.activeSlot = s.activeSlot
  counts : t.counts = s.counts
  activeSets : t.activeSets = s.activeSets
  coreMap : t.coreMap = s.coreMap

theorem SwapKeeps.refl (s : State) : SwapKeeps s s := ⟨rfl, rfl, rfl, rfl, rfl⟩

theorem SwapKeeps.trans (h : SwapKeeps s t) (g : SwapKeeps t u) : SwapKeeps s u :=
  ⟨g.plan.trans h.plan, g.activeSlot.trans h.activeSlot, g.counts.trans h.counts, g.activeSets.trans h.activeSets,
    g.coreMap.trans h.coreMap⟩

theorem SwapKeeps.foldl {α : Type} {f : State → α → State} (h : ∀ b x, SwapKeeps b (f b x)) (l : List α) :
    SwapKeeps s (l.foldl f s) := by
  induction l generalizing s with
  | nil => exact .refl s
  | cons x l ih => exact (h s x).trans ih

theorem OnlyStores.swapKeeps (h : OnlyStores s t) : SwapKeeps s t := by
  unfold OnlyStores at h
  rw [h]
  exact ⟨rfl, rfl, rfl, rfl, rfl⟩

theorem OnlyScalars.refl (s : State) : OnlyScalars s s := rfl

theorem OnlyScalars.setObj {i j v : Nat} : OnlyScalars s (s.setObj i j v) := rfl

theorem OnlyScalars.sameStore (h : OnlyScalars s t) : SameStore s t := by
  unfold OnlyScalars at h
  rw [h]
  exact ⟨rfl, rfl, rfl⟩

theorem OnlyScalars.swapKeeps (h : OnlyScalars s t) : SwapKeeps s t := by
  unfold OnlyScalars at h
  rw [h]
  exact ⟨rfl, rfl, rfl, rfl, rfl⟩

/-! The stages of an activation. -/

/-- The image is in force, and nothing of the one before is cached. -/
def State.imageSwapped (s : State) (p : Plan) : State :=
  { s with plan := some p
           activeSlot := some (s.activeSlot = some false)
           caches := Vector.replicate 4 []
           sheaves := Vector.replicate 8 []
           activeSets := [] }

/-- The staged image's status, and the count of its swap, are over. -/
def State.swapTaken (s : State) : State := ((s.setObj 0x5001 0 0).setObj 0x5001 1 0).setObj 0x5003 0 0

/-- The policies and floors of an image's layers stand in their objects. -/
def State.predsSet (s : State) (p : Plan) : State :=
  (p.preds.zipIdx).foldl (fun s (l, i) => (s.setObj 0x2501 i l.policy.code).setObj 0x2504 i l.floor) s

/-- The values that an image carries come into force (R476). -/
def State.valuesPut (s : State) (p : Plan) : State :=
  p.values.foldl (fun s v =>
    match (objFind v.1 v.2.1).bind (fun o => o.ty.size) with
    | some _ => s.putValue (objKey v.1 v.2.1) v.2.2
    | none => s) s

theorem State.valuesPut_none (plain : p.values = []) : s.valuesPut p = s := by
  rw [State.valuesPut, plain]
  rfl

/-- A weight set that is not carried over starts afresh (R292). -/
def State.setTaken (s : State) (p : Plan) (old : Option Plan) (w : WeightSet) (i : Nat) : State :=
  match old with
  | some o => if o.carries p i w then s else s.freshSet i w
  | none => s.freshSet i w

/-- A window that is not kept is initialised (R457). -/
def State.windowTaken (s : State) (p : Plan) (old : Option Plan) (w : Window) : State :=
  match old with
  | some o => if o.keepsWindow p w then s else s.initWindow p w
  | none => s.initWindow p w

/-- The weight sets of an image, taken over or fresh. -/
def State.setsTaken (s : State) (p : Plan) (old : Option Plan) : State :=
  (p.weightSets.zipIdx).foldl (fun s (w, i) => s.setTaken p old w i) s

/-- The windows of an image, kept or initialised. -/
def State.windowsTaken (s : State) (p : Plan) (old : Option Plan) : State :=
  p.windows.foldl (fun s w => s.windowTaken p old w) s

theorem State.activate_eq : s.activate p =
    (((((((s.imageSwapped p).swapTaken.clearCounts).predsSet p).valuesPut p).setsTaken p s.plan).windowsTaken p
      s.plan).unstuck p) := rfl

theorem State.activate_plain (plain : p.values = []) : s.activate p =
    ((((((s.imageSwapped p).swapTaken.clearCounts).predsSet p).setsTaken p s.plan).windowsTaken p s.plan).unstuck p) := by
  rw [State.activate_eq, State.valuesPut_none plain]

/-- The counts that follow an image are empty (R83). -/
def State.countsEmptied (s : State) : State := { s with counts := [], tileStatus := [], poolLow := [], poolWaited := [] }

/-- What clearing the counts writes: objects alone. -/
theorem OnlyScalars.clearCounts : OnlyScalars s.countsEmptied s.clearCounts := by
  have fams : ∀ u : State, OnlyScalars u (totalFams.foldl (fun s f => (List.range 6).foldl (fun s i =>
      if (objFind f i).isSome then s.setObj f i 0 else s) s) u) := fun u => by
    refine .foldl (fun b f => .foldl (fun b i => ?_) _) _
    split
    · exact .setObj
    · exact .refl b
  have halves : ∀ u : State, OnlyScalars u ((List.range 48).foldl (fun s c => s.setObj 0x2604 c 0) u) :=
    fun u => .foldl (fun _ _ => .setObj) _
  have layers : ∀ u : State, OnlyScalars u ((List.range 256).foldl (fun s l => s.setObj 0x2505 l 0) (u.setObj 0x2400 0 0)) :=
    fun u => OnlyScalars.setObj.trans (.foldl (fun _ _ => .setObj) _)
  exact ((fams _).trans (halves _)).trans (layers _)

theorem State.clearCounts_keeps {i : Nat} (h : i ∉ totalFams) (g : i ∉ [0x2604, 0x2505, 0x2400]) :
    KeepsEntry i s s.clearCounts := by
  simp only [List.mem_cons, List.not_mem_nil, or_false, not_or] at g
  obtain ⟨half, floor, mask⟩ := g
  have fams : ∀ u : State, KeepsEntry i u (totalFams.foldl (fun s f => (List.range 6).foldl (fun s i =>
      if (objFind f i).isSome then s.setObj f i 0 else s) s) u) := fun u => by
    refine .foldl (fun b f hf => .foldl (fun b j hj => ?_))
    split
    · exact .setObj (fun e => h (e ▸ hf)) (by have := List.mem_range.1 hj; omega)
    · exact .of_od rfl
  have halves : ∀ u : State, KeepsEntry i u ((List.range 48).foldl (fun s c => s.setObj 0x2604 c 0) u) :=
    fun u => .foldl (fun _ c hc => .setObj half (by have := List.mem_range.1 hc; omega))
  have layers : ∀ u : State, KeepsEntry i u ((List.range 256).foldl (fun s l => s.setObj 0x2505 l 0) u) :=
    fun u => .foldl (fun _ l hl => .setObj floor (List.mem_range.1 hl))
  have emptied : KeepsEntry i s s.countsEmptied := .of_od rfl
  have masks (u : State) : KeepsEntry i u (u.setObj 0x2400 0 0) := .setObj mask (by decide)
  exact emptied.trans (((fams _).trans (halves _)).trans ((masks _).trans (layers _)))

/-- An image in force before its weight sets and windows are taken. -/
def State.swapReady (s : State) (p : Plan) : State := (s.imageSwapped p).swapTaken.clearCounts.predsSet p

theorem OnlyScalars.swapReady : OnlyScalars (s.imageSwapped p).countsEmptied (s.swapReady p) := by
  have taken : OnlyScalars (s.imageSwapped p).countsEmptied (s.imageSwapped p).swapTaken.countsEmptied :=
    (OnlyScalars.setObj.trans .setObj).trans .setObj
  have preds : OnlyScalars (s.imageSwapped p).swapTaken.clearCounts (s.swapReady p) :=
    .foldl (fun _ _ => OnlyScalars.setObj.trans .setObj) _
  exact (taken.trans .clearCounts).trans preds

theorem KeepsEntry.predsSet {i : Nat} (h : i ≠ 0x2501) (g : i ≠ 0x2504) (few : p.preds.length ≤ 256) :
    KeepsEntry i s (s.predsSet p) :=
  .foldl fun b x hx => by
    have lt := (List.mem_zipIdx' hx).1
    exact (KeepsEntry.setObj h (by omega)).trans (.setObj g (by omega))

theorem KeepsEntry.freshSet {i : Nat} {w : WeightSet} {n : Nat} (h : i ≠ 0x2601) (g : i ≠ 0x3037) (few : n < 256) :
    KeepsEntry i s (s.freshSet n w) :=
  KeepsEntry.trans (t := { s with setDigests := s.setDigests.filter (fun e => e.1 ≠ n) }) (.of_od rfl)
    (KeepsEntry.trans (.setObj h few) (.foldl fun _ _ _ => (KeepsEntry.setVersion g).trans (.setVersion g)))

theorem KeepsEntry.setsTaken {i : Nat} {old : Option Plan} (h : i ≠ 0x2601) (g : i ≠ 0x3037)
    (few : p.weightSets.length ≤ 256) : KeepsEntry i s (s.setsTaken p old) :=
  .foldl fun b x hx => by
    have lt := (List.mem_zipIdx' hx).1
    have fresh : KeepsEntry i b (b.freshSet x.2 x.1) := .freshSet h g (by omega)
    show KeepsEntry i b (b.setTaken p old x.1 x.2)
    unfold State.setTaken
    split
    · split
      · exact .of_od rfl
      · exact fresh
    · exact fresh

/-- The head of a window's ring of a generation (R456). -/
def Window.head (w : Window) (gen : Nat) : Bytes :=
  ascii "TG96WIND" ++ toLe 1 w.num ++ [if w.notify then 1 else 0, 0, 0] ++ toLe 4 w.slots ++ toLe 8 w.slotSize ++
    toLe 8 w.headLen ++ toLe 8 gen ++ List.replicate 88 0

/-- The entry of a slot that is FREE (R456). -/
def freeEntry : Bytes := toLe 8 0 ++ List.replicate 8 0xFF ++ List.replicate 112 0

/-- The next generation of a window is its own (R457). -/
def State.windowNumbered (s : State) (w : Window) : State :=
  { s with winGens := setKey w.num ((lookupKey w.num s.winGens).getD 0 + 1) s.winGens }

/-- The head and the entries of a window, written (R456). -/
def State.windowWritten (s : State) (p : Plan) (w : Window) (gen : Nat) : State :=
  (List.range w.slots).foldl (fun u i => u.writeRun (p.slotEntry w i) freeEntry) (s.writeRun (p.winBase w) (w.head gen))

theorem State.initWindow_eq {w : Window} : s.initWindow p w =
    (s.windowNumbered w).windowWritten p w ((lookupKey w.num s.winGens).getD 0 + 1) := rfl

theorem OnlyStores.windowWritten {w : Window} {gen : Nat} : OnlyStores s (s.windowWritten p w gen) :=
  OnlyStores.trans .writeRun (.foldl (fun _ _ => .writeRun) _)

theorem Window.head_length {w : Window} {gen : Nat} : (w.head gen).length = 128 := by
  simp [Window.head, toLe_length, ascii]

theorem freeEntry_length : freeEntry.length = 128 := by
  simp [freeEntry, toLe_length]

theorem KeepsEntry.windowWritten {i gen : Nat} {w : Window} (g : i ≠ 0x3037) : KeepsEntry i s (s.windowWritten p w gen) :=
  KeepsEntry.trans (.writeRun g (by rw [Window.head_length]; decide))
    (.foldl fun _ _ _ => .writeRun g (by rw [freeEntry_length]; decide))

theorem KeepsEntry.initWindow {i : Nat} {w : Window} (g : i ≠ 0x3037) : KeepsEntry i s (s.initWindow p w) :=
  KeepsEntry.trans (t := s.windowNumbered w) (.of_od rfl) (.windowWritten g)

theorem KeepsEntry.windowsTaken {i : Nat} {old : Option Plan} (g : i ≠ 0x3037) : KeepsEntry i s (s.windowsTaken p old) :=
  .foldl fun b w _ => by
    have fresh : KeepsEntry i b (b.initWindow p w) := .initWindow g
    unfold State.windowTaken
    split
    · split
      · exact .of_od rfl
      · exact fresh
    · exact fresh

/-- What a change of the fault pin leaves. -/
theorem State.unstuck_keeps : SwapKeeps s (s.unstuck p) ∧ (s.unstuck p).od = s.od ∧ (s.unstuck p).mem = s.mem := by
  unfold State.unstuck
  dsimp only []
  split <;> exact ⟨⟨rfl, rfl, rfl, rfl, rfl⟩, rfl, rfl⟩

theorem SwapKeeps.freshSet {w : WeightSet} {n : Nat} : SwapKeeps s (s.freshSet n w) :=
  SwapKeeps.trans (t := { s with setDigests := s.setDigests.filter (fun e => e.1 ≠ n) }) ⟨rfl, rfl, rfl, rfl, rfl⟩
    (OnlyStores.trans .setObj (.foldl (fun _ _ => OnlyStores.setVersion.trans .setVersion) _)).swapKeeps

theorem SwapKeeps.setsTaken {old : Option Plan} : SwapKeeps s (s.setsTaken p old) :=
  .foldl (fun b x => by
    show SwapKeeps b (b.setTaken p old x.1 x.2)
    unfold State.setTaken
    split
    · split
      · exact .refl b
      · exact .freshSet
    · exact .freshSet) _

theorem SwapKeeps.initWindow {w : Window} : SwapKeeps s (s.initWindow p w) :=
  SwapKeeps.trans (t := s.windowNumbered w) ⟨rfl, rfl, rfl, rfl, rfl⟩ OnlyStores.windowWritten.swapKeeps

theorem SwapKeeps.windowsTaken {old : Option Plan} : SwapKeeps s (s.windowsTaken p old) :=
  .foldl (fun b w => by
    unfold State.windowTaken
    split
    · split
      · exact .refl b
      · exact .initWindow
    · exact .initWindow) _

/-! What an activation leaves. -/

/-- What stands while weight sets and windows are taken stands after the activation. -/
theorem State.activate_keeps (plain : p.values = []) : SwapKeeps (s.imageSwapped p).countsEmptied (s.activate p) := by
  rw [State.activate_plain plain]
  exact (((OnlyScalars.swapReady.swapKeeps).trans .setsTaken).trans .windowsTaken).trans State.unstuck_keeps.1

theorem KeepsEntry.activateRest {i : Nat} (plain : p.values = []) (sets : p.weightSets.length ≤ 256)
    (preds : p.preds.length ≤ 256) (fam : i ∉ totalFams)
    (other : i ∉ [0x2604, 0x2505, 0x2400, 0x2501, 0x2504, 0x2601, 0x3037]) :
    KeepsEntry i (s.imageSwapped p).swapTaken (s.activate p) := by
  simp only [List.mem_cons, List.not_mem_nil, or_false, not_or] at other
  obtain ⟨half, floor, mask, policy, limit, set, words⟩ := other
  rw [State.activate_plain plain]
  have cleared : KeepsEntry i (s.imageSwapped p).swapTaken _ := State.clearCounts_keeps fam (by simp [half, floor, mask])
  exact cleared.trans ((KeepsEntry.predsSet policy limit preds).trans ((KeepsEntry.setsTaken set words sets).trans
    ((KeepsEntry.windowsTaken words).trans (.of_od State.unstuck_keeps.2.1))))

theorem State.swapTaken_count (w : Assoc.wf objDefault s.od = true) : s.swapTaken.obj 0x5003 0 = 0 :=
  State.obj_setObj_self (State.setObj_wf (State.setObj_wf w _ _ _) _ _ _) _ _ _

theorem KeepsEntry.swapTaken {i : Nat} (h : i ≠ 0x5001) (g : i ≠ 0x5003) : KeepsEntry i s s.swapTaken :=
  ((KeepsEntry.setObj h (by decide)).trans (.setObj h (by decide))).trans (.setObj g (by decide))

/-- Without staged values and without values of its own, a plan swap is its activation, and the epoch rises (R41, R441). -/
theorem State.commitConfig_swap (empty : s.staged = []) : s.commitConfig (some p) gc = (s.activate p).epochRisen gc := by
  unfold State.commitConfig
  dsimp only []
  rw [State.commitStaged_none empty, empty, if_pos (by simp)]
  have count : (if s.plan.isSome then lookupKey (objKey 0x5003 0) ([] : List (Nat × Bytes)) else none) = none := by
    split <;> rfl
  rw [count]
  rfl

/-- Two states have the same bytes, at the same places. -/
structure SameCells (s t : State) : Prop where
  mem : t.mem = s.mem
  coreMap : t.coreMap = s.coreMap

theorem SameCells.writeRun (h : SameCells s t) {a : Nat} {b : Bytes} : SameCells (s.writeRun a b) (t.writeRun a b) where
  mem := by
    have phys : t.phys a = s.phys a := by
      unfold State.phys
      rw [h.coreMap]
    rw [State.writeRun_mem, State.writeRun_mem, phys, h.mem]
  coreMap := by rw [OnlyStores.writeRun.fixed.1, OnlyStores.writeRun.fixed.1, h.coreMap]

theorem SameCells.foldl_writeRun {α : Type} (h : SameCells s t) (a : α → Nat) (b : α → Bytes) (l : List α) :
    SameCells (l.foldl (fun u i => u.writeRun (a i) (b i)) s) (l.foldl (fun u i => u.writeRun (a i) (b i)) t) := by
  induction l generalizing s t with
  | nil => exact h
  | cons x l ih => exact ih h.writeRun

theorem SameCells.swapReady : SameCells s (s.swapReady p) :=
  ⟨OnlyScalars.swapReady.sameStore.mem, OnlyScalars.swapReady.sameStore.coreMap⟩

/-- Of a plan without weight sets, an activation writes the windows it does not keep alone. -/
theorem State.activate_mem (plain : p.values = []) (noSets : p.weightSets = []) :
    (s.activate p).mem = ((s.swapReady p).windowsTaken p s.plan).mem := by
  have sets : (s.swapReady p).setsTaken p s.plan = s.swapReady p := by
    unfold State.setsTaken
    rw [noSets]
    rfl
  rw [State.activate_plain plain, State.unstuck_keeps.2.2]
  exact congrArg (fun u : State => (u.windowsTaken p s.plan).mem) sets

/-- Windows that are all kept stand (R457). -/
theorem State.windowsTaken_kept {o : Plan} (kept : ∀ w ∈ p.windows, o.keepsWindow p w = true) :
    s.windowsTaken p (some o) = s := by
  unfold State.windowsTaken
  revert kept
  induction p.windows with
  | nil => exact fun _ => rfl
  | cons w l ih =>
    intro kept
    have one : s.windowTaken p (some o) w = s := if_pos (kept w (List.mem_cons_self ..))
    rw [List.foldl_cons, one]
    exact ih fun v hv => kept v (List.mem_cons_of_mem _ hv)

/-- A window that is not kept is initialised (R457). -/
theorem State.windowTaken_new {old : Option Plan} {w : Window} (new : ∀ o, old = some o → o.keepsWindow p w = false) :
    s.windowTaken p old w = s.initWindow p w := by
  cases old with
  | none => rfl
  | some o => exact if_neg (by rw [new o rfl]; exact Bool.false_ne_true)

/-- A plan swap without values of its own (R41, R83, R457). -/
theorem State.commitConfig_swapped (w : Assoc.wf objDefault s.od = true) (empty : s.staged = []) (plain : p.values = [])
    (sets : p.weightSets.length ≤ 256) (preds : p.preds.length ≤ 256) :
    let t := s.commitConfig (some p) gc
    t.plan = some p ∧ t.activeSlot = some (decide (s.activeSlot = some false)) ∧ t.counts = [] ∧ t.activeSets = [] ∧
      t.obj 0x5003 0 = 0 ∧ t.obj 0x1004 3 = (s.epoch + 1) % 2 ^ 32 ∧ t.epochCommitGc = some gc ∧
      (p.weightSets = [] → (∀ w ∈ p.windows, ∀ o, s.plan = some o → o.keepsWindow p w = true) → s.plan.isSome = true →
        t.mem = s.mem) ∧
      (∀ w : Window, p.weightSets = [] → p.windows = [w] → (∀ o, s.plan = some o → o.keepsWindow p w = false) →
        t.mem = (s.windowWritten p w ((lookupKey w.num s.winGens).getD 0 + 1)).mem) := by
  have shape : s.commitConfig (some p) gc = (s.activate p).epochRisen gc := State.commitConfig_swap empty
  have keeps := State.activate_keeps (s := s) plain
  have taken : Assoc.wf objDefault (s.imageSwapped p).swapTaken.od = true :=
    State.setObj_wf (State.setObj_wf (State.setObj_wf w _ _ _) _ _ _) _ _ _
  have count : KeepsEntry 0x5003 (s.imageSwapped p).swapTaken (s.activate p) :=
    .activateRest plain sets preds (by decide) (by decide)
  have epoch : KeepsEntry 0x1004 s (s.activate p) :=
    KeepsEntry.trans (t := (s.imageSwapped p).swapTaken)
      (KeepsEntry.trans (t := s.imageSwapped p) (.of_od rfl) (.swapTaken (by decide) (by decide)))
      (.activateRest plain sets preds (by decide) (by decide))
  have wf := (epoch w).1
  rw [shape]
  refine ⟨keeps.plan, keeps.activeSlot, keeps.counts, keeps.activeSets, ?_, ?_, rfl, fun noSets kept active => ?_,
    fun v noSets one new => ?_⟩
  · rw [(KeepsEntry.epochRisen (by decide) wf).2 0 (by decide), (count taken).2 0 (by decide)]
    exact State.swapTaken_count w
  · rw [State.epochRisen_epoch wf, State.epoch, (epoch w).2 3 (by decide)]
    rfl
  · obtain ⟨o, ho⟩ := Option.isSome_iff_exists.1 active
    show (s.activate p).mem = s.mem
    rw [State.activate_mem plain noSets, ho, State.windowsTaken_kept fun w hw => kept w hw o ho]
    exact SameCells.swapReady.mem
  · show (s.activate p).mem = _
    have taken : (s.swapReady p).windowsTaken p s.plan = (s.swapReady p).initWindow p v := by
      unfold State.windowsTaken
      rw [one]
      exact State.windowTaken_new new
    rw [State.activate_mem plain noSets, taken, State.initWindow_eq]
    have gens : (s.swapReady p).winGens = s.winGens := by rw [OnlyScalars.swapReady]; rfl
    rw [gens]
    have same : SameCells s ((s.swapReady p).windowNumbered v) := ⟨SameCells.swapReady.mem, SameCells.swapReady.coreMap⟩
    exact (same.writeRun.foldl_writeRun _ _ _).mem

end Sys2Proof.Machine
end

section
/-! SUPPORT. What a step's commit makes of the objects, memory, the audit log and the notices (O31). -/

namespace Sys2Proof.Machine
variable {s t u : State} {p : Plan} {i : Nat}

/-! ### What a commit leaves -/

/-- What a step's commit leaves: the step with what it gathered, the image, the cores and their map, the values of
DOMAIN entries, and the active management; what has been sent stands. -/
structure CommitKeeps (s t : State) : Prop where
  step : t.step = s.step
  plan : t.plan = s.plan
  tileStatus : t.tileStatus = s.tileStatus
  cores : t.cores = s.cores
  blobs : t.blobs = s.blobs
  auditLog : t.auditLog = s.auditLog
  active : t.mgmt.active = s.mgmt.active
  out : s.out <+: t.out

namespace CommitKeeps

theorem refl (s : State) : CommitKeeps s s := ⟨rfl, rfl, rfl, rfl, rfl, rfl, rfl, List.prefix_refl _⟩

theorem trans (h : CommitKeeps s t) (g : CommitKeeps t u) : CommitKeeps s u where
  step := g.step.trans h.step
  plan := g.plan.trans h.plan
  tileStatus := g.tileStatus.trans h.tileStatus
  cores := g.cores.trans h.cores
  blobs := g.blobs.trans h.blobs
  auditLog := g.auditLog.trans h.auditLog
  active := g.active.trans h.active
  out := h.out.trans g.out

theorem foldl {α : Type} {f : State → α → State} (h : ∀ b x, CommitKeeps b (f b x)) (l : List α) :
    CommitKeeps s (l.foldl f s) := by
  induction l generalizing s with
  | nil => exact refl s
  | cons x l ih => exact (h s x).trans ih

theorem of_scalars (h : OnlyScalars s t) : CommitKeeps s t := by
  unfold OnlyScalars at h
  rw [h]
  exact ⟨rfl, rfl, rfl, rfl, rfl, rfl, rfl, List.prefix_refl _⟩

theorem mgmtEvent {c : BitVec 16} {d : Bytes} : CommitKeeps s (s.mgmtEvent c d) where
  step := by simp
  plan := by simp
  tileStatus := by simp
  cores := by simp
  blobs := by simp
  auditLog := by simp
  active := State.event_active
  out := Tells.mgmtEvent.out

theorem notice {b : Bytes} : CommitKeeps s (s.notice b) :=
  ⟨rfl, rfl, rfl, rfl, rfl, rfl, rfl, List.prefix_append _ _⟩

theorem writeRun {a : Nat} {b : Bytes} : CommitKeeps s (s.writeRun a b) := by
  unfold State.writeRun
  dsimp only []
  split
  · exact refl s
  · have counted (b : State) (l : List Nat) : CommitKeeps b (l.foldl (fun s w => s.addObj 0x3037 (hbmDecode w).1 1) b) :=
      .foldl (fun _ _ => .of_scalars .addObj) _
    split
    · refine trans ?_ (counted _ _)
      exact ⟨rfl, rfl, rfl, rfl, rfl, rfl, rfl, List.prefix_refl _⟩
    · exact ⟨rfl, rfl, rfl, rfl, rfl, rfl, rfl, List.prefix_refl _⟩

theorem mgmtIsland (h : CommitKeeps s t) : t.mgmtIsland = s.mgmtIsland := by
  unfold State.mgmtIsland
  rw [h.active]

end CommitKeeps

/-! ### The stages of a commit -/

/-- The step's counts are the module's, and its tiles' results stand (R83, R105). -/
def State.countsKept (s : State) (p : Plan) : State :=
  { s.commitCounts with tileStatus := s.commitCounts.step.tiles, poolLow := p.poolLows s.commitCounts.step.poolLow
                        poolWaited := s.commitCounts.step.poolWaited }

/-- The versions, masks and rates of a step's layers stand in their objects, and its set digests are kept. -/
def State.resultsKept (s : State) (p : Plan) : State :=
  ((((s.countsKept p).commitSets p).commitMasks p).commitReference p).keepSetDigests p

/-- The audit records that a commit adds: none without auditing (R427, R429). -/
def State.commitRecs (s : State) (p : Plan) : List AuditRec := if s.auditing then s.auditRecs p else []

/-- The audit log with a commit's records. -/
def State.auditKept (s : State) (p : Plan) : State := { s with auditLog := keepLog (s.auditLog ++ s.commitRecs p) }

/-- A committed step is counted, and its time shown. -/
def State.stepCounted (s : State) : State := (s.addObj 0x3001 0 1).setObj 0x2A06 0 (s.step.endGc - s.step.launchGc)

/-- The slots that a step used, flipped with its audit records. -/
def State.slotsKept (s : State) (p : Plan) : State :=
  ((s.resultsKept p).auditKept p).flipSlots p ((s.resultsKept p).commitRecs p)

theorem State.commitStep_eq : s.commitStep p = ((s.slotsKept p).commitCkpt p).stepCounted := rfl

/-! ### The step's counts and results -/

theorem State.commitCounts_keeps : SameStore s s.commitCounts ∧ CommitKeeps s s.commitCounts := by
  have one (b : State) (e : (Nat × Nat × Nat) × Nat) : let c := { b with counts := addKey e.1 e.2 b.counts }
      SameStore b (if totalFams.contains e.1.1 then c.addObj e.1.1 e.1.2.2 e.2 else c) ∧
      CommitKeeps b (if totalFams.contains e.1.1 then c.addObj e.1.1 e.1.2.2 e.2 else c) := by
    dsimp only []
    split <;> exact ⟨⟨rfl, rfl, rfl⟩, rfl, rfl, rfl, rfl, rfl, rfl, rfl, List.prefix_refl _⟩
  exact ⟨.foldl (fun b e => (one b e).1) _, .foldl (fun b e => (one b e).2) _⟩

theorem KeepsEntry.commitCounts (other : i ∉ totalFams) (fit : ∀ e ∈ s.step.counts, e.1.2.2 < 256) :
    KeepsEntry i s s.commitCounts :=
  .foldl fun b e he => by
    have counted : KeepsEntry i b { b with counts := addKey e.1 e.2 b.counts } := .of_od rfl
    dsimp only []
    split
    next total => exact counted.trans (.addObj (fun eq => other (by rw [eq]; simpa using total)) (fit e he))
    · exact counted

/-- The numbers of the versions that a step wrote, in their objects (R289). -/
def State.versionsNoted (s : State) (p : Plan) : State :=
  p.weightSets.zipIdx.foldl (fun t (w, i) =>
    if t.step.versions.any (fun v => v.1 = w.verdesc) then t.setObj 0x2601 i s.step.current else t) s

/-- The largest use of each core's overflow half, in its object (R299). -/
def State.halvesNoted (s : State) (st : Nat) : State :=
  (indices 48).foldl (fun s c =>
    let o := s.cores[c].overflow
    let used := if st % 2 = 0 then o.1 else o.2
    if s.obj 0x2604 c.val < used then s.setObj 0x2604 c.val used else s) s

theorem State.commitSets_eq : s.commitSets p = (s.versionsNoted p).halvesNoted s.step.current := rfl

theorem OnlyScalars.ite {c : Prop} [Decidable c] (h : OnlyScalars s t) (g : OnlyScalars s u) :
    OnlyScalars s (if c then t else u) := by
  split
  · exact h
  · exact g

theorem KeepsEntry.ite {c : Prop} [Decidable c] (h : KeepsEntry i s t) (g : KeepsEntry i s u) :
    KeepsEntry i s (if c then t else u) := by
  split
  · exact h
  · exact g

theorem OnlyScalars.commitSets : OnlyScalars s (s.commitSets p) := by
  rw [State.commitSets_eq]
  exact OnlyScalars.trans (.foldl (fun b _ => .ite .setObj (.refl b)) _) (.foldl (fun b _ => .ite .setObj (.refl b)) _)

theorem KeepsEntry.versionsNoted (h : i ≠ 0x2601) (few : p.weightSets.length ≤ 256) : KeepsEntry i s (s.versionsNoted p) :=
  .foldl fun b x hx => .ite (.setObj h (by have := (List.mem_zipIdx' hx).1; omega)) (.of_od rfl)

theorem KeepsEntry.halvesNoted {n : Nat} (h : i ≠ 0x2604) : KeepsEntry i s (s.halvesNoted n) :=
  .foldl fun b c _ => .ite (.setObj h (by omega)) (.of_od rfl)

theorem KeepsEntry.commitSets (h : i ≠ 0x2601) (g : i ≠ 0x2604) (few : p.weightSets.length ≤ 256) :
    KeepsEntry i s (s.commitSets p) := by
  rw [State.commitSets_eq]
  exact (KeepsEntry.versionsNoted h few).trans (.halvesNoted g)

/-- The version of a set that a step wrote stands in its object, whatever the other sets are (R289). -/
theorem State.versionsFold_shows {n : Nat} {l : List (WeightSet × Nat)} {b : State} (w : Assoc.wf objDefault b.od = true)
    (few : ∀ x ∈ l, x.2 < 256) (lt : i < 256)
    (written : (∃ x ∈ l, x.2 = i ∧ ∃ v ∈ b.step.versions, v.1 = x.1.verdesc) ∨ b.obj 0x2601 i = n) :
    (l.foldl (fun (t : State) (x : WeightSet × Nat) =>
      if t.step.versions.any (fun v => v.1 = x.1.verdesc) then t.setObj 0x2601 x.2 n else t) b).obj 0x2601 i = n := by
  induction l generalizing b with
  | nil =>
    obtain ⟨x, hx, _⟩ | shown := written
    · cases hx
    · exact shown
  | cons x l ih =>
    rw [List.foldl_cons]
    have few' : ∀ y ∈ l, y.2 < 256 := fun y hy => few y (List.mem_cons_of_mem _ hy)
    by_cases wrote : b.step.versions.any (fun v => v.1 = x.1.verdesc) = true
    · rw [if_pos wrote]
      refine ih (State.setObj_wf w _ _ _) few' ?_
      by_cases same : x.2 = i
      · exact .inr (same ▸ State.obj_setObj_self w _ _ _)
      · obtain ⟨y, hy, at', v⟩ | shown := written
        · obtain rfl | hy := List.mem_cons.1 hy
          · exact absurd at' same
          · exact .inl ⟨y, hy, at', v⟩
        · refine .inr ?_
          rw [State.obj_setObj w, if_neg]
          · exact shown
          · rw [objKey_inj lt (few x (List.mem_cons_self ..))]
            exact fun e => same e.2.symm
    · rw [if_neg wrote]
      refine ih w few' ?_
      obtain ⟨y, hy, at', v, hv, named⟩ | shown := written
      · obtain rfl | hy := List.mem_cons.1 hy
        · exact absurd (List.any_eq_true.2 ⟨v, hv, by simpa using named⟩) wrote
        · exact .inl ⟨y, hy, at', v, hv, named⟩
      · exact .inr shown

theorem State.commitSets_shows (w : Assoc.wf objDefault s.od = true) (few : p.weightSets.length ≤ 256) {k : WeightSet}
    (set : p.weightSets[i]? = some k) (wrote : ∃ v ∈ s.step.versions, v.1 = k.verdesc) :
    (s.commitSets p).obj 0x2601 i = s.step.current := by
  have lt : i < p.weightSets.length := (List.getElem?_eq_some_iff.1 set).1
  have noted : (s.versionsNoted p).obj 0x2601 i = s.step.current := by
    have small : ∀ x ∈ p.weightSets.zipIdx, x.2 < 256 := fun x hx => by
      have := (List.mem_zipIdx' hx).1
      omega
    exact State.versionsFold_shows w small (by omega) (.inl ⟨(k, i), List.mem_zipIdx_iff_getElem?.2 set, rfl, wrote⟩)
  have wf : Assoc.wf objDefault (s.versionsNoted p).od = true := (KeepsEntry.versionsNoted (i := 0) (by decide) few w).1
  rw [State.commitSets_eq, (KeepsEntry.halvesNoted (by decide) wf).2 i (by omega), noted]

/-! Masks (R252). -/

theorem SameStore.sameReads (h : SameStore s t) : SameReads s t where
  byte a := by
    unfold State.byte
    rw [h.phys, h.mem]
  plan := h.plan

theorem SameReads.slot (h : SameReads s t) (d : Desc) (k : Nat) : t.slot d k = s.slot d k := h.bytes _ _

theorem SameReads.storedEntries (h : SameReads s t) (m st : Nat) : t.storedEntries p m st = s.storedEntries p m st := by
  simp only [State.storedEntries, h.slot]

theorem SameReads.contentDigest (h : SameReads s t) (d : Desc) : t.contentDigest d = s.contentDigest d := by
  simp only [State.contentDigest, h.code]

/-- The stored entries of a masked matrix, as a sum over its tiles (R252). -/
theorem State.storedEntries_sum {m st : Nat} {w : WeightSet} {d : Desc}
    (set : p.weightSets.find? (fun w => w.masked && w.matrix = m) = some w)
    (desc : p.descAt (if st % 2 = 0 then w.vdesc.1 else w.vdesc.2) = some d) :
    s.storedEntries p m st = ((List.range (d.size 1)).map (fun k => (TileHdr.parse (s.slot d k)).nnz)).sum := by
  unfold State.storedEntries
  rw [set]
  dsimp only []
  rw [desc, List.sum_eq_foldl, List.foldl_map]

/-- A matrix whose mask commits: it is counted, with the step and the stored entries shown (R252). -/
def State.maskNoted (s : State) (p : Plan) (st : Nat) (m : Nat × Nat) : State :=
  ((s.addObj 0x2401 m.1 1).setObj 0x2402 m.1 m.2).setObj 0x2403 m.1 ((s.addObj 0x2401 m.1 1).storedEntries p m.1 st)

/-- The matrices whose masks commit (R252). -/
def State.masksNoted (s : State) (p : Plan) : State :=
  s.step.masks.foldl (fun u m => u.maskNoted p s.step.current m) s

theorem State.commitMasks_eq : s.commitMasks p =
    if (s.masksNoted p).maskStep p then (s.masksNoted p).addObj 0x2400 0 1 else s.masksNoted p := rfl

theorem OnlyScalars.commitMasks : OnlyScalars s (s.commitMasks p) := by
  have noted : OnlyScalars s (s.masksNoted p) := .foldl (fun _ _ => (OnlyScalars.addObj.trans .setObj).trans .setObj) _
  rw [State.commitMasks_eq]
  exact .ite (noted.trans .addObj) noted

theorem KeepsEntry.maskNoted {st : Nat} {m : Nat × Nat} (h : i ∉ [0x2401, 0x2402, 0x2403]) (lt : m.1 < 256) :
    KeepsEntry i s (s.maskNoted p st m) := by
  simp only [List.mem_cons, List.not_mem_nil, or_false, not_or] at h
  obtain ⟨commits, steps, entries⟩ := h
  exact ((KeepsEntry.addObj commits lt).trans (.setObj steps lt)).trans (.setObj entries lt)

theorem KeepsEntry.commitMasks (h : i ∉ [0x2401, 0x2402, 0x2403]) (g : i ≠ 0x2400)
    (fit : ∀ m ∈ s.step.masks, m.1 < 256) : KeepsEntry i s (s.commitMasks p) := by
  have noted : KeepsEntry i s (s.masksNoted p) := .foldl fun _ m hm => .maskNoted h (fit m hm)
  rw [State.commitMasks_eq]
  exact .ite (noted.trans (.addObj g (by decide))) noted

/-- A mask that commits leaves the entries of the other matrices. -/
theorem State.maskNoted_other {st : Nat} {m : Nat × Nat} {k : Nat} (w : Assoc.wf objDefault s.od = true) (lt : m.1 < 256)
    (hk : k < 256) (other : k ≠ m.1) {j : Nat} : (s.maskNoted p st m).obj j k = s.obj j k := by
  have wf := State.addObj_wf w 0x2401 m.1 1
  have key (j' : Nat) : objKey j k ≠ objKey j' m.1 := fun e => other ((objKey_inj hk lt).1 e).2
  unfold State.maskNoted
  rw [State.obj_setObj (State.setObj_wf wf _ _ _), if_neg (key _), State.obj_setObj wf, if_neg (key _),
    State.obj_addObj_other w (key _)]

theorem State.maskNoted_shows {st : Nat} {m : Nat × Nat} (w : Assoc.wf objDefault s.od = true) (lt : m.1 < 256) :
    (s.maskNoted p st m).obj 0x2402 m.1 = m.2 ∧ (s.maskNoted p st m).obj 0x2403 m.1 = s.storedEntries p m.1 st := by
  have wf := State.addObj_wf w 0x2401 m.1 1
  have same : SameStore s (s.addObj 0x2401 m.1 1) := ⟨rfl, rfl, rfl⟩
  refine ⟨?_, ?_⟩
  · refine (State.obj_setObj (State.setObj_wf wf _ _ _) _ _ _ _ _).trans ?_
    rw [if_neg (fun e => absurd ((objKey_inj lt lt).1 e).1 (by decide))]
    exact State.obj_setObj_self wf _ _ _
  · refine (State.obj_setObj_self (State.setObj_wf wf _ _ _) _ _ _).trans (same.sameReads.storedEntries _ _)

/-- The masks of different matrices all show the step and the stored entries (R252). -/
theorem State.masksFold_shows {st : Nat} {l : List (Nat × Nat)} {b : State} (w : Assoc.wf objDefault b.od = true)
    (fit : ∀ m ∈ l, m.1 < 256) :
    (∀ j k, k < 256 → k ∉ l.map Prod.fst → (l.foldl (fun u m => u.maskNoted p st m) b).obj j k = b.obj j k) ∧
    ((l.map Prod.fst).Nodup → ∀ m ∈ l, (l.foldl (fun u m => u.maskNoted p st m) b).obj 0x2402 m.1 = m.2 ∧
      (l.foldl (fun u m => u.maskNoted p st m) b).obj 0x2403 m.1 = b.storedEntries p m.1 st) := by
  induction l generalizing b with
  | nil => exact ⟨fun _ _ _ _ => rfl, fun _ m hm => absurd hm (List.not_mem_nil)⟩
  | cons x l ih =>
    have lt := fit x (List.mem_cons_self ..)
    have wf : Assoc.wf objDefault (b.maskNoted p st x).od = true :=
      State.setObj_wf (State.setObj_wf (State.addObj_wf w _ _ _) _ _ _) _ _ _
    have same : SameStore b (b.maskNoted p st x) := ⟨rfl, rfl, rfl⟩
    obtain ⟨others, shown⟩ := ih wf (fun m hm => fit m (List.mem_cons_of_mem _ hm))
    simp only [List.map_cons, List.mem_cons, not_or, List.nodup_cons, List.foldl_cons]
    refine ⟨fun j k hk ⟨ne, mem⟩ => (others j k hk mem).trans (State.maskNoted_other w lt hk ne),
      fun ⟨first, nodup⟩ m hm => ?_⟩
    obtain rfl | hm := hm
    · rw [others _ _ lt first, others _ _ lt first]
      exact State.maskNoted_shows w lt
    · rw [← same.sameReads.storedEntries]
      exact shown nodup m hm

theorem State.commitMasks_shows (w : Assoc.wf objDefault s.od = true) (fit : ∀ m ∈ s.step.masks, m.1 < 256)
    (once : (s.step.masks.map Prod.fst).Nodup) {m : Nat × Nat} (hm : m ∈ s.step.masks) :
    (s.commitMasks p).obj 0x2402 m.1 = m.2 ∧
      (s.commitMasks p).obj 0x2403 m.1 = s.storedEntries p m.1 s.step.current := by
  obtain ⟨shown, entries⟩ := (State.masksFold_shows (p := p) (st := s.step.current) w fit).2 once m hm
  have wf : Assoc.wf objDefault (s.masksNoted p).od = true :=
    (KeepsEntry.foldl (i := 0) (fun _ m hm => .maskNoted (by decide) (fit m hm)) w).1
  have keeps {j : Nat} (h : j ≠ 0x2400) : KeepsEntry j (s.masksNoted p) (s.commitMasks p) := by
    rw [State.commitMasks_eq]
    exact .ite (.addObj h (by decide)) (.of_od rfl)
  exact ⟨((keeps (by decide) wf).2 _ (fit m hm)).trans shown, ((keeps (by decide) wf).2 _ (fit m hm)).trans entries⟩

/-! Reference steps, and what is kept besides (R278, R428). -/

/-- What one layer of a reference step shows (R278): nothing but its object, and an event. -/
theorem State.commitReference_keeps : SameStore s (s.commitReference p) ∧ CommitKeeps s (s.commitReference p) := by
  unfold State.commitReference
  split
  · exact ⟨.refl s, .refl s⟩
  · have one (b : State) (l n : Nat) (d : Bytes) (c : Prop) [Decidable c] :
        SameStore b (if c then (b.setObj 0x2505 l 1).mgmtEvent 0x3126 d else b.setObj 0x2505 l n) ∧
        CommitKeeps b (if c then (b.setObj 0x2505 l 1).mgmtEvent 0x3126 d else b.setObj 0x2505 l n) := by
      split
      · exact ⟨SameStore.trans (t := b.setObj 0x2505 l 1) ⟨rfl, rfl, rfl⟩ .mgmtEvent,
          (CommitKeeps.of_scalars .setObj).trans .mgmtEvent⟩
      · exact ⟨⟨rfl, rfl, rfl⟩, .of_scalars .setObj⟩
    exact ⟨.foldl (fun b l => (one b l 0 _ _).1) _, .foldl (fun b l => (one b l 0 _ _).2) _⟩

theorem KeepsEntry.commitReference (h : i ≠ 0x2505) (g : i ≠ 0x3000) (few : p.preds.length ≤ 256) :
    KeepsEntry i s (s.commitReference p) := by
  unfold State.commitReference
  split
  · exact .of_od rfl
  · refine .foldl fun b l hl => ?_
    have lt : l < 256 := by
      have := List.mem_range.1 hl
      omega
    exact .ite ((KeepsEntry.setObj h lt).trans (.event g)) (.setObj h lt)

/-- What the results of a step leave. -/
theorem State.resultsKept_keeps : SameStore (s.countsKept p) (s.resultsKept p) ∧
    CommitKeeps (s.countsKept p) (s.resultsKept p) := by
  have scalars : OnlyScalars (s.countsKept p) (((s.countsKept p).commitSets p).commitMasks p) :=
    OnlyScalars.commitSets.trans .commitMasks
  have digests (u : State) : SameStore u (u.keepSetDigests p) ∧ CommitKeeps u (u.keepSetDigests p) :=
    ⟨⟨rfl, rfl, rfl⟩, rfl, rfl, rfl, rfl, rfl, rfl, rfl, List.prefix_refl _⟩
  exact ⟨(scalars.sameStore.trans State.commitReference_keeps.1).trans (digests _).1,
    ((CommitKeeps.of_scalars scalars).trans State.commitReference_keeps.2).trans (digests _).2⟩

/-- Counting a step's counts and tiles leaves all but those. -/
theorem State.countsKept_spec : SameStore s (s.countsKept p) ∧ (s.countsKept p).step = s.step ∧
    (s.countsKept p).tileStatus = s.step.tiles ∧ (s.countsKept p).blobs = s.blobs ∧ (s.countsKept p).auditLog = s.auditLog ∧
    (s.countsKept p).mgmt.active = s.mgmt.active := by
  obtain ⟨same, keeps⟩ := State.commitCounts_keeps (s := s)
  exact ⟨⟨same.mem, same.coreMap, same.plan⟩, keeps.step, congrArg StepState.tiles keeps.step, keeps.blobs, keeps.auditLog,
    keeps.active⟩

theorem KeepsEntry.countsKept (other : i ∉ totalFams) (fit : ∀ e ∈ s.step.counts, e.1.2.2 < 256) :
    KeepsEntry i s (s.countsKept p) :=
  (KeepsEntry.commitCounts other fit).trans (.of_od rfl)

/-- The entries that the results of a step show themselves in, besides the totals. -/
def resultEntries : List Nat := [0x2400, 0x2401, 0x2402, 0x2403, 0x2505, 0x2601, 0x2604, 0x3000]

theorem KeepsEntry.resultsKept (fit : CountsFit s p) (other : i ∉ totalFams) (h : i ∉ resultEntries) :
    KeepsEntry i s (s.resultsKept p) := by
  simp only [resultEntries, List.mem_cons, List.not_mem_nil, or_false, not_or] at h
  obtain ⟨total, commits, steps, entries, floor, set, half, event⟩ := h
  have counted := State.countsKept_spec (s := s) (p := p)
  have step : ((s.countsKept p).commitSets p).step = s.step :=
    (CommitKeeps.of_scalars OnlyScalars.commitSets).step.trans counted.2.1
  exact (KeepsEntry.countsKept other fit.counts).trans ((KeepsEntry.commitSets set half fit.sets).trans
    ((KeepsEntry.commitMasks (by simp [commits, steps, entries]) total (by rw [step]; exact fit.matrices)).trans
      ((KeepsEntry.commitReference floor event fit.preds).trans (.of_od rfl))))

/-! ### The slots (R460) -/

theorem AuditRec.bytes_length (r : AuditRec) : r.bytes.length = 80 := by
  simp [AuditRec.bytes, toLe_length]

theorem SameStore.word (h : SameStore s t) (a n : Nat) : t.word a n = s.word a n := by
  rw [State.word, h.sameReads.bytes, State.word]

/-- Setting a flag word in two alike states gives alike states. -/
theorem SameStore.setFlag (h : SameStore s t) {a f : Nat} : SameStore (s.setFlag a f) (t.setFlag a f) := by
  unfold State.setFlag
  rw [h.word]
  exact h.writeRun

/-- The audit record that a flipped slot carries: the last of its own, or zeros (R460). -/
def State.slotAudit (s : State) (recs : List AuditRec) (k : Nat × Nat) : Bytes :=
  match (recs.filter (fun r => s.step.results.contains (r.desc, some k))).getLast? with
  | some r => r.bytes
  | none => List.replicate 80 0

theorem State.slotAudit_length {recs : List AuditRec} {k : Nat × Nat} : (s.slotAudit recs k).length = 80 := by
  unfold State.slotAudit
  split
  · exact AuditRec.bytes_length _
  · exact List.length_replicate

theorem State.slotAudit_none {k : Nat × Nat} : s.slotAudit [] k = List.replicate 80 0 := rfl

theorem State.flipSlot_eq {recs : List AuditRec} {k : Nat × Nat} {w : Window} (win : p.window k.1 = some w) :
    s.flipSlot p recs k = if s.step.slotsPoisoned.contains k then
      (s.setFlag (p.slotEntry w k.2) 3).mgmtEvent 0x4A02 (toLe 1 k.1 ++ toLe 4 k.2)
    else (s.setFlag (p.slotEntry w k.2) 1).writeRun (p.slotEntry w k.2 + 8) (toLe 8 s.step.current ++ s.slotAudit recs k) := by
  unfold State.flipSlot
  rw [win]
  rfl

theorem CommitKeeps.setFlag {a f : Nat} : CommitKeeps s (s.setFlag a f) := .writeRun

theorem KeepsEntry.setFlag {a f : Nat} (h : i ≠ 0x3037) : KeepsEntry i s (s.setFlag a f) :=
  .writeRun h (by rw [toLe_length]; decide)

/-- What flipping a slot leaves. -/
theorem State.flipSlot_keeps {recs : List AuditRec} {k : Nat × Nat} : CommitKeeps s (s.flipSlot p recs k) ∧
    (i ≠ 0x3037 → i ≠ 0x3000 → KeepsEntry i s (s.flipSlot p recs k)) := by
  cases win : p.window k.1 with
  | none =>
    unfold State.flipSlot
    rw [win]
    exact ⟨.refl s, fun _ _ => .of_od rfl⟩
  | some w =>
    rw [State.flipSlot_eq win]
    split
    · exact ⟨CommitKeeps.setFlag.trans .mgmtEvent, fun h g => (KeepsEntry.setFlag h).trans (.event g)⟩
    · refine ⟨CommitKeeps.setFlag.trans .writeRun, fun h _ => (KeepsEntry.setFlag h).trans (.writeRun h ?_)⟩
      rw [List.length_append, toLe_length, State.slotAudit_length]
      decide

theorem KeepsEntry.flipSlot {recs : List AuditRec} {k : Nat × Nat} (h : i ≠ 0x3037) (g : i ≠ 0x3000) :
    KeepsEntry i s (s.flipSlot p recs k) := State.flipSlot_keeps.2 h g

/-- The slots that a step used, in ascending order. -/
def State.slotsSorted (s : State) : List (Nat × Nat) :=
  sortBy (fun (a b : Nat × Nat) => decide (a.1 < b.1) || (a.1 = b.1 && decide (a.2 < b.2))) s.step.slotsUsed

/-- A window's notice of the slots of it that were flipped (R465). -/
def State.slotsTold (s : State) (ks : List (Nat × Nat)) (w : Window) : State :=
  match (ks.filter (fun k => k.1 = w.num)) with
  | [] => s
  | k :: rest =>
    if w.notify then
      s.notice ([2] ++ toLe 1 w.num ++ toLe 8 s.step.current ++ toLe 4 (rest.length + 1) ++ toLe 4 k.2)
    else s

theorem State.flipSlots_eq {recs : List AuditRec} : s.flipSlots p recs =
    p.windows.foldl (fun u w => u.slotsTold s.slotsSorted w) (s.slotsSorted.foldl (fun u k => u.flipSlot p recs k) s) := rfl

/-- Telling of slots sends notices alone. -/
theorem State.slotsTold_keeps {ks : List (Nat × Nat)} {w : Window} : CommitKeeps s (s.slotsTold ks w) ∧
    SameStore s (s.slotsTold ks w) ∧ (s.slotsTold ks w).od = s.od ∧ (s.slotsTold ks w).log = s.log := by
  unfold State.slotsTold
  split
  · exact ⟨.refl s, .refl s, rfl, rfl⟩
  · split
    · exact ⟨.notice, ⟨rfl, rfl, rfl⟩, rfl, rfl⟩
    · exact ⟨.refl s, .refl s, rfl, rfl⟩

theorem CommitKeeps.flipSlots {recs : List AuditRec} : CommitKeeps s (s.flipSlots p recs) := by
  rw [State.flipSlots_eq]
  exact (CommitKeeps.foldl (fun _ _ => (State.flipSlot_keeps (i := 0)).1) _).trans
    (.foldl (fun _ _ => State.slotsTold_keeps.1) _)

theorem KeepsEntry.flipSlots {recs : List AuditRec} (h : i ≠ 0x3037) (g : i ≠ 0x3000) :
    KeepsEntry i s (s.flipSlots p recs) := by
  rw [State.flipSlots_eq]
  have told (b : State) (ks : List (Nat × Nat)) (w : Window) : KeepsEntry i b (b.slotsTold ks w) := by
    obtain ⟨-, -, od, -⟩ := State.slotsTold_keeps (s := b) (ks := ks) (w := w)
    exact .of_od od
  exact KeepsEntry.trans (.foldl fun _ _ _ => .flipSlot h g) (.foldl fun b w _ => told b _ w)

/-- A step that used no slot flips none. -/
theorem State.flipSlots_none {recs : List AuditRec} (unused : s.step.slotsUsed = []) : s.flipSlots p recs = s := by
  have sorted : s.slotsSorted = [] := by
    rw [State.slotsSorted, unused]
    rfl
  have told (u : State) (l : List Window) : l.foldl (fun u w => u.slotsTold [] w) u = u := by
    induction l with
    | nil => rfl
    | cons w l ih => exact ih
  rw [State.flipSlots_eq, sorted]
  exact told s p.windows

/-- The telling of windows leaves memory and the log. -/
theorem State.slotsTold_fold {ks : List (Nat × Nat)} (l : List Window) :
    CommitKeeps s (l.foldl (fun u w => u.slotsTold ks w) s) ∧ SameStore s (l.foldl (fun u w => u.slotsTold ks w) s) ∧
      (l.foldl (fun u w => u.slotsTold ks w) s).od = s.od ∧ (l.foldl (fun u w => u.slotsTold ks w) s).log = s.log := by
  induction l generalizing s with
  | nil => exact ⟨.refl s, .refl s, rfl, rfl⟩
  | cons w l ih =>
    obtain ⟨keeps, same, od, log⟩ := State.slotsTold_keeps (s := s) (ks := ks) (w := w)
    obtain ⟨keeps', same', od', log'⟩ := ih (s := s.slotsTold ks w)
    exact ⟨keeps.trans keeps', same.trans same', od'.trans od, log'.trans log⟩

/-- A window with its notice set tells every address of one slot that was flipped (R465). -/
theorem State.slotsTold_sends {w : Window} {j : Fin 4} {n : Nat} (notify : w.notify = true) (up : s.hostUp = true)
    (addr : allZero (s.blob 0x1102 j 18) = false) :
    ∃ q, Out.notice (s.blob 0x1102 j 18) q ([2] ++ toLe 1 w.num ++ toLe 8 s.step.current ++ toLe 4 1 ++ toLe 4 n) ∈
      (s.slotsTold [(w.num, n)] w).out := by
  have told : s.slotsTold [(w.num, n)] w =
      s.notice ([2] ++ toLe 1 w.num ++ toLe 8 s.step.current ++ toLe 4 1 ++ toLe 4 n) := by
    unfold State.slotsTold
    simp [notify]
  have listed : s.blob 0x1102 j 18 ∈ (List.range 4).filterMap (fun i =>
      let a := s.blob 0x1102 i 18
      if allZero a then none else some a) :=
    List.mem_filterMap.2 ⟨j.val, List.mem_range.2 j.isLt, by simp [addr]⟩
  refine ⟨s.mgmt.noticeSeq, ?_⟩
  rw [told]
  unfold State.notice
  dsimp only []
  rw [if_pos up]
  exact List.mem_append_right _ (List.mem_map_of_mem listed)

/-- One slot of a window, flipped alone without an audit record (R460). -/
theorem State.flipSlots_one {w : Window} {n : Nat} (used : s.step.slotsUsed = [(w.num, n)]) (win : p.window w.num = some w) :
    ((w.num, n) ∉ s.step.slotsPoisoned → (s.flipSlots p []).mem = ((s.setFlag (p.slotEntry w n) 1).writeRun
      (p.slotEntry w n + 8) (toLe 8 s.step.current ++ List.replicate 80 0)).mem) ∧
    ((w.num, n) ∈ s.step.slotsPoisoned → (s.flipSlots p []).mem = (s.setFlag (p.slotEntry w n) 3).mem ∧
      Noted (s.flipSlots p []) 0x4A02 s.mgmtIsland (toLe 1 w.num ++ toLe 4 n)) ∧
    (∀ j : Fin 4, w.notify = true → (s.flipSlot p [] (w.num, n)).hostUp = true → allZero (s.blob 0x1102 j 18) = false →
      ∃ q, Out.notice (s.blob 0x1102 j 18) q ([2] ++ toLe 1 w.num ++ toLe 8 s.step.current ++ toLe 4 1 ++ toLe 4 n) ∈
        (s.flipSlots p []).out) := by
  have sorted : s.slotsSorted = [(w.num, n)] := by
    rw [State.slotsSorted, used]
    rfl
  have shape : s.flipSlots p [] = p.windows.foldl (fun u w' => u.slotsTold [(w.num, n)] w') (s.flipSlot p [] (w.num, n)) := by
    rw [State.flipSlots_eq, sorted]
    rfl
  obtain ⟨-, same, -, log⟩ := State.slotsTold_fold (s := s.flipSlot p [] (w.num, n)) (ks := [(w.num, n)]) p.windows
  rw [← shape] at same log
  refine ⟨fun clean => ?_, fun bad => ?_, fun j notify up addr => ?_⟩
  · rw [same.mem, State.flipSlot_eq win, if_neg (by simpa using clean), State.slotAudit_none]
  · have flipped : s.flipSlot p [] (w.num, n) =
        (s.setFlag (p.slotEntry w n) 3).mgmtEvent 0x4A02 (toLe 1 w.num ++ toLe 4 n) := by
      rw [State.flipSlot_eq win, if_pos (by simpa using bad)]
    rw [same.mem, flipped]
    refine ⟨SameStore.mgmtEvent.mem, ?_⟩
    have noted := State.mgmtEvent_noted (s := s.setFlag (p.slotEntry w n) 3) (c := 0x4A02) (d := toLe 1 w.num ++ toLe 4 n)
      (by simp [toLe_length])
    rw [CommitKeeps.setFlag.mgmtIsland, ← flipped] at noted
    unfold Noted
    rw [log]
    exact noted
  · obtain ⟨before, after, split⟩ := List.append_of_mem (List.mem_of_find?_eq_some win)
    have flip : CommitKeeps s (s.flipSlot p [] (w.num, n)) := (State.flipSlot_keeps (i := 0)).1
    rw [shape, split, List.foldl_append, List.foldl_cons]
    obtain ⟨told, -, od, -⟩ := State.slotsTold_fold (s := s.flipSlot p [] (w.num, n)) (ks := [(w.num, n)]) before
    generalize before.foldl (fun u w' => u.slotsTold [(w.num, n)] w') (s.flipSlot p [] (w.num, n)) = b at told od ⊢
    have blob : b.blob 0x1102 j 18 = s.blob 0x1102 j 18 := by
      rw [State.blob, (flip.trans told).blobs, State.blob]
    have host : b.hostUp = true := by
      rw [State.hostUp, State.obj, od]
      exact up
    obtain ⟨q, sent⟩ := State.slotsTold_sends (n := n) notify host (blob ▸ addr)
    rw [blob, (flip.trans told).step] at sent
    exact ⟨q, (State.slotsTold_fold (s := b.slotsTold [(w.num, n)] w) after).1.out.subset sent⟩

/-! ### The checkpoint (R506) -/

theorem vmapIdx_getElem {α β : Type} {n : Nat} (f : Nat → α → β) (v : Vector α n) (k : Fin n) :
    (vmapIdx f v)[k] = f k v[k] := by
  simp [vmapIdx]

/-- A checkpoint that commits (R506). -/
def State.ckptShown (s : State) (c : CkptTable) (t k : Nat) : State :=
  { ((s.setObj 0x5021 k t).setObj 0x5021 (k + 2) t).setObj 0x5022 k (s.shardDigest c (c.slot c.localBase k)) with
    wardDigests := vmapIdx (fun i d => if i = k then s.shardDigest c (c.slot c.wardBase k) else d) s.wardDigests }

theorem State.commitCkpt_due {c : CkptTable} (ckpt : p.ckpt = some c) (due : s.ckptStep p = true) :
    s.commitCkpt p = s.ckptShown c s.step.current (p.ckptSlot s.step.current) := by
  unfold State.commitCkpt
  rw [ckpt]
  exact if_pos due

theorem State.commitCkpt_none (not : ∀ c, p.ckpt = some c → s.ckptStep p = false) : s.commitCkpt p = s := by
  unfold State.commitCkpt
  cases ckpt : p.ckpt with
  | none => rfl
  | some c => exact if_neg (by rw [not c ckpt]; exact Bool.false_ne_true)

/-- What committing a checkpoint leaves. -/
theorem State.commitCkpt_keeps : CommitKeeps s (s.commitCkpt p) ∧ SameStore s (s.commitCkpt p) ∧
    (s.commitCkpt p).log = s.log ∧ (i ≠ 0x5021 → i ≠ 0x5022 → KeepsEntry i s (s.commitCkpt p)) := by
  unfold State.commitCkpt
  split
  next c _ =>
    split
    · refine ⟨⟨rfl, rfl, rfl, rfl, rfl, rfl, rfl, List.prefix_refl _⟩, ⟨rfl, rfl, rfl⟩, rfl, fun h g => ?_⟩
      have lt : p.ckptSlot s.step.current < 2 := Nat.mod_lt _ (by decide)
      exact ((KeepsEntry.setObj h (by omega)).trans (.setObj h (by omega))).trans
        ((KeepsEntry.setObj g (by omega)).trans (.of_od rfl))
    · exact ⟨.refl s, .refl s, rfl, fun _ _ => .of_od rfl⟩
  · exact ⟨.refl s, .refl s, rfl, fun _ _ => .of_od rfl⟩

theorem KeepsEntry.commitCkpt (h : i ≠ 0x5021) (g : i ≠ 0x5022) : KeepsEntry i s (s.commitCkpt p) :=
  have ⟨_, _, _, entries⟩ := State.commitCkpt_keeps (s := s) (p := p) (i := i)
  entries h g

theorem State.ckptShown_spec (w : Assoc.wf objDefault s.od = true) (c : CkptTable) (t : Nat) (k : Fin 2) :
    (s.ckptShown c t k).obj 0x5021 k = t ∧ (s.ckptShown c t k).obj 0x5021 (k + 2) = t ∧
      (s.ckptShown c t k).obj 0x5022 k = s.shardDigest c (c.slot c.localBase k) ∧
      (s.ckptShown c t k).wardDigests[k] = s.shardDigest c (c.slot c.wardBase k) := by
  have first := State.setObj_wf w 0x5021 k t
  have second := State.setObj_wf first 0x5021 (k + 2) t
  have lt := k.isLt
  have keeps : KeepsEntry 0x5021 ((s.setObj 0x5021 k t).setObj 0x5021 (k + 2) t) (s.ckptShown c t k) :=
    KeepsEntry.trans (.setObj (by decide) (by omega)) (.of_od rfl)
  refine ⟨?_, ?_, ?_, ?_⟩
  · rw [(keeps second).2 _ (by omega), State.obj_setObj first, if_neg]
    · exact State.obj_setObj_self w _ _ _
    · rw [objKey_inj (by omega) (by omega)]
      omega
  · rw [(keeps second).2 _ (by omega)]
    exact State.obj_setObj_self first _ _ _
  · exact State.obj_setObj_self second _ _ _
  · exact (vmapIdx_getElem _ _ _).trans (if_pos rfl)

theorem SameReads.shardDigest (h : SameReads s t) (c : CkptTable) (slot : Nat) :
    t.shardDigest c slot = s.shardDigest c slot := by
  rw [State.shardDigest, h.bytes, State.shardDigest]

/-! ### The audit records (R428, R429) -/

/-- Each result with a descriptor gives one audit record (R429). -/
theorem State.auditRecs_spec : (s.auditRecs p).length = (s.step.results.filter (fun x => (p.descAt x.1).isSome)).length ∧
    ∀ r ∈ s.auditRecs p, r.step = s.step.current ∧ r.node = p.nodeId ∧
      ∃ d, p.descAt r.desc = some d ∧ r.content = s.contentDigest d := by
  unfold State.auditRecs
  dsimp only []
  refine ⟨?_, fun r hr => ?_⟩
  · rw [List.length_filterMap_eq_countP, ← List.countP_eq_length_filter]
    simp only [Option.isSome_map]
    exact sortBy_perm.countP_eq _
  · obtain ⟨x, -, made⟩ := List.mem_filterMap.1 hr
    obtain ⟨d, desc, rfl⟩ := Option.map_eq_some_iff.1 made
    exact ⟨rfl, rfl, d, desc, rfl⟩

/-! ### The whole commit (R446) -/

/-- The entries that a commit writes after its masks. -/
def commitEntries : List Nat := [0x2505, 0x2A06, 0x3000, 0x3001, 0x3037, 0x5021, 0x5022]

/-- What stands once the masks have committed stands after the whole commit. -/
theorem KeepsEntry.afterMasks (few : p.preds.length ≤ 256) (h : i ∉ commitEntries) :
    KeepsEntry i (((s.countsKept p).commitSets p).commitMasks p) (s.commitStep p) := by
  simp only [commitEntries, List.mem_cons, List.not_mem_nil, or_false, not_or] at h
  obtain ⟨floor, time, event, step, words, ckpt, shard⟩ := h
  have results : KeepsEntry i (((s.countsKept p).commitSets p).commitMasks p) (s.resultsKept p) :=
    (KeepsEntry.commitReference floor event few).trans (.of_od rfl)
  have slots : KeepsEntry i (s.resultsKept p) (s.slotsKept p) :=
    KeepsEntry.trans (t := (s.resultsKept p).auditKept p) (.of_od rfl) (.flipSlots words event)
  exact results.trans (slots.trans ((KeepsEntry.commitCkpt ckpt shard).trans
    ((KeepsEntry.addObj step (by decide)).trans (.setObj time (by decide)))))

/-- What a commit leaves of a state: the step with what it gathered, the image and the values of DOMAIN entries. -/
theorem State.resultsKept_spec : (s.resultsKept p).step = s.step ∧ SameStore s (s.resultsKept p) ∧
    (s.resultsKept p).blobs = s.blobs ∧ (s.resultsKept p).auditLog = s.auditLog ∧ (s.resultsKept p).mgmtIsland = s.mgmtIsland ∧
    (s.resultsKept p).tileStatus = s.step.tiles := by
  obtain ⟨store, step, tiles, blobs, audits, active⟩ := State.countsKept_spec (s := s) (p := p)
  obtain ⟨same, keeps⟩ := State.resultsKept_keeps (s := s) (p := p)
  refine ⟨keeps.step.trans step, store.trans same, keeps.blobs.trans blobs, keeps.auditLog.trans audits,
    keeps.mgmtIsland.trans ?_, keeps.tileStatus.trans tiles⟩
  unfold State.mgmtIsland
  rw [active]

theorem CommitKeeps.commitCkpt : CommitKeeps s (s.commitCkpt p) := (State.commitCkpt_keeps (i := 0)).1

theorem OnlyScalars.stepCounted : OnlyScalars s s.stepCounted := OnlyScalars.addObj.trans .setObj

theorem State.mgmtIsland_audits (l : List AuditRec) : ({ s with auditLog := l }).mgmtIsland = s.mgmtIsland := rfl

theorem State.auditKept_mgmtIsland : (s.auditKept p).mgmtIsland = s.mgmtIsland := State.mgmtIsland_audits _

theorem State.stepCounted_log : s.stepCounted.log = s.log := rfl

theorem CommitKeeps.afterAudit : CommitKeeps ((s.resultsKept p).auditKept p) (s.commitStep p) :=
  (CommitKeeps.flipSlots.trans .commitCkpt).trans (.of_scalars .stepCounted)

/-- The step and the image stand, and the tiles' results are the step's (R105). -/
theorem State.commitStep_frame : (s.commitStep p).step = s.step ∧ (s.commitStep p).plan = s.plan ∧
    (s.commitStep p).tileStatus = s.step.tiles := by
  obtain ⟨step, same, -, -, -, tiles⟩ := State.resultsKept_spec (s := s) (p := p)
  have rest := CommitKeeps.afterAudit (s := s) (p := p)
  exact ⟨rest.step.trans step, rest.plan.trans same.plan, rest.tileStatus.trans tiles⟩

/-- The step is counted (R483). -/
theorem State.commitStep_counted (w : Assoc.wf objDefault s.od = true) (fit : CountsFit s p) :
    (s.commitStep p).obj 0x3001 0 = min (2 ^ 64 - 1) (s.obj 0x3001 0 + 1) := by
  have results : KeepsEntry 0x3001 s (s.resultsKept p) := .resultsKept fit (by decide) (by decide)
  have slots : KeepsEntry 0x3001 s (s.slotsKept p) :=
    results.trans (KeepsEntry.trans (t := (s.resultsKept p).auditKept p) (.of_od rfl) (.flipSlots (by decide) (by decide)))
  obtain ⟨wf, same⟩ := slots.trans (.commitCkpt (by decide) (by decide)) w
  have time : KeepsEntry 0x3001 (((s.slotsKept p).commitCkpt p).addObj 0x3001 0 1)
      ((s.slotsKept p).commitCkpt p).stepCounted := .setObj (by decide) (by decide)
  rw [State.commitStep_eq, (time (State.addObj_wf wf _ _ _)).2 0 (by decide), State.obj_counted wf (m := 2 ^ 64 - 1) rfl,
    same 0 (by decide)]

/-- Every weight set that the step wrote shows the step's version (R289). -/
theorem State.commitStep_sets (w : Assoc.wf objDefault s.od = true) (fit : CountsFit s p) {k : WeightSet}
    (set : p.weightSets[i]? = some k) (wrote : ∃ v ∈ s.step.versions, v.1 = k.verdesc) :
    (s.commitStep p).obj 0x2601 i = s.step.current := by
  obtain ⟨-, step, -⟩ := State.countsKept_spec (s := s) (p := p)
  have counted : Assoc.wf objDefault (s.countsKept p).od = true :=
    (KeepsEntry.countsKept (i := 0) (by decide) fit.counts w).1
  have noted := State.commitSets_shows counted fit.sets set (step ▸ wrote)
  have sets : KeepsEntry 0 (s.countsKept p) ((s.countsKept p).commitSets p) := .commitSets (by decide) (by decide) fit.sets
  have masks : KeepsEntry 0x2601 ((s.countsKept p).commitSets p) (s.commitStep p) :=
    (KeepsEntry.commitMasks (by decide) (by decide) (by
      rw [(CommitKeeps.of_scalars OnlyScalars.commitSets).step, step]
      exact fit.matrices)).trans (.afterMasks fit.preds (by decide))
  have lt := (List.getElem?_eq_some_iff.1 set).1
  rw [(masks (sets counted).1).2 i (by have := fit.sets; omega), noted, step]

/-- Every pending matrix shows the step its mask is of, and its stored entries (R252). -/
theorem State.commitStep_masks (w : Assoc.wf objDefault s.od = true) (fit : CountsFit s p) {m : Nat × Nat}
    (pending : m ∈ s.step.masks) : (s.commitStep p).obj 0x2402 m.1 = m.2 ∧
      (s.commitStep p).obj 0x2403 m.1 = s.storedEntries p m.1 s.step.current := by
  obtain ⟨store, step, -⟩ := State.countsKept_spec (s := s) (p := p)
  have sets : OnlyScalars (s.countsKept p) ((s.countsKept p).commitSets p) := .commitSets
  have same : SameStore s ((s.countsKept p).commitSets p) := store.trans sets.sameStore
  have steps : ((s.countsKept p).commitSets p).step = s.step := (CommitKeeps.of_scalars sets).step.trans step
  have keeps : KeepsEntry 0 s ((s.countsKept p).commitSets p) :=
    (KeepsEntry.countsKept (by decide) fit.counts).trans (.commitSets (by decide) (by decide) fit.sets)
  have wf := (keeps w).1
  have few : ∀ m ∈ ((s.countsKept p).commitSets p).step.masks, m.1 < 256 := steps.symm ▸ fit.matrices
  obtain ⟨shown, entries⟩ := State.commitMasks_shows (p := p) wf few (steps.symm ▸ fit.once) (steps.symm ▸ pending)
  have masked : Assoc.wf objDefault (((s.countsKept p).commitSets p).commitMasks p).od = true :=
    (KeepsEntry.commitMasks (i := 0) (by decide) (by decide) few wf).1
  have after {j : Nat} (h : j ∉ commitEntries) :=
    (KeepsEntry.afterMasks (p := p) (s := s) fit.preds h masked).2 m.1 (fit.matrices m pending)
  rw [after (by decide), after (by decide), shown, entries, same.sameReads.storedEntries, steps]
  exact ⟨rfl, rfl⟩

theorem State.resultsKept_auditing (w : Assoc.wf objDefault s.od = true) (fit : CountsFit s p) :
    (s.resultsKept p).auditing = s.auditing := by
  have keeps : KeepsEntry 0x2A00 s (s.resultsKept p) := .resultsKept fit (by decide) (by decide)
  rw [State.auditing, (keeps w).2 0 (by decide), State.auditing]

/-- The audit log keeps its newest records with the step's (R429). -/
theorem State.commitStep_auditLog : (s.commitStep p).auditLog = keepLog (s.auditLog ++ (s.resultsKept p).commitRecs p) := by
  obtain ⟨-, -, -, audits, -⟩ := State.resultsKept_spec (s := s) (p := p)
  rw [CommitKeeps.afterAudit.auditLog, State.auditKept, audits]

/-- Without auditing the audit log stands. -/
theorem State.commitStep_unaudited (inv : s.Inv) (fit : CountsFit s p) (off : s.auditing = false) :
    (s.commitStep p).auditLog = s.auditLog := by
  have noRecs : (s.resultsKept p).commitRecs p = [] :=
    if_neg (by rw [State.resultsKept_auditing inv.objects fit, off]; exact Bool.false_ne_true)
  rw [State.commitStep_auditLog, noRecs, List.append_nil, keepLog, Nat.sub_eq_zero_of_le inv.audits, List.drop_zero]

/-- With auditing each result of the step has its record (R428, R429). -/
theorem State.commitStep_audited (w : Assoc.wf objDefault s.od = true) (fit : CountsFit s p) (on : s.auditing = true) :
    ∃ recs : List AuditRec,
      (s.commitStep p).auditLog = (s.auditLog ++ recs).drop ((s.auditLog ++ recs).length - 65536) ∧
      recs.length = (s.step.results.filter (fun x => (p.descAt x.1).isSome)).length ∧
      ∀ r ∈ recs, r.step = s.step.current ∧ r.node = p.nodeId ∧
        ∃ d, p.descAt r.desc = some d ∧ r.content = s.contentDigest d := by
  obtain ⟨step, same, -⟩ := State.resultsKept_spec (s := s) (p := p)
  have recs : (s.resultsKept p).commitRecs p = (s.resultsKept p).auditRecs p :=
    if_pos ((State.resultsKept_auditing w fit).trans on)
  obtain ⟨count, each⟩ := State.auditRecs_spec (s := s.resultsKept p) (p := p)
  rw [step] at count each
  refine ⟨(s.resultsKept p).auditRecs p, by rw [State.commitStep_auditLog, recs]; rfl, count, fun r hr => ?_⟩
  obtain ⟨number, node, d, desc, content⟩ := each r hr
  exact ⟨number, node, d, desc, content.trans (same.sameReads.contentDigest d)⟩

/-- Before a commit's checkpoint the step and memory stand where it used no slot. -/
theorem State.slotsKept_unused (unused : s.step.slotsUsed = []) : SameStore s (s.slotsKept p) ∧
    (s.slotsKept p).step = s.step := by
  obtain ⟨step, same, -⟩ := State.resultsKept_spec (s := s) (p := p)
  have flipped : s.slotsKept p = (s.resultsKept p).auditKept p :=
    State.flipSlots_none ((congrArg StepState.slotsUsed step).trans unused)
  rw [flipped]
  exact ⟨⟨same.mem, same.coreMap, same.plan⟩, step⟩

/-- A checkpoint commits with its step: its number and its shard's digests, local and of the ward (R506). -/
theorem State.commitStep_ckpt (w : Assoc.wf objDefault s.od = true) (fit : CountsFit s p) {c : CkptTable} {k : Fin 2}
    (ckpt : p.ckpt = some c) (period : 0 < p.ckptPeriod) (due : s.step.current % p.ckptPeriod = 0)
    (slot : k.val = s.step.current / p.ckptPeriod % 2) (unused : s.step.slotsUsed = []) :
    (s.commitStep p).obj 0x5021 k.val = s.step.current ∧ (s.commitStep p).obj 0x5021 (k.val + 2) = s.step.current ∧
      (s.commitStep p).obj 0x5022 k.val = s.shardDigest c (c.slot c.localBase k) ∧
      (s.commitStep p).wardDigests[k] = s.shardDigest c (c.slot c.wardBase k) := by
  obtain ⟨same, step⟩ := State.slotsKept_unused (p := p) unused
  have results : KeepsEntry 0 s (s.resultsKept p) := .resultsKept fit (by decide) (by decide)
  have slots : KeepsEntry 0 s (s.slotsKept p) :=
    results.trans (KeepsEntry.trans (t := (s.resultsKept p).auditKept p) (.of_od rfl) (.flipSlots (by decide) (by decide)))
  have carries : (s.slotsKept p).ckptStep p = true := by
    unfold State.ckptStep
    rw [step]
    simp [period, due]
  have place : p.ckptSlot s.step.current = k := by
    rw [Plan.ckptSlot, slot, max_eq_right period]
  have shown : (s.slotsKept p).commitCkpt p = (s.slotsKept p).ckptShown c s.step.current k := by
    rw [State.commitCkpt_due ckpt carries, step, place]
  obtain ⟨here, ward, digest, wards⟩ := State.ckptShown_spec (slots w).1 c s.step.current k
  have wf : Assoc.wf objDefault ((s.slotsKept p).ckptShown c s.step.current k).od = true :=
    State.setObj_wf (State.setObj_wf (State.setObj_wf (slots w).1 _ _ _) _ _ _) _ _ _
  have counted {j : Nat} (h : j ≠ 0x3001) (g : j ≠ 0x2A06) :
      KeepsEntry j ((s.slotsKept p).ckptShown c s.step.current k) (s.commitStep p) := by
    rw [State.commitStep_eq, shown]
    exact (KeepsEntry.addObj h (by decide)).trans (.setObj g (by decide))
  have lt := k.isLt
  refine ⟨?_, ?_, ?_, ?_⟩
  · rw [(counted (by decide) (by decide) wf).2 _ (by omega), here]
  · rw [(counted (by decide) (by decide) wf).2 _ (by omega), ward]
  · rw [(counted (by decide) (by decide) wf).2 _ (by omega), digest, same.sameReads.shardDigest]
  · rw [← same.sameReads.shardDigest, ← wards, State.commitStep_eq, shown]
    rfl

/-- The slot of a window that a step used, without auditing and without a checkpoint (R460, R465). -/
theorem State.commitStep_window (w : Assoc.wf objDefault s.od = true) (fit : CountsFit s p) {v : Window} {n : Nat}
    (used : s.step.slotsUsed = [(v.num, n)]) (win : p.window v.num = some v) (off : s.auditing = false)
    (noCkpt : p.ckptPeriod = 0) :
    ((v.num, n) ∉ s.step.slotsPoisoned → (s.commitStep p).mem = ((s.setFlag (p.slotEntry v n) 1).writeRun
      (p.slotEntry v n + 8) (toLe 8 s.step.current ++ List.replicate 80 0)).mem) ∧
    ((v.num, n) ∈ s.step.slotsPoisoned → (s.commitStep p).mem = (s.setFlag (p.slotEntry v n) 3).mem ∧
      Noted (s.commitStep p) 0x4A02 s.mgmtIsland (toLe 1 v.num ++ toLe 4 n)) ∧
    (∀ j : Fin 4, v.notify = true → s.hostUp = true → allZero (s.blob 0x1102 j 18) = false →
      ∃ q, Out.notice (s.blob 0x1102 j 18) q ([2] ++ toLe 1 v.num ++ toLe 8 s.step.current ++ toLe 4 1 ++ toLe 4 n) ∈
        (s.commitStep p).out) := by
  obtain ⟨step, same, blobs, -, island, -⟩ := State.resultsKept_spec (s := s) (p := p)
  have host : KeepsEntry 0x1100 s (s.resultsKept p) := .resultsKept fit (by decide) (by decide)
  have recs : (s.resultsKept p).commitRecs p = [] :=
    if_neg (by rw [State.resultsKept_auditing w fit, off]; exact Bool.false_ne_true)
  have slots : s.slotsKept p = ((s.resultsKept p).auditKept p).flipSlots p [] := by rw [State.slotsKept, recs]
  have ckpt : (s.slotsKept p).commitCkpt p = s.slotsKept p :=
    State.commitCkpt_none fun _ _ => by simp [State.ckptStep, noCkpt]
  have shape : s.commitStep p = (((s.resultsKept p).auditKept p).flipSlots p []).stepCounted := by
    rw [State.commitStep_eq, ckpt, slots]
  have kept : ((s.resultsKept p).auditKept p).step = s.step := step
  have store : SameStore s ((s.resultsKept p).auditKept p) := ⟨same.mem, same.coreMap, same.plan⟩
  obtain ⟨clean, poisoned, told⟩ := State.flipSlots_one (s := (s.resultsKept p).auditKept p) (p := p) (n := n)
    ((congrArg StepState.slotsUsed kept).trans used) win
  have blob (j : Fin 4) : ((s.resultsKept p).auditKept p).blob 0x1102 j 18 = s.blob 0x1102 j 18 := by
    rw [State.blob, State.blob, ← blobs]
    rfl
  have up : (((s.resultsKept p).auditKept p).flipSlot p [] (v.num, n)).hostUp = s.hostUp := by
    obtain ⟨-, entries⟩ := host.trans (KeepsEntry.trans (t := (s.resultsKept p).auditKept p) (.of_od rfl)
      (.flipSlot (p := p) (recs := []) (k := (v.num, n)) (by decide) (by decide))) w
    rw [State.hostUp, entries 5 (by decide), State.hostUp]
  simp only [kept] at clean poisoned told
  rw [shape]
  refine ⟨fun h => (clean h).trans ?_, fun h => ?_, fun j notify live addr => ?_⟩
  · exact store.setFlag.writeRun.mem
  · obtain ⟨mem, noted⟩ := poisoned h
    rw [State.auditKept_mgmtIsland, island] at noted
    refine ⟨mem.trans store.setFlag.mem, ?_⟩
    unfold Noted at noted ⊢
    rwa [State.stepCounted_log]
  · have := told j notify (up.trans live) ((blob j).symm ▸ addr)
    rwa [blob j] at this

end Sys2Proof.Machine
end


section
/-! SUPPORT. The launch of a step (O31): what commits before it leaves the step and its cores, and what starting it makes
of them. -/

namespace Sys2Proof.Machine
variable {s t u : State} {p : Plan} {l : LaunchPlan}

/-! ### What commits at a launch leaves the step -/

/-- The step, its cores and the image in force stand. -/
structure SameRun (s t : State) : Prop where
  step : t.step = s.step
  cores : t.cores = s.cores
  plan : t.plan = s.plan

namespace SameRun

theorem refl (s : State) : SameRun s s := ⟨rfl, rfl, rfl⟩

theorem trans (h : SameRun s t) (g : SameRun t u) : SameRun s u :=
  ⟨g.step.trans h.step, g.cores.trans h.cores, g.plan.trans h.plan⟩

theorem foldl {α : Type} {f : State → α → State} (h : ∀ b x, SameRun b (f b x)) (l : List α) :
    SameRun s (l.foldl f s) := by
  induction l generalizing s with
  | nil => exact refl s
  | cons x l ih => exact (h s x).trans ih

theorem ite {c : Prop} [Decidable c] (h : SameRun s t) (g : SameRun s u) : SameRun s (if c then t else u) := by
  split
  · exact h
  · exact g

theorem of_stores (h : OnlyStores s t) : SameRun s t := by
  unfold OnlyStores at h
  rw [h]
  exact ⟨rfl, rfl, rfl⟩

theorem of_sends (h : OnlySends s t) : SameRun s t := by
  unfold OnlySends at h
  rw [h]
  exact ⟨rfl, rfl, rfl⟩

theorem of_scalars (h : OnlyScalars s t) : SameRun s t := by
  unfold OnlyScalars at h
  rw [h]
  exact ⟨rfl, rfl, rfl⟩

theorem setObj {i j v : Nat} : SameRun s (s.setObj i j v) := ⟨rfl, rfl, rfl⟩

theorem mgmtEvent {c : BitVec 16} {d : Bytes} : SameRun s (s.mgmtEvent c d) := of_stores .mgmtEvent

theorem event {c : BitVec 16} {i : Nat} {d : Bytes} : SameRun s (s.event c i d) := of_stores .event

theorem writeRun {a : Nat} {b : Bytes} : SameRun s (s.writeRun a b) := of_stores .writeRun

/-! Staged values and pins. -/

theorem runProgram {k : Kind} {new : Program} : SameRun s (s.runProgram k new) := by
  have swapped (u : State) : SameRun u u.swapMgmt := by
    unfold State.swapMgmt
    split
    · refine SameRun.trans ?_ .mgmtEvent
      exact ⟨rfl, rfl, rfl⟩
    · exact ⟨rfl, rfl, rfl⟩
  unfold State.runProgram
  refine SameRun.trans (ite ?_ ?_) .mgmtEvent
  · refine SameRun.trans ?_ (swapped _)
    exact ⟨rfl, rfl, rfl⟩
  · exact ⟨rfl, rfl, rfl⟩

theorem setPin {k : Kind} {digest : Nat} : SameRun s (s.setPin k digest) := by
  have pinned : SameRun s { s with pinned := s.pinned.set k digest } := ⟨rfl, rfl, rfl⟩
  unfold State.setPin
  refine ite (refl s) ?_
  dsimp only []
  split
  · exact ite (pinned.trans .runProgram) pinned
  · exact pinned

theorem putValue {k : Nat} {v : Bytes} : SameRun s (s.putValue k v) := by
  unfold State.putValue
  split
  · split
    · exact setPin
    · exact refl s
  · exact setObj

theorem commitStaged {gc : Nat} : SameRun s (s.commitStaged gc) := by
  by_cases held : s.staged = []
  · rw [State.commitStaged_none held]
    exact refl s
  · rw [State.commitStaged_some held]
    have shown : SameRun s (s.stagedShown gc) := ⟨rfl, rfl, rfl⟩
    exact shown.trans (.foldl (fun _ _ => .putValue) _)

theorem epochRisen {gc : Nat} : SameRun s (s.epochRisen gc) := ⟨rfl, rfl, rfl⟩

/-! The activation of an image. -/

theorem valuesPut : SameRun s (s.valuesPut p) :=
  .foldl (fun b _ => by
    split
    · exact .putValue
    · exact .refl b) _

theorem freshSet {w : WeightSet} {n : Nat} : SameRun s (s.freshSet n w) := by
  have dropped : SameRun s { s with setDigests := s.setDigests.filter (fun e => e.1 ≠ n) } := ⟨rfl, rfl, rfl⟩
  exact dropped.trans (SameRun.setObj.trans (of_stores (.foldl (fun _ _ => OnlyStores.setVersion.trans .setVersion) _)))

theorem setsTaken {old : Option Plan} : SameRun s (s.setsTaken p old) :=
  .foldl (fun b x => by
    show SameRun b (b.setTaken p old x.1 x.2)
    unfold State.setTaken
    split
    · exact .ite (.refl b) .freshSet
    · exact .freshSet) _

theorem initWindow {w : Window} : SameRun s (s.initWindow p w) := by
  have numbered : SameRun s (s.windowNumbered w) := ⟨rfl, rfl, rfl⟩
  exact numbered.trans (of_stores .windowWritten)

theorem windowsTaken {old : Option Plan} : SameRun s (s.windowsTaken p old) :=
  .foldl (fun b w => by
    unfold State.windowTaken
    split
    · exact .ite (.refl b) .initWindow
    · exact .initWindow) _

theorem unstuck : SameRun s (s.unstuck p) := by
  unfold State.unstuck
  exact ite (refl s) ⟨rfl, rfl, rfl⟩

/-- An activation leaves the step and its cores, under the image that is now in force. -/
theorem activate : SameRun { s with plan := some p } (s.activate p) := by
  rw [State.activate_eq]
  have swapped : SameRun { s with plan := some p } (s.imageSwapped p).countsEmptied := ⟨rfl, rfl, rfl⟩
  exact swapped.trans ((of_scalars .swapReady).trans (valuesPut.trans (setsTaken.trans (windowsTaken.trans unstuck))))

/-! The core map, rows and routes. -/

theorem commitSpare {x : Sparing} : SameRun s (s.commitSpare x) := by
  have mapped : SameRun s (((({ s with coreMap := s.coreMap.set x.logical x.spare
                                       spares := s.spares.set (coreDie x.logical) none }).setIsland x.physical.val
      .failed).setIsland x.spare.val .run)) := ⟨rfl, rfl, rfl⟩
  exact mapped.trans .mgmtEvent

theorem endTransfer {x : Inbound} : SameRun s (s.endTransfer x) := by
  have dropped : SameRun s (s.dropTransfer x.src x.xid) := ⟨rfl, rfl, rfl⟩
  unfold State.endTransfer
  exact ite (refl s) (ite dropped (dropped.trans (of_sends .sendRouted)))

theorem commitMap : SameRun s s.commitMap := by
  have spares : SameRun s s.commitSpares := by
    unfold State.commitSpares
    refine ite (refl s) ?_
    have moved (u : State) (l : List Sparing) : SameRun u (l.foldl State.commitSpare u) := .foldl (fun _ _ => .commitSpare) _
    have written (u : State) (l : List (Nat × Bytes)) : SameRun u (l.foldl (fun s w => s.writeRun w.1 w.2) u) :=
      .foldl (fun _ _ => .writeRun) _
    have left : SameRun s { s with sparing := s.sparing.filter (fun x => !x.copied) } := ⟨rfl, rfl, rfl⟩
    have emptied (u : State) : SameRun u { u with heldWrites := [] } := ⟨rfl, rfl, rfl⟩
    exact left.trans ((moved _ _).trans ((emptied _).trans (written _ _)))
  unfold State.commitMap
  exact spares.trans (.foldl (fun _ _ => .endTransfer) _)

theorem repairRow {r : Nat} : SameRun s (s.repairRow r) := by
  unfold State.repairRow
  refine ite ?_ ?_
  · refine SameRun.trans ?_ .event
    exact ⟨rfl, rfl, rfl⟩
  · refine SameRun.trans ?_ .event
    exact ⟨rfl, rfl, rfl⟩

theorem repairRows : SameRun s s.repairRows := by
  have one (b : State) (r : Nat) : SameRun b (b.markRow r) := by
    unfold State.markRow
    exact ite (refl b) ⟨rfl, rfl, rfl⟩
  have marked (u : State) (l : List Nat) : SameRun u (l.foldl State.markRow u) := .foldl one _
  have taken (u : State) : SameRun u { u with faultyRows := [] } := ⟨rfl, rfl, rfl⟩
  exact (marked _ _).trans ((taken _).trans (.foldl (fun _ _ => .repairRow) _))

theorem activateSets : SameRun s (s.activateSets p) :=
  .foldl (fun b k => .ite (.refl b) (by
    have active : SameRun b { b with activeSets := b.activeSets ++ [k] } := ⟨rfl, rfl, rfl⟩
    exact active.trans .mgmtEvent)) _

theorem noteLaunch {again : Bool} : SameRun s (s.noteLaunch l again) := by
  have counted : SameRun s (s.launchCounted l) := ite ⟨rfl, rfl, rfl⟩ ⟨rfl, rfl, rfl⟩
  rw [State.noteLaunch_eq]
  exact counted.trans (ite ⟨rfl, rfl, rfl⟩ (refl _))

/-- Whatever commits of the configuration at a launch, it leaves the step and its cores, under the image in force from the
launch (R41, R446). -/
theorem commitConfig {g : Nat} (image : s.imageAt g = some p) :
    SameRun { s with plan := some p } (s.commitConfig (s.swapAt g) g) := by
  have risen (c : Bool) (u : State) : SameRun u (if c then u.epochRisen g else u) := ite .epochRisen (refl u)
  unfold State.imageAt at image
  cases swap : s.swapAt g with
  | none =>
    rw [swap] at image
    have same : SameRun { s with plan := some p } s := ⟨rfl, rfl, image⟩
    exact same.trans (SameRun.commitStaged.trans (risen _ _))
  | some q =>
    rw [swap] at image
    obtain rfl : q = p := Option.some.inj image
    have staged : SameRun { s with plan := some q } { s.commitStaged g with plan := some q } :=
      ⟨SameRun.commitStaged.step, SameRun.commitStaged.cores, rfl⟩
    have counted (u : State) (c : Option Bytes) : SameRun u (match c, q.valueOf 0x5003 0 with
        | some v, none => u.setObj 0x5003 0 (leNat v)
        | _, _ => u) := by
      split
      · exact setObj
      · exact refl u
    exact staged.trans (SameRun.activate.trans ((counted _ _).trans (risen _ _)))

end SameRun

/-- The state at which a launch starts its step: all that is due has committed (R446). -/
def State.launchReady (s : State) (p : Plan) (l : LaunchPlan) (again : Bool) : State :=
  ((s.commitConfig (s.swapAt l.gc) l.gc).commitMap.repairRows.activateSets p).noteLaunch l again

theorem SameRun.launchReady {again : Bool} (image : s.imageAt l.gc = some p) :
    SameRun { s with plan := some p } (s.launchReady p l again) :=
  (SameRun.commitConfig image).trans (SameRun.commitMap.trans (SameRun.repairRows.trans
    (SameRun.activateSets.trans .noteLaunch)))

/-! ### The start of a step (R47, R51, R440) -/

/-- Emptying a stash bank writes memory alone. -/
theorem OnlyRecord.emptyBank {d : Desc} {bank : Nat} : OnlyRecord s (s.emptyBank d bank) := .foldl (fun _ _ => .writeCodes) _

/-- Two states of a run agree in what a launch sets: the step's numbers and times, its cores, the image, the agreement
and the staging lock. -/
structure SameLaunch (s t : State) : Prop where
  status : t.step.status = s.step.status
  current : t.step.current = s.step.current
  launched : t.step.launched = s.step.launched
  lastLaunched : t.step.lastLaunched = s.step.lastLaunched
  launchGc : t.step.launchGc = s.step.launchGc
  planned : t.step.planned = s.step.planned
  cores : t.cores = s.cores
  plan : t.plan = s.plan
  agree : t.agree = s.agree
  stageLock : t.stageLock = s.stageLock

theorem SameLaunch.refl (s : State) : SameLaunch s s := ⟨rfl, rfl, rfl, rfl, rfl, rfl, rfl, rfl, rfl, rfl⟩

theorem SameLaunch.trans (h : SameLaunch s t) (g : SameLaunch t u) : SameLaunch s u where
  status := g.status.trans h.status
  current := g.current.trans h.current
  launched := g.launched.trans h.launched
  lastLaunched := g.lastLaunched.trans h.lastLaunched
  launchGc := g.launchGc.trans h.launchGc
  planned := g.planned.trans h.planned
  cores := g.cores.trans h.cores
  plan := g.plan.trans h.plan
  agree := g.agree.trans h.agree
  stageLock := g.stageLock.trans h.stageLock

theorem OnlyRecord.sameLaunch (h : OnlyRecord s t) : SameLaunch s t := by
  unfold OnlyRecord at h
  rw [h]
  exact ⟨rfl, rfl, rfl, rfl, rfl, rfl, rfl, rfl, rfl, rfl⟩

/-- The banks of the stash that a step writes are empty at its launch (R300). -/
def State.banksEmptied (s : State) (p : Plan) (n : Nat) : State :=
  p.stashDirs.foldl (fun s d => match p.descAt d with
    | some d => s.emptyBank d (n % 2)
    | none => s) s

theorem OnlyRecord.banksEmptied {n : Nat} : OnlyRecord s (s.banksEmptied p n) :=
  .foldl (fun b d => by
    split
    · exact .emptyBank
    · exact .refl b) _

theorem SameLaunch.dropCkpt : SameLaunch s (s.dropCkpt p) := by
  unfold State.dropCkpt
  split
  · exact ⟨rfl, rfl, rfl, rfl, rfl, rfl, rfl, rfl, rfl, rfl⟩
  · exact .refl s

/-- Where no signal is held for a step, none counts at its launch (R50). -/
theorem State.applyHeld_none {n : Nat} {l : List (Core × List (Nat × Fin 64 × Nat))} (unheld : ∀ k ∈ l, k.2 = []) :
    s.applyHeld n l = s := by
  unfold State.applyHeld
  induction l with
  | nil => rfl
  | cons k l ih =>
    rw [List.foldl_cons, unheld k (List.mem_cons_self ..), List.foldl_nil]
    exact ih fun m hm => unheld m (List.mem_cons_of_mem _ hm)

theorem State.startStep_eq : s.startStep p l =
    (let u := (((((s.armStep p l).setObj 0x2600 4 1).banksEmptied p l.step).dropCkpt p).applyHeld l.step
      ((indices 48).map (fun c => (c, s.cores[c].held))))
    if s.step.nextAborts then u.abortStep 0x4104 else u) := rfl

/-- A step that nothing aborts at its launch, and for which no signal is held, starts as it is armed. -/
theorem State.startStep_starts (starts : s.step.nextAborts = false) (unheld : ∀ c : Core, s.cores[c].held = []) :
    SameLaunch (s.armStep p l) (s.startStep p l) := by
  have held : ∀ k ∈ (indices 48).map (fun c => (c, s.cores[c].held)), k.2 = [] := by
    intro k hk
    obtain ⟨c, -, rfl⟩ := List.mem_map.1 hk
    exact unheld c
  rw [State.startStep_eq]
  dsimp only []
  rw [State.applyHeld_none held, starts, if_neg Bool.false_ne_true]
  have shown : OnlyRecord (s.armStep p l) ((s.armStep p l).setObj 0x2600 4 1) := rfl
  exact (shown.trans .banksEmptied).sameLaunch.trans .dropCkpt

theorem State.armStep_core (c : Core) : (s.armStep p l).cores[c].inflight = [] ∧ (s.armStep p l).cores[c].next = 0 ∧
    (s.armStep p l).cores[c].tallies = Vector.replicate 64 0 := by
  have launched : (s.armStep p l).cores[c] = s.cores[c].launch l.step := by simp [State.armStep, vmap]
  rw [launched]
  exact ⟨rfl, rfl, rfl⟩

/-! ### The command (R446) -/

theorem exec_stepLaunch_early (decided : s.agree.decided = some l) (early : s.gc.value < l.gc ∨ s.moduleLost = true) :
    exec .stepLaunch s = .next s := by
  show execStepLaunch s = _
  unfold execStepLaunch
  rw [decided]
  exact if_pos (by obtain h | h := early <;> simp [h])

theorem exec_stepLaunch_due (awake : s.awake = true) (decided : s.agree.decided = some l)
    (boundary : s.step.status ≠ .running) (alive : s.moduleLost = false) (due : l.gc ≤ s.gc.value) (fresh : s.wordsStale = false) :
    exec .stepLaunch s = .next (s.launch l) := by
  show execStepLaunch s = _
  unfold execStepLaunch
  rw [decided]
  dsimp only []
  rw [if_neg (by simp [awake, alive, boundary, due]), if_neg (by simp [fresh])]

/-- The state that a launch finds once the ended step has committed, where one does (R446). -/
def State.launchBase (s : State) (l : LaunchPlan) : State :=
  match s.plan with
  | some p => if !l.relaunch && s.agree.hostLaunch.isNone && s.step.status = .ended then s.commitStep p else s
  | none => s

/-- The launch repeats a step that aborted (R430). -/
def State.launchesAgain (s : State) (l : LaunchPlan) : Bool :=
  l.relaunch || (s.step.launched && s.step.status = .aborted && s.step.current = l.step)

theorem State.launchBase_same (boundary : s.step.status ≠ .ended) : s.launchBase l = s := by
  unfold State.launchBase
  split
  · exact if_neg (by simp [boundary])
  · rfl

theorem State.launchBase_commits (first : l.relaunch = false) (host : s.agree.hostLaunch = none)
    (ended : s.step.status = .ended) (plan : s.plan = some p) : s.launchBase l = s.commitStep p := by
  unfold State.launchBase
  rw [plan]
  exact if_pos (by simp [first, host, ended])

/-- An image that holds the step launches it. -/
theorem State.launch_held (image : (s.launchBase l).imageAt l.gc = some p) (held : p.holdsStep l.step = true) :
    s.launch l = ((s.launchBase l).launchReady p l (s.launchesAgain l)).startStep p l := by
  show (match (s.launchBase l).imageAt l.gc with
    | none => _
    | some p => _) = _
  rw [image]
  exact if_neg (by rw [held]; simp)

/-- The module idles: the agreement is over, with its event, and no step runs (R440). -/
def State.launchIdles (s : State) : State :=
  { (s.mgmtEvent 0x4905 []).endAttempts with step := { (s.mgmtEvent 0x4905 []).endAttempts.step with status := .idle } }

/-- An image that does not hold the step leaves the module idle. -/
theorem State.launch_idle (image : (s.launchBase l).imageAt l.gc = some p) (out : p.holdsStep l.step = false) :
    s.launch l = (s.launchBase l).launchIdles := by
  show (match (s.launchBase l).imageAt l.gc with
    | none => _
    | some p => _) = _
  rw [image]
  exact if_pos (by rw [out]; rfl)

theorem State.launchIdles_spec : s.launchIdles.step.status = .idle ∧ s.launchIdles.agree.decided = none ∧
    s.launchIdles.plan = s.plan ∧ s.launchIdles.mem = s.mem ∧ ∃ e ∈ s.launchIdles.log.recs, e.code = 0x4905 := by
  obtain ⟨e, logged, code, -⟩ := State.mgmtEvent_noted (s := s) (c := 0x4905) (d := []) (by simp)
  exact ⟨rfl, rfl, State.mgmtEvent_plan .., State.mgmtEvent_mem .., e, logged, code⟩

/-- A launch that starts its step (R47, R440, R475). -/
theorem State.launch_starts (image : s.imageAt l.gc = some p) (starts : s.step.nextAborts = false)
    (unheld : ∀ c : Core, s.cores[c].held = []) (again : Bool) :
    let t := (s.launchReady p l again).startStep p l
    t.step.status = .running ∧ t.step.current = l.step ∧ t.step.launched = true ∧ t.step.lastLaunched = l.step ∧
      t.step.launchGc = l.gc ∧ t.step.planned = l.gc + p.launch.period + p.launch.extra l.step ∧ t.stageLock = false ∧
      t.agree = AgreeState.initial ∧ t.plan = some p ∧
      ∀ c : Core, t.cores[c].inflight = [] ∧ t.cores[c].next = 0 ∧ t.cores[c].tallies = Vector.replicate 64 0 := by
  have ready := SameRun.launchReady (again := again) image
  have armed := State.startStep_starts (s := s.launchReady p l again) (p := p) (l := l)
    ((congrArg StepState.nextAborts ready.step).trans starts) (fun c => by rw [ready.cores]; exact unheld c)
  refine ⟨armed.status, armed.current, armed.launched, armed.lastLaunched, armed.launchGc, armed.planned, armed.stageLock,
    armed.agree, armed.plan.trans ready.plan, fun c => ?_⟩
  rw [armed.cores]
  exact State.armStep_core c

/-- A commit leaves the step and its cores. -/
theorem SameRun.commitStep : SameRun s (s.commitStep p) := by
  obtain ⟨step, plan, -⟩ := State.commitStep_frame (s := s) (p := p)
  have audited (u : State) (l : List AuditRec) : SameRun u { u with auditLog := l } := ⟨rfl, rfl, rfl⟩
  have results : (s.resultsKept p).cores = s.cores := State.resultsKept_keeps.2.cores.trans State.commitCounts_keeps.2.cores
  exact ⟨step, CommitKeeps.afterAudit.cores.trans ((audited _ _).cores.trans results), plan⟩

end Sys2Proof.Machine

open Sys2Proof Sys2Proof.Machine

/-- Settles O31: the launch by what commits before it leaving the step and its cores (`SameRun`) and what starting a step
sets (`SameLaunch`); the commits stage by stage, each entry read where its stage writes it and kept through the later ones
(`KeepsEntry`), memory by the states that hold the same bytes (`SameStore`, `SameCells`). -/
theorem stepsLaunchAtTheirCount : Obligations.StepsLaunchAtTheirCount := by
  refine ⟨fun s l awake decided boundary => ⟨?_, ?_, ?_, ?_⟩, fun s p inv fit => ?_,
    fun s gc inv => ⟨State.commitConfig_none, State.commitConfig_staged inv.objects, fun p empty plain sets preds =>
      State.commitConfig_swapped inv.objects empty plain sets preds⟩,
    fun s x _ one copied quiet landed => State.commitMap_serves one copied quiet landed,
    fun s l again inv => ?_⟩
  · exact exec_stepLaunch_early decided
  · intro p alive due fresh image open' held starts unheld
    rw [exec_stepLaunch_due awake decided boundary alive due fresh]
    have base : s.launchBase l = s := State.launchBase_same open'
    rw [State.launch_held (base.symm ▸ image) held, base]
    exact ⟨_, rfl, State.launch_starts image starts unheld _⟩
  · intro p alive due fresh image open' out
    rw [exec_stepLaunch_due awake decided boundary alive due fresh]
    have base : s.launchBase l = s := State.launchBase_same open'
    rw [State.launch_idle (base.symm ▸ image) out, base]
    obtain ⟨idle, decision, plan, -, logged⟩ := State.launchIdles_spec (s := s)
    exact ⟨_, rfl, idle, decision, plan, logged⟩
  · intro pl p alive due first host ended plan u image
    have fresh : s.wordsStale = false := by simp [State.wordsStale, ended]
    have base : s.launchBase l = u := State.launchBase_commits first host ended plan
    rw [exec_stepLaunch_due awake decided boundary alive due fresh]
    refine ⟨fun held => ?_, fun out => ?_⟩
    · have once : s.launchesAgain l = false := by simp [State.launchesAgain, first, ended]
      rw [State.launch_held (base.symm ▸ image) held, base, once]
      refine ⟨rfl, fun starts unheld => ⟨_, rfl, ?_⟩⟩
      have same : SameRun s u := .commitStep
      obtain ⟨status, current, -, -, count, -, -, -, force, -⟩ := State.launch_starts image
        ((congrArg StepState.nextAborts same.step).trans starts) (fun c => by rw [same.cores]; exact unheld c) false
      exact ⟨status, current, count, force⟩
    · rw [State.launch_idle (base.symm ▸ image) out, base]
      obtain ⟨idle, -, -, mem, logged⟩ := State.launchIdles_spec (s := u)
      exact ⟨_, rfl, idle, mem, logged⟩
  · have w := inv.objects
    obtain ⟨step, plan, tiles⟩ := State.commitStep_frame (s := s) (p := p)
    refine ⟨step, plan, tiles, State.commitStep_counted w fit, fun i k => State.commitStep_sets w fit, fun m pending => ?_,
      State.commitStep_unaudited inv fit, State.commitStep_audited w fit,
      fun c k ckpt period due slot unused => State.commitStep_ckpt w fit ckpt period due slot unused,
      fun k i used win off noCkpt => State.commitStep_window w fit used win off noCkpt⟩
    obtain ⟨shown, entries⟩ := State.commitStep_masks w fit pending
    exact ⟨shown, fun k d set desc => entries.trans (State.storedEntries_sum set desc)⟩
  · have w := inv.objects
    obtain ⟨count, shift⟩ := State.launchCounted_shown (l := l) w
    refine ⟨?_, ?_, fun again' => ?_, State.noteLaunch_replayLog w again, State.noteLaunch_off w again⟩
    · rw [State.noteLaunch_obj, count]
    · rw [State.noteLaunch_obj, shift]
    · rw [State.noteLaunch_obj, State.launchCounted_relaunch w again']
end

section
/-! SUPPORT. The answering of requests (O45; R461, R462, R471, R483): requests that do not execute, the check that a refused
one fails, and what a response to a host leaves. -/

namespace Sys2Proof.Machine

variable {s : State} {q : Req} {st : Status}

/-! ### Requests that do not execute -/

/-- Where nothing hears a requester, its request changes nothing. -/
theorem State.serve_unheard (deaf : s.answers q.src = false) : s.serve q = .next s := by
  unfold State.serve
  rw [deaf]
  rfl

/-- A repeated request is answered from its kept response (R462). -/
theorem State.serve_repeated {r : Response} (heard : s.answers q.src = true) (kept : s.keptResponse q = some r) :
    s.serve q = .next (s.replay q.src r) := by
  unfold State.serve
  rw [heard, kept]
  rfl

/-- A request that fails a check executes nothing but what its refusal notes (R471). -/
theorem State.execute_refused (refused : (s.touch q.src).screen q = st) (bad : st ≠ .ok) :
    s.execute q = ((s.touch q.src).noteRefusal q st, ⟨st, [], false⟩) := by
  unfold State.execute
  dsimp only []
  rw [refused]
  split
  · contradiction
  · rfl

/-- A request that fails a check is answered its status (R471). -/
theorem State.serve_refused (heard : s.answers q.src = true) (fresh : s.keptResponse q = none)
    (refused : (s.touch q.src).screen q = st) (bad : st ≠ .ok) :
    s.serve q = .next (((s.touch q.src).noteRefusal q st).replied q ⟨st, [], false⟩) := by
  unfold State.serve
  rw [heard, fresh, State.execute_refused refused bad]
  rfl

/-- A failing list of checks has a first check that fails, and gives its status. -/
theorem firstFail_first {l : List (Bool × Status)} (fails : firstFail l = st) (bad : st ≠ .ok) :
    ∃ i, ∃ h : i < l.length, l[i] = (false, st) ∧ ∀ j, ∀ h' : j < i, (l[j]'(by omega)).1 = true := by
  induction l with
  | nil => exact absurd fails.symm bad
  | cons x l ih =>
    obtain ⟨holds, x⟩ := x
    cases holds with
    | false =>
      obtain rfl : x = st := fails
      exact ⟨0, by simp, rfl, fun j h => absurd h (Nat.not_lt_zero j)⟩
    | true =>
      obtain ⟨i, lt, first, before⟩ := ih fails
      refine ⟨i + 1, by simpa using lt, first, fun j h => ?_⟩
      cases j with
      | zero => rfl
      | succ j => exact before j (by omega)

/-- Only a refused signature, value or state leaves more than its answer (R352, R449, R471, R494). -/
theorem State.noteRefusal_quiet (signature : st ≠ .signature) (range : st ≠ .range) (state : st ≠ .state) :
    s.noteRefusal q st = s := by
  simp [State.noteRefusal, signature, range, state]

/-! ### Kept responses (R462) -/

/-- The newest entry of a list stays when older ones are dropped. -/
theorem lookupKey_newest {κ β : Type} [DecidableEq κ] (k : κ) (v : β) (l : List (κ × β)) {n : Nat}
    (stays : n ≤ (dropKey k l).length) : lookupKey k ((dropKey k l ++ [(k, v)]).drop n) = some v := by
  have older : lookupKey k ((dropKey k l).drop n) = none :=
    lookupKey_none fun e mem => by simpa using (List.mem_filter.1 (List.mem_of_mem_drop mem)).2
  rw [List.drop_append_of_le_length stays, lookupKey_append, older]
  simp [lookupKey]

/-- A response that is kept answers the request's repetition (R462). -/
theorem State.keptResponse_keep (r : Response) : (s.keep q r).keptResponse q = some r := by
  have kept : (s.keep q r).keptResponse q = lookupKey q.h.iseq
      ((dropKey q.h.iseq ((lookupKey q.src s.mgmt.kept).getD []) ++ [(q.h.iseq, r)]).drop
        ((dropKey q.h.iseq ((lookupKey q.src s.mgmt.kept).getD []) ++ [(q.h.iseq, r)]).length - 64)) := by
    simp [State.keptResponse, State.keep]
  rw [kept]
  exact lookupKey_newest _ _ _ (by simp)

/-! ### What a response to a host leaves -/

section Host
variable {ip : Nat} {port : BitVec 16} (host : q.src = .host ip port) (a : Answer)
include host

/-- A response to a host changes the counts of requests, the kept responses and what is sent (R461, R462, R483). -/
theorem State.replied_host : s.replied q a = { s with
    od := (s.replied q a).od, out := s.out ++ [.response q.src (q.response a)],
    mgmt := { s.mgmt with kept := (s.replied q a).mgmt.kept } } := by
  unfold State.replied State.countStatus State.respond
  rw [host]
  dsimp only []
  split <;> rfl

theorem State.replied_keptResponse : (s.replied q a).keptResponse q = some (q.response a) := by
  have kept := State.keptResponse_keep (s := (s.addObj 0x3003 0 1).countStatus a.st.code) (q := q) (q.response a)
  rw [← kept]
  unfold State.replied State.respond
  rw [host]
  rfl

/-- The counts of requests are those of one entry (R483). -/
theorem KeepsEntry.replied {i : Nat} (other : i ≠ 0x3003) : KeepsEntry i s (s.replied q a) := by
  have status (u : State) : KeepsEntry i u (u.countStatus a.st.code) := by
    unfold State.countStatus
    split
    · exact .of_od rfl
    · exact .addObj other (by decide)
  have counted : KeepsEntry i s ((s.addObj 0x3003 0 1).countStatus a.st.code) := .trans (.addObj other (by decide)) (status _)
  refine counted.trans (.of_od ?_)
  unfold State.replied State.respond
  rw [host]
  rfl

end Host

end Sys2Proof.Machine

open Sys2Proof Sys2Proof.Machine

/-- Settles O45: the four ends of `State.serve` (unheard, repeated, refused, accepted), and what a response to a host
leaves. -/
theorem requestsAreAnswered : Obligations.RequestsAreAnswered := by
  refine ⟨fun s q => ⟨State.serve_unheard, fun r heard kept => State.serve_repeated heard kept,
    fun st heard fresh refused bad => ⟨State.serve_refused heard fresh refused bad, firstFail_first refused bad⟩,
    fun accepted op => ?_, State.serve_accepted⟩, fun s q a ip port inv host => ⟨State.replied_host host a, rfl, rfl,
    State.replied_keptResponse host a, fun idx sub other lt => ((KeepsEntry.replied host a other) inv.objects).2 sub lt,
    fun st quiet => ?_⟩⟩
  · have read : (s.touch q.src).perform q = (s.touch q.src, (s.touch q.src).execRead q) := by simp [State.perform, op]
    rw [State.serve_accepted accepted, read]
  · simp only [List.mem_cons, List.not_mem_nil, or_false] at quiet
    refine State.noteRefusal_quiet ?_ ?_ ?_ <;> rintro rfl <;> simp at quiet
end

section
/-! SUPPORT. Reads (O46; R461, R463, R512, R540): what a snapshot taken at offset 0 holds and answers, and what it leaves. -/

namespace Sys2Proof.Machine

variable {s : State} {q : Req}

/-- A snapshot changes only management's snapshots and, of the event log, which records are read (R463, R490). -/
theorem State.takeSnapshot_frame : (s.takeSnapshot q).1 = { s with
    log := (s.takeSnapshot q).1.log,
    mgmt := { s.mgmt with snapshots := (s.takeSnapshot q).1.mgmt.snapshots } } := by
  unfold State.takeSnapshot State.afterSnapshot
  dsimp only []
  split <;> rfl

/-- The snapshot a source has taken is the one it reads (R463). -/
theorem State.takeSnapshot_snapshotOf : ((s.takeSnapshot q).1.snapshotOf q).map Snapshot.bytes =
    some (s.domain (s.selection q.src) q.idx q.sub) := by
  simp [State.takeSnapshot, State.snapshotOf]

/-- An accepted SEG_READ from offset 0 takes a snapshot and answers its first bytes (R461, R463). -/
theorem State.serve_snapshot (h : Accepted s q) (op : q.op = 3) (bounded : q.inPlace = false) (first : q.h.ioffset = 0) :
    let b := (s.touch q.src).domain ((s.touch q.src).selection q.src) q.idx q.sub
    ∃ u : State, s.serve q = .next (u.replied q ⟨.ok, slice b 0 q.wanted, decide (b.length ≤ q.wanted)⟩) ∧
      (u.snapshotOf q).map Snapshot.bytes = some b ∧ u.mem = s.mem ∧ u.step = s.step ∧ u.plan = s.plan := by
  intro b
  have read : (s.touch q.src).perform q = (((s.touch q.src).takeSnapshot q).1,
      ⟨.ok, slice b 0 q.wanted, decide (b.length ≤ q.wanted)⟩) := by
    have off : q.h.ioffset.toNat = 0 := by rw [first]; rfl
    simp only [State.perform, op, State.execSegRead, bounded, off, ↓reduceIte, Bool.false_eq_true, Nat.zero_add]
    rfl
  have frame := State.takeSnapshot_frame (s := s.touch q.src) (q := q)
  refine ⟨((s.touch q.src).takeSnapshot q).1, ?_, State.takeSnapshot_snapshotOf, ?_, ?_, ?_⟩
  · rw [State.serve_accepted h, read]
  all_goals rw [frame]; rfl

/-- An accepted read-out in place answers the bytes of the address map from the address set (R512). -/
theorem State.perform_inPlace (op : q.op = 3) (place : q.inPlace = true) : s.perform q =
    (s, ⟨.ok, s.readOut (s.obj 0x3F01 0 + q.h.ioffset.toNat) q.wanted, false⟩) := by
  simp [State.perform, op, State.execSegRead, place]

end Sys2Proof.Machine

open Sys2Proof Sys2Proof.Machine

/-- Settles O46: each command serves its request, which is accepted, and a read from offset 0 that is not in place takes a
snapshot. -/
theorem readsAnswerValues : Obligations.ReadsAnswerValues := by
  intro s src h idx sub b v
  refine ⟨?_, ?_, ?_, ?_, ?_⟩
  · exact State.serve_accepted
  · intro q accepted bounded first
    exact State.serve_snapshot accepted rfl bounded first
  · exact State.serve_accepted
  · intro q accepted
    have go : s.serve q = _ := State.serve_accepted accepted
    rwa [State.perform_inPlace rfl rfl] at go
  · intro q accepted first
    obtain ⟨u, go, -, mem, step, -⟩ := State.serve_snapshot accepted rfl rfl first
    exact ⟨u, go, mem, step⟩
end

section
/-! SUPPORT. Frames from peers (O51; R461, R464): the `MGMT` flit that asks, the write that must be signed, and the fields of
the frame that answers. -/

namespace Sys2Proof.Machine

variable {s u : State} {p : Port} {f : Flit} {q : Req}

/-! ### The flit that asks -/

/-- A `MGMT` flit for this module is delivered whatever its epoch (R396). -/
theorem State.routed_mgmt (valid : s.obj 0x1104 1 ≠ 0) (here : f.dst = s.nodeId) (act : State → State) :
    (s.taken p f).routed p 0x0D f act = act (s.delivered p f) := by
  have k : OnlyPorts s (s.taken p f) := OnlyPorts.taken
  have g : OnlyPorts s (s.delivered p f) := OnlyPorts.delivered
  unfold State.routed
  rw [k.obj, k.nodeId, if_neg (by simp [here])]
  change (if (s.delivered p f).obj 0x1104 1 = 0 then _ else _) = _
  rw [g.obj, if_neg valid, if_neg (by simp)]
  rfl

section Mgmt
variable (order : InOrder s p f) (valid : s.obj 0x1104 1 ≠ 0) (here : f.dst = s.nodeId)
include order valid here

/-- A response asks for nothing (R464). -/
theorem exec_mgmt_response (answer : (fieldAt f.payload 2 2).testBit 2 = true) :
    exec (.mgmt p f) s = .next (s.delivered p f) := by
  change execMgmt p f s = _
  unfold execMgmt
  rw [State.seqFlit_inOrder order, State.routed_mgmt valid here, if_pos answer]

/-- A request is served by the module that has taken its flit (R464). -/
theorem exec_mgmt_request (asks : (fieldAt f.payload 2 2).testBit 2 = false)
    (served : (s.delivered p f).serve (peerRequest f.src f.payload) = .next u) : exec (.mgmt p f) s = .next u := by
  change execMgmt p f s = _
  unfold execMgmt
  rw [State.seqFlit_inOrder order, State.routed_mgmt valid here, if_neg (by simp [asks]), served]

end Mgmt

/-- A peer's frame carries at most 200 bytes of payload (R464). -/
theorem peerRequest_payload (node : BitVec 16) (b : Bytes) : (peerRequest node b).payload.length ≤ 200 := by
  simp only [peerRequest, slice, List.length_take]
  omega

/-! ### Writes that must be signed (R464, R491, R494) -/

/-- A peer never makes a write that must be signed: its signature is missing (R464). -/
theorem State.signatureFault_peer (peer : q.fromPeer = true) (writes : q.reads = false)
    (must : s.mustSign q.idx q.sub = true) : s.signatureFault q = some 4 := by
  simp [State.signatureFault, peer, writes, must]

/-- Of a request that passes the first four checks, a fault of its signature is the status (R471). -/
theorem State.screen_signature {n : Nat} (before : (s.checks q).take 4 =
    [(true, .badFrame), (true, .noObject), (true, .noSubindex), (true, .access)]) (fault : s.signatureFault q = some n) :
    s.screen q = .signature := by
  have fifth : (s.checks q).drop 4 = (false, .signature) :: (s.checks q).drop 5 := by simp [State.checks, fault]
  rw [State.screen, ← List.take_append_drop 4 (s.checks q), before, fifth]
  rfl

/-- A refused signature is noted with its reason, and what the request would have written stands (R483, R494). -/
theorem State.noteRefusal_signature {n : Nat} (fault : s.signatureFault q = some n) :
    let t := s.noteRefusal q .signature
    t.mem = s.mem ∧ t.step = s.step ∧ t.staged = s.staged ∧ t.nv = s.nv ∧
      Noted t 0x7101 s.mgmtIsland (toLe 2 q.idx ++ toLe 1 q.sub ++ toLe 1 n) := by
  have noted : s.noteRefusal q .signature =
      (s.addObj 0x3003 3 1).mgmtEvent 0x7101 (toLe 2 q.idx ++ toLe 1 q.sub ++ toLe 1 n) := by
    simp [State.noteRefusal, fault]
  rw [noted]
  exact ⟨State.mgmtEvent_mem .., State.mgmtEvent_step .., State.mgmtEvent_staged .., State.mgmtEvent_nv ..,
    State.mgmtEvent_noted (s := s.addObj 0x3003 3 1) (by simp [toLe_length])⟩

/-- A peer's request for what must be signed is answered `SIGNATURE`, with reason 4 (R464, R471, R494; log entry 55). -/
theorem State.serve_unsigned (heard : s.answers q.src = true) (fresh : s.keptResponse q = none) (peer : q.fromPeer = true)
    (writes : q.reads = false) (must : (s.touch q.src).mustSign q.idx q.sub = true)
    (before : ((s.touch q.src).checks q).take 4 =
      [(true, .badFrame), (true, .noObject), (true, .noSubindex), (true, .access)]) :
    ∃ u : State, s.serve q = .next (u.replied q ⟨.signature, [], false⟩) ∧ u.mem = s.mem ∧ u.step = s.step ∧
      u.staged = s.staged ∧ u.nv = s.nv ∧ Noted u 0x7101 s.mgmtIsland (toLe 2 q.idx ++ toLe 1 q.sub ++ [4]) := by
  have fault := State.signatureFault_peer peer writes must
  have refused := State.screen_signature before fault
  exact ⟨_, State.serve_refused heard fresh refused (by decide), State.noteRefusal_signature fault⟩

/-! ### The frame that answers (R461) -/

theorem leNat_toLe (n v : Nat) : leNat (toLe n v) = v % 256 ^ n := by
  induction n generalizing v with
  | zero => simp [toLe, leNat, Nat.mod_one]
  | succ n ih =>
    rw [Nat.pow_succ', Nat.mod_mul, toLe, leNat, ih, BitVec.toNat_ofNat]

/-- A field reads back as it was written at its place. -/
theorem fieldAt_toLe {pre : Bytes} {off : Nat} (place : pre.length = off) (n v : Nat) (post : Bytes) :
    fieldAt (pre ++ (toLe n v ++ post)) off n = v % 256 ^ n := by
  have field : slice (pre ++ (toLe n v ++ post)) off n = toLe n v := by
    rw [slice, List.drop_left' place, List.take_left' (toLe_length n v)]
  rw [fieldAt, field, leNat_toLe]

variable (r : Response)

/-- A response's payload is cut at 200 bytes after the header of 24 (R464). -/
theorem Response.frame_length : r.frame.length = 24 + min 200 r.payload.length := by
  simp [Response.frame, toLe_length]
  omega

theorem Response.frame_flags : fieldAt r.frame 2 2 = r.iflags.toNat := by
  have field := fieldAt_toLe (pre := [1, r.iop]) rfl 2 r.iflags.toNat (toLe 4 r.iseq.toNat ++ toLe 2 r.idx.toNat ++ [r.sub] ++
    toLe 1 r.istatus ++ toLe 8 r.ioffset.toNat ++ toLe 2 (r.payload.take 200).length ++ [0, 0] ++ r.payload.take 200)
  rw [Nat.mod_eq_of_lt (show _ < 256 ^ 2 from r.iflags.isLt)] at field
  rw [← field]
  simp [Response.frame]

theorem Response.frame_payloadLength : fieldAt r.frame 20 2 = min 200 r.payload.length := by
  have field := fieldAt_toLe (off := 20) (pre := [1, r.iop] ++ toLe 2 r.iflags.toNat ++ toLe 4 r.iseq.toNat ++
    toLe 2 r.idx.toNat ++ [r.sub] ++ toLe 1 r.istatus ++ toLe 8 r.ioffset.toNat) (by simp [toLe_length]) 2
    (r.payload.take 200).length ([0, 0] ++ r.payload.take 200)
  rw [List.length_take, Nat.mod_eq_of_lt (by omega)] at field
  rw [← field]
  simp [Response.frame]

end Sys2Proof.Machine

open Sys2Proof Sys2Proof.Machine

/-- Settles O51: a `MGMT` flit is served as `State.serve` says, on the module that has taken it, and the frame that answers
by its fields. -/
theorem peersAreServed : Obligations.PeersAreServed := by
  refine ⟨fun s p f order valid here => ?_, fun q a => ?_⟩
  · intro t
    refine ⟨exec_mgmt_response order valid here, fun asks => ?_⟩
    intro q v
    refine ⟨rfl, rfl, peerRequest_payload _ _, fun accepted => ?_, fun heard fresh writes must before => ?_⟩
    · exact exec_mgmt_request order valid here asks (State.serve_accepted accepted)
    · obtain ⟨u, served, kept⟩ := State.serve_unsigned heard fresh rfl writes must before
      refine ⟨u, exec_mgmt_request order valid here asks served, ?_⟩
      have base : OnlyPorts s t := .delivered
      rw [base] at kept
      exact kept
  · intro b
    have length : b.length = 24 + min 200 (q.response a).payload.length := Response.frame_length _
    have payload : fieldAt b 20 2 = min 200 (q.response a).payload.length := Response.frame_payloadLength _
    have flags : fieldAt b 2 2 = if a.last then 6 else 4 := by
      rw [Response.frame_flags]
      cases last : a.last <;> simp [Req.response, last]
    rw [length, payload, flags]
    refine ⟨by omega, by omega, by omega, ?_, ?_⟩ <;> cases a.last <;> decide
end

section
/-! SUPPORT. The host link (O43; R450, R451): what its going and coming leave, and what the port hears. -/

namespace Sys2Proof.Machine

variable {s : State}

/-! ### The link -/

/-- The link shows a state with its event (R451). -/
def State.linkShown (s : State) (v : Nat) (code : BitVec 16) : State := (s.setObj 0x1100 5 v).event code 0x70 []

/-- What the link shows is read back, and only logging has changed beside it. -/
theorem State.linkShown_shows (w : Assoc.wf objDefault s.od = true) (v : Nat) (code : BitVec 16) :
    (s.linkShown v code).hostUp = decide (v = 1) ∧ (s.linkShown v code).step = s.step ∧ (s.linkShown v code).mem = s.mem ∧
      Logged s (s.linkShown v code) code 0x70 [] := by
  have logs := State.event_onlyLogs (State.setObj_wf w 0x1100 5 v) code 0x70 []
  have shown : (s.linkShown v code).obj 0x1100 5 = v := by
    rw [State.linkShown, logs.objects 0x1100 5 (by decide) (by decide), State.obj_setObj_self w]
  exact ⟨by rw [State.hostUp, shown], State.event_step .., State.event_mem ..,
    State.event_logged_since (u := s.setObj 0x1100 5 v) rfl rfl (by decide)⟩

theorem exec_hostLinkDown (phase : s.phase = .up) :
    exec .hostLinkDown s = .next (if s.hostUp then s.linkShown 0 0x6401 else s) := if_pos phase

theorem exec_hostLinkUp (phase : s.phase = .up) (down : s.hostUp = false) (clock : s.hostPllLost = false)
    (lit : s.groupLit 0 ≠ 0) : exec .hostLinkUp s = .next (s.linkShown 1 0x6402) :=
  if_neg (by simp [phase, down, clock, lit])

/-! ### Frames -/

/-- A port that is up hears while its link is. -/
theorem State.hostHears_up (phase : s.phase = .up) : s.hostHears = s.hostUp := by simp [State.hostHears, phase]

theorem exec_hostFrameDiscard (phase : s.phase = .up) :
    exec .hostFrameDiscard s = .next (if s.hostUp then s.addObj 0x3049 0 1 else s) := by
  change execHostFrameDiscard s = _
  rw [execHostFrameDiscard, State.hostHears_up phase]
  split <;> rfl

/-- A neighbour protocol that asks for the port is answered over a link that is up, another request discarded (R450). -/
theorem exec_neighbourReply (phase : s.phase = .up) (n : Neighbour) : exec (.neighbourReply n) s =
    .next (if s.hostUp then if s.answersTo n then { s with out := s.out ++ [.neighbour n] } else s.addObj 0x3049 0 1
      else s) := by
  change execNeighbourReply n s = _
  rw [execNeighbourReply, State.hostHears_up phase]
  cases s.hostUp <;> cases s.answersTo n <;> rfl

/-- Requests by IPv4 ask for `HOST_IPV4`, once it is written (R450, R466). -/
theorem State.answersTo_ipv4 (a : BitVec 32) {n : Neighbour} (h : n ∈ [Neighbour.arp a, .icmpEcho a]) :
    s.answersTo n = true ↔ s.obj 0x1100 1 ≠ 0 ∧ a.toNat = s.obj 0x1100 1 := by
  simp only [List.mem_cons, List.not_mem_nil, or_false] at h
  obtain rfl | rfl := h
  all_goals simp [State.answersTo]

/-- Requests by IPv6 ask for the port's IPv6 address (R450). -/
theorem State.answersTo_ipv6 (a : BitVec 128) {n : Neighbour} (h : n ∈ [Neighbour.neighbourSolicitation a, .icmpv6Echo a]) :
    s.answersTo n = true ↔ a.toNat = s.hostIpv6 := by
  simp only [List.mem_cons, List.not_mem_nil, or_false] at h
  obtain rfl | rfl := h
  all_goals simp [State.answersTo]

end Sys2Proof.Machine

open Sys2Proof Sys2Proof.Machine

/-- Settles O43: the link by what showing its state leaves, and each frame by whether the link is up. -/
theorem hostLinkComesAndGoes : Obligations.HostLinkComesAndGoes := by
  intro s inv phase
  have w := inv.objects
  refine ⟨fun up => ⟨?_, ?_, fun n => ?_⟩, fun a n => State.answersTo_ipv4 a, fun a n => State.answersTo_ipv6 a, fun down => ?_,
    fun down clock lit => ?_⟩
  · obtain ⟨link, step, mem, logged⟩ := State.linkShown_shows w 0 0x6401
    exact ⟨_, by rw [exec_hostLinkDown phase, if_pos up], link, step, mem, logged⟩
  · exact ⟨s.addObj 0x3049 0 1, by rw [exec_hostFrameDiscard phase, if_pos up], rfl, State.obj_addObj w 0x3049 0 1⟩
  · rw [exec_neighbourReply phase n, if_pos up]
    exact ⟨fun own => by rw [if_pos own], fun other => by rw [other]; rfl⟩
  · rw [exec_hostLinkDown phase, exec_hostFrameDiscard phase]
    exact ⟨by simp [down], by simp [down], fun n => by simp [exec_neighbourReply phase, down]⟩
  · obtain ⟨link, step, -, logged⟩ := State.linkShown_shows w 1 0x6402
    exact ⟨_, exec_hostLinkUp phase down clock lit, link, step, logged⟩
end

section
/-! SUPPORT. Timers of transfers and snapshots (O50; R463). -/

namespace Sys2Proof.Machine

variable {s : State}

/-- A transfer that is discarded leaves management, memory, plan and step, as it changes the entry's status alone. -/
theorem State.dropStaged_keeps (idx sub : Nat) : (s.dropStaged idx sub).mgmt = s.mgmt ∧ (s.dropStaged idx sub).mem = s.mem ∧
    (s.dropStaged idx sub).plan = s.plan ∧ (s.dropStaged idx sub).step = s.step := by
  unfold State.dropStaged
  split
  · exact ⟨rfl, rfl, rfl, rfl⟩
  · split <;> exact ⟨rfl, rfl, rfl, rfl⟩

section Transfers
variable {idx : BitVec 16} {sub : BitVec 8} {x : Transfer}
  (going : lookupKey (objKey idx.toNat sub.toNat) s.mgmt.transfers = some x)
include going

/-- Ten seconds without a segment end a transfer (R463). -/
theorem exec_segTransferTimeout_late (phase : s.phase = .up) (late : x.last + tenSeconds ≤ s.uptime) :
    exec (.segTransferTimeout idx sub) s = .next (State.dropStaged { s with mgmt := { s.mgmt with
      transfers := dropKey (objKey idx.toNat sub.toNat) s.mgmt.transfers } } idx.toNat sub.toNat) := by
  change execSegTransferTimeout idx sub s = _
  unfold execSegTransferTimeout
  dsimp only []
  rw [going]
  exact if_pos (by simp [phase, late])

theorem exec_segTransferTimeout_early (early : s.uptime < x.last + tenSeconds) :
    exec (.segTransferTimeout idx sub) s = .next s := by
  change execSegTransferTimeout idx sub s = _
  unfold execSegTransferTimeout
  dsimp only []
  rw [going]
  exact if_neg (by simp [early])

end Transfers

/-- The snapshots that the timer of a source and an entry leaves: those of others, and those read within ten seconds
(R463). -/
def State.unexpired (s : State) (src : Source) (key : Nat) : List Snapshot :=
  s.mgmt.snapshots.filter (fun x => !(x.src = src && x.key = key && decide (x.last + tenSeconds ≤ s.uptime)))

theorem State.mem_unexpired {src : Source} {key : Nat} {x : Snapshot} : x ∈ s.unexpired src key ↔
    x ∈ s.mgmt.snapshots ∧ ¬ (x.src = src ∧ x.key = key ∧ x.last + tenSeconds ≤ s.uptime) := by
  rw [State.unexpired, List.mem_filter, ← and_assoc (a := x.src = src)]
  simp only [Bool.not_eq_true', ← Bool.not_eq_true, Bool.and_eq_true, decide_eq_true_eq]

theorem exec_snapshotExpiry (phase : s.phase = .up) (src : Source) (idx : BitVec 16) (sub : BitVec 8) :
    exec (.snapshotExpiry src idx sub) s =
      .next { s with mgmt := { s.mgmt with snapshots := s.unexpired src (objKey idx.toNat sub.toNat) } } :=
  if_neg (not_not.2 phase)

end Sys2Proof.Machine

open Sys2Proof Sys2Proof.Machine

/-- Settles O50: each timer acts where its ten seconds have passed. -/
theorem transfersAndSnapshotsExpire : Obligations.TransfersAndSnapshotsExpire := by
  intro s idx sub phase
  refine ⟨fun x going => ⟨fun late => ?_, exec_segTransferTimeout_early going⟩, fun src =>
    ⟨_, exec_snapshotExpiry phase src idx sub, rfl, fun x => State.mem_unexpired⟩⟩
  obtain ⟨mgmt, mem, plan, step⟩ := State.dropStaged_keeps (s := { s with mgmt := { s.mgmt with
    transfers := dropKey (objKey idx.toNat sub.toNat) s.mgmt.transfers } }) idx.toNat sub.toNat
  exact ⟨_, exec_segTransferTimeout_late going phase late, by rw [mgmt], mem, plan, step⟩
end

section
/-! SUPPORT. Plain and staged writes (O48; R470, R474, R518): which entries act when they are written, and what a write
to any other does. -/

namespace Sys2Proof.Machine

variable {s : State} {q : Req}

/-! ### Entries that act -/

/-- The indexes that act on a write at every subindex: selections, logs, keys, scans, restores and pins (R470). -/
def actingIndexes : List Nat :=
  [0x3011, 0x302F, 0x2802, 0x6000, 0x1104, 0x1200, 0x6001, 0x1006, 0x2708, 0x5023, 0x5104]

/-- A write to the entry starts something, or chooses what is read (R470); every other entry is plain. -/
def actsOnWrite (idx sub : Nat) : Prop :=
  idx ∈ actingIndexes ∨ (idx = 0x2A03 ∧ sub = 0) ∨ (idx = 0x2A04 ∧ sub ≤ 1) ∨
    (idx = 0x3F00 ∧ 1 ≤ sub ∧ sub ≤ 3) ∨ (idx = 0x5030 ∧ sub = 1)

/-- A write to an entry that does not act is plain (R470). -/
theorem State.applyWrite_plain (still : ¬ actsOnWrite q.idx q.sub) : s.applyWrite q = s.writePlain q := by
  unfold State.applyWrite
  dsimp only []
  split
  case h_19 => rfl
  all_goals exact absurd (by simp [actsOnWrite, actingIndexes, *]) still

theorem not_actsOnWrite_of_others {idx sub : Nat} (others : idx ∉ [0x3011, 0x302F, 0x2802, 0x6000, 0x1104, 0x1200,
      0x6001, 0x1006, 0x2708, 0x2A04, 0x3F00, 0x5023, 0x5104])
    (sync : ¬ (idx = 0x2A03 ∧ sub = 0)) (spare : ¬ (idx = 0x5030 ∧ sub = 1)) : ¬ actsOnWrite idx sub := by
  rintro (acts | both | ⟨rfl, -⟩ | ⟨rfl, -⟩ | both)
  · exact others ((by decide : actingIndexes ⊆ _) acts)
  · exact sync both
  · exact others (by decide)
  · exact others (by decide)
  · exact spare both

/-- A row of the tables whose writes are staged holds no entry that acts; `PROGRAM_PIN` is apart (R470, R518). -/
def Obj.stagesStill (o : Obj) : Bool :=
  o.acc ≠ .rws || o.idx = 0x5104 ||
    (!(0x2A03 :: 0x3F00 :: actingIndexes).contains o.idx && (o.idx ≠ 0x2A04 || decide (2 ≤ o.lo)) &&
      (o.idx ≠ 0x5030 || decide (o.hi = 0)))

theorem objects_stageStill : ∀ o ∈ objects, o.stagesStill = true := by decide +kernel

theorem objFind_some {idx sub : Nat} {o : Obj} (found : objFind idx sub = some o) :
    o ∈ objects ∧ o.idx = idx ∧ o.lo ≤ sub ∧ sub ≤ o.hi := by
  have row := List.find?_some found
  simp only [Bool.and_eq_true, decide_eq_true_eq] at row
  obtain ⟨⟨index, low⟩, high⟩ := row
  exact ⟨List.mem_of_find?_eq_some found, index, low, high⟩

/-- An entry whose writes are staged does not act, unless it is `PROGRAM_PIN`. -/
theorem not_actsOnWrite_of_rws {idx sub : Nat} {o : Obj} (found : objFind idx sub = some o) (staged : o.acc = .rws)
    (pin : idx ≠ 0x5104) : ¬ actsOnWrite idx sub := by
  obtain ⟨row, rfl, low, high⟩ := objFind_some found
  have still := objects_stageStill o row
  simp [Obj.stagesStill, staged, pin] at still
  obtain ⟨⟨⟨notSync, notFreeze, notActing⟩, launch⟩, spare⟩ := still
  rintro (acts | ⟨index, -⟩ | ⟨index, first⟩ | ⟨index, -⟩ | ⟨index, first⟩)
  · exact notActing acts
  · exact notSync index
  · have := launch.resolve_left (not_not.2 index)
    omega
  · exact notFreeze index
  · have := spare.resolve_left (not_not.2 index)
    omega

/-! ### What a plain write does -/

theorem State.writePlain_rw {o : Obj} (found : objFind q.idx q.sub = some o) (plain : o.acc = .rw) :
    s.writePlain q = s.setObj q.idx q.sub q.value := by
  unfold State.writePlain
  rw [found]
  simp [plain]

theorem State.writePlain_rws {o : Obj} (found : objFind q.idx q.sub = some o) (staged : o.acc = .rws) :
    s.writePlain q = s.stageValue q := by
  unfold State.writePlain
  rw [found]
  simp [staged]

/-- Every layer of a predictor has a policy, and its writes are staged (R276). -/
theorem objFind_policy (l : BitVec 8) : objFind 0x2501 l.toNat = some ⟨0x2501, 0x00, 0xFF, .u8, .rws, 0, false⟩ := by
  have each : ∀ l : Fin 256, objFind 0x2501 l.val = some ⟨0x2501, 0x00, 0xFF, .u8, .rws, 0, false⟩ := by decide +kernel
  exact each ⟨l.toNat, l.isLt⟩

/-- What is written to an entry that only stages is staged, and the value in force stands (R474). -/
theorem State.applyWrite_stages {o : Obj} (found : objFind q.idx q.sub = some o) (staged : o.acc = .rws)
    (pin : q.idx ≠ 0x5104) : s.applyWrite q = s.stageValue q := by
  rw [State.applyWrite_plain (not_actsOnWrite_of_rws found staged pin), State.writePlain_rws found staged]

/-- A pin written outside recovery is staged (R518). -/
theorem State.writePin_stages (awake : s.bringup ≠ .recovery) : s.writePin q = s.stageValue q := by
  unfold State.writePin
  split
  · next recovers _ => exact absurd recovers awake
  · rfl

theorem State.noteUnchecked_bringup (s : State) (q : Req) : (s.noteUnchecked q).bringup = s.bringup := by
  unfold State.noteUnchecked
  split
  · exact State.event_bringup _ _ _ _
  · rfl

end Sys2Proof.Machine

open Sys2Proof Sys2Proof.Machine

/-- Settles O48: a plain write by its entry's access right, and a pin, a policy and a sparing by their branches. -/
theorem writesSetOrStage : Obligations.WritesSetOrStage := by
  intro s src h b
  refine ⟨fun idx sub o found plain others sync spare => ?_, fun idx sub o found staged pin => ?_, fun k ready => ?_,
    fun l => ?_, fun c value => ?_⟩
  · intro q accepted
    have still : ¬ actsOnWrite q.idx q.sub := not_actsOnWrite_of_others others
      (fun e => sync ⟨e.1, BitVec.eq_of_toNat_eq e.2⟩) (fun e => spare ⟨e.1, BitVec.eq_of_toNat_eq e.2⟩)
    refine State.serve_write accepted rfl ?_
    rw [State.applyWrite_plain still, State.writePlain_rw found plain]
    rfl
  · intro q accepted
    exact State.serve_write accepted rfl (State.applyWrite_stages (q := q) found staged pin)
  · intro q accepted
    have running : ((s.touch q.src).noteUnchecked q).bringup ≠ .recovery := by
      rw [State.noteUnchecked_bringup]
      exact fun recovers => absurd (ready.symm.trans recovers) (by decide)
    exact State.serve_write accepted rfl (State.writePin_stages running)
  · intro q accepted
    exact State.serve_write accepted rfl (State.applyWrite_stages (q := q) (objFind_policy l) rfl
      (show 0x2501 ≠ 0x5104 by decide))
  · intro q accepted
    refine State.serve_write accepted rfl ?_
    have branch : ((s.touch q.src).noteUnchecked q).applyWrite q = if small : leNat b < 48
      then ((s.touch q.src).noteUnchecked q).scheduleSpare ⟨leNat b, small⟩ 3 else (s.touch q.src).noteUnchecked q := rfl
    rw [branch, dif_pos (value ▸ c.isLt)]
    simp only [value]
    rfl
end

section
/-! SUPPORT. The queue and the fuses (O1, O2, O4): a step is its front command's meaning, and what every command keeps. -/

namespace Sys2Proof.Machine

theorem step_pending {s : State} {c : Instr} {rest : List Instr} (front : s.pending = c :: rest) :
    step s = exec c { s with pending := rest } := by
  unfold step
  rw [front]

end Sys2Proof.Machine

open Sys2Proof Sys2Proof.Machine

/-- Settles O1: `step` branches on the queue, and a queue with a front is its first branch. -/
theorem stepRunsTheFront : Obligations.StepRunsTheFront := fun _ _ _ => step_pending

/-- Settles O2: every command answers a next state that keeps the queue, the case of its meaning in `exec_keeps`. -/
theorem everyCommandCompletesAndKeepsTheQueue : Obligations.EveryCommandCompletesAndKeepsTheQueue := by
  intro c s
  obtain ⟨t, next, kept⟩ := exec_keeps c s
  exact ⟨t, next, kept.queue⟩

/-- Settles O4: no command takes a fused entry away, the case of its meaning in `exec_keeps`; a reset and a power-off carry
the fuses over, and a key that is programmed or revoked is added after them. -/
theorem fusesAreNeverCleared : Obligations.FusesAreNeverCleared := by
  intro c s
  obtain ⟨t, next, kept⟩ := exec_keeps c s
  exact ⟨t, next, kept.fuses⟩
end

section
/-! SUPPORT. The test access port (O18; R514): what each command shifts out, and the word that the network reads of a
bonded SRAM. -/

namespace Sys2Proof.Machine

variable {s : State}

/-! ### Commands by the power -/

section Powered
variable (powered : s.phase ≠ .dark)
include powered

theorem exec_tapReset_powered : exec .tapReset s = .next { s with tap := ⟨0x01⟩ } := if_neg powered

theorem exec_tapIdcode_powered : exec .tapIdcode s = .next (s.shift 0x01 (s.obj 0x3F02 0)) := if_neg powered

theorem exec_tapBypass_other {ir : BitVec 8} (idcode : ir ≠ 0x01) (network : ir ≠ 0x24) :
    exec (.tapBypass ir) s = .next (s.shift ir 0) := by
  change execTapBypass ir s = _
  rw [execTapBypass, decide_eq_false powered, decide_eq_false idcode, decide_eq_false network]
  rfl

/-- Outside FULL the network reads zeros (R514). -/
theorem exec_tapIjtag_running (running : s.phase ≠ .fullFreeze) (x : IjtagAccess) :
    exec (.tapIjtag x) s = .next (s.shift 0x24 0) := (if_neg powered).trans (if_pos running)

end Powered

/-- In FULL the network reads the word at the address (R514). -/
theorem exec_tapIjtag_memory (full : s.phase = .fullFreeze) (d : CDie) (a : BitVec 48) :
    exec (.tapIjtag (.memory d a)) s = .next (s.shift 0x24 (s.scanWord d a.toNat)) := by
  change execTapIjtag (.memory d a) s = _
  rw [execTapIjtag, if_neg (by simp [full]), if_neg (by simp [full])]

/-! ### The word of a bonded SRAM -/

/-- The address of a word of a die's bonded SRAM (R19). -/
def dieWord (d : CDie) (k : Nat) : Nat := dieBase d.val + 4 * k

section DieWord
variable {d : CDie} {k : Nat} (small : k < 0x18000000)
include small

/-- A word of a bonded SRAM lies within its die, above the memory stacks and below the control blocks (R19, R22). -/
theorem dieWord_bounds : 0x10000000000 ≤ dieWord d k ∧ dieBase d.val ≤ dieWord d k ∧
    dieWord d k + 4 ≤ dieBase d.val + 0x60000000 ∧ dieWord d k + 4 ≤ 0x10180000000 := by
  unfold dieWord dieBase
  omega

theorem State.phys_dieWord {i : Nat} (within : i < 4) : s.phys (dieWord d k + i) = some (dieWord d k + i) := by
  obtain ⟨low, -, -, high⟩ := dieWord_bounds (d := d) small
  unfold State.phys
  rw [if_neg (by omega), if_pos (by omega)]

/-- No byte of a word without poison is poisoned. -/
theorem State.poisoned_dieWord_byte (sound : s.poisoned (dieWord d k) 4 = false) {i : Nat} (within : i < 4) :
    s.poisoned (dieWord d k + i) 1 = false := by
  have whole : s.phys (dieWord d k) = some (dieWord d k) := State.phys_dieWord small (i := 0) (by decide)
  rw [State.poisoned, whole] at sound
  rw [State.poisoned, State.phys_dieWord small within]
  simp only [List.any_eq_false, Bool.and_eq_true, decide_eq_true_eq, not_and] at sound ⊢
  intro w poison before
  have := sound w poison
  omega

/-- A read-out gives a byte of a bonded SRAM without poison as it stands: no stack of memory holds it (R340, R347). -/
theorem State.captureByte_dieWord (sound : s.poisoned (dieWord d k) 4 = false) {i : Nat} (within : i < 4) :
    s.captureByte (dieWord d k + i) = s.byte (dieWord d k + i) := by
  obtain ⟨low, -, -, high⟩ := dieWord_bounds (d := d) small
  have stack : s.stackOut (dieWord d k + i) 1 = none := by
    unfold State.stackOut
    rw [if_pos]
    have above : 0x6000000000 ≤ dieWord d k + i := by omega
    simp [above]
  unfold State.captureByte State.byteFor
  rw [if_neg (by omega), State.poisoned_dieWord_byte small sound within, stack]
  simp

/-- The network reads a word without error with a zero syndrome (R514). -/
theorem State.scanWord_dieWord (sound : s.poisoned (dieWord d k) 4 = false) :
    s.scanWord d (dieWord d k) = leNat (s.bytes (dieWord d k) 4) := by
  obtain ⟨-, above, below, -⟩ := dieWord_bounds (d := d) small
  have aligned : dieWord d k / 4 * 4 = dieWord d k := by
    unfold dieWord dieBase
    omega
  have own : inDie d (dieWord d k) = true := by
    have inside : dieWord d k < dieBase d.val + 0x60000000 := by omega
    simp [inDie, above, inside]
  have bytes : (List.range 4).map (fun i => s.captureByte (dieWord d k + i)) = s.bytes (dieWord d k) 4 := by
    rw [State.bytes_eq]
    exact List.map_congr_left fun i hi => State.captureByte_dieWord small sound (List.mem_range.1 hi)
  unfold State.scanWord
  dsimp only []
  rw [aligned, own, bytes, sound]
  simp

end DieWord

end Sys2Proof.Machine

open Sys2Proof Sys2Proof.Machine

/-- Settles O18: each command by its branch, and the word of a bonded SRAM by the bytes that a read-out gives. -/
theorem testAccessPort : Obligations.TestAccessPort := by
  intro s powered
  refine ⟨exec_tapReset_powered powered, exec_tapIdcode_powered powered, fun ir => exec_tapBypass_other powered,
    fun running => exec_tapIjtag_running powered running, fun full d k small => ?_⟩
  intro a sound
  obtain ⟨-, -, -, high⟩ := dieWord_bounds (d := d) small
  have fits : dieWord d k < 2 ^ 48 := by omega
  have address : (BitVec.ofNat 48 (dieWord d k)).toNat = dieWord d k := by
    rw [BitVec.toNat_ofNat, Nat.mod_eq_of_lt fits]
  have read := exec_tapIjtag_memory full d (BitVec.ofNat 48 (dieWord d k))
  rw [address, State.scanWord_dieWord small sound] at read
  exact read
end

section
/-! SUPPORT. Warnings and ignored pulses (O11; R522 to R526): an event whose rate is limited is logged alone, or nothing
changes. -/

namespace Sys2Proof.Machine

variable {s : State}

/-! ### Events of a limited rate -/

section Limited
variable {c : BitVec 16} {k p i : Nat} {d : Bytes}

/-- A due event of a limited rate is logged, and changes nothing else. -/
theorem State.eventLimited_logs (w : Assoc.wf objDefault s.od = true) (short : d.length ≤ 10) (due : s.limitPast c k p) :
    Logged s (s.eventLimited c k p i d) c i d ∧ OnlyLogs s (s.eventLimited c k p i d) := by
  rw [State.eventLimited_due due]
  refine ⟨State.event_logged_since rfl rfl short, ?_⟩
  obtain ⟨frame, objects⟩ := State.event_onlyLogs (s := { s with mgmt := { s.mgmt with
    lastLogged := setKey (c.toNat * 256 + k) s.uptime s.mgmt.lastLogged } }) w c i d
  refine ⟨?_, objects⟩
  rw [frame]

/-- Within the period of the last, nothing changes. -/
theorem State.eventLimited_recent (recent : ¬ s.limitPast c k p) : s.eventLimited c k p i d = s := by
  unfold State.limitPast at recent
  push Not at recent
  obtain ⟨last, found, early⟩ := recent
  unfold State.eventLimited
  dsimp only []
  rw [found]
  exact if_pos early

end Limited

/-! ### The commands of a module that is up -/

section Up
variable (up : s.phase = .up)
include up

theorem exec_inputVoltageOutOfRange_up (runs : s.stage = .running) : exec .inputVoltageOutOfRange s =
    .next (s.eventLimited 0x5201 0 1000000000 s.mgmtIsland []) := if_pos (by simp [up, runs])

theorem exec_inputPowerHigh_up : exec .inputPowerHigh s = .next (s.eventLimited 0x5202 0 1000000000 s.mgmtIsland []) :=
  if_pos up

theorem exec_coolantInletHigh_up : exec .coolantInletHigh s = .next (s.event 0x5203 s.mgmtIsland []) := if_pos up

theorem exec_dieTempWarning_up (d : Die) : exec (.dieTempWarning d) s =
    .next (s.eventLimited 0x5204 d.val 1000000000 s.mgmtIsland (toLe 1 d.val)) := if_pos up

/-- A pulse counts on a module that is up; one of `SYNC_IN` once it is READY (R526, R527). -/
theorem exec_discreteInputIgnored_up {i : Fin 3} (ready : i = 2 → s.bringup = .ready) :
    exec (.discreteInputIgnored i) s = .next (s.ignoredPulse i) := by
  change execDiscreteInputIgnored i s = _
  rw [execDiscreteInputIgnored, if_neg (by simp [up]), if_neg (by simpa [up] using ready)]

end Up

end Sys2Proof.Machine

open Sys2Proof Sys2Proof.Machine

/-- Settles O11: each warning by whether its event is due, and a pulse as a count with the event of its input. -/
theorem warningsAreLogged : Obligations.WarningsAreLogged := by
  refine ⟨fun s held => if_pos (by simp [held]), fun s inv up => ?_⟩
  have w := inv.objects
  refine ⟨fun runs due => ⟨_, exec_inputVoltageOutOfRange_up up runs, State.eventLimited_logs w (by decide) due⟩,
    fun runs recent => ?_, fun due => ⟨_, exec_inputPowerHigh_up up, State.eventLimited_logs w (by decide) due⟩,
    fun recent => ?_, ⟨_, exec_coolantInletHigh_up up, State.event_logged _ _ (by decide), State.event_onlyLogs w _ _ _⟩,
    fun d => ⟨fun due => ⟨_, exec_dieTempWarning_up up d, State.eventLimited_logs w (by simp [toLe_length]) due⟩,
      fun recent => ?_⟩, fun i ready => ⟨fun due => ?_, fun recent => ?_⟩⟩
  · rw [exec_inputVoltageOutOfRange_up up runs, State.eventLimited_recent recent]
  · rw [exec_inputPowerHigh_up up, State.eventLimited_recent recent]
  · rw [exec_dieTempWarning_up up, State.eventLimited_recent recent]
  · obtain ⟨logged, only⟩ := State.eventLimited_logs (s := s.addObj 0x2012 i.val 1) (i := s.mgmtIsland)
      (State.addObj_wf w _ _ _) (d := toLe 1 i.val) (by simp [toLe_length]) due
    exact ⟨_, exec_discreteInputIgnored_up up ready, State.ignoredPulse_counts w i, logged, only⟩
  · rw [exec_discreteInputIgnored_up up ready, State.ignoredPulse,
      State.eventLimited_recent (s := s.addObj 0x2012 i.val 1) recent]
end

section
/-! SUPPORT. Freezes (O17; R510, R511, R513, R527): a freeze at its count, a CAPTURE that comes too late, and the release
by the pin. -/

namespace Sys2Proof.Machine

variable {s : State}

/-! ### The count of a freeze -/

/-- A module at the count of its freeze: `FROZEN` is out, and the count shown (R415, R511). -/
def State.stopShown (s : State) : State := s.sendFrozen.setObj 0x3F00 5 s.sendFrozen.freeze.count

/-- It logs event 0x6501 with its depth and cause (R511). -/
def State.stopNoted (s : State) : State :=
  s.stopShown.mgmtEvent 0x6501 [if s.stopShown.freeze.full then 2 else 1, BitVec.ofNat 8 (s.stopShown.obj 0x3F00 6)]

theorem OnlyPorts.sendFrozen : OnlyPorts s s.sendFrozen :=
  .foldl (fun b p => by
    split
    · exact .sendLink
    · exact rfl) _

theorem OnlySends.stopShown : OnlySends s s.stopShown := OnlySends.sendFrozen.trans .setObj

theorem OnlySends.stopNoted : OnlySends s s.stopNoted := OnlySends.stopShown.trans .mgmtEvent

theorem State.stopNoted_logged (s : State) : ∃ e ∈ s.stopNoted.log.recs, e.code = 0x6501 := by
  have noted : Noted s.stopNoted 0x6501 _ _ := State.mgmtEvent_noted (by simp)
  obtain ⟨e, stands, code, -⟩ := noted
  exact ⟨e, stands, code⟩

theorem State.stopNoted_shows (w : Assoc.wf objDefault s.od = true) : s.stopNoted.obj 0x3F00 5 = s.freeze.count := by
  have ports : OnlyPorts s s.sendFrozen := .sendFrozen
  have wf : Assoc.wf objDefault s.sendFrozen.od = true := by rw [ports]; exact w
  have kept : KeepsEntry 0x3F00 s.stopShown s.stopNoted := .event (by decide)
  rw [(kept (State.setObj_wf wf _ _ _)).2 5 (by decide), State.stopShown, State.obj_setObj_self wf, ports]

/-! ### What a stop leaves -/

/-- The islands stand for a read-out (R512). -/
def State.captured (s : State) : State :=
  { s.stopIslands with freeze := { s.stopIslands.freeze with st := .capture } }

@[simp] theorem State.captured_obj (i j : Nat) : s.captured.obj i j = s.obj i j := rfl
@[simp] theorem State.captured_log : s.captured.log = s.log := rfl
@[simp] theorem State.captured_mem : s.captured.mem = s.mem := rfl
@[simp] theorem State.captured_step : s.captured.step = s.step := rfl

theorem State.captured_freeze : s.captured.freeze =
    { s.freeze with st := .capture, stopGc := s.gc.value, draw := s.freeCount } := rfl

theorem State.captured_awake : s.captured.awake = false := by simp [State.captured, State.awake]

/-- Every clock has stopped (R514). -/
def State.clocksStopped (s : State) : State :=
  { s.stopIslands with phase := .fullFreeze, freeze := { s.stopIslands.freeze with st := .full, full := true } }

@[simp] theorem State.clocksStopped_mem : s.clocksStopped.mem = s.mem := rfl

theorem State.enterFull_pending (pending : s.freeze.st = .pending) : s.enterFull = s.clocksStopped := by
  unfold State.enterFull
  rw [if_neg (by simp [pending])]
  rfl

section Count
variable (up : s.phase = .up) (pending : s.freeze.st = .pending)
include up pending

theorem exec_freezeCountReached_due (due : s.freeze.count ≤ s.gc.value) : exec .freezeCountReached s =
    .next (if s.freeze.full then s.stopNoted.clocksStopped else s.stopNoted.captured) := by
  have sends : OnlySends s s.stopNoted := .stopNoted
  have freeze : s.stopNoted.freeze = s.freeze := by rw [sends]
  have stop : s.stopNoted.enterFull = s.stopNoted.clocksStopped := State.enterFull_pending (by rw [freeze, pending])
  change execFreezeCountReached s = _
  unfold execFreezeCountReached
  rw [if_neg (by simp [up]; omega), pending, ← freeze, ← stop, apply_ite Host.Outcome.next]
  rfl

theorem exec_captureTimeout_late (capture : s.freeze.full = false) (late : s.freeze.triggerUptime + 10000000 ≤ s.uptime) :
    exec .captureTimeout s = .next s.clocksStopped := by
  rw [← State.enterFull_pending pending]
  exact if_pos (by simp [up, pending, capture, late])

end Count

/-! ### The pin -/

theorem exec_freezeNAssert_ready (up : s.phase = .up) (ready : s.bringup = .ready) : exec .freezeNAssert s =
    .next (State.freezeAt { s with pins := { s.pins with freezeN := false } } (s.gc.value + 1000)
      (s.obj 0x3F00 4 = 2) true 1 s.uptime) := if_neg (by simp [up, ready])

theorem exec_freezeNDeassert_own (up : s.phase = .up) (capture : s.freeze.st = .capture) (pin : s.freeze.byPin = true) :
    exec .freezeNDeassert s = .next (State.releaseFreeze { s with pins := { s.pins with freezeN := true } }) :=
  if_pos (by simp [up, capture, pin])

/-- A CAPTURE that ends, before the step in progress aborts: copies and ports go on from now (R511, R513). -/
def State.thawed (s : State) : State :=
  { s with sparing := s.sparing.map (fun (x : Sparing) => x.resumed s.freeze.stopGc s.gc.value)
           freeze := ⟨.run, 0, false, false, 0, 0, 0⟩
           pauses := if s.step.status = StepStatus.running then s.pauses ++ [(s.freeze.stopGc, s.gc.value)] else s.pauses
           ports := vmap (fun (p : PortState) => { p with lastLife := s.gc.value }) s.ports }

theorem State.releaseFreeze_eq (s : State) : s.releaseFreeze =
    if s.stepLive then s.thawed.abortWith 0x4B02 s.mgmtIsland [] else s.thawed := rfl

/-- The release aborts the step in progress, and leaves all else as the end of the CAPTURE does (R513). -/
theorem State.releaseFreeze_aborts (s : State) : OnlyAborts s.thawed s.releaseFreeze := by
  rw [State.releaseFreeze_eq]
  split
  · exact OnlyAborts.abortWith
  · exact OnlyAborts.refl _

theorem State.releaseFreeze_step (live : s.stepLive = true) : s.releaseFreeze.step.status = .aborted ∧
    s.releaseFreeze.step.causes = s.step.causes ++ [0x4B02] := by
  rw [State.releaseFreeze_eq, if_pos live]
  exact State.abortWith_status (s := s) rfl live

end Sys2Proof.Machine

open Sys2Proof Sys2Proof.Machine

/-- Settles O17: a freeze by what is noted at its count, and a release by the end of the CAPTURE with its abort. -/
theorem freezesStopAndRelease : Obligations.FreezesStopAndRelease := by
  intro s inv up
  have w := inv.objects
  have sends : OnlySends s s.stopNoted := .stopNoted
  refine ⟨fun ready run => ?_, fun pending due capture => ?_, fun pending due full => ?_,
    fun pending capture late => ?_, fun capture pin => ?_, fun capture other => if_neg (by simp [other])⟩
  · obtain ⟨freeze, cause⟩ := State.freezeAt_run (s := { s with pins := { s.pins with freezeN := false } }) w run
      (s.gc.value + 1000) (s.obj 0x3F00 4 = 2) true 1 s.uptime
    refine ⟨_, exec_freezeNAssert_ready up ready, ?_, freeze, cause⟩
    rw [State.freezeAt_frame]
  · refine ⟨s.stopNoted.captured, by rw [exec_freezeCountReached_due up pending due, if_neg (by simp [capture])], ?_,
      State.captured_awake, ?_, ?_, ?_, ?_⟩
    · rw [State.captured_freeze, sends]
    · rw [State.captured_obj, State.stopNoted_shows w]
    · rw [State.captured_log]
      exact State.stopNoted_logged s
    · rw [State.captured_mem, sends]
    · rw [State.captured_step, sends]
  · refine ⟨s.stopNoted.clocksStopped, by rw [exec_freezeCountReached_due up pending due, if_pos full], rfl, rfl, ?_⟩
    rw [State.clocksStopped_mem, sends]
  · exact ⟨s.clocksStopped, exec_captureTimeout_late up pending capture late, rfl, rfl, rfl, rfl⟩
  · have aborts := State.releaseFreeze_aborts { s with pins := { s.pins with freezeN := true } }
    refine ⟨_, exec_freezeNDeassert_own up capture pin, ?_, ?_, ?_, fun live =>
      State.releaseFreeze_step (s := { s with pins := { s.pins with freezeN := true } }) live⟩ <;>
    · rw [aborts]
      rfl
end

section
/-! SUPPORT. The rails go down (O7; R522, R524, R532): what a power-off leaves, and what each of its causes keeps. -/

namespace Sys2Proof.Machine

variable {s u t : State}

/-! ### A power-off -/

/-- A staged image of a program does not survive, and its copies do (R468, R517). -/
theorem NonVolatile.settled_programs (nv : NonVolatile) (k : Kind) :
    nv.settled.programs[k] = { nv.programs[k] with staged := none } := by
  simp [NonVolatile.settled, NonVolatile.modStores, NonVolatile.programs, vmap]

/-- What a module loses depends on its non-volatile contents alone. -/
theorem VolatileLost.of_nv (same : u.nv = s.nv) (lost : VolatileLost u t) : VolatileLost s t :=
  { lost with
    fuses := same ▸ lost.fuses
    repairs := same ▸ lost.repairs
    programs := same ▸ lost.programs }

theorem State.powerOff_lost (s : State) : VolatileLost s s.powerOff where
  memory := ⟨rfl, rfl⟩
  objects := ⟨rfl, rfl, rfl⟩
  logs := ⟨rfl, rfl, rfl⟩
  plan := ⟨rfl, rfl, rfl⟩
  cores := ⟨rfl, rfl, rfl⟩
  counter := ⟨rfl, rfl⟩
  fuses := ⟨rfl, rfl⟩
  repairs := rfl
  programs := s.nv.settled_programs

theorem State.powerOff_open (s : State) : OutputsOpen s.powerOff := ⟨rfl, rfl, rfl, rfl⟩

/-- The first stage, which a power-off leaves as it stands, may be noted as stopped after it. -/
theorem VolatileLost.stage (lost : VolatileLost s t) (st : Stage) : VolatileLost s { t with stage := st } := { lost with }

/-! ### The gasp before it -/

/-- The dying gasp, where the ports can send it (R416, R515). -/
def State.lastGasp (s : State) (c : Nat) : State := if s.canGasp then s.gasp c else s

theorem OnlyPorts.lastGasp {c : Nat} : OnlyPorts s (s.lastGasp c) := by
  unfold State.lastGasp
  split
  · exact .gasp
  · exact rfl

theorem State.noteStop_frame (s : State) (c : Nat) :
    s.noteStop c = { s with latchedCause := if s.tripLatch then s.latchedCause else c } := by
  unfold State.noteStop
  split <;> rfl

/-! ### The causes -/

/-- The first stage when `PWR_EN` ends: an over-current stop is let go, a lockout stands (R522). -/
def Stage.unpowered : Stage → Stage
  | .underLockout | .trippedUnder => .underLockout
  | .overLockout | .trippedOver => .overLockout
  | .running | .tripped | .off => .off

theorem exec_pwrEnDeassert_on (on : s.pins.pwrEn = true) : exec .pwrEnDeassert s =
    .next (State.powerOff { s.lastGasp 3 with
      pins := { (s.lastGasp 3).pins with pwrEn := false }, tripLatch := false, stage := s.stage.unpowered }) := by
  have gasp : OnlyPorts s (s.lastGasp 3) := .lastGasp
  have stage : s.stage = (s.lastGasp 3).stage := by rw [gasp]
  rw [stage]
  exact if_neg (by simp [on])

theorem exec_undervoltageStop_running (runs : s.stage = .running) : exec .undervoltageStop s =
    .next { ((s.lastGasp 3).noteStop 4).powerOff with stage := .underLockout } := by
  change execUndervoltageStop s = _
  unfold execUndervoltageStop
  rw [runs]
  rfl

theorem exec_overvoltageLockout_running (runs : s.stage = .running) : exec .overvoltageLockout s =
    .next { s.powerOff with stage := .overLockout } := by
  change execOvervoltageLockout s = _
  unfold execOvervoltageLockout
  rw [runs]

/-- An input below its range locks out a stage that does not run as well (R522). -/
theorem exec_undervoltageStop_still :
    (s.stage = .off → exec .undervoltageStop s = .next { s with stage := .underLockout }) ∧
      (s.stage = .tripped → exec .undervoltageStop s = .next { s with stage := .trippedUnder }) := by
  change (_ → execUndervoltageStop s = _) ∧ (_ → execUndervoltageStop s = _)
  unfold execUndervoltageStop
  exact ⟨fun off => by rw [off], fun tripped => by rw [tripped]⟩

/-- And so does one above it (R522). -/
theorem exec_overvoltageLockout_still :
    (s.stage = .off → exec .overvoltageLockout s = .next { s with stage := .overLockout }) ∧
      (s.stage = .tripped → exec .overvoltageLockout s = .next { s with stage := .trippedOver }) := by
  change (_ → execOvervoltageLockout s = _) ∧ (_ → execOvervoltageLockout s = _)
  unfold execOvervoltageLockout
  exact ⟨fun off => by rw [off], fun tripped => by rw [tripped]⟩

theorem exec_overCurrentTrip_running (runs : s.stage = .running) : exec .overCurrentTrip s =
    .next { (s.noteStop 3).powerOff with stage := .tripped } := if_neg (not_not.2 runs)

theorem exec_dieTrip_powered (powered : s.phase ≠ .dark) (d : Die) :
    exec (.dieTrip d) s = .next ((s.lastGasp 1).latch 1).powerOff := if_neg (by simp [State.powered, powered])

end Sys2Proof.Machine

open Sys2Proof Sys2Proof.Machine

/-- Settles O7: each cause by what it notes before the power-off. -/
theorem railsGoDown : Obligations.RailsGoDown := by
  intro s
  have gasp (c : Nat) : OnlyPorts s (s.lastGasp c) := .lastGasp
  refine ⟨fun on => ?_, fun runs => ⟨?_, ?_, ?_⟩, fun x hx => ?_, fun powered d => ?_⟩
  · refine ⟨_, exec_pwrEnDeassert_on on, rfl, (State.powerOff_lost _).of_nv ?_, State.powerOff_open _, rfl, rfl, ?_, ?_, ?_, ?_⟩
    · rw [gasp 3]
    · change (s.lastGasp 3).latchedCause = _
      rw [gasp 3]
    all_goals
      rintro (h | h) <;>
      · change s.stage.unpowered = _
        rw [h]
        rfl
  · refine ⟨_, exec_undervoltageStop_running runs, rfl, ((State.powerOff_lost _).of_nv ?_).stage _, State.powerOff_open _, rfl, ?_⟩
    · rw [State.noteStop_frame, gasp 3]
    · change ((s.lastGasp 3).noteStop 4).latchedCause = _
      rw [State.noteStop_frame, gasp 3]
  · exact ⟨_, exec_overvoltageLockout_running runs, rfl, (State.powerOff_lost s).stage _, State.powerOff_open s, rfl, rfl⟩
  · refine ⟨_, exec_overCurrentTrip_running runs, rfl, ((State.powerOff_lost _).of_nv ?_).stage _, State.powerOff_open _, rfl, ?_⟩
    · rw [State.noteStop_frame]
    · change (s.noteStop 3).latchedCause = _
      rw [State.noteStop_frame]
  · simp only [List.mem_cons, List.not_mem_nil, or_false] at hx
    obtain rfl | rfl := hx
    · exact exec_undervoltageStop_still
    · exact exec_overvoltageLockout_still
  · obtain ⟨frame, latch, cause, -⟩ := State.latch_shows (s.lastGasp 1) 1
    refine ⟨_, exec_dieTrip_powered powered d, rfl, (State.powerOff_lost _).of_nv ?_, State.powerOff_open _, latch, ?_, ?_, ?_⟩
    · rw [frame, gasp 1]
    · change (if ((s.lastGasp 1).latch 1).tripLatch then _ else _ : PinLevel) = _
      rw [latch]
      rfl
    · change ((s.lastGasp 1).latch 1).stage = _
      rw [frame, gasp 1]
    · change ((s.lastGasp 1).latch 1).latchedCause = _
      rw [cause, gasp 1]
end

section
/-! SUPPORT. A standby island that has lost its clock (O6, O9; R25): `MGMT_STANDBY_STATE` says so through a reset, so the
dictionary does not stand at its defaults. -/

namespace Sys2Proof.Machine

variable {s u : State}

theorem State.heldInReset_od (s : State) : s.heldInReset.od = if s.standbyOff then [(objKey 0x5032 1, 2)] else [] := rfl

/-- A reset keeps what a standby island that has lost its clock shows (R25), so not every scalar is at its default. -/
theorem not_volatileLost_heldInReset (lost : s.standbyOff = true) : ¬ VolatileLost u s.heldInReset := by
  intro v
  obtain ⟨od, -⟩ := v.objects
  rw [State.heldInReset_od, if_pos lost] at od
  exact absurd od (List.cons_ne_nil _ _)

/-- The rails come up into a reset (R528). -/
theorem not_volatileLost_railsUp (lost : s.standbyOff = true) : ¬ VolatileLost u s.railsUp := fun v =>
  not_volatileLost_heldInReset lost { v with }

theorem exec_resetNAssert_up (up : s.phase = .up) : exec .resetNAssert s =
    .next (State.gasp { s with pins := { s.pins with resetN := false } } 2).heldInReset := by
  change execResetNAssert s = _
  unfold execResetNAssert
  dsimp only []
  rw [up]

theorem exec_resetNAssert_notLost (up : s.phase = .up) (lost : s.standbyOff = true) :
    ∃ t : State, exec .resetNAssert s = .next t ∧ ¬ VolatileLost s t := by
  have ports : OnlyPorts _ (State.gasp { s with pins := { s.pins with resetN := false } } 2) := .gasp
  refine ⟨_, exec_resetNAssert_up up, not_volatileLost_heldInReset ?_⟩
  rw [ports]
  exact lost

theorem exec_pwrEnAssert_off (low : s.pins.pwrEn = false) (off : s.stage = .off) : exec (.pwrEnAssert false) s =
    .next (State.railsUp { s with pins := { s.pins with pwrEn := true } }) := by
  change execPwrEnAssert false s = _
  unfold execPwrEnAssert
  rw [if_neg (by simp [low])]
  exact (if_neg (not_not.2 off)).trans (if_neg (by simp))

namespace LostStandby

/-- The module at reset, its standby island stopped by the loss of its clock. -/
def state : State :=
  { ((State.reset.event 0x2101 0x79 [0x79]).setIsland 0x79 .failed).noStandby with standbyOff := true }

/-- A command leads there from reset (R25). -/
theorem state_reached : exec (.pllLockLost 0x79) State.reset = .next state := rfl

/-- The same module without power, its first stage off. -/
def unpowered : State :=
  { State.reset.powerOff with stage := .off, pins := { State.reset.offPins with pwrEn := false }, standbyOff := true }

theorem unpowered_inv : unpowered.Inv := { State.reset_inv with }

end LostStandby

end Sys2Proof.Machine

open Sys2Proof Sys2Proof.Machine

/-- Refutes O9: its first clause has `RESET_N` clear the whole dictionary, but in `LostStandby.state`, which PLL_LOCK_LOST
of the standby island leads to from reset, `MGMT_STANDBY_STATE` stays 2 until power-on (R25), and the model keeps it. -/
theorem not_resetAndRelease : ¬ Obligations.ResetAndRelease := by
  intro h
  obtain ⟨held, -⟩ := h LostStandby.state
  obtain ⟨t, next, -, -, lost, -⟩ := held (.inl rfl)
  obtain ⟨u, run, kept⟩ := exec_resetNAssert_notLost (s := LostStandby.state) rfl rfl
  rw [next] at run
  injection run with same
  exact kept (same ▸ lost)

/-- Refutes O6: its first clause has the dictionary cleared as the rails come up, but in `LostStandby.unpowered` the model
keeps the state shown of a standby island that has lost its clock. No power-off leaves such a state, since the power-off
itself forgets the loss; the statement is over every state, and neither it nor `State.Inv` says so. -/
theorem not_railsComeUp : ¬ Obligations.RailsComeUp := by
  intro h
  obtain ⟨starts, -⟩ := h LostStandby.unpowered
  obtain ⟨t, next, -, -, -, lost, -⟩ := starts rfl rfl
  rw [exec_pwrEnAssert_off rfl rfl] at next
  injection next with same
  exact not_volatileLost_railsUp rfl (same ▸ lost)
end
